-- ==== Sys2Proof/Word.lean ====
section
/-!
DEFINITION. Word.lean: the 24-bit word of the ZV-824 (spec/00_scope.md R4) and the sizes the model
names.
-/
namespace Sys2Proof

/-- The native word: 24 bits (R1, R4). -/
abbrev Word := BitVec 24

/-- A double word: 48 bits (R1). -/
abbrev DWord := BitVec 48

/-- A byte as a host sees it (R384). -/
abbrev HByte := BitVec 8

/-- The 40-bit global word address (R26). -/
abbrev GAddr := BitVec 40

/-- The two words of a 48-bit value, low word at the lower address (R4). -/
def DWord.words (v : DWord) : List Word := [v.extractLsb' 0 24, v.extractLsb' 24 24]

/-- A 48-bit value from its low and its high word (R4). -/
def DWord.ofWords (lo hi : Word) : DWord := hi ++ lo

end Sys2Proof
end

