-- ==== Sys2Proof/Syntax.lean ====
section
/-!
DEFINITION. Syntax.lean: the operands of the block's commands and `Instr`, one constructor for each
row of spec/opcode_table.json. The block takes commands and fetches no instruction; the table gives
no row any bits.
-/
namespace Sys2Proof

/-- A logical cluster VC000–VC255 (R15). -/
abbrev Cl := Fin 256

/-- A standing set 0–7 (R99). -/
abbrev Set8 := Fin 8

/-- A sequencer register number 0–15: x, f, c or d (R210). -/
abbrev Reg := Fin 16

/-- A short vector v0–v7 (R210, R212). -/
abbrev VReg := Fin 8

/-- A condition code of R217. -/
abbrev Cond := BitVec 4

/-- The slot of a pair that a short operation stands in (R213, R215). -/
inductive Slot where
  | a
  | b
deriving DecidableEq, Repr

/-- The width of a scalar floating-point operation: F24 or F48 (R219). -/
inductive FWidth where
  | f24
  | f48
deriving DecidableEq, Repr

/-- The 96 bits of a vector order, or of a capability (R82, R242). -/
abbrev Order96 := BitVec 96

/-- A capability as four words in order (R242), presented with a request. -/
abbrev Cap := BitVec 96

/-- A device time in grains (R32). -/
abbrev Time72 := BitVec 72

/-- A hub-matrix master (R20). `cluster n` is logical cluster `n` on the tile-fabric bridge M10. -/
inductive Master where
  | hostA
  | hostB
  | svc0
  | svc1
  | svc2
  | svc3
  | security
  | moverLo
  | moverHi
  | netDma
  | cluster (n : Cl)
  | monitor
deriving DecidableEq, Repr, Inhabited

/-- Who reads a counter register of a cluster: a hub-matrix master, or the cluster's own sequencer
through IO-space in its normal or fast bank (R37, R496). -/
inductive EvcReader where
  | hub (m : Master)
  | normalBank
  | fastBank
deriving DecidableEq, Repr

/-- An external time reference (R70). -/
inductive TimeRef where
  | syncIn
  | trefA
  | trefB
deriving DecidableEq, Repr

/-- What causes a cold reset (R471). -/
inductive ResetCause where
  | powerOn
  | sysRst
  | railLevel
deriving DecidableEq, Repr

/-- What wakes the device from STANDBY (R468). -/
inductive WakeCause where
  | pin
  | alarm
deriving DecidableEq, Repr

/-- The boot flash (R473): runs of bytes with the byte offset each begins at, in rising order. A byte in no run is erased,
0xFF (PRESUMED, log entry 10). -/
structure Flash where
  runs : List (Nat × List HByte)
deriving DecidableEq, Repr, Inhabited

/-- Who makes a handover write: the home cluster's sequencer, with the slot PLOT_CAPSEL, or a
hub-matrix master with the capability its request carries (R180). -/
inductive Handler where
  | sequencer
  | hub (m : Master) (cap : Cap)
deriving DecidableEq, Repr

/-- A plot index: 0–15 local, 16–19 exchange (R178). -/
abbrev Plot := Fin 20

/-- A hub mover channel (R204). -/
abbrev Mover := Fin 32

/-- What a read of one bank row finds (R192, R193): the bank, and a corrected bit or an
uncorrectable row. -/
structure BankErr where
  bank          : Fin 128
  bit           : Fin 104
  uncorrectable : Bool
deriving DecidableEq, Repr

/-- What a read of one deep-store line finds (R202, R203). -/
inductive LineErr where
  | none
  | corrected
  | uncorrectable
deriving DecidableEq, Repr

/-- A converter link 0–15 (R297). -/
abbrev Link16 := Fin 16

/-- Which lock a lane loses (R312). -/
inductive LockKind where
  | block
  | emb
deriving DecidableEq, Repr

/-- A timing pin 0–255 (R317). -/
abbrev Pin := Fin 256

/-- A timing channel or an event channel 0–1,023 (R319, R344). -/
abbrev Chan := Fin 1024

/-- The selector of a task input (R349) that a register write changes. -/
inductive TaskSel where
  | irq (n : Cl) (k : Fin 64)
  | set (n : Cl) (s : Set8)
  | mover (c : Mover)
  | port (p : Fin 40)
deriving DecidableEq, Repr

/-- A packet queue 0–63 (R355). -/
abbrev Pq := Fin 64

/-- A network port: 0–31 CAN, 32–39 Ethernet (R363). -/
abbrev Port := Fin 40

/-- A frame as it reaches a port's pins (R365, R366): the header words H0 and H4–H7, the instant
its leading edge reached the pin, the data bytes and whether its CRC or FCS holds. For Ethernet the
data bytes begin with the destination address. -/
structure NetFrame where
  h0    : Word
  h4    : Word
  h5    : Word
  h6    : Word
  h7    : Word
  time  : Time72
  data  : List HByte
  crcOk : Bool
deriving DecidableEq, Repr

/-- A CXL port: 0 is A, 1 is B (R383). -/
abbrev CxlPort := Fin 2

/-- A host access: a read of `size` bytes or a write of bytes (R384, R386). -/
inductive HostAcc where
  | read  (size : Nat)
  | write (data : List HByte)
deriving DecidableEq, Repr

/-- A peer on a field port: a source IPv6 address and port, or a source MAC address (R412). Byte 0 of an address lies in
bits [7:0] (R416). -/
inductive NfpPeer where
  | udp   (addr : BitVec 128) (port : BitVec 16)
  | ether (mac : BitVec 48)
deriving DecidableEq, Repr, Inhabited

/-- The path a dictionary request takes (R411, R414, R415): a field port with the peer and the source MAC address of its
frame, a CXL mailbox, the monitor, or a mailbox that has completed without the request's response (R398). -/
inductive NfpPath where
  | field (port : Fin 2) (peer : NfpPeer) (mac : BitVec 48)
  | mailbox (m : Fin 8)
  | monitor
  | lost
deriving DecidableEq, Repr, Inhabited

/-- How a request comes (R411, R414): a UDP datagram with its addresses, ports and source MAC address, an Ethernet frame
with its source MAC address and EtherType, or a CXL mailbox, whose registers hold the message. -/
inductive NfpVia where
  | udp     (port : Fin 2) (mac : BitVec 48) (src : BitVec 128) (srcPort : BitVec 16) (dst : BitVec 128) (dstPort : BitVec 16)
            (msg : List HByte)
  | ether   (port : Fin 2) (mac : BitVec 48) (etherType : BitVec 16) (msg : List HByte)
  | mailbox (m : Fin 8)
deriving DecidableEq, Repr

/-- One item of a WRITE_MULTI (R409). -/
structure NfpItem where
  idx  : BitVec 16
  sub  : BitVec 8
  ty   : BitVec 4
  data : List Word
deriving DecidableEq, Repr

/-- A unit that can be fenced (R441). -/
abbrev Unit7 := Fin 7

/-- A power domain 0–292 (R475). -/
abbrev Dom := Fin 293

/-- A monitored rail 0–14 (R478). -/
abbrev Rail := Fin 15

/-- The SPDM requests of R381, R460 and R461. -/
inductive SpdmKind where
  | getCertificate
  | challenge
  | getMeasurements
deriving DecidableEq, Repr

/-- A host's CXL.cache snoop of a device-cache line (R394). -/
inductive SnoopKind where
  | data
  | invalidate
deriving DecidableEq, Repr

/-- A certificate has at most 640 bytes, 3 to a word (R447). -/
def certFits (der : List Word) : Bool := decide (der.length ≤ 214) && decide ((der.getD 213 0).toNat < 2 ^ 8)

/-- The factory's commands in PROVISION (R460): the two certificates, a VENDOR hash, the end. -/
inductive FactoryCmd where
  | identityCert (subjectKey : List Word) (der : List Word)
  | deviceCaCert (der : List Word)
  | vendorHash (k : Fin 2) (hash : BitVec 256)
  | finish
deriving DecidableEq, Repr

/-- The JTAG instructions of R510. -/
inductive JtagInstr where
  | bypass
  | idcode
  | samplePreload
  | extest
  | clamp
  | highz
deriving DecidableEq, Repr, Inhabited

/-- The commands of the block: one constructor for each row of spec/opcode_table.json, with the
row's mnemonic, its rule and its summary. -/
inductive Instr where
  /-- COLD_RESET (R471): Power-on, SYS_RST_N held low for at least 1 µs, or a rail at its reset level returns every domain and register to reset and starts BOOT. -/
  | coldReset (cause : ResetCause) (strap : Bool) (flash : Flash)
  /-- WARM_RESET (R472): A write of PWR_CTL.WARM reinitialises the device without power loss, keeps device time and RWS fields, clears the sealed area and enters BOOT. -/
  | warmReset (flash : Flash)
  /-- WAKE (R468): WAKE_N low or the wake alarm leaves STANDBY: device time is made up, the timing unit catches up, and the cold-reset boot runs. -/
  | wake (cause : WakeCause) (elapsed : Nat) (strap : Bool) (flash : Flash)
  /-- BASE_TICK (R32): The time base master advances device time by 256 grains and strobes every island. -/
  | baseTick
  /-- LOCAL_BASE_TICK (R39): An island advances its replica of device time and compares it with any full-value beacon. -/
  | localBaseTick (n : Cl)
  /-- BASE_FRAME_TICK (R44): At a base frame tick of a running grid, the time base master delivers frame ticks to the islands and the event fabric. -/
  | baseFrameTick
  /-- CLUSTER_TICK_EDGE (R30): At its tick edge a cluster island applies the scheduled handovers, fires the armed sets and raises the frame-tick interrupt. -/
  | clusterTickEdge (n : Cl)
  /-- PRE_OPEN (R158): 40 stream cycles before the tick edge, the vector unit checks the read streams of the set and fills the pre-open buffers of the groups that can start. -/
  | preOpen (n : Cl) (k : Set8)
  /-- GRID_START (R46): A TB_GRID_CTRL write of START schedules the start of frame ticks, and is refused outside ARMED. -/
  | gridStart
  /-- GRID_STOP (R46): A TB_GRID_CTRL write of STOP schedules the stop of frame ticks. -/
  | gridStop
  /-- GRID_HOLD (R61): A TB_GRID_CTRL write of HOLD schedules a hold at an aligned base frame. -/
  | gridHold
  /-- GRID_RESUME (R61): A TB_GRID_CTRL write of RESUME schedules a resume at an aligned base frame. -/
  | gridResume
  /-- GRID_START_TICK (R60): The pending START takes effect: frame ticks begin, simulation time and PLOT_PHASE become 0, and the device enters RUN. -/
  | gridStartTick
  /-- GRID_STOP_TICK (R49): The pending STOP takes effect: the device enters ARMED with safe outputs, and running sets are abandoned. -/
  | gridStopTick
  /-- GRID_HOLD_TICK (R62): The pending HOLD takes effect: simulation time freezes, and no set fires, no handover is made and no output is released. -/
  | gridHoldTick
  /-- GRID_RESUME_TICK (R63): The pending RESUME takes effect: simulation time advances and the clusters fire again. -/
  | gridResumeTick
  /-- TB_STEP (R69): A TB_CTRL write of STEP schedules a load of TB_SET into device time, and is refused while the grid runs. -/
  | tbStep
  /-- TB_STEP_LOAD (R69): At the next base tick the time base loads TB_SET into device time and sends a full-value beacon. -/
  | tbStepLoad
  /-- TB_SLEW_WRITE (R68): A TB_SLEW write stores the rate offset and clamps it to ±100,000 with SLEW_LIMIT set. -/
  | tbSlewWrite (v : Word)
  /-- TB_TIME_W0_READ (R35): A read of TB_TIME_W0 returns the low bits and snapshots the upper words for the port or cluster. -/
  | tbTimeW0Read (m : Master)
  /-- TB_LOCAL_W0_READ (R37): A read of TB_LOCAL_W0 returns the replica low bits and snapshots the upper words for the register bank. -/
  | tbLocalW0Read (n : Cl)
  /-- TB_FRAME_W0_READ (R42): A read of TB_FRAME_W0 returns the current base frame number and snapshots W1. -/
  | tbFrameW0Read (m : Master)
  /-- TB_SIM_W0_READ (R60): A read of TB_SIM_W0 returns the simulation frame number and snapshots W1. -/
  | tbSimW0Read (m : Master)
  /-- SYNC_IN_MARK (R65): A follower receives a compensated mark on SYNC_IN, aligns its device time to a 10 µs multiple and updates SYNC_LOCK. -/
  | syncInMark (arrival : Time72)
  /-- REFERENCE_LOSS (R71): After 30 ns without an edge, or after missing marks, the time base declares its reference lost and switches source or enters holdover. -/
  | referenceLoss (r : TimeRef)
  /-- REFERENCE_REVERT (R73): With REVERT = 1, a higher-priority reference present without loss for 1 ms becomes active again. -/
  | referenceRevert
  /-- SYSREF_PULSE (R300): Each enabled SYSREF output emits an 8 ns pulse at its scheduled instant. -/
  | sysrefPulse (o : Fin 4)
  /-- SYSREF_GO (R300): A JL_SYSREF_CFG write of GO emits COUNT pulses in gapped mode. -/
  | sysrefGo
  /-- ORDER_ISSUE_QUEUE (R97): A vector order with ISS QUEUE reads its descriptors and enters the order queue, stalling while the queue is full. -/
  | orderIssueQueue (n : Cl) (ord : Order96)
  /-- ORDER_ISSUE_FENCE (R97): A vector order with ISS FENCE queues a group that starts only after every earlier group has completed. -/
  | orderIssueFence (n : Cl) (ord : Order96)
  /-- ORDER_APPEND (R99): A vector order with ISS APPEND is written into the slot of the set under build. -/
  | orderAppend (n : Cl) (ord : Order96)
  /-- ORDER_ISSUE_NOTIFY (R97): A vector order with ISS NOTIFY queues a group whose completion raises the vector-done interrupt. -/
  | orderIssueNotify (n : Cl) (ord : Order96)
  /-- GROUP_START (R156): A group whose extents, mask registers, pipes and streams are free starts and streams its steps through the pipes. -/
  | groupStart (n : Cl) (g : Nat)
  /-- GROUP_COMPLETE (R163): A group completes when its last word reaches the store or its reduction result is written, and its flags accrue. -/
  | groupComplete (n : Cl) (g : Nat)
  /-- GROUP_RESTART (R286): After the handler returns, an abandoned group restarts whole from element 0 with its copied descriptors. -/
  | groupRestart (n : Cl) (g : Nat)
  /-- HELD_EXCEPTION_RECORD (R106): A held exception is recorded in the VU_EXC registers in the cycle after VALID becomes 0, and the trap is raised again. -/
  | heldExceptionRecord (n : Cl)
  /-- WRITE_BUFFER_DRAIN (R166): A result word in a write buffer reaches its bank in the first cycle in which no read needs that bank. -/
  | writeBufferDrain (n : Cl) (g : Nat)
  /-- VADD (R88): Vector add d = s1 + s2. -/
  | vadd (n : Cl) (g : Nat)
  /-- VSUB (R88): Vector subtract d = s1 − s2. -/
  | vsub (n : Cl) (g : Nat)
  /-- VRSUB (R88): Vector reverse subtract d = s2 − s1. -/
  | vrsub (n : Cl) (g : Nat)
  /-- VADDS (R88): Vector add of the scalar k. -/
  | vadds (n : Cl) (g : Nat)
  /-- VABS (R88): Vector absolute value. -/
  | vabs (n : Cl) (g : Nat)
  /-- VNEG (R88): Vector negation. -/
  | vneg (n : Cl) (g : Nat)
  /-- VMIN (R88): Elementwise minimum. -/
  | vmin (n : Cl) (g : Nat)
  /-- VMAX (R88): Elementwise maximum. -/
  | vmax (n : Cl) (g : Nat)
  /-- VCMP (R125): Compare under FN, writing a mask register or a packed stream. -/
  | vcmp (n : Cl) (g : Nat)
  /-- VSEL (R91): Select s1 or s2 by the mask. -/
  | vsel (n : Cl) (g : Nat)
  /-- VCLMP (R88): Clamp d = min(max(s1, s2), s3). -/
  | vclmp (n : Cl) (g : Nat)
  /-- VMUL (R88): Vector multiply. -/
  | vmul (n : Cl) (g : Nat)
  /-- VMULS (R88): Vector multiply by the scalar k. -/
  | vmuls (n : Cl) (g : Nat)
  /-- VFMA (R116): Fused d = s1 + s2 × s3, rounded once. -/
  | vfma (n : Cl) (g : Nat)
  /-- VFMS (R116): Fused d = s1 − s2 × s3, rounded once. -/
  | vfms (n : Cl) (g : Nat)
  /-- VAXPY (R116): Fused d = k × s1 + s2, rounded once. -/
  | vaxpy (n : Cl) (g : Nat)
  /-- VRCP (R145): Correctly rounded reciprocal. -/
  | vrcp (n : Cl) (g : Nat)
  /-- VDIV (R145): Correctly rounded division. -/
  | vdiv (n : Cl) (g : Nat)
  /-- VSQRT (R145): Correctly rounded square root. -/
  | vsqrt (n : Cl) (g : Nat)
  /-- VRSQRT (R145): Correctly rounded reciprocal square root. -/
  | vrsqrt (n : Cl) (g : Nat)
  /-- VAND (R88): Bitwise AND. -/
  | vand (n : Cl) (g : Nat)
  /-- VOR (R88): Bitwise OR. -/
  | vor (n : Cl) (g : Nat)
  /-- VXOR (R88): Bitwise XOR. -/
  | vxor (n : Cl) (g : Nat)
  /-- VNOT (R88): Bitwise NOT. -/
  | vnot (n : Cl) (g : Nat)
  /-- VSHL (R130): Shift left by SH. -/
  | vshl (n : Cl) (g : Nat)
  /-- VSHR (R130): Logical shift right by SH. -/
  | vshr (n : Cl) (g : Nat)
  /-- VSAR (R130): Arithmetic shift right by SH. -/
  | vsar (n : Cl) (g : Nat)
  /-- VCVT (R127): Convert from TYPE to XT. -/
  | vcvt (n : Cl) (g : Nat)
  /-- VMOV (R88): Copy s1 to d. -/
  | vmov (n : Cl) (g : Nat)
  /-- VFILL (R88): Fill d with the scalar k. -/
  | vfill (n : Cl) (g : Nat)
  /-- MLD (R88): Load a mask register from a packed stream. -/
  | mld (n : Cl) (g : Nat)
  /-- MST (R88): Store a mask register to a packed stream. -/
  | mst (n : Cl) (g : Nat)
  /-- MCNT (R78): Count the 1 bits among the N bits of a mask register into one word. -/
  | mcnt (n : Cl) (g : Nat)
  /-- RSUM (R136): Sum reduction times k, rounded once. -/
  | rsum (n : Cl) (g : Nat)
  /-- RDOT (R136): Dot product times k, rounded once. -/
  | rdot (n : Cl) (g : Nat)
  /-- RSUMSQ (R136): Sum of squares times k. -/
  | rsumsq (n : Cl) (g : Nat)
  /-- RMAX (R126): Maximum reduction. -/
  | rmax (n : Cl) (g : Nat)
  /-- RMIN (R126): Minimum reduction. -/
  | rmin (n : Cl) (g : Nat)
  /-- RIMAX (R126): Lowest index of the maximum. -/
  | rimax (n : Cl) (g : Nat)
  /-- RSEGDOT (R88): Segmented dot products closed by a packed end stream. -/
  | rsegdot (n : Cl) (g : Nat)
  /-- RSEGSUM (R88): Segmented sums closed by a packed end stream. -/
  | rsegsum (n : Cl) (g : Nat)
  /-- VIOTA (R88): d[i] = k + i. -/
  | viota (n : Cl) (g : Nat)
  /-- VCMPR (R91): Compress the active elements into d. -/
  | vcmpr (n : Cl) (g : Nat)
  /-- VEXPD (R91): Expand the source into the active positions. -/
  | vexpd (n : Cl) (g : Nat)
  /-- VINTP (R89): Table interpolation at s1. -/
  | vintp (n : Cl) (g : Nat)
  /-- SET_BUILD_OPEN (R99): A VU_SETn_CTL write of BUILD = 1 opens a set build and clears BUILT and COUNT, or is refused. -/
  | setBuildOpen (n : Cl) (k : Set8) (start : BitVec 7) (preopen : Bool)
  /-- SET_BUILD_CLOSE (R100): A VU_SETn_CTL write of BUILD = 0 checks the set and copies d0–d15 into its table, setting BUILT on success. -/
  | setBuildClose (n : Cl) (k : Set8)
  /-- SET_ARM (R101): A VU_SETn_CTL write of ARM = 1 arms a built set, and is refused with BUILT = 0. -/
  | setArm (n : Cl) (k : Set8)
  /-- SET_DISARM (R101): A VU_SETn_CTL write of ARM = 0 disarms a set. -/
  | setDisarm (n : Cl) (k : Set8)
  /-- SDESC_CMD (R103): A VU_SDESC_CMD write stages a descriptor change for a built set and sets DPEND. -/
  | sdescCmd (n : Cl) (k : Set8) (d : Reg)
  /-- SET_FIRE_EVENT (R104): An event on its channel fires a set armed to that channel, or is dropped with OVR set while the set runs. -/
  | setFireEvent (n : Cl) (k : Set8)
  /-- VU_CONF_CLEAR (R169): A VU_CONF_CTL write of CLEAR sets all conflict counters to 0. -/
  | vuConfClear (n : Cl)
  /-- VU_CONF_W0_READ (R169): A read of VU_CONF_n_W0 snapshots W1 for the register bank. -/
  | vuConfW0Read (n : Cl) (i : Fin 12)
  /-- VU_FSLOT_CLASH_W0_READ (R173): A read of VU_FSLOT_CLASH_W0 snapshots W1. -/
  | vuFslotClashW0Read (n : Cl)
  /-- SHORT_MOV (R216): Short op rd = xs. -/
  | shortMov (n : Cl) (sl : Slot) (rd : Reg) (sf : Fin 8)
  /-- SHORT_ADD (R216): Short op rd = rd + xs. -/
  | shortAdd (n : Cl) (sl : Slot) (rd : Reg) (sf : Fin 8)
  /-- SHORT_SUB (R216): Short op rd = rd − xs. -/
  | shortSub (n : Cl) (sl : Slot) (rd : Reg) (sf : Fin 8)
  /-- SHORT_AND (R216): Short op rd AND xs. -/
  | shortAnd (n : Cl) (sl : Slot) (rd : Reg) (sf : Fin 8)
  /-- SHORT_OR (R216): Short op rd OR xs. -/
  | shortOr (n : Cl) (sl : Slot) (rd : Reg) (sf : Fin 8)
  /-- SHORT_XOR (R216): Short op rd XOR xs. -/
  | shortXor (n : Cl) (sl : Slot) (rd : Reg) (sf : Fin 8)
  /-- SHORT_ADDI (R216): Short op rd + (s + 1). -/
  | shortAddi (n : Cl) (sl : Slot) (rd : Reg) (sf : Fin 8)
  /-- SHORT_SUBI (R216): Short op rd − (s + 1). -/
  | shortSubi (n : Cl) (sl : Slot) (rd : Reg) (sf : Fin 8)
  /-- SHORT_SHLI (R216): Short op shift left by s + 1. -/
  | shortShli (n : Cl) (sl : Slot) (rd : Reg) (sf : Fin 8)
  /-- SHORT_SHRI (R216): Short op logical shift right by s + 1. -/
  | shortShri (n : Cl) (sl : Slot) (rd : Reg) (sf : Fin 8)
  /-- SHORT_SARI (R216): Short op arithmetic shift right by s + 1. -/
  | shortSari (n : Cl) (sl : Slot) (rd : Reg) (sf : Fin 8)
  /-- SHORT_MOVI (R216): Short op rd = s. -/
  | shortMovi (n : Cl) (sl : Slot) (rd : Reg) (sf : Fin 8)
  /-- SHORT_CMP (R217): Short op that sets CC from rd − xs. -/
  | shortCmp (n : Cl) (sl : Slot) (rd : Reg) (sf : Fin 8)
  /-- SHORT_SKIP (R234): Short op that skips the next word if the condition holds. -/
  | shortSkip (n : Cl) (sl : Slot) (cond : Cond)
  /-- BRS (R216): Short branch in slot B if the condition holds. -/
  | brs (n : Cl) (cond : Cond) (sf : Fin 8) (hint : Bool)
  /-- NOP (R216): No operation. -/
  | nop (n : Cl) (sl : Slot)
  /-- ALU_ADD (R219): rd = rs + rt. -/
  | aluAdd (n : Cl) (rd : Reg) (rs : Reg) (rt : Reg)
  /-- ALU_SUB (R219): rd = rs − rt. -/
  | aluSub (n : Cl) (rd : Reg) (rs : Reg) (rt : Reg)
  /-- ALU_AND (R219): rd = rs AND rt. -/
  | aluAnd (n : Cl) (rd : Reg) (rs : Reg) (rt : Reg)
  /-- ALU_OR (R219): rd = rs OR rt. -/
  | aluOr (n : Cl) (rd : Reg) (rs : Reg) (rt : Reg)
  /-- ALU_XOR (R219): rd = rs XOR rt. -/
  | aluXor (n : Cl) (rd : Reg) (rs : Reg) (rt : Reg)
  /-- ALU_ANDN (R219): rd = rs AND NOT rt. -/
  | aluAndn (n : Cl) (rd : Reg) (rs : Reg) (rt : Reg)
  /-- ALU_SHL (R219): Shift left by rt[4:0]. -/
  | aluShl (n : Cl) (rd : Reg) (rs : Reg) (rt : Reg)
  /-- ALU_SHR (R219): Logical shift right by rt[4:0]. -/
  | aluShr (n : Cl) (rd : Reg) (rs : Reg) (rt : Reg)
  /-- ALU_SAR (R219): Arithmetic shift right by rt[4:0]. -/
  | aluSar (n : Cl) (rd : Reg) (rs : Reg) (rt : Reg)
  /-- ALU_ROL (R219): Rotate left. -/
  | aluRol (n : Cl) (rd : Reg) (rs : Reg) (rt : Reg)
  /-- ALU_MIN (R219): Signed minimum. -/
  | aluMin (n : Cl) (rd : Reg) (rs : Reg) (rt : Reg)
  /-- ALU_MAX (R219): Signed maximum. -/
  | aluMax (n : Cl) (rd : Reg) (rs : Reg) (rt : Reg)
  /-- ALU_MINU (R219): Unsigned minimum. -/
  | aluMinu (n : Cl) (rd : Reg) (rs : Reg) (rt : Reg)
  /-- ALU_MAXU (R219): Unsigned maximum. -/
  | aluMaxu (n : Cl) (rd : Reg) (rs : Reg) (rt : Reg)
  /-- ALU_SLT (R219): Signed set-less-than. -/
  | aluSlt (n : Cl) (rd : Reg) (rs : Reg) (rt : Reg)
  /-- ALU_SLTU (R219): Unsigned set-less-than. -/
  | aluSltu (n : Cl) (rd : Reg) (rs : Reg) (rt : Reg)
  /-- ALU_ADDS (R219): Add that writes the carry to C. -/
  | aluAdds (n : Cl) (rd : Reg) (rs : Reg) (rt : Reg)
  /-- ALU_ADDX (R219): Add with carry in and carry out. -/
  | aluAddx (n : Cl) (rd : Reg) (rs : Reg) (rt : Reg)
  /-- ALU_SUBS (R219): Subtract that writes no-borrow to C. -/
  | aluSubs (n : Cl) (rd : Reg) (rs : Reg) (rt : Reg)
  /-- ALU_SUBX (R219): Subtract with borrow. -/
  | aluSubx (n : Cl) (rd : Reg) (rs : Reg) (rt : Reg)
  /-- ALU_CLZ (R219): Count leading zeros. -/
  | aluClz (n : Cl) (rd : Reg) (rs : Reg)
  /-- ALU_POPC (R219): Population count. -/
  | aluPopc (n : Cl) (rd : Reg) (rs : Reg)
  /-- ADDI (R218): rd = rs + simm9. -/
  | addi (n : Cl) (rd : Reg) (rs : Reg) (imm : BitVec 9)
  /-- ANDI (R218): rd = rs AND uimm9. -/
  | andi (n : Cl) (rd : Reg) (rs : Reg) (imm : BitVec 9)
  /-- ORI (R218): rd = rs OR uimm9. -/
  | ori (n : Cl) (rd : Reg) (rs : Reg) (imm : BitVec 9)
  /-- XORI (R218): rd = rs XOR uimm9. -/
  | xori (n : Cl) (rd : Reg) (rs : Reg) (imm : BitVec 9)
  /-- SHI_SHL (R218): Immediate shift left. -/
  | shiShl (n : Cl) (rd : Reg) (rs : Reg) (count : BitVec 5)
  /-- SHI_SHR (R218): Immediate logical shift right. -/
  | shiShr (n : Cl) (rd : Reg) (rs : Reg) (count : BitVec 5)
  /-- SHI_SAR (R218): Immediate arithmetic shift right. -/
  | shiSar (n : Cl) (rd : Reg) (rs : Reg) (count : BitVec 5)
  /-- SHI_ROL (R218): Immediate rotate left. -/
  | shiRol (n : Cl) (rd : Reg) (rs : Reg) (count : BitVec 5)
  /-- CMP (R217): Long compare that sets CC from rs − rt. -/
  | cmp (n : Cl) (rs : Reg) (rt : Reg)
  /-- CMPI (R217): Compare with an immediate. -/
  | cmpi (n : Cl) (rs : Reg) (imm : BitVec 9)
  /-- LIL (R218): Load an unsigned 13-bit immediate. -/
  | lil (n : Cl) (rd : Reg) (imm : BitVec 13)
  /-- LIS (R218): Load a signed 13-bit immediate. -/
  | lis (n : Cl) (rd : Reg) (imm : BitVec 13)
  /-- LIH (R218): Load the high 13 bits. -/
  | lih (n : Cl) (rd : Reg) (imm : BitVec 13)
  /-- LD (R221): Load one word from D-space under c[rs]. -/
  | ld (n : Cl) (rd : Reg) (rs : Reg) (imm : BitVec 9)
  /-- LDD (R221): Load two words. -/
  | ldd (n : Cl) (rd : Reg) (rs : Reg) (imm : BitVec 9)
  /-- ST (R228): Store one word through the store buffer. -/
  | st (n : Cl) (rd : Reg) (rs : Reg) (imm : BitVec 9)
  /-- STD (R228): Store two words. -/
  | std (n : Cl) (rd : Reg) (rs : Reg) (imm : BitVec 9)
  /-- LDF (R221): Load an f register. -/
  | ldf (n : Cl) (fd : Reg) (rs : Reg) (imm : BitVec 9)
  /-- STF (R221): Store an f register. -/
  | stf (n : Cl) (fd : Reg) (rs : Reg) (imm : BitVec 9)
  /-- LDV (R221): Load a short vector. -/
  | ldv (n : Cl) (vd : VReg) (rs : Reg) (imm : BitVec 9)
  /-- STV (R221): Store a short vector. -/
  | stv (n : Cl) (vd : VReg) (rs : Reg) (imm : BitVec 9)
  /-- TRD (R220): Read an I-space word under a capability. -/
  | trd (n : Cl) (rd : Reg) (rs : Reg) (imm : BitVec 9)
  /-- SYNC (R230): Stall until the store buffer is empty. -/
  | sync (n : Cl)
  /-- IN (R223): IO read at an absolute address under IOCAP. -/
  | ioIn (n : Cl) (rd : Reg) (io : BitVec 13)
  /-- OUT (R223): IO write at an absolute address under IOCAP. -/
  | ioOut (n : Cl) (rd : Reg) (io : BitVec 13)
  /-- INR (R223): IO read at x[rs] + uimm9 under c[rs]. -/
  | ioInr (n : Cl) (rd : Reg) (rs : Reg) (imm : BitVec 9)
  /-- OUTR (R223): IO write at x[rs] + uimm9 under c[rs]. -/
  | ioOutr (n : Cl) (rd : Reg) (rs : Reg) (imm : BitVec 9)
  /-- STORE_BUFFER_DRAIN (R228): A buffered store drains to memory in program order. -/
  | storeBufferDrain (n : Cl)
  /-- BRA (R231): Unconditional relative branch. -/
  | bra (n : Cl) (off : BitVec 17)
  /-- CALL (R211): Call: links x14, advances CWP and pushes the return stack. -/
  | call (n : Cl) (off : BitVec 17)
  /-- BC (R231): Conditional branch with a hint. -/
  | bc (n : Cl) (cond : Cond) (hint : Bool) (off : BitVec 12)
  /-- LINK (R211): Call without a window change. -/
  | link (n : Cl) (off : BitVec 17)
  /-- JR (R218): Jump to x[rs]. -/
  | jr (n : Cl) (rs : Reg)
  /-- CALLR (R218): Register call. -/
  | callr (n : Cl) (rs : Reg)
  /-- LINKR (R218): Register link. -/
  | linkr (n : Cl) (rs : Reg)
  /-- RET (R232): Return to x14, moving CWP back and popping the return stack. -/
  | ret (n : Cl)
  /-- RETL (R232): Return to x14 without a window change. -/
  | retl (n : Cl)
  /-- SKIP (R234): Skip the next word if the condition holds. -/
  | skip (n : Cl) (cond : Cond)
  /-- SKB (R234): Skip the next word on a bit of x[rs]. -/
  | skb (n : Cl) (rs : Reg) (sense : Bool) (bit : BitVec 5)
  /-- LOOP (R235): Start a zero-overhead loop with a count in x[rs]. -/
  | loop (n : Cl) (rs : Reg) (len : BitVec 9)
  /-- LOOPI (R235): Start a zero-overhead loop with an immediate count. -/
  | loopi (n : Cl) (count : BitVec 8) (len : BitVec 9)
  /-- SYS (R252): System call through ENTRY_PC and ENTRY_CAP. -/
  | sys (n : Cl) (service : BitVec 9)
  /-- CLR_IE (R255): Disable asynchronous events. -/
  | clrIe (n : Cl)
  /-- SET_IE (R255): Enable asynchronous events. -/
  | setIe (n : Cl)
  /-- RETI (R262): Return from a trap, popping the frame or restoring from the fast-level state. -/
  | reti (n : Cl)
  /-- SRET (R253): Return from a system call. -/
  | sret (n : Cl)
  /-- SWITCH (R271): Context switch through switch records. -/
  | switch (n : Cl) (rs : Reg)
  /-- WAIT (R230): Stall until an interrupt is taken. -/
  | wait (n : Cl)
  /-- VSYNC (R238): Stall until the earlier sequencer-issued groups have completed. -/
  | vsync (n : Cl)
  /-- DRD (R218): Read a descriptor word. -/
  | drd (n : Cl) (rd : Reg) (d : Reg) (w : BitVec 3)
  /-- DWR (R218): Write a descriptor word. -/
  | dwr (n : Cl) (d : Reg) (rs : Reg) (w : BitVec 3)
  /-- DADD (R218): Add to a descriptor BASE. -/
  | dadd (n : Cl) (d : Reg) (rs : Reg)
  /-- DLD (R218): Load a descriptor. -/
  | dld (n : Cl) (d : Reg) (rs : Reg) (imm : BitVec 9)
  /-- DSTO (R218): Store a descriptor. -/
  | dsto (n : Cl) (d : Reg) (rs : Reg) (imm : BitVec 9)
  /-- CLD (R248): Load a capability and verify its TAG. -/
  | cld (n : Cl) (cd : Reg) (rs : Reg) (imm : BitVec 9)
  /-- CST (R248): Store a capability, which requires GLB. -/
  | cst (n : Cl) (cd : Reg) (rs : Reg) (imm : BitVec 9)
  /-- CBND (R248): Narrow the bounds of a capability. -/
  | cbnd (n : Cl) (cd : Reg) (cs : Reg) (rt : Reg) (sc : BitVec 4)
  /-- CPERM (R248): Narrow the permissions of a capability. -/
  | cperm (n : Cl) (cd : Reg) (cs : Reg) (rt : Reg)
  /-- CMOV (R248): Copy a capability. -/
  | cmov (n : Cl) (cd : Reg) (cs : Reg)
  /-- CCLR (R248): Clear a slot to null. -/
  | cclr (n : Cl) (cd : Reg)
  /-- CRD (R248): Read a capability word or its validity. -/
  | crd (n : Cl) (rd : Reg) (cs : Reg) (w : BitVec 4)
  /-- CSPR (R251): Read a special capability. -/
  | cspr (n : Cl) (cd : Reg) (k : BitVec 4)
  /-- CSPW (R251): Write a special capability. -/
  | cspw (n : Cl) (cs : Reg) (k : BitVec 4)
  /-- FOP_ADD (R240): Scalar FP add. -/
  | fopAdd (n : Cl) (w : FWidth) (fd : Reg) (fs : Reg) (ft : Reg)
  /-- FOP_SUB (R240): Scalar FP subtract. -/
  | fopSub (n : Cl) (w : FWidth) (fd : Reg) (fs : Reg) (ft : Reg)
  /-- FOP_MUL (R240): Scalar FP multiply. -/
  | fopMul (n : Cl) (w : FWidth) (fd : Reg) (fs : Reg) (ft : Reg)
  /-- FOP_MIN (R240): Scalar FP minimum. -/
  | fopMin (n : Cl) (w : FWidth) (fd : Reg) (fs : Reg) (ft : Reg)
  /-- FOP_MAX (R240): Scalar FP maximum. -/
  | fopMax (n : Cl) (w : FWidth) (fd : Reg) (fs : Reg) (ft : Reg)
  /-- FOP_ABS (R240): Scalar FP absolute value. -/
  | fopAbs (n : Cl) (w : FWidth) (fd : Reg) (fs : Reg)
  /-- FOP_NEG (R240): Scalar FP negate. -/
  | fopNeg (n : Cl) (w : FWidth) (fd : Reg) (fs : Reg)
  /-- FOP_MOV (R240): Scalar FP move. -/
  | fopMov (n : Cl) (w : FWidth) (fd : Reg) (fs : Reg)
  /-- FMA_ADD (R218): fd = fd + fs × ft. -/
  | fmaAdd (n : Cl) (w : FWidth) (fd : Reg) (fs : Reg) (ft : Reg)
  /-- FMA_SUB (R218): fd = fd − fs × ft. -/
  | fmaSub (n : Cl) (w : FWidth) (fd : Reg) (fs : Reg) (ft : Reg)
  /-- FCMP (R217): FP compare into CC. -/
  | fcmp (n : Cl) (w : FWidth) (sig : Bool) (fs : Reg) (ft : Reg)
  /-- FCVT_F24_TO_F48 (R219): Convert F24 to F48. -/
  | fcvtF24ToF48 (n : Cl) (fd : Reg) (fs : Reg)
  /-- FCVT_F48_TO_F24 (R219): Convert F48 to F24. -/
  | fcvtF48ToF24 (n : Cl) (fd : Reg) (fs : Reg)
  /-- FCVT_I24_TO_F24 (R219): Convert I24 to F24. -/
  | fcvtI24ToF24 (n : Cl) (fd : Reg) (rs : Reg)
  /-- FCVT_I24_TO_F48 (R219): Convert I24 to F48. -/
  | fcvtI24ToF48 (n : Cl) (fd : Reg) (rs : Reg)
  /-- FCVT_F24_TO_I24 (R219): Convert F24 to I24. -/
  | fcvtF24ToI24 (n : Cl) (rd : Reg) (fs : Reg)
  /-- FCVT_F48_TO_I24 (R219): Convert F48 to I24. -/
  | fcvtF48ToI24 (n : Cl) (rd : Reg) (fs : Reg)
  /-- FMX_X_TO_F_LOW (R219): fd[23:0] = x[rs]. -/
  | fmxXToFLow (n : Cl) (fd : Reg) (rs : Reg)
  /-- FMX_X_TO_F_HIGH (R219): fd[47:24] = x[rs]. -/
  | fmxXToFHigh (n : Cl) (fd : Reg) (rs : Reg)
  /-- FMX_F_LOW_TO_X (R219): x[rd] = fs[23:0]. -/
  | fmxFLowToX (n : Cl) (rd : Reg) (fs : Reg)
  /-- FMX_F_HIGH_TO_X (R219): x[rd] = fs[47:24]. -/
  | fmxFHighToX (n : Cl) (rd : Reg) (fs : Reg)
  /-- FDIV_DIV (R147): Scalar FP divide. -/
  | fdivDiv (n : Cl) (w : FWidth) (fd : Reg) (fs : Reg) (ft : Reg)
  /-- FDIV_RCP (R147): Scalar FP reciprocal. -/
  | fdivRcp (n : Cl) (w : FWidth) (fd : Reg) (fs : Reg)
  /-- FDIV_SQRT (R147): Scalar FP square root. -/
  | fdivSqrt (n : Cl) (w : FWidth) (fd : Reg) (fs : Reg)
  /-- FDIV_RSQRT (R147): Scalar FP reciprocal square root. -/
  | fdivRsqrt (n : Cl) (w : FWidth) (fd : Reg) (fs : Reg)
  /-- VOP4_ADD (R219): Four-lane F24 add. -/
  | vop4Add (n : Cl) (vd : VReg) (va : VReg) (vb : VReg)
  /-- VOP4_SUB (R219): Four-lane F24 subtract. -/
  | vop4Sub (n : Cl) (vd : VReg) (va : VReg) (vb : VReg)
  /-- VOP4_MUL (R219): Four-lane F24 multiply. -/
  | vop4Mul (n : Cl) (vd : VReg) (va : VReg) (vb : VReg)
  /-- VOP4_MIN (R219): Four-lane F24 minimum. -/
  | vop4Min (n : Cl) (vd : VReg) (va : VReg) (vb : VReg)
  /-- VOP4_MAX (R219): Four-lane F24 maximum. -/
  | vop4Max (n : Cl) (vd : VReg) (va : VReg) (vb : VReg)
  /-- VOP4_ABS (R219): Four-lane F24 absolute value. -/
  | vop4Abs (n : Cl) (vd : VReg) (va : VReg)
  /-- VOP4_NEG (R219): Four-lane F24 negate. -/
  | vop4Neg (n : Cl) (vd : VReg) (va : VReg)
  /-- VOP4_MOV (R219): Four-lane F24 move. -/
  | vop4Mov (n : Cl) (vd : VReg) (va : VReg)
  /-- VFMA4_ADD (R218): Four-lane vd = vd + va × vb. -/
  | vfma4Add (n : Cl) (vd : VReg) (va : VReg) (vb : VReg)
  /-- VFMA4_SUB (R218): Four-lane vd = vd − va × vb. -/
  | vfma4Sub (n : Cl) (vd : VReg) (va : VReg) (vb : VReg)
  /-- VDIV4_DIV (R147): Four-lane divide. -/
  | vdiv4Div (n : Cl) (vd : VReg) (va : VReg) (vb : VReg)
  /-- VDIV4_RCP (R147): Four-lane reciprocal. -/
  | vdiv4Rcp (n : Cl) (vd : VReg) (va : VReg)
  /-- VDIV4_SQRT (R147): Four-lane square root. -/
  | vdiv4Sqrt (n : Cl) (vd : VReg) (va : VReg)
  /-- VDIV4_RSQRT (R147): Four-lane reciprocal square root. -/
  | vdiv4Rsqrt (n : Cl) (vd : VReg) (va : VReg)
  /-- VLANE_WRITE (R219): Write lane L of a v register from x[rs]. -/
  | vlaneWrite (n : Cl) (vd : VReg) (lane : Fin 4) (rs : Reg)
  /-- VLANE_READ (R219): Read lane L of a v register into x[rd]. -/
  | vlaneRead (n : Cl) (rd : Reg) (lane : Fin 4) (vs : VReg)
  /-- INTERRUPT_INPUT_EVENT (R256): An event on an interrupt input sets its bit in SEQ_IRQ_PEND, merging with a pending one. -/
  | interruptInputEvent (n : Cl) (k : Fin 64)
  /-- INTERRUPT_TAKEN (R257): At a permitted boundary the sequencer takes the highest-priority pending asynchronous event. -/
  | interruptTaken (n : Cl)
  /-- WATCHDOG_EXPIRY (R264): When SEQ_WDOG.COUNT reaches LIMIT at a frame tick, the cluster enters fault-stop. -/
  | watchdogExpiry (n : Cl)
  /-- WINDOW_SPILL (R268): The window engine writes the oldest resident window to the save area. -/
  | windowSpill (n : Cl)
  /-- WINDOW_FILL (R268): The window engine reads a window back from the save area. -/
  | windowFill (n : Cl)
  /-- UCODE_SWITCH (R292): A UCODE_CTL write of SWITCH schedules a switch to the inactive valid half. -/
  | ucodeSwitch (n : Cl)
  /-- UCODE_CANCEL (R292): A UCODE_CTL write of CANCEL removes a scheduled switch. -/
  | ucodeCancel (n : Cl)
  /-- UCODE_OPEN (R290): A UCODE_CTL write of OPEN clears the inactive half's VALID bit and its match table. -/
  | ucodeOpen (n : Cl)
  /-- UCODE_SEAL (R290): A UCODE_CTL write of SEAL sets the half's version and VALID. -/
  | ucodeSeal (n : Cl)
  /-- UCODE_LD_DATA_W5_WRITE (R290): A write of UCODE_LD_DATA_W5 stores a microword or a match entry at UCODE_LD_ADDR. -/
  | ucodeLdDataW5Write (n : Cl) (v : Word)
  /-- PLOT_CFG_WRITE (R181): A handover write of PLOT_CFG hands a plot over at once or stages an alternating plan. -/
  | plotCfgWrite (n : Cl) (i : Plot) (v : Word) (who : Handler)
  /-- PLOT_HO_WRITE (R184): A write of VALID = 1 to PLOT_HO_j_CTL schedules a handover at a frame, or is refused. -/
  | plotHoWrite (n : Cl) (j : Fin 8) (v : Word) (who : Handler)
  /-- PLOT_PORT_A_ACK (R181): Port A acknowledges an exchange-plot ownership change, and PEND clears. -/
  | plotPortAAck (n : Cl) (q : Fin 4)
  /-- MOVER_GO (R206): A PLOT_MVc_CTL write of GO starts a transfer, or arms the channel for triggers. -/
  | moverGo (c : Mover) (ctl : Word)
  /-- MOVER_ABORT (R206): A PLOT_MVc_CTL write of ABORT stops and disarms the channel with CODE 0x7. -/
  | moverAbort (c : Mover)
  /-- MOVER_TRIGGER (R206): An event on TRIG starts one transfer of an armed channel, or is dropped with OVR set. -/
  | moverTrigger (c : Mover)
  /-- MOVER_TRANSFER_DONE (R208): At the end of a transfer or list the channel sets DONE, raises its event and sends any MSI-X. -/
  | moverTransferDone (c : Mover)
  /-- PLOT_MV_DONE_W0_READ (R208): A read of DONE_W0 snapshots W1. -/
  | plotMvDoneW0Read (c : Mover) (m : Master)
  /-- LS_PATROL_SCRUB (R194): Every 4,096 stream cycles the scrubber requests one row of each bank. -/
  | lsPatrolScrub (n : Cl) (row : Fin 512) (errs : List BankErr)
  /-- BANK_SPARE_COPY_COMPLETE (R196): The copy of a failing bank to a spare bank completes, and the bank is remapped at the next tick edge. -/
  | bankSpareCopyComplete (n : Cl) (bank : Fin 128)
  /-- HBM_SCRUB (R203): An HBM controller scrubs every line of its stack at least once every 24 h. -/
  | hbmScrub (st : Fin 4) (line : Nat) (err : LineErr)
  /-- PSEUDO_CHANNEL_COPY_COMPLETE (R203): The copy of a failing pseudo-channel into the spare completes, and the pseudo-channel is remapped. -/
  | pseudoChannelCopyComplete (st : Fin 4)
  /-- LINK_ENABLE (R299): A JL_LINKl_CTL write of EN = 1 checks the configuration and starts lane synchronisation, or sets ERR.CFG. -/
  | linkEnable (l : Link16)
  /-- LINK_DISABLE (R299): A JL_LINKl_CTL write of EN = 0 disables the link. -/
  | linkDisable (l : Link16)
  /-- LINK_UP (R299): At an extended-multiblock boundary with every lane locked, a link becomes UP. -/
  | linkUp (l : Link16)
  /-- CONVERTER_FRAME_RECEIVE (R304): A received converter frame's samples are converted and written to the fill of their window. -/
  | converterFrameReceive (l : Link16) (data : List Word) (crcOk : Bool)
  /-- INGRESS_BUFFER_WRITE (R304): Sample words held in the ingress buffer are written after the plot passes to the I/O side. -/
  | ingressBufferWrite (l : Link16)
  /-- LANE_LOCK_LOSS (R312): A lane losing block or multiblock lock takes its link down, and substitution starts. -/
  | laneLockLoss (lane : Fin 64) (kind : LockKind)
  /-- LINK_RESUME (R313): A down link regains alignment and resumes at an extended-multiblock boundary. -/
  | linkResume (l : Link16)
  /-- LINK_DOWN_TIMEOUT (R315): A receive link down for 1 ms sets the LINK degrade reason. -/
  | linkDownTimeout (l : Link16)
  /-- EGRESS_RELEASE (R50): At the release instant, the transmit link sends the output fill's samples. -/
  | egressRelease (l : Link16)
  /-- JL_CNT_W0_READ (R316): A read of a link counter W0 snapshots W1. -/
  | jlCntW0Read (l : Link16) (i : Fin 5) (m : Master)
  /-- BANK_SUPPLY_CHANGE (R317): A timing bank's supply changes PWRGOOD or MISMATCH, and the bank goes down or up. -/
  | bankSupplyChange (b : Fin 8) (mv : Nat)
  /-- BANK_CFG_WRITE (R318): A TMC_BANKb_CFG write changes V33 or clears MISMATCH, and is refused while a pin drives. -/
  | bankCfgWrite (b : Fin 8) (v : Word)
  /-- PIN_EDGE (R320): An edge at a timing pin is timestamped by its capture channels and steps its PIN counters. -/
  | pinEdge (p : Pin) (level : Bool) (frac : BitVec 8)
  /-- CAP_W0_READ (R321): A read of CAP_W0 clears FULL and snapshots the upper words. -/
  | capW0Read (c : Chan) (m : Master)
  /-- CAPTURE_GROUP_ENABLE (R322): A TMC_CGg_CTL write of EN = 1 checks the group and enables it, or is refused. -/
  | captureGroupEnable (g : Fin 32) (v : Word)
  /-- CAPTURE_FILL_WRITE (R323): A capture group writes its fill for the window into the plot after the handover. -/
  | captureFillWrite (g : Fin 32)
  /-- EDGE_GROUP_ENABLE (R325): A TMC_EGg_CTL write of EN = 1 enables an edge group, or is refused. -/
  | edgeGroupEnable (g : Fin 32) (v : Word)
  /-- SCHEDULED_EDGE (R326): A queued pin action is applied at its instant. -/
  | scheduledEdge (p : Pin)
  /-- COUNTER_STEP (R328): A timing counter steps at its source instant and wraps. -/
  | counterStep (i : Fin 32)
  /-- COUNTER_LOAD (R329): A written TMC_CNTn_VAL loads the counter at the next base tick. -/
  | counterLoad (i : Fin 32)
  /-- TMC_CNT_VAL_READ (R330): A read of an even counter snapshots its CARRY partner. -/
  | tmcCntValRead (i : Fin 32) (m : Master)
  /-- CMP_WRITE (R331): A TMC_CHc_CMP write arms a compare channel and clears MATCH. -/
  | cmpWrite (c : Chan) (v : Word)
  /-- GENERATOR_STEP (R333): A frame generator steps, reloads and updates its output. -/
  | generatorStep (g : Fin 64)
  /-- GLOBAL_START_GO (R336): A TMC_GCTL write of GO schedules the global generator start. -/
  | globalStartGo
  /-- GLOBAL_START (R336): At the scheduled base tick, every armed generator makes its start step. -/
  | globalStart
  /-- GENERATOR_STOP_ALL (R336): A TMC_GCTL write of STOP stops every generator at the next base tick. -/
  | generatorStopAll
  /-- GENERATOR_ARM (R337): A write of ARM = 1 to a single generator starts it at the next base tick. -/
  | generatorArm (g : Fin 64)
  /-- GENERATOR_DISARM (R337): A write of ARM = 0 stops a generator at its next step. -/
  | generatorDisarm (g : Fin 64)
  /-- TMC_CNT_W0_READ (R341): A read of a timing-unit counter W0 snapshots W1. -/
  | tmcCntW0Read (i : Fin 3) (m : Master)
  /-- EVENT_DELIVERY (R344): An enabled channel delivers an event in the cycle after its source fires, merging and gating as needed. -/
  | eventDelivery (c : Chan)
  /-- CHANNEL_SWTRIG (R344): A write of EVF_CHc_CFG.SWTRIG fires the channel once. -/
  | channelSwtrig (c : Chan)
  /-- HUB_SWTRIG (R342): A write of EVF_SWTRIG fires hub software source 0xC00 + IDX. -/
  | hubSwtrig (idx : Fin 64)
  /-- EVF_SWEV_FIRE (R342): A write of EVF_SWEV.FIRE fires the cluster's software event source. -/
  | evfSwevFire (n : Cl)
  /-- TASK_BINDING_WRITE (R350): A selector write binds a task input to a channel, and is refused as a fork while FORKEN is 0. -/
  | taskBindingWrite (t : TaskSel) (v : Word)
  /-- FORKEN_FALL (R350): When FORKEN falls, each fork keeps its first task input and the others are unbound. -/
  | forkenFall
  /-- LOGIC_CELL_OUTPUT (R352): A logic cell registers its LUT result and fires its output event. -/
  | logicCellOutput (x : Fin 512)
  /-- PQ_ENABLE (R355): A write of EN = 1 to a packet queue checks its range and enables it. -/
  | pqEnable (f : Pq) (v : Word)
  /-- PQ_DISABLE (R355): A write of EN = 0 disables a queue and discards its contents. -/
  | pqDisable (f : Pq)
  /-- PQ_WR (R356): A word written to WR joins the open packet, or is held while no word is free. -/
  | pqWr (f : Pq) (v : Word)
  /-- PQ_WR_LAST (R356): A word written to WR_LAST joins and commits the open packet. -/
  | pqWrLast (f : Pq) (v : Word)
  /-- PQ_HELD_WRITE_COMPLETE (R358): A held write completes once a read frees a word, or a flush ends it. -/
  | pqHeldWriteComplete (f : Pq)
  /-- PQ_RD (R360): A read of RD returns the oldest committed word, or underruns. -/
  | pqRd (f : Pq)
  /-- PQ_REWIND (R357): A CTL write of REWIND discards the open packet. -/
  | pqRewind (f : Pq)
  /-- PQ_FLUSH (R361): A CTL write of FLUSH discards every committed word and the open packet. -/
  | pqFlush (f : Pq)
  /-- PQ_STALE_TIMEOUT (R359): An open packet idle for STALE µs is rewound, and the queue enters the discard state. -/
  | pqStaleTimeout (f : Pq)
  /-- NET_FRAME_RECEIVE (R366): A port timestamps a received frame, filters it and writes a packet into RXQ. -/
  | netFrameReceive (p : Port) (fr : NetFrame)
  /-- NET_FRAME_LAUNCH (R370): A due timed frame leaves the port at its instant, or late with DELAYED set. -/
  | netFrameLaunch (p : Port)
  /-- TXQ_SEND (R371): The port sends a TXQ packet and writes a confirmation packet if TXC is set. -/
  | txqSend (p : Port)
  /-- TXQ_TRIGGER (R371): An event on the port's trigger channel sends one waiting TS = 0 packet, or sets TRIGOVR. -/
  | txqTrigger (p : Port)
  /-- CAN_BUS_ERROR (R372): A CAN frame meeting a bus error is retried, or discarded after RETRY attempts. -/
  | canBusError (p : Port)
  /-- CAN_BUS_OFF (R372): In bus-off the port discards its scheduled queue and fires its error source. -/
  | canBusOff (p : Port)
  /-- CAN_BUS_OFF_RECOVERY (R372): With ABR = 1, the port rejoins after 128 occurrences of 11 recessive bits. -/
  | canBusOffRecovery (p : Port)
  /-- NET_LINK_CHANGE (R380): An Ethernet link change fires its source. -/
  | netLinkChange (mac : Fin 8) (up : Bool)
  /-- GATE_ENTRY_CHANGE (R374): The active gate list moves to its next entry or starts a new cycle at a base tick. -/
  | gateEntryChange (mac : Fin 8)
  /-- GCL_SWAP (R375): A GCL_CTL write of SWAP schedules the inactive gate list. -/
  | gclSwap (mac : Fin 8)
  /-- GCL_SWAP_TAKEOVER (R375): At its first cycle start the inactive list becomes active, and PEND clears. -/
  | gclSwapTakeover (mac : Fin 8)
  /-- GCL_ENABLE (R374): A GCL_CTL write of EN starts or ends gate control. -/
  | gclEnable (mac : Fin 8) (en : Bool)
  /-- MDIO_ACCESS (R364): A NET_PORTp_MDIO_CMD write of GO starts a Clause 22 access. -/
  | mdioAccess (mac : Fin 8) (v : Word)
  /-- CMAC_KEY_W0_WRITE (R376): A key-slot W0 write stores a key word and clears VALID. -/
  | cmacKeyW0Write (q : Fin 4) (slot : Fin 64) (v : Word) (cap : Cap)
  /-- CMAC_KEY_W5_WRITE (R376): A key-slot W5 write stores the last key word and sets VALID. -/
  | cmacKeyW5Write (q : Fin 4) (slot : Fin 64) (v : Word) (cap : Cap)
  /-- CMAC_MSG_WRITE (R378): A NET_CMq_MSG write appends the next message word. -/
  | cmacMsgWrite (q : Fin 4) (v : Word)
  /-- CMAC_GEN (R378): A JOB write with GEN starts MAC generation with the next freshness value. -/
  | cmacGen (q : Fin 4) (job : Word) (cap : Cap)
  /-- CMAC_VERIFY (R378): A JOB write with VERIFY starts a MAC check against the reconstructed freshness value. -/
  | cmacVerify (q : Fin 4) (job : Word) (cap : Cap)
  /-- CMAC_JOB_DONE (R379): A CMAC job ends after exactly 40 + 12 × B ns and fires its source. -/
  | cmacJobDone (q : Fin 4)
  /-- NET_CNT_W0_READ (R380): A read of a port counter W0 snapshots W1. -/
  | netCntW0Read (p : Port) (i : Fin 4) (m : Master)
  /-- NET_CM_FV_W0_READ (R377): A read of a freshness counter W0 snapshots W1. -/
  | netCmFvW0Read (q : Fin 4) (c : Fin 256) (m : Master)
  /-- BAR0_READ (R386): A host read through BAR0 returns the spread view of the hub registers. -/
  | bar0Read (p : CxlPort) (byte : BitVec 26) (size : Nat)
  /-- BAR0_WRITE (R386): A host write through BAR0 reaches whole words, and a partial one sets PART. -/
  | bar0Write (p : CxlPort) (byte : BitVec 26) (data : List HByte)
  /-- BAR2_ACCESS (R388): A host access through a BAR2 window reaches global words under the host capability entries. -/
  | bar2Access (p : CxlPort) (byte : BitVec 28) (acc : HostAcc)
  /-- HDM_ACCESS (R390): A host HDM line access is carried out as one atomic access per deep line. -/
  | hdmAccess (p : CxlPort) (offset : Nat) (acc : HostAcc)
  /-- BACK_INVALIDATE (R391): A device access waits while the port back-invalidates the overlapping host lines. -/
  | backInvalidate (p : CxlPort) (line : Nat)
  /-- HOST_MEMORY_ACCESS (R393): A device access to host memory goes through CXL.cache, or receives an error response. -/
  | hostMemoryAccess (m : Master) (w : BitVec 39) (wr : Option Word)
  /-- CXL_SYNC_READ (R394): A read of CXL_SYNC completes after every earlier device write is globally visible. -/
  | cxlSyncRead (m : Master)
  /-- MSIX_RAISE (R396): A raised vector sends an MSI-X message, or sets its pending bit while masked. -/
  | msixRaise (v : BitVec 11)
  /-- MSIX_UNMASK (R396): Unmasking an entry with a pending bit sends one merged message. -/
  | msixUnmask (p : CxlPort) (v : BitVec 11)
  /-- MAILBOX_DOORBELL (R397): A DOORBELL write sets BUSY and fires the mailbox source for Topsoil. -/
  | mailboxDoorbell (mb : Fin 8)
  /-- MAILBOX_RESPONSE (R397): Topsoil's response clears BUSY and raises the mailbox vector. -/
  | mailboxResponse (mb : Fin 8) (status : BitVec 16) (rsp : List Word)
  /-- MAILBOX_TIMEOUT (R398): A mailbox still busy TMO ms after its doorbell completes with TIMEOUT. -/
  | mailboxTimeout (mb : Fin 8)
  /-- CXL_LANE_DEGRADE (R399): Failing lanes make the port renegotiate to a narrower width without going down. -/
  | cxlLaneDegrade (p : CxlPort) (width : Fin 5)
  /-- CXL_WIDTH_RESTORE_TRY (R399): Once per second the port tries to restore full width. -/
  | cxlWidthRestoreTry (p : CxlPort) (width : Fin 5)
  /-- CXL_PORT_DOWN (R400): A port going down discards its cache lines, poisons possibly modified lines and aborts its mailboxes. -/
  | cxlPortDown (p : CxlPort)
  /-- CXL_FAILOVER_TIMEOUT (R401): A port down for FO_HOLD ms with FO_AUTO fails over to its partner. -/
  | cxlFailoverTimeout (p : CxlPort)
  /-- CXL_FO_NOW (R401): A CXL_CFG write of FO_NOW fails over at once. -/
  | cxlFoNow (p : CxlPort)
  /-- CXL_FO_BACK (R401): A CXL_CFG write of FO_BACK returns the recovered port its role. -/
  | cxlFoBack (p : CxlPort)
  /-- NFP_READ (R409): An NFP READ returns an entry's value. -/
  | nfpRead (via : NfpVia)
  /-- NFP_WRITE (R405): An NFP WRITE checks and writes an entry, or accepts a model-parameter write. -/
  | nfpWrite (via : NfpVia)
  /-- NFP_READ_SEG (R409): An NFP READ_SEG returns words of a DOMAIN. -/
  | nfpReadSeg (via : NfpVia)
  /-- NFP_WRITE_SEG (R409): An NFP WRITE_SEG places words at an offset of a DOMAIN. -/
  | nfpWriteSeg (via : NfpVia)
  /-- NFP_DESCRIBE (R409): An NFP DESCRIBE returns an entry's type, access, size, default and limits. -/
  | nfpDescribe (via : NfpVia)
  /-- NFP_WRITE_MULTI (R422): An NFP WRITE_MULTI checks every item, then accepts them together with any generation write. -/
  | nfpWriteMulti (via : NfpVia)
  /-- PARAM_BACKLOG_PUSH (R418): The server pushes a backlogged parameter write when its cluster's queue has room. -/
  | paramBacklogPush (n : Cl)
  /-- PARAM_QUEUE_APPLY_STOPPED (R420): While the grid is stopped, the queue applies each entry within 1 µs of the previous one. -/
  | paramQueueApplyStopped (n : Cl)
  /-- OD_PQ_PUSH (R423): A PUSH write queues a parameter entry, or is refused with an error bit set. -/
  | odPqPush (n : Cl)
  /-- OD_PQ_CAP_W3_WRITE (R423): A CAP_W3 write verifies and installs the queue's capability, or installs null. -/
  | odPqCapW3Write (n : Cl) (v : Word)
  /-- OD_PQ_LAST_F0_READ (R423): A read of LAST_F0 snapshots F1. -/
  | odPqLastF0Read (n : Cl) (m : Master)
  /-- OD_PQ_APPLIED_W0_READ (R423): A read of APPLIED_W0 snapshots W1. -/
  | odPqAppliedW0Read (n : Cl) (m : Master)
  /-- RESTORE_COMPLETE (R429): The restore of a spare from the deep-store region completes, and replay begins. -/
  | restoreComplete (n : Cl)
  /-- REPLAY_FRAME (R430): The spare writes the journaled fills and parameters for one frame and re-executes its tick-armed sets. -/
  | replayFrame (n : Cl)
  /-- FIRST_LIVE_FRAME (R431): When replay reaches the current frame, the spare runs live and its sequencer starts with TKO set. -/
  | firstLiveFrame (n : Cl)
  /-- MIRROR_PASS_COMPLETE (R435): A mirror pass finishes copying and becomes the last complete mirror. -/
  | mirrorPassComplete (n : Cl)
  /-- MIRROR_PASS_ABANDON (R435): A pass not complete PASS frames after its start is abandoned, counted and signalled. -/
  | mirrorPassAbandon (n : Cl)
  /-- FENCE (R441): An SPM_FENCE write of FENCE isolates a unit and switches off its domain. -/
  | fence (u : Unit7)
  /-- UNFENCE (R441): An SPM_FENCE write of UNFENCE switches the unit on again at reset values. -/
  | unfence (u : Unit7)
  /-- UNIT_INTERNAL_ERROR (R441): An uncorrectable internal error of a unit fences it. -/
  | unitInternalError (u : Unit7)
  /-- TOPSOIL_QUIESCE_TIMEOUT (R442): Hardpan stops the service sequencers 100 ms after asking Topsoil to quiesce if no report came. -/
  | topsoilQuiesceTimeout
  /-- TOPSOIL_REPLACEMENT (R442): Hardpan stops the old Topsoil and starts the new one with fresh capabilities and the state block. -/
  | topsoilReplacement
  /-- SWAP_GO (R443): An SPM_SWAP_CTL write of GO schedules a model swap and starts the restore of a spare. -/
  | swapGo (vc : Cl)
  /-- SEC_LOAD_HARDPAN_EXTENSION (R451): A request of kind 0x1 verifies a Hardpan extension and installs it. -/
  | secLoadHardpanExtension
  /-- SEC_LOAD_TOPSOIL (R451): A request of kind 0x2 verifies a Topsoil image into the inactive half. -/
  | secLoadTopsoil
  /-- SEC_LOAD_MICROCODE_PATCH (R289): A request of kind 0x3 verifies a patch and loads it into a cluster's inactive half. -/
  | secLoadMicrocodePatch
  /-- SEC_LOAD_LOAM_IMAGE (R452): A request of kind 0x4 verifies a Loam image into the sealed area and extends M3. -/
  | secLoadLoamImage
  /-- SEC_LOAD_HOST_POLICY (R451): A request of kind 0x5 verifies a host-access policy into the sealed area. -/
  | secLoadHostPolicy
  /-- SEC_REKEY (R456): A request of kind 0x7 generates a new tag secret and re-mints the installed capabilities. -/
  | secRekey
  /-- SEC_COMMIT (R457): A request of kind 0x8 raises a rollback counter to the running SVN. -/
  | secCommit
  /-- SEC_LOG_EXTEND (R453): A request of kind 0x9 extends M5–M7 with a Topsoil digest. -/
  | secLogExtend
  /-- SEC_RELEASE (R452): A request of kind 0xA frees a sealed copy. -/
  | secRelease
  /-- SEC_OWNER (R458): A request of kind 0xB programs or revokes an owner key slot. -/
  | secOwner (viaMonitor : Bool)
  /-- SEC_REQUEST_DONE (R450): At the end of a request Hardpan sets DONE and CODE and fires the accept or refuse source. -/
  | secRequestDone
  /-- MODE_REQUEST_STANDBY (R464): Request 0x1 from CONFIGURE switches the domains for STANDBY. -/
  | modeRequestStandby
  /-- STANDBY_ENTRY (R468): Once the domains have switched, the device enters STANDBY with device time on the slow clock. -/
  | standbyEntry
  /-- MODE_REQUEST_CONFIGURE (R464): Request 0x4 returns to CONFIGURE from ARMED or REPLAY, or warm-resets from SERVICE. -/
  | modeRequestConfigure (flash : Flash)
  /-- MODE_REQUEST_ARMED (R464): Request 0x5 from CONFIGURE enters ARMED when the time base is locked. -/
  | modeRequestArmed
  /-- MODE_REQUEST_RUN (R464): Request 0x6 waits for the START tick from ARMED, or leaves SAFE_OUTPUT. -/
  | modeRequestRun
  /-- MODE_REQUEST_SAFE_OUTPUT (R464): Request 0x9 enters SAFE_OUTPUT at the next base tick. -/
  | modeRequestSafeOutput
  /-- MODE_REQUEST_REPLAY (R464): Request 0xA from CONFIGURE enters REPLAY. -/
  | modeRequestReplay
  /-- MODE_REQUEST_SERVICE (R464): Request 0xB from CONFIGURE enters SERVICE. -/
  | modeRequestService
  /-- REPLAY_GO (R469): A PWR_REPLAY_CTL write of GO replays a cluster's journal from its last mirror. -/
  | replayGo (vc : Cl)
  /-- REPLAY_DONE (R469): Replay stops at a missing record or after N frames, and BUSY clears. -/
  | replayDone
  /-- DOMAIN_REQUEST (R476): A PWR_DOMd write of REQ switches an eligible cluster domain, or sets DENIED. -/
  | domainRequest (d : Dom) (v : Word)
  /-- DOMAIN_SWITCH_COMPLETE (R476): A domain switch completes and fires source 0xC64. -/
  | domainSwitchComplete (d : Dom)
  /-- RAIL_WARNING (R479): A rail below its warning level for 20 ns enters warning and starts the service-path pause. -/
  | railWarning (r : Rail) (mv : BitVec 16)
  /-- RAIL_WARNING_END (R478): A rail above its warning level for 10 µs leaves warning. -/
  | railWarningEnd (r : Rail) (mv : BitVec 16)
  /-- RAIL_RESET_LEVEL (R480): A rail below its reset level for 100 ns fires its source and causes a cold reset. -/
  | railResetLevel (r : Rail) (mv : BitVec 16) (strap : Bool) (flash : Flash)
  /-- THERMAL_SAMPLE (R483): Every 10 µs the sensors are sampled, and the TJ_WARN, TJ_HIGH and TJ_TRIP thresholds are evaluated. -/
  | thermalSample (temps : List (Option Word))
  /-- MON_ID (R490): Monitor ID returns the device identity, mode and baud rate. -/
  | monId
  /-- MON_BAUD (R487): Monitor BAUD selects a new rate from the next character received. -/
  | monBaud (rate : Nat)
  /-- MON_RD (R491): Monitor RD reads 1–64 global words. -/
  | monRd (a : BitVec 40) (len : Nat)
  /-- MON_CNT (R490): Monitor CNT returns a cluster's snapshot counts and frame. -/
  | monCnt (n : Nat)
  /-- MON_OD (R415): Monitor OD passes one NFP message to the dictionary server. -/
  | monOd (ws : List Word)
  /-- MON_IMG (R490): Monitor IMG submits an image to Hardpan. -/
  | monImg (kind : BitVec 4) (ws : List Word)
  /-- MON_PUB (R490): Monitor PUB returns the identity public key in PROVISION. -/
  | monPub
  /-- MON_WR (R491): Monitor WR writes 1–64 global words in SERVICE. -/
  | monWr (a : BitVec 40) (ws : List Word)
  /-- MON_RMW (R490): Monitor RMW performs a locked read-modify-write in SERVICE. -/
  | monRmw (a : BitVec 40) (mask : Word) (v : Word)
  /-- MON_HALT (R493): Monitor HALT stops a cluster's sequencer at the next permitted boundary. -/
  | monHalt (n : Nat)
  /-- MON_STEP (R493): Monitor STEP issues one word and halts again. -/
  | monStep (n : Nat)
  /-- MON_GO (R493): Monitor GO resumes issue. -/
  | monGo (n : Nat)
  /-- MON_BIST (R470): Monitor BIST runs the self-test of a power domain. -/
  | monBist (d : Nat)
  /-- MONITOR_BREAK (R487): MON_RXD low for 10 ms returns the link to 115,200 baud and discards the partial line. -/
  | monitorBreak
  /-- LOCK_TIMEOUT (R24): A locked hub-matrix sequence held for over 1 µs is broken, and its remaining transactions get errors. -/
  | lockTimeout (t : Fin 16)
  /-- SEQ_EVC_CLEAR (R495): A SEQ_EVC_CTL write of CLEAR sets the eight counts to 0. -/
  | seqEvcClear (n : Cl)
  /-- SEQ_EVC_W0_READ (R496): A read of a cluster counter W0 snapshots W1. -/
  | seqEvcW0Read (n : Cl) (k : Fin 8) (m : EvcReader)
  /-- SEQ_EVC_SNAPF_W0_READ (R495): A read of SEQ_EVC_SNAPF_W0 snapshots W1. -/
  | seqEvcSnapfW0Read (n : Cl) (m : EvcReader)
  /-- EVF_GCNT_CLEAR (R498): An EVF_GCNT_CTL write of CLEAR sets the sixteen global counts to 0. -/
  | evfGcntClear
  /-- EVF_GCNT_W0_READ (R498): A read of a global counter W0 snapshots W1. -/
  | evfGcntW0Read (g : Fin 16) (m : Master)
  /-- REGISTER_WRITE (R8): A write to a register without a row of its own acts by its fields' access codes, or is refused by its rule. -/
  | registerWrite (m : Master) (a : BitVec 40) (v : Word)
  /-- ILLEGAL_INSTRUCTION (R214): Issue of a word with a reserved opcode or function code raises the illegal-instruction trap, vector 2. -/
  | illegalInstruction (n : Cl) (w : Word)
  /-- CXL_PORT_UP (R382): A CXL port trains with its link partner, sets UP or NOFLIT, and raises its link-change vector and source. -/
  | cxlPortUp (p : CxlPort) (flit256 : Bool) (width : Fin 5) (rate : Fin 4) (ide : Bool)
  /-- REFERENCE_RETURN (R73): A lost time reference (TREF_A, TREF_B or SYNC_IN) becomes present again, setting its OK bit and starting the revert interval. -/
  | referenceReturn (r : TimeRef)
  /-- MDIO_ACCESS_COMPLETE (R364): A Clause 22 MDIO access ends, so GO reads 0 and DATA holds the value read. -/
  | mdioAccessComplete (mac : Fin 8) (data : BitVec 16)
  /-- SPDM_REQUEST (R381): An SPDM message over DOE (GET_CERTIFICATE, CHALLENGE, GET_MEASUREMENTS) is served by Hardpan and answered with the report fields of R461. -/
  | spdmRequest (k : SpdmKind) (nonce : List Word)
  /-- HOST_SNOOP (R394): A CXL.cache snoop from the host is answered by the device cache as the protocol requires. -/
  | hostSnoop (p : CxlPort) (line : Nat) (kind : SnoopKind)
  /-- FACTORY_COMMAND (R460): An Oasor Dynamics factory command in PROVISION writes the identity and CA certificates and the VENDOR hashes, and Hardpan checks the certificate key. -/
  | factoryCommand (c : FactoryCmd)
  /-- JTAG_INSTRUCTION (R510): An instruction shifted into the test access port (BYPASS, IDCODE, SAMPLE/PRELOAD, EXTEST, CLAMP, HIGHZ) acts on the boundary-scan chain, or as BYPASS while SYS_RST_N is high. -/
  | jtagInstruction (i : JtagInstr) (others shifted : List Bool) (low : Bool)
  /-- MON_UNKNOWN_COMMAND (R489): A monitor line that names no command, or is malformed, is answered with ERR 02 or ERR 01. -/
  | monUnknownCommand (line : List HByte)
  /-- NFP_UNLISTED_OPERATION (R408): An NFP request whose OP is not listed is answered with OP 0xF and STATUS 0x0B. -/
  | nfpUnlistedOperation (via : NfpVia)
  /-- MODE_REQUEST_UNACCEPTED_CODE (R463): A PWR_MODE write of REQ 0x2, 0x3, 0x7, 0x8 or 0xC–0xF is refused, sets REFUSED and is counted. -/
  | modeRequestUnacceptedCode (code : BitVec 4)
  /-- SEC_REQUEST_UNLISTED_KIND (R450): A SEC_REQ_CTL write of GO with a KIND that names no request ends with CODE 0x01. -/
  | secRequestUnlistedKind (kind : BitVec 4)
deriving DecidableEq, Repr, Inhabited

end Sys2Proof
end

