-- ==== Sys2Proof/Decode.lean ====
section
/-!
DEFINITION. Decode.lean: what an instruction word of a sequencer spells (spec/07_sequencer_isa.md R213–R219,
spec/08_sequencer_traps_capabilities.md R248), and the word that the command table gives a command: no row of the table
has any bits, since the block takes commands and decodes no instruction (log entry 12). Which operand fields of a row
are unused is DEDUCED (log entry 70).
-/
namespace Sys2Proof

/-- Bits `hi` to `lo` of an instruction word. -/
def wordFld (hi lo : Nat) (w : Word) : Nat := w.toNat / 2 ^ lo % 2 ^ (hi + 1 - lo)

/-- A number as a register, modulo 16. -/
def regOf (k : Nat) : Reg := ⟨k % 16, Nat.mod_lt _ (by decide)⟩

/-- A number as a short vector, modulo 8. -/
def vregOf (k : Nat) : VReg := ⟨k % 8, Nat.mod_lt _ (by decide)⟩

/-- A number as a 3-bit field of a short operation. -/
def shortOf (k : Nat) : Fin 8 := ⟨k % 8, Nat.mod_lt _ (by decide)⟩

/-- The width that W selects (R219). -/
def fwOf (k : Nat) : FWidth := if k % 2 = 0 then .f24 else .f48

/-- An instruction where its must-be-0 fields are 0 (R214). -/
def onlyIf (p : Bool) (i : Instr) : Option Instr := if p then some i else none

/-- A short operation from its op, rd and s (R213, R216); `hint` is the pair's H. -/
def decodeShort (n : Cl) (sl : Slot) (op rd sf : Nat) (hint : Bool) : Option Instr :=
  let r := regOf rd
  let u := shortOf sf
  match op with
  | 0x0 => some (.shortMov n sl r u)
  | 0x1 => some (.shortAdd n sl r u)
  | 0x2 => some (.shortSub n sl r u)
  | 0x3 => some (.shortAnd n sl r u)
  | 0x4 => some (.shortOr n sl r u)
  | 0x5 => some (.shortXor n sl r u)
  | 0x6 => some (.shortAddi n sl r u)
  | 0x7 => some (.shortSubi n sl r u)
  | 0x8 => some (.shortShli n sl r u)
  | 0x9 => some (.shortShri n sl r u)
  | 0xA => some (.shortSari n sl r u)
  | 0xB => some (.shortMovi n sl r u)
  | 0xC => some (.shortCmp n sl r u)
  | 0xD => onlyIf (sf == 0) (.shortSkip n sl (BitVec.ofNat 4 rd))
  | 0xE => onlyIf (sl == .b) (.brs n (BitVec.ofNat 4 rd) u hint)
  | _ => onlyIf (rd == 0 && sf == 0) (.nop n sl)

/-- An ALU word from its function code (R219). -/
def decodeAlu (n : Cl) (d s t : Reg) (fx : Nat) : Option Instr :=
  match fx with
  | 0x00 => some (.aluAdd n d s t)
  | 0x01 => some (.aluSub n d s t)
  | 0x02 => some (.aluAnd n d s t)
  | 0x03 => some (.aluOr n d s t)
  | 0x04 => some (.aluXor n d s t)
  | 0x05 => some (.aluAndn n d s t)
  | 0x06 => some (.aluShl n d s t)
  | 0x07 => some (.aluShr n d s t)
  | 0x08 => some (.aluSar n d s t)
  | 0x09 => some (.aluRol n d s t)
  | 0x0A => some (.aluMin n d s t)
  | 0x0B => some (.aluMax n d s t)
  | 0x0C => some (.aluMinu n d s t)
  | 0x0D => some (.aluMaxu n d s t)
  | 0x0E => some (.aluSlt n d s t)
  | 0x0F => some (.aluSltu n d s t)
  | 0x10 => some (.aluAdds n d s t)
  | 0x11 => some (.aluAddx n d s t)
  | 0x12 => some (.aluSubs n d s t)
  | 0x13 => some (.aluSubx n d s t)
  | 0x14 => onlyIf (t == 0) (.aluClz n d s)
  | 0x15 => onlyIf (t == 0) (.aluPopc n d s)
  | _ => none

/-- A JMP word from its function code (R218). -/
def decodeJmp (n : Cl) (s : Reg) (fx : Nat) : Option Instr :=
  match fx with
  | 0 => some (.jr n s)
  | 1 => some (.callr n s)
  | 2 => some (.linkr n s)
  | 3 => some (.ret n)
  | 4 => some (.retl n)
  | _ => none

/-- A CTRL word from its function code (R218). -/
def decodeCtrl (n : Cl) (s : Reg) (fx : Nat) : Option Instr :=
  match fx with
  | 0 => onlyIf (s == 0) (.clrIe n)
  | 1 => onlyIf (s == 0) (.setIe n)
  | 2 => onlyIf (s == 0) (.reti n)
  | 3 => onlyIf (s == 0) (.sret n)
  | 4 => onlyIf (s.val % 2 == 0) (.switch n s)
  | 5 => onlyIf (s == 0) (.wait n)
  | 6 => onlyIf (s == 0) (.vsync n)
  | _ => none

/-- A word of opcode 0x2D from its function code (R248). -/
def decodeCap (n : Cl) (d s t : Reg) (fx : Nat) : Option Instr :=
  match fx with
  | 0 => some (.cperm n d s t)
  | 1 => onlyIf (t == 0) (.cmov n d s)
  | 2 => onlyIf (s == 0 && t == 0) (.cclr n d)
  | 3 => onlyIf (decide (t.val ≤ 4)) (.crd n d s (BitVec.ofNat 4 t.val))
  | 4 => onlyIf (s == 0 && decide (t.val ≤ 2)) (.cspr n d (BitVec.ofNat 4 t.val))
  | 5 => onlyIf (d == 0 && decide (t.val ≤ 2)) (.cspw n s (BitVec.ofNat 4 t.val))
  | _ => none

/-- A FOP word from its function code (R219). -/
def decodeFop (n : Cl) (d s t : Reg) (fx : Nat) : Option Instr :=
  let w := fwOf fx
  match fx / 2 with
  | 0 => some (.fopAdd n w d s t)
  | 1 => some (.fopSub n w d s t)
  | 2 => some (.fopMul n w d s t)
  | 3 => some (.fopMin n w d s t)
  | 4 => some (.fopMax n w d s t)
  | 5 => onlyIf (t == 0) (.fopAbs n w d s)
  | 6 => onlyIf (t == 0) (.fopNeg n w d s)
  | 7 => onlyIf (t == 0) (.fopMov n w d s)
  | _ => none

/-- An FMA word from its function code (R218). -/
def decodeFma (n : Cl) (d s t : Reg) (fx : Nat) : Option Instr :=
  if fx < 2 then some (.fmaAdd n (fwOf fx) d s t) else onlyIf (decide (fx < 4)) (.fmaSub n (fwOf fx) d s t)

/-- An FCVT word from its function code (R219). -/
def decodeFcvt (n : Cl) (d s : Reg) (fx : Nat) : Option Instr :=
  match fx with
  | 0 => some (.fcvtF24ToF48 n d s)
  | 1 => some (.fcvtF48ToF24 n d s)
  | 2 => some (.fcvtI24ToF24 n d s)
  | 3 => some (.fcvtI24ToF48 n d s)
  | 4 => some (.fcvtF24ToI24 n d s)
  | 5 => some (.fcvtF48ToI24 n d s)
  | _ => none

/-- An FMX word from its function code (R219). -/
def decodeFmx (n : Cl) (d s : Reg) (fx : Nat) : Option Instr :=
  match fx with
  | 0 => some (.fmxXToFLow n d s)
  | 1 => some (.fmxXToFHigh n d s)
  | 2 => some (.fmxFLowToX n d s)
  | 3 => some (.fmxFHighToX n d s)
  | _ => none

/-- An FDIV word from its function code (R219). -/
def decodeFdiv (n : Cl) (d s t : Reg) (fx : Nat) : Option Instr :=
  let w := fwOf fx
  match fx / 2 with
  | 0 => some (.fdivDiv n w d s t)
  | 1 => some (.fdivRcp n w d s)
  | 2 => some (.fdivSqrt n w d s)
  | 3 => some (.fdivRsqrt n w d s)
  | _ => none

/-- A VOP4 word from its function code (R219). -/
def decodeVop4 (n : Cl) (d a b : VReg) (fx : Nat) : Option Instr :=
  match fx with
  | 0 => some (.vop4Add n d a b)
  | 2 => some (.vop4Sub n d a b)
  | 4 => some (.vop4Mul n d a b)
  | 6 => some (.vop4Min n d a b)
  | 8 => some (.vop4Max n d a b)
  | 10 => onlyIf (b == 0) (.vop4Abs n d a)
  | 12 => onlyIf (b == 0) (.vop4Neg n d a)
  | 14 => onlyIf (b == 0) (.vop4Mov n d a)
  | _ => none

/-- A VDIV4 word from its function code (R219). -/
def decodeVdiv4 (n : Cl) (d a b : VReg) (fx : Nat) : Option Instr :=
  match fx with
  | 0 => some (.vdiv4Div n d a b)
  | 2 => some (.vdiv4Rcp n d a)
  | 4 => some (.vdiv4Sqrt n d a)
  | 6 => some (.vdiv4Rsqrt n d a)
  | _ => none

/-- A VLANE word (R219): the field that names a short vector has its bit 3 at 0. -/
def decodeVlane (n : Cl) (d s : Reg) (fx : Nat) : Option Instr :=
  let l : Fin 4 := ⟨fx % 4, Nat.mod_lt _ (by decide)⟩
  if fx < 4 then onlyIf (decide (d.val < 8)) (.vlaneWrite n (vregOf d) l s)
  else onlyIf (decide (fx < 8) && decide (s.val < 8)) (.vlaneRead n d l (vregOf s))

/-- A long operation other than an order (R213, R218, R248). -/
def decodeLong (n : Cl) (w : Word) : Option Instr :=
  let d := regOf (wordFld 16 13 w)
  let s := regOf (wordFld 12 9 w)
  let t := regOf (wordFld 3 0 w)
  let fx := wordFld 8 4 w
  let imm := BitVec.ofNat 9 (wordFld 8 0 w)
  let i13 := BitVec.ofNat 13 (wordFld 12 0 w)
  let i17 := BitVec.ofNat 17 (wordFld 16 0 w)
  let dv := vregOf d
  let av := vregOf s
  let bv := vregOf t
  let vOk := decide (d.val < 8) && decide (s.val < 8) && decide (t.val < 8)
  match wordFld 22 17 w with
  | 0x00 => decodeAlu n d s t fx
  | 0x01 => some (.addi n d s imm)
  | 0x02 => some (.andi n d s imm)
  | 0x03 => some (.ori n d s imm)
  | 0x04 => some (.xori n d s imm)
  | 0x05 =>
    if wordFld 6 5 w ≠ 0 then none
    else match wordFld 8 7 w with
    | 0 => some (.shiShl n d s (BitVec.ofNat 5 (wordFld 4 0 w)))
    | 1 => some (.shiShr n d s (BitVec.ofNat 5 (wordFld 4 0 w)))
    | 2 => some (.shiSar n d s (BitVec.ofNat 5 (wordFld 4 0 w)))
    | _ => some (.shiRol n d s (BitVec.ofNat 5 (wordFld 4 0 w)))
  | 0x06 => onlyIf (d == 0 && fx == 0) (.cmp n s t)
  | 0x07 => onlyIf (d == 0) (.cmpi n s imm)
  | 0x08 => some (.lil n d i13)
  | 0x09 => some (.lis n d i13)
  | 0x0A => some (.lih n d i13)
  | 0x0C => some (.ld n d s imm)
  | 0x0D => onlyIf (d.val % 2 == 0) (.ldd n d s imm)
  | 0x0E => some (.st n d s imm)
  | 0x0F => onlyIf (d.val % 2 == 0) (.std n d s imm)
  | 0x10 => some (.ldf n d s imm)
  | 0x11 => some (.stf n d s imm)
  | 0x12 => onlyIf (decide (d.val < 8)) (.ldv n dv s imm)
  | 0x13 => onlyIf (decide (d.val < 8)) (.stv n dv s imm)
  | 0x14 => some (.trd n d s imm)
  | 0x15 => onlyIf (i17 == 0) (.sync n)
  | 0x16 => some (.ioIn n d i13)
  | 0x17 => some (.ioOut n d i13)
  | 0x18 => some (.ioInr n d s imm)
  | 0x19 => some (.ioOutr n d s imm)
  | 0x1A => some (.bra n i17)
  | 0x1B => some (.call n i17)
  | 0x1C => some (.bc n (BitVec.ofNat 4 d.val) (wordFld 12 12 w == 1) (BitVec.ofNat 12 (wordFld 11 0 w)))
  | 0x1D => if d == 0 && t == 0 then decodeJmp n s fx else none
  | 0x1E => some (.link n i17)
  | 0x1F => onlyIf (i13 == 0) (.skip n (BitVec.ofNat 4 d.val))
  | 0x20 => onlyIf (wordFld 16 14 w == 0 && wordFld 8 5 w == 0 && decide (wordFld 4 0 w < 24))
      (.skb n s (wordFld 13 13 w == 1) (BitVec.ofNat 5 (wordFld 4 0 w)))
  | 0x21 => onlyIf (d == 0 && imm != 0) (.loop n s imm)
  | 0x22 => onlyIf (imm != 0) (.loopi n (BitVec.ofNat 8 (wordFld 16 9 w)) imm)
  | 0x23 => onlyIf (d == 0 && s == 0) (.sys n imm)
  | 0x24 => if d == 0 && t == 0 then decodeCtrl n s fx else none
  | 0x25 => onlyIf (decide (imm.toNat ≤ 4)) (.drd n d s (BitVec.ofNat 3 imm.toNat))
  | 0x26 => onlyIf (decide (imm.toNat ≤ 4)) (.dwr n d s (BitVec.ofNat 3 imm.toNat))
  | 0x27 => onlyIf (imm == 0) (.dadd n d s)
  | 0x28 => some (.dld n d s imm)
  | 0x29 => some (.dsto n d s imm)
  | 0x2A => some (.cld n d s imm)
  | 0x2B => some (.cst n d s imm)
  | 0x2C => onlyIf (t.val % 2 == 0 && decide (fx ≤ 8)) (.cbnd n d s t (BitVec.ofNat 4 fx))
  | 0x2D => decodeCap n d s t fx
  | 0x2E => decodeFop n d s t fx
  | 0x2F => decodeFma n d s t fx
  | 0x30 => onlyIf (d == 0 && decide (fx < 4)) (.fcmp n (fwOf fx) (fx / 2 == 1) s t)
  | 0x31 => if t == 0 then decodeFcvt n d s fx else none
  | 0x32 => if t == 0 then decodeFmx n d s fx else none
  | 0x33 => decodeFdiv n d s t fx
  | 0x34 => if vOk then decodeVop4 n dv av bv fx else none
  | 0x35 => if vOk then (match fx with
      | 0 => some (.vfma4Add n dv av bv)
      | 1 => some (.vfma4Sub n dv av bv)
      | _ => none) else none
  | 0x36 => if vOk then decodeVdiv4 n dv av bv fx else none
  | 0x37 => if t == 0 then decodeVlane n d s fx else none
  | _ => none

/-- Whether a word is the first word of a vector order (R82, R213). -/
def isOrder (w : Word) : Bool := decide (0x3C ≤ wordFld 22 17 w) && decide (wordFld 23 23 w = 0)

/-- The commands of a word that is no order: both slots of a pair, or one long operation; none for an illegal instruction
(R213–R215). -/
def decodeWord (n : Cl) (w : Word) : Option (List Instr) :=
  if wordFld 23 23 w = 1 then
    match decodeShort n .a (wordFld 22 19 w) (wordFld 18 15 w) (wordFld 14 12 w) false,
      decodeShort n .b (wordFld 11 8 w) (wordFld 7 4 w) (wordFld 3 1 w) (wordFld 0 0 w == 1) with
    | some a, some b => some [a, b]
    | _, _ => none
  else (decodeLong n w).map fun i => [i]

/-- The command of a vector order of four words (R82, R97, R99). -/
def decodeOrder (n : Cl) (w0 w1 w2 w3 : Word) : Instr :=
  let o : Order96 := w3 ++ w2 ++ w1 ++ w0
  match wordFld 18 17 w0 with
  | 0 => .orderIssueQueue n o
  | 1 => .orderIssueFence n o
  | 2 => .orderAppend n o
  | _ => .orderIssueNotify n o

/-- Whether a word is an illegal instruction by its own bits (R214). -/
def wordIllegal (w : Word) : Bool := !isOrder w && (decodeWord 0 w).isNone

/-- The command that a word of the table's bits spells: none, since no row has bits. -/
def decodeTableWord (_nbits _w : Nat) : Option Instr := none

end Sys2Proof
end

