-- ==== Sys2Proof/Config.lean ====
section
/-!
DEFINITION. Config.lean: what one part fixes and the free values. Every constant here is opaque and
has no body: nothing can prove a value of it, so a statement that holds, holds for every value. A
free value is applied to `State.fresh`, which the step advances each time it draws one (log entry 3).
-/
namespace Sys2Proof.Config

/-- A word the spec leaves undefined (R109, R190, R191, R320, R470 and the others of log entry 3). -/
opaque freeWord : Nat → Word

/-- A choice between two outcomes the spec leaves open (R93, R109, R191, R204, R419). -/
opaque freeBit : Nat → Bool

/-- A count the spec leaves open, such as how many words a mover has moved when ABORT arrives
(R206). -/
opaque freeNat : Nat → Nat

/-- The random source of Hardpan (R454, R460, R461): 256 bits a draw. -/
opaque random : Nat → BitVec 256

/-- What the extend of M4 digests: OTP key hashes, revoke bits and rollback counters in a byte form that the
spec does not give (R453). -/
opaque otpDigest (hashes : List (BitVec 256)) (revoked : BitVec 6) (counters : List Nat) : BitVec 256

/-- The default host entries that Hardpan installs at boot (R454): for each port and entry, four words. -/
opaque hostEntry (port entry : Nat) : BitVec 96

/-- The repeat delay of SYNC_OUT in grains (R66): 2 ns with the deviation of one part, within ±0.1 ns. -/
opaque repeatDeviation : Nat

/-- How long after its boundary an extended multiblock reaches the elastic buffer of a lane, in ns (R303): the path of the
carrier board. -/
opaque laneDelay : Nat → Nat

/-- The longest duration of a CAN frame in grains, its worst stuff bits included (R370): ISO 11898-1 gives it, the spec does
not. Of its KIND, LEN and IDE and the port's NBT, DBT and XBT. -/
opaque canLongest (kind len : Nat) (ide : Bool) (nbt dbt xbt : BitVec 24) : Nat

/-- The duration of one CAN frame in grains with the stuff bits that it has, of its packet and the port's bit times. -/
opaque canLasts (packet : List (BitVec 24)) (nbt dbt xbt : BitVec 24) : Nat

/-- The interframe space of a CAN bus in grains, of the port's NBT (R370): ISO 11898-1 gives it, the spec does not. -/
opaque canSpace (nbt : BitVec 24) : Nat

/-- Where the data phase of an XL frame begins and ends, in grains from its start, of its packet and the port's bit times
(spec/20_electrical_package.md, CAN_MODE). -/
opaque canXlPhase (packet : List (BitVec 24)) (nbt xbt : BitVec 24) : Nat × Nat

/-- The stream clock of a cluster's island within 1.2–1.9 GHz (spec/01_architecture.md), as the base ticks beyond 21 that 40
of its cycles reach over (R101): the registers that the spec names for it are in no chapter. -/
opaque preopenLead (cluster : Nat) : Fin 14

/-- The microwords of the ROM, which the spec does not list (R276). -/
opaque microRom : BitVec 13 → BitVec 144

/-- The ROM microaddress at which a routine begins (R278): 0 of a group, by the OPC codes of its orders, 1 of pre-open, 2 of
set issue, 3 of descriptor staging. -/
opaque microEntry (kind : Nat) (codes : List Nat) : BitVec 12

/-- The serial number of the part (R416, entry 0x1018:04). -/
opaque serial : BitVec 48

end Sys2Proof.Config
end

