-- ==== Sys2Proof/Machine/State.lean ====
section
/-!
DEFINITION. Machine/State.lean: everything the spec gives the ZV-824, as plain data, and the machine
right after reset. INVENTORY.md lists each piece with its rule.

Registers live in register files keyed by word offset: `State.hub` for the hub registers (R26, offset
from 0x40_0000_0000) and `Cluster.io` for a sequencer's IO-space (R222). An offset that no entry
lists holds its Reset value (Machine/Registers.lean). The rest is what the engines hold behind those
registers.
-/
namespace Sys2Proof.Machine

/-- A sparse map: keys strictly rising, no entry equal to the map's default (`SMap.wf`). -/
abbrev SMap (α : Type) := List (Nat × α)

/-- A capability with its hidden validity bit (R242, R244). -/
structure CapV where
  bits  : Sys2Proof.Cap
  valid : Bool
deriving DecidableEq, Repr, Inhabited

/-- The null capability: four zero words with validity 0 (R244). -/
def CapV.null : CapV := ⟨0, false⟩

/-- A descriptor register dN or a set's descriptor: five words (R75). -/
structure Desc where
  base   : GAddr
  stride : Word
  len    : Word
  attr   : Word
deriving DecidableEq, Repr, Inhabited

/-- A descriptor at reset (dN tables: every field 0). -/
def Desc.zero : Desc := ⟨0, 0, 0, 0⟩

/-- A register that a word's result goes to; an x register by the bank it was named in (R211). -/
inductive RegName where
  | win (w : Nat) (r : Nat)
  | com (r : Nat)
  | fast (r : Nat)
  | f (r : Nat)
  | fLow (r : Nat)
  | fHigh (r : Nat)
  | dWord (r : Nat) (w : Nat)
  | c (r : Nat)
  | special (k : Nat)
  | cc
  | carry
  | flags
deriving DecidableEq, Repr, Inhabited

/-- The value a register write carries. -/
inductive RegVal where
  | w (v : Word)
  | f (v : DWord)
  | c (v : CapV)
  | cc (v : BitVec 5)
deriving DecidableEq, Repr, Inhabited

/-- A result that is not visible yet (R225, R226): the register, the value, the advancing cycle at
which it becomes visible. -/
structure RegWrite where
  reg : RegName
  val : RegVal
  due : Nat
deriving DecidableEq, Repr, Inhabited

/-- A loop register (IO offset 4, 5 or 6) as the words fetched before an OUT to it completed see it: what it held, up to
the words that reach RR before advancing cycle `upTo` (R236). -/
structure LoopLag where
  reg  : Nat
  old  : Word
  upTo : Nat
deriving DecidableEq, Repr, Inhabited

/-- A store in the store buffer (R228): its words by global address, the slot and the capability that its issue was checked
against, whether it goes through a window, its D-space address, how many of its words have drained. -/
structure SEntry where
  words : List (Nat × Word)
  slot  : Nat
  cap   : CapV
  win   : Bool
  dAddr : Word
  done  : Nat
deriving DecidableEq, Repr, Inhabited

/-- A vector order as it was issued: its bits, the I-space address of its first word or its slot,
the scalar k it read, and the descriptors and capabilities it copied (R237, R247). -/
structure QOrder where
  bits  : Order96
  pc    : Word
  k     : DWord
  descs : List (Nat × Desc × CapV)
deriving DecidableEq, Repr, Inhabited

/-- A recorded or held vector exception (R105, R106, VU_EXC registers); for a microcode error (R282) also the DETAIL
and the microaddress of its machine check. -/
structure ExcRec where
  cause     : BitVec 4
  imprecise : Bool
  set       : Option Nat
  order     : Nat
  stream    : Nat
  pc        : Word
  elem      : Nat
  addr      : GAddr
  flags     : BitVec 6
  micro     : Option (BitVec 24 × BitVec 24)
deriving DecidableEq, Repr, Inhabited

/-- Where a group stands: waiting to start for the first time (R98, R156), running, abandoned at an
exception (R106), or displaced by the firing of a set (R102). -/
inductive GPhase where
  | waiting
  | running
  | abandoned
  | displaced
deriving DecidableEq, Repr, Inhabited

/-- A result word in a write stream's buffer (R166): the order and the element it belongs to. -/
structure WWord where
  pos  : Nat
  elem : Nat
  addr : Nat
  word : Word
deriving DecidableEq, Repr, Inhabited

/-- A routine context of the micro-sequencer (R278, R281): its microaddress, its return stack of at most 4 entries, whether
it has executed its end-of-routine microword. -/
structure MicroCtx where
  addr  : BitVec 13
  stack : List (BitVec 13)
  ended : Bool
deriving DecidableEq, Repr, Inhabited

/-- A microword whose cells show a parity error (R282): of the ROM (no half) or of a half of the patch RAM, its
microaddress, whether the re-read fails too. -/
structure BadMicro where
  half : Option Bool
  addr : BitVec 13
  hard : Bool
deriving DecidableEq, Repr, Inhabited

/-- A chain group in the vector unit (R94, R98, R106, R107): its orders, and of its run the element
count, the next order, the chained values, the flags, the buffered words, the words that its streams write in all where a
read stream overlaps them, and the first of the free choices of such reads (R109), per address the order that wrote it last
and the word it held before, the streams that pre-open opened, by order and role, the words that pre-open or the open read
fetched, whether it passed its commit point, whether an abandonment request met it behind that point (R280, R283), whether
its reduction runs in an ADD pipe (R154), the exception its run met, the patch half and the context of its routine (R278,
R293), the mask registers it will write; `stores` counts the buffered stores that must drain before it starts (R229),
`homes` the earlier words of parameter homes that were written while it ran (R419). -/
structure Group where
  gid       : Nat
  set       : Option Nat
  orders    : List QOrder
  fence     : Bool
  notify    : Bool
  phase     : GPhase
  n         : Nat
  pos       : Nat
  chain     : List DWord
  flags     : BitVec 5
  trapen    : Word
  wbuf      : List WWord
  wset      : List WWord
  seed      : Nat
  wby       : SMap Nat
  wlog      : SMap (Option Word)
  opened    : List (Nat × Nat)
  filled    : SMap (Option Word)
  committed : Bool
  asked     : Bool
  redAdd    : Bool
  exc       : Option ExcRec
  patchB    : Option Bool
  micro     : Option MicroCtx
  masks     : SMap (Option (BitVec 4096))
  stores    : Nat
  homes     : SMap (Option Word)
deriving DecidableEq, Repr, Inhabited

/-- What pre-open holds for a set (R31, R158, R159): the words fetched, by order, stream and word, the
streams it opened, and the first fault found in each group. -/
structure PreOpenSt where
  words  : SMap (Option Word)
  opened : List (Nat × Nat)
  faults : List ExcRec
deriving DecidableEq, Repr, Inhabited

/-- A routine of the micro-sequencer that serves no group (R278): 1 pre-open, 2 set issue, 3 descriptor staging, for a set;
its patch half and context, and what it works on: the staged change, or the set's groups with the indexes of their first
orders and what pre-open holds. -/
structure AuxRun where
  kind   : Nat
  set    : Nat
  half   : Option Bool
  ctx    : MicroCtx
  stage  : Option (Nat × Desc × CapV × BitVec 64)
  groups : List (Nat × Group)
  pre    : Option PreOpenSt
deriving DecidableEq, Repr, Inhabited

/-- A standing set beside its registers (R99–R104): its descriptor table with the copied
capabilities, the staged changes with the instants of their commands, what pre-open holds, when it was
armed, the exchange plots its last firing writes (R516), and how it missed its last deadline (R56). -/
structure SetSt where
  table   : SMap (Desc × CapV)
  staged  : List (Nat × Desc × CapV × BitVec 64)
  pre     : Option PreOpenSt
  armedAt : BitVec 64
  plots   : List Nat
  missed  : Option (BitVec 2)
deriving DecidableEq, Repr, Inhabited

/-- A set as built from nothing. -/
def SetSt.reset : SetSt := ⟨[], [], none, 0, [], none⟩

/-- An entry of a parameter queue or of the server's backlog (R418, R419, R423): the offset and its words,
which model parameter it carries, the number of its request (0: none), and whether its application answers
the request. -/
structure PEntry where
  offset : Nat
  words  : List Word
  key    : Option Nat
  req    : Nat
  last   : Bool
deriving DecidableEq, Repr, Inhabited

/-- A failover of one logical cluster (R425–R431): the physical slot of the spare it takes (none: lost), the
base frame of its declaration, the base frame that replay reaches next, whether the spare runs live, and the
PLOT_PHASE of the current frame while replay holds an older one. -/
structure Failover where
  slot : Option Nat
  at'  : Nat
  next : Nat
  live : Bool
  phase : Nat
deriving DecidableEq, Repr, Inhabited

/-- A mirror pass in progress (R435): its start frame, and the mirrored plots' words as they stood then, by
local-store offset. -/
structure MirrorPass where
  start : Nat
  image : SMap Word
deriving DecidableEq, Repr, Inhabited

/-- A record of the journal ring (R436): its base frame, where in the ring it begins, the PLOT_PHASE of its
frame, the exchange offsets of its fill words, how many parameter entries it holds. -/
structure RingRec where
  frame  : Nat
  pos    : Nat
  phase  : Nat
  fills  : List Nat
  params : Nat
deriving DecidableEq, Repr, Inhabited

/-- One half of a cluster's patch RAM (R287, R290); its VALID bit is the one of UCODE_STAT. -/
structure PatchHalf where
  words : SMap (BitVec 144)
  table : SMap (Option Word)
  ver   : Word
deriving DecidableEq, Repr, Inhabited

/-- A patch half at reset (R291). -/
def PatchHalf.reset : PatchHalf := ⟨[], [], 0⟩

/-- A local-store row that a read found bad (R192–R196): whether it is marked poisoned, whether it holds a double-bit
error, the bits of its corrected errors, whether it showed one of them twice and is written to a spare row too, the spare
rows it has taken. -/
structure BadRow where
  bank     : Nat
  row      : Nat
  poisoned : Bool
  double   : Bool
  bits     : List Nat
  repeated : Bool
  spares   : Nat
deriving DecidableEq, Repr, Inhabited

/-- A word of exchange RAM or of an instruction store whose cells show an error (R197): a double-bit error, else a
single-bit one; whether a read has corrected it before, and whether it showed twice and its row is written to a spare row
too. -/
structure BadWord where
  off      : Nat
  double   : Bool
  seen     : Bool
  repeated : Bool
deriving DecidableEq, Repr, Inhabited

/-- An access of a cluster to its own exchange RAM (R190): its port, its word, whether it writes, its base tick, the
registers that a sequencer's read delivers to, and for a stream's read whether the write that was waiting for the other port
collides with it. -/
structure XAccess where
  portA : Bool
  off   : Nat
  wr    : Bool
  at'   : BitVec 64
  regs  : List RegName
  met   : Option Bool
deriving DecidableEq, Repr, Inhabited

/-- A logical cluster: its sequencer, vector unit, event interface and what the spare manager keeps
for it (R14, R178, R210). `conf` lists the masters of R169 that have made a request since the conflict counters were
cleared, `clashTo` the slots of the base frame whose clashes are counted (R173), `ueSeen` the bad rows that reads of the
current base tick found (R164). -/
structure Cluster where
  io        : SMap Word
  win       : SMap Word
  com       : SMap Word
  fastBank  : SMap Word
  fregs     : SMap DWord
  dregs     : SMap Desc
  cregs     : SMap CapV
  special   : SMap CapV
  masks     : SMap (BitVec 4096)
  pc        : Word
  cyc       : Nat
  due       : List RegWrite
  slotA     : Option (List RegWrite)
  skipNext  : Bool
  skipSlotA : Bool
  sbuf      : List SEntry
  lateFault : Option (Nat × Nat × Word)
  loopLag   : List LoopLag
  rstack    : List Word
  flushAt   : List Nat
  waiting   : Bool
  vsync     : Option Nat
  halted    : Bool
  stepping  : Bool
  haltDue   : Bool
  stallAt   : Option Nat
  ieAt      : Option Nat
  mcheck    : Option (Word × Word)
  mcVec     : Bool
  vexc      : Bool
  tdepth    : Nat
  vhand     : Option Nat
  excSets   : List (Nat × Option Nat)
  ieSeen    : Bool
  localNs   : BitVec 64
  forming   : List QOrder
  groups    : List Group
  nextGid   : Nat
  ostore    : SMap Order96
  sets      : SMap SetSt
  aux       : List AuxRun
  conf      : List Nat
  clashTo   : Nat
  heldExc   : List ExcRec
  fslot     : SMap Word
  plotWait  : SMap (Option Word)
  portA     : SMap Bool
  xlast     : List XAccess
  fillBy    : SMap (Option (Nat × Nat))
  bad       : List BadRow
  xbad      : List BadWord
  xspares   : Nat
  ibad      : List BadWord
  copies    : List (Nat × Nat)
  corrected : List (Nat × Nat × BitVec 64)
  ueSeen    : List (Nat × Nat × BitVec 64)
  patchA    : PatchHalf
  patchB    : PatchHalf
  ucSwitch  : Option (Nat × Bool)
  uerr      : List Word
  ubad      : List BadMicro
  pq        : List PEntry
  pqCap     : CapV
  dlf       : Nat
  failCause : Bool
  failover  : Option Failover
  mirror    : Option MirrorPass
  lastB     : Option Bool
  mirrorAt  : Nat
  ringPos   : Nat
  ringRecs  : List RingRec
  ringDrop  : Option Nat
  jFills    : List (Nat × Word)
  jParams   : List PEntry
  tickAt    : Option Nat
  heldFor   : Nat
  lastCommit : Option (List (Nat × Bool))
  ran       : Bool
deriving DecidableEq, Repr, Inhabited

/-- A cluster right after reset: registers at their Reset values, the engines idle. -/
def Cluster.reset : Cluster where
  io := []
  win := []
  com := []
  fastBank := []
  fregs := []
  dregs := []
  cregs := []
  special := []
  masks := []
  pc := 0
  cyc := 0
  due := []
  slotA := none
  skipNext := false
  skipSlotA := false
  sbuf := []
  lateFault := none
  loopLag := []
  rstack := []
  flushAt := []
  waiting := false
  vsync := none
  halted := false
  stepping := false
  haltDue := false
  stallAt := none
  ieAt := none
  mcheck := none
  mcVec := false
  vexc := false
  tdepth := 0
  vhand := none
  excSets := []
  ieSeen := false
  localNs := 0
  forming := []
  groups := []
  nextGid := 0
  ostore := []
  sets := []
  aux := []
  conf := []
  clashTo := 0
  heldExc := []
  fslot := []
  plotWait := []
  portA := []
  xlast := []
  fillBy := []
  bad := []
  xbad := []
  xspares := 0
  ibad := []
  copies := []
  corrected := []
  ueSeen := []
  patchA := PatchHalf.reset
  patchB := PatchHalf.reset
  ucSwitch := none
  uerr := []
  ubad := []
  pq := []
  pqCap := CapV.null
  dlf := 0
  failCause := false
  failover := none
  mirror := none
  lastB := none
  mirrorAt := 0
  ringPos := 0
  ringRecs := []
  ringDrop := none
  jFills := []
  jParams := []
  tickAt := none
  heldFor := 0
  lastCommit := none
  ran := false

/-- A grid action (R46). -/
inductive GridKind where
  | start
  | stop
  | hold
  | resume
deriving DecidableEq, Repr, Inhabited

/-- The pending grid action (R46, R47): its kind, its instant in grains, and, where it was late, the base tick at which
it was written. -/
structure GridAction where
  kind : GridKind
  at'  : Time72
  late : Option (BitVec 64)
deriving DecidableEq, Repr, Inhabited

/-- The time base behind its registers (R38–R73): the pending grid action, the base tick of the START tick and of the
last base frame tick delivered, whether the current base tick carries the beacon of a STEP, whether the base frame that runs has reserved fabric slots (R170), what the next base tick
adds to the count to align it to SYNC_IN (R65), the marks in a row within and beyond their limits, the instant of the last
mark that stood in its place, which references are present since which base tick (keys as ACTIVE_REF), and the instant of
the last mark that a follower repeats (R66). Instants of marks are grains of `State.ticks`. -/
structure Tb where
  action     : Option GridAction
  startAt    : Option (BitVec 64)
  tickedAt   : Option (BitVec 64)
  stepBeacon : Bool
  slots      : Bool
  align      : BitVec 64
  lockCount  : Nat
  badMarks   : Nat
  goodMark   : Option Time72
  refPresent : SMap Bool
  refSince   : SMap (BitVec 64)
  repeatMark : Option Time72
deriving DecidableEq, Repr, Inhabited

/-- A word of a fill that waits for its plot (R304): the handover tick at which the fill is consumed, the
plot once it has passed to the I/O side, the word's place in the plot, and whether it takes a word of the ingress
buffer. -/
structure IngressWord where
  tick    : Nat
  plot    : Option Nat
  off     : Nat
  val     : Word
  counted : Bool
deriving DecidableEq, Repr, Inhabited

/-- The fill that a receive link assembles (R304, R306): the handover tick at which it is consumed, its first receive instant, the frames in
it, its flags. -/
structure Fill where
  tick  : Nat
  first : Time72
  count : Nat
  crc   : Bool
  subst : Bool
  ovf   : Bool
deriving DecidableEq, Repr, Inhabited

/-- An output fill waiting for its release instant (R50, R308): for each converter its words. -/
structure EgressFill where
  release : Time72
  words   : List (List Word)
deriving DecidableEq, Repr, Inhabited

/-- A converter link behind its registers (R297–R315): the ingress buffer, the fill being assembled, the
converter frame received last with its base tick, the last good word of each converter, the multiblock whose CRC
mismatch was counted last, since when the link is down and whether it was for 1 ms, the output fills
waiting, and per converter the words sent from the last release on (nothing: safe samples). -/
structure Link where
  buf      : List IngressWord
  fill     : Option Fill
  rxAt     : Option (BitVec 64 × Nat)
  lastGood : SMap (Option Word)
  crcMb    : Option Nat
  downAt   : Option (BitVec 64)
  long     : Bool
  egress   : List EgressFill
  sending  : List (List Word)
deriving DecidableEq, Repr, Inhabited

/-- A link at reset: disabled, buffers empty. -/
def Link.reset : Link := ⟨[], none, none, [], none, none, false, [], []⟩

/-- An action waiting at a pin (R326, R327, R331): its instant, its channel, its action code, and whether a
COMPARE channel made it. -/
structure PinAction where
  at'  : Time72
  chan : Nat
  act  : BitVec 2
  cmp  : Bool
deriving DecidableEq, Repr, Inhabited

/-- A change of a pin's level (R317, R320): when, in grains of base ticks, to which level, whether it is an edge at the land,
the timestamp it was captured with, and the channels that captured it, each with the unread timestamp that it overwrote. -/
structure PinEdge where
  time  : Time72
  level : Bool
  edge  : Bool
  cap   : Option Time72
  chans : List (Nat × Option Time72)
deriving DecidableEq, Repr, Inhabited

/-- The actions applied to a pin at the last instant that brought one (R319): the base tick, the instant, the output level
before them, the actions by channel. -/
structure PinActed where
  tick : BitVec 64
  at'  : Time72
  was  : Option Bool
  acts : List (Nat × BitVec 2)
deriving DecidableEq, Repr, Inhabited

/-- A timing pin (R317–R319, R338): the level that the land carries from outside, the output level (none:
high impedance), the level it reads after INV, its pending actions, its level changes, newest first, the actions of its
last instant. -/
structure PinSt where
  land  : Bool
  out   : Option Bool
  lvl   : Bool
  queue : List PinAction
  hist  : List PinEdge
  acted : Option PinActed
deriving DecidableEq, Repr, Inhabited

/-- A pin at reset: not driving, nothing pending. -/
def PinSt.reset : PinSt := ⟨false, none, false, [], [], none⟩

/-- A capture register as it stood when the stamped cycle began (the stamp is the cycle plus 1, R321). -/
structure CapOld where
  stamp : BitVec 64
  val   : Time72
deriving DecidableEq, Repr, Inhabited

/-- A frame generator behind its registers (R333–R337): whether it runs, when a stop or a start was written,
its last step, its level before the pattern, the cycle after the last write of UPD and of a buffer value,
UPD and the buffer as they stood before that cycle. Cycles are base ticks. -/
structure GenSt where
  running : Bool
  stopAt  : Option (BitVec 64)
  startAt : Option (BitVec 64)
  lastAt  : BitVec 64
  raw     : Bool
  updAt   : BitVec 64
  updOld  : Bool
  bufAt   : BitVec 64
  bufOld  : List Word
deriving DecidableEq, Repr, Inhabited

/-- A generator at reset: stopped. -/
def GenSt.reset : GenSt := ⟨false, none, none, 0, false, 0, false, 0, []⟩

/-- The timing unit behind its registers (R317–R340): the pins, the banks' supplies and the instants at which
they went down or up, the capture registers of the running cycle, per capture group the tick whose fill
was written last, the counters' pending loads and last steps (each with its cycle plus 1), the instants of
the CMP writes, the generators, the pending global start. -/
structure Tmc where
  pins     : SMap PinSt
  bankMv   : SMap Nat
  bankHist : SMap (List (BitVec 64 × Bool))
  capOld   : SMap CapOld
  filled   : SMap (Option Nat)
  loads    : SMap (Option (Word × BitVec 64))
  stepAt   : SMap (BitVec 64)
  cmpAt    : SMap (BitVec 64)
  gens     : SMap GenSt
  startAt  : Option Time72
deriving DecidableEq, Repr, Inhabited

/-- An event on its way through a channel (R344, R354): the fabric cycle in which its source fired,
which input of the channel it came by (0 SRC_A, 1 SRC_B, 2 software), its hop count. -/
structure Inbox where
  chan : Nat
  cyc  : BitVec 64
  via  : Nat
  hop  : Nat
deriving DecidableEq, Repr, Inhabited

/-- A write of a packet word whose handshake a full queue withholds (R358): the master whose request it stalls, the word,
whether it is a last word. -/
structure HeldWrite where
  who  : Option Master
  word : Word
  last : Bool
deriving DecidableEq, Repr, Inhabited

/-- A packet queue behind its registers (R355–R361): the committed packets with their commit cycles, oldest first, the
open packet, the writes it holds in their order, whether a read has freed a word since, the held ones that completed and
whose masters have not gone on yet, the last word read, the cycle of the last accepted word, the cycle of the last FLUSH. Cycles are base ticks. -/
structure PqSt where
  done    : List (BitVec 64 × List Word)
  opn     : List Word
  held    : List HeldWrite
  freed   : Bool
  acked   : List HeldWrite
  lastRd  : Word
  lastAt  : BitVec 64
  flushAt : Option (BitVec 64)
deriving DecidableEq, Repr, Inhabited

/-- A packet queue at reset: empty. -/
def PqSt.reset : PqSt := ⟨[], [], [], false, [], 0, 0, none⟩

/-- A group's EN as it stood when the stamped fabric cycle began (the stamp is the cycle plus 1), and
whether an event on DISCH came in it (R348). -/
structure GrpOld where
  stamp : BitVec 64
  en    : Bool
  dis   : Bool
deriving DecidableEq, Repr, Inhabited

/-- The event fabric and the packet queues behind their registers (R342–R361). A fabric cycle is numbered by its base
tick. Beside the events on their way: per source the cycles, from the current one on, in which it fires; the events that
the loop monitor holds for the next cycle (the cycle and the cell); the sources that fire in the next cycle, with their hop
counts; the global counters as they stood when the stamped cycle began (the stamp is the cycle plus 1). -/
structure Ev where
  inbox    : List Inbox
  fired    : SMap (List (BitVec 64))
  pulses   : List (Nat × BitVec 64 × Nat)
  grpOld   : SMap GrpOld
  binds    : SMap (List Nat)
  taskIn   : List Nat
  filt     : SMap Nat
  cellCyc  : SMap (BitVec 64 × Bool)
  loops    : List (BitVec 64 × Nat)
  later    : List (BitVec 64 × Nat × Nat)
  gcntOld  : SMap (BitVec 64 × DWord)
  pqs      : SMap PqSt
deriving DecidableEq, Repr, Inhabited

/-- A frame in a port's scheduled queue (R368): its instant and its packet words. -/
structure SFrame where
  at'   : Time72
  words : List Word
deriving DecidableEq, Repr, Inhabited

/-- A network port behind its registers (R363–R375): its scheduled queue, the triggers that waiting packets
have taken, the frame sent last with its retries, the instant its gate list became active, the gate states
and the entry in force, the instant a scheduled swap takes over, and from when until when the frame and the interframe space
behind it hold the line, in grains of base ticks. -/
structure PortSt where
  sched   : List SFrame
  trigs   : Nat
  sent    : Option SFrame
  retries : Nat
  listAt  : BitVec 64
  gates   : BitVec 8
  entry   : Nat
  swapAt  : Nat
  sendAt  : Nat
  busyTo  : Nat
deriving DecidableEq, Repr, Inhabited

/-- A port at reset: nothing queued, every gate open (R374). -/
def PortSt.reset : PortSt := ⟨[], 0, none, 0, 0, 0xFF, 0, 0, 0, 0⟩

/-- A CMAC job in progress (R378, R379): the JOB word, its freshness value, the MAC it computes, the MAC
words to compare with, its end. -/
structure CmacJob where
  job    : Word
  fv     : Option DWord
  mac    : BitVec 128
  expect : List Word
  endAt  : BitVec 64
deriving DecidableEq, Repr, Inhabited

/-- A CMAC engine behind its registers (R376–R379): the key slots, the message buffer and where the next
word goes, the job. -/
structure CmacSt where
  keys  : SMap (BitVec 144)
  valid : SMap Bool
  buf   : SMap Word
  fill  : Nat
  job   : Option CmacJob
deriving DecidableEq, Repr, Inhabited

/-- An engine at reset: no key valid, no message. -/
def CmacSt.reset : CmacSt := ⟨[], [], [], 0, none⟩

/-- A line of a port's device cache (R394). -/
structure CLine where
  line     : Nat
  words    : SMap Word
  modified : Bool
deriving DecidableEq, Repr, Inhabited

/-- A host line that the snoop filter tracks (R391), oldest first in its list. -/
structure Tracked where
  line     : Nat
  modified : Bool
deriving DecidableEq, Repr, Inhabited

/-- A CXL port behind its registers (R381–R401). -/
structure CxlPortSt where
  cache     : List CLine
  filter    : List Tracked
  caps      : SMap CapV
  msix      : SMap (BitVec 32)
  pba       : SMap Bool
  downAt    : BitVec 64
deriving DecidableEq, Repr, Inhabited

/-- A port at reset: down. -/
def CxlPortSt.reset : CxlPortSt := ⟨[], [], [], [], [], 0⟩

/-- A mailbox behind its registers (R397, R398): when its doorbell rang. -/
structure MbSt where
  rungAt : BitVec 64
deriving DecidableEq, Repr, Inhabited

/-- The CXL block behind its registers. -/
structure Cxl where
  ports : SMap CxlPortSt
  mbs   : SMap MbSt
  host  : SMap Word
  sent  : List (Nat × Nat)
  raised : List Nat
deriving DecidableEq, Repr, Inhabited

/-- A model parameter that a Loam image defines (R417): the 14 words, the value last applied, the
value last accepted. -/
structure Param where
  key      : Nat
  desc     : List Word
  applied  : List Word
  accepted : List Word
deriving DecidableEq, Repr, Inhabited

/-- A request that waits for the application of its last entry (R418, R422): its number, its path, the header
words of its response. -/
structure Waiting where
  req  : Nat
  path : NfpPath
  hdr  : List Word
deriving DecidableEq, Repr, Inhabited

/-- A kept response of R412. -/
structure Kept where
  peer : NfpPeer
  seq  : BitVec 16
  resp : List Word
  at'  : BitVec 64
deriving DecidableEq, Repr, Inhabited

/-- The dictionary server (R403–R424): the values of the entries it keeps, the counters, the model parameters,
the backlog of each cluster, the requests that wait for an application, the kept responses, the number of
the next such request, and the responses sent on each path, oldest first. -/
structure Od where
  vals    : SMap (List Word)
  ctrs    : SMap DWord
  params  : List Param
  backlog : SMap (List PEntry)
  waiting : List Waiting
  kept    : List Kept
  nextReq : Nat
  out     : List (NfpPath × List Word)
deriving DecidableEq, Repr, Inhabited

/-- A scheduled swap (R443): the cluster, the base frame, the region's global address, as the GO found them. -/
structure SwapReq where
  vc    : Nat
  frame : Nat
  base  : Nat
deriving DecidableEq, Repr, Inhabited

/-- The spare manager beside its registers and the clusters' own parts (R425–R443): per tile the cluster whose
restore its engine runs, the scheduled swap, which of the tile's two spares a swap takes, whether its restore has completed, whether
its tick has passed, the words it loaded, the pair members that are out, the stores' contents that a physical slot taken out of use keeps. -/
structure Spm where
  engine   : SMap (Option Nat)
  swap     : Option SwapReq
  swapSlot : Option Nat
  swapDone : Bool
  swapLate : Bool
  swapMem  : SMap Word
  single   : List Nat
  retained : SMap (SMap Word)
deriving DecidableEq, Repr, Inhabited

/-- The OTP of the security core (R447). -/
structure Otp where
  provisioned : Bool
  idKey       : BitVec 256
  idCert      : List Word
  caCert      : List Word
  vendor      : SMap (BitVec 256)
  owner       : SMap (BitVec 256)
  programmed  : BitVec 6
  revoked     : BitVec 6
  counters    : SMap Nat
deriving DecidableEq, Repr, Inhabited

/-- The OTP of a blank part (log entry 10). -/
def Otp.blank : Otp := ⟨false, 0, [], [], [], [], 0, 0, []⟩

/-- A running or installed image (R449, R451): version, security version, the signer's key. -/
structure Img where
  version : Word
  svn     : Nat
  qx      : BitVec 256
  qy      : BitVec 256
  digest  : BitVec 256
deriving DecidableEq, Repr, Inhabited

/-- A verified copy in the sealed area (R451, R452). -/
structure Sealed where
  addr : Nat
  len  : Nat
  svn  : Nat
  loam : Bool
deriving DecidableEq, Repr, Inhabited

/-- A security request in progress (R450): its kind, its code, its outcome waiting for the end. -/
structure SecJob where
  kind   : BitVec 4
  code   : BitVec 8
  addr   : Option Nat
  digest : Option (BitVec 256)
  image  : Bool
deriving DecidableEq, Repr, Inhabited

/-- The security core behind its registers (R446–R462): OTP, measurement registers, tag secret, the
extension that runs and the one installed for the next restart, the halves of the service-sequencer memory,
whether Topsoil runs, when it was asked to quiesce and whether that took too long (R442), the sealed copies,
the request in progress, the last nonce and report, Topsoil's capabilities and those in the request registers (R446, R450), which
half runs, the words of a recovery image that mailbox 0 has brought (R454), the boot flash as last read. -/
structure Sec where
  otp       : Otp
  meas      : SMap (BitVec 256)
  tagSecret : BitVec 128
  ext       : Option Img
  extNext   : Option Img
  topA      : Option Img
  topB      : Option Img
  topRuns   : Bool
  quiesceAt : Option (BitVec 64)
  timedOut  : Bool
  sealedCps : List Sealed
  job       : Option SecJob
  nonce     : List Word
  report    : List Word
  svcCaps   : List CapV
  reqCaps   : List CapV
  halfB     : Bool
  mbImage   : List Word
  flash     : Flash
deriving DecidableEq, Repr, Inhabited

/-- Modes, power and supplies behind their registers (R463–R484): whether SAFE_OUTPUT is entered at the next
base tick, the domains that switch with their targets, whether TJ_TRIP holds the device in reset, the device
time at which STANDBY began, the cluster frames a replay has left, its next base frame and its cluster, the ticks at which
the spare manager last switched a domain, and the temperature sensors that are not valid. -/
structure Pwr where
  safeDue    : Bool
  switching  : SMap (Option (BitVec 2))
  trip       : Bool
  standbyAt  : BitVec 64
  replayLeft : Nat
  replayAt   : Nat
  replayVc   : Nat
  spmSwitch  : SMap (Option (BitVec 64))
  tempBad    : List Nat
deriving DecidableEq, Repr, Inhabited

/-- The Cloip monitor (R487–R493): its rate, the rate that the next character brings, and its last response line: the
words of the result, whether it began OK, and the code of an ERR. -/
structure Mon where
  baud    : Nat
  nextBaud : Option Nat
  resp    : List Word
  ok      : Bool
  code    : Nat
deriving DecidableEq, Repr, Inhabited

/-- A lock held on a hub-matrix target (R24). -/
structure Lock where
  target : Nat
  master : Master
  since  : BitVec 64
deriving DecidableEq, Repr, Inhabited

/-- The device test access port and THERMTRIP_N (R506, R510): its instruction as it acts, the levels that the chain captured,
those that it drives under EXTEST and CLAMP, and what IDCODE or BYPASS shifts out. -/
structure Jtag where
  instr     : JtagInstr
  lands     : List Bool
  latch     : List Bool
  out       : BitVec 32
  thermtrip : Bool
deriving DecidableEq, Repr, Inhabited

/-- A deep-store line or pseudo-channel fact of R202 and R203. -/
structure HbmSt where
  poisoned  : List Nat
  corrected : List (Nat × BitVec 64)
  copying   : SMap (Option Nat)
  spareUsed : SMap (Option Nat)
deriving DecidableEq, Repr, Inhabited

/-- A mover behind its registers (R204–R208): the descriptor in hand, and of its transfer the words written so far, what the
written words held before, the word read that waits to be written. -/
structure MoverSt where
  src   : GAddr
  dst   : GAddr
  len   : Word
  rows  : Word
  sstr  : Word
  dstr  : Word
  link  : Bool
  irq   : Bool
  nxt   : GAddr
  stop  : Option (BitVec 4)
  moved : Nat
  old   : SMap (Option Word)
  got   : Option Word
deriving DecidableEq, Repr, Inhabited

/-- The whole machine. `pending` is the queue of commands waiting, first in, first out; `resp` the
words the last read returned; `fresh` the counter that selects the next free value (log entries 1
and 3); `ticks` counts the base ticks, whose instants a STEP leaves as they are (R69, log entry 5); the rest is the
spec's. -/
structure State where
  pending : List Instr
  resp    : List Word
  fresh   : Nat
  ns      : BitVec 64
  ticks   : BitVec 64
  hub     : SMap Word
  mem     : SMap Word
  snap    : SMap DWord
  cls     : Vector Cluster 256
  tb      : Tb
  links   : SMap Link
  sysref  : SMap Nat
  sysrefAt : SMap (Option Time72)
  tmc     : Tmc
  ev      : Ev
  net     : SMap PortSt
  cmac    : SMap CmacSt
  cxl     : Cxl
  od      : Od
  spm     : Spm
  sec     : Sec
  pwr     : Pwr
  mon     : Mon
  locks   : List Lock
  jtag    : Jtag
  hbm     : HbmSt
  movers  : SMap (Option MoverSt)
  syncOut : Bool
deriving DecidableEq, Repr, Inhabited

/-- The machine right after reset (R9, R471): every register at its Reset value, every store clear,
device time 0, no command waiting. A field for which the spec gives no value holds the value that
log entry 4 or 10 names. -/
def State.reset : State where
  pending := []
  resp := []
  fresh := 0
  ns := 0
  ticks := 0
  hub := []
  mem := []
  snap := []
  cls := Vector.replicate 256 Cluster.reset
  tb := ⟨none, none, none, false, false, 0, 0, 0, none, [], [], none⟩
  links := []
  sysref := []
  sysrefAt := []
  tmc := ⟨[], [], [], [], [], [], [], [], [], none⟩
  ev := ⟨[], [], [], [], [], [], [], [], [], [], [], []⟩
  net := []
  cmac := []
  cxl := ⟨[], [], [], [], []⟩
  od := ⟨[], [], [], [], [], [], 1, []⟩
  spm := ⟨[], none, none, false, false, [], [], []⟩
  sec := ⟨Otp.blank, [], 0, none, none, none, none, false, none, false, [], none, [], [], [], [], false, [], ⟨[]⟩⟩
  pwr := ⟨false, [], false, 0, 0, 0, 0, [], []⟩
  mon := ⟨115200, none, [], true, 0⟩
  locks := []
  jtag := ⟨.bypass, [], [], 0, false⟩
  hbm := ⟨[], [], [], []⟩
  movers := []
  syncOut := false

/-- Why a command could stop the machine. No command of this block does: the spec gives every one an
effect (NOTES.md, Stops). The one constructor is raised by nobody. -/
inductive Fault where
  /-- Raised by no meaning; it keeps the type inhabited. Safe. -/
  | none
deriving DecidableEq, Repr

/-- Why a command could be refused. -/
inductive Refusal where
  /-- A command that has no meaning yet, by its mnemonic; raised by the arms of Dispatch.lean only.
  Safe. -/
  | notModelled (mnemonic : String)
deriving DecidableEq, Repr

end Sys2Proof.Machine

/-- A unit's stores and registers after a self-test, which leaves them undefined (R470): those of this state. -/
opaque Sys2Proof.Config.freeUnits : Nat → Sys2Proof.Machine.State
end

