-- ==== Sys2Proof/Machine/Registers.lean ====
section
/-!
DEFINITION. Machine/Registers.lean: the register maps of the spec as rows, and how a register reads
and takes a write by its fields' access codes (spec/00_scope.md R5–R9). Hub registers are keyed by
their offset from global word address 0x40_0000_0000, a sequencer's registers by IO-space offset. An
offset that no row covers is a read-only register whose fields reset to 0, or no register (R7).
-/
namespace Sys2Proof.Machine

/-- The value of a sparse map at a key; `d` gives what an unlisted key holds. -/
def smGet (d : Nat → α) : SMap α → Nat → α
  | [], k => d k
  | (a, b) :: t, k => if a = k then b else smGet d t k

/-- The map without an entry for key `k`. -/
def smErase : SMap α → Nat → SMap α
  | [], _ => []
  | (a, b) :: t, k => if a = k then smErase t k else (a, b) :: smErase t k

/-- The map with the entry `(k, v)` put in its place by key order; no entry for `k` may stand. -/
def smInsert (k : Nat) (v : α) : SMap α → SMap α
  | [] => [(k, v)]
  | (a, b) :: t => if k < a then (k, v) :: (a, b) :: t else (a, b) :: smInsert k v t

/-- Set a key: a value equal to what an unlisted key holds leaves no entry. -/
def smSet [DecidableEq α] (d : Nat → α) (m : SMap α) (k : Nat) (v : α) : SMap α :=
  if v = d k then smErase m k else smInsert k v (smErase m k)

/-- `smGet` where every unlisted key holds `d`. -/
def smAt (d : α) (m : SMap α) (k : Nat) : α := smGet (fun _ => d) m k

/-- `smSet` where every unlisted key holds `d`. -/
def smPut [DecidableEq α] (d : α) (m : SMap α) (k : Nat) (v : α) : SMap α := smSet (fun _ => d) m k v

/-- The canonical form of a sparse map: keys strictly rising, no entry equal to what its key holds
unlisted. -/
def smWf [DecidableEq α] (d : Nat → α) : SMap α → Bool
  | [] => true
  | (a, b) :: t => decide (b ≠ d a) && (match t with | [] => true | (c, _) :: _ => decide (a < c)) && smWf d t

/-- Bits hi down to lo of a word, as a number (R5). -/
def fld (hi lo : Nat) (w : BitVec n) : Nat := w.toNat / 2 ^ lo % 2 ^ (hi + 1 - lo)

/-- Bit i of a word (R5). -/
def bitOf (i : Nat) (w : BitVec n) : Bool := w.getLsbD i

/-- A word with bits hi down to lo replaced by the low bits of `v` (R5). -/
def setFld (hi lo : Nat) (v : Nat) (w : BitVec n) : BitVec n :=
  BitVec.ofNat n (w.toNat / 2 ^ (hi + 1) * 2 ^ (hi + 1) + v % 2 ^ (hi + 1 - lo) * 2 ^ lo + w.toNat % 2 ^ lo)

/-- A word with bit i set to `b`. -/
def setBit (i : Nat) (b : Bool) (w : BitVec n) : BitVec n := setFld i i b.toNat w

/-- A family of registers that share their fields: the first offset, two strides with their counts,
the mask of fields that a write sets (RW, RWS), of fields that a written 1 clears (RW1C), of write-only
fields whose value the unit keeps (they read 0), and the reset value (R8, R9). -/
structure RegRow where
  base  : Nat
  s1    : Nat
  n1    : Nat
  s2    : Nat
  n2    : Nat
  rw    : Word
  w1c   : Word
  wo    : Word
  reset : Word
deriving DecidableEq, Repr

/-- A register without writable fields that resets to 0, and an unoccupied offset (R7). -/
def RegRow.plain : RegRow := ⟨0, 1, 1, 1, 1, 0, 0, 0, 0⟩

/-- Whether a row covers an offset. -/
def rowCovers (r : RegRow) (off : Nat) : Bool :=
  let d := off - r.base
  let e := d % r.s1
  decide (r.base ≤ off) &&
    (if r.n2 = 1 then decide (e = 0) && decide (d / r.s1 < r.n1)
     else decide (d / r.s1 < r.n1) && decide (e % r.s2 = 0) && decide (e / r.s2 < r.n2))

/-- The row of an offset in a list of rows. -/
def rowOf : List RegRow → Nat → RegRow
  | [], _ => RegRow.plain
  | r :: t, off => if rowCovers r off then r else rowOf t off

/-- Register rows of the time base (02). -/
def tbRows : List RegRow := [
  -- TB_SET_W0, TB_ORIGIN_W0 (0x1011), bits [7:0] reserved
  ⟨0x1004, 0xD, 2, 1, 1, 0xFFFF00, 0x000000, 0x000000, 0x000000⟩,
  -- TB_GRID_AT_W0
  ⟨0x1014, 0x1, 1, 1, 1, 0xFFFF00, 0x000000, 0x000000, 0x000000⟩,
  -- TB_SET_W1–W2
  ⟨0x1005, 0x1, 2, 1, 1, 0xFFFFFF, 0x000000, 0x000000, 0x000000⟩,
  -- TB_CTRL
  ⟨0x1008, 0x1, 1, 1, 1, 0x000002, 0x000000, 0x000000, 0x000000⟩,
  -- TB_SLEW
  ⟨0x1009, 0x1, 1, 1, 1, 0xFFFFFF, 0x000000, 0x000000, 0x000000⟩,
  -- TB_STATUS
  ⟨0x100A, 0x1, 1, 1, 1, 0x000000, 0x000000, 0x000000, 0x0000C0⟩,
  -- TB_FLAGS
  ⟨0x100B, 0x1, 1, 1, 1, 0x000000, 0x0001FF, 0x000000, 0x000000⟩,
  -- TB_REF_CFG
  ⟨0x100C, 0x1, 1, 1, 1, 0x0000BF, 0x000000, 0x000000, 0x000039⟩,
  -- TB_SYNC_CFG
  ⟨0x100D, 0x1, 1, 1, 1, 0x000007, 0x000000, 0x000000, 0x000000⟩,
  -- TB_SYNC_DELAY
  ⟨0x100E, 0x1, 1, 1, 1, 0xFFFFFF, 0x000000, 0x000000, 0x000000⟩,
  -- TB_FRAME_PERIOD
  ⟨0x1010, 0x1, 1, 1, 1, 0x0FFFFF, 0x000000, 0x000000, 0x0003E8⟩,
  -- TB_ORIGIN_W1–W2, TB_GRID_AT_W1–W2
  ⟨0x1012, 0x3, 2, 1, 2, 0xFFFFFF, 0x000000, 0x000000, 0x000000⟩,
  -- TB_HOLD_ALIGN
  ⟨0x101C, 0x1, 1, 1, 1, 0x000000, 0x000000, 0x000000, 0x000001⟩,
  -- TB_RATE_n
  ⟨0x1100, 0x1, 256, 1, 1, 0x003FFF, 0x000000, 0x000000, 0x000000⟩]

/-- Register rows of the hub movers (06). -/
def mvRows : List RegRow := [
  -- PLOT_MVc_SRC_W0, PLOT_MVc_DST_W0
  ⟨0x4000, 0x20, 32, 2, 2, 0xFFFFFF, 0x000000, 0x000000, 0x000000⟩,
  -- PLOT_MVc_SRC_W1, PLOT_MVc_DST_W1
  ⟨0x4001, 0x20, 32, 2, 2, 0x00FFFF, 0x000000, 0x000000, 0x000000⟩,
  -- PLOT_MVc_LEN, ROWS, SSTR, DSTR
  ⟨0x4004, 0x20, 32, 1, 4, 0xFFFFFF, 0x000000, 0x000000, 0x000000⟩,
  -- PLOT_MVc_CTL
  ⟨0x4008, 0x20, 32, 1, 1, 0x3803FF, 0x000000, 0x000000, 0x000000⟩,
  -- PLOT_MVc_STAT
  ⟨0x4009, 0x20, 32, 1, 1, 0x000000, 0x680000, 0x000000, 0x000000⟩,
  -- PLOT_MVc_NEXT_W0
  ⟨0x400A, 0x20, 32, 1, 1, 0xFFFFFF, 0x000000, 0x000000, 0x000000⟩,
  -- PLOT_MVc_NEXT_W1
  ⟨0x400B, 0x20, 32, 1, 1, 0x00FFFF, 0x000000, 0x000000, 0x000000⟩,
  -- PLOT_MVc_SCAP_W0–W3, PLOT_MVc_DCAP_W0–W3
  ⟨0x400C, 0x20, 32, 1, 8, 0x000000, 0x000000, 0xFFFFFF, 0x000000⟩]

/-- Register rows of the converter links (10). -/
def jlRows : List RegRow := [
  -- JL_SYSREF_CFG
  ⟨0x8000, 0x1, 1, 1, 1, 0x7F000F, 0x000000, 0x000000, 0x010000⟩,
  -- JL_SYSREF_PER
  ⟨0x8001, 0x1, 1, 1, 1, 0xFFFFFF, 0x000000, 0x000000, 0x000500⟩,
  -- JL_SYSREF_DLYo
  ⟨0x8004, 0x1, 4, 1, 1, 0x000FFF, 0x000000, 0x000000, 0x000000⟩,
  -- JL_LANEk_CFG
  ⟨0x8040, 0x1, 64, 1, 1, 0x000003, 0x000000, 0x000000, 0x000000⟩,
  -- JL_LINKl_CTL
  ⟨0x8100, 0x80, 16, 1, 1, 0xF80000, 0x000000, 0x000000, 0x100000⟩,
  -- JL_LINKl_PARAM0
  ⟨0x8101, 0x80, 16, 1, 1, 0xFFFF80, 0x000000, 0x000000, 0x000000⟩,
  -- JL_LINKl_PARAM1
  ⟨0x8102, 0x80, 16, 1, 1, 0xFFF800, 0x000000, 0x000000, 0x800000⟩,
  -- JL_LINKl_RATE
  ⟨0x8103, 0x80, 16, 1, 1, 0x00FFFF, 0x000000, 0x000000, 0x007EF4⟩,
  -- JL_LINKl_DST
  ⟨0x8104, 0x80, 16, 1, 1, 0xFFF000, 0x000000, 0x000000, 0x000000⟩,
  -- JL_LINKl_FILL
  ⟨0x8105, 0x80, 16, 1, 1, 0xFFFFFF, 0x000000, 0x000000, 0x000000⟩,
  -- JL_LINKl_CUT
  ⟨0x8106, 0x80, 16, 1, 1, 0xFFFFFF, 0x000000, 0x000000, 0x000073⟩,
  -- JL_LINKl_EGRESS_OFS
  ⟨0x8107, 0x80, 16, 1, 1, 0xFFFFFF, 0x000000, 0x000000, 0x000055⟩,
  -- JL_LINKl_RBD, LATADJ, SAFE
  ⟨0x8108, 0x80, 16, 1, 3, 0xFFFFFF, 0x000000, 0x000000, 0x000000⟩,
  -- JL_LINKl_ERR
  ⟨0x810C, 0x80, 16, 1, 1, 0x000000, 0x00000F, 0x000000, 0x000000⟩,
  -- JL_LINKl_SCALEm
  ⟨0x8140, 0x80, 16, 2, 32, 0xFFFFFF, 0x000000, 0x000000, 0x3F0000⟩,
  -- JL_LINKl_OFFSETm
  ⟨0x8141, 0x80, 16, 2, 32, 0xFFFFFF, 0x000000, 0x000000, 0x000000⟩]

/-- Register rows of the timing unit (11). -/
def tmcRows : List RegRow := [
  -- TMC_BANKb_CFG
  ⟨0x10000, 0x1, 8, 1, 1, 0x000001, 0x400000, 0x000000, 0x000000⟩,
  -- TMC_GSTART_AT_W0
  ⟨0x10011, 0x1, 1, 1, 1, 0xFFFF00, 0x000000, 0x000000, 0x000000⟩,
  -- TMC_GSTART_AT_W1–W2
  ⟨0x10012, 0x1, 2, 1, 1, 0xFFFFFF, 0x000000, 0x000000, 0x000000⟩,
  -- TMC_GSTAT
  ⟨0x10014, 0x1, 1, 1, 1, 0x000000, 0x000003, 0x000000, 0x000000⟩,
  -- TMC_PINp_CFG
  ⟨0x10100, 0x1, 256, 1, 1, 0xF00000, 0x000000, 0x000000, 0x400000⟩,
  -- TMC_CNTn_CFG
  ⟨0x10200, 0x2, 32, 1, 1, 0xFFFF80, 0x000000, 0x000000, 0x080000⟩,
  -- TMC_CNTn_VAL
  ⟨0x10201, 0x2, 32, 1, 1, 0xFFFFFF, 0x000000, 0x000000, 0x000000⟩,
  -- TMC_CGg_CTL
  ⟨0x10300, 0x4, 32, 1, 1, 0xFF83FF, 0x000000, 0x000000, 0x008000⟩,
  -- TMC_CGg_DST
  ⟨0x10301, 0x4, 32, 1, 1, 0xFFFFFF, 0x000000, 0x000000, 0x000000⟩,
  -- TMC_CGg_CUT
  ⟨0x10302, 0x4, 32, 1, 1, 0xFFFFFF, 0x000000, 0x000000, 0x000032⟩,
  -- TMC_EGg_CTL
  ⟨0x10380, 0x4, 32, 1, 1, 0x8003FF, 0x000000, 0x000000, 0x000010⟩,
  -- TMC_EGg_DST
  ⟨0x10381, 0x4, 32, 1, 1, 0xFFFFFF, 0x000000, 0x000000, 0x000000⟩,
  -- TMC_FGg CTL
  ⟨0x10400, 0x10, 64, 1, 1, 0xFFFF00, 0x000000, 0x000000, 0x000100⟩,
  -- TMC_FGg PERIOD_BUF, RISE_BUF, FALL_BUF, INIT, PAT_W0–W2
  ⟨0x10401, 0x10, 64, 1, 7, 0xFFFFFF, 0x000000, 0x000000, 0x000000⟩,
  -- TMC_FGg STAT
  ⟨0x1040C, 0x10, 64, 1, 1, 0x000000, 0x800000, 0x000000, 0x000000⟩,
  -- TMC_CHc CFG
  ⟨0x11000, 0x8, 1024, 1, 1, 0xFFFFF0, 0x000000, 0x000000, 0x000000⟩,
  -- TMC_CHc CMP
  ⟨0x11001, 0x8, 1024, 1, 1, 0xFFFFFF, 0x000000, 0x000000, 0x000000⟩,
  -- TMC_CHc INTERVAL
  ⟨0x11002, 0x8, 1024, 1, 1, 0xFFFFFF, 0x000000, 0x000000, 0x000001⟩,
  -- TMC_CHc STAT
  ⟨0x11006, 0x8, 1024, 1, 1, 0x000000, 0x740000, 0x000000, 0x000000⟩]

/-- Register rows of the event fabric and packet queues (12, 19). -/
def evfRows : List RegRow := [
  -- EVF_GSTAT
  ⟨0x20000, 0x1, 1, 1, 1, 0x000000, 0x000001, 0x000000, 0x000000⟩,
  -- EVF_LOOP, EVF_FORKERR_W0
  ⟨0x20001, 0x1, 2, 1, 1, 0x000000, 0x800000, 0x000000, 0x000000⟩,
  -- EVF_CHFLAG_W0–W41
  ⟨0x20010, 0x1, 42, 1, 1, 0x000000, 0xFFFFFF, 0x000000, 0x000000⟩,
  -- EVF_CHFLAG_W42
  ⟨0x2003A, 0x1, 1, 1, 1, 0x000000, 0x00FFFF, 0x000000, 0x000000⟩,
  -- EVF_GRP0_CTL: EN fixed at 1, EN and DISCH not writable (R347)
  ⟨0x20100, 0x1, 1, 1, 1, 0x7FF800, 0x000000, 0x000000, 0x800000⟩,
  -- EVF_GRPg_CTL
  ⟨0x20100, 0x1, 64, 1, 1, 0xFFFFFE, 0x000000, 0x000000, 0x000000⟩,
  -- EVF_CHc_CFG
  ⟨0x21000, 0x4, 1024, 1, 1, 0xFE0FFF, 0x000000, 0x000000, 0x000000⟩,
  -- EVF_CHc_SRCB
  ⟨0x21001, 0x4, 1024, 1, 1, 0x800FFF, 0x000000, 0x000000, 0x000000⟩,
  -- EVF_CHc_STAT
  ⟨0x21003, 0x4, 1024, 1, 1, 0x00FFFF, 0xC00000, 0x000000, 0x000000⟩,
  -- EVF_CELLx CTL
  ⟨0x22000, 0x4, 512, 1, 1, 0xFFF000, 0x000000, 0x000000, 0x000000⟩,
  -- EVF_CELLx LUT
  ⟨0x22001, 0x4, 512, 1, 1, 0x00FFFF, 0x000000, 0x000000, 0x000000⟩,
  -- EVF_CELLx IN01, IN23
  ⟨0x22002, 0x4, 512, 1, 2, 0xFFFFFF, 0x000000, 0x000000, 0xC00C00⟩,
  -- EVF_PQf CFG
  ⟨0x24000, 0x10, 64, 1, 1, 0xF80FFF, 0x000000, 0x000000, 0x200000⟩,
  -- EVF_PQf STALE
  ⟨0x24002, 0x10, 64, 1, 1, 0x0FFFFF, 0x000000, 0x000000, 0x000000⟩,
  -- EVF_PQf STAT
  ⟨0x24007, 0x10, 64, 1, 1, 0x000000, 0x1E0000, 0x000000, 0x800000⟩,
  -- EVF_PQf ROOM
  ⟨0x24009, 0x10, 64, 1, 1, 0x000000, 0x000000, 0x000000, 0x000010⟩,
  -- EVF_GCNTg SEL
  ⟨0x25000, 0x8, 16, 1, 1, 0x800FFF, 0x000000, 0x000000, 0x000000⟩,
  -- EVF_GCNT_CTL
  ⟨0x25080, 0x1, 1, 1, 1, 0x800000, 0x00FFFF, 0x000000, 0x000000⟩]

/-- Register rows of the network block (13). -/
def netRows : List RegRow := [
  -- NET_PORTp_CFG
  ⟨0x30000, 0x40, 40, 1, 1, 0xFFF800, 0x000000, 0x000000, 0x004000⟩,
  -- NET_PORTp_Q
  ⟨0x30001, 0x40, 40, 1, 1, 0xBFBF00, 0x000000, 0x000000, 0x000000⟩,
  -- NET_PORTp_TRIG
  ⟨0x30002, 0x40, 40, 1, 1, 0x8003FF, 0x000000, 0x000000, 0x000000⟩,
  -- NET_PORTp_FG_CTL
  ⟨0x30003, 0x40, 40, 1, 1, 0x8003FF, 0x000000, 0x000000, 0x000010⟩,
  -- NET_PORTp_FG_DST
  ⟨0x30004, 0x40, 40, 1, 1, 0xFFFFFF, 0x000000, 0x000000, 0x000000⟩,
  -- NET_PORTp_NBT, DBT, XBT (CAN)
  ⟨0x30005, 0x40, 32, 1, 3, 0xFFFFFF, 0x000000, 0x000000, 0x000000⟩,
  -- NET_PORTp_MAC_W0–W1 (Ethernet)
  ⟨0x30808, 0x40, 8, 1, 2, 0xFFFFFF, 0x000000, 0x000000, 0x000000⟩,
  -- NET_PORTp_MDIO_CMD (Ethernet)
  ⟨0x3080A, 0x40, 8, 1, 1, 0xC003FF, 0x000000, 0x000000, 0x000000⟩,
  -- NET_PORTp_MDIO_DATA (Ethernet)
  ⟨0x3080B, 0x40, 8, 1, 1, 0x00FFFF, 0x000000, 0x000000, 0x000000⟩,
  -- NET_PORTp_STAT
  ⟨0x3000C, 0x40, 40, 1, 1, 0x000000, 0x300000, 0x000000, 0x000000⟩,
  -- NET_PORTp_FLTk (CAN)
  ⟨0x30020, 0x40, 32, 1, 32, 0xFFFFFF, 0x000000, 0x000000, 0x000000⟩,
  -- NET_PORTp_GCL_CTL (Ethernet)
  ⟨0x30820, 0x40, 8, 1, 1, 0x803FFF, 0x080000, 0x000000, 0x000081⟩,
  -- NET_PORTp_GCL_A_CYCLE, GCL_B_CYCLE (Ethernet)
  ⟨0x30822, 0x40, 8, 4, 2, 0xFFFFFF, 0x000000, 0x000000, 0x0F4240⟩,
  -- NET_PORTp_GCL_A_BASE_W0, GCL_B_BASE_W0 (Ethernet)
  ⟨0x30823, 0x40, 8, 4, 2, 0xFFFF00, 0x000000, 0x000000, 0x000000⟩,
  -- NET_PORTp_GCL_A_BASE_W1–W2 (Ethernet)
  ⟨0x30824, 0x40, 8, 1, 2, 0xFFFFFF, 0x000000, 0x000000, 0x000000⟩,
  -- NET_PORTp_GCL_B_BASE_W1–W2 (Ethernet)
  ⟨0x30828, 0x40, 8, 1, 2, 0xFFFFFF, 0x000000, 0x000000, 0x000000⟩,
  -- NET_CMq LEN
  ⟨0x31001, 0x400, 4, 1, 1, 0xFF0FFF, 0x000000, 0x000000, 0x040000⟩,
  -- NET_CMq STAT
  ⟨0x31002, 0x400, 4, 1, 1, 0x000000, 0x300000, 0x000000, 0x000000⟩,
  -- NET_CMq RXFV_W0–W1, MAC_W0–W5
  ⟨0x31003, 0x400, 4, 1, 8, 0xFFFFFF, 0x000000, 0x000000, 0x000000⟩,
  -- NET_CM0 KEYs_W0–W4
  ⟨0x31100, 0x8, 64, 1, 5, 0x000000, 0x000000, 0xFFFFFF, 0x000000⟩,
  -- NET_CM1 KEYs_W0–W4
  ⟨0x31500, 0x8, 64, 1, 5, 0x000000, 0x000000, 0xFFFFFF, 0x000000⟩,
  -- NET_CM2 KEYs_W0–W4
  ⟨0x31900, 0x8, 64, 1, 5, 0x000000, 0x000000, 0xFFFFFF, 0x000000⟩,
  -- NET_CM3 KEYs_W0–W4
  ⟨0x31D00, 0x8, 64, 1, 5, 0x000000, 0x000000, 0xFFFFFF, 0x000000⟩,
  -- gate lists: gate states
  ⟨0x32000, 0x2, 1024, 1, 1, 0x0000FF, 0x000000, 0x000000, 0x000000⟩,
  -- gate lists: intervals
  ⟨0x32001, 0x2, 1024, 1, 1, 0xFFFFFF, 0x000000, 0x000000, 0x000000⟩,
  -- NET_CMq_FVc_W0–W1
  ⟨0x33000, 0x200, 4, 1, 512, 0xFFFFFF, 0x000000, 0x000000, 0x000000⟩]

/-- Register rows of the CXL block (14). -/
def cxlRows : List RegRow := [
  -- CXL_CFG
  ⟨0x40000, 0x1, 1, 1, 1, 0x4000FF, 0x000000, 0x000000, 0x000064⟩,
  -- CXL_PORTp_ERR
  ⟨0x40012, 0x1, 2, 1, 1, 0x000000, 0x00003F, 0x000000, 0x000000⟩,
  -- CXL_HCAPp_k_W0–W3
  ⟨0x40100, 0x100, 2, 1, 32, 0x000000, 0x000000, 0xFFFFFF, 0x000000⟩,
  -- CXL_B2WINp_n_W0
  ⟨0x40120, 0x100, 2, 2, 16, 0xFFFFFF, 0x000000, 0x000000, 0x000000⟩,
  -- CXL_B2WINp_n_W1
  ⟨0x40121, 0x100, 2, 2, 16, 0x80FFFF, 0x000000, 0x000000, 0x000000⟩,
  -- CXL_HDMp_DBASE, SIZE
  ⟨0x40140, 0x100, 2, 1, 2, 0x0001FF, 0x000000, 0x000000, 0x000000⟩,
  -- CXL_HMEMp_BASE_W0–W2, SIZE_W0–W1
  ⟨0x40148, 0x100, 2, 1, 5, 0xFFFFFF, 0x000000, 0x000000, 0x000000⟩,
  -- CXL_MBm_CTL
  ⟨0x41000, 0x400, 8, 1, 1, 0x100000, 0x200000, 0x000000, 0x000000⟩,
  -- CXL_MBm_LEN, RLEN
  ⟨0x41001, 0x400, 8, 1, 2, 0x0001FF, 0x000000, 0x000000, 0x000000⟩,
  -- CXL_MBm_TMO
  ⟨0x41003, 0x400, 8, 1, 1, 0x00FFFF, 0x000000, 0x000000, 0x000000⟩,
  -- CXL_MBm_REQ, RSP
  ⟨0x41100, 0x400, 8, 1, 512, 0xFFFFFF, 0x000000, 0x000000, 0x000000⟩,
  -- CXL_VBINDv
  ⟨0x44000, 0x1, 2048, 1, 1, 0xC003FF, 0x000000, 0x000000, 0x000000⟩]

/-- Register rows of the spare manager (16). -/
def spmRows : List RegRow := [
  -- SPM_CTL
  ⟨0x50000, 0x1, 1, 1, 1, 0x000003, 0x000000, 0x000000, 0x000002⟩,
  -- SPM_STAT
  ⟨0x50001, 0x1, 1, 1, 1, 0x000000, 0x400000, 0x000000, 0x000000⟩,
  -- SPM_TILEt
  ⟨0x50010, 0x1, 8, 1, 1, 0x000000, 0x000000, 0x000000, 0xE02100⟩,
  -- SPM_SWAP_CTL
  ⟨0x50030, 0x1, 1, 1, 1, 0x0000FF, 0x200000, 0x000000, 0x000000⟩,
  -- SPM_SWAP_F0–F1, REG_W0
  ⟨0x50031, 0x1, 3, 1, 1, 0xFFFFFF, 0x000000, 0x000000, 0x000000⟩,
  -- SPM_SWAP_REG_W1
  ⟨0x50034, 0x1, 1, 1, 1, 0x00FFFF, 0x000000, 0x000000, 0x000000⟩,
  -- SPM_CLn CFG
  ⟨0x50101, 0x8, 256, 1, 1, 0xF000FF, 0x000000, 0x000000, 0x000000⟩,
  -- SPM_CLn MIR
  ⟨0x50102, 0x8, 256, 1, 1, 0xFFFFFF, 0x000000, 0x000000, 0x010000⟩,
  -- SPM_CLn STATIC
  ⟨0x50103, 0x8, 256, 1, 1, 0x00FFFF, 0x000000, 0x000000, 0x000000⟩,
  -- SPM_CLn REG_W0
  ⟨0x50104, 0x8, 256, 1, 1, 0xFFFFFF, 0x000000, 0x000000, 0x000000⟩,
  -- SPM_CLn REG_W1
  ⟨0x50105, 0x8, 256, 1, 1, 0x1FFFFF, 0x000000, 0x000000, 0x100000⟩,
  -- SPM_CLn GAP
  ⟨0x50106, 0x8, 256, 1, 1, 0x000000, 0x000000, 0x000000, 0xFFF000⟩]

/-- Register rows of the PWR block (18). -/
def pwrRows : List RegRow := [
  -- PWR_MODE
  ⟨0x60000, 0x1, 1, 1, 1, 0x000000, 0x008000, 0x000000, 0x2F0000⟩,
  -- PWR_WAKE_CFG
  ⟨0x60002, 0x1, 1, 1, 1, 0xC00000, 0x000000, 0x000000, 0x000000⟩,
  -- PWR_WAKE_AT_W0
  ⟨0x60003, 0x1, 1, 1, 1, 0xFFFF00, 0x000000, 0x000000, 0x000000⟩,
  -- PWR_WAKE_AT_W1–W2
  ⟨0x60004, 0x1, 2, 1, 1, 0xFFFFFF, 0x000000, 0x000000, 0x000000⟩,
  -- PWR_RAILr
  ⟨0x60010, 0x1, 15, 1, 1, 0x000000, 0x400000, 0x000000, 0x000000⟩,
  -- PWR_THERM
  ⟨0x60058, 0x1, 1, 1, 1, 0xFF0000, 0x000003, 0x000000, 0x5F0000⟩,
  -- PWR_REPLAY_CTL
  ⟨0x60060, 0x1, 1, 1, 1, 0x0000FF, 0x000000, 0x000000, 0x000000⟩,
  -- PWR_REPLAY_F0–F1, N
  ⟨0x60061, 0x1, 3, 1, 1, 0xFFFFFF, 0x000000, 0x000000, 0x000000⟩,
  -- PWR_DOMd
  ⟨0x60100, 0x1, 293, 1, 1, 0x000003, 0x080000, 0x000000, 0x800002⟩]

/-- Register rows of the UCODE blocks (09). -/
def ucodeRows : List RegRow := [
  -- UCODE_VER
  ⟨0x200000, 0x20, 256, 1, 1, 0x000000, 0x000000, 0x000000, 0x010000⟩,
  -- UCODE_STAT
  ⟨0x200002, 0x20, 256, 1, 1, 0x000000, 0x0001A0, 0x000000, 0x000008⟩,
  -- UCODE_SW_F0–F1
  ⟨0x200003, 0x20, 256, 1, 2, 0xFFFFFF, 0x000000, 0x000000, 0x000000⟩,
  -- UCODE_LD_ADDR
  ⟨0x200005, 0x20, 256, 1, 1, 0x8001FF, 0x000000, 0x000000, 0x000000⟩,
  -- UCODE_LD_VER
  ⟨0x200006, 0x20, 256, 1, 1, 0xFFFFFF, 0x000000, 0x000000, 0x000000⟩,
  -- UCODE_LD_DATA_W0–W4
  ⟨0x200008, 0x20, 256, 1, 5, 0x000000, 0x000000, 0xFFFFFF, 0x000000⟩]

/-- Register rows of the parameter queues (15). -/
def pqRows : List RegRow := [
  -- OD_PQ_ADDR
  ⟨0x300000, 0x10, 256, 1, 1, 0xC3FFFF, 0x000000, 0x000000, 0x000000⟩,
  -- OD_PQ_V0–V2
  ⟨0x300001, 0x10, 256, 1, 3, 0xFFFFFF, 0x000000, 0x000000, 0x000000⟩,
  -- OD_PQ_STAT
  ⟨0x300005, 0x10, 256, 1, 1, 0x000000, 0x380000, 0x000000, 0x800000⟩,
  -- OD_PQ_CAP_W0–W2
  ⟨0x30000C, 0x10, 256, 1, 3, 0x000000, 0x000000, 0xFFFFFF, 0x000000⟩]

/-- Register rows of the security core (17). -/
def secRows : List RegRow := [
  -- SEC_REQ_CTL
  ⟨0x800000, 0x1, 1, 1, 1, 0x00000F, 0x000000, 0x000000, 0x000000⟩,
  -- SEC_REQ_ADDR_W0
  ⟨0x800001, 0x1, 1, 1, 1, 0xFFFFFF, 0x000000, 0x000000, 0x000000⟩,
  -- SEC_REQ_ADDR_W1
  ⟨0x800002, 0x1, 1, 1, 1, 0x00FFFF, 0x000000, 0x000000, 0x000000⟩,
  -- SEC_REQ_LEN_W0–W1, ARG
  ⟨0x800003, 0x1, 3, 1, 1, 0xFFFFFF, 0x000000, 0x000000, 0x000000⟩,
  -- SEC_RESULT
  ⟨0x800006, 0x1, 1, 1, 1, 0x000000, 0x800000, 0x000000, 0x000000⟩,
  -- SEC_STAT
  ⟨0x800009, 0x1, 1, 1, 1, 0x000000, 0x400000, 0x000000, 0x000000⟩]

/-- Register rows of the sequencer's IO-space (02–09, 12, 19). -/
def ioRows : List RegRow := [
  -- SEQ_CTL
  ⟨0x0, 0x1, 1, 1, 1, 0x00000F, 0x000000, 0x000000, 0x00000C⟩,
  -- SEQ_FCSR
  ⟨0x1, 0x1, 1, 1, 1, 0x831F00, 0x00001F, 0x000000, 0x000000⟩,
  -- SEQ_CC
  ⟨0x2, 0x1, 1, 1, 1, 0x00001F, 0x000000, 0x000000, 0x000000⟩,
  -- SEQ_OQ
  ⟨0x3, 0x1, 1, 1, 1, 0x000000, 0x000000, 0x000000, 0x000001⟩,
  -- SEQ_LOOP_CNT
  ⟨0x4, 0x1, 1, 1, 1, 0xFFFFFF, 0x000000, 0x000000, 0x000000⟩,
  -- SEQ_LOOP_START
  ⟨0x5, 0x1, 1, 1, 1, 0x003FFF, 0x000000, 0x000000, 0x000000⟩,
  -- SEQ_LOOP_END
  ⟨0x6, 0x1, 1, 1, 1, 0x803FFF, 0x000000, 0x000000, 0x000000⟩,
  -- SEQ_STATUS
  ⟨0x10, 0x1, 1, 1, 1, 0x000000, 0x000800, 0x000000, 0x101000⟩,
  -- SEQ_WINSEL
  ⟨0x11, 0x1, 1, 1, 1, 0x000037, 0x000000, 0x000000, 0x000000⟩,
  -- SEQ_FPC, SEQ_FSTAT
  ⟨0x14, 0x1, 2, 1, 1, 0xFFFFFF, 0x000000, 0x000000, 0x000000⟩,
  -- SEQ_ENTRY_PC
  ⟨0x16, 0x1, 1, 1, 1, 0x003FFF, 0x000000, 0x000000, 0x000000⟩,
  -- SEQ_SYS_RPC
  ⟨0x17, 0x1, 1, 1, 1, 0xFFFFFF, 0x000000, 0x000000, 0x000000⟩,
  -- SEQ_WSP, SEQ_CTX_REC
  ⟨0x19, 0x1, 2, 1, 1, 0xFFFFFF, 0x000000, 0x000000, 0x000000⟩,
  -- SEQ_CTX_FPA
  ⟨0x1B, 0x1, 1, 1, 1, 0xFFFFFF, 0x000000, 0x000000, 0xFFFFFF⟩,
  -- SEQ_LZ_PTR
  ⟨0x1C, 0x1, 1, 1, 1, 0xFFFFFF, 0x000000, 0x000000, 0x000000⟩,
  -- SEQ_WDOG
  ⟨0x1D, 0x1, 1, 1, 1, 0x0000FF, 0x000000, 0x000000, 0x000002⟩,
  -- SEQ_WREG_k
  ⟨0x20, 0x1, 16, 1, 1, 0xFFFFFF, 0x000000, 0x000000, 0x000000⟩,
  -- SEQ_IRQ_PEND_W0–W1
  ⟨0x30, 0x1, 2, 1, 1, 0x000000, 0xFFFFFF, 0x000000, 0x000000⟩,
  -- SEQ_IRQ_PEND_W2
  ⟨0x32, 0x1, 1, 1, 1, 0x000000, 0x00FFFF, 0x000000, 0x000000⟩,
  -- SEQ_IRQ_EN_W2, SEQ_IRQ_FAST_W2
  ⟨0x35, 0x3, 2, 1, 1, 0x00FFFF, 0x000000, 0x000000, 0x000000⟩,
  -- SEQ_IRQ_EN_W0–W1, SEQ_IRQ_FAST_W0–W1
  ⟨0x33, 0x1, 6, 1, 1, 0xFFFFFF, 0x000000, 0x000000, 0x000000⟩,
  -- SEQ_WIN_n_W0
  ⟨0x40, 0x2, 8, 1, 1, 0xFFFFFF, 0x000000, 0x000000, 0x000000⟩,
  -- SEQ_WIN_n_W1
  ⟨0x41, 0x2, 8, 1, 1, 0x80FFFF, 0x000000, 0x000000, 0x000000⟩,
  -- VU_SETn_DL
  ⟨0x180, 0x1, 8, 1, 1, 0x000007, 0x000000, 0x000000, 0x000002⟩,
  -- VU_SET_MISS
  ⟨0x188, 0x1, 1, 1, 1, 0x000000, 0x0000FF, 0x000000, 0x000000⟩,
  -- VU_SETn_CTL
  ⟨0x190, 0x1, 8, 1, 1, 0x01FC13, 0x000000, 0x000000, 0x000010⟩,
  -- VU_SETn_EVT
  ⟨0x198, 0x1, 8, 1, 1, 0x0007FF, 0x000000, 0x000000, 0x000400⟩,
  -- VU_SETn_STAT
  ⟨0x1A0, 0x1, 8, 1, 1, 0x000000, 0x000001, 0x000000, 0x000000⟩,
  -- VU_SET_ERR
  ⟨0x1A8, 0x1, 1, 1, 1, 0x000000, 0x00000F, 0x000000, 0x000000⟩,
  -- VU_SDESC_W0
  ⟨0x1B0, 0x1, 1, 1, 1, 0xFFFFFF, 0x000000, 0x000000, 0x000000⟩,
  -- VU_SDESC_W1
  ⟨0x1B1, 0x1, 1, 1, 1, 0x00FFFF, 0x000000, 0x000000, 0x000000⟩,
  -- VU_SDESC_W2–W3
  ⟨0x1B2, 0x1, 2, 1, 1, 0xFFFFFF, 0x000000, 0x000000, 0x000000⟩,
  -- VU_SDESC_W4
  ⟨0x1B4, 0x1, 1, 1, 1, 0xFFFC00, 0x000000, 0x000000, 0x000000⟩,
  -- VU_EXC_CAUSE
  ⟨0x1C0, 0x1, 1, 1, 1, 0x000000, 0x800000, 0x000000, 0x000000⟩,
  -- VU_FLAGS
  ⟨0x1D0, 0x1, 1, 1, 1, 0x000000, 0x00001F, 0x000000, 0x000000⟩,
  -- VU_TRAPEN
  ⟨0x1D1, 0x1, 1, 1, 1, 0x00011F, 0x000000, 0x000000, 0x000000⟩,
  -- VU_CONF_CTL
  ⟨0x1F8, 0x1, 1, 1, 1, 0x000002, 0x000000, 0x000000, 0x000000⟩,
  -- VU_FSLOT_x
  ⟨0x200, 0x1, 128, 1, 1, 0xE000FF, 0x000000, 0x000000, 0x000000⟩,
  -- PLOT_CFG_i, i < 16
  ⟨0x300, 0x1, 16, 1, 1, 0xFFFCFF, 0x000000, 0x000000, 0x000000⟩,
  -- PLOT_CFG_i, i ≥ 16
  ⟨0x310, 0x1, 4, 1, 1, 0x7FFCFF, 0x000000, 0x000000, 0x000000⟩,
  -- PLOT_CAPSEL
  ⟨0x340, 0x1, 1, 1, 1, 0x00000F, 0x000000, 0x000000, 0x000000⟩,
  -- PLOT_ERR
  ⟨0x342, 0x1, 1, 1, 1, 0x000000, 0x00000F, 0x000000, 0x000000⟩,
  -- PLOT_REFUSE
  ⟨0x343, 0x1, 1, 1, 1, 0x000000, 0x800000, 0x000000, 0x000000⟩,
  -- PLOT_HO_j_CTL
  ⟨0x348, 0x4, 8, 1, 1, 0x9F0CFF, 0x000000, 0x000000, 0x000000⟩,
  -- PLOT_HO_j_F0–F1
  ⟨0x349, 0x4, 8, 1, 2, 0xFFFFFF, 0x000000, 0x000000, 0x000000⟩,
  -- XCHG_BUSY
  ⟨0x380, 0x1, 1, 1, 1, 0x000000, 0x000003, 0x000000, 0x000000⟩,
  -- XCHG_ECC, VU_LS_ECC (0x3A0)
  ⟨0x382, 0x1E, 2, 1, 1, 0x000000, 0xC00000, 0x000000, 0x000000⟩,
  -- EVF_IRQB_k
  ⟨0x1008, 0x1, 56, 1, 1, 0x8003FF, 0x000000, 0x000000, 0x000000⟩,
  -- SEQ_EVC_CTL
  ⟨0x1100, 0x1, 1, 1, 1, 0x800000, 0x2000FF, 0x000000, 0x000000⟩,
  -- SEQ_EVCk_SEL
  ⟨0x1108, 0x1, 8, 1, 1, 0x00003F, 0x000000, 0x000000, 0x000000⟩]

/-- The read-only fields of hub registers (RO): each row names them as its first mask. -/
def hubRoRows : List RegRow := [
  -- TB_STATUS
  ⟨0x100A, 0x1, 1, 1, 1, 0x000FFF, 0, 0, 0⟩,
  -- TB_SYNC_PHASE
  ⟨0x100F, 0x1, 1, 1, 1, 0xFFFFFF, 0, 0, 0⟩,
  -- TB_FRAME, TB_SIM
  ⟨0x1018, 0x1, 4, 1, 1, 0xFFFFFF, 0, 0, 0⟩,
  -- TB_HOLD_ALIGN
  ⟨0x101C, 0x1, 1, 1, 1, 0x0007FF, 0, 0, 0⟩,
  -- PLOT_MVc_STAT
  ⟨0x4009, 0x20, 32, 1, 1, 0x90000F, 0, 0, 0⟩,
  -- PLOT_MVc_DONE
  ⟨0x4014, 0x20, 32, 1, 2, 0xFFFFFF, 0, 0, 0⟩,
  -- JL_LANEk_STAT
  ⟨0x8080, 0x1, 64, 1, 1, 0xC000FF, 0, 0, 0⟩,
  -- JL_LINKl_PARAM1
  ⟨0x8102, 0x80, 16, 1, 1, 0x0000FF, 0, 0, 0⟩,
  -- JL_LINKl_STAT
  ⟨0x810B, 0x80, 16, 1, 1, 0x800000, 0, 0, 0⟩,
  -- JL_LINKl counters
  ⟨0x8110, 0x80, 16, 1, 10, 0xFFFFFF, 0, 0, 0⟩,
  -- TMC_BANKb_CFG
  ⟨0x10000, 0x1, 8, 1, 1, 0x800000, 0, 0, 0⟩,
  -- TMC_GSTAT
  ⟨0x10014, 0x1, 1, 1, 1, 0xC00000, 0, 0, 0⟩,
  -- TMC_PINp_CFG
  ⟨0x10100, 0x1, 256, 1, 1, 0x080000, 0, 0, 0⟩,
  -- TMC_FGg ACTIVE, COUNT
  ⟨0x10408, 0x10, 64, 1, 4, 0xFFFFFF, 0, 0, 0⟩,
  -- TMC_FGg STAT
  ⟨0x1040C, 0x10, 64, 1, 1, 0x40007F, 0, 0, 0⟩,
  -- TMC_CHc CAP_W0
  ⟨0x11003, 0x8, 1024, 1, 1, 0xFFFFF0, 0, 0, 0⟩,
  -- TMC_CHc CAP_W1–W2
  ⟨0x11004, 0x8, 1024, 1, 2, 0xFFFFFF, 0, 0, 0⟩,
  -- TMC_CHc STAT
  ⟨0x11006, 0x8, 1024, 1, 1, 0x880000, 0, 0, 0⟩,
  -- TMC counters
  ⟨0x13000, 0x1, 6, 1, 1, 0xFFFFFF, 0, 0, 0⟩,
  -- EVF_LOOP
  ⟨0x20001, 0x1, 1, 1, 1, 0x0001FF, 0, 0, 0⟩,
  -- EVF_FORKERR_W0
  ⟨0x20002, 0x1, 1, 1, 1, 0x0003FF, 0, 0, 0⟩,
  -- EVF_FORKERR_W1
  ⟨0x20003, 0x1, 1, 1, 1, 0x03FFFF, 0, 0, 0⟩,
  -- EVF_CELLx LUT: Q
  ⟨0x22001, 0x4, 512, 1, 1, 0x800000, 0, 0, 0⟩,
  -- EVF_PQf STAT
  ⟨0x24007, 0x10, 64, 1, 1, 0x200000, 0, 0, 0⟩,
  -- EVF_GCNTg
  ⟨0x25001, 0x8, 16, 1, 4, 0xFFFFFF, 0, 0, 0⟩,
  -- NET_PORTp_STAT
  ⟨0x3000C, 0x40, 40, 1, 1, 0xC00000, 0, 0, 0⟩,
  -- NET_PORTp counters
  ⟨0x30010, 0x40, 40, 1, 8, 0xFFFFFF, 0, 0, 0⟩]
  ++ [
  -- NET_PORTp_GCL_CTL
  ⟨0x30820, 0x40, 8, 1, 1, 0x300000, 0, 0, 0⟩,
  -- NET_CMq STAT
  ⟨0x31002, 0x400, 4, 1, 1, 0xC00000, 0, 0, 0⟩,
  -- CXL_CFG
  ⟨0x40000, 0x1, 1, 1, 1, 0x800000, 0, 0, 0⟩,
  -- CXL_PORTp_STAT
  ⟨0x40010, 0x1, 2, 1, 1, 0xFF0000, 0, 0, 0⟩,
  -- CXL_MBm_CTL
  ⟨0x41000, 0x400, 8, 1, 1, 0x40FFFF, 0, 0, 0⟩,
  -- SPM_STAT
  ⟨0x50001, 0x1, 1, 1, 1, 0x80007F, 0, 0, 0⟩,
  -- SPM_TILEt
  ⟨0x50010, 0x1, 8, 1, 1, 0xFF3F3F, 0, 0, 0⟩,
  -- SPM_FENCED
  ⟨0x50021, 0x1, 1, 1, 1, 0x00007F, 0, 0, 0⟩,
  -- SPM_SWAP_CTL
  ⟨0x50030, 0x1, 1, 1, 1, 0x400000, 0, 0, 0⟩,
  -- SPM_CLn MAP
  ⟨0x50100, 0x8, 256, 1, 1, 0xEF3F00, 0, 0, 0⟩,
  -- SPM_CLn GAP, LAST
  ⟨0x50106, 0x8, 256, 1, 2, 0xFFFFFF, 0, 0, 0⟩,
  -- PWR_MODE
  ⟨0x60000, 0x1, 1, 1, 1, 0xFF0000, 0, 0, 0⟩,
  -- PWR_RAILr
  ⟨0x60010, 0x1, 15, 1, 1, 0x80FFFF, 0, 0, 0⟩,
  -- PWR_TEMPs
  ⟨0x60030, 0x1, 40, 1, 1, 0xFFFFFF, 0, 0, 0⟩,
  -- PWR_THERM
  ⟨0x60058, 0x1, 1, 1, 1, 0x00C000, 0, 0, 0⟩,
  -- PWR_REPLAY_CTL
  ⟨0x60060, 0x1, 1, 1, 1, 0x400000, 0, 0, 0⟩,
  -- PWR_DOMd
  ⟨0x60100, 0x1, 293, 1, 1, 0xF00000, 0, 0, 0⟩,
  -- OD_PQ_STAT
  ⟨0x300005, 0x10, 256, 1, 1, 0xC0001F, 0, 0, 0⟩,
  -- OD_PQ_LAST, APPLIED
  ⟨0x300006, 0x10, 256, 1, 4, 0xFFFFFF, 0, 0, 0⟩,
  -- SEC_REQ_CTL
  ⟨0x800000, 0x1, 1, 1, 1, 0x400000, 0, 0, 0⟩,
  -- SEC_RESULT
  ⟨0x800006, 0x1, 1, 1, 1, 0x0000FF, 0, 0, 0⟩,
  -- SEC_RESULT_ADDR_W0
  ⟨0x800007, 0x1, 1, 1, 1, 0xFFFFFF, 0, 0, 0⟩,
  -- SEC_RESULT_ADDR_W1
  ⟨0x800008, 0x1, 1, 1, 1, 0x00FFFF, 0, 0, 0⟩,
  -- SEC_STAT
  ⟨0x800009, 0x1, 1, 1, 1, 0xBC0000, 0, 0, 0⟩,
  -- SEC_DIGEST
  ⟨0x800010, 0x1, 11, 1, 1, 0xFFFFFF, 0, 0, 0⟩]

/-- The read-only fields of a sequencer's registers. -/
def ioRoRows : List RegRow := [
  -- SEQ_CTL
  ⟨0x0, 0x1, 1, 1, 1, 0x000F00, 0, 0, 0⟩,
  -- SEQ_OQ
  ⟨0x3, 0x1, 1, 1, 1, 0x001F01, 0, 0, 0⟩,
  -- SEQ_STATUS
  ⟨0x10, 0x1, 1, 1, 1, 0xFFF000, 0, 0, 0⟩,
  -- SEQ_TCAUSE, SEQ_TINFO
  ⟨0x12, 0x1, 2, 1, 1, 0xFFFFFF, 0, 0, 0⟩,
  -- SEQ_SYS_NUM
  ⟨0x18, 0x1, 1, 1, 1, 0x0001FF, 0, 0, 0⟩,
  -- SEQ_WDOG
  ⟨0x1D, 0x1, 1, 1, 1, 0x00FF00, 0, 0, 0⟩,
  -- SEQ_FSTOP
  ⟨0x1E, 0x1, 1, 1, 1, 0x00000F, 0, 0, 0⟩,
  -- VU_SETn_CTL
  ⟨0x190, 0x1, 8, 1, 1, 0x0003E4, 0, 0, 0⟩,
  -- VU_SETn_STAT
  ⟨0x1A0, 0x1, 8, 1, 1, 0x000006, 0, 0, 0⟩,
  -- VU_EXC_CAUSE
  ⟨0x1C0, 0x1, 1, 1, 1, 0x7FF00F, 0, 0, 0⟩,
  -- VU_EXC_PC, VU_EXC_ELEM, VU_EXC_ADDR_W0
  ⟨0x1C1, 0x1, 3, 1, 1, 0xFFFFFF, 0, 0, 0⟩,
  -- VU_EXC_ADDR_W1
  ⟨0x1C4, 0x1, 1, 1, 1, 0x00FFFF, 0, 0, 0⟩,
  -- VU_EXC_FLAGS
  ⟨0x1C5, 0x1, 1, 1, 1, 0x00003F, 0, 0, 0⟩,
  -- VU_CONF_n
  ⟨0x1E0, 0x1, 24, 1, 1, 0xFFFFFF, 0, 0, 0⟩,
  -- VU_FSLOT_CLASH
  ⟨0x1FA, 0x1, 2, 1, 1, 0xFFFFFF, 0, 0, 0⟩,
  -- PLOT_OWN_i
  ⟨0x320, 0x1, 20, 1, 1, 0x8003FF, 0, 0, 0⟩,
  -- PLOT_PHASE
  ⟨0x341, 0x1, 1, 1, 1, 0xFFFFFF, 0, 0, 0⟩,
  -- PLOT_REFUSE
  ⟨0x343, 0x1, 1, 1, 1, 0x7FFFFF, 0, 0, 0⟩,
  -- PLOT_HO_j_CTL
  ⟨0x348, 0x4, 8, 1, 1, 0x400000, 0, 0, 0⟩,
  -- XCHG_COLL_ADDR, XCHG_ECC
  ⟨0x381, 0x1, 2, 1, 1, 0x003FFF, 0, 0, 0⟩,
  -- VU_LS_ECC
  ⟨0x3A0, 0x1, 1, 1, 1, 0x00FFFF, 0, 0, 0⟩,
  -- VU_LS_SPARE
  ⟨0x3A1, 0x1, 1, 1, 1, 0xFFFFFF, 0, 0, 0⟩,
  -- SEQ_EVC_SNAPF
  ⟨0x1101, 0x1, 2, 1, 1, 0xFFFFFF, 0, 0, 0⟩,
  -- SEQ_EVCk, SEQ_EVCk_SNAP
  ⟨0x1110, 0x1, 32, 1, 1, 0xFFFFFF, 0, 0, 0⟩]

/-- The bits of a register that are fields: all others, and every bit of an unoccupied offset, read 0 (R6, R7). -/
def fieldBits (r ro : RegRow) : Word := r.rw ||| r.w1c ||| r.wo ||| ro.rw

/-- The rows that can cover a hub offset, by block (R26 and the blocks' own base addresses). -/
def hubRows (off : Nat) : List RegRow :=
  if off < 0x4000 then tbRows else if off < 0x8000 then mvRows else if off < 0x10000 then jlRows
  else if off < 0x20000 then tmcRows else if off < 0x30000 then evfRows else if off < 0x40000 then netRows
  else if off < 0x50000 then cxlRows else if off < 0x60000 then spmRows else if off < 0x100000 then pwrRows
  else if off < 0x200000 then [] else if off < 0x300000 then ucodeRows else if off < 0x400000 then pqRows
  else if off < 0x800000 then [] else secRows

/-- The row of a hub register. -/
def hubRow (off : Nat) : RegRow := rowOf (hubRows off) off

/-- The row of a sequencer's register. -/
def ioRow (off : Nat) : RegRow := rowOf ioRows off

/-- The Reset value of a hub register (R9). A cluster's home tile and slot in SPM_CLn MAP are those of
R15: VCn in slot n mod 32 of tile n div 32, unprotected. -/
def hubReset (off : Nat) : Word :=
  if 0x50100 ≤ off ∧ off < 0x50900 ∧ off % 8 = 0 then
    let n := (off - 0x50100) / 8
    BitVec.ofNat 24 (2 ^ 19 + n / 32 * 2 ^ 16 + n % 32 * 2 ^ 8)
  else (hubRow off).reset

/-- The Reset value of a sequencer's register (R9). -/
def ioReset (off : Nat) : Word := (ioRow off).reset

/-- A hub register's value with its fields taken from `v` (R6, R7). -/
def hubFields (off : Nat) (v : Word) : Word :=
  let k := fieldBits (hubRow off) (rowOf hubRoRows off)
  (v &&& k) ||| (hubReset off &&& ~~~k)

/-- A sequencer register's value with its fields taken from `v` (R6, R7). -/
def ioFields (off : Nat) (v : Word) : Word :=
  let k := fieldBits (ioRow off) (rowOf ioRoRows off)
  (v &&& k) ||| (ioReset off &&& ~~~k)

/-- What a write leaves in a register (R8): writable fields take the value, a written 1 clears an RW1C
field, kept write-only fields take the value, the rest holds. -/
def regWrite (r : RegRow) (old v : Word) : Word :=
  (old &&& ~~~(r.rw ||| r.wo) &&& ~~~(v &&& r.w1c)) ||| (v &&& (r.rw ||| r.wo))

/-- The fields of dN word 4, ATTR; bits [9:0] read 0 (R75). -/
def attrMask : Word := 0xFFFC00

/-- What a read of a register returns: write-only fields read 0 (R8). -/
def regRead (r : RegRow) (v : Word) : Word := v &&& ~~~r.wo

end Sys2Proof.Machine
end

