-- ==== Sys2Proof/Machine/Ops.lean ====
section
/-!
DEFINITION. Machine/Ops.lean: the named operations over the machine's state: clusters, registers,
memory words and their address map (spec/01_architecture.md R26–R28), device time, counters, read
snapshots (R35), free values.
-/
namespace Sys2Proof.Machine

/-- What a meaning answers. -/
abbrev Out := Host.Outcome State Fault Refusal

/-! ## Clusters -/

/-- Logical cluster `n`. -/
def State.cl (s : State) (n : Cl) : Cluster := s.cls[n]

/-- The state with logical cluster `n` replaced. -/
def State.putCl (s : State) (n : Cl) (c : Cluster) : State := { s with cls := s.cls.set n c }

/-- The state with a function applied to logical cluster `n`. -/
def State.modCl (s : State) (n : Cl) (f : Cluster → Cluster) : State := s.putCl n (f (s.cl n))

/-- A number as a logical cluster, modulo 256. -/
def clOf (k : Nat) : Cl := ⟨k % 256, Nat.mod_lt _ (by decide)⟩

/-- All logical clusters, ascending. -/
def allCl : List Cl := List.finRange 256

/-! ## Registers of the hub (keyed by offset from 0x40_0000_0000) -/

/-- The value a hub register holds. -/
def hubGet (off : Nat) (s : State) : Word := smGet hubReset s.hub off

/-- Put a hub register, as hardware does. -/
def hubPut (off : Nat) (v : Word) (s : State) : State := { s with hub := smSet hubReset s.hub off v }

/-- A bit of a hub register. -/
def hubBit (off i : Nat) (s : State) : Bool := bitOf i (hubGet off s)

/-- A field of a hub register. -/
def hubFld (off hi lo : Nat) (s : State) : Nat := fld hi lo (hubGet off s)

/-- Set a bit of a hub register, as hardware does. -/
def hubSetBit (off i : Nat) (b : Bool) (s : State) : State := hubPut off (setBit i b (hubGet off s)) s

/-- Set a field of a hub register, as hardware does. -/
def hubSetFld (off hi lo v : Nat) (s : State) : State := hubPut off (setFld hi lo v (hubGet off s)) s

/-- A 48-bit value held in two hub registers, low word first (R4). -/
def hubPair (off : Nat) (s : State) : DWord := DWord.ofWords (hubGet off s) (hubGet (off + 1) s)

/-- Put a 48-bit value into two hub registers. -/
def hubPutPair (off : Nat) (v : DWord) (s : State) : State :=
  hubPut (off + 1) (v.extractLsb' 24 24) (hubPut off (v.extractLsb' 0 24) s)

/-- A TIME72 held in three hub registers, low word first (R4, R36). -/
def hubTime (off : Nat) (s : State) : Time72 := hubGet (off + 2) s ++ hubGet (off + 1) s ++ hubGet off s

/-- A 40-bit address held in two hub registers. -/
def hubAddr (off : Nat) (s : State) : Nat := (hubPair off s).toNat % 2 ^ 40

/-- A write of a hub register by its fields' access codes alone (R8). -/
def hubCodeWrite (off : Nat) (v : Word) (s : State) : State :=
  hubPut off (regWrite (hubRow off) (hubGet off s) v) s

/-- Count one up in a 48-bit hub counter pair; it wraps (R380, R316). -/
def hubCount (off : Nat) (s : State) : State := hubPutPair off (hubPair off s + 1) s

/-! ## Registers of a sequencer (keyed by IO-space offset) -/

/-- The value a sequencer register holds. -/
def ioGet (off : Nat) (c : Cluster) : Word := smGet ioReset c.io off

/-- Put a sequencer register, as hardware does. -/
def ioPut (off : Nat) (v : Word) (c : Cluster) : Cluster := { c with io := smSet ioReset c.io off v }

/-- A bit of a sequencer register. -/
def ioBit (off i : Nat) (c : Cluster) : Bool := bitOf i (ioGet off c)

/-- A field of a sequencer register. -/
def ioFld (off hi lo : Nat) (c : Cluster) : Nat := fld hi lo (ioGet off c)

/-- Set a bit of a sequencer register, as hardware does. -/
def ioSetBit (off i : Nat) (b : Bool) (c : Cluster) : Cluster := ioPut off (setBit i b (ioGet off c)) c

/-- Set a field of a sequencer register, as hardware does. -/
def ioSetFld (off hi lo v : Nat) (c : Cluster) : Cluster := ioPut off (setFld hi lo v (ioGet off c)) c

/-- A 48-bit value held in two sequencer registers, low word first (R4). -/
def ioPair (off : Nat) (c : Cluster) : DWord := DWord.ofWords (ioGet off c) (ioGet (off + 1) c)

/-- Put a 48-bit value into two sequencer registers. -/
def ioPutPair (off : Nat) (v : DWord) (c : Cluster) : Cluster :=
  ioPut (off + 1) (v.extractLsb' 24 24) (ioPut off (v.extractLsb' 0 24) c)

/-- A write of a sequencer register by its fields' access codes alone (R8). -/
def ioCodeWrite (off : Nat) (v : Word) (c : Cluster) : Cluster :=
  ioPut off (regWrite (ioRow off) (ioGet off c) v) c

/-- `k` events of the kind `sel` reach a cluster's event counters: those that select it add them; a step past
the end wraps and sets OVF (R494). -/
def evcEvent (sel k : Nat) (c : Cluster) : Cluster :=
  (List.range 8).foldl (fun d i =>
    if ioFld (0x1108 + i) 5 0 d = sel ∧ k ≠ 0 then
      let v := (ioPair (0x1110 + 2 * i) d).toNat + k
      let e := ioPutPair (0x1110 + 2 * i) (BitVec.ofNat 48 v) d
      if 2 ^ 48 ≤ v then ioSetBit 0x1100 i true e else e
    else d) c

/-! ## Time -/

/-- Device time in grains; its low 8 bits are always 0 (R32, R34). -/
def devTime (s : State) : Time72 := s.ns ++ (0#8)

/-- An instant of device time as grains of the base ticks since power-on, which a STEP does not move (R69). -/
def tickInstant (t : Time72) (s : State) : Time72 := t + (s.ticks ++ (0#8)) - devTime s

/-- The same of an instant that may lie before power-on. -/
def tickInt (t : Int) (s : State) : Int := t + ((s.ticks.toNat : Int) - s.ns.toNat) * 256

/-- A number of ns as grains. -/
def nsGrains (k : Nat) : Time72 := BitVec.ofNat 72 (k * 256)

/-! ## Answers, free values, counters -/

/-- The state whose last read returned these words. -/
def respond (ws : List Word) (s : State) : State := { s with resp := ws }

/-- The state with the next free value drawn. -/
def drawn (s : State) : State := { s with fresh := s.fresh + 1 }

/-- The key of an object-dictionary entry. -/
def odKey (idx sub : Nat) : Nat := idx * 256 + sub

/-- The value of a counter entry of the dictionary (0xC000–0xCFFF). -/
def odCtr (idx sub : Nat) (s : State) : DWord := smAt 0 s.od.ctrs (odKey idx sub)

/-- Add to a counter entry of the dictionary; 48 bits, wrapping. -/
def odAdd (idx sub k : Nat) (s : State) : State :=
  { s with od := { s.od with ctrs := smPut 0 s.od.ctrs (odKey idx sub) (odCtr idx sub s + BitVec.ofNat 48 k) } }

/-- Count one up in a counter entry of the dictionary. -/
def odCount (idx sub : Nat) (s : State) : State := odAdd idx sub 1 s

/-! ## Read snapshots (R35) -/

/-- The number of a reader: a hub-matrix port, or a cluster on the bridge (R35). -/
def masterNum : Master → Nat
  | .hostA => 0
  | .hostB => 1
  | .svc0 => 2
  | .svc1 => 3
  | .svc2 => 4
  | .svc3 => 5
  | .security => 6
  | .moverLo => 7
  | .moverHi => 8
  | .netDma => 9
  | .cluster n => 16 + n.val
  | .monitor => 11

/-- The key of a snapshot: which register, which reader. A cluster's own banks read as readers 12
(normal) and 13 (fast). -/
def snapKey (reg reader : Nat) : Nat := reg * 512 + reader

/-- The upper words that the last W0 read of `reg` by `reader` left. -/
def snapGet (reg reader : Nat) (s : State) : DWord := smAt 0 s.snap (snapKey reg reader)

/-- Snapshot the upper words of `reg` for `reader`. -/
def snapPut (reg reader : Nat) (v : DWord) (s : State) : State :=
  { s with snap := smPut 0 s.snap (snapKey reg reader) v }

/-- A read of W0 of a two-word hub register by a master: the low word is the answer, W1 is snapshotted
(R35). -/
def readPairW0 (off : Nat) (m : Master) (s : State) : State :=
  respond [hubGet off s] (snapPut off (masterNum m) ((hubGet (off + 1) s).setWidth 48) s)

/-! ## The global word address map (R26, R27) -/

/-- What a global word address reaches. -/
inductive Region where
  | ls (n : Cl) (off : Nat)
  | xchg (n : Cl) (off : Nat)
  | istore (n : Cl) (off : Nat)
  | deep (off : Nat)
  | hub (off : Nat)
  | host (w : Nat)
  | unmapped
deriving DecidableEq, Repr

/-- The region of a global word address (R26, R27). -/
def regionOf (a : Nat) : Region :=
  if a < 2 ^ 30 then
    let n := clOf (a / 2 ^ 22)
    let o := a % 2 ^ 22
    if o < 0x40000 then .ls n o
    else if o < 0x44000 then .xchg n (o - 0x40000)
    else if 0x80000 ≤ o ∧ o < 0x84000 then .istore n (o - 0x80000)
    else .unmapped
  else if 0x1000000000 ≤ a ∧ a < 0x1800000000 then .deep (a - 0x1000000000)
  else if 0x4000000000 ≤ a ∧ a < 0x4001000000 then .hub (a - 0x4000000000)
  else if 0x8000000000 ≤ a ∧ a < 0x10000000000 then .host (a - 0x8000000000)
  else .unmapped

/-- The global address of a local-store offset of VCn. -/
def lsAddr (n : Cl) (off : Nat) : Nat := n.val * 2 ^ 22 + off

/-- The global address of an exchange-RAM offset of VCn. -/
def xchgAddr (n : Cl) (off : Nat) : Nat := n.val * 2 ^ 22 + 0x40000 + off

/-- The global address of an instruction-store word of VCn. -/
def istoreAddr (n : Cl) (off : Nat) : Nat := n.val * 2 ^ 22 + 0x80000 + off

/-! ## Targets of the hub matrix and their locks (R20, R24) -/

/-- The words of the security-core block. -/
def secBlockSize : Nat := 0x100

/-- Whether a hub register lies in the security-core block. -/
def secBlock (off : Nat) : Bool := decide (0x800000 ≤ off) && decide (off < 0x800000 + secBlockSize)

/-- The target port that an address reaches (R20). -/
def targetOf (a : Nat) : Nat :=
  match regionOf a with
  | .deep off => off / 32 % 4
  | .hub off => if secBlock off then 13 else 12
  | .host _ => 15
  | .ls n _ => 4 + n.val / 32
  | .xchg n _ => 4 + n.val / 32
  | .istore n _ => 4 + n.val / 32
  | .unmapped => 12

/-- Whether a master reaches an address through the hub matrix: a cluster goes over the tile fabrics to another cluster, and
over the I/O fabric to an exchange RAM (R177). -/
def viaMatrix (m : Master) (a : Nat) : Bool :=
  match m, regionOf a with
  | .cluster _, .ls _ _ => false
  | .cluster _, .xchg _ _ => false
  | .cluster _, .istore _ _ => false
  | _, _ => true

/-- Whether another master holds a lock on the target of an access, which then waits (R24). -/
def lockedFor (m : Master) (a : Nat) (s : State) : Bool :=
  viaMatrix m a && s.locks.any fun k => decide (k.target = targetOf a) && decide (k.master ≠ m)

/-! ## Words of memory -/

/-- The word at a memory address; an unlisted word is 0 (R471). -/
def memGet (a : Nat) (s : State) : Word := smAt 0 s.mem a

/-- Write the word at a memory address. -/
def memPut (a : Nat) (v : Word) (s : State) : State := { s with mem := smPut 0 s.mem a v }

/-- The canonical form of memory: addresses strictly rising, no entry equal to 0, which an unlisted address reads as. -/
def Memory.wf (m : SMap Word) : Bool := smWf (fun _ => 0) m

/-- `k` words from a memory address on. -/
def memGets (a k : Nat) (s : State) : List Word := (List.range k).map fun i => memGet (a + i) s

/-- Write words from a memory address on. -/
def memPuts (a : Nat) (ws : List Word) (s : State) : State :=
  (ws.foldl (fun (p : Nat × State) w => (p.1 + 1, memPut p.1 w p.2)) (a, s)).2

/-- The words of a memory range become 0. -/
def memDrop (lo hi : Nat) (s : State) : State :=
  { s with mem := s.mem.filter fun p => !(decide (lo ≤ p.1) && decide (p.1 < hi)) }

/-- The words of a memory range that are not 0, by their distance from its start. -/
def memTake (lo hi : Nat) (s : State) : SMap Word :=
  (s.mem.filter fun p => decide (lo ≤ p.1) && decide (p.1 < hi)).map fun p => (p.1 - lo, p.2)

/-- Put words into memory by their distance from an address. -/
def memLoad (lo : Nat) (ws : SMap Word) (s : State) : State := ws.foldl (fun t p => memPut (lo + p.1) p.2 t) s

/-- Whether a global address lies in the deep store, where a cluster's region lies (R28, R434). -/
def inDeep (a : Nat) : Bool := match regionOf a with | .deep _ => true | _ => false

/-- Before a device-side access of the words at global addresses `lo` to `hi` − 1 of the deep store the ports back-invalidate the
host lines of 64 bytes that overlap their lines of 96: those that the host may hold modified before a read, every one before
a write (R390, R391). -/
def snoopSpan (write : Bool) (lo hi : Nat) (s : State) : State :=
  let a := 96 * ((lo - 0x1000000000) / 32)
  let b := 96 * ((hi - 1 - 0x1000000000) / 32) + 96
  let keep (c : CxlPortSt) : CxlPortSt := { c with filter := c.filter.filter fun t =>
    !(decide (64 * t.line < b) && decide (a < 64 * t.line + 64) && (t.modified || write)) }
  [0, 1].foldl (fun t p => { t with cxl := { t.cxl with
    ports := smPut CxlPortSt.reset t.cxl.ports p (keep (smAt CxlPortSt.reset t.cxl.ports p)) } }) s

/-- The word of a region at a global address; an unmapped access returns no data (R28). -/
def deepGet (a : Nat) (s : State) : Word := if inDeep a then memGet a s else 0

/-- Write a word of a region; an unmapped access changes nothing (R28). -/
def deepPut (a : Nat) (v : Word) (s : State) : State := if inDeep a then memPut a v (snoopSpan true a (a + 1) s) else s

/-- The words of a region's range become 0. -/
def deepDrop (lo hi : Nat) (s : State) : State :=
  { snoopSpan true lo hi s with mem := s.mem.filter fun p => !(decide (lo ≤ p.1) && decide (p.1 < hi) && inDeep p.1) }

/-- The words of a region's range that are not 0, by their distance from its start. -/
def deepTake (lo hi : Nat) (s : State) : SMap Word := (memTake lo hi s).filter fun p => inDeep (lo + p.1)

/-- The word of host memory at its word address (R393). -/
def hostGet (w : Nat) (s : State) : Word := smAt 0 s.cxl.host w

/-- Write a word of host memory. -/
def hostPut (w : Nat) (v : Word) (s : State) : State :=
  { s with cxl := { s.cxl with host := smPut 0 s.cxl.host w v } }

/-! ## Small readings of the machine's condition -/

/-- The current mode, PWR_MODE.CUR (R463). -/
def mode (s : State) : Nat := hubFld 0x60000 23 20 s

/-- Put the current mode. -/
def setMode (m : Nat) (s : State) : State := hubSetFld 0x60000 23 20 m s

/-- Whether the device is OFF, in STANDBY, or held in cold reset by TJ_TRIP: every domain but the always-on one is switched off
(R464, R468, R483). -/
def dark (s : State) : Bool := s.pwr.trip || decide (mode s < 2)

/-- Whether the device has power and TJ_TRIP does not hold it, so that its always-on part works (R464, R483). -/
def powered (s : State) : Bool := !s.pwr.trip && decide (mode s ≠ 0)

/-- What a command does to a device whose domains are switched on; to another it does nothing (R468, R483). -/
def awake (s : State) (o : Out) : Out := if dark s then .next s else o

/-- Whether the mode is CONFIGURE, ARMED, RUN or RUN_DEGRADED, which allow live microcode patches, a replacement of Topsoil and
model swaps (R464). -/
def liveMode (s : State) : Bool := decide (4 ≤ mode s) && decide (mode s < 8)

/-- PWR_DOMd. -/
def domReg (d : Nat) : Nat := 0x60100 + d

/-- A domain's STATE: 0 OFF, 1 RETAIN, 2 ON, 3 switching. -/
def domState (d : Nat) (s : State) : Nat := hubFld (domReg d) 23 22 s

/-- Register `i` of SPM_CLn. -/
def spmCl (n : Cl) (i : Nat) : Nat := 0x50100 + 8 * n.val + i

/-- The home tile of VCn (R15). -/
def homeTile (n : Cl) : Nat := n.val / 32

/-- The domain of the physical cluster that VCn is on (R15, R475). -/
def physDom (n : Cl) (s : State) : Nat := 34 * homeTile n + hubFld (spmCl n 0) 13 8 s

/-- Whether the island that VCn is on is powered and clocked (R476). -/
def clocked (n : Cl) (s : State) : Bool := !dark s && domState (physDom n s) s == 2

/-- What a command does to an island that is clocked; to another it does nothing (R476). -/
def onIsland (n : Cl) (s : State) (o : Out) : Out := if clocked n s then o else .next s

/-- PWR_RAILr. -/
def railReg (r : Nat) : Nat := 0x60010 + r

/-- Whether the service-path pause holds: a rail in warning, or TJ_WARN (R481). -/
def servicePause (s : State) : Bool :=
  ((List.range 15).any fun r => hubBit (railReg r) 23 s) || hubBit 0x60058 14 s

/-- Whether the grid runs, TB_STATUS.GRID_RUN (R46). -/
def gridRun (s : State) : Bool := hubBit 0x100A 11 s

/-- Whether a hold is in force, TB_STATUS.HOLD_ACTIVE (R62). -/
def holdActive (s : State) : Bool := hubBit 0x100A 10 s

/-- The current base frame number, TB_FRAME (R42). -/
def baseFrame (s : State) : Nat := (hubPair 0x1018 s).toNat

end Sys2Proof.Machine
end

