-- ==== Sys2Proof/Machine/Num.lean ====
section
/-!
DEFINITION. Machine/Num.lean: F24 and F48 values, their rounding and arithmetic, and the conversions of
spec/04_numerics.md (R111–R130, R145). A value of either width is held as a 48-bit pattern; an F24
pattern fills the low 24 bits. An exact value is an integer times a power of two.
-/
namespace Sys2Proof.Machine

/-- Five flags as VU_FLAGS lays them out, with TINY in bit 5 (R131, VU_EXC_FLAGS). -/
abbrev Fl := BitVec 6

/-- Invalid operation. -/
def flNV : Fl := 16
/-- Division by zero. -/
def flDZ : Fl := 8
/-- Overflow. -/
def flOF : Fl := 4
/-- Underflow. -/
def flUF : Fl := 2
/-- Inexact. -/
def flNX : Fl := 1
/-- A tiny exact result (R120, R131). -/
def flTINY : Fl := 32

/-- A floating-point format: exponent and fraction widths (R111, R112). -/
structure Fmt where
  ew : Nat
  fw : Nat
deriving DecidableEq, Repr

/-- F24 (R111). -/
def f24 : Fmt := ⟨7, 16⟩

/-- F48 (R112). -/
def f48 : Fmt := ⟨11, 36⟩

/-- The exponent bias, which is also the largest exponent. -/
def Fmt.bias (f : Fmt) : Nat := 2 ^ (f.ew - 1) - 1

/-- The exponent of the last place of the smallest normal. -/
def Fmt.qmin (f : Fmt) : Int := 1 - (f.bias : Int) - f.fw

/-- A pattern of the format from sign and the bits below it. -/
def Fmt.mk' (f : Fmt) (s : Bool) (v : Nat) : DWord := BitVec.ofNat 48 (s.toNat * 2 ^ (f.ew + f.fw) + v)

/-- Infinity (R113). -/
def Fmt.inf (f : Fmt) (s : Bool) : DWord := f.mk' s ((2 ^ f.ew - 1) * 2 ^ f.fw)

/-- Zero. -/
def Fmt.zero (f : Fmt) (s : Bool) : DWord := f.mk' s 0

/-- The largest finite value M. -/
def Fmt.big (f : Fmt) (s : Bool) : DWord := f.mk' s ((2 ^ f.ew - 1) * 2 ^ f.fw - 1)

/-- The default quiet NaN (R113). -/
def Fmt.qnan (f : Fmt) : DWord := f.mk' false ((2 ^ f.ew - 1) * 2 ^ f.fw + 2 ^ (f.fw - 1))

/-- A value of a format read apart: a NaN with its fraction, an infinity, or m × 2^e (R111–R113). -/
inductive FVal where
  | nan (s : Bool) (frac : Nat)
  | inf (s : Bool)
  | num (s : Bool) (m : Nat) (e : Int)
deriving DecidableEq, Repr

/-- Read a pattern (R111–R113). -/
def unpack (f : Fmt) (x : DWord) : FVal :=
  let s := x.getLsbD (f.ew + f.fw)
  let e := x.toNat / 2 ^ f.fw % 2 ^ f.ew
  let m := x.toNat % 2 ^ f.fw
  if e = 2 ^ f.ew - 1 then (if m = 0 then .inf s else .nan s m)
  else if e = 0 then .num s m f.qmin
  else .num s (2 ^ f.fw + m) (f.qmin + e - 1)

/-- The sign bit of a pattern. -/
def signOf (f : Fmt) (x : DWord) : Bool := x.getLsbD (f.ew + f.fw)

/-- Whether a pattern is a NaN. -/
def isNan (f : Fmt) (x : DWord) : Bool := match unpack f x with | .nan _ _ => true | _ => false

/-- Whether a pattern is a signalling NaN (R113). -/
def isSnan (f : Fmt) (x : DWord) : Bool :=
  match unpack f x with | .nan _ m => decide (m < 2 ^ (f.fw - 1)) | _ => false

/-- Whether a pattern is an infinity. -/
def isInf (f : Fmt) (x : DWord) : Bool := match unpack f x with | .inf _ => true | _ => false

/-- Whether a pattern is a zero. -/
def isZero (f : Fmt) (x : DWord) : Bool := match unpack f x with | .num _ 0 _ => true | _ => false

/-- A NaN made quiet. -/
def quiet (f : Fmt) (x : DWord) : DWord := x ||| BitVec.ofNat 48 (2 ^ (f.fw - 1))

/-- The first NaN among the operands, made quiet, with NV for a signalling one (R121). -/
def nanOf (f : Fmt) (ops : List DWord) : Option (DWord × Fl) :=
  match ops.find? (isNan f) with
  | none => none
  | some x => some (quiet f x, if ops.any (isSnan f) then flNV else 0)

/-! ## Exact values -/

/-- An exact value: m × 2^e. -/
structure Dy where
  m : Int
  e : Int
deriving DecidableEq, Repr

/-- The sum of two exact values. -/
def Dy.add (a b : Dy) : Dy :=
  if a.e ≤ b.e then ⟨a.m + b.m * 2 ^ (b.e - a.e).toNat, a.e⟩ else ⟨a.m * 2 ^ (a.e - b.e).toNat + b.m, b.e⟩

/-- The product of two exact values. -/
def Dy.mul (a b : Dy) : Dy := ⟨a.m * b.m, a.e + b.e⟩

/-- The negative of an exact value. -/
def Dy.neg (a : Dy) : Dy := ⟨-a.m, a.e⟩

/-- The exact value of a finite pattern; 0 for others. -/
def valOf (f : Fmt) (x : DWord) : Dy :=
  match unpack f x with
  | .num s m e => ⟨if s then -(m : Int) else m, e⟩
  | _ => ⟨0, 0⟩

/-- An exact value compared with another: whether it is less. -/
def Dy.lt (a b : Dy) : Bool := decide ((a.add b.neg).m < 0)

/-! ## Rounding (R116, R119, R120) -/

/-- Whether a magnitude of sign `s` with remainder `rem` of `den` (and more below it when `sticky`) rounds up,
where `odd` says whether the kept integer is odd (R116). -/
def roundUp (rnd : Nat) (s odd : Bool) (rem den : Nat) (sticky : Bool) : Bool :=
  match rnd with
  | 0 => decide (den < 2 * rem) || (decide (2 * rem = den) && (sticky || odd))
  | 1 => false
  | 2 => !s && (decide (0 < rem) || sticky)
  | _ => s && (decide (0 < rem) || sticky)

/-- m × 2^e (and a little more when `sticky`) rounded to an integer number of 2^q, and whether that is
inexact. -/
def roundAt (rnd : Nat) (s : Bool) (m : Nat) (e : Int) (sticky : Bool) (q : Int) : Nat × Bool :=
  if q ≤ e then (m * 2 ^ (e - q).toNat, sticky)
  else
    let k := (q - e).toNat
    let r := m / 2 ^ k
    let rem := m % 2 ^ k
    (r + (roundUp rnd s (decide (r % 2 = 1)) rem (2 ^ k) sticky).toNat, decide (0 < rem) || sticky)

/-- The result of an overflow (R119). -/
def overflowOf (f : Fmt) (rnd : Nat) (s : Bool) : DWord :=
  match rnd with
  | 0 => f.inf s
  | 1 => f.big s
  | 2 => if s then f.big s else f.inf s
  | _ => if s then f.inf s else f.big s

/-- Round a magnitude m × 2^e of sign `s` to a format: the pattern and its flags (R119, R120). With `sticky`
the value lies strictly between m and m + 1 times 2^e, and m then has more bits than the format. -/
def roundMag (f : Fmt) (rnd : Nat) (s : Bool) (m : Nat) (e : Int) (sticky : Bool) : DWord × Fl :=
  if m = 0 then (f.zero s, 0)
  else
    let top : Int := e + Nat.log2 m
    let u := roundAt rnd s m e sticky (top - f.fw)
    let topU : Int := if u.1 = 2 ^ (f.fw + 1) then top + 1 else top
    if (f.bias : Int) < topU then (overflowOf f rnd s, flOF ||| flNX)
    else
      let q := max (top - f.fw) f.qmin
      let r := roundAt rnd s m e sticky q
      let bits := (q - f.qmin).toNat * 2 ^ f.fw + r.1
      let tiny := decide (topU < 1 - (f.bias : Int))
      (f.mk' s bits, if tiny then (if r.2 then flUF ||| flNX else flTINY) else if r.2 then flNX else 0)

/-- Round an exact value; an exact zero takes the sign `zs`. -/
def roundDy (f : Fmt) (rnd : Nat) (v : Dy) (zs : Bool) : DWord × Fl :=
  if v.m = 0 then (f.zero zs, 0) else roundMag f rnd (decide (v.m < 0)) v.m.natAbs v.e false

/-- The sign of an exact zero sum of two terms: theirs where they agree and both are zero, else by RND
(R123). -/
def zeroSign (rnd : Nat) (za sa zb sb : Bool) : Bool := if za && zb && sa == sb then sa else decide (rnd = 3)

/-! ## Arithmetic (R121–R124) -/

/-- A sum (R123, R124). -/
def fAdd (f : Fmt) (rnd : Nat) (a b : DWord) : DWord × Fl :=
  match nanOf f [a, b] with
  | some r => r
  | none =>
    match unpack f a, unpack f b with
    | .inf s, .inf t => if s = t then (f.inf s, 0) else (f.qnan, flNV)
    | .inf s, _ => (f.inf s, 0)
    | _, .inf t => (f.inf t, 0)
    | .num s m _, .num t k _ =>
      roundDy f rnd ((valOf f a).add (valOf f b)) (zeroSign rnd (decide (m = 0)) s (decide (k = 0)) t)
    | _, _ => (f.qnan, 0)

/-- A pattern with its sign changed; a NaN keeps its own under R121 until it is read. -/
def fNeg (f : Fmt) (a : DWord) : DWord := a ^^^ BitVec.ofNat 48 (2 ^ (f.ew + f.fw))

/-- A pattern with its sign cleared. -/
def fAbs (f : Fmt) (a : DWord) : DWord := if signOf f a then fNeg f a else a

/-- A difference (R121, R123, R124): a NaN subtrahend keeps its sign. -/
def fSub (f : Fmt) (rnd : Nat) (a b : DWord) : DWord × Fl :=
  match nanOf f [a, b] with
  | some r => r
  | none => fAdd f rnd a (fNeg f b)

/-- A product (R123, R124). -/
def fMul (f : Fmt) (rnd : Nat) (a b : DWord) : DWord × Fl :=
  match nanOf f [a, b] with
  | some r => r
  | none =>
    let s := signOf f a != signOf f b
    if isInf f a || isInf f b then
      if isZero f a || isZero f b then (f.qnan, flNV) else (f.inf s, 0)
    else roundDy f rnd ((valOf f a).mul (valOf f b)) s

/-- c + a × b, or c − a × b with `neg`, rounded once; `ops` lists the operands in the order in which a NaN is
taken (R121, R123, R124). -/
def fFma (f : Fmt) (rnd : Nat) (neg : Bool) (c a b : DWord) (ops : List DWord) : DWord × Fl :=
  let bad := (isInf f a && isZero f b) || (isZero f a && isInf f b)
  match nanOf f ops with
  | some r => (r.1, if bad then r.2 ||| flNV else r.2)
  | none =>
    let s := (signOf f a != signOf f b) != neg
    if bad then (f.qnan, flNV)
    else if isInf f a || isInf f b then
      if isInf f c && signOf f c != s then (f.qnan, flNV) else (f.inf s, 0)
    else if isInf f c then (c, 0)
    else
      let p := (valOf f a).mul (valOf f b)
      roundDy f rnd ((valOf f c).add (if neg then p.neg else p))
        (zeroSign rnd (isZero f c) (signOf f c) (decide (p.m = 0)) s)

/-- A quotient of positive magnitudes, with extra bits and a sticky rest. -/
def quotMag (f : Fmt) (rnd : Nat) (s : Bool) (a b : Nat) (e : Int) : DWord × Fl :=
  let k := f.fw + 4 + Nat.log2 b - min (Nat.log2 b) (Nat.log2 a)
  let n := a * 2 ^ k
  roundMag f rnd s (n / b) (e - k) (decide (n % b ≠ 0))

/-- A quotient (R124, R145). -/
def fDiv (f : Fmt) (rnd : Nat) (a b : DWord) : DWord × Fl :=
  match nanOf f [a, b] with
  | some r => r
  | none =>
    let s := signOf f a != signOf f b
    match unpack f a, unpack f b with
    | .inf _, .inf _ => (f.qnan, flNV)
    | .inf _, _ => (f.inf s, 0)
    | _, .inf _ => (f.zero s, 0)
    | .num _ m e, .num _ k d =>
      if k = 0 then (if m = 0 then (f.qnan, flNV) else (f.inf s, flDZ))
      else if m = 0 then (f.zero s, 0)
      else quotMag f rnd s m k (e - d)
    | _, _ => (f.qnan, 0)

/-- The pattern of 1.0. -/
def Fmt.one (f : Fmt) : DWord := f.mk' false (f.bias * 2 ^ f.fw)

/-- A reciprocal (R124, R145). -/
def fRcp (f : Fmt) (rnd : Nat) (a : DWord) : DWord × Fl :=
  match nanOf f [a] with
  | some r => r
  | none => fDiv f rnd f.one a

/-- The integer square root of `n`, bit by bit from bit k − 1. -/
def isqrt (n : Nat) : Nat → Nat → Nat
  | 0, r => r
  | k + 1, r => isqrt n k (if (r + 2 ^ k) * (r + 2 ^ k) ≤ n then r + 2 ^ k else r)

/-- m × 2^e with an even exponent. -/
def evenExp (m : Nat) (e : Int) : Nat × Int := if e % 2 = 0 then (m, e) else (2 * m, e - 1)

/-- A square root (R124, R145). -/
def fSqrt (f : Fmt) (rnd : Nat) (a : DWord) : DWord × Fl :=
  match nanOf f [a] with
  | some r => r
  | none =>
    match unpack f a with
    | .inf s => if s then (f.qnan, flNV) else (f.inf false, 0)
    | .num s m e =>
      if m = 0 then (f.zero s, 0)
      else if s then (f.qnan, flNV)
      else
        let v := evenExp m e
        let k := f.fw + 4
        let n := v.1 * 2 ^ (2 * k)
        let r := isqrt n (Nat.log2 n / 2 + 1) 0
        roundMag f rnd false r (v.2 / 2 - k) (decide (r * r ≠ n))
    | _ => (f.qnan, 0)

/-- A reciprocal square root (R124, R145). -/
def fRsqrt (f : Fmt) (rnd : Nat) (a : DWord) : DWord × Fl :=
  match nanOf f [a] with
  | some r => r
  | none =>
    match unpack f a with
    | .inf s => if s then (f.qnan, flNV) else (f.zero false, 0)
    | .num s m e =>
      if m = 0 then (f.inf s, flDZ)
      else if s then (f.qnan, flNV)
      else
        let v := evenExp m e
        let k := f.fw + 4 + (Nat.log2 v.1 + 1) / 2 + 1
        let n := 2 ^ (2 * k) / v.1
        let r := isqrt n (Nat.log2 n / 2 + 1) 0
        roundMag f rnd false r (-(v.2 / 2) - k) (decide (r * r * v.1 ≠ 2 ^ (2 * k)))
    | _ => (f.qnan, 0)

/-! ## Comparison (R125, R126) -/

/-- Whether a < b for operands that are no NaNs; `signedZero` orders −0 below +0 (R125, R126). -/
def fLt (f : Fmt) (signedZero : Bool) (a b : DWord) : Bool :=
  match unpack f a, unpack f b with
  | .inf s, .inf t => s && !t
  | .inf s, _ => s
  | _, .inf t => !t
  | _, _ =>
    if isZero f a && isZero f b then signedZero && signOf f a && !signOf f b
    else (valOf f a).lt (valOf f b)

/-- The relation FN of R84 between two floating-point operands, with NV (R125). -/
def fRel (f : Fmt) (fn : Nat) (a b : DWord) : Bool × Fl :=
  let un := isNan f a || isNan f b
  let snan := isSnan f a || isSnan f b
  let lt := fLt f false a b
  let gt := fLt f false b a
  let eq := !lt && !gt
  let nv : Fl := if snan || (un && decide (2 ≤ fn) && decide (fn ≤ 5)) then flNV else 0
  match fn with
  | 0 => (!un && eq, nv)
  | 1 => (un || !eq, nv)
  | 2 => (!un && lt, nv)
  | 3 => (!un && !gt, nv)
  | 4 => (!un && gt, nv)
  | 5 => (!un && !lt, nv)
  | 6 => (un, nv)
  | _ => (!un, nv)

/-- The smaller, or with `mx` the larger, of two operands (R126). -/
def fMinMax (f : Fmt) (mx : Bool) (a b : DWord) : DWord × Fl :=
  match nanOf f [a, b] with
  | some r => r
  | none => (if (if mx then fLt f true a b else fLt f true b a) then b else a, 0)

/-! ## Conversions (R118, R122, R127, R128) -/

/-- A conversion between the two floating-point formats (R122). -/
def fConv (src dst : Fmt) (rnd : Nat) (x : DWord) : DWord × Fl :=
  match unpack src x with
  | .nan s m =>
    let frac := if src.fw < dst.fw then m * 2 ^ (dst.fw - src.fw) else m / 2 ^ (src.fw - dst.fw)
    (quiet dst (dst.mk' s ((2 ^ dst.ew - 1) * 2 ^ dst.fw + frac)), if isSnan src x then flNV else 0)
  | .inf s => (dst.inf s, 0)
  | .num s _ _ => roundDy dst rnd (valOf src x) s

/-- An exact value rounded to an integer, and whether that is inexact (R127). -/
def roundInt (rnd : Nat) (v : Dy) : Int × Bool :=
  let s := decide (v.m < 0)
  let r := roundAt rnd s v.m.natAbs v.e false 0
  (if s then -(r.1 : Int) else r.1, r.2)

/-- The smallest and largest integer of a width, signed or unsigned (R114). -/
def intRange (w : Nat) (u : Bool) : Int × Int := if u then (0, 2 ^ w - 1) else (-2 ^ (w - 1), 2 ^ (w - 1) - 1)

/-- The pattern of an integer at a width. -/
def intPat (w : Nat) (v : Int) : DWord := (BitVec.ofInt w v).setWidth 48

/-- An exact integer brought into a width: saturated with OF, or wrapped (R128, R129). -/
def narrow (w : Nat) (u sat : Bool) (v : Int) : DWord × Fl :=
  let r := intRange w u
  if r.1 ≤ v ∧ v ≤ r.2 then (intPat w v, 0)
  else if sat then (intPat w (if v < r.1 then r.1 else r.2), flOF)
  else (intPat w v, 0)

/-- A floating-point value scaled by 2^qs and converted to an integer (R127). -/
def fToInt (f : Fmt) (rnd w : Nat) (u sat : Bool) (qs : Nat) (x : DWord) : DWord × Fl :=
  let r := intRange w u
  let smallest := intPat w r.1
  match unpack f x with
  | .nan _ _ => (if sat then 0 else smallest, flNV)
  | .inf s => (if sat then intPat w (if s then r.1 else r.2) else smallest, flNV)
  | .num _ _ _ =>
    let v := valOf f x
    let k := roundInt rnd ⟨v.m, v.e + qs⟩
    if r.1 ≤ k.1 ∧ k.1 ≤ r.2 then (intPat w k.1, if k.2 then flNX else 0)
    else (if sat then intPat w (if k.1 < r.1 then r.1 else r.2) else smallest, flNV)

/-- An integer over 2^qs converted to a floating-point format (R128). -/
def intToF (f : Fmt) (rnd qs : Nat) (v : Int) : DWord × Fl := roundDy f rnd ⟨v, -(qs : Int)⟩ false

end Sys2Proof.Machine
end

