-- ==== Sys2Proof/Machine/Crypto.lean ====
section
/-!
DEFINITION. Machine/Crypto.lean: the algorithms the spec names: AES-128 CMAC (R376, R378, R455),
SHA-256 (R447–R453) and ECDSA P-256 with SHA-256 (R448, R460, R461). The spec names them and does not
restate them; their definitions are those of FIPS 197, SP 800-38B, FIPS 180-4 and FIPS 186-4, PRESUMED
(log entry 11).
-/
namespace Sys2Proof.Machine

/-! ## AES-128 and CMAC -/

/-- Multiplication by x in GF(2⁸) modulo x⁸ + x⁴ + x³ + x + 1. -/
def xtime (a : BitVec 8) : BitVec 8 := if a.msb then (a <<< 1) ^^^ 0x1B else a <<< 1

/-- The S-box of FIPS 197, sixteen bytes a row, the first the most significant. -/
def sboxRows : List Nat := [
  0x637c777bf26b6fc53001672bfed7ab76, 0xca82c97dfa5947f0add4a2af9ca472c0,
  0xb7fd9326363ff7cc34a5e5f171d83115, 0x04c723c31896059a071280e2eb27b275,
  0x09832c1a1b6e5aa0523bd6b329e32f84, 0x53d100ed20fcb15b6acbbe394a4c58cf,
  0xd0efaafb434d338545f9027f503c9fa8, 0x51a3408f929d38f5bcb6da2110fff3d2,
  0xcd0c13ec5f974417c4a77e3d645d1973, 0x60814fdc222a908846eeb814de5e0bdb,
  0xe0323a0a4906245cc2d3ac629195e479, 0xe7c8376d8dd54ea96c56f4ea657aae08,
  0xba78252e1ca6b4c6e8dd741f4bbd8b8a, 0x703eb5664803f60e613557b986c11d9e,
  0xe1f8981169d98e949b1e87e9ce5528df, 0x8ca1890dbfe6426841992d0fb054bb16]

/-- The S-box: its row by the high four bits, the place in the row by the low four. -/
def sbox (a : BitVec 8) : BitVec 8 :=
  BitVec.ofNat 8 (sboxRows.getD (a.toNat / 16) 0 / 256 ^ (15 - a.toNat % 16))

/-- Byte `i` of a block, byte 0 the most significant. -/
def blockByte (b : BitVec 128) (i : Nat) : BitVec 8 := b.extractLsb' (120 - 8 * i) 8

/-- Bytes as one number, the first the most significant. -/
def beNat (bs : List (BitVec 8)) : Nat := bs.foldl (fun a b => a * 256 + b.toNat) 0

/-- Sixteen bytes as a block. -/
def blockOf (f : Nat → BitVec 8) : BitVec 128 := BitVec.ofNat 128 (beNat ((List.range 16).map f))

/-- The next round key. -/
def nextKey (k : BitVec 128) (rcon : BitVec 8) : BitVec 128 :=
  let w (i : Nat) : BitVec 32 := k.extractLsb' (96 - 32 * i) 32
  let r := (w 3).rotateLeft 8
  let sub : BitVec 32 := sbox (r.extractLsb' 24 8) ++ sbox (r.extractLsb' 16 8) ++ sbox (r.extractLsb' 8 8) ++ sbox (r.extractLsb' 0 8)
  let w0 := w 0 ^^^ sub ^^^ (rcon ++ (0 : BitVec 24))
  let w1 := w 1 ^^^ w0
  let w2 := w 2 ^^^ w1
  let w3 := w 3 ^^^ w2
  w0 ++ w1 ++ w2 ++ w3

/-- SubBytes and ShiftRows. -/
def subShift (b : BitVec 128) : BitVec 128 :=
  blockOf fun i => sbox (blockByte b (i % 4 + 4 * ((i / 4 + i % 4) % 4)))

/-- MixColumns. -/
def mixCols (b : BitVec 128) : BitVec 128 :=
  blockOf fun i =>
    let c (r : Nat) := blockByte b (i / 4 * 4 + (i + r) % 4)
    xtime (c 0) ^^^ xtime (c 1) ^^^ c 1 ^^^ c 2 ^^^ c 3

/-- The nine full rounds from a state and a round key. -/
def aesRounds : Nat → BitVec 128 → BitVec 128 → BitVec 8 → BitVec 128
  | 0, st, k, rcon => subShift st ^^^ nextKey k rcon
  | n + 1, st, k, rcon =>
    let k' := nextKey k rcon
    aesRounds n (mixCols (subShift st) ^^^ k') k' (xtime rcon)

/-- AES-128 encryption of one block. -/
def aes128 (key blk : BitVec 128) : BitVec 128 := aesRounds 9 (blk ^^^ key) key 1

/-- A CMAC subkey from the one before it. -/
def cmacDouble (l : BitVec 128) : BitVec 128 := if l.msb then (l <<< 1) ^^^ 0x87 else l <<< 1

/-- CMAC over a message in blocks of 16 bytes; `fuel` bounds the number of blocks. -/
def cmacLoop (key : BitVec 128) : Nat → BitVec 128 → List (BitVec 8) → BitVec 128
  | 0, x, _ => x
  | n + 1, x, m =>
    let k1 := cmacDouble (aes128 key 0)
    if 16 < m.length then
      cmacLoop key n (aes128 key (x ^^^ blockOf fun i => m.getD i 0)) (m.drop 16)
    else if m.length = 16 then aes128 key (x ^^^ (blockOf fun i => m.getD i 0) ^^^ k1)
    else
      let p := m ++ [0x80]
      aes128 key (x ^^^ (blockOf fun i => p.getD i 0) ^^^ cmacDouble k1)

/-- AES-128 CMAC of a message in bytes. -/
def cmac (key : BitVec 128) (m : List (BitVec 8)) : BitVec 128 := cmacLoop key (m.length / 16 + 1) 0 m

/-! ## Bytes of words -/

/-- The three bytes of a word, low byte first (R448, R455). -/
def wordBytes (w : Word) : List HByte := [w.extractLsb' 0 8, w.extractLsb' 8 8, w.extractLsb' 16 8]

/-- The bytes of words in order, each low byte first. -/
def wordsBytes (ws : List Word) : List HByte := ws.flatMap wordBytes

/-- Bytes in threes as words, low byte first; a last part word is filled with 0. -/
def bytesWords : List HByte → List Word
  | a :: b :: c :: t => (c ++ b ++ a) :: bytesWords t
  | [a, b] => [(0 : HByte) ++ b ++ a]
  | [a] => [(0 : HByte) ++ (0 : HByte) ++ a]
  | [] => []

/-! ## SHA-256 -/

/-- The round constants of FIPS 180-4, eight words a row, the first the most significant. -/
def shaRows : List (BitVec 256) := [
  0x428a2f9871374491b5c0fbcfe9b5dba53956c25b59f111f1923f82a4ab1c5ed5,
  0xd807aa9812835b01243185be550c7dc372be5d7480deb1fe9bdc06a7c19bf174,
  0xe49b69c1efbe47860fc19dc6240ca1cc2de92c6f4a7484aa5cb0a9dc76f988da,
  0x983e5152a831c66db00327c8bf597fc7c6e00bf3d5a7914706ca635114292967,
  0x27b70a852e1b21384d2c6dfc53380d13650a7354766a0abb81c2c92e92722c85,
  0xa2bfe8a1a81a664bc24b8b70c76c51a3d192e819d6990624f40e3585106aa070,
  0x19a4c1161e376c082748774c34b0bcb5391c0cb34ed8aa4a5b9cca4f682e6ff3,
  0x748f82ee78a5636f84c878148cc7020890befffaa4506cebbef9a3f7c67178f2]

/-- The eight words of a 256-bit value, the first the most significant. -/
def shaWord (h : BitVec 256) (i : Nat) : BitVec 32 := h.extractLsb' (224 - 32 * i) 32

/-- Round constant `i`. -/
def shaConst (i : Nat) : BitVec 32 := shaWord (shaRows.getD (i / 8) 0) (i % 8)

/-- The next word of the message schedule, from the sixteen before it, the newest first. -/
def shaNext (w : List (BitVec 32)) : BitVec 32 :=
  let back (j : Nat) := w.getD (j - 1) 0
  let mix (x : BitVec 32) (p q r : Nat) := x.rotateRight p ^^^ x.rotateRight q ^^^ x >>> r
  mix (back 2) 17 19 10 + back 7 + mix (back 15) 7 18 3 + back 16

/-- The 64 words of a block's schedule, the last first. -/
def shaSched (blk : List (BitVec 8)) : List (BitVec 32) :=
  (List.range 48).foldl (fun w _ => shaNext w :: w)
    ((List.range 16).reverse.map fun i => BitVec.ofNat 32 (beNat ((blk.drop (4 * i)).take 4)))

/-- One round on the eight working words, which stand as the words of a 256-bit value. -/
def shaRound (v : BitVec 256) (kw : BitVec 32) : BitVec 256 :=
  let g := shaWord v
  let mix (x : BitVec 32) (p q r : Nat) := x.rotateRight p ^^^ x.rotateRight q ^^^ x.rotateRight r
  let t := g 7 + mix (g 4) 6 11 25 + ((g 4 &&& (g 5 ^^^ g 6)) ^^^ g 6) + kw
  let major := (g 0 &&& (g 1 ||| g 2)) ||| (g 1 &&& g 2)
  (t + mix (g 0) 2 13 22 + major) ++ v.extractLsb' 160 96 ++ (g 3 + t) ++ v.extractLsb' 32 96

/-- The hash state after one block. -/
def shaBlock (h : BitVec 256) (blk : List (BitVec 8)) : BitVec 256 :=
  let r := ((shaSched blk).reverse.zipIdx).foldl (fun v wi => shaRound v (shaConst wi.2 + wi.1)) h
  BitVec.ofNat 256 ((List.range 8).foldl (fun acc i => acc * 2 ^ 32 + (shaWord h i + shaWord r i).toNat) 0)

/-- Hash a padded message block by block. -/
def shaLoop : Nat → BitVec 256 → List (BitVec 8) → BitVec 256
  | 0, h, _ => h
  | n + 1, h, m => shaLoop n (shaBlock h (m.take 64)) (m.drop 64)

/-- The `k` bytes of a number, the first the most significant. -/
def beBytes (k v : Nat) : List (BitVec 8) := (List.range k).map fun i => BitVec.ofNat 8 (v / 256 ^ (k - 1 - i))

/-- SHA-256 of a message in bytes. -/
def sha256 (m : List (BitVec 8)) : BitVec 256 :=
  let z := (119 - m.length % 64) % 64
  let p := m ++ [0x80] ++ List.replicate z 0 ++ beBytes 8 (8 * m.length)
  shaLoop (p.length / 64) 0x6a09e667bb67ae853c6ef372a54ff53a510e527f9b05688c1f83d9ab5be0cd19 p

/-! ## ECDSA over P-256 -/

/-- The field prime. -/
def p256P : Nat := 0xffffffff00000001000000000000000000000000ffffffffffffffffffffffff
/-- The group order. -/
def p256N : Nat := 0xffffffff00000000ffffffffffffffffbce6faada7179e84f3b9cac2fc632551
/-- The curve coefficient b. -/
def p256B : Nat := 0x5ac635d8aa3a93e7b3ebbd55769886bc651d06b0cc53b0f63bce3c3e27d2604b
/-- b^e mod m over the low `k` bits of e. -/
def powMod (m b e : Nat) : Nat → Nat
  | 0 => 1 % m
  | k + 1 => let r := powMod m (b * b % m) (e / 2) k; if e % 2 = 1 then b * r % m else r

/-- The inverse modulo a prime. -/
def invMod (m a : Nat) : Nat := powMod m (a % m) (m - 2) 256

/-- A point (X / Z², Y / Z³) of P-256; Z = 0 is the point at infinity. -/
structure EcPoint where
  x : Nat
  y : Nat
  z : Nat
deriving DecidableEq, Repr

/-- A point from its coordinates. -/
def ecOf (x y : Nat) : EcPoint := ⟨x, y, 1⟩

/-- The base point. -/
def p256G : EcPoint :=
  ecOf 0x6b17d1f2e12c4247f8bce6e563a440f277037d812deb33a0f4a13945d898c296
    0x4fe342e2fe1a7f9b8ee7eb4a7c0f9e162bce33576b315ececbb6406837bf51f5

/-- Subtraction in the field. -/
def fpSub (a b : Nat) : Nat := (a + (p256P - b)) % p256P

/-- Multiplication in the field. -/
def fpMul (a b : Nat) : Nat := a * b % p256P

/-- A point doubled, on a curve with a = −3. -/
def ecDouble (p : EcPoint) : EcPoint :=
  let d := fpMul p.z p.z
  let g := fpMul p.y p.y
  let b := fpMul p.x g
  let al := fpMul 3 (fpMul (fpSub p.x d) ((p.x + d) % p256P))
  let x3 := fpSub (fpMul al al) (fpMul 8 b)
  ⟨x3, fpSub (fpMul al (fpSub (fpMul 4 b) x3)) (fpMul 8 (fpMul g g)), fpMul 2 (fpMul p.y p.z)⟩

/-- The sum of two points. -/
def ecAdd (p q : EcPoint) : EcPoint :=
  if p.z = 0 then q
  else if q.z = 0 then p
  else
    let zp := fpMul p.z p.z
    let zq := fpMul q.z q.z
    let u := fpMul p.x zq
    let s := fpMul p.y (fpMul zq q.z)
    let h := fpSub (fpMul q.x zp) u
    let r := fpSub (fpMul q.y (fpMul zp p.z)) s
    if h = 0 then (if r = 0 then ecDouble p else ⟨0, 1, 0⟩)
    else
      let hh := fpMul h h
      let hhh := fpMul h hh
      let v := fpMul u hh
      let x3 := fpSub (fpSub (fpMul r r) hhh) (fpMul 2 v)
      ⟨x3, fpSub (fpMul r (fpSub v x3)) (fpMul s hhh), fpMul h (fpMul p.z q.z)⟩

/-- Scalar multiplication over the low `k` bits of `e`. -/
def ecMul (e : Nat) (a : EcPoint) : Nat → EcPoint
  | 0 => ⟨0, 1, 0⟩
  | k + 1 => let r := ecMul (e / 2) (ecDouble a) k; if e % 2 = 1 then ecAdd a r else r

/-- The coordinates of a point; none is the point at infinity. -/
def ecAffine (p : EcPoint) : Option (Nat × Nat) :=
  if p.z = 0 then none
  else
    let i := invMod p256P p.z
    some (fpMul p.x (fpMul i i), fpMul p.y (fpMul i (fpMul i i)))

/-- The public key of a private key. -/
def ecPublic (d : Nat) : BitVec 256 × BitVec 256 :=
  match ecAffine (ecMul d p256G 256) with
  | some (x, y) => (BitVec.ofNat 256 x, BitVec.ofNat 256 y)
  | none => (0, 0)

/-- Whether a point lies on P-256. -/
def ecOnCurve (x y : Nat) : Bool :=
  decide (x < p256P ∧ y < p256P ∧ y * y % p256P = (x * x * x + (p256P - 3) * x + p256B) % p256P)

/-- ECDSA verification of a digest. -/
def ecdsaVerify (qx qy r s : BitVec 256) (digest : BitVec 256) : Bool :=
  let N := p256N
  let R := r.toNat
  let S := s.toNat
  if R = 0 ∨ N ≤ R ∨ S = 0 ∨ N ≤ S ∨ !ecOnCurve qx.toNat qy.toNat then false
  else
    let w := invMod N S
    match ecAffine (ecAdd (ecMul (digest.toNat * w % N) p256G 256) (ecMul (R * w % N) (ecOf qx.toNat qy.toNat) 256)) with
    | none => false
    | some (x, _) => decide (x % N = R)

/-- ECDSA signature of a digest with private key `d` and the nonce `k`. -/
def ecdsaSign (d k : Nat) (digest : BitVec 256) : BitVec 256 × BitVec 256 :=
  let N := p256N
  match ecAffine (ecMul (k % N) p256G 256) with
  | none => (0, 0)
  | some (x, _) =>
    let r := x % N
    (BitVec.ofNat 256 r, BitVec.ofNat 256 (invMod N k * (digest.toNat + r * d) % N))

/-- A 256-bit integer as 11 words, low word first (R448). -/
def int256Words (v : BitVec 256) : List Word := (List.range 11).map fun i => BitVec.ofNat 24 (v.toNat / 2 ^ (24 * i))

/-- Words, low word first, as a number. -/
def leWords (ws : List Word) : Nat := ws.foldr (fun w a => w.toNat + 2 ^ 24 * a) 0

/-- Eleven words as a 256-bit integer (R448). -/
def wordsInt256 (ws : List Word) : BitVec 256 := BitVec.ofNat 256 (leWords ws)

end Sys2Proof.Machine
end

