-- ==== Sys2Proof/Machine/Events.lean ====
section
/-!
DEFINITION. Machine/Events.lean: the event fabric and the packet queues (spec/12_events_and_queues.md
R342–R361) and the global counters' counting (R498).
The model's own choices and readings (DEDUCED, DESIGN CHOICE, PRESUMED) are log entries 3, 47 and 48.
-/
namespace Sys2Proof.Machine

/-! ## Sources -/

/-- Whether a source number lies in a reserved range, which never fires (R342). -/
def reservedSource (src : Nat) : Bool :=
  (0x10A ≤ src && src ≤ 0x11F) || (0x189 ≤ src && src ≤ 0x1FF) || (0x821 ≤ src && src ≤ 0x83F)
    || 0xD02 ≤ src

/-- Global counter `g` as it stood before the events of the current cycle: what a tick edge copies (R495, R498). -/
def gcntBefore (g : Nat) (s : State) : DWord :=
  let o := smAt (0, 0) s.ev.gcntOld g
  if o.1 = s.ticks + 1 then o.2 else hubPair (0x25001 + 8 * g) s

/-- Count one up in global counter `g`, with its OVF bit at the wrap (R494, R498). -/
def gcntUp (g : Nat) (s : State) : State :=
  let v := hubPair (0x25001 + 8 * g) s
  let t := hubPutPair (0x25001 + 8 * g) (v + 1)
    { s with ev := { s.ev with gcntOld := smPut (0, 0) s.ev.gcntOld g (s.ticks + 1, gcntBefore g s) } }
  if v = BitVec.allOnes 48 then hubSetBit 0x25080 g true t else t

/-- The counters that count this source (`kind` false) or this channel (`kind` true) count it (R498). -/
def gcntEvent (kind : Bool) (k : Nat) (s : State) : State :=
  (List.range 16).foldl (fun t g =>
    let sel := hubGet (0x25000 + 8 * g) t
    let n := if kind then fld 9 0 sel else fld 11 0 sel
    if bitOf 23 sel = kind ∧ n = k then gcntUp g t else t) s

/-- The enabled channels, ascending (R344). Only a written configuration has EN = 1. -/
def enabledChans (s : State) : List Nat :=
  s.hub.filterMap fun p =>
    if 0x21000 ≤ p.1 ∧ p.1 < 0x22000 ∧ p.1 % 4 = 0 ∧ bitOf 23 p.2 then some ((p.1 - 0x21000) / 4) else none

/-- The inputs of channel `c` that watch source `src`: 0 is SRC_A, 1 is SRC_B. An SRC_B equal to SRC_A
is no second input (R344, R346). -/
def watchInputs (c src : Nat) (s : State) : List Nat :=
  let a := hubFld (0x21000 + 4 * c) 11 0 s
  let b := hubFld (0x21001 + 4 * c) 11 0 s
  if a = src then [0] else if hubBit (0x21001 + 4 * c) 23 s ∧ b = src then [1] else []

/-- Add an event to the ones on their way. -/
def pushInbox (e : Inbox) (s : State) : State := { s with ev := { s.ev with inbox := s.ev.inbox ++ [e] } }

/-- A source fires in a fabric cycle with a hop count (R343, R344, R354): once per cycle, to every
enabled channel that watches it. -/
def fireAt (cyc : BitVec 64) (src hop : Nat) (s : State) : State :=
  let before := smAt [] s.ev.fired src
  if reservedSource src ∨ cyc ∈ before then s
  else
    let s1 := { s with ev := { s.ev with
      fired := smPut [] s.ev.fired src (cyc :: before.filter fun k => decide (s.ticks ≤ k)) } }
    let s2 := gcntEvent false src s1
    (enabledChans s2).foldl (fun t c =>
      (watchInputs c src t).foldl (fun u via => pushInbox ⟨c, cyc, via, hop⟩ u) t) s2

/-- A source fires in the next fabric cycle: what watches it there is what counts. -/
def fireNext (src hop : Nat) (s : State) : State :=
  { s with ev := { s.ev with later := s.ev.later ++ [(s.ticks + 1, src, hop)] } }

/-- The sources that the cycle before has set to fire in the current one. -/
def firesDue (s : State) : State :=
  let here := s.ev.later.filter fun p => p.1 == s.ticks
  here.foldl (fun t p => fireAt t.ticks p.2.1 p.2.2 t) { s with ev := { s.ev with later := s.ev.later.filter fun p => p.1 != s.ticks } }

/-- A source outside the logic cells fires in the current fabric cycle, with hop 0 (R354). -/
def fire (src : Nat) (s : State) : State := fireAt s.ticks src 0 s

/-! ## Task inputs and forks -/

/-- Whether the failover of VCn is open: from its declaration to the first release; a lost cluster's is not
(R426). -/
def foOpen (n : Cl) (s : State) : Bool :=
  match (s.cl n).failover with
  | some f => f.slot.isSome
  | none => false

/-- Whether forks are allowed, EVF_GSTAT.FORKEN: in BOOT, in SERVICE, while a failover is open (R350). -/
def forken (s : State) : Bool := mode s == 2 || mode s == 0xB || allCl.any fun n => foOpen n s

/-- The task inputs bound to a channel, in the order they bound. -/
def bindsOf (c : Nat) (s : State) : List Nat := smAt [] s.ev.binds c

/-- The task inputs that events of a channel reach (R350): all of a fork while FORKEN is 1, the first
otherwise. -/
def served (c : Nat) (s : State) : List Nat := if forken s then bindsOf c s else (bindsOf c s).take 1

/-- EVF_CHc_TASK as it reads: FORK, VALID and the task number of the first binding (R350). -/
def chTaskReg (c : Nat) (s : State) : Word :=
  match bindsOf c s with
  | [] => 0
  | t :: r => setBit 23 (!r.isEmpty) (setBit 22 true (BitVec.ofNat 24 (t % 2 ^ 18)))

/-- Record a refused or removed binding in EVF_FORKERR (R350). -/
def forkErr (c task : Nat) (s : State) : State :=
  hubPut 0x20003 (BitVec.ofNat 24 (task % 2 ^ 18)) (hubPut 0x20002 (setBit 23 true (BitVec.ofNat 24 (c % 1024))) s)

/-- Unbind a task input from whatever channel it is bound to. -/
def unbind (task : Nat) (s : State) : State :=
  let b := s.ev.binds.foldl (fun m p => smPut [] m p.1 (p.2.filter (· ≠ task))) []
  { s with ev := { s.ev with binds := b } }

/-- A task input's selector now selects a channel or none (R349, R350): it binds, or it is refused
where it would make a fork while FORKEN is 0. A task input already bound to that channel stays. -/
def rebind (task : Nat) (sel : Option Nat) (s : State) : State :=
  match sel with
  | none => unbind task s
  | some c =>
    if task ∈ bindsOf c s then s
    else
      let t := unbind task s
      if bindsOf c t = [] ∨ forken t then
        { t with ev := { t.ev with binds := smPut [] t.ev.binds c (bindsOf c t ++ [task]) } }
      else fire 0xD01 (forkErr c task t)

/-- Task number of interrupt input k of VCn (R349). -/
def taskIrq (n : Cl) (k : Nat) : Nat := n.val * 64 + k

/-- Task number of standing set k of VCn (R349). -/
def taskSet (n : Cl) (k : Set8) : Nat := 2 ^ 15 + n.val * 8 + k.val

/-- Task number of a mover's trigger (R349). -/
def taskMover (c : Mover) : Nat := 2 * 2 ^ 15 + c.val

/-- Task number of a network port's trigger (R349, R371). -/
def taskPort (p : Port) : Nat := 3 * 2 ^ 15 + p.val

/-- Whether a task input has an event waiting. -/
def taskWaits (task : Nat) (s : State) : Bool := decide (task ∈ s.ev.taskIn)

/-- Take one waiting event of a task input. -/
def takeTask (task : Nat) (s : State) : State := { s with ev := { s.ev with taskIn := s.ev.taskIn.erase task } }

/-! ## Delivery -/

/-- The group's EN that governs deliveries of the current cycle (R348): an event of this cycle governs
from the next one on. -/
def groupEn (g : Nat) (s : State) : Bool :=
  let o := smAt ⟨0, false, false⟩ s.ev.grpOld g
  if o.stamp = s.ticks + 1 then o.en else hubBit (0x20100 + g) 23 s

/-- An event on a group's ENCH or DISCH channel sets its EN (R348); in one cycle the disabling event
wins. Group 0 is always enabled (R347). -/
def groupCtl (g : Nat) (en dis : Bool) (s : State) : State :=
  let o := smAt ⟨0, false, false⟩ s.ev.grpOld g
  let cur := if o.stamp = s.ticks + 1 then o else ⟨s.ticks + 1, hubBit (0x20100 + g) 23 s, false⟩
  let o' : GrpOld := { cur with dis := cur.dis || dis }
  if g = 0 ∨ (!en && !dis) then s
  else hubSetBit (0x20100 + g) 23 (en && !o'.dis)
    { s with ev := { s.ev with grpOld := smPut ⟨0, false, false⟩ s.ev.grpOld g o' } }

/-- Every group whose ENCH or DISCH is channel `c` takes the delivered event (R348). Only a written
group has ENV or DISV set. -/
def groupEvents (c : Nat) (s : State) : State :=
  (s.hub.filter (fun p => 0x20100 ≤ p.1 ∧ p.1 < 0x20140)).foldl (fun t p =>
    groupCtl (p.1 - 0x20100) (bitOf 22 p.2 && fld 21 12 p.2 == c) (bitOf 11 p.2 && fld 10 1 p.2 == c) t) s

/-- The MSI-X vectors that event channel `c` raises: CXL_VBINDv of v = 1,024–2,047 (R395). -/
def vectorsOf (c : Nat) (s : State) : List Nat :=
  s.hub.filterMap fun p =>
    if 0x44400 ≤ p.1 ∧ p.1 < 0x44800 ∧ bitOf 23 p.2 ∧ fld 9 0 p.2 = c then some (p.1 - 0x44000) else none

/-- Set EVF_CHc_STAT.FLAG and its mirror in EVF_CHFLAG. -/
def setChFlag (c : Nat) (b : Bool) (s : State) : State :=
  hubSetBit (0x20010 + c / 24) (c % 24) b (hubSetBit (0x21003 + 4 * c) 23 b s)

/-- Add merged events to EVF_CHc_STAT.MERGE, which saturates, and to 0xC070:00 (R346). -/
def addMerge (c k : Nat) (s : State) : State :=
  if k = 0 then s
  else odAdd 0xC070 0 k
    (hubSetFld (0x21003 + 4 * c) 15 0 (min 0xFFFF (hubFld (0x21003 + 4 * c) 15 0 s + k)) s)

/-- Deliver one event on channel `c` with a hop count (R344, R345): the flag, the pulse for the logic
cells, the group controls, the task inputs, the MSI-X vectors. -/
def deliver (c hop : Nat) (s : State) : State :=
  let s1 := gcntEvent true c (setChFlag c true s)
  let ps := s1.ev.pulses.filter (fun p => decide (p.2.1 = s1.ticks)) ++ [(c, s1.ticks, hop)]
  let tasks := s1.ev.taskIn ++ served c s1
  let vecs := s1.cxl.raised ++ vectorsOf c s1
  groupEvents c { s1 with ev := { s1.ev with pulses := ps, taskIn := tasks }, cxl := { s1.cxl with raised := vecs } }

/-- The earliest fabric cycle of events on their way. -/
def oldestCycle (cyc : BitVec 64) (es : List Inbox) : BitVec 64 :=
  es.foldl (fun m x => if x.cyc < m then x.cyc else m) cyc

/-- EVENT_DELIVERY (R344–R348): the channel delivers, in a cycle after its sources fired, the oldest
cycle's events as one. A channel not enabled delivers nothing; a disabled group drops the event. -/
def execEventDelivery (c : Chan) (s : State) : Out := awake s <|
  match s.ev.inbox.filter (fun e => e.chan = c.val) with
  | [] => .next s
  | e :: r =>
    let cyc := oldestCycle e.cyc r
    if s.ticks ≤ cyc then .next s
    else
      let same := (e :: r).filter (fun x => x.cyc = cyc)
      let vias := (same.map (·.via)).dedup
      let hop := same.foldl (fun m x => max m x.hop) 0
      let rest := s.ev.inbox.filter (fun x => !(x.chan == c.val && x.cyc == cyc))
      let t := { s with ev := { s.ev with inbox := rest } }
      if !hubBit (0x21000 + 4 * c.val) 23 t then .next t
      else if !groupEn (hubFld (0x21000 + 4 * c.val) 22 17 t) t then
        .next (odCount 0xC072 0 (hubSetBit (0x21003 + 4 * c.val) 22 true t))
      else .next (addMerge c.val (vias.length - 1) (deliver c.val hop t))

/-- CHANNEL_SWTRIG (R344): a write of SWTRIG = 1 triggers the channel. -/
def execChannelSwtrig (c : Chan) (s : State) : Out := awake s <|
  if hubBit (0x21000 + 4 * c.val) 23 s then .next (pushInbox ⟨c.val, s.ticks, 2, 0⟩ s) else .next s

/-- HUB_SWTRIG: a write of EVF_SWTRIG fires source 0xC00 + IDX (R342). -/
def execHubSwtrig (idx : Fin 64) (s : State) : Out := awake s <| .next (fire (0xC00 + idx.val) s)

/-- EVF_SWEV_FIRE: a write of FIRE = 1 fires source 0x700 + n (R342). -/
def execEvfSwevFire (n : Cl) (s : State) : Out := awake s <| .next (fire (0x700 + n.val) s)

/-- FORKEN_FALL (R350): every fork keeps the task input that bound first; the others are reported and
source 0xD01 fires in the next cycle. -/
def execForkenFall (s : State) : Out := awake s <|
  let forks := s.ev.binds.filter (fun p => 1 < p.2.length)
  if forken s ∨ forks = [] then .next s
  else
    let s1 := forks.foldl (fun t p => (p.2.drop 1).foldl (fun u task => forkErr p.1 task u) t) s
    let b := forks.foldl (fun m p => smPut [] m p.1 (p.2.take 1)) s1.ev.binds
    let s2 := { s1 with ev := { s1.ev with binds := b } }
    .next (fireNext 0xD01 0 s2)

/-! ## Logic cells -/

/-- Whether a cell was registered in the current cycle already. -/
def cellDone (x : Nat) (s : State) : Bool := decide ((smAt (0, false) s.ev.cellCyc x).1 = s.ticks + 1)

/-- Q of a cell as registered at the end of the previous cycle (R351). -/
def cellQ (x : Nat) (s : State) : Bool :=
  if cellDone x s then (smAt (0, false) s.ev.cellCyc x).2 else hubBit (0x22001 + 4 * x) 23 s

/-- The level of a pin (after INV) as it stood at an instant in grains of base ticks: `incl` counts a change at the instant
itself. -/
def pinLevelAt (p : Nat) (t : Int) (incl : Bool) (s : State) : Bool :=
  let st := smAt PinSt.reset s.tmc.pins p
  match st.hist.find? fun (e : PinEdge) => decide ((e.time.toNat : Int) < t) || (incl && decide ((e.time.toNat : Int) = t)) with
  | some e => e.level
  | none => match st.hist.getLast? with
    | some e => !e.level
    | none => st.lvl

/-- The value of a cell input and the hop it counts with (R351, R354). -/
def cellInput (sel : Nat) (s : State) : Bool × Nat :=
  match sel / 1024 % 4 with
  | 0 =>
    match s.ev.pulses.filter (fun p => decide (p.1 = sel % 1024) && p.2.1 == s.ticks) with
    | [] => (false, 0)
    | p :: _ => (true, p.2.2)
  | 1 => (cellQ (sel % 512) s, 0)
  | 2 => (pinLevelAt (sel % 256) (tickInt ((s.ns.toNat - 4 : Int) * 256) s) true s, 0)
  | _ => (decide (sel % 2 = 1), 0)

/-- The result of a cell's LUT in the current cycle and the largest hop among its pulse inputs (R352). -/
def cellLut (x : Nat) (s : State) : Bool × Nat :=
  let i0 := cellInput (hubFld (0x22002 + 4 * x) 11 0 s) s
  let i1 := cellInput (hubFld (0x22002 + 4 * x) 23 12 s) s
  let i2 := cellInput (hubFld (0x22003 + 4 * x) 11 0 s) s
  let i3 := cellInput (hubFld (0x22003 + 4 * x) 23 12 s) s
  (hubBit (0x22001 + 4 * x) (i0.1.toNat + 2 * i1.1.toNat + 4 * i2.1.toNat + 8 * i3.1.toNat) s,
    max (max i0.2 i1.2) (max i2.2 i3.2))

/-- A cell's output event (R352, R354): it fires in the next cycle; at hop 16 the loop monitor suppresses it there. -/
def cellFire (x hop : Nat) (s : State) : State :=
  if hop ≤ 15 then fireNext (0xA00 + x) hop s
  else { s with ev := { s.ev with loops := s.ev.loops ++ [(s.ticks + 1, x)] } }

/-- The loop monitor counts a suppressed event; the first one is recorded and fires source 0xD00 in the next cycle
(R354). -/
def loopSeen (x : Nat) (s : State) : State :=
  let t := odCount 0xC071 0 s
  if hubBit 0x20001 23 t then t
  else fireNext 0xD00 0 (hubPut 0x20001 (setBit 23 true (BitVec.ofNat 24 x)) t)

/-- The events that the loop monitor suppresses in the current cycle, in ascending cell number. -/
def loopMonitor (s : State) : State :=
  let here := s.ev.loops.filter fun p => p.1 == s.ticks
  let t := { s with ev := { s.ev with loops := s.ev.loops.filter fun p => p.1 != s.ticks } }
  (List.range 512).foldl (fun u x => if here.any (fun p => p.2 == x) then loopSeen x u else u) t

/-- The filter of a cell has counted `k` cycles in a row that differ from Q (R353). -/
def setFilt (x k : Nat) (s : State) : State := { s with ev := { s.ev with filt := smPut 0 s.ev.filt x k } }

/-- A write of a cell's CTL (R352, R353): MODE 3 and a filter in PULSE mode are refused; the filter begins anew. -/
def cellCtlWrite (x : Nat) (v : Word) (s : State) : State :=
  if fld 23 22 v = 3 ∨ (fld 23 22 v = 1 ∧ fld 19 12 v ≠ 0) then hubSetBit 0x20000 0 true s
  else setFilt x 0 (hubCodeWrite (0x22000 + 4 * x) v s)

/-- Register a cell's Q at the end of the cycle. -/
def cellPut (x : Nat) (q : Bool) (s : State) : State :=
  hubSetBit (0x22001 + 4 * x) 23 q
    { s with ev := { s.ev with cellCyc := smPut (0, false) s.ev.cellCyc x (s.ticks + 1, cellQ x s) } }

/-- LOGIC_CELL_OUTPUT (R351–R354): one fabric cycle of one cell. -/
def execLogicCellOutput (x : Fin 512) (s : State) : Out := awake s <|
  let ctl := hubGet (0x22000 + 4 * x.val) s
  let r := cellLut x.val s
  let q := cellQ x.val s
  if cellDone x.val s then .next s
  else match fld 23 22 ctl with
  | 1 =>
    let t := setFilt x.val 0 (cellPut x.val r.1 s)
    .next (if r.1 then cellFire x.val (r.2 + 1) t else t)
  | 2 =>
    if r.1 = q then .next (setFilt x.val 0 (cellPut x.val q s))
    else
      let k := smAt 0 s.ev.filt x.val + 1
      if k < fld 19 12 ctl then .next (setFilt x.val k (cellPut x.val q s))
      else
        let t := setFilt x.val 0 (cellPut x.val r.1 s)
        let fires := if r.1 then bitOf 20 ctl else bitOf 21 ctl
        .next (if fires then cellFire x.val (r.2 + 1) t else t)
  | _ => .next (setFilt x.val 0 (cellPut x.val false s))

/-! ## Packet queues -/

/-- Queue `f`. -/
def pqGet (f : Nat) (s : State) : PqSt := smAt PqSt.reset s.ev.pqs f

/-- Put queue `f`. -/
def pqPut (f : Nat) (q : PqSt) (s : State) : State :=
  { s with ev := { s.ev with pqs := smPut PqSt.reset s.ev.pqs f q } }

/-- The base offset of a queue's registers. -/
def pqReg (f : Nat) : Nat := 0x24000 + 0x10 * f

/-- The depth of a queue in words (R355). -/
def pqDepth (f : Nat) (s : State) : Nat := 2 ^ hubFld (pqReg f) 22 19 s

/-- The words committed and not read. -/
def pqCommitted (q : PqSt) : Nat := (q.done.map (fun p => p.2.length)).sum

/-- The packets a read of the current cycle finds: one committed in this cycle is not among them
(R356). -/
def pqReadable (q : PqSt) (s : State) : List (BitVec 64 × List Word) :=
  q.done.filter (fun p => p.1 ≠ s.ticks)

/-- The words of the open packet as a read finds it: in the cycle of a commit the queue stands as before it (R356). -/
def pqOpenLen (q : PqSt) (s : State) : Nat :=
  ((q.done.filter fun p => p.1 == s.ticks).map fun p => p.2.length).sum + q.opn.length

/-- The free words of a queue. -/
def pqRoom (f : Nat) (s : State) : Nat := pqDepth f s - pqCommitted (pqGet f s) - (pqGet f s).opn.length

/-- EVF_PQf_STAT as it reads (R360). -/
def pqStatReg (f : Nat) (s : State) : Word :=
  setBit 23 (pqReadable (pqGet f s) s).isEmpty
    (setBit 22 (decide (pqOpenLen (pqGet f s) s ≠ 0)) (hubGet (pqReg f + 7) s))

/-- EVF_PQf_HEAD as it reads (R360). -/
def pqHeadReg (f : Nat) (s : State) : Word :=
  match pqReadable (pqGet f s) s with
  | [] => 0
  | p :: _ => BitVec.ofNat 24 p.2.length

/-- EVF_PQf_LEVEL as it reads. -/
def pqLevelReg (f : Nat) (s : State) : Word :=
  BitVec.ofNat 24 ((pqReadable (pqGet f s) s).map (fun p => p.2.length)).sum

/-- Discard the open packet and count the rewind (R357). -/
def pqRewindWith (f bit : Nat) (s : State) : State :=
  odCount 0xC073 0 (hubSetBit (pqReg f + 7) bit true (pqPut f { pqGet f s with opn := [] } s))

/-- The discard state of a queue (R357). -/
def pqDiscard (f : Nat) (b : Bool) (s : State) : State := hubSetBit (pqReg f + 7) 21 b s

/-- A word joins the open packet; the last one commits it and fires the commit source (R356). -/
def pqAccept (f : Nat) (v : Word) (last : Bool) (s : State) : State :=
  let q := pqGet f s
  if last then
    fire (0x980 + f)
      (pqPut f { q with done := q.done ++ [(s.ticks, q.opn ++ [v])], opn := [], lastAt := s.ticks } s)
  else pqPut f { q with opn := q.opn ++ [v], lastAt := s.ticks } s

/-- How a write of a packet word meets its queue (R356–R358, R361). -/
inductive PqFate where
  | lost
  | discarded
  | tooBig
  | held
  | accepted
deriving DecidableEq, Repr

/-- What becomes of the next word written (R356–R358, R361): a queue that is not enabled takes none; it is discarded in the
cycle of a FLUSH and in the discard state; the packet is rewound where it grows past the queue; the write is held where no
word is free or another one is held before it; else it is accepted. -/
def pqFate (held : List HeldWrite) (f : Nat) (s : State) : PqFate :=
  let q := pqGet f s
  if !hubBit (pqReg f) 23 s then .lost
  else if q.flushAt = some s.ticks ∨ hubBit (pqReg f + 7) 21 s then .discarded
  else if held ≠ [] then .held
  else if pqDepth f s ≤ q.opn.length then .tooBig
  else if pqRoom f s = 0 then .held
  else .accepted

/-- A write of a packet word (R356–R358): `who` is the master whose request a full queue stalls. -/
def pqWriteBy (who : Option Master) (f : Nat) (v : Word) (last : Bool) (s : State) : State :=
  match pqFate (pqGet f s).held f s with
  | .lost => s
  | .discarded => pqDiscard f (!last) s
  | .tooBig => fire (0x9C0 + f) (pqDiscard f (!last) (pqRewindWith f 18 s))
  | .held =>
    let q := pqGet f s
    pqPut f { q with held := q.held ++ [⟨who, v, last⟩], freed := q.freed && decide (q.held ≠ []) } s
  | .accepted => pqAccept f v last s

/-- A write of a packet word by a sender that the model does not keep waiting: a held one completes later by itself. -/
def pqWrite (f : Nat) (v : Word) (last : Bool) (s : State) : State := pqWriteBy none f v last s

/-- A write of a packet word by a network port, which has found ROOM for its packet and is never held (R367). -/
def pqPortWrite (f : Nat) (v : Word) (last : Bool) (s : State) : State :=
  match pqFate [] f s with
  | .accepted => pqAccept f v last s
  | _ => pqWriteBy none f v last s

/-- A write of a packet word by a hub-matrix master (R358), and whether its handshake has come: a master that is held writes
again until its word is among those that completed. -/
def pqMasterWrite (m : Master) (f : Nat) (v : Word) (last : Bool) (s : State) : Bool × State :=
  let q := pqGet f s
  let h : HeldWrite := ⟨some m, v, last⟩
  if h ∈ q.acked then (true, pqPut f { q with acked := q.acked.erase h } s)
  else if h ∈ q.held then (false, s)
  else (pqFate q.held f s != .held, pqWriteBy (some m) f v last s)

/-- The writes that complete, so that their masters go on. -/
def ackedOf (hs : List HeldWrite) : List HeldWrite := hs.filter (·.who.isSome)

/-- Discard all contents (R361): the held writes, and one that completed in this cycle, go with them; where the last of them
was not a last word, the discard state begins. -/
def pqFlushAll (f : Nat) (s : State) : State :=
  let q := pqGet f s
  let cut := match q.held.getLast? with
    | some h => !h.last
    | none => !q.opn.isEmpty && q.lastAt == s.ticks
  let t := pqPut f { PqSt.reset with lastAt := q.lastAt, acked := q.acked ++ ackedOf q.held, flushAt := some s.ticks } s
  if cut then pqDiscard f true t else t

/-- PQ_ENABLE (R355): a write of EN = 1. BASE and DLOG2 are writable only while EN = 0; a range past the
pool, a depth outside 4–12 or an overlap is refused. -/
def execPqEnable (f : Pq) (v : Word) (s : State) : Out := awake s <|
  let lo := 16 * fld 11 0 v
  let d := fld 22 19 v
  let hi := lo + 2 ^ d
  let overlaps := (List.range 64).any fun g =>
    decide (g ≠ f.val) && hubBit (pqReg g) 23 s &&
      decide (16 * hubFld (pqReg g) 11 0 s < hi) && decide (lo < 16 * hubFld (pqReg g) 11 0 s + pqDepth g s)
  if hubBit (pqReg f.val) 23 s then .next s
  else if 0x10000 < hi ∨ d < 4 ∨ 12 < d ∨ overlaps then .next (hubSetBit 0x20000 0 true s)
  else .next (hubCodeWrite (pqReg f.val) (setBit 23 true v) s)

/-- PQ_DISABLE (R355): a write of EN = 0 discards the contents as FLUSH does. -/
def execPqDisable (f : Pq) (s : State) : Out := awake s <|
  .next (hubSetBit (pqReg f.val) 23 false (pqFlushAll f.val s))

/-- PQ_WR (R356–R358). -/
def execPqWr (f : Pq) (v : Word) (s : State) : Out := awake s <| .next (pqWrite f.val v false s)

/-- PQ_WR_LAST (R356–R358). -/
def execPqWrLast (f : Pq) (v : Word) (s : State) : Out := awake s <| .next (pqWrite f.val v true s)

/-- PQ_HELD_WRITE_COMPLETE (R358): the first held write completes once a read has freed a word. A rewind that frees the open
packet's words ends no wait. -/
def execPqHeldWriteComplete (f : Pq) (s : State) : Out := awake s <|
  let q := pqGet f.val s
  match q.held with
  | [] => .next s
  | h :: hs =>
    if !q.freed ∨ pqRoom f.val s = 0 then .next s
    else .next (pqAccept f.val h.word h.last
      (pqPut f.val { q with held := hs, acked := q.acked ++ ackedOf [h], freed := decide (1 < pqRoom f.val s) } s))

/-- PQ_RD (R360): the oldest committed word, or an underrun that repeats the last one. -/
def execPqRd (f : Pq) (s : State) : Out := awake s <|
  let q := pqGet f.val s
  match pqReadable q s with
  | (cyc, w :: ws) :: _ =>
    let done := if ws = [] then q.done.drop 1 else (cyc, ws) :: q.done.drop 1
    .next (respond [w] (pqPut f.val { q with done := done, lastRd := w, freed := true } s))
  | _ =>
    .next (respond [q.lastRd] (fire (0x9C0 + f.val) (odCount 0xC074 0 (hubSetBit (pqReg f.val + 7) 20 true s))))

/-- PQ_REWIND (R357). -/
def execPqRewind (f : Pq) (s : State) : Out := awake s <| .next (pqRewindWith f.val 17 s)

/-- PQ_FLUSH (R361). -/
def execPqFlush (f : Pq) (s : State) : Out := awake s <| .next (pqFlushAll f.val s)

/-- PQ_STALE_TIMEOUT (R359): an open packet without a word for STALE µs is rewound, the discard state
begins and the error source fires. A word of the cycle of expiry still comes first. -/
def execPqStaleTimeout (f : Pq) (s : State) : Out := awake s <|
  let q := pqGet f.val s
  let us := hubFld (pqReg f.val + 2) 19 0 s
  if us = 0 ∨ q.opn = [] ∨ q.held ≠ [] ∨ hubBit (pqReg f.val + 7) 21 s ∨
      (s.ticks - q.lastAt).toNat ≤ us * 1000 then .next s
  else .next (fire (0x9C0 + f.val) (pqDiscard f.val true (pqRewindWith f.val 19 s)))

end Sys2Proof.Machine
end

