-- ==== Sys2Proof/Machine/Caps.lean ====
section
/-!
DEFINITION. Machine/Caps.lean: capabilities: their fields, tags and checks
(spec/08_sequencer_traps_capabilities.md R242–R246, spec/17_security.md R446, R455, R456).
-/
namespace Sys2Proof.Machine

/-- Word i of a capability (R242). -/
def capWord (c : Cap) (i : Nat) : Word := c.extractLsb' (24 * i) 24

/-- A capability from its four words (R242). -/
def capOfWords (w0 w1 w2 w3 : Word) : Cap := w3 ++ w2 ++ w1 ++ w0

/-- BASE (R242). -/
def capBase (c : Cap) : Nat := (capWord c 0).toNat + fld 15 0 (capWord c 1) * 2 ^ 24

/-- LEN in words (R242). -/
def capLen (c : Cap) : Nat := fld 23 16 (capWord c 1) + (capWord c 2).toNat * 2 ^ 8

/-- PERM (R242, R243). -/
def capPerm (c : Cap) : Nat := fld 23 12 (capWord c 3)

/-- TAG (R242). -/
def capTagField (c : Cap) : Nat := fld 11 0 (capWord c 3)

/-- A permission bit of R243. -/
def capHas (c : Cap) (p : Nat) : Bool := decide (capPerm c / p % 2 = 1)

/-- RD (R243). -/
def permRD : Nat := 1
/-- WR (R243). -/
def permWR : Nat := 2
/-- HO (R243). -/
def permHO : Nat := 4
/-- IO (R243). -/
def permIO : Nat := 8
/-- STK (R243). -/
def permSTK : Nat := 16
/-- WS (R243). -/
def permWS : Nat := 32
/-- ENT (R243). -/
def permENT : Nat := 64
/-- KEY (R243). -/
def permKEY : Nat := 128
/-- GLB (R243). -/
def permGLB : Nat := 256

/-- The tag of a capability under a tag secret: bits [127:116] of the CMAC over its words with TAG 0, as
12 bytes low byte first (R455). -/
def tagOf (secret : BitVec 128) (c : Cap) : BitVec 12 :=
  (cmac secret (wordsBytes [capWord c 0, capWord c 1, capWord c 2, setFld 11 0 0 (capWord c 3)])).extractLsb' 116 12

/-- A capability with the tag that its fields carry under the device's tag secret (R249). -/
def retag (s : State) (c : Cap) : Cap :=
  capOfWords (capWord c 0) (capWord c 1) (capWord c 2) (setFld 11 0 (tagOf s.sec.tagSecret c).toNat (capWord c 3))

/-- Whether the TAG of a capability verifies (R455); reserved PERM bits are 0 in a valid one (R243). -/
def tagOk (s : State) (c : Cap) : Bool :=
  decide ((tagOf s.sec.tagSecret c).toNat = capTagField c) && decide (capPerm c < 512)

/-- A capability from its fields, tagged: what Hardpan mints (R242, R446). -/
def mintCap (s : State) (base len perm : Nat) : Cap :=
  retag s (capOfWords (BitVec.ofNat 24 base) (BitVec.ofNat 24 (base / 2 ^ 24 % 2 ^ 16 + len % 256 * 2 ^ 16))
    (BitVec.ofNat 24 (len / 256)) (BitVec.ofNat 24 (perm * 2 ^ 12)))

/-- What a slot holds after a capability's words enter it with their tag checked (R244, R248). -/
def loadCap (s : State) (c : Cap) : Option CapV :=
  if c = 0 then some CapV.null else if tagOk s c then some ⟨c, true⟩ else none

/-- Whether a capability covers `k` words from address `a` (R244). -/
def covers (c : CapV) (a k : Nat) : Bool :=
  c.valid && decide (capBase c.bits ≤ a) && decide (a + k ≤ capBase c.bits + capLen c.bits)

/-- The DETAIL of a failed D-space, stream or mover check for the permission `perm`, or none when it is
met (R244, R245, R261). An IO capability covers no D-space or global word. -/
def capFault (c : CapV) (a k perm : Nat) : Option Nat :=
  if !c.valid then some 0x01
  else if capHas c.bits permIO || !covers c a k then some 0x02
  else if capHas c.bits perm then none
  else some 0x03

/-- The DETAIL of a failed IO check, or none (R245, R261). A capability that is no IO capability covers no
IO address. -/
def ioFault (c : CapV) (a perm : Nat) : Option Nat :=
  if !c.valid then some 0x01
  else if !capHas c.bits permIO || !covers c a 1 then some 0x02
  else if capHas c.bits perm then none
  else some 0x03

/-- A failed tag check is counted and fires its source (R456). -/
def tagFailed (s : State) : State := fire 0xCA2 (odCount 0xC0C0 0 s)

/-- The capability that a hub-matrix request carries, as the tag units take it (R20, R455). -/
def carried (s : State) (c : Cap) : CapV := (loadCap s c).getD CapV.null

end Sys2Proof.Machine
end

