-- ==== Sys2Proof/Machine/Store.lean ====
section
/-!
DEFINITION. Machine/Store.lean: plots and their owners, the local store's rows and errors, and how an
agent reads and writes a word of memory (spec/06_store_and_ownership.md R175–R203, R164).
The model's own choices and readings (DEDUCED, DESIGN CHOICE, PRESUMED) are log entries 3, 14, 38, 41, 42, 67, 69 and 75.
-/
namespace Sys2Proof.Machine

/-! ## Plots and owners -/

/-- Who accesses a plot (R177, R179, R187): a cluster's sequencer, through its own paths or through a window, a cluster's
stream, a hub mover, another hub-matrix master, an I/O block. -/
inductive Agent where
  | seq (m : Cl)
  | window (m : Cl)
  | stream (m : Cl)
  | mover
  | hubM
  | io
deriving DecidableEq, Repr

/-- The owner code of PLOT_OWN_i (R179). -/
def ownCode (i : Nat) (c : Cluster) : Nat := ioFld (0x320 + i) 9 8 c

/-- The remote cluster of PLOT_OWN_i. -/
def ownRem (i : Nat) (c : Cluster) : Nat := ioFld (0x320 + i) 7 0 c

/-- Whether an agent counts as the owner of plot `i` of its home cluster `n` (R179). -/
def ownerAdmits (n : Cl) (c : Cluster) (i : Nat) (g : Agent) : Bool :=
  match ownCode i c, g with
  | 0, .seq m => m == n
  | 0, .window m => m == n
  | 0, .stream m => m == n
  | 1, .window m => m.val == ownRem i c
  | 1, .stream m => m.val == ownRem i c
  | 2, .mover => true
  | 2, .hubM => true
  | 3, .io => true
  | _, _ => false

/-- PLOT_REFUSE.AGENT of an agent (R187). -/
def agentCode (n : Cl) : Agent → Nat
  | .seq m => if m = n then 0 else 2
  | .window m => if m = n then 0 else 2
  | .stream m => if m = n then 1 else 2
  | .mover => 3
  | .hubM => 3
  | .io => 4

/-- The base and the length in global words of plot `i` of VCn (R178). -/
def plotRange (n : Cl) (i : Nat) : Nat × Nat :=
  if i < 16 then (lsAddr n (i * 0x4000), 0x4000) else (xchgAddr n ((i - 16) * 0x1000), 0x1000)

/-- The configuration of plot `i` that governs now: the one before a waiting one, else the one written
(R183). -/
def govCfg (i : Nat) (c : Cluster) : Word := (smAt none c.plotWait i).getD (ioGet (0x300 + i) c)

/-- Whether the store holds a plot's new owner until port A has the change (R181, R186). -/
def portHeld (i : Nat) (c : Cluster) : Bool := smAt false c.portA i

/-- PLOT_OWN_i.PEND: a change waits for port A or for a handover tick (R181, R183). -/
def syncPend (i : Nat) (c : Cluster) : Cluster :=
  ioSetBit (0x320 + i) 23 (portHeld i c || (smAt none c.plotWait i).isSome) c

/-- Put the owner of plot `i`; with `hold`, the change must still reach port A. A change to the current
owner leaves everything as it is (R181). -/
def putOwner (i code rem : Nat) (hold : Bool) (c : Cluster) : Cluster :=
  let r := if code = 1 then rem else 0
  if ownCode i c = code ∧ ownRem i c = r then syncPend i c
  else
    let c1 := ioSetFld (0x320 + i) 7 0 r (ioSetFld (0x320 + i) 9 8 code c)
    syncPend i (if hold then { c1 with portA := smPut false c1.portA i true } else c1)

/-- The PLOT_PHASE of the current frame: while a spare is restored or replays, the one the I/O side goes on with
(R182, R427, R430). -/
def phaseOf (c : Cluster) : Nat :=
  match c.failover with
  | some f => if f.live then (ioGet 0x341 c).toNat else f.phase
  | none => (ioGet 0x341 c).toNat

/-- The owner that a configuration names in a phase: A in even phases and without ALT, B in odd ones
(R181, R182). -/
def cfgOwner (cfg : Word) (phase : Nat) : Nat × Nat :=
  if bitOf 22 cfg && decide (phase % 2 = 1) then (fld 21 20 cfg, fld 19 12 cfg) else (fld 11 10 cfg, fld 7 0 cfg)

/-- Whether plot `i` of VCn may have this owner (R179). -/
def ownerAllowed (n : Cl) (i code rem : Nat) : Bool :=
  !(decide (code = 3) && decide (i < 16)) && !(decide (code = 1) && decide (rem = n.val))

/-- Set PLOT_ERR.CODE. -/
def plotErr (code : Nat) (c : Cluster) : Cluster := ioSetFld 0x342 3 0 code c

/-- The address whose word a change of SKEW brings to offset `a` of a local store (R188). -/
def skewMove (a : Nat) : Nat := a / 512 * 512 + ((a / 4 % 128) ^^^ (a / 512 % 128)) * 4 + a % 4

/-- A change of SKEW moves no data: every word of the plot now answers at the other address (R188). -/
def skewPlot (n : Cl) (i : Nat) (s : State) : State :=
  let (b, k) := plotRange n i
  { s with mem := s.mem.foldl (fun m p =>
      if b ≤ p.1 ∧ p.1 < b + k then smPut 0 m (lsAddr n (skewMove (p.1 - lsAddr n 0))) p.2 else smPut 0 m p.1 p.2) [] }

/-- A configuration of plot `i` takes over from the one that governed: SKEW follows it (R183, R188). -/
def takeCfg (n : Cl) (i : Nat) (old new : Word) (s : State) : State :=
  if i < 16 ∧ bitOf 23 old ≠ bitOf 23 new then skewPlot n i s else s

/-- The valid PLOT_HO entries of plot `i`, ascending. -/
def hoEntries (i : Nat) (c : Cluster) : List Nat :=
  (List.range 8).filter fun j => ioBit (0x348 + 4 * j) 23 c && decide (ioFld (0x348 + 4 * j) 20 16 c = i)

/-- The capability that a handover write presents (R180). -/
def handlerCap (n : Cl) (who : Handler) (s : State) : CapV :=
  match who with
  | .sequencer => smAt CapV.null (s.cl n).cregs (ioFld 0x340 3 0 (s.cl n))
  | .hub _ cap => carried s cap

/-- Whether a capability authorises a handover of plot `i` of VCn (R180). -/
def handoverOk (n : Cl) (i : Nat) (cap : CapV) : Bool :=
  let (b, k) := plotRange n i
  (capFault cap b k permHO).isNone

/-- Why a write of PLOT_CFG_i is refused, as PLOT_ERR.CODE, or none (R179, R180, R184, R188). DESIGN CHOICE (log entry 75): of
several reasons the first one here is recorded. -/
def cfgRefusal (n : Cl) (i : Plot) (v : Word) (cap : CapV) (c : Cluster) : Option Nat :=
  if !handoverOk n i cap then some 1
  else if !ownerAllowed n i (fld 11 10 v) (fld 7 0 v)
      || (bitOf 22 v && !ownerAllowed n i (fld 21 20 v) (fld 19 12 v)) then some 2
  else if bitOf 22 v ∧ hoEntries i c ≠ [] then some 3
  else if i.val < 16 ∧ bitOf 23 v ≠ bitOf 23 (govCfg i c) ∧ ownCode i c ≠ 0 then some 4
  else none

/-- A write of PLOT_CFG_i (R180–R183, R188): refused with its code, waiting for the next handover tick, or
an immediate handover. -/
def plotCfgWrite (n : Cl) (i : Plot) (v : Word) (who : Handler) (s : State) : State :=
  let c := s.cl n
  let old := govCfg i c
  match cfgRefusal n i v (handlerCap n who s) c with
  | some code => s.modCl n (plotErr code)
  | none =>
    let c1 := ioCodeWrite (0x300 + i.val) v c
    if bitOf 22 v && gridRun s then
      s.putCl n (syncPend i { c1 with plotWait := smPut none c1.plotWait i (some old) })
    else
      let c2 := { c1 with plotWait := smPut none c1.plotWait i none }
      let o := cfgOwner (ioGet (0x300 + i.val) c2) (ioGet 0x341 c2).toNat
      (takeCfg n i old (ioGet (0x300 + i.val) c2) s).putCl n (putOwner i o.1 o.2 (decide (16 ≤ i.val)) c2)

/-- PLOT_CFG_WRITE (R180–R183, R188). -/
def execPlotCfgWrite (n : Cl) (i : Plot) (v : Word) (who : Handler) (s : State) : Out := awake s <|
  .next (plotCfgWrite n i v who s)

/-- Why a write of VALID = 1 to a PLOT_HO entry is refused (R179, R180, R184), or none. DESIGN CHOICE (log entry 75): of several
reasons the first one here is recorded. -/
def hoRefusal (n : Cl) (v : Word) (cap : CapV) (c : Cluster) : Option Nat :=
  let i := fld 20 16 v
  if 19 < i then some 5
  else if !handoverOk n i cap then some 1
  else if !ownerAllowed n i (fld 11 10 v) (fld 7 0 v) then some 2
  else if bitOf 22 (ioGet (0x300 + i) c) then some 3
  else none

/-- A write of PLOT_HO_j_CTL (R180, R184). An entry is late when FRAME is not greater than the current base
frame number. DESIGN CHOICE (log entry 75): a write of VALID = 0 clears LATE, and takes any INDEX. -/
def plotHoWrite (n : Cl) (j : Nat) (v : Word) (who : Handler) (s : State) : State :=
  let c := s.cl n
  if !bitOf 23 v then s.putCl n (ioSetBit (0x348 + 4 * j) 22 false (ioCodeWrite (0x348 + 4 * j) v c))
  else match hoRefusal n v (handlerCap n who s) c with
  | some code => s.putCl n (plotErr code c)
  | none =>
    let late := decide ((ioPair (0x349 + 4 * j) c).toNat ≤ baseFrame s)
    s.putCl n (ioSetBit (0x348 + 4 * j) 22 late (ioCodeWrite (0x348 + 4 * j) v c))

/-- PLOT_HO_WRITE (R180, R184). -/
def execPlotHoWrite (n : Cl) (j : Fin 8) (v : Word) (who : Handler) (s : State) : Out := awake s <|
  .next (plotHoWrite n j v who s)

/-- PLOT_PORT_A_ACK (R181, R186): both ports hold the new owner of exchange plot `q`. -/
def execPlotPortAAck (n : Cl) (q : Fin 4) (s : State) : Out := onIsland n s <|
  .next (s.modCl n fun c => syncPend (16 + q.val) { c with portA := smPut false c.portA (16 + q.val) false })

/-- Whether a scheduled change from one owner code to another passes an exchange plot between the I/O side
and port B, so that the acquiring port waits for the acknowledgment (R186). -/
def tickHold (i old new : Nat) : Bool :=
  decide (16 ≤ i) && ((old == 3 && new == 0) || (old == 0 && new == 3))

/-- Apply the valid entry `j` to its plot (R184): VALID returns to 0, CODE_A and REM_A follow. -/
def applyEntry (i j : Nat) (c : Cluster) : Cluster :=
  let e := ioGet (0x348 + 4 * j) c
  let code := fld 11 10 e
  let rem := fld 7 0 e
  let upd (w : Word) : Word := setFld 7 0 rem (setFld 11 10 code w)
  let c1 := ioSetBit (0x348 + 4 * j) 23 false c
  let c2 := ioPut (0x300 + i) (upd (ioGet (0x300 + i) c1)) c1
  putOwner i code rem (tickHold i (ownCode i c2) code) c2

/-- One plot at a handover tick (R183, R185): a waiting configuration governs, then the alternation, then
the entries in ascending j, a late one whatever the base frame number is by now. -/
def tickPlot (n : Cl) (frame : Nat) (s : State) (i : Nat) : State :=
  let c := s.cl n
  let old := govCfg i c
  let new := ioGet (0x300 + i) c
  let c1 := { c with plotWait := smPut none c.plotWait i none }
  let o := cfgOwner new (ioGet 0x341 c1).toNat
  let c2 := if bitOf 22 new then putOwner i o.1 o.2 (tickHold i (ownCode i c1) o.1) c1 else syncPend i c1
  let due := (hoEntries i c2).filter fun j =>
    ioBit (0x348 + 4 * j) 22 c2 || decide ((ioPair (0x349 + 4 * j) c2).toNat ≤ frame)
  (takeCfg n i old new s).putCl n (due.foldl (fun d j => applyEntry i j d) c2)

/-- PLOT_HANDOVER (R182, R185): the phase advances and the plots change hands in ascending index. -/
def plotHandover (n : Cl) (s : State) : State :=
  let t := s.modCl n fun c => ioPut 0x341 (ioGet 0x341 c + 1) c
  (List.range 20).foldl (tickPlot n (baseFrame t)) t

/-- At START, PLOT_PHASE becomes 0, that of an open failover too, and the alternating plots follow it (R182). -/
def plotStart (n : Cl) (s : State) : State :=
  (List.range 20).foldl (fun t i =>
    t.modCl n fun c =>
      let cfg := govCfg i c
      if bitOf 22 cfg then putOwner i (fld 11 10 cfg) (fld 7 0 cfg) (tickHold i (ownCode i c) (fld 11 10 cfg)) c else c)
    (s.modCl n fun c => ioPut 0x341 0 { c with failover := c.failover.map fun f => { f with phase := 0 } })

/-- Record a refused access in PLOT_REFUSE and count it (R187). -/
def refuse (n : Cl) (i off : Nat) (g : Agent) (write : Bool) (s : State) : State :=
  odCount 0xC034 0 (s.modCl n (ioPut 0x343
    (BitVec.ofNat 24 (2 ^ 23 + write.toNat * 2 ^ 22 + agentCode n g * 2 ^ 19 + i * 2 ^ 14 + off))))

/-! ## Rows and errors of the local store -/

/-- The row of a local-store offset (R164). -/
def rowOfOff (off : Nat) : Nat := off / 512

/-- The bank of a local-store offset under its plot's SKEW (R164, R188). -/
def bankOfOff (c : Cluster) (off : Nat) : Nat :=
  let b := off / 4 % 128
  if bitOf 23 (govCfg (off / 0x4000) c) then b ^^^ (off / 512 % 128) else b

/-- The recorded bad row that holds an offset. -/
def badRow? (c : Cluster) (off : Nat) : Option BadRow :=
  c.bad.find? fun b => b.bank == bankOfOff c off && b.row == rowOfOff off

/-- Whether a read of this row is uncorrectable: a double-bit error or a poisoned row (R193). -/
def BadRow.ue (b : BadRow) : Bool := b.poisoned || b.double

/-- Whether an entry says nothing of its row any more. -/
def BadRow.clean (b : BadRow) : Bool := !b.ue && b.bits.isEmpty && !b.repeated && decide (b.spares = 0)

/-- Change what is known of a row; a row of which nothing is left to say has no entry. -/
def setBadRow (bank row : Nat) (f : BadRow → BadRow) (c : Cluster) : Cluster :=
  let here (b : BadRow) : Bool := b.bank == bank && b.row == row
  let old := (c.bad.find? here).getD ⟨bank, row, false, false, [], false, 0⟩
  let rest := c.bad.filter (fun b => !here b)
  { c with bad := if (f old).clean then rest else rest ++ [f old] }

/-- Masters of R169 make requests. -/
def ask (ks : List Nat) (c : Cluster) : Cluster := { c with conf := c.conf ++ ks.filter fun k => !c.conf.contains k }

/-- The master of R169 that an agent's access to a local store is a request of; streams are counted where they open. -/
def asker : Agent → List Nat
  | .seq _ => [9]
  | .window _ => [10]
  | .mover => [11]
  | _ => []

/-- Record an error in VU_LS_ECC (R192, R193). -/
def recordEcc (ue : Bool) (bank row : Nat) (c : Cluster) : Cluster :=
  ioPut 0x3A0 (setBit (if ue then 23 else 22) true (setFld 6 0 bank (setFld 15 7 row (ioGet 0x3A0 c)))) c

/-- The spare manager begins to copy a bank into a free spare bank, unless it already does or, but for a new error
(`fresh`), the bank was replaced before; a cluster that needs a third spare bank is handled as a failed cluster (R196). -/
def startBankCopy (fresh : Bool) (bank : Nat) (c : Cluster) : Cluster :=
  let w := ioGet 0x3A1 c
  let replaced := (bitOf 23 w && decide (fld 22 16 w = bank)) || (bitOf 15 w && decide (fld 14 8 w = bank))
  let busy (k : Nat) : Bool := c.copies.any (fun p => p.2 % 2 == k)
  if (replaced && !fresh) || c.copies.any (fun p => p.1 == bank) then c
  else if !bitOf 23 w && !busy 0 then { c with copies := c.copies ++ [(bank, 0)] }
  else if !bitOf 15 w && !busy 1 then { c with copies := c.copies ++ [(bank, 1)] }
  else { c with failCause := true }

/-- An uncorrectable error seen by a reader: recorded, counted, the spare manager informed (R193, R196). A row that was
copied into a spare bank as poisoned is no new error of that bank. -/
def lsUncorrectable (n : Cl) (b : BadRow) (s : State) : State :=
  odCount 0xC031 0 (s.modCl n fun c => startBankCopy b.double b.bank (recordEcc true b.bank b.row c))

/-- The spare rows that a bank's rows have taken (R195). -/
def rowsTaken (bank : Nat) (c : Cluster) : Nat :=
  ((c.bad.filter (fun b => b.bank == bank)).map fun b => b.spares + b.repeated.toNat).sum

/-- VU_LS_SPARE.ROWREP follows the remapped rows. -/
def syncRowRep (c : Cluster) : Cluster := ioSetFld 0x3A1 7 0 ((c.bad.map (·.spares)).sum) c

/-- ROW_REMAP (R195, R197): rows that are written twice take their spare rows; so do the rows of exchange RAM. -/
def rowRepair (c : Cluster) : Cluster :=
  let again (w : BadWord) : Bool := c.xbad.any fun x => x.repeated && x.off / 16 == w.off / 16
  syncRowRep { c with
    bad := c.bad.map fun b => if b.repeated then { b with bits := [], repeated := false, spares := b.spares + 1 } else b
    xbad := c.xbad.filter fun w => w.double || !again w }

/-- What waits for a tick edge is done at once while the grid is stopped (R195, R196). -/
def unlessRuns (n : Cl) (f : Cluster → Cluster) (s : State) : State := if gridRun s then s else s.modCl n f

/-- A corrected error of a row is recorded and counted; a bit that shows it again has the row copied to a spare row, which
takes over at the next tick edge (R192, R195); sixteen distinct rows of a bank within 1 s have the bank copied (R196). -/
def lsCorrected (n : Cl) (bank row bit : Nat) (s : State) : State :=
  let c := recordEcc false bank row (s.cl n)
  let seen := c.corrected.filter (fun e => decide ((s.ticks - e.2.2).toNat < 10 ^ 9) && !(e.1 == bank && e.2.1 == row))
    ++ [(bank, row, s.ticks)]
  let spare := decide (rowsTaken bank c < 2)
  let c1 := setBadRow bank row (fun b =>
    if b.ue || b.repeated then b
    else if b.bits.contains bit then { b with repeated := spare }
    else { b with bits := bit :: b.bits }) { c with corrected := seen }
  let c2 := if 16 ≤ (seen.filter (fun e => e.1 == bank)).length then startBankCopy true bank c1 else c1
  unlessRuns n rowRepair (odCount 0xC030 0 (s.putCl n c2))

/-- A read access of a local-store word's row (R164, R192, R193): false where the row is uncorrectable. Words read of one row
in one base tick share an access, which finds an error once. A row whose cells showed errors and are not replaced shows one
of them again or none, as the cells are (free). -/
def lsRead (n : Cl) (off : Nat) (s : State) : Bool × State :=
  match badRow? (s.cl n) off with
  | none => (true, s)
  | some b =>
    let here := (b.bank, b.row, s.ticks)
    if b.ue then
      (false, if (s.cl n).ueSeen.contains here then s
        else lsUncorrectable n b (s.modCl n fun c => { c with ueSeen := here :: c.ueSeen.filter fun e => e.2.2 == s.ticks }))
    else if b.bits.isEmpty || (s.cl n).corrected.contains here then (true, s)
    else
      let k := b.bits.getD (Config.freeNat (s.fresh + 1) % b.bits.length) 0
      (true, if Config.freeBit s.fresh then lsCorrected n b.bank b.row k (drawn (drawn s)) else drawn s)

/-- One access writes some words of a row, the whole of it or a part (R166, R193): a full row clears the row's error; for a part
of it the old contents are read, and an uncorrectable row is marked poisoned. -/
def rowWritten (n : Cl) (off : Nat) (whole : Bool) (s : State) : State :=
  let put (p : Bool) (t : State) : State :=
    t.modCl n fun c => match badRow? c off with
      | none => c
      | some b => setBadRow b.bank b.row (fun x => { x with poisoned := p, double := false }) c
  if whole then put false s
  else
    let r := lsRead n off s
    if r.1 then r.2 else put true r.2

/-! ## Errors of exchange RAM and of the instruction store (R197) -/

/-- A read finds the error of a bad word: none where it is uncorrectable; a single-bit error shows or not, as the cells are
(free), is corrected and counted, and the second time marks the word repeated while a spare is left. -/
def badWordRead (spare : Bool) (b : BadWord) (s : State) : Option (BadWord × Bool) × State :=
  if b.double then (none, s)
  else if Config.freeBit s.fresh then
    (some ({ b with seen := true, repeated := b.repeated || (b.seen && spare) }, true), odCount 0xC032 0 (drawn s))
  else (some (b, false), drawn s)

/-- Record an error in XCHG_ECC. -/
def recordXecc (ue : Bool) (off : Nat) (c : Cluster) : Cluster :=
  ioPut 0x382 (setBit (if ue then 23 else 22) true (setFld 13 0 off (ioGet 0x382 c))) c

/-- A read of an exchange word (R197): false where it is uncorrectable. Four spare rows of 16 words replace rows whose
error repeats: one for a row, however many of its words repeat before the remap. -/
def xchgRead (n : Cl) (off : Nat) (s : State) : Bool × State :=
  let c := s.cl n
  let known := c.xbad.any fun x => x.repeated && x.off / 16 == off / 16
  match c.xbad.find? (fun b => b.off == off) with
  | none => (true, s)
  | some b =>
    match badWordRead (known || decide (c.xspares < 4)) b s with
    | (none, t) => (false, t.modCl n (recordXecc true off))
    | (some (_, false), t) => (true, t)
    | (some (b', true), t) =>
      (true, unlessRuns n rowRepair (t.modCl n fun d => recordXecc false off { d with
        xbad := d.xbad.map fun x => if x.off == off then b' else x
        xspares := d.xspares + (b'.repeated && !known).toNat }))

/-- A read of an instruction-store word (R197): false where it is uncorrectable. -/
def istoreRead (n : Cl) (off : Nat) (s : State) : Bool × State :=
  match (s.cl n).ibad.find? (fun b => b.off == off) with
  | none => (true, s)
  | some b =>
    match badWordRead false b s with
    | (none, t) => (false, t)
    | (some (b', _), t) =>
      (true, t.modCl n fun d => { d with ibad := d.ibad.map fun x => if x.off == off then b' else x })

/-- A write of a word replaces its check bits: a double-bit error is gone. -/
def wordGood (off : Nat) (l : List BadWord) : List BadWord := l.filter fun b => !(b.double && b.off == off)

/-! ## Deep store lines -/

/-- The line of a deep-store offset (R199). -/
def lineOf (off : Nat) : Nat := off / 32

/-- The stack and pseudo-channel of a deep-store line (R199). -/
def lineStack (l : Nat) : Nat := l % 4
/-- The pseudo-channel of a deep-store line in its stack (R199). -/
def linePc (l : Nat) : Nat := l / 4 % 32

/-- A pseudo-channel must be replaced: the copy into the spare begins, unless the spare is in use or
being filled (R203). A stack whose spare is in use keeps the channel in service and reports it. -/
def startPcCopy (st pc : Nat) (s : State) : State :=
  if (smAt none s.hbm.copying st).isSome ∨ (smAt none s.hbm.spareUsed st).isSome then s
  else { s with hbm := { s.hbm with copying := smPut none s.hbm.copying st (some pc) } }

/-- Whether a deep-store line is poisoned (R202). -/
def lineBad (l : Nat) (s : State) : Bool := s.hbm.poisoned.contains l

/-- Whether a deep-store word's line is poisoned (R202). -/
def deepBad (off : Nat) (s : State) : Bool := lineBad (lineOf off) s

/-- An uncorrectable read of a deep-store line is counted, and its pseudo-channel is replaced (R202, R203). -/
def deepUe (l : Nat) (s : State) : State := startPcCopy (lineStack l) (linePc l) (odCount 0xC036 0 s)

/-- A write of a whole deep-store line clears its poison (R202). -/
def clearLine (line : Nat) (s : State) : State :=
  { s with hbm := { s.hbm with poisoned := s.hbm.poisoned.filter (· ≠ line) } }

/-- Words written in full lines of the deep store from offset `off` on clear the lines' poison (R202). -/
def clearLines (off k : Nat) (s : State) : State :=
  { s with hbm := { s.hbm with poisoned := s.hbm.poisoned.filter (fun l => !(decide (off ≤ 32 * l) && decide (32 * l + 32 ≤ off + k))) } }

/-! ## How an agent reads and writes words -/

/-- How an access to one word ends: with the word (0 for a write), refused by the plot's owner, held until
port A has the new owner, uncorrectable, at an unmapped address, or with another error response. -/
inductive Acc where
  | ok (v : Word)
  | refused
  | held
  | ue
  | unmapped
  | error
deriving DecidableEq, Repr

/-- The plot index and the offset in the plot of a local-store or exchange offset in a slot (R178). -/
def plotOf (slotOff : Nat) : Nat × Nat :=
  if slotOff < 0x40000 then (slotOff / 0x4000, slotOff % 0x4000)
  else (16 + (slotOff - 0x40000) / 0x1000, (slotOff - 0x40000) % 0x1000)

/-- Whether the spare manager holds VCn apart: its MAP.STATE is not normal (R427, R428). -/
def isolated (n : Cl) (s : State) : Bool := decide (hubFld (0x50100 + 8 * n.val) 23 21 s ≠ 0)

/-- Whether an agent is the cluster's own. -/
def ownAgent (n : Cl) : Agent → Bool
  | .seq m => m == n
  | .window m => m == n
  | .stream m => m == n
  | _ => false

/-- The ownership check of one word of VCn at an offset of its slot (R29, R181, R187): none when the owner
accesses it. A failed cluster's stores refuse every other agent (R427). -/
def ownCheck (n : Cl) (slotOff : Nat) (g : Agent) (s : State) : Option Acc :=
  let i := (plotOf slotOff).1
  let c := s.cl n
  if isolated n s && !ownAgent n g then some .refused
  else if ownerAdmits n c i g then (if portHeld i c then some .held else none) else some .refused

/-! ## The two ports of an exchange RAM (R177, R189–R191) -/

/-- Whether an agent's access to an exchange RAM passes port A: any but that of the cluster's own sequencer and streams
(R177). -/
def viaA : Agent → Bool
  | .seq _ => false
  | .stream _ => false
  | _ => true

/-- A result under way that a collision makes undefined (R190). -/
def freeResult (k : Nat) (w : RegWrite) : RegWrite :=
  match w.val with
  | .w _ => { w with val := .w (Config.freeWord k) }
  | .f _ => { w with val := .f (Config.freeWord k ++ Config.freeWord k) }
  | .c _ => { w with val := .c ⟨BitVec.ofNat 96 (Config.freeNat k), false⟩ }
  | .cc _ => w

/-- A sequencer's loads that a write of the other port meets deliver undefined data, though they came first (R190): their
results have not reached the registers yet. -/
def spoilReads (hit : List XAccess) (k : Nat) (c : Cluster) : Cluster :=
  let regs := hit.flatMap (·.regs)
  { c with due := c.due.map fun w => if regs.contains w.reg then freeResult k w else w }

/-- An access of a cluster to its own exchange RAM is noted; the answer lists the accesses of the other port to the same word
within a nanosecond, one of the two a write: they may be within 0.5 ns (R190). -/
def xchgNote (n : Cl) (off : Nat) (portA wr : Bool) (met : Option Bool) (s : State) : List XAccess × State :=
  let recent := (s.cl n).xlast.filter fun e => decide ((s.ticks - e.at').toNat ≤ 1)
  (recent.filter fun e => e.portA != portA && e.off == off && (wr || e.wr),
    s.modCl n fun c => { c with xlast := ⟨portA, off, wr, s.ticks, [], met⟩ :: recent })

/-- A collision is recorded and counted (R190, R191): XCHG_BUSY shows the later port, or both, XCHG_COLL_ADDR the word. -/
def xchgCollide (n : Cl) (off : Nat) (portA : Bool) (s : State) : State :=
  odCount 0xC033 0 ((drawn s).modCl n fun c => ioPut 0x381 (BitVec.ofNat 24 off)
    (if Config.freeBit s.fresh then ioPut 0x380 3 c else ioSetBit 0x380 (if portA then 0 else 1) true c))

/-- Whether a store of the cluster's sequencer waits that goes through a window, so through port A, to an own exchange word
(R177, R228). -/
def windowWaits (n : Cl) (off : Nat) (c : Cluster) : Bool :=
  c.sbuf.any fun e => e.win && (e.words.drop e.done).any fun w => decide (w.1 = xchgAddr n off)

/-- A cluster reads its own exchange word through one of its ports (R190): the free word that a collision delivers, without
an ECC check, or none. It collides with a write that came just before, or, for a stream, whose results no later command
could take back, with the one that waits for port A. -/
def portRead (n : Cl) (off : Nat) (g : Agent) (s : State) : Option Word × State :=
  let stream := match g with | .stream _ => true | _ => false
  let waits := stream && windowWaits n off (s.cl n)
  let after := waits && Config.freeBit s.fresh
  let p := xchgNote n off (viaA g) false (if stream then some after else none) (if waits then drawn s else s)
  let before := !p.1.isEmpty && Config.freeBit p.2.fresh
  let t := if p.1.isEmpty then p.2 else drawn p.2
  let u := if before then xchgCollide n off (viaA g) t else t
  if before || after then (some (Config.freeWord u.fresh), drawn u) else (none, u)

/-- A cluster wrote its own exchange word through one of its ports (R190, R191): a read that meets it delivers a free word,
and of two written values one remains; `old` is what the word held before. -/
def portWrite (n : Cl) (off : Nat) (portA : Bool) (old : Word) (s : State) : State :=
  let p := xchgNote n off portA true none s
  let sure := p.1.any fun e => e.met == some true
  let hit := p.1.filter fun e => e.met.isNone
  if !sure && (hit.isEmpty || Config.freeBit p.2.fresh) then (if hit.isEmpty then p.2 else drawn p.2)
  else
    let t := xchgCollide n off portA (drawn p.2)
    let u := (drawn t).modCl n (spoilReads (hit.filter fun e => !e.wr) t.fresh)
    if hit.any (·.wr) && Config.freeBit u.fresh then memPut (xchgAddr n off) old (drawn u) else u

/-- The registers that a load delivers to (R190): they stand with the accesses it added to those of `s`, the state
before it. -/
def readTo (n : Cl) (regs : List RegName) (s : State) (c : Cluster) : Cluster :=
  let old := (s.cl n).xlast
  if c.xlast = old then c
  else
    let added := c.xlast.length - (old.filter fun e => decide ((s.ticks - e.at').toNat ≤ 1)).length
    { c with xlast := (c.xlast.take added).map (fun e => { e with regs := regs }) ++ c.xlast.drop added }

/-! ## An agent's access to one word -/

/-- A word's read once its owner is checked: `ok` where its cells deliver it. -/
def cellRead (a : Nat) (s : State) (p : Bool × State) : Acc × State := (if p.1 then .ok (memGet a s) else .ue, p.2)

/-- Read one memory word of the cluster region or the deep store as an agent (R29, R177, R187, R190, R193, R197, R202). Hub
registers and host memory are other targets (`error`). -/
def agentRead (g : Agent) (a : Nat) (s : State) : Acc × State :=
  match regionOf a with
  | .ls n off =>
    (match ownCheck n off g s with
     | some .refused => (.refused, refuse n (plotOf off).1 (plotOf off).2 g false s)
     | some r => (r, s)
     | none => cellRead a s (lsRead n off (s.modCl n (ask (asker g)))))
  | .xchg n off =>
    (match ownCheck n (0x40000 + off) g s with
     | some .refused => (.refused, refuse n (plotOf (0x40000 + off)).1 (plotOf (0x40000 + off)).2 g false s)
     | some r => (r, s)
     | none =>
       let p := if ownAgent n g then portRead n off g (if viaA g then s else s.modCl n (ask (asker g))) else (none, s)
       match p.1 with
       | some w => (.ok w, p.2)
       | none => cellRead a s (xchgRead n off p.2))
  | .istore n off => if isolated n s && !ownAgent n g then (.refused, s) else cellRead a s (istoreRead n off s)
  | .deep off => if deepBad off s then (.ue, deepUe (lineOf off) s) else (.ok (memGet a s), s)
  | .unmapped => (.unmapped, s)
  | _ => (.error, s)

/-- Write one memory word of the cluster region or the deep store as an agent; `wrote` follows for the words of one access. -/
def agentWrite (g : Agent) (a : Nat) (v : Word) (s : State) : Acc × State :=
  match regionOf a with
  | .ls n off =>
    (match ownCheck n off g s with
     | some .refused => (.refused, refuse n (plotOf off).1 (plotOf off).2 g true s)
     | some r => (r, s)
     | none => (.ok 0, memPut a v (s.modCl n (ask (asker g)))))
  | .xchg n off =>
    (match ownCheck n (0x40000 + off) g s with
     | some .refused => (.refused, refuse n (plotOf (0x40000 + off)).1 (plotOf (0x40000 + off)).2 g true s)
     | some r => (r, s)
     | none =>
       let t := memPut a v (s.modCl n fun c => { c with xbad := wordGood off c.xbad })
       (.ok 0, if ownAgent n g then
           portWrite n off (viaA g) (memGet a s) (if viaA g then t else t.modCl n (ask (asker g)))
         else t))
  | .istore n off =>
    if isolated n s && !ownAgent n g then (.refused, s)
    else (.ok 0, memPut a v (s.modCl n fun c => { c with ibad := wordGood off c.ibad }))
  | .deep _ => (.ok 0, memPut a v s)
  | .unmapped => (.unmapped, s)
  | _ => (.error, s)

/-- One access wrote the words at these addresses: what that does to the errors of the local-store rows and the deep-store
lines among them (R166, R193, R202). -/
def wrote (as : List Nat) (s : State) : State :=
  (as.map (· / 4)).eraseDups.foldl (fun t q =>
    let all (k : Nat) : Bool := (List.range k).all fun i => as.contains (4 * q + i)
    match regionOf (4 * q) with
    | .ls n off => rowWritten n off (all 4) t
    | .deep off => if off % 32 = 0 ∧ all 32 then clearLine (lineOf off) t else t
    | _ => t) s

/-- A write of a single word, an access of its own. -/
def writeOne (g : Agent) (a : Nat) (v : Word) (s : State) : Acc × State :=
  match agentWrite g a v s with
  | (.ok w, t) => (.ok w, wrote [a] t)
  | r => r

/-! ## Fills and pairs (R427, R436, R437) -/

/-- The frame period of a cluster in grains (R43). -/
def clFp (n : Cl) (s : State) : Nat := hubFld 0x1010 19 0 s * 256 * 2 ^ hubFld (0x1100 + n.val) 13 10 s

/-- The frame tick of VCn that ends the frame period in which an instant lies, and so consumes the fill of that period (R43,
R304, R323); none before the first one's. The instant comes in grains times `rate`. -/
def fillTick (n : Cl) (x : Int) (rate : Nat) (s : State) : Option Nat :=
  let p := hubFld 0x1010 19 0 s * 256
  let o := (hubTime 0x1011 s).toNat
  let d : Int := (2 ^ hubFld (0x1100 + n.val) 13 10 s : Nat)
  let k := (x - (o * rate : Nat)) / ((p * rate : Nat) : Int)
  let next := k - (k - (hubFld (0x1100 + n.val) 9 0 s : Int)) % d + d
  if next < 0 then none else some ((o + next * p).toNat)

/-- Whether the fill that a tick of VCn would consume is written (R304, log entry 42): not where a pending START takes effect
after that tick. -/
def fillLive (t : Nat) (s : State) : Bool :=
  gridRun s || (match s.tb.action with
    | some ⟨.start, a, late⟩ => late.isSome || decide (a.toNat ≤ t)
    | _ => true)

/-- Whether the plot of the fill that tick `t` of VCn consumes has passed to the I/O side, at the tick before (R304). Before the
START tick no tick passes it: the I/O side fills the plot that it owns. -/
def fillPassed (n : Cl) (t : Nat) (s : State) : Bool :=
  decide (t ≤ (devTime s).toNat + clFp n s) && (!gridRun s || (s.cl n).tickAt.isNone)

/-- The partner of a cluster that is the primary of a pair (R437). -/
def pairSecond (n : Cl) (s : State) : Option Cl :=
  let o (k : Cl) : Nat := 0x50101 + 8 * k.val
  let m := clOf (hubFld (o n) 7 0 s)
  if hubBit (o n) 22 s && hubBit (o n) 21 s && hubBit (o m) 22 s && decide (hubFld (o m) 7 0 s = n.val) && decide (m ≠ n)
  then some m else none

/-- A fill word of a protected cluster goes to its journal (R427, R436). -/
def journalFill (n : Cl) (xo : Nat) (v : Word) (s : State) : State :=
  if hubBit (0x50101 + 8 * n.val) 23 s then
    s.modCl n fun c => { c with jFills := c.jFills.filter (fun p => p.1 ≠ xo) ++ [(xo, v)] }
  else s

/-- An I/O block delivers a fill word to the exchange RAM of one cluster, or the store refuses it; a failed cluster's goes to
the journal only (R427). -/
def fillInto (n : Cl) (xo : Nat) (v : Word) (s : State) : Bool × State :=
  if isolated n s then (true, journalFill n xo v s)
  else match agentWrite .io (xchgAddr n xo) v s with
    | (.ok _, t) => (true, journalFill n xo v t)
    | (_, t) => (false, t)

/-- The clusters that a fill word of VCn goes to: itself, and the secondary of a pair of which it is the primary (R437). -/
def fillHomes (n : Cl) (s : State) : List Cl := n :: (pairSecond n s).toList

/-- Whether a fill word waits for port A in one of the stores it goes to (R181, R186). -/
def fillHeld (n : Cl) (xo : Nat) (s : State) : Bool :=
  (fillHomes n s).any fun m => ownCheck m (0x40000 + xo) .io s == some .held

/-- An I/O block delivers a fill word to VCn, and to its pair's secondary: how many of the stores refuse it (R53, R187), or none
while it waits. -/
def fillDeliver (n : Cl) (xo : Nat) (v : Word) (s : State) : Option Nat × State :=
  if fillHeld n xo s then (none, s)
  else
    let r := (fillHomes n s).foldl (fun (p : Nat × State) m =>
      let q := fillInto m xo v p.2
      (if q.1 then p.1 else p.1 + 1, q.2)) (0, s)
    (some r.1, r.2)

/-- Where an output reader takes the words of a plot from at a commit point (R437, R516): nowhere (held), or from
a cluster, and the pair's other member to compare it with where both met their deadlines. -/
abbrev FillSrc := Nat → Option (Cl × Option Cl)

/-! ## Reads by the I/O blocks (R187, R197, R311) -/

/-- Whether an I/O block may read an exchange plot of a cluster at a commit point; a refusal is recorded (R187). DEDUCED (log
entry 75): a plot that passes to the I/O side at this tick is read as it stands now, since no one else may write it until the
acknowledgment of R186. -/
def plotRead (m : Cl) (plot ofs : Nat) (s : State) : Bool × State :=
  if ownerAdmits m (s.cl m) (16 + plot) .io then (true, s) else (false, refuse m (16 + plot) ofs .io false s)

/-- The words that an I/O block reads through port A; none for a word that is uncorrectable. -/
def ioWords (n : Cl) (xo : Nat) : Nat → State → List (Option Word) × State
  | 0, s => ([], s)
  | k + 1, s =>
    let p := xchgRead n xo s
    let q := ioWords n (xo + 1) k p.2
    ((if p.1 then some (memGet (xchgAddr n xo) s) else none) :: q.1, q.2)

/-- The words of a pair's two members from word `ofs` of a plot on are compared (R437); a refused or uncorrectable read of the
other member's counts through `cnt` (R187, R197). -/
def pairCompare (n : Cl) (other : Option Cl) (plot ofs k : Nat) (cnt : State → State) (s : State) : State :=
  match other with
  | none => s
  | some m =>
    let xo := plot * 0x1000 + ofs
    let p := plotRead m plot ofs s
    if !p.1 then cnt p.2
    else
      let r := ioWords m xo k p.2
      if r.1.any Option.isNone then cnt r.2
      else if r.1 = (List.range k).map (fun i => some (memGet (xchgAddr n (xo + i)) s)) then r.2
      else fire 0xC83 (odCount 0xC0B1 0 r.2)

/-! ## Scrubbing and repair -/

/-- What a patrol read of one row finds in one bank (R192–R196). -/
def patrolFind (n : Cl) (row : Nat) (s : State) (e : BankErr) : State :=
  if e.uncorrectable then
    let t := s.modCl n (setBadRow e.bank row fun b => { b with double := true })
    lsUncorrectable n ⟨e.bank, row, false, true, [], false, 0⟩ t
  else if (s.cl n).bad.any (fun b => b.bank == e.bank.val && b.row == row && b.ue) then s
  else lsCorrected n e.bank row e.bit s

/-- LS_PATROL_SCRUB (R192–R196): one row of each bank is read; the errors it finds are handled, and those of the rows
that a read found uncorrectable before. -/
def execLsPatrolScrub (n : Cl) (row : Fin 512) (errs : List BankErr) (s : State) : Out := onIsland n s <|
  let old := (s.cl n).bad.filter fun b => b.row == row.val && b.ue && !errs.any (fun e => e.uncorrectable && e.bank.val == b.bank)
  .next (errs.foldl (patrolFind n row) (old.foldl (fun t b => lsUncorrectable n b t) s))

/-- A finished bank copy takes over: the logical bank maps to the spare (R196). Rows that were uncorrectable are copied as
poisoned; of the others nothing is known of the new rows. -/
def bankRemap (bank spare : Nat) (c : Cluster) : Cluster :=
  let c1 := syncRowRep { c with
    copies := c.copies.filter (fun p => !(p.1 == bank))
    corrected := c.corrected.filter (fun e => !(e.1 == bank))
    bad := (c.bad.filter (fun b => b.ue || !(b.bank == bank))).map fun b =>
      if b.bank == bank then ⟨bank, b.row, true, false, [], false, 0⟩ else b }
  if spare = 0 then ioSetBit 0x3A1 23 true (ioSetFld 0x3A1 22 16 bank c1)
  else ioSetBit 0x3A1 15 true (ioSetFld 0x3A1 14 8 bank c1)

/-- What a tick edge remaps, and a stop of the grid (R195, R196): repaired rows, and banks whose copy is complete. -/
def edgeRemap (c : Cluster) : Cluster :=
  (c.copies.filter (fun p => decide (2 ≤ p.2))).foldl (fun d p => bankRemap p.1 (p.2 - 2) d) (rowRepair c)

/-- BANK_SPARE_COPY_COMPLETE (R196): the copy of a bank is complete; the bank maps to the spare at the
cluster's next frame tick edge, or at once while the grid is stopped. A copy that waits for the edge is
kept with its spare's number plus 2. -/
def execBankSpareCopyComplete (n : Cl) (bank : Fin 128) (s : State) : Out := awake s <|
  match (s.cl n).copies.find? (fun p => p.1 == bank.val && decide (p.2 < 2)) with
  | none => .next s
  | some p =>
    if gridRun s then
      .next (s.modCl n fun c => { c with copies := c.copies.map fun q => if q = p then (q.1, q.2 + 2) else q })
    else .next (s.modCl n (bankRemap bank p.2))

/-- HBM_SCRUB (R202, R203): a scrub read of one line of a stack. A poisoned line is uncorrectable whatever its cells show. -/
def execHbmScrub (st : Fin 4) (line : Nat) (err : LineErr) (s : State) : Out := awake s <|
  let l := line % 2 ^ 28 * 4 + st.val
  if lineBad l s then .next (deepUe l s)
  else match err with
  | .none => .next s
  | .corrected =>
    let seen := s.hbm.corrected.filter (fun e => decide ((s.ticks - e.2).toNat < 3600 * 10 ^ 9) && !(e.1 == l)) ++ [(l, s.ticks)]
    let rows := (seen.filter (fun e => lineStack e.1 == st.val && linePc e.1 == linePc l)).length
    let t := odCount 0xC035 0 { s with hbm := { s.hbm with corrected := seen } }
    .next (if 64 ≤ rows then startPcCopy st (linePc l) t else t)
  | .uncorrectable => .next (deepUe l { s with hbm := { s.hbm with poisoned := s.hbm.poisoned ++ [l] } })

/-- PSEUDO_CHANNEL_COPY_COMPLETE (R203): the spare pseudo-channel takes over. -/
def execPseudoChannelCopyComplete (st : Fin 4) (s : State) : Out := awake s <|
  match smAt none s.hbm.copying st.val with
  | none => .next s
  | some pc => .next { s with hbm := { s.hbm with
      copying := smPut none s.hbm.copying st.val none,
      spareUsed := smPut none s.hbm.spareUsed st.val (some pc) } }

end Sys2Proof.Machine
end

