-- ==== Sys2Proof/Machine/Links.lean ====
section
/-!
DEFINITION. Machine/Links.lean: the converter links and SYSREF (spec/10_converter_links.md R297–R316). A
period of a link is kept as a fraction with its lane rate R as the denominator, since neither the frame
period nor the extended-multiblock period need be a whole number of grains.
The model's own choices and readings (DEDUCED, DESIGN CHOICE, PRESUMED) are log entries 42 to 44 and 69.
-/
namespace Sys2Proof.Machine

/-! ## Registers of a link -/

/-- The base offset of link `l`. -/
def lkReg (l : Nat) : Nat := 0x8100 + 0x80 * l

/-- Link `l` behind its registers. -/
def lkGet (l : Nat) (s : State) : Link := smAt Link.reset s.links l

/-- Put link `l`. -/
def lkPut (l : Nat) (k : Link) (s : State) : State := { s with links := smPut Link.reset s.links l k }

/-- JL_LINKl_CTL.EN. -/
def lkEn (l : Nat) (s : State) : Bool := hubBit (lkReg l) 23 s
/-- JL_LINKl_CTL.DIR: true for a transmit link (R298). -/
def lkTx (l : Nat) (s : State) : Bool := hubBit (lkReg l) 22 s
/-- JL_LINKl_CTL.FMT. -/
def lkFmt (l : Nat) (s : State) : Nat := hubFld (lkReg l) 21 20 s
/-- JL_LINKl_STAT.UP. -/
def lkUp (l : Nat) (s : State) : Bool := hubBit (lkReg l + 0xB) 23 s
/-- LB, the first lane. -/
def lkLb (l : Nat) (s : State) : Nat := hubFld (lkReg l + 1) 23 18 s
/-- L, the lanes of the link. -/
def lkL (l : Nat) (s : State) : Nat := 2 ^ hubFld (lkReg l + 1) 17 16 s
/-- M, the converters of the link. -/
def lkM (l : Nat) (s : State) : Nat := hubFld (lkReg l + 1) 15 11 s + 1
/-- S, the samples per converter per frame. -/
def lkS (l : Nat) (s : State) : Nat := hubFld (lkReg l + 1) 10 7 s + 1
/-- N, the sample bits. -/
def lkN (l : Nat) (s : State) : Nat := hubFld (lkReg l + 2) 23 19 s
/-- E, the multiblocks of an extended multiblock. -/
def lkE (l : Nat) (s : State) : Nat := hubFld (lkReg l + 2) 15 11 s + 1
/-- F, the octets per frame per lane (R297). -/
def lkF (l : Nat) (s : State) : Nat := 3 * lkM l s * lkS l s / lkL l s
/-- The lane rate in Mb/s. -/
def lkRate (l : Nat) (s : State) : Nat := hubFld (lkReg l + 3) 15 0 s
/-- DEST, the logical cluster. -/
def lkDest (l : Nat) (s : State) : Cl := clOf (hubFld (lkReg l + 4) 23 16 s)
/-- OFS, the first word of the fill. -/
def lkOfs (l : Nat) (s : State) : Nat := hubFld (lkReg l + 5) 23 12 s
/-- CAP, the samples per converter at most. -/
def lkCap (l : Nat) (s : State) : Nat := hubFld (lkReg l + 5) 11 0 s
/-- CUT in ns. -/
def lkCut (l : Nat) (s : State) : Nat := (hubGet (lkReg l + 6) s).toNat

/-- The frame period Tf times the lane rate, in grains (R303): 8F × 66/64 bits at `rate` Mb/s. -/
def lkTf (l : Nat) (s : State) : Nat := 2112000 * lkF l s

/-- The extended-multiblock period times the lane rate, in grains (R301): E × 256 octets. -/
def lkTe (l : Nat) (s : State) : Nat := 2112000 * 256 * lkE l s

/-- Whether the half of a link's lanes is fenced (R441). -/
def lkFenced (l : Nat) (s : State) : Bool := hubBit 0x50021 (l / 8) s

/-- The exchange plot of a link in the phase that its destination is in (R304, R308); while the grid is stopped, the
plot of phase 0, which the START sets before the fill is consumed (R182, log entry 42). -/
def lkPlot (l : Nat) (s : State) : Nat :=
  if !gridRun s ∨ phaseOf (s.cl (lkDest l s)) % 2 = 0 then hubFld (lkReg l + 4) 15 14 s else hubFld (lkReg l + 4) 13 12 s

/-- Set a bit of JL_LINKl_ERR. -/
def lkErr (l i : Nat) (s : State) : State := hubSetBit (lkReg l + 0xC) i true s

/-- Count in counter `i` of a link: 0 CRC, 1 REFUSE, 2 SAT, 3 OVF, 4 LOSS, with its dictionary sum (R316). -/
def lkCount (l i k : Nat) (s : State) : State :=
  let o := lkReg l + 0x10 + 2 * i
  let t := hubPutPair o (hubPair o s + BitVec.ofNat 48 k) s
  match i with
  | 0 => odAdd 0xC050 0 k t
  | 1 => odAdd 0xC052 0 k t
  | 2 => odAdd 0xC053 0 k t
  | 4 => odAdd 0xC051 0 k t
  | _ => t

/-! ## Enabling (R297–R301, R304, R306, R308) -/

/-- Whether another enabled link of the same direction uses a lane of link `l` (R298). -/
def lkShares (l : Nat) (s : State) : Bool :=
  (List.range 16).any fun j =>
    decide (j ≠ l) && lkEn j s && lkTx j s == lkTx l s &&
      decide (lkLb j s < lkLb l s + lkL l s) && decide (lkLb l s < lkLb j s + lkL j s)

/-- The parameters and lanes that R297, R298 and R307 support. -/
def lkParamsOk (l : Nat) (s : State) : Bool :=
  let cs := hubFld (lkReg l + 2) 18 17 s
  let whole := decide (3 * lkM l s * lkS l s % lkL l s = 0)
  let uneven := decide (lkM l s * lkS l s % lkL l s ≠ 0)
  decide (12 ≤ lkN l s) && decide (lkN l s + cs ≤ 24) && whole && decide (1 ≤ lkF l s) && decide (lkF l s ≤ 256)
    && decide (lkE l s * 256 % lkF l s = 0) && hubBit (lkReg l + 2) 16 s == uneven
    && decide (8000 ≤ lkRate l s) && decide (lkRate l s ≤ 32500) && decide (lkFmt l s ≠ 3)
    && decide (lkLb l s % lkL l s = 0) && decide (lkLb l s / 32 = l / 8)
    && decide ((lkLb l s + lkL l s - 1) / 32 = l / 8) && !lkShares l s

/-- The checks of a write of EN = 1 (R299). -/
def lkEnableOk (l : Nat) (s : State) : Bool :=
  let per := (hubGet 0x8001 s).toNat
  let rbd := (hubGet (lkReg l + 8) s).toNat
  let early := (lkCut l s - 85) * 256 * lkRate l s
  lkParamsOk l s
    && decide (per ≠ 0) && decide (per * 256 * lkRate l s % lkTe l s = 0)
    && decide (lkOfs l s + 3 + lkCap l s * lkM l s ≤ 4095)
    && (if lkTx l s then decide (85 ≤ (hubGet (lkReg l + 7) s).toNat)
        else decide (115 ≤ lkCut l s) && decide (rbd * 8 * 256 * lkRate l s < lkTe l s)
          && decide ((early + lkTf l s - 1) / lkTf l s * lkM l s * lkS l s ≤ 1024))

/-- JL_LANEk_STAT.BUFDLY of a lane (R303): the extended multiblock, which reaches its elastic buffer a delay of its path after
the boundary, is released RBD × 8 ns after a boundary. DESIGN CHOICE (log entry 43): a delay above 255 ns shows as 255. -/
def bufDelay (l lane : Nat) (s : State) : Nat :=
  let te := max 1 (lkTe l s / (256 * max 1 (lkRate l s)))
  min 255 (((hubGet (lkReg l + 8) s).toNat * 8 + te - Config.laneDelay lane % te) % te)

/-- The lanes of a link show their locks, and locked lanes the delays of their elastic buffers. -/
def lkLanes (l : Nat) (locked : Bool) (s : State) : State :=
  if lkTx l s then s
  else (List.range (lkL l s)).foldl (fun t i =>
    let k := (lkLb l s + i) % 64
    hubPut (0x8080 + k) (if locked then BitVec.ofNat 24 (0xC00000 + bufDelay l k s) else 0) t) s

/-- The ingress of a link in ns (R58, R303): 85 ns, and what the delay of its slowest lane exceeds 20 ns by. -/
def lkIngressNs (l : Nat) (s : State) : Nat :=
  85 + ((List.range (lkL l s)).map fun i => hubFld (0x8080 + (lkLb l s + i) % 64) 7 0 s - 20).foldl max 0

/-- DEGR's LINK reason holds while a receive link has been down for 1 ms (R315, R439). -/
def lkDegr (s : State) : State :=
  hubSetBit 0x50001 3 ((List.range 16).any fun j => (lkGet j s).long) s

/-- A write of EN = 1 to a disabled link (R299): checked, then the link starts its synchronisation. -/
def linkEnable (l : Nat) (s : State) : State :=
  if lkEn l s ∨ mode s ≤ 1 ∨ lkFenced l s then s
  else if !lkEnableOk l s then lkErr l 3 s
  else hubSetFld (lkReg l + 2) 7 0 (lkF l s - 1) (hubSetBit (lkReg l) 23 true (lkPut l Link.reset s))

/-- A write of EN = 0 (R299). -/
def linkDisable (l : Nat) (s : State) : State :=
  if !lkEn l s ∨ mode s ≤ 1 then s
  else lkDegr (hubSetBit (lkReg l) 23 false (hubSetBit (lkReg l + 0xB) 23 false (lkPut l Link.reset (lkLanes l false s))))

/-- LINK_ENABLE (R299). -/
def execLinkEnable (l : Link16) (s : State) : Out := awake s <| .next (linkEnable l.val s)

/-- LINK_DISABLE (R299). -/
def execLinkDisable (l : Link16) (s : State) : Out := awake s <| .next (linkDisable l.val s)

/-! ## Boundaries, alignment and loss -/

/-- Whether a multiple of a period (times the lane rate) falls into the current base tick. -/
def inTick (period rate : Nat) (s : State) : Bool :=
  let t := (devTime s).toNat
  let k := (t * rate + period - 1) / period
  decide (k * period < (t + 256) * rate)

/-- A link becomes UP: it carries data from this boundary on. -/
def lkRise (l : Nat) (s : State) : State :=
  let t := lkLanes l true (hubSetBit (lkReg l + 0xB) 23 true s)
  lkDegr (lkPut l { lkGet l t with downAt := none, long := false } t)

/-- LINK_UP (R299, R301): the first extended-multiblock boundary with every lane locked, for a link that was not
UP since its enable. -/
def execLinkUp (l : Link16) (s : State) : Out := awake s <|
  if !lkEn l s ∨ lkUp l s ∨ lkFenced l s ∨ (lkGet l s).downAt.isSome ∨ !inTick (lkTe l s) (lkRate l s) s then .next s
  else .next (lkRise l s)

/-- LINK_RESUME (R313): a down link resumes at an extended-multiblock boundary and raises its link-up event. -/
def execLinkResume (l : Link16) (s : State) : Out := awake s <|
  if !lkEn l s ∨ lkUp l s ∨ lkFenced l s ∨ (lkGet l s).downAt.isNone ∨ !inTick (lkTe l s) (lkRate l s) s then .next s
  else .next (fire (0x810 + l.val) (lkRise l s))

/-- A receive link that was UP goes down (R312): counted, flagged, its event raised. -/
def linkDown (l : Nat) (s : State) : State :=
  if !lkEn l s ∨ lkTx l s ∨ !lkUp l s then s
  else
    let t := lkErr l 1 (hubSetBit (lkReg l + 0xB) 23 false (lkPut l { lkGet l s with downAt := some s.ticks } s))
    fire (0x800 + l) (lkCount l 4 1 t)

/-- LANE_LOCK_LOSS (R312): the lane's lock goes, and with it the receive link that uses the lane. -/
def execLaneLockLoss (lane : Fin 64) (kind : LockKind) (s : State) : Out := awake s <|
  let bit := match kind with | .block => 23 | .emb => 22
  let t := hubSetBit (0x8080 + lane.val) bit false s
  .next ((List.range 16).foldl (fun u l =>
    if lkEn l u && !lkTx l u && decide (lkLb l u ≤ lane.val) && decide (lane.val < lkLb l u + lkL l u)
    then linkDown l u else u) t)

/-- LINK_DOWN_TIMEOUT (R315): a receive link that stayed down for 1 ms sets the LINK degrade reason. -/
def execLinkDownTimeout (l : Link16) (s : State) : Out := awake s <|
  match (lkGet l s).downAt with
  | none => .next s
  | some t =>
    if (s.ticks - t).toNat < 10 ^ 6 then .next s
    else .next (lkDegr (lkPut l { lkGet l s with long := true } s))

/-! ## Sample words (R307, R309) -/

/-- x × scale + offset for an exact value in F48 form and F24 factors, in F48 with one rounding. -/
def lkLin48 (x : DWord) (scale offset : Word) : DWord :=
  let a := (fConv f24 f48 0 (scale.setWidth 48)).1
  let c := (fConv f24 f48 0 (offset.setWidth 48)).1
  (fFma f48 0 false c x a [c, x, a]).1

/-- The same in F24 with one rounding; a NaN is the default quiet NaN (R307). -/
def lkLin24 (x : DWord) (scale offset : Word) : Word :=
  let a := (fConv f24 f48 0 (scale.setWidth 48)).1
  let c := (fConv f24 f48 0 (offset.setWidth 48)).1
  let r := lkLin48 x scale offset
  (if isNan f48 r then f24.qnan
   else if isInf f48 r then f24.inf (signOf f48 r)
   else (roundDy f24 0 ((valOf f48 c).add ((valOf f48 x).mul (valOf f48 a))) (signOf f48 r)).1).setWidth 24

/-- SCALE and OFFSET of converter `m`. -/
def lkScale (l m : Nat) (s : State) : Word × Word := (hubGet (lkReg l + 0x40 + 2 * m) s, hubGet (lkReg l + 0x41 + 2 * m) s)

/-- The mask of the N sample bits. -/
def lkMask (n : Nat) : Word := BitVec.ofNat 24 (2 ^ 24 - 2 ^ (24 - n))

/-- The word written for a received container of converter `m` (R307). -/
def ingressOf (l m : Nat) (raw : Word) (s : State) : Word :=
  let i := raw &&& lkMask (lkN l s)
  let k := lkScale l m s
  match lkFmt l s with
  | 0 => raw
  | 2 => lkLin24 (intToF f48 0 23 i.toInt).1 k.1 k.2
  | _ => i

/-- The word that a sample value of 0 gives (R312). -/
def ingressZero (l m : Nat) (s : State) : Word := if lkFmt l s = 2 then (lkScale l m s).2 else 0

/-- A value rounded and saturated to the N-bit range at the top of a word, and whether it saturated
(R309). -/
def egressInt (n : Nat) (v : DWord) : Word × Bool :=
  let lo : Int := -2 ^ (n - 1)
  let hi : Int := 2 ^ (n - 1) - 1
  let put (k : Int) : Word := BitVec.ofInt 24 (k * 2 ^ (24 - n))
  if isNan f48 v then (0, false)
  else if isInf f48 v then (put (if signOf f48 v then lo else hi), true)
  else
    let d := valOf f48 v
    let k := (roundInt 0 ⟨d.m, d.e + (n - 1 : Nat)⟩).1
    if k < lo then (put lo, true) else if hi < k then (put hi, true) else (put k, false)

/-- The word that a transmit link sends for a word of the plot, and whether it saturated (R309). -/
def egressOf (l m : Nat) (x : Word) (s : State) : Word × Bool :=
  let k := lkScale l m s
  match lkFmt l s with
  | 0 => (x, false)
  | 2 => egressInt (lkN l s) (lkLin48 (fConv f24 f48 0 (x.setWidth 48)).1 k.1 k.2)
  | _ => (x &&& lkMask (lkN l s), false)

/-! ## Ingress (R303–R306, R312–R315) -/

/-- The receive instant of converter frame `q` times the lane rate, in grains (R303). -/
def rxInstant (l q : Nat) (s : State) : Int :=
  (q * lkTf l s : Nat) + (hubGet (lkReg l + 9) s).toInt * (lkRate l s : Int)

/-- The converter frame whose receive instant falls into the current base tick, at or after `from'`. -/
def rxFrame (l from' : Nat) (s : State) : Option Nat :=
  let t : Int := (devTime s).toNat * lkRate l s
  let off : Int := (hubGet (lkReg l + 9) s).toInt * (lkRate l s : Int)
  let tf : Int := lkTf l s
  let q := max from' ((t - off + tf - 1) / tf).toNat
  if rxInstant l q s < t + 256 * (lkRate l s : Int) then some q else none

/-- The first converter frame that has not been received in the current base tick: one base tick may hold several. -/
def rxFrom (l : Nat) (s : State) : Nat :=
  match (lkGet l s).rxAt with
  | some (t, q) => if t = s.ticks then q + 1 else 0
  | none => 0

/-- The tick that consumes the fill of a receive instant, in grains times the lane rate (R304). -/
def rxTick (l : Nat) (inst : Int) (s : State) : Option Nat :=
  fillTick (lkDest l s) (inst + ((lkCut l s * 256 * lkRate l s : Nat) : Int)) (lkRate l s) s

/-- The start of the window of the fill that a tick consumes (R304). -/
def windowStart (l t : Nat) (s : State) : Time72 :=
  BitVec.ofInt 72 ((t : Int) - ((clFp (lkDest l s) s + lkCut l s * 256 : Nat) : Int))

/-- Whether another receive link fills this word of the plot too (R306). -/
def fillShared (l plot off : Nat) (s : State) : Bool :=
  (List.range 16).any fun k => decide (k ≠ l) && lkEn k s && !lkTx k s && decide (lkDest k s = lkDest l s)
    && decide (lkPlot k s = plot) && decide (lkOfs k s ≤ off) && decide (off < lkOfs k s + 4 + lkCap k s * lkM k s)

/-- Whether another link has written this word of the same fill: then one of the two values remains, which one is free
(R306). -/
def fillClash (l u xo : Nat) (s : State) : Bool :=
  match smAt none (s.cl (lkDest l s)).fillBy xo with
  | some (k, w) => decide (k ≠ l) && decide (w = u)
  | none => false

/-- The link and the fill that wrote a shared word last. -/
def fillMark (l u xo : Nat) (s : State) : State :=
  s.modCl (lkDest l s) fun c => { c with fillBy := smPut none c.fillBy xo (some (l, u)) }

/-- Write a word of the fill of tick `u` through port A (R306); a word that the I/O side may not write is discarded
and counted (R53, R315). True when the word waits for port A (R186). -/
def fillWrite (l u plot off : Nat) (v : Word) (s : State) : Bool × State :=
  let xo := plot * 0x1000 + off
  let clash := fillClash l u xo s
  let w := if clash && Config.freeBit s.fresh then memGet (xchgAddr (lkDest l s) xo) s else v
  match fillDeliver (lkDest l s) xo w (if clash then drawn s else s) with
  | (none, t) => (true, t)
  | (some k, t) =>
    let v := if fillShared l plot off s then fillMark l u xo t else t
    (false, if k = 0 then v else lkCount l 1 k v)

/-- Hold a word of a fill until its plot has passed; a header word replaces the one held before. -/
def fillHold (l : Nat) (w : IngressWord) (s : State) : State :=
  let k := lkGet l s
  lkPut l { k with buf := k.buf.filter (fun (x : IngressWord) => !(x.tick == w.tick && x.off == w.off)) ++ [w] } s

/-- A word of the fill of tick `u`: written where its plot has passed, in place of one held before, else held. -/
def fillPut (l u off : Nat) (v : Word) (counted : Bool) (s : State) : State :=
  if fillPassed (lkDest l s) u s then
    match fillWrite l u (lkPlot l s) off v s with
    | (true, t) => fillHold l ⟨u, some (lkPlot l s), off, v, counted⟩ t
    | (false, t) => lkPut l { lkGet l t with buf := (lkGet l t).buf.filter fun (x : IngressWord) => !(x.tick == u && x.off == off) } t
  else fillHold l ⟨u, none, off, v, counted⟩ s

/-- Put the header words of a fill (R306). -/
def headerPut (l : Nat) (f : Fill) (s : State) : State :=
  let j := f.count * lkS l s
  let w : Word := BitVec.ofNat 24 (f.crc.toNat * 2 ^ 23 + f.subst.toNat * 2 ^ 22 + f.ovf.toNat * 2 ^ 21 + j % 2 ^ 13)
  let put (i : Nat) (v : Word) (t : State) : State := fillPut l f.tick (lkOfs l s + i) v false t
  put 3 (f.first.extractLsb' 48 24) (put 2 (f.first.extractLsb' 24 24) (put 1 (f.first.extractLsb' 0 24) (put 0 w s)))

/-- The header words of the fill in assembly (R306). -/
def fillHeader (l : Nat) (s : State) : State :=
  match (lkGet l s).fill with
  | none => s
  | some f => headerPut l f s

/-- Change the fill in assembly. -/
def fillUpd (l : Nat) (f : Fill) (s : State) : State := lkPut l { lkGet l s with fill := some f } s

/-- One sample word of a frame (R304, R306): discarded for a full ingress buffer, or put into its fill. A word that is ready, in
grains times the lane rate, before the plot passes takes a word of the buffer, beside those whose plots have not passed by
then. -/
def fillSample (l u : Nat) (ready : Int) (f : Fill) (off : Nat) (v : Word) (s : State) : State :=
  let passes (t : Nat) : Bool := decide ((((t - clFp (lkDest l s) s : Int)) * (lkRate l s : Int)) ≤ ready)
  let used := ((lkGet l s).buf.filter (fun (x : IngressWord) => x.counted && !passes x.tick)).length
  let held := !passes u && !fillPassed (lkDest l s) u s
  if held && decide (1024 ≤ used) then fillUpd l { f with ovf := true } (lkCount l 3 1 s)
  else fillPut l u off v held s

/-- A frame's words for its fill, sample by sample (R306). -/
def fillFrame (l u : Nat) (ready : Int) (f : Fill) (words : List Word) (s : State) : State :=
  let m := lkM l s
  let base := lkOfs l s + 4 + f.count * lkS l s * m
  ((List.range (lkS l s)).flatMap fun sj => (List.range m).map fun c => (sj * m + c, c * lkS l s + sj)).foldl
    (fun t (p : Nat × Nat) => fillSample l u ready (((lkGet l t).fill).getD f) (base + p.1) (words.getD p.2 0) t) s

/-- The frame's words as they are written: the converted samples of an UP link, which become the last good
ones, or the substitutes of a link that is not UP (R307, R312). -/
def frameWords (l : Nat) (data : List Word) (s : State) : List Word × State :=
  let k := lkGet l s
  let idx := (List.range (lkM l s)).flatMap fun c => (List.range (lkS l s)).map fun j => (c, j)
  if lkUp l s then
    let ws := idx.map fun (p : Nat × Nat) => ingressOf l p.1 (data.getD (p.1 * lkS l s + p.2) 0) s
    let good := (List.range (lkM l s)).foldl (fun g c =>
      smPut none g c (some (ws.getD (c * lkS l s + lkS l s - 1) 0))) k.lastGood
    (ws, lkPut l { k with lastGood := good } s)
  else (idx.map fun (p : Nat × Nat) => (smAt none k.lastGood p.1).getD (ingressZero l p.1 s), s)

/-- A CRC mismatch counts once for its multiblock (R314). -/
def crcCount (l q : Nat) (s : State) : State :=
  let mb := q * lkF l s / 256
  if (lkGet l s).crcMb = some mb then s
  else lkErr l 0 (lkCount l 0 1 (lkPut l { lkGet l s with crcMb := some mb } s))

/-- CONVERTER_FRAME_RECEIVE (R303–R307, R312–R314): one converter frame, M × S containers ordered converter by
converter, in the base tick of its receive instant. -/
def execConverterFrameReceive (l : Link16) (data : List Word) (crcOk : Bool) (s : State) : Out := awake s <|
  if !lkEn l s ∨ lkTx l s ∨ lkFenced l s ∨ data.length ≠ lkM l s * lkS l s then .next s
  else match rxFrame l (rxFrom l s) s with
  | none => .next s
  | some q =>
    let bad := !crcOk && lkUp l s
    let s1 := lkPut l { lkGet l s with rxAt := some (s.ticks, q) } s
    let s2 := if bad then crcCount l q s1 else s1
    let (ws, s3) := frameWords l data s2
    let inst := rxInstant l q s3
    match rxTick l inst s3 with
    | none => .next s3
    | some u =>
      if !fillLive u s3 then .next s3
      else
        let grain := inst / (lkRate l s3 : Int)
        let whole := decide (inst % (lkRate l s3 : Int) = 0)
        let stamp : Time72 := BitVec.ofInt 72 (if whole || !Config.freeBit s3.fresh then grain else grain + 1)
        let s4 := if whole then s3 else drawn s3
        let old : Fill := match (lkGet l s4).fill with
          | some f => if f.tick ≠ u then ⟨u, stamp, 0, false, false, false⟩ else if f.count = 0 then { f with first := stamp } else f
          | none => ⟨u, stamp, 0, false, false, false⟩
        let f : Fill := { old with crc := old.crc || bad, subst := old.subst || !lkUp l s4 }
        if lkCap l s4 < (f.count + 1) * lkS l s4 then
          let first := if f.count = 0 then windowStart l u s4 else f.first
          .next (fillHeader l (lkCount l 3 (lkM l s4 * lkS l s4) (fillUpd l { f with ovf := true, first := first } s4)))
        else
          let s5 := fillFrame l u (inst + ((lkIngressNs l s4 * 256 * lkRate l s4 : Nat) : Int)) f ws (fillUpd l f s4)
          let g := ((lkGet l s5).fill).getD f
          .next (fillHeader l (fillUpd l { g with count := g.count + 1 } s5))

/-- Words held whose plot has passed are written to it (R304). -/
def ingressFlush (l : Nat) (s : State) : State :=
  let k := lkGet l s
  let due (w : IngressWord) : Bool := w.plot.isSome || fillPassed (lkDest l s) w.tick s
  (k.buf.filter due).foldl (fun t (w : IngressWord) =>
    let plot := w.plot.getD (lkPlot l t)
    match fillWrite l w.tick plot w.off w.val t with
    | (true, t') => fillHold l { w with plot := some plot } t'
    | (false, t') => t') (lkPut l { k with buf := k.buf.filter (fun w => !due w) } s)

/-- INGRESS_BUFFER_WRITE (R304, R186). -/
def execIngressBufferWrite (l : Link16) (s : State) : Out := awake s <| .next (ingressFlush l s)

/-- Held words whose window's tick has come are bound to the plot of the phase that is on now; with `before`,
only those of an earlier tick. -/
def ingressBind (n : Cl) (before : Bool) (s : State) : State :=
  (List.range 16).foldl (fun t l =>
    if lkEn l t && !lkTx l t && decide (lkDest l t = n) then
      let k := lkGet l t
      let now := (devTime t).toNat + clFp n t
      lkPut l { k with buf := k.buf.map fun (w : IngressWord) =>
        if w.plot.isNone ∧ (w.tick < now ∨ (!before ∧ w.tick = now)) then { w with plot := some (lkPlot l t) } else w } t
    else t) s

/-- Whether a fill has a header already: frames of it have been received. -/
def fillBegun (l u : Nat) (s : State) : Bool :=
  ((lkGet l s).fill.any fun f => f.tick == u) ||
    (lkGet l s).buf.any fun (w : IngressWord) => w.tick == u && w.off == lkOfs l s

/-- A fill of a window without frames carries the window start and J = 0 (R306): its header is put when the
plot passes, and the window's frames replace it. In a hold the windows go on, and the fill overwrites the one before (R305). -/
def ingressOpen (n : Cl) (s : State) : State :=
  (List.range 16).foldl (fun t l =>
    if lkEn l t && !lkTx l t && decide (lkDest l t = n) && !lkFenced l t then
      let u := (devTime t).toNat + clFp n t
      if fillBegun l u t then t else headerPut l ⟨u, windowStart l u t, 0, false, false, false⟩ t
    else t) s

/-! ## Egress (R308–R311) -/

/-- The safe sample as it is sent (R311): an I24 in the N-bit field. -/
def lkSafe (l : Nat) (s : State) : Word :=
  BitVec.ofNat 24 ((hubGet (lkReg l + 0xA) s).toNat % 2 ^ lkN l s * 2 ^ (24 - lkN l s))

/-- The word that converter `m` released last: the safe sample where none was. -/
def lastReleased (l m : Nat) (s : State) : Word := (((lkGet l s).sending.getD m []).getLast?).getD (lkSafe l s)

/-- The samples per converter that the interval between a release and the next one needs (R308): those of the frames that
begin in it, at whole multiples of Tf (R310). -/
def lkNeed (l : Nat) (rel : Time72) (s : State) : Nat :=
  let upTo (x : Nat) : Nat := (x * lkRate l s + lkTf l s - 1) / lkTf l s
  (upTo (rel.toNat + clFp (lkDest l s) s) - upTo rel.toNat) * lkS l s

/-- The release instant of a fill that is read at the current tick (R50). -/
def lkRelease (l : Nat) (s : State) : Time72 := devTime s + nsGrains (hubGet (lkReg l + 7) s).toNat

/-- The words that a converter sends of its column of a fill, and how many saturated; nothing where one of them is
uncorrectable (R197, R309, R311). -/
def sendColumn (l m : Nat) (col : List (Option Word)) (s : State) : List Word × Nat :=
  if col.all (·.isSome) then
    let es := col.map fun w => egressOf l m (w.getD 0) s
    (es.map (·.1), (es.filter (·.2)).length)
  else ([], 0)

/-- The output fill of a transmit link at a commit point (R308, R309, R311, R315): for each converter its words.
A read of a plot that the I/O side does not own is refused, and a word that is uncorrectable counts as refused, once per
read (R197). -/
def readFill (l plot : Nat) (from' : Cl) (other : Option Cl) (s0 : State) : Option (List (List Word)) × State :=
  let xo := plot * 0x1000 + lkOfs l s0
  let cap := lkCap l s0 * lkM l s0
  let own := plotRead from' plot (lkOfs l s0) s0
  let s := if own.1 then pairCompare from' other plot (lkOfs l s0)
      (4 + min (fld 12 0 (memGet (xchgAddr from' xo) s0) * lkM l s0) cap) (lkCount l 1 1) own.2 else own.2
  if !own.1 then (none, lkCount l 1 1 s)
  else match ioWords from' xo 1 s with
  | ([some h], t) =>
    let j := fld 12 0 h
    let need := lkNeed l (lkRelease l s) s
    let k := min j (min (lkCap l s) need)
    let s1 := if lkCap l s < j ∨ need < j then lkCount l 3 1 t else t
    let ws := ioWords from' (xo + 4) (k * lkM l s) s1
    let cols := (List.range (lkM l s)).map fun m => sendColumn l m ((List.range k).map fun i => ws.1.getD (i * lkM l s + m) none) s
    let s2 := if ws.1.all (·.isSome) then ws.2 else lkCount l 1 1 ws.2
    let sat := (cols.map (·.2)).sum
    (some (cols.map (·.1)), if sat = 0 then s2 else lkCount l 2 sat s2)
  | (_, t) => (none, lkCount l 1 1 t)

/-- A commit point of VCn at frame tick t (R50, R56, R62, R308, R516): every transmit link of n reads its output
fill unless a missing set holds its plot, and keeps it for the release instant. -/
def linkCommit (n : Cl) (src : FillSrc) (s : State) : State :=
  (List.range 16).foldl (fun t l =>
    if lkEn l t && lkTx l t && decide (lkDest l t = n) && !lkFenced l t then
      match src (lkPlot l t) with
      | none => t
      | some (m, other) =>
        match readFill l (lkPlot l t) m other t with
        | (none, t') => t'
        | (some ws, t') =>
          lkPut l { lkGet l t' with egress := (lkGet l t').egress ++ [⟨lkRelease l t', ws⟩] } t'
    else t) s

/-- The frame boundary at which a fill leaves, times the lane rate: its release instant, or the next boundary (R310). -/
def lkBoundary (l : Nat) (e : EgressFill) (s : State) : Nat :=
  (e.release.toNat * lkRate l s + lkTf l s - 1) / lkTf l s * lkTf l s

/-- Whether a fill leaves within the current base tick. -/
def releasesNow (l : Nat) (s : State) (e : EgressFill) : Bool :=
  decide ((devTime s).toNat * lkRate l s ≤ lkBoundary l e s) && decide (lkBoundary l e s < ((devTime s).toNat + 256) * lkRate l s)

/-- EGRESS_RELEASE (R50, R308, R310, R311): the output fill whose release instant has come leaves, at the next frame boundary
where the instant misses one, and at no other instant; a converter without a sample repeats its last one. -/
def execEgressRelease (l : Link16) (s : State) : Out := awake s <|
  let k := lkGet l s
  match k.egress.find? (releasesNow l s) with
  | none => .next s
  | some e =>
    let s1 := if lkBoundary l e s = e.release.toNat * lkRate l s then s else odCount 0xC020 0 (lkErr l 2 s)
    let rest := (k.egress.dropWhile fun x => !releasesNow l s x).tail
    let out := (List.range (lkM l s)).map fun m =>
      match e.words.getD m [] with | [] => [lastReleased l m s] | ws => ws
    .next (lkPut l (if lkUp l s1 then { k with egress := rest, sending := out } else { k with egress := rest }) s1)

/-- Pending outputs are discarded and the links send their safe samples (R311, R467). -/
def linksSafe (s : State) : State :=
  (List.range 16).foldl (fun t l => lkPut l { lkGet l t with egress := [], sending := [] } t) s

/-- What a transmit link sends from its last release on, for each converter (R311); nothing while it is not UP, its half is
fenced (R441), or the mode drives no lane (R466). -/
def linkOutput (l : Nat) (s : State) : Option (List (List Word)) :=
  if lkEn l s && lkTx l s && lkUp l s && !lkFenced l s && decide (4 ≤ mode s) then
    some ((List.range (lkM l s)).map fun m =>
      match (lkGet l s).sending.getD m [] with | [] => [lkSafe l s] | ws => ws)
  else none

/-! ## SYSREF (R300) -/

/-- The SYSREF instant of output `o` that falls into the current base tick, with its delay of 16-grain units (R300). -/
def sysrefEdge (o : Nat) (s : State) : Option Time72 :=
  let per := (hubGet 0x8001 s).toNat * 256
  let t := (devTime s).toNat
  let d := hubFld (0x8004 + o) 11 0 s * 16
  let e := (t + 255 - d) / per * per + d
  if per ≠ 0 ∧ d ≤ t + 255 ∧ t ≤ e then some (BitVec.ofNat 72 e) else none

/-- SYSREF_PULSE (R300): output `o` is enabled and its instant has come, once; in gapped mode only up to the last instant of a
GO. -/
def execSysrefPulse (o : Fin 4) (s : State) : Out := awake s <|
  match sysrefEdge o s with
  | none => .next s
  | some e =>
    let x := tickInstant e s
    if !hubBit 0x8000 o s ∨ mode s ≤ 3 ∨ (hubBit 0x8000 22 s ∧ smAt 0 s.sysref o < x.toNat) ∨ smAt none s.sysrefAt o = some x then
      .next s
    else .next { s with sysrefAt := smPut none s.sysrefAt o (some x) }

/-- The level of a SYSREF output at an instant in grains of base ticks: high for 8 ns from its edge; a disabled output is
low (R300), and so is one in a mode that drives none (R466). -/
def sysrefLevel (o : Nat) (x : Time72) (s : State) : Bool :=
  match smAt none s.sysrefAt o with
  | some t => hubBit 0x8000 o s && decide (4 ≤ mode s) && decide (t ≤ x) && decide ((x - t).toNat < 2048)
  | none => false

/-- The last of the next `k` SYSREF instants of output `o`, in grains of base ticks (R300). -/
def sysrefLast (o k : Nat) (s : State) : Nat :=
  let per := (hubGet 0x8001 s).toNat * 256
  let t := s.ns.toNat * 256
  let d := hubFld (0x8004 + o) 11 0 s * 16
  if per = 0 ∨ k = 0 then 0 else (tickInt (((t - d + per - 1) / per + (k - 1)) * per + d : Nat) s).toNat

/-- A write of GO: in gapped mode the next COUNT instants carry a pulse (R300). -/
def sysrefGo (s : State) : State :=
  if !hubBit 0x8000 22 s then s
  else
    let k := hubFld 0x8000 21 16 s
    { s with sysref := (List.range 4).foldl (fun m o => smPut 0 m o (max (sysrefLast o k s) (smAt 0 m o))) s.sysref }

/-- SYSREF_GO (R300). -/
def execSysrefGo (s : State) : Out := awake s <| .next (sysrefGo s)

/-- JL_CNT_W0_READ (R316, R35). -/
def execJlCntW0Read (l : Link16) (i : Fin 5) (m : Master) (s : State) : Out := awake s <|
  .next (readPairW0 (lkReg l.val + 0x10 + 2 * i.val) m s)

/-! ## Register writes -/

/-- A write of a register of the converter-link block, at an offset of the hub registers (R299, R300). -/
def jlWrite (o : Nat) (v : Word) (s : State) : State :=
  if o = 0x8000 then
    let t := hubCodeWrite o v s
    if bitOf 23 v then sysrefGo t else t
  else if o = 0x8001 then (if (List.range 16).any (fun l => lkEn l s) then s else hubCodeWrite o v s)
  else if o < 0x8100 then hubCodeWrite o v s
  else
    let l := (o - 0x8100) / 0x80
    let r := (o - 0x8100) % 0x80
    if r = 0xC then hubCodeWrite o v s
    else if lkEn l s then (if r = 0 ∧ !bitOf 23 v then linkDisable l s else s)
    else if r = 0 then
      let t := hubCodeWrite o (setBit 23 false v) s
      if bitOf 23 v then linkEnable l t else t
    else if r = 2 then hubPut o ((v &&& 0xFFF800) ||| (hubGet o s &&& 0xFF)) s
    else hubCodeWrite o v s

end Sys2Proof.Machine
end

