-- ==== Sys2Proof/Machine/Timing.lean ====
section
/-!
DEFINITION. Machine/Timing.lean: timing pins, channels, captures, scheduled edges, timing counters, compares
and frame generators (spec/11_timing_channels.md R317–R341).
The model's own choices and readings (DEDUCED, DESIGN CHOICE, PRESUMED) are log entries 3, 42, 45 and 46.
-/
namespace Sys2Proof.Machine

/-! ## Banks and pins (R317, R318, R338) -/

/-- Pin `p` behind its register. -/
def pinGet (p : Nat) (s : State) : PinSt := smAt PinSt.reset s.tmc.pins p

/-- Put pin `p`. -/
def pinPut (p : Nat) (x : PinSt) (s : State) : State :=
  { s with tmc := { s.tmc with pins := smPut PinSt.reset s.tmc.pins p x } }

/-- A write that a rule of the timing unit refuses sets TMC_GSTAT.CFG_REFUSED. -/
def tmcRefuse (s : State) : State := hubSetBit 0x10014 0 true s

/-- Whether the timing-pins unit is fenced (R441). -/
def tmcFenced (s : State) : Bool := hubBit 0x50021 2 s

/-- Whether a bank is down (R317): its supply in no range, or its mismatch recorded. -/
def bankDown (b : Nat) (s : State) : Bool := !hubBit (0x10000 + b) 23 s || hubBit (0x10000 + b) 22 s

/-- The modes in which every output carries its safe value (R338, R466). -/
def outputsSafe (s : State) : Bool := [4, 5, 9, 0xA, 0xB].contains (mode s)

/-- Whether pin `p` drives its land (R318, R338, R340, R441, R466). -/
def pinDriving (p : Nat) (s : State) : Bool :=
  hubBit (0x10100 + p) 23 s && !bankDown (p / 32) s && (pinGet p s).out.isSome && !tmcFenced s && 4 ≤ mode s

/-- The level at the land of pin `p` (R318): a pin that drives puts its output level there, or with INV = 1 the complement;
otherwise the land carries its level from outside. -/
def landLevel (p : Nat) (s : State) : Bool :=
  match (pinGet p s).out with
  | some v => if pinDriving p s then v != hubBit (0x10100 + p) 20 s else (pinGet p s).land
  | none => (pinGet p s).land

/-- The level that pin `p` reads now (R317, R318): 0 while its bank is down, else the land's level, or its complement with
INV = 1. -/
def pinReads (p : Nat) (s : State) : Bool := !bankDown (p / 32) s && (landLevel p s != hubBit (0x10100 + p) 20 s)

/-- The base offset of a timing channel. -/
def chReg (c : Nat) : Nat := 0x11000 + 8 * c

/-- TMC_CHc_CFG.MODE. -/
def chMode (c : Nat) (s : State) : Nat := hubFld (chReg c) 23 21 s

/-- Whether an EDGE field selects an edge to this level (R320). -/
def edgeSel (sel : Nat) (level : Bool) : Bool := if level then decide (sel % 2 = 1) else decide (2 ≤ sel % 4)

/-- An instant rounded down to a multiple of 16 grains (R320, R326). -/
def grain16 (t : Time72) : Time72 := t &&& ~~~(0xF : Time72)

/-- A channel captures a timestamp (R321): FULL, or an overrun, and its event. -/
def capture (c : Nat) (ts : Time72) (s : State) : State :=
  let r := chReg c
  let old : CapOld := smAt ⟨0, 0⟩ s.tmc.capOld c
  let keep : CapOld := if old.stamp = s.ticks + 1 then old else ⟨s.ticks + 1, hubTime (r + 3) s⟩
  let s1 := { s with tmc := { s.tmc with capOld := smPut ⟨0, 0⟩ s.tmc.capOld c keep } }
  let s2 := if hubBit (r + 6) 23 s1 then odCount 0xC060 0 (hubSetBit (r + 6) 22 true s1) else s1
  fire (0x200 + c) (hubSetBit (r + 6) 23 true
    (hubPut (r + 5) (ts.extractLsb' 48 24) (hubPut (r + 4) (ts.extractLsb' 24 24) (hubPut (r + 3) (ts.extractLsb' 0 24) s2))))

/-! ## Compare and counters (R328–R332) -/

/-- The COMPARE channels of counter `i`, ascending. -/
def cmpChans (i : Nat) (s : State) : List Nat :=
  s.hub.filterMap fun p =>
    if 0x11000 ≤ p.1 ∧ p.1 < 0x13000 ∧ p.1 % 8 = 0 ∧ fld 23 21 p.2 = 2 ∧ fld 15 11 p.2 = i then some ((p.1 - 0x11000) / 8)
    else none

/-- Insert an action into a pin's pending list: by instant, then channel, then arrival (R326). -/
def actInsert (x : PinAction) : List PinAction → List PinAction
  | [] => [x]
  | y :: t => if x.at' < y.at' ∨ (x.at' = y.at' ∧ x.chan < y.chan) then x :: y :: t else y :: actInsert x t

/-- Queue an action at a pin. -/
def pinQueue (p : Nat) (x : PinAction) (s : State) : State :=
  pinPut p { pinGet p s with queue := actInsert x (pinGet p s).queue } s

/-- Whether the actions of COMPARE and GEN channels reach their pins (R338, R339): not in the safe modes and not
in HOLD. -/
def actionsApply (s : State) : Bool := mode s == 6 || mode s == 7

/-- What an action leaves as output level of a pin that reads `lvl` (R319): low, high or its complement. -/
def actOut (act : BitVec 2) (lvl : Bool) : Bool := if act = 1 then false else if act = 2 then true else !lvl

/-- One step of the machinery that edges and counters set off in turn: pin `p` takes a new level, counter `i`
steps, or a list of actions is applied to a pin. `delay` marks a counter whose compares act 20 ns after the
step (R331). -/
inductive TmcJob where
  | sync (p : Nat) (time : Time72) (edge : Bool)
  | step (i : Nat) (time : Time72) (delay : Bool)
  | act (p : Nat) (time : Time72) (acts : List (Nat × BitVec 2))

/-- A new level of a pin joins its history; entries older than about 2 s are dropped. -/
def pinHist (p : Nat) (e : PinEdge) (s : State) : State :=
  let x := pinGet p s
  let old := x.hist.filter fun (h : PinEdge) => decide ((e.time - h.time).toNat < 2 ^ 39)
  hubSetBit (0x10100 + p) 19 e.level (pinPut p { x with lvl := e.level, hist := e :: old } s)

/-- The channels of a pin in CAPTURE mode whose EDGE selects a level. -/
def captureChans (p : Nat) (level : Bool) (s : State) : List Nat :=
  (List.range 4).filterMap fun k =>
    let c := 4 * p + k
    if chMode c s = 1 ∧ edgeSel (hubFld (chReg c) 20 19 s) level then some c else none

/-- Whether an edge at an instant is closer than 1 ns to the one before on its pin, and is not resolved from it (R320). -/
def edgeClose (p : Nat) (time : Time72) (s : State) : Bool :=
  match (pinGet p s).hist.find? fun (h : PinEdge) => h.edge with
  | some h => decide ((tickInstant time s).toNat < h.time.toNat + 256) && decide (h.time.toNat < (tickInstant time s).toNat + 256)
  | none => false

/-- The capture of an edge that is not resolved from a neighbour (R320): with a free timestamp, or none. -/
def freeStamp (s : State) : Option Time72 × State :=
  let w (k : Nat) : Word := Config.freeWord (s.fresh + k)
  (if Config.freeBit s.fresh then some (grain16 (w 2 ++ w 1 ++ w 0)) else none, { s with fresh := s.fresh + 3 })

/-- The capture that a pin's last edge gave is not resolved from the edge that follows it (R320): in the fills it is free,
and so are the registers that hold it; where it was none, they hold the unread timestamp that it overwrote, or none. -/
def edgeBlur (p : Nat) (s : State) : State :=
  match (pinGet p s).hist.find? fun (h : PinEdge) => h.edge with
  | none => s
  | some h =>
    let f := freeStamp s
    let s1 := pinPut p { pinGet p s with hist := (pinGet p s).hist.map fun e => if e = h then { e with cap := f.1 } else e } f.2
    h.chans.foldl (fun t c =>
      let r := chReg c.1
      if hubBit (r + 6) 23 t && h.cap == some (hubTime (r + 3) t) then
        let g := freeStamp t
        match g.1.or c.2 with
        | some v => hubPut (r + 5) (v.extractLsb' 48 24) (hubPut (r + 4) (v.extractLsb' 24 24)
            (hubPut (r + 3) (v.extractLsb' 0 24) g.2))
        | none => hubSetBit (r + 6) 23 false g.2
      else t) s1

/-- A timestamp of an instant (R320, R505): a multiple of 16 grains within 125 ps, 32 grains, of it, which one is free. -/
def nearStamp (time : Time72) (s : State) : Time72 × State :=
  let g := time.toNat / 16 * 16
  (BitVec.ofNat 72 (g + 32 - 16 * (Config.freeNat s.fresh % (if time.toNat = g then 5 else 4))), drawn s)

/-- The timestamp an edge is captured with (R320), or none: an edge less than 1 ns after the one before on its
pin may be captured or not, with any timestamp, and so may the one before. -/
def edgeStamp (p : Nat) (time : Time72) (s : State) : Option Time72 × State :=
  if edgeClose p time s then freeStamp (edgeBlur p s) else (some (nearStamp time s).1, (nearStamp time s).2)

/-- When an action shows at its pin (R505): within 150 ps, 38 grains, of its instant, how far off is free. -/
def actInstant (time : Time72) (s : State) : Time72 := BitVec.ofNat 72 (time.toNat + Config.freeNat s.fresh % 77 - 38)

/-- The actions of one instant at a pin, in ascending channel number (R319). -/
def actMerge (x : Nat × BitVec 2) : List (Nat × BitVec 2) → List (Nat × BitVec 2)
  | [] => [x]
  | y :: t => if x.1 < y.1 then x :: y :: t else y :: actMerge x t

/-- The counters that an edge of pin `p` to a level steps (R328). -/
def pinCounters (p : Nat) (level : Bool) (s : State) : List Nat :=
  (List.range 32).filter fun i =>
    let w := hubGet (0x10200 + 2 * i) s
    bitOf 23 w && decide (fld 22 21 w = 1) && decide (fld 18 11 w = p) && edgeSel (fld 20 19 w) level

/-- The firing of a COMPARE channel at count `v` (R331, R332): its flags, its event, its re-arming. -/
def cmpFire (c : Nat) (v : Word) (s : State) : State :=
  let r := chReg c
  let cmp := hubGet (r + 1) s
  let s1 := hubSetBit (r + 6) 18 true s
  let s2 := if v = cmp then s1 else odCount 0xC063 0 (hubSetBit (r + 6) 21 true s1)
  let s3 := if hubBit r 16 s then hubPut (r + 1) (cmp + hubGet (r + 2) s) s2 else hubSetBit (r + 6) 19 false s2
  fire (0x200 + c) s3

/-- Whether a COMPARE channel fires at a step to `v` (R331). -/
def cmpDue (c : Nat) (v : Word) (s : State) : Bool :=
  hubBit (chReg c + 6) 19 s && decide ((v - hubGet (chReg c + 1) s).toNat < 2 ^ 23) &&
    decide ((smAt 0 s.tmc.cmpAt c).toNat + 20 ≤ s.ticks.toNat)

/-- Carry out jobs, each with the ones it sets off; `fuel` bounds the depth, which the four channels of a pin, the
carries and the counters cannot exceed. -/
def tmcRun : Nat → TmcJob → State → State
  | 0, _, s => s
  | fuel + 1, .sync p time edge, s =>
    let level := pinReads p s
    if level = (pinGet p s).lvl then s
    else if !edge ∨ bankDown (p / 32) s ∨ tmcFenced s then pinHist p ⟨tickInstant time s, level, false, none, []⟩ s
    else
      let (cap, s1) := edgeStamp p time s
      let chans := (captureChans p level s1).map fun c =>
        (c, if hubBit (chReg c + 6) 23 s1 then some (hubTime (chReg c + 3) s1) else none)
      let s2 := pinHist p ⟨tickInstant time s, level, true, cap, chans⟩ s1
      match cap with
      | none => s2
      | some ts =>
        let s3 := chans.foldl (fun t c => capture c.1 ts t) s2
        (pinCounters p level s3).foldl (fun t i => tmcRun fuel (.step i ts true) t) s3
  | fuel + 1, .step i time delay, s =>
    let o := 0x10201 + 2 * i
    let v := hubGet o s + 1
    let s1 := hubPut o v { s with tmc := { s.tmc with stepAt := smPut 0 s.tmc.stepAt i (s.ticks + 1) } }
    let s2 := if v = 0 then fire (0x160 + i) s1 else s1
    let due := (cmpChans i s2).filter fun c => cmpDue c v s2
    let s3 := due.foldl (fun t c => cmpFire c v t) s2
    let acts := due.filter fun c => decide (hubFld (chReg c) 18 17 s2 ≠ 0)
    let s4 :=
      if delay then
        acts.foldl (fun t c => pinQueue (c / 4) ⟨time + nsGrains 20, c, (hubGet (chReg c) s2).extractLsb' 17 2, true⟩ t) s3
      else if actionsApply s3 then
        ((acts.map (· / 4)).dedup).foldl (fun t p =>
          let mine := (acts.filter (fun c => c / 4 = p)).map fun c => (c, (hubGet (chReg c) s2).extractLsb' 17 2)
          tmcRun fuel (.act p time mine) t) s3
      else s3
    let w := hubGet (0x10200 + 2 * (i + 1)) s4
    if v = 0 ∧ i % 2 = 0 ∧ bitOf 23 w ∧ fld 22 21 w = 2 then tmcRun fuel (.step (i + 1) time true) s4 else s4
  | fuel + 1, .act p time acts, s =>
    let drive := hubBit (0x10100 + p) 23 s && !bankDown (p / 32) s && !tmcFenced s
    let now : PinActed := match (pinGet p s).acted with
      | some a => if a.tick = s.ticks ∧ a.at' = time then a else ⟨s.ticks, time, (pinGet p s).out, []⟩
      | none => ⟨s.ticks, time, (pinGet p s).out, []⟩
    let all := acts.foldl (fun l x => actMerge x l) now.acts
    let lvl := pinReads p (pinPut p { pinGet p s with out := now.was } s)
    let out := all.foldl (fun (o : Option Bool) a => some (actOut a.2 (if drive then o.getD lvl else lvl))) now.was
    tmcRun fuel (.sync p (actInstant time s) true)
      (drawn (pinPut p { pinGet p s with out := out, acted := some { now with acts := all } } s))

/-- The depth that the jobs of R319–R332 can reach. -/
def tmcFuel : Nat := 64

/-- Pin `p` takes the level it now reads. -/
def pinSync (p : Nat) (time : Time72) (edge : Bool) (s : State) : State := tmcRun tmcFuel (.sync p time edge) s

/-- Actions are applied to a pin at one instant, with those that the instant has brought before, in ascending channel number
(R319). -/
def pinAct (p : Nat) (time : Time72) (acts : List (Nat × BitVec 2)) (s : State) : State := tmcRun tmcFuel (.act p time acts) s

/-- The pins of a bank take the levels they now read: no edge (R317). -/
def bankSync (b : Nat) (s : State) : State :=
  (List.range 32).foldl (fun t k => pinSync (32 * b + k) (devTime t) false t) s

/-- The range of a bank's supply (R500): 0 for 1.8 V, 1 for 3.3 V. -/
def bankRange (mv : Nat) : Option Nat :=
  if 1710 ≤ mv ∧ mv ≤ 1890 then some 0 else if 3135 ≤ mv ∧ mv ≤ 3465 then some 1 else none

/-- Whether a bank's supply lies in the range that V33 does not name (R317). -/
def bankBad (b : Nat) (s : State) : Bool :=
  match bankRange (smAt 0 s.tmc.bankMv b) with
  | some k => decide (k ≠ hubFld (0x10000 + b) 0 0 s)
  | none => false

/-- Evaluate a bank's supply (R317): PWRGOOD and MISMATCH, the bank event each time one of them takes the bank
down, the pins' levels. `was` is whether the bank was down; `first` counts the evaluation after a reset as a
change. -/
def bankEval (b : Nat) (was first : Bool) (s : State) : State :=
  let good := (bankRange (smAt 0 s.tmc.bankMv b)).isSome
  let pg := hubBit (0x10000 + b) 23 s
  let mm := hubBit (0x10000 + b) 22 s
  let bad := bankBad b s
  let s1 := hubSetBit (0x10000 + b) 22 (mm || bad) (hubSetBit (0x10000 + b) 23 good s)
  let fall := ((pg || first) && !good) || ((!mm || first) && bad)
  let s2 := if fall then fire (0x180 + b) s1 else s1
  let hist := (s2.ticks, bankDown b s2) :: smAt [] s2.tmc.bankHist b
  if bankDown b s2 = was then s2
  else bankSync b { s2 with tmc := { s2.tmc with bankHist := smPut [] s2.tmc.bankHist b hist } }

/-- The first evaluation of the banks' supplies after a reset of the timing pins (R317). -/
def banksStart (s : State) : State := (List.range 8).foldl (fun t b => bankEval b (bankDown b t) true t) s

/-- BANK_SUPPLY_CHANGE (R317): the supply of a bank is now this many mV. In STANDBY the timing unit is stopped and sees it at
wake, with the first evaluation after the reset (R340). -/
def execBankSupplyChange (b : Fin 8) (mv : Nat) (s : State) : Out :=
  let t := { s with tmc := { s.tmc with bankMv := smPut 0 s.tmc.bankMv b.val mv } }
  .next (if dark s then t else bankEval b.val (bankDown b.val s) false t)

/-- A write of TMC_BANKb_CFG (R317, R318): refused as a whole where it changes V33 while a pin of the bank has
DIR = 1; MISMATCH clears only once the mismatch no longer holds. -/
def bankWrite (b : Nat) (v : Word) (s : State) : State :=
  let changes := bitOf 0 v != hubBit (0x10000 + b) 0 s
  let dir := (List.range 32).any fun k => hubBit (0x10100 + 32 * b + k) 23 s
  if changes && dir then tmcRefuse s
  else
    let t := hubSetBit (0x10000 + b) 0 (bitOf 0 v) s
    bankEval b (bankDown b s) false (if bitOf 22 v && !bankBad b t then hubSetBit (0x10000 + b) 22 false t else t)

/-- BANK_CFG_WRITE (R317, R318). -/
def execBankCfgWrite (b : Fin 8) (v : Word) (s : State) : Out := awake s <| .next (bankWrite b.val v s)

/-- The level of the safe drive (R338): low, high or high impedance. -/
def safeLevel (cfg : Word) : Option Bool :=
  match fld 22 21 cfg with | 0 => some false | 1 => some true | _ => none

/-- A write of TMC_PINp_CFG (R318, R338): in a safe mode the pin takes its safe drive; a change of INV is no edge
at the land. -/
def pinCfgWrite (p : Nat) (v : Word) (s : State) : State :=
  let flip := bitOf 20 v != hubBit (0x10100 + p) 20 s
  let t := hubCodeWrite (0x10100 + p) v s
  let u := if outputsSafe t then pinPut p { pinGet p t with out := safeLevel v, acted := none } t else t
  pinSync p (devTime u) (!flip) u

/-- The pins that a configuration or an edge has touched. -/
def pinsUsed (s : State) : List Nat :=
  ((s.hub.filterMap fun (p : Nat × Word) => if 0x10100 ≤ p.1 ∧ p.1 < 0x10200 then some (p.1 - 0x10100) else none)
    ++ s.tmc.pins.map fun (p : Nat × PinSt) => p.1).dedup

/-- Entry to a mode with safe outputs (R338): pending actions are discarded and every pin takes its safe drive. -/
def pinsSafe (s : State) : State :=
  (pinsUsed s).foldl (fun t p =>
    pinSync p (devTime t) true
      (pinPut p { pinGet p t with queue := [], out := safeLevel (hubGet (0x10100 + p) t), acted := none } t)) s

/-- Every pin takes the level it reads now: the unit was fenced or unfenced, or the device enters STANDBY. -/
def pinsSettle (s : State) : State := (pinsUsed s).foldl (fun t p => pinSync p (devTime t) false t) s

/-- PIN_EDGE (R320, R328): the land of a pin takes a level from outside at an instant in the current base tick. A
pin that drives keeps its level. In STANDBY the unit is stopped and takes no edge (R340). -/
def execPinEdge (p : Pin) (level : Bool) (frac : BitVec 8) (s : State) : Out :=
  .next (pinSync p.val (s.ns ++ frac) (!dark s) (pinPut p.val { pinGet p.val s with land := level } s))

/-- CAP_W0_READ (R321, R35): the read clears FULL and snapshots the upper words; a capture of the same cycle is not
returned and FULL stays. -/
def execCapW0Read (c : Chan) (m : Master) (s : State) : Out := awake s <|
  let r := chReg c.val
  let old : CapOld := smAt ⟨0, 0⟩ s.tmc.capOld c.val
  let same := decide (old.stamp = s.ticks + 1)
  let v : Time72 := if same then old.val else hubTime (r + 3) s
  let t := respond [v.extractLsb' 0 24] (snapPut (r + 3) (masterNum m) (v.extractLsb' 24 48) s)
  .next (if same then t else hubSetBit (r + 6) 23 false t)

/-! ## Capture groups (R322–R324) -/

/-- The base offset of a capture group. -/
def cgReg (g : Nat) : Nat := 0x10300 + 4 * g

/-- The channels that a CTL value lists (R322). -/
def cgChans (ctl : Word) : List Nat := (List.range (fld 20 15 ctl)).map fun i => fld 9 0 ctl + i * (fld 22 21 ctl + 1)

/-- ⌈C/24⌉. -/
def cgBits (c : Nat) : Nat := (c + 23) / 24

/-- The checks of a write of EN = 1 to a capture group (R322). -/
def cgOk (g : Nat) (ctl : Word) (s : State) : Bool :=
  let ch := cgChans ctl
  let k := ch.length
  decide (1 ≤ k) && decide (k ≤ 48) &&
    ch.all (fun c => decide (c ≤ 1023) && decide (chMode c s = 1) && decide (hubFld (chReg c) 9 5 s = g)) &&
    decide (hubFld (cgReg g + 1) 11 0 s + 3 + k + 2 * cgBits k ≤ 4095) && decide (50 ≤ (hubGet (cgReg g + 2) s).toNat)

/-- A write of TMC_CGg_CTL (R322). -/
def cgCtlWrite (g : Nat) (v : Word) (s : State) : State :=
  if bitOf 23 v && !cgOk g v s then tmcRefuse s
  else hubCodeWrite (cgReg g) v { s with tmc := { s.tmc with filled := smPut none s.tmc.filled g none } }

/-- CAPTURE_GROUP_ENABLE (R322): a CTL write of EN = 1. -/
def execCaptureGroupEnable (g : Fin 32) (v : Word) (s : State) : Out := awake s <| .next (cgCtlWrite g.val (setBit 23 true v) s)

/-- A counted refused word of a capture fill, or a refused read of an edge group (R323). -/
def tmcRefused (s : State) : State := odCount 0xC061 0 (hubCount 0x13004 s)

/-- The timestamps of a window, in order, with which a channel captured edges. -/
def windowEdges (c : Nat) (ws we : Int) (s : State) : List Int :=
  ((pinGet (c / 4) s).hist.filterMap fun (e : PinEdge) => match e.cap with
    | some ts => if ws ≤ ts.toNat ∧ (ts.toNat : Int) < we ∧ e.chans.any (fun x => x.1 == c) then some (ts.toNat : Int) else none
    | none => none).reverse

/-- Whether a bank was down at some instant of a window (R324). -/
def downDuring (b : Nat) (ws we : Int) (s : State) : Bool :=
  let h := smAt [] s.tmc.bankHist b
  let at' (e : BitVec 64 × Bool) : Int := e.1.toNat * 256
  let inside := h.any fun e => decide (tickInt ws s ≤ at' e) && decide (at' e < tickInt we s) && e.2
  let before := match h.find? (fun e => decide (at' e ≤ tickInt ws s)) with
    | some e => e.2
    | none => match h.getLast? with
      | some e => !e.2
      | none => bankDown b s
  inside || before

/-- Twenty-four bits of a list packed into words, bit i in word i div 24 (R324). -/
def bitWords (bs : List Bool) : List Word :=
  (List.range (cgBits bs.length)).map fun k =>
    BitVec.ofNat 24 (((List.range 24).map fun i => (bs.getD (24 * k + i) false).toNat * 2 ^ i).sum)

/-- The words of a capture fill for the window [ws, we) (R324). -/
def captureFill (g : Nat) (ws we : Int) (s : State) : List Word :=
  let ch := cgChans (hubGet (cgReg g) s)
  let edges := ch.map fun c => windowEdges c ws we s
  let multi := edges.map fun e => decide (2 ≤ e.length)
  let down := ch.any fun c => downDuring (c / 128) ws we s
  let start : Time72 := BitVec.ofInt 72 ws
  let head : Word := BitVec.ofNat 24 ((multi.any id).toNat * 2 ^ 23 + down.toNat * 2 ^ 22 + ch.length)
  let first := edges.map fun e => (BitVec.ofInt 24 (((e.head?).getD we - ws) / 16) : Word)
  let levels := ch.map fun c => !pinLevelAt (c / 4) (tickInt ws s) false s
  [head, start.extractLsb' 0 24, start.extractLsb' 24 24, start.extractLsb' 48 24] ++ first ++ bitWords levels ++ bitWords multi

/-- The exchange plot of a DST value in the phase that its cluster is in (R323, R325); while the grid is stopped that of phase 0,
which the START sets (R182, log entry 42). -/
def dstPlot (dst : Word) (s : State) : Nat :=
  if !gridRun s ∨ phaseOf (s.cl (clOf (fld 23 16 dst))) % 2 = 0 then fld 15 14 dst else fld 13 12 dst

/-- After a STEP of device time no window holds the captures made before it: their timestamps are those of the old count (log
entry 45). -/
def dropCaptures (t : Tmc) : Tmc :=
  { t with pins := t.pins.map fun p => (p.1, { p.2 with hist := p.2.hist.map fun e => { e with cap := none } }) }

/-- CAPTURE_FILL_WRITE (R323, R324): once the window's captures are complete and before the fill's handover tick,
the group writes its fill; words that the I/O side may not write are refused and counted. -/
def execCaptureFillWrite (g : Fin 32) (s : State) : Out := awake s <|
  let dst := hubGet (cgReg g + 1) s
  let n := clOf (fld 23 16 dst)
  let cut := (hubGet (cgReg g + 2) s).toNat * 256
  let now := (devTime s).toNat
  match fillTick n now 1 s with
  | none => .next s
  | some u =>
    let plot := dstPlot dst s
    if !hubBit (cgReg g) 23 s ∨ tmcFenced s ∨ !fillLive u s ∨ !fillPassed n u s ∨ now + cut < u + 20 * 256
        ∨ smAt none s.tmc.filled g = some u ∨ fillHeld n (plot * 0x1000) s then .next s
    else
      let ws := captureFill g ((u : Int) - (clFp n s + cut : Nat)) ((u : Int) - cut) s
      let base := plot * 0x1000 + fld 11 0 dst
      let t := (ws.foldl (fun (p : Nat × State) w =>
        (p.1 + 1, match fillDeliver n p.1 w p.2 with
          | (some k, t) => (List.range k).foldl (fun u _ => tmcRefused u) t
          | (none, t) => t)) (base, s)).2
      .next { t with tmc := { t.tmc with filled := smPut none t.tmc.filled g (some u) } }

/-! ## Edge groups (R325–R327) -/

/-- The base offset of an edge group. -/
def egReg (g : Nat) : Nat := 0x10380 + 4 * g

/-- A write of TMC_EGg_CTL (R325). -/
def egCtlWrite (g : Nat) (v : Word) (s : State) : State :=
  let bad := decide (fld 9 0 v = 0) || decide (4095 < hubFld (egReg g + 1) 11 0 s + 4 * fld 9 0 v)
  if bitOf 23 v && bad then tmcRefuse s else hubCodeWrite (egReg g) v s

/-- EDGE_GROUP_ENABLE (R325). -/
def execEdgeGroupEnable (g : Fin 32) (v : Word) (s : State) : Out := awake s <| .next (egCtlWrite g.val (setBit 23 true v) s)

/-- Count discarded records: counter 0 BADREC, 1 QOVF (R325, R327, R341). -/
def badRecords (i k : Nat) (s : State) : State :=
  let o := 0x13000 + 2 * i
  if k = 0 then s else odAdd 0xC062 0 k (hubPutPair o (hubPair o s + BitVec.ofNat 48 k) s)

/-- Place one record of an edge group (R325–R327), read at the commit point that is now. -/
def placeRecord (g : Nat) (w0 : Word) (at' : Time72) (s : State) : State :=
  let c := fld 9 0 w0
  if fld 21 10 w0 ≠ 0 ∨ chMode c s ≠ 3 ∨ hubFld (chReg c) 9 5 s ≠ g then badRecords 0 1 s
  else if fld 23 22 w0 = 0 then s
  else
    let first := devTime s + nsGrains 20
    let late := decide (grain16 at' < first)
    let s1 := if late then fire 0x188 (odCount 0xC020 0 s) else s
    let used := ((pinGet (c / 4) s1).queue.filter fun (x : PinAction) => !x.cmp).length
    if 32 ≤ used then badRecords 1 1 s1
    else pinQueue (c / 4) ⟨if late then first else grain16 at', c, w0.extractLsb' 22 2, false⟩ s1

/-- An edge group reads its records at a commit point (R325). A read that is refused, or that finds an uncorrectable error,
counts once and queues nothing (R323, R327). -/
def edgeRead (g : Nat) (from' : Cl) (other : Option Cl) (plot ofs : Nat) (s0 : State) : State :=
  let own := plotRead from' plot ofs s0
  let s := own.2
  if !own.1 then tmcRefused s
  else
    let xo := plot * 0x1000 + ofs
    match ioWords from' xo 1 s with
    | ([some w], t) =>
      let k := min w.toNat (hubFld (egReg g) 9 0 s)
      let ws := ioWords from' (xo + 1) (4 * k) (pairCompare from' other plot ofs (1 + 4 * k) tmcRefused t)
      if ws.1.any Option.isNone then tmcRefused ws.2
      else
        let at' (i : Nat) : Word := (ws.1.getD i none).getD 0
        (List.range k).foldl (fun t j =>
          placeRecord g (at' (4 * j)) (at' (4 * j + 3) ++ at' (4 * j + 2) ++ at' (4 * j + 1)) t)
          (badRecords 0 (w.toNat - k) ws.2)
    | (_, t) => tmcRefused t

/-- A commit point of VCn (R325, R516): every enabled edge group of n reads its plot unless a missing set holds
it. -/
def edgeCommit (n : Cl) (src : FillSrc) (s : State) : State :=
  (List.range 32).foldl (fun t g =>
    let dst := hubGet (egReg g + 1) t
    let plot := dstPlot dst t
    if hubBit (egReg g) 23 t && decide (clOf (fld 23 16 dst) = n) && !tmcFenced t then
      match src plot with
      | none => t
      | some (m, other) => edgeRead g m other plot (fld 11 0 dst) t
    else t) s

/-- SCHEDULED_EDGE (R50, R326, R327, R331): the actions pending for the pin's earliest instant in this base tick are applied,
and at no other instant. COMPARE actions are dropped in the safe modes and in HOLD (R338, R339). -/
def execScheduledEdge (p : Pin) (s : State) : Out := awake s <|
  match (pinGet p s).queue.dropWhile fun (y : PinAction) => decide (y.at'.toNat / 256 < s.ns.toNat) with
  | [] => .next s
  | x :: r =>
    if s.ns.toNat < x.at'.toNat / 256 ∨ mode s = 1 then .next s
    else
      let (now, rest) := (x :: r).partition fun (y : PinAction) => y.at' == x.at'
      let acts := (now.filter fun (y : PinAction) => !y.cmp || actionsApply s).map fun (y : PinAction) => (y.chan, y.act)
      let t := pinPut p { pinGet p s with queue := rest } s
      .next (if acts = [] then t else pinAct p x.at' acts t)

/-! ## Counters: steps, loads, reads, compare writes -/

/-- The registers of counter `i`. -/
def cntReg (i : Nat) : Nat := 0x10200 + 2 * i

/-- COUNTER_STEP (R328): a TIME counter steps at a base tick that is a multiple of 2^PRE. PIN counters step with
their edges, CARRY counters with their partner. -/
def execCounterStep (i : Fin 32) (s : State) : Out := awake s <|
  let w := hubGet (cntReg i) s
  if !bitOf 23 w ∨ fld 22 21 w ≠ 0 ∨ s.ns.toNat % 2 ^ fld 10 7 w ≠ 0 ∨ smAt 0 s.tmc.stepAt i = s.ticks + 1 ∨ mode s = 1
  then .next s
  else .next (tmcRun tmcFuel (.step i (devTime s) false) s)

/-- A write of TMC_CNTn_VAL waits for the next base tick (R329). -/
def cntValWrite (i : Nat) (v : Word) (s : State) : State :=
  { s with tmc := { s.tmc with loads := smPut none s.tmc.loads i (some (v, s.ticks)) } }

/-- COUNTER_LOAD (R329): at a base tick after the write. -/
def execCounterLoad (i : Fin 32) (s : State) : Out := awake s <|
  match smAt none s.tmc.loads i with
  | none => .next s
  | some (v, t) =>
    if s.ticks = t ∨ mode s = 1 then .next s
    else .next (hubPut (cntReg i + 1) v { s with tmc := { s.tmc with loads := smPut none s.tmc.loads i none } })

/-- A write of TMC_CNTn_CFG (R328). -/
def cntCfgWrite (i : Nat) (v : Word) (s : State) : State :=
  if fld 22 21 v = 3 ∨ (fld 22 21 v = 2 ∧ i % 2 = 0) then tmcRefuse s else hubCodeWrite (cntReg i) v s

/-- TMC_CNT_VAL_READ (R330): an even counter snapshots its CARRY partner, which then answers its own read. -/
def execTmcCntValRead (i : Fin 32) (m : Master) (s : State) : Out := awake s <|
  let carry (k : Nat) : Bool := decide (hubFld (cntReg k) 22 21 s = 2)
  let v := hubGet (cntReg i + 1) s
  if i.val % 2 = 0 then
    .next (respond [v] (if carry (i + 1) then snapPut (cntReg i + 1) (masterNum m) ((hubGet (cntReg (i + 1) + 1) s).setWidth 48) s else s))
  else if carry i then .next (respond [(snapGet (cntReg (i - 1) + 1) (masterNum m) s).setWidth 24] s)
  else .next (respond [v] s)

/-- A write of TMC_CHc_CMP (R331): it arms a COMPARE channel and clears MATCH. -/
def cmpWrite (c : Nat) (v : Word) (s : State) : State :=
  let t := hubPut (chReg c + 1) v s
  if chMode c s ≠ 2 then t
  else hubSetBit (chReg c + 6) 19 true (hubSetBit (chReg c + 6) 18 false
    { t with tmc := { t.tmc with cmpAt := smPut 0 t.tmc.cmpAt c t.ticks } })

/-- CMP_WRITE (R331). -/
def execCmpWrite (c : Chan) (v : Word) (s : State) : Out := awake s <| .next (cmpWrite c.val v s)

/-- The base offset of a generator. -/
def genReg (g : Nat) : Nat := 0x10400 + 0x10 * g

/-- The level that GEN channel `c` gives its pin for a generator's output (R319), as an action. -/
def genAct (c : Nat) (out : Bool) (s : State) : Nat × BitVec 2 := (c, if out != hubBit (chReg c) 4 s then 2 else 1)

/-- A write of TMC_CHc_CFG (R319, R322); a channel in GEN mode drives its pin with the generator's output from then on. Refused for a reserved MODE, and where it would change MODE or GRP of a
channel that an enabled capture group lists. -/
def chCfgWrite (c : Nat) (v : Word) (s : State) : State :=
  let w := hubGet (chReg c) s
  let changes := decide (fld 23 21 v ≠ fld 23 21 w) || decide (fld 9 5 v ≠ fld 9 5 w)
  let listed := (List.range 32).any fun g =>
    hubBit (cgReg g) 23 s && (cgChans (hubGet (cgReg g) s)).contains c
  if 5 ≤ fld 23 21 v ∨ (changes ∧ listed) then tmcRefuse s
  else
    let t := hubCodeWrite (chReg c) v s
    let u := if fld 23 21 v = 2 then t else hubSetBit (chReg c + 6) 19 false t
    if fld 23 21 v = 4 ∧ actionsApply u then
      pinAct (c / 4) (devTime u) [genAct c (hubBit (genReg (fld 10 5 v) + 0xC) 22 u) u] u
    else u

/-! ## Frame generators (R333–R337) -/

/-- Generator `g` behind its registers. -/
def genGet (g : Nat) (s : State) : GenSt := smAt GenSt.reset s.tmc.gens g

/-- Put generator `g`. -/
def genPut (g : Nat) (x : GenSt) (s : State) : State :=
  { s with tmc := { s.tmc with gens := smPut GenSt.reset s.tmc.gens g x } }

/-- Whether a generator runs: a STOP written in an earlier base tick has stopped it (R336). -/
def genRuns (g : Nat) (s : State) : Bool :=
  (genGet g s).running && !(match (genGet g s).stopAt with | some t => decide (t < s.ticks) | none => false)

/-- The GEN channels of a generator, ascending (R319). -/
def genChans (g : Nat) (s : State) : List Nat :=
  s.hub.filterMap fun p =>
    if 0x11000 ≤ p.1 ∧ p.1 < 0x13000 ∧ p.1 % 8 = 0 ∧ fld 23 21 p.2 = 4 ∧ fld 10 5 p.2 = g then some ((p.1 - 0x11000) / 8)
    else none

/-- A generator's level becomes `raw`: its output is gated by the pattern, and a change drives its channels' pins, as the
start step does (R319, R335). `quiet` makes no action (R340). -/
def genOut (g : Nat) (raw quiet start : Bool) (s : State) : State :=
  let r := genReg g
  let idx := hubFld (r + 0xC) 6 0 s
  let pat := idx < 72 && hubBit (r + 5 + idx / 24) (idx % 24) s
  let out := raw && (!hubBit r 19 s || pat)
  let was := hubBit (r + 0xC) 22 s
  let s1 := hubSetBit (r + 0xC) 22 out (genPut g { genGet g s with raw := raw } s)
  if (out = was ∧ !start) ∨ quiet ∨ !actionsApply s1 then s1
  else (genChans g s1).foldl (fun t c => pinAct (c / 4) (devTime t) [genAct c out t] t) s1

/-- Copy a buffer of three values into the active ones and clear UPD, unless it was written in the same base tick (R333,
R334). -/
def genCopy (g : Nat) (buf : List Word) (upd : Bool) (s : State) : State :=
  let r := genReg g
  hubSetBit r 22 upd (hubPut (r + 0xA) (buf.getD 2 0) (hubPut (r + 9) (buf.getD 1 0) (hubPut (r + 8) (buf.getD 0 0) s)))

/-- The buffer registers. -/
def genBuf (g : Nat) (s : State) : List Word := (List.range 3).map fun k => hubGet (genReg g + 1 + k) s

/-- The level after a step to COUNT (R335): FALL wins. -/
def genLevel (g : Nat) (s : State) : Bool :=
  let r := genReg g
  let n := hubGet (r + 0xB) s
  if n = hubGet (r + 0xA) s then false else if n = hubGet (r + 9) s then true else (genGet g s).raw

/-- Whether FREEZE keeps a generator from stepping: from a HOLD tick to its RESUME tick (R339). -/
def genFrozen (g : Nat) (s : State) : Bool := hubBit (genReg g) 21 s && holdActive s

/-- The start step (R336, R337); a generator that FREEZE holds makes it once the hold has ended (R339). -/
def genStart (g : Nat) (s : State) : State :=
  let r := genReg g
  if genFrozen g s then genPut g { genGet g s with startAt := some (s.ticks - 1) } s
  else
    let s1 := genCopy g (genBuf g s) false s
    let s2 := hubSetFld (r + 0xC) 6 0 0 (hubPut (r + 0xB) (hubGet (r + 4) s1) s1)
    genOut g false false true (genPut g { genGet g s2 with running := true, stopAt := none, startAt := none, lastAt := s2.ticks } s2)

/-- A step of a generator and of the ones that cascade from it (R333–R335, R339). With `quiet`, a reload sets
MISSED in place of its event (R340). -/
def genStep : Nat → Bool → Nat → State → State
  | 0, _, _, s => s
  | fuel + 1, quiet, g, s =>
    let r := genReg g
    let x := genGet g s
    let s0 := genPut g { x with lastAt := s.ticks } s
    let n := hubGet (r + 0xB) s0
    if n ≠ 0 then
      let s1 := hubPut (r + 0xB) (n - 1) s0
      genOut g (genLevel g s1) quiet false s1
    else
      let upd := decide (x.updAt = s.ticks + 1) && !quiet
      let ready := if upd then x.updOld else hubBit r 22 s0
      let buf := if x.bufAt = s.ticks + 1 ∧ !quiet then x.bufOld else genBuf g s0
      let s1 := if ready then genCopy g buf upd s0 else s0
      let plen := hubFld r 14 8 s1
      let idx := hubFld (r + 0xC) 6 0 s1 + 1
      let s2 := hubSetFld (r + 0xC) 6 0 (if plen ≤ idx then 0 else idx) (hubPut (r + 0xB) (hubGet (r + 8) s1 - 1) s1)
      let s3 := genOut g (genLevel g s2) quiet false s2
      let s4 := if quiet then hubSetBit (r + 0xC) 23 true s3 else fire (0x120 + g) s3
      if g < 63 ∧ hubBit (genReg (g + 1)) 20 s4 ∧ genRuns (g + 1) s4 ∧ !genFrozen (g + 1) s4 then
        (if hubBit (genReg (g + 1)) 23 s4 then genStep fuel quiet (g + 1) s4
         else genPut (g + 1) { genGet (g + 1) s4 with running := false } s4)
      else s4

/-- GENERATOR_STEP (R333, R337, R339): the generator's next step, or its own start step after a write of ARM. A
generator that was disarmed stops; a cascaded one steps with the reloads of generator g − 1. -/
def execGeneratorStep (g : Fin 64) (s : State) : Out := awake s <|
  let r := genReg g
  let x := genGet g s
  let casc := hubBit r 20 s && decide (g.val ≠ 0)
  let starts := match x.startAt with | some t => decide (t < s.ticks) | none => false
  let due := decide (x.lastAt < s.ticks) && decide ((s.ticks - x.lastAt).toNat % 2 ^ hubFld r 18 15 s = 0)
  if tmcFenced s ∨ mode s = 1 then .next s
  else if starts then .next (genStart g s)
  else if !genRuns g s ∨ casc ∨ !due ∨ genFrozen g s then .next s
  else if !hubBit r 23 s then .next (genPut g { x with running := false } s)
  else .next (genStep 64 false g s)

/-- A write of TMC_GCTL.GO (R336). -/
def globalGo (s : State) : State :=
  let t := hubTime 0x10011 s
  let late := decide (t.toNat ≤ (devTime s).toNat)
  let u := hubSetBit 0x10014 22 true
    { s with tmc := { s.tmc with startAt := some (if late then devTime s + nsGrains 1 else t) } }
  if late then hubSetBit 0x10014 1 true u else u

/-- GLOBAL_START_GO (R336). -/
def execGlobalStartGo (s : State) : Out := awake s <| .next (globalGo s)

/-- GLOBAL_START (R336): at the scheduled base tick every armed generator makes its start step. -/
def execGlobalStart (s : State) : Out := awake s <|
  match s.tmc.startAt with
  | none => .next s
  | some t =>
    if (devTime s).toNat < t.toNat ∨ mode s = 1 then .next s
    else
      let s1 := hubSetBit 0x10014 22 false { s with tmc := { s.tmc with startAt := none } }
      .next ((List.range 64).foldl (fun u g => if hubBit (genReg g) 23 u then genStart g u else u) s1)

/-- A write of TMC_GCTL.STOP (R336): every running generator is stopped from the next base tick on. -/
def globalStop (s : State) : State :=
  { s with tmc := { s.tmc with gens := s.tmc.gens.foldl (fun m (p : Nat × GenSt) =>
      smPut GenSt.reset m p.1 (if p.2.running ∧ p.2.stopAt.isNone then { p.2 with stopAt := some s.ticks } else p.2)) [] } }

/-- GENERATOR_STOP_ALL (R336). -/
def execGeneratorStopAll (s : State) : Out := awake s <| .next (globalStop s)

/-- Whether some generator runs, TMC_GSTAT.RUN. -/
def anyGenRuns (s : State) : Bool := s.tmc.gens.any fun p => genRuns p.1 s

/-- A write of ARM (R337): while generators run, an armed one makes its start step at the next base tick. -/
def genArm (g : Nat) (arm : Bool) (s : State) : State :=
  let t := hubSetBit (genReg g) 23 arm s
  if arm && !genRuns g s && anyGenRuns s then genPut g { genGet g t with startAt := some t.ticks } t
  else if !arm then genPut g { genGet g t with startAt := none } t
  else t

/-- GENERATOR_ARM (R337). -/
def execGeneratorArm (g : Fin 64) (s : State) : Out := awake s <| .next (genArm g.val true s)

/-- GENERATOR_DISARM (R337). -/
def execGeneratorDisarm (g : Fin 64) (s : State) : Out := awake s <| .next (genArm g.val false s)

/-- A write of a generator register (R333, R334, R337): INIT, the pattern and PLEN only while it is stopped. -/
def genWrite (g k : Nat) (v : Word) (s : State) : State :=
  let r := genReg g
  if k = 0 then
    if genRuns g s ∧ fld 14 8 v ≠ hubFld r 14 8 s then tmcRefuse s
    else
      let t := hubCodeWrite r (setBit 23 (hubBit r 23 s) v) s
      let x := genGet g t
      let u := if bitOf 22 v && x.updAt != t.ticks + 1 then genPut g { x with updAt := t.ticks + 1, updOld := hubBit r 22 s } t else t
      if bitOf 23 v != hubBit r 23 s then genArm g (bitOf 23 v) u else u
  else if 1 ≤ k ∧ k ≤ 3 then
    let x := genGet g s
    let t := if x.bufAt = s.ticks + 1 then s else genPut g { x with bufAt := s.ticks + 1, bufOld := genBuf g s } s
    hubCodeWrite (r + k) v t
  else if 4 ≤ k ∧ k ≤ 7 then (if genRuns g s then tmcRefuse s else hubCodeWrite (r + k) v s)
  else hubCodeWrite (r + k) v s

/-- TMC_CNT_W0_READ (R341, R35). -/
def execTmcCntW0Read (i : Fin 3) (m : Master) (s : State) : Out := awake s <| .next (readPairW0 (0x13000 + 2 * i.val) m s)

/-! ## Wake (R340) -/

/-- The steps k of 1 to `n` at which a compare against `cmp` fires for a count that starts at `v`: whether there is
one (R331). -/
def cmpPassed (v cmp : Word) (n : Nat) : Bool :=
  let e := (v + 1 - cmp).toNat
  decide (1 ≤ n) && (decide (e < 2 ^ 23) || decide (1 + (2 ^ 24 - e) ≤ n))

/-- Where the count of `cmpPassed` lies ahead of a compare value after `n` steps, in whole counts (R340). -/
def cmpBehind (v cmp : Word) (n : Nat) : Nat :=
  let e := (v + 1 - cmp).toNat
  if e < 2 ^ 23 then n + e - 1 else n - (1 + (2 ^ 24 - e))

/-- A counter makes up `n` steps (R340): its wrap event once, its armed compares that were passed once with LATE
and MISSED, a periodic one re-armed ahead of the count. -/
def cntCatchUp (i n : Nat) (s : State) : State :=
  let o := cntReg i + 1
  let v := hubGet o s
  let w : Word := v + BitVec.ofNat 24 n
  let s1 := hubPut o w s
  let s2 := if 2 ^ 24 ≤ v.toNat + n then fire (0x160 + i) s1 else s1
  (cmpChans i s2).foldl (fun t c =>
    let r := chReg c
    let cmp := hubGet (r + 1) t
    if hubBit (r + 6) 19 t && cmpPassed v cmp n then
      let t1 := hubSetBit (r + 6) 18 true (hubSetBit (r + 6) 20 true (hubSetBit (r + 6) 21 true (odCount 0xC063 0 t)))
      let iv := (hubGet (r + 2) t).toNat
      let t2 := if hubBit r 16 t then hubPut (r + 1) (cmp + BitVec.ofNat 24 ((cmpBehind v cmp n / iv + 1) * iv)) t1
                else hubSetBit (r + 6) 19 false t1
      fire (0x200 + c) t2
    else t) s2

/-- The timing unit makes up its counts after STANDBY (R340), between two device times in ns; the steps of the wake's base
tick are among them. -/
def tmcCatchUp (old new : BitVec 64) (s : State) : State :=
  let s1 := (List.range 32).foldl (fun t i =>
    let w := hubGet (cntReg i) t
    if bitOf 23 w ∧ fld 22 21 w = 0 then
      let n := new.toNat / 2 ^ fld 10 7 w - old.toNat / 2 ^ fld 10 7 w
      let carry := ((hubGet (cntReg i + 1) t).toNat + n) / 2 ^ 24
      let t0 := cntCatchUp i n t
      let t1 := { t0 with tmc := { t0.tmc with stepAt := smPut 0 t0.tmc.stepAt i (s.ticks + 1) } }
      let w' := hubGet (cntReg (i + 1)) t1
      if i % 2 = 0 ∧ bitOf 23 w' ∧ fld 22 21 w' = 2 ∧ carry ≠ 0 then cntCatchUp (i + 1) carry t1 else t1
    else t) s
  let gs := (List.range 64).filter fun g => genRuns g s1
  let missed := gs.filter fun g => hubBit (genReg g + 0xC) 23 s1
  let s2 := gs.foldl (fun t g => hubSetBit (genReg g + 0xC) 23 false t) s1
  let s3 := gs.foldl (fun t g =>
    if hubBit (genReg g) 20 t ∧ g ≠ 0 then t
    else
      let last := (genGet g t).lastAt
      let pre := 2 ^ hubFld (genReg g) 18 15 t
      let since := (s.ticks - last).toNat
      let n := since / pre - (since - (new - old).toNat) / pre
      let u := if hubBit (genReg g) 23 t ∨ n = 0 then (List.range n).foldl (fun u _ => genStep 64 true g u) t
        else genPut g { genGet g t with running := false } t
      genPut g { genGet g u with lastAt := s.ticks - BitVec.ofNat 64 (since % pre) } u) s2
  gs.foldl (fun t g =>
    let t1 := if hubBit (genReg g + 0xC) 23 t then fire (0x120 + g) t else t
    if missed.contains g then hubSetBit (genReg g + 0xC) 23 true t1 else t1) s3

/-! ## Register writes -/

/-- A write of TMC_GCTL: STOP and GO (R336). -/
def gctlWrite (v : Word) (s : State) : State :=
  let t := if bitOf 1 v then globalStop s else s
  if bitOf 0 v then globalGo t else t

/-- A write of a register of the timing unit, at an offset of the hub registers. -/
def tmcWrite (o : Nat) (v : Word) (s : State) : State :=
  if o < 0x10008 then bankWrite (o - 0x10000) v s
  else if o = 0x10010 then gctlWrite v s
  else if 0x10100 ≤ o ∧ o < 0x10200 then pinCfgWrite (o - 0x10100) v s
  else if 0x10200 ≤ o ∧ o < 0x10240 then
    (if o % 2 = 0 then cntCfgWrite ((o - 0x10200) / 2) v s else cntValWrite ((o - 0x10200) / 2) v s)
  else if 0x10300 ≤ o ∧ o < 0x10380 then
    (match (o - 0x10300) % 4 with
     | 0 => cgCtlWrite ((o - 0x10300) / 4) v s
     | 2 => if hubBit (cgReg ((o - 0x10300) / 4)) 23 s then tmcRefuse s else hubCodeWrite o v s
     | _ => hubCodeWrite o v s)
  else if 0x10380 ≤ o ∧ o < 0x10400 then
    (if o % 4 = 0 then egCtlWrite ((o - 0x10380) / 4) v s else hubCodeWrite o v s)
  else if 0x10400 ≤ o ∧ o < 0x10800 then genWrite ((o - 0x10400) / 0x10) ((o - 0x10400) % 0x10) v s
  else if 0x11000 ≤ o ∧ o < 0x13000 then
    (match (o - 0x11000) % 8 with
     | 0 => chCfgWrite ((o - 0x11000) / 8) v s
     | 1 => cmpWrite ((o - 0x11000) / 8) v s
     | 2 => if v = 0 ∨ 2 ^ 23 ≤ v.toNat then tmcRefuse s else hubCodeWrite o v s
     | _ => hubCodeWrite o v s)
  else hubCodeWrite o v s

end Sys2Proof.Machine
end

