-- ==== Sys2Proof/Machine/Time.lean ====
section
/-!
DEFINITION. Machine/Time.lean: the time base's commands other than its ticks, and the frame grid's
arithmetic (spec/02_time_and_frames.md R32–R73). The ticks themselves stand in Machine/Ticks.lean.
The model's own choices and readings (DEDUCED, DESIGN CHOICE, PRESUMED) are log entries 5 and 18 to 21.
-/
namespace Sys2Proof.Machine

/-! ## Mode and flags -/

/-- The scheduled queues of the network ports are discarded (R373). -/
def netDiscard (s : State) : State :=
  { s with net := s.net.foldl (fun m p => smPut PortSt.reset m p.1 { p.2 with sched := [] }) [] }

/-- Change the mode; a change fires source 0xC63 (R464). Entry into CONFIGURE, ARMED or SAFE_OUTPUT discards the
scheduled queues (R373), and links and pins take their safe values (R311, R338, R466). -/
def changeMode (m : Nat) (s : State) : State :=
  if mode s = m then s
  else
    let t := fire 0xC63 (setMode m s)
    if m = 4 ∨ m = 5 ∨ m = 9 then pinsSafe (linksSafe (netDiscard t)) else t

/-- The target of a waiting transition, PWR_MODE.PEND; 0xF is none (R464). -/
def modePend (s : State) : Nat := hubFld 0x60000 19 16 s

/-- Put PWR_MODE.PEND. -/
def setModePend (m : Nat) (s : State) : State := hubSetFld 0x60000 19 16 m s

/-- RUN, or RUN_DEGRADED while SPM_STAT.DEGR is not zero (R439). -/
def runMode (s : State) : Nat := if hubFld 0x50001 6 0 s = 0 then 6 else 7

/-- Whether the device is in RUN, RUN_DEGRADED or HOLD. -/
def runsModels (s : State) : Bool := mode s == 6 || mode s == 7 || mode s == 8

/-- Ask for SAFE_OUTPUT at the next base tick (R464, R467); only RUN, RUN_DEGRADED and HOLD leave for it. -/
def requestSafe (s : State) : State :=
  if runsModels s then setModePend 9 { s with pwr := { s.pwr with safeDue := true } } else s

/-- Set a bit of TB_FLAGS; each is an event source too (R342). -/
def tbFlag (i : Nat) (s : State) : State := fire (0x101 + i) (hubSetBit 0x100B i true s)

/-- Whether the time base ticks: it has power and is not in STANDBY, where the slow clock keeps device time (R468). -/
def timeRuns (s : State) : Bool := decide (mode s ≠ 0) && decide (mode s ≠ 1) && !s.pwr.trip

/-! ## The frame grid -/

/-- TB_FRAME_PERIOD in ns (R42). -/
def framePeriod (s : State) : Nat := hubFld 0x1010 19 0 s

/-- The base frame number that device time, ORIGIN and PERIOD give (R42). -/
def frameOfTime (s : State) : Nat :=
  let t := (devTime s).toNat
  let o := (hubTime 0x1011 s).toNat
  if t < o then 0 else (t - o) / (framePeriod s * 256) % 2 ^ 48

/-- Whether the current base tick is a base frame tick t(k) (R42). -/
def onGrid (s : State) : Bool :=
  let t := (devTime s).toNat
  let o := (hubTime 0x1011 s).toNat
  decide (o ≤ t) && decide ((t - o) % (framePeriod s * 256) = 0)

/-- Update TB_FRAME at a base tick (R42). -/
def syncFrame (s : State) : State := hubPutPair 0x1018 (BitVec.ofNat 48 (frameOfTime s)) s

/-- The divisor D of a cluster (R43). -/
def divisor (n : Cl) (s : State) : Nat := 2 ^ hubFld (0x1100 + n.val) 13 10 s

/-- The phase P of a cluster (R43). -/
def ratePhase (n : Cl) (s : State) : Nat := hubFld (0x1100 + n.val) 9 0 s

/-- Whether base frame `k` is a frame tick of VCn (R43). -/
def isFrameTick (n : Cl) (k : Nat) (s : State) : Bool := decide (k % divisor n s = ratePhase n s)

/-- TB_HOLD_ALIGN: the largest divisor over all clusters (R61). -/
def holdAlign (s : State) : Nat := allCl.foldl (fun m n => max m (divisor n s)) 1

/-- A write of TB_RATE_n, TB_FRAME_PERIOD or TB_ORIGIN (R42, R43, R48): refused while the grid runs or
outside the range. TB_HOLD_ALIGN follows the rates (R61). -/
def tbGridWrite (off : Nat) (v : Word) (s : State) : State :=
  let bad :=
    if off = 0x1010 then decide (fld 19 0 v < 250) || decide (1000000 < fld 19 0 v)
    else if 0x1100 ≤ off then decide (10 < fld 13 10 v) || decide (2 ^ fld 13 10 v ≤ fld 9 0 v)
    else false
  if gridRun s || bad then tbFlag 8 s
  else
    let t := hubCodeWrite off v s
    if 0x1100 ≤ off then hubSetFld 0x101C 10 0 (holdAlign t) t else t

/-! ## Grid actions -/

/-- Schedule a grid action at TB_GRID_AT, in place of a pending one (R46, R47). -/
def scheduleGrid (k : GridKind) (s : State) : State :=
  let a := hubTime 0x1014 s
  let late := decide (a.toNat ≤ (devTime s).toNat)
  let t := hubSetBit 0x100A 9 true
    { s with tb := { s.tb with action := some ⟨k, a, if late then some s.ticks else none⟩ } }
  if late then tbFlag 6 t else t

/-- GRID_START (R46–R48): ignored while the grid runs, refused outside ARMED. -/
def execGridStart (s : State) : Out := awake s <|
  .next (if gridRun s then s else if mode s ≠ 5 then tbFlag 8 s else scheduleGrid .start s)

/-- GRID_STOP (R46, R47): ignored while the grid is stopped. -/
def execGridStop (s : State) : Out := awake s <| .next (if gridRun s then scheduleGrid .stop s else s)

/-- GRID_HOLD (R46, R47, R61): refused while the grid is stopped, ignored while it is held. -/
def execGridHold (s : State) : Out := awake s <|
  .next (if !gridRun s then tbFlag 8 s else if holdActive s then s else scheduleGrid .hold s)

/-- GRID_RESUME (R46, R47, R61): refused while the grid is stopped, ignored while it is not held. -/
def execGridResume (s : State) : Out := awake s <|
  .next (if !gridRun s then tbFlag 8 s else if holdActive s then scheduleGrid .resume s else s)

/-- Whether the pending grid action takes effect at the current base frame tick (R46, R61); a late one at a base tick after
that of its write. -/
def gridDue (s : State) : Bool :=
  match s.tb.action with
  | none => false
  | some a =>
    onGrid s &&
      (match a.late with
       | some k => k != s.ticks
       | none => decide (a.at'.toNat ≤ (devTime s).toNat)) &&
      (match a.kind with
       | .hold | .resume => decide (frameOfTime s % hubFld 0x101C 10 0 s = 0)
       | _ => true)

/-- Take the pending grid action off. -/
def clearAction (s : State) : State := hubSetBit 0x100A 9 false { s with tb := { s.tb with action := none } }

/-! ## Steps, slewing and reads -/

/-- TB_STEP (R69): a write of STEP waits for the next base tick, or is refused while the grid runs. -/
def execTbStep (s : State) : Out := awake s <| .next (if gridRun s then tbFlag 5 s else hubSetBit 0x100A 0 true s)

/-- TB_SLEW_WRITE (R68, R69): the rate offset, clamped to ±100,000. -/
def execTbSlewWrite (v : Word) (s : State) : Out := awake s <|
  .next (
    if 100000 < v.toInt then tbFlag 4 (hubPut 0x1009 (BitVec.ofNat 24 100000) s)
    else if v.toInt < -100000 then tbFlag 4 (hubPut 0x1009 (BitVec.ofInt 24 (-100000)) s)
    else hubPut 0x1009 v s)

/-- TB_TIME_W0_READ (R35): the low bits are the answer, the upper 48 bits the reader's snapshot. -/
def execTbTimeW0Read (m : Master) (s : State) : Out := awake s <|
  .next (respond [(devTime s).extractLsb' 0 24] (snapPut 0x1000 (masterNum m) ((devTime s).extractLsb' 24 48) s))

/-- The key under which a cluster's own register keeps its snapshots. -/
def ioSnapReg (n : Cl) (off : Nat) : Nat := 2 ^ 24 + n.val * 2 ^ 13 + off

/-- Which of a cluster's own readers reads now: the normal bank (12) or the fast bank (13) (R37). -/
def bankReader (c : Cluster) : Nat := if ioBit 0x10 22 c then 13 else 12

/-- TB_LOCAL_W0_READ (R37): the island's replica, snapshotted for the register bank in use. -/
def execTbLocalW0Read (n : Cl) (s : State) : Out := awake s <|
  let t : Time72 := (s.cl n).localNs ++ (0#8)
  .next (respond [t.extractLsb' 0 24]
    (snapPut (ioSnapReg n 0x100) (bankReader (s.cl n)) (t.extractLsb' 24 48) s))

/-- TB_FRAME_W0_READ (R42, R35). -/
def execTbFrameW0Read (m : Master) (s : State) : Out := awake s <| .next (readPairW0 0x1018 m s)

/-- TB_SIM_W0_READ (R60, R35). -/
def execTbSimW0Read (m : Master) (s : State) : Out := awake s <| .next (readPairW0 0x101A m s)

/-! ## References -/

/-- The number of a reference as ACTIVE_REF codes it (R70). -/
def refNum : TimeRef → Nat
  | .syncIn => 0
  | .trefA => 1
  | .trefB => 2

/-- The TB_STATUS bit that says a reference is present. -/
def refBit : Nat → Nat
  | 0 => 4
  | 1 => 2
  | _ => 3

/-- The sources in priority order (R70): SYNC_IN first in follower role, then TB_REF_CFG's. The internal
oscillator (3) is always available. -/
def refOrder (s : State) : List Nat :=
  let o := ([hubFld 0x100C 1 0 s, hubFld 0x100C 3 2 s, hubFld 0x100C 5 4 s]).filter (· ≠ 0)
  (if hubFld 0x100D 1 0 s = 2 then [0] else []) ++ o ++ [3]

/-- Whether a source is present. -/
def refAvail (r : Nat) (s : State) : Bool := r == 3 || smAt false s.tb.refPresent r

/-- The first available source in priority order. -/
def bestRef (s : State) : Nat := ((refOrder s).find? (fun r => refAvail r s)).getD 3

/-- TB_STATUS.HOLDOVER follows whether an external reference remains; entering it sets its flag (R72). DESIGN CHOICE (log
entry 19): a reference that is present but that ROLE and TB_REF_CFG name nowhere does not count as remaining. -/
def syncHoldover (s : State) : State :=
  let ext := (refOrder s).any (fun r => r != 3 && refAvail r s)
  if ext then hubSetBit 0x100A 8 false s
  else if hubBit 0x100A 8 s then s
  else tbFlag 0 (hubSetBit 0x100A 8 true s)

/-- The time base takes another active reference (R70): REF_SWITCH. -/
def switchRef (r : Nat) (s : State) : State :=
  if hubFld 0x100A 7 6 s = r then s else tbFlag 1 (hubSetFld 0x100A 7 6 r s)

/-- What the time base knows of SYNC_IN's marks is void (R65). -/
def forgetMarks (s : State) : State :=
  hubSetBit 0x100A 5 false
    { s with tb := { s.tb with lockCount := 0, badMarks := 0, goodMark := none, repeatMark := none, align := 0 } }

/-- A reference is lost (R71, R72): the time base switches to the next available source where it was the active one. The
loss of a SYNC_IN that was a source sets SYNC_LOSS, whichever source is active. -/
def loseRef (r : Nat) (s : State) : State :=
  let had := decide (r = 0) && decide (hubFld 0x100D 1 0 s = 2) && smAt false s.tb.refPresent 0
  let s1 := hubSetBit 0x100A (refBit r) false
    { s with tb := { s.tb with refPresent := smPut false s.tb.refPresent r false, refSince := smPut 0 s.tb.refSince r 0 } }
  let s2 := if r = 0 then forgetMarks s1 else s1
  let s3 := if had then tbFlag 3 s2 else s2
  let s4 := if hubFld 0x100A 7 6 s3 = r then switchRef (bestRef s3) (odCount 0xC023 0 s3) else s3
  syncHoldover s4

/-- The priority order changed by a write of TB_REF_CFG or of ROLE (R70): an active reference that is no source any more is
left for the best one; a device that becomes a follower takes SYNC_IN where it is present (R65); else the active one
stays, as R73 says (log entry 19). -/
def reselectRef (enters : Bool) (s : State) : State :=
  let act := hubFld 0x100A 7 6 s
  syncHoldover
    (if !(refOrder s).contains act || !refAvail act s then switchRef (bestRef s) s
     else if enters && refAvail 0 s then switchRef 0 s
     else s)

/-- A write of TB_SYNC_CFG (R65, R66, R70): leaving follower role ends SYNC_LOCK. -/
def syncCfgWrite (v : Word) (s : State) : State :=
  let was := hubFld 0x100D 1 0 s
  let t := hubCodeWrite 0x100D v s
  let now := hubFld 0x100D 1 0 t
  if was = now then t else reselectRef (decide (now = 2)) (forgetMarks t)

/-- Whether a reference is there while the time base has no power: seen at the start of it alone (R468). -/
def refDark (k : Nat) (on : Bool) (s : State) : State :=
  { s with tb := { s.tb with refPresent := smPut false s.tb.refPresent k on } }

/-- REFERENCE_LOSS (R71, R72). -/
def execReferenceLoss (r : TimeRef) (s : State) : Out :=
  .next (if dark s then refDark (refNum r) false s else loseRef (refNum r) s)

/-- A reference is present from now on; its interval without loss begins (R73). -/
def presentRef (k : Nat) (s : State) : State :=
  if smAt false s.tb.refPresent k then s
  else
    syncHoldover (hubSetBit 0x100A (refBit k) true
      { s with tb := { s.tb with refPresent := smPut false s.tb.refPresent k true
                                 refSince := smPut 0 s.tb.refSince k s.ticks } })

/-- REFERENCE_RETURN (R73). -/
def execReferenceReturn (r : TimeRef) (s : State) : Out :=
  .next (if dark s then refDark (refNum r) true s else presentRef (refNum r) s)

/-- Whether a source precedes the active one in the priority order. -/
def refPrecedes (r : Nat) (s : State) : Bool :=
  decide ((refOrder s).idxOf r < (refOrder s).idxOf (hubFld 0x100A 7 6 s))

/-- REFERENCE_REVERT (R73): with REVERT = 1, back to a higher-priority reference present for 1 ms. The internal oscillator
is always present. -/
def execReferenceRevert (s : State) : Out := awake s <|
  let ready := (refOrder s).find? fun r =>
    refAvail r s && refPrecedes r s && (r == 3 || decide (10 ^ 6 ≤ (s.ticks - smAt 0 s.tb.refSince r).toNat))
  match hubBit 0x100C 7 s, ready with
  | true, some r => .next (syncHoldover (tbFlag 1 (hubSetFld 0x100A 7 6 r s)))
  | _, _ => .next s

/-- The residual phase of a compensated instant from the nearest multiple of 10 µs, in grains (R65). -/
def markResidual (t : Int) : Int :=
  let p : Int := 2560000
  let r := t % p
  if 2 * r < p then r else r - p

/-- What the check of R71 says of a mark: whether it stands in its place, how many marks in a row up to it are missing or
misplaced, and whether one of them is new. -/
structure MarkCheck where
  inPlace : Bool
  row     : Nat
  err     : Bool
deriving DecidableEq, Repr

/-- The check of a mark that arrives at `x` (R71): its expected instants are multiples of 10 µs after the last mark in its
place; a first mark has none (log entry 19). -/
def markCheck (x : Time72) (s : State) : MarkCheck :=
  match s.tb.goodMark with
  | none => ⟨true, 0, false⟩
  | some g =>
    let d := (x - g).toNat
    let k := (d + 1280000) / 2560000
    if 1024 < (markResidual d).natAbs ∨ k = 0 then ⟨false, max (s.tb.badMarks + 1) k, true⟩
    else ⟨true, k - 1, decide (s.tb.badMarks + 1 < k)⟩

/-- How much the next base tick adds to the count so that the mark falls at a multiple of 10 µs (R65): the residual in whole
ns. -/
def alignBy (r : Int) : BitVec 64 := BitVec.ofInt 64 (-((r + 128) / 256))

/-- SYNC_IN_MARK (R65, R66, R71): a follower compensates the mark by TB_SYNC_DELAY, takes its residual phase and aligns
device time by it; SYNC_LOCK holds after 1,000 marks in a row within ±256 grains; a missing mark, and one more than 4 ns
off its expected instant, sets MARK_ERR, and two in a row lose SYNC_IN. -/
def execSyncInMark (arrival : Time72) (s : State) : Out :=
  if hubFld 0x100D 1 0 s ≠ 2 ∨ !timeRuns s then .next s
  else
    let x := tickInstant arrival s
    let r := markResidual ((arrival.toNat : Int) - ((hubGet 0x100E s).toNat : Int))
    let k := if -256 ≤ r ∧ r ≤ 256 then min 1000 (s.tb.lockCount + 1) else 0
    let m := markCheck x s
    let p := presentRef 0 s
    let t := hubSetBit 0x100A 5 (decide (k = 1000)) (hubPut 0x100F (BitVec.ofInt 24 r)
      { p with tb := { p.tb with lockCount := k, repeatMark := some x
                                 badMarks := if m.inPlace then 0 else m.row
                                 goodMark := if m.inPlace then some x else p.tb.goodMark
                                 align := if m.inPlace then alignBy r else p.tb.align } })
    let u := if m.err then tbFlag 2 t else t
    .next (if 2 ≤ m.row then loseRef 0 u else u)

end Sys2Proof.Machine
end

