-- ==== Sys2Proof/Machine/Cxl.lean ====
section
/-!
DEFINITION. Machine/Cxl.lean: the CXL ports, HDM and the snoop filter, host memory, MSI-X, the mailboxes
and failover (spec/14_host_cxl.md R381–R402). The BAR accesses stand in Machine/Bars.lean.
The model's own choices and readings (DEDUCED, DESIGN CHOICE, PRESUMED) are log entries 8, 9, 13 and 54.
-/
namespace Sys2Proof.Machine

/-! ## Ports -/

/-- Port `p`. -/
def cxlPort (p : Nat) (s : State) : CxlPortSt := smAt CxlPortSt.reset s.cxl.ports p

/-- Put port `p`. -/
def cxlPutPort (p : Nat) (c : CxlPortSt) (s : State) : State :=
  { s with cxl := { s.cxl with ports := smPut CxlPortSt.reset s.cxl.ports p c } }

/-- Offset of CXL_PORTp_STAT. -/
def cxlStat (p : Nat) : Nat := 0x40010 + p

/-- Offset of port p's register block. -/
def cxlBlk (p : Nat) : Nat := 0x40000 + 0x100 * (p + 1)

/-- Whether the port is bifurcated, CXL_CFG.BIF (R383). -/
def cxlBif (s : State) : Bool := hubBit 0x40000 23 s

/-- Whether a port is up. -/
def cxlUp (p : Nat) (s : State) : Bool := hubBit (cxlStat p) 23 s

/-- Whether a port serves its partner's role. -/
def failedOver (p : Nat) (s : State) : Bool := hubBit (cxlStat p) 22 s

/-- Set an error bit of CXL_PORTp_ERR. -/
def cxlErr (p i : Nat) (s : State) : State := hubSetBit (0x40012 + p) i true s

/-- The code of a port's full width: x16, or x8 when bifurcated (R383). -/
def fullWidth (s : State) : Nat := if cxlBif s then 3 else 4

/-- Whether a port runs narrowed (R399, R439). -/
def narrowed (p : Nat) (s : State) : Bool := cxlUp p s && decide (hubFld (cxlStat p) 21 19 s < fullWidth s)

/-- Set a degrade reason of SPM_STAT.DEGR (R439). -/
def setDegr (bit : Nat) (b : Bool) (s : State) : State := hubSetBit 0x50001 bit b s

/-- Reason HOST holds while a port runs narrowed or serves its partner's role (R439). -/
def syncHost (s : State) : State :=
  setDegr 4 (narrowed 0 s || narrowed 1 s || failedOver 0 s || failedOver 1 s) s

/-- The port that plays the role of port `p` now (R395, R401). -/
def rolePort (p : Nat) (s : State) : Nat :=
  if !cxlBif s then 0 else if failedOver (1 - p) s then 1 - p else p

/-! ## MSI-X (R395, R396) -/

/-- What an MSI-X table word holds at reset: the mask bit of an entry's vector control (log entry 9). -/
def msixReset (k : Nat) : BitVec 32 := if k % 4 = 3 then 1 else 0

/-- A 32-bit word of port p's MSI-X table. -/
def msixGet (p k : Nat) (s : State) : BitVec 32 := smGet msixReset (cxlPort p s).msix k

/-- Put a word of port p's MSI-X table. -/
def msixPut (p k : Nat) (v : BitVec 32) (s : State) : State :=
  cxlPutPort p { cxlPort p s with msix := smSet msixReset (cxlPort p s).msix k v } s

/-- Whether vector `v` is masked at port `p`. -/
def msixMasked (p v : Nat) (s : State) : Bool := bitOf 0 (msixGet p (4 * v + 3) s)

/-- The port sends the message of vector `v`. -/
def msixSend (p v : Nat) (s : State) : State := { s with cxl := { s.cxl with sent := s.cxl.sent ++ [(p, v)] } }

/-- Raise vector `v`; it waits for MSIX_RAISE. -/
def raiseVec (v : Nat) (s : State) : State := { s with cxl := { s.cxl with raised := s.cxl.raised ++ [v] } }

/-- Raise a port event's vector at port `p`: kept with its port (R395). -/
def raisePort (p v : Nat) (s : State) : State := raiseVec (v + 2048 * (p + 1)) s

/-- The port a raised vector goes to (R395, R401). -/
def vecPort (e : Nat) (s : State) : Nat :=
  if 2048 ≤ e then e / 2048 - 1 else rolePort (hubBit (0x44000 + e) 22 s).toNat s

/-- Deliver vector `v` at port `p` (R396): dropped and counted while the port is down, pending while masked,
else sent. -/
def msixDeliver (p v : Nat) (s : State) : State :=
  if !cxlUp p s then odCount 0xC093 0 s
  else if msixMasked p v s then
    cxlPutPort p { cxlPort p s with pba := smPut false (cxlPort p s).pba v true } s
  else msixSend p v s

/-- MSIX_RAISE (R395, R396): the oldest waiting raise of this vector is delivered. -/
def execMsixRaise (v : BitVec 11) (s : State) : Out := awake s <|
  match s.cxl.raised.find? (fun e => e % 2048 == v.toNat) with
  | none => .next s
  | some e =>
    .next (msixDeliver (vecPort e s) v.toNat { s with cxl := { s.cxl with raised := s.cxl.raised.erase e } })

/-- Unmask an entry: a pending bit sends one merged message (R396). -/
def msixUnmask (p v : Nat) (s : State) : State :=
  let t := msixPut p (4 * v + 3) (setBit 0 false (msixGet p (4 * v + 3) s)) s
  let c := cxlPort p t
  if smAt false c.pba v then msixSend p v (cxlPutPort p { c with pba := smPut false c.pba v false } t) else t

/-- MSIX_UNMASK (R396). -/
def execMsixUnmask (p : CxlPort) (v : BitVec 11) (s : State) : Out := awake s <| .next (msixUnmask p.val v.toNat s)

/-! ## Mailboxes (R397, R398) -/

/-- The register base of mailbox `m`. -/
def mbReg (m : Nat) : Nat := 0x41000 + 0x400 * m

/-- A mailbox is busy. -/
def mbBusy (m : Nat) (s : State) : Bool := hubBit (mbReg m) 22 s

/-- MAILBOX_DOORBELL (R397). -/
def mailboxDoorbell (m : Nat) (s : State) : State :=
  if mbBusy m s then hubSetBit (mbReg m) 21 true s
  else fire (0xCC8 + m) (hubSetBit (mbReg m) 22 true
    { s with cxl := { s.cxl with mbs := smPut ⟨0⟩ s.cxl.mbs m ⟨s.ticks⟩ } })

/-- The server's answer to a request of mailbox `m` will be discarded (R398). -/
def mbLost (m : Nat) (s : State) : State :=
  { s with od := { s.od with waiting := s.od.waiting.map fun (w : Waiting) =>
    match w.path with
    | .mailbox k => if k.val = m then { w with path := .lost } else w
    | _ => w } }

/-- A mailbox completes: STATUS, BUSY = 0, its vector (R397, R398). -/
def mbComplete (m status : Nat) (s : State) : State :=
  raiseVec (32 + m) (hubSetBit (mbReg m) 22 false (hubSetFld (mbReg m) 15 0 status s))

/-- Place words in consecutive hub registers. -/
def hubPuts (off : Nat) (ws : List Word) (s : State) : State :=
  (ws.foldl (fun (p : Nat × State) w => (p.1 + 1, hubPut p.1 w p.2)) (off, s)).2

/-- Topsoil's response (R397): the words, RLEN and STATUS; one that comes while the mailbox is not busy is
discarded (R398). -/
def mailboxRespond (m status : Nat) (rsp : List Word) (s : State) : State :=
  if mbBusy m s then
    let ws := rsp.take 256
    mbComplete m status (hubSetFld (mbReg m + 2) 8 0 ws.length (hubPuts (mbReg m + 0x200) ws s))
  else s

/-- MAILBOX_RESPONSE (R397, R398): Topsoil's; while its unit is fenced the mailboxes wait (R441). -/
def execMailboxResponse (mb : Fin 8) (status : BitVec 16) (rsp : List Word) (s : State) : Out := awake s <|
  .next (if hubBit 0x50021 5 s then s else mailboxRespond mb.val status.toNat rsp s)

/-- MAILBOX_TIMEOUT (R398): busy TMO ms after its doorbell. -/
def execMailboxTimeout (mb : Fin 8) (s : State) : Out := awake s <|
  let tmo := hubFld (mbReg mb.val + 3) 15 0 s
  if mbBusy mb.val s ∧ tmo ≠ 0 ∧ tmo * 10 ^ 6 ≤ (s.ticks - (smAt ⟨0⟩ s.cxl.mbs mb.val).rungAt).toNat then
    .next (mbLost mb.val (mbComplete mb.val 0xFFFE s))
  else .next s

/-! ## The snoop filter and HDM (R389–R392) -/

/-- Whether host line `g` (64 bytes) overlaps deep line `l` (96 bytes) (R390). -/
def overlapsLine (l g : Nat) : Bool := decide (64 * g < 96 * l + 96) && decide (96 * l < 64 * g + 64)

/-- Port `p` back-invalidates the tracked host lines that overlap deep line `l`: only those the host may hold
modified when `modOnly` (R391). -/
def backInvalidate (p l : Nat) (modOnly : Bool) (s : State) : State :=
  let c := cxlPort p s
  cxlPutPort p { c with filter := c.filter.filter fun t => !(overlapsLine l t.line && (t.modified || !modOnly)) } s

/-- BACK_INVALIDATE (R391): `line` is the deep-store line that a device access is about to touch. -/
def execBackInvalidate (p : CxlPort) (line : Nat) (s : State) : Out := awake s <| .next (backInvalidate p.val line false s)

/-- A device-side access of a deep-store word first has the ports back-invalidate what their hosts hold
(R391). -/
def deepSnoop (write : Bool) (off : Nat) (s : State) : State :=
  backInvalidate 1 (lineOf off) (!write) (backInvalidate 0 (lineOf off) (!write) s)

/-- Read one word of memory as an agent whose requests are those of a master: a lock that another master holds on the target
holds it (R24), the hosts' lines are snooped (R391). -/
def memRead (m : Master) (g : Agent) (a : Nat) (s : State) : Acc × State :=
  if lockedFor m a s then (.held, s)
  else match regionOf a with
  | .deep off => agentRead g a (deepSnoop false off s)
  | _ => agentRead g a s

/-- Write one word of memory as an agent whose requests are those of a master. -/
def memWrite (m : Master) (g : Agent) (a : Nat) (v : Word) (s : State) : Acc × State :=
  if lockedFor m a s then (.held, s)
  else match regionOf a with
  | .deep off => agentWrite g a v (deepSnoop true off s)
  | _ => agentWrite g a v s

/-- Track a host line; a full filter (1 Mi lines) first gives up its least recently tracked line and raises
the overflow vector (R391, R395). -/
def track (p g : Nat) (modified : Bool) (s : State) : State :=
  let c := cxlPort p s
  let was := c.filter.any (fun t => t.line == g && t.modified)
  let others := c.filter.filter (fun t => t.line ≠ g)
  if 2 ^ 20 ≤ others.length then
    raisePort p 44 (cxlPutPort p { c with filter := others.drop 1 ++ [⟨g, modified || was⟩] } s)
  else cxlPutPort p { c with filter := others ++ [⟨g, modified || was⟩] } s

/-- The deep bytes that a host access of `k` bytes at an offset of a decoder reaches: the first byte, or none
outside the range (R389). -/
def hdmByte (p offset k : Nat) (s : State) : Option Nat :=
  if offset + k ≤ hubFld (cxlBlk p + 0x41) 8 0 s * 2 ^ 28 then
    some (hubFld (cxlBlk p + 0x40) 8 0 s * 2 ^ 28 + offset)
  else none

/-- Byte `b` of the deep store in the dense view (R384). -/
def deepByte (b : Nat) (s : State) : HByte := (memGet (0x1000000000 + b / 3) s).extractLsb' (8 * (b % 3)) 8

/-- Write byte `b` of the deep store (R384, R201). -/
def deepPutByte (b : Nat) (v : HByte) (s : State) : State :=
  let a := 0x1000000000 + b / 3
  memPut a (setFld (8 * (b % 3) + 7) (8 * (b % 3)) v.toNat (memGet a s)) s

/-- The lines of `size` bytes that `k` bytes from `b` on touch, ascending. -/
def touched (size b k : Nat) : List Nat :=
  if k = 0 then [] else (List.range ((b + k - 1) / size - b / size + 1)).map (· + b / size)

/-- A read returns `poison` in place of bytes: no word at all (log entry 13). -/
def poisoned : List Word := []

/-- HDM_ACCESS (R390–R392, R401): an offset from 2^40 on is of the host's decoder 1, which reaches the
partner's range after a failover and returns poison and discards writes before it. A read answers one byte a
word. -/
def execHdmAccess (p : CxlPort) (offset : Nat) (acc : HostAcc) (s : State) : Out := awake s <|
  let second := decide (2 ^ 40 ≤ offset)
  let q := if second then 1 - p.val else p.val
  let o := offset % 2 ^ 40
  if !cxlUp p.val s ∨ (second ∧ !cxlBif s) ∨ servicePause s then .next s
  else if (second ∧ !failedOver p.val s) ∨ (!second ∧ failedOver (1 - p.val) s) then
    match acc with
    | .read _ => .next (respond poisoned s)
    | .write _ => .next s
  else match acc with
  | .read k =>
    match hdmByte q o k s with
    | none => .next s
    | some b =>
      let t := (touched 64 b k).foldl (fun u g => track p.val g false u) s
      let bad := (touched 96 b k).filter (fun l => t.hbm.poisoned.contains l)
      if bad = [] then .next (respond ((List.range k).map fun i => (deepByte (b + i) t).setWidth 24) t)
      else .next (respond poisoned (cxlErr p.val 0 (odCount 0xC092 0 (bad.foldl (fun u l => deepUe l u) t))))
  | .write data =>
    match hdmByte q o data.length s with
    | none => .next s
    | some b =>
      let t := (touched 64 b data.length).foldl (fun u g => track p.val g true u) s
      let u := (data.foldl (fun (r : Nat × State) v => (r.1 + 1, deepPutByte r.1 v r.2)) (b, t)).2
      .next ((touched 96 b data.length).foldl (fun w l =>
        if b ≤ 96 * l ∧ 96 * l + 96 ≤ b + data.length then clearLine l w else w) u)

/-! ## Host memory (R393, R394) -/

/-- The port that device accesses to host memory use: A, or B when only B is up. -/
def hostPort (s : State) : Option Nat := if cxlUp 0 s then some 0 else if cxlUp 1 s then some 1 else none

/-- The host word of CXL.cache word `w` at port `p`: the hosts' memories lie side by side. -/
def hostWord (p w : Nat) (s : State) : Nat := p * 2 ^ 72 + (hubTime (cxlBlk p + 0x48) s).toNat / 4 + w

/-- The cached line of a port. -/
def cacheLine? (p l : Nat) (s : State) : Option CLine := (cxlPort p s).cache.find? (fun c => c.line == l)

/-- Write a modified line's words back to host memory. -/
def writeBack (c : CLine) (s : State) : State :=
  if c.modified then
    (List.range 16).foldl (fun t i => hostPut (16 * c.line + i) (smAt 0 c.words i) t) s
  else s

/-- Bring a host line into the device cache of 4,096 lines; the line that came first leaves a full cache. -/
def cacheFill (p l : Nat) (s : State) : State :=
  if (cacheLine? p l s).isSome then s
  else
    let c := cxlPort p s
    let t := if 4096 ≤ c.cache.length then (c.cache.take 1).foldl (fun u x => writeBack x u) s else s
    let keep := if 4096 ≤ c.cache.length then c.cache.drop 1 else c.cache
    let ws := (List.range 16).foldl (fun m i => smPut 0 m i (hostGet (16 * l + i) t)) []
    cxlPutPort p { c with cache := keep ++ [⟨l, ws, false⟩] } t

/-- A device access to host memory, word `w` from 0x80_0000_0000 on: the word read, 0 for a write, or none for
an error response. -/
def hostAccess (w : Nat) (wr : Option Word) (s : State) : Option Word × State :=
  match hostPort s with
  | none => (none, s)
  | some p =>
    if (hubPair (cxlBlk p + 0x4B) s).toNat ≤ 4 * w then (none, s)
    else
      let h := hostWord p w s
      let t := cacheFill p (h / 16) s
      match wr with
      | none => (some (smAt 0 ((cacheLine? p (h / 16) t).map (·.words) |>.getD []) (h % 16)), t)
      | some v =>
        let c := cxlPort p t
        (some 0, cxlPutPort p { c with cache := c.cache.map fun x =>
          if x.line = h / 16 then { x with words := smPut 0 x.words (h % 16) v, modified := true } else x } t)

/-- HOST_MEMORY_ACCESS (R393): a read answers the word, an error response nothing. -/
def execHostMemoryAccess (_m : Master) (w : BitVec 39) (wr : Option Word) (s : State) : Out :=
  let r := hostAccess w.toNat wr s
  .next (match wr, r.1 with
    | none, some v => respond [v] r.2
    | _, _ => respond [] r.2)

/-- Every modified line of a port becomes visible in host memory. -/
def cacheFlush (p : Nat) (s : State) : State :=
  let c := cxlPort p s
  let t := c.cache.foldl (fun u x => writeBack x u) s
  cxlPutPort p { c with cache := c.cache.map fun x => { x with modified := false } } t

/-- CXL_SYNC_READ (R394): every earlier device write is visible in host memory; SYNC reads 0. -/
def execCxlSyncRead (_m : Master) (s : State) : Out := awake s <| .next (respond [0] (cacheFlush 1 (cacheFlush 0 s)))

/-- A write of CXL_SYNC completes like a read of it (R394); SYNC holds nothing. -/
def syncWrite (s : State) : State := cacheFlush 1 (cacheFlush 0 s)

/-- HOST_SNOOP (R394): a modified line goes back to host memory; an invalidating snoop also drops the
line. `line` is the host line of the port's host, byte address / 64. -/
def execHostSnoop (p : CxlPort) (line : Nat) (kind : SnoopKind) (s : State) : Out := awake s <|
  let l := p.val * 2 ^ 68 + line
  match cacheLine? p.val l s with
  | none => .next (respond [] s)
  | some x =>
    let t := writeBack x s
    let c := cxlPort p.val t
    let cache := match kind with
      | .invalidate => c.cache.filter (fun y => y.line ≠ l)
      | .data => c.cache.map fun y => if y.line = l then { y with modified := false } else y
    .next (respond ((List.range 16).map fun i => smAt 0 x.words i) (cxlPutPort p.val { c with cache := cache } t))

/-! ## Link state and failover (R382, R399–R401) -/

/-- Put the width code of a port. -/
def putWidth (p w : Nat) (s : State) : State := hubSetFld (cxlStat p) 21 19 w s

/-- Whether the CXL unit is fenced (R441). -/
def cxlFenced (s : State) : Bool := hubBit 0x50021 4 s

/-- CXL_PORT_UP (R382, R383): a partner without 256-byte flits leaves the port untrained. -/
def execCxlPortUp (p : CxlPort) (flit256 : Bool) (width : Fin 5) (rate : Fin 4) (ide : Bool) (s : State) : Out := awake s <|
  if cxlUp p.val s ∨ cxlFenced s ∨ (p.val = 1 ∧ !cxlBif s) then .next s
  else if !flit256 then .next (cxlErr p.val 5 s)
  else
    let w := min width.val (fullWidth s)
    let t := hubSetBit (cxlStat p.val) 16 ide (hubSetFld (cxlStat p.val) 18 17 rate.val
      (putWidth p.val w (hubSetBit (cxlStat p.val) 23 true s)))
    .next (syncHost (fire (0xCC0 + p.val) (raisePort p.val 40 t)))

/-- The mailboxes of port `p` are aborted (R398). -/
def mbAbort (p : Nat) (s : State) : State :=
  (List.range 8).foldl (fun t m =>
    if mbBusy m t ∧ rolePort (hubBit (mbReg m) 20 t).toNat t = p then
      fire (0xCC8 + m) (mbLost m (mbComplete m 0xFFFF t))
    else t) s

/-- Poison every deep line that overlaps a host line the filter records as possibly modified (R400). -/
def poisonModified (p : Nat) (s : State) : State :=
  let gs := ((cxlPort p s).filter.filter (·.modified)).map (·.line)
  let ls := gs.flatMap (fun g => touched 96 (64 * g) 64)
  { s with hbm := { s.hbm with poisoned := ls.foldl (fun a l => if l ∈ a then a else a ++ [l]) s.hbm.poisoned } }

/-- A port goes down (R400). -/
def portDown (p : Nat) (s : State) : State :=
  if !cxlUp p s then s
  else
    let lost := ((cxlPort p s).cache.filter (·.modified)).length
    let s1 := poisonModified p (if lost = 0 then s else odAdd 0xC094 0 lost s)
    let s2 := cxlPutPort p { cxlPort p s1 with cache := [], filter := [], downAt := s1.ticks } s1
    let s3 := mbAbort p s2
    let s4 := hubSetFld (cxlStat p) 21 16 0 (hubSetBit (cxlStat p) 23 false s3)
    syncHost (fire (0xCC0 + p) (raisePort p 40 s4))

/-- CXL_PORT_DOWN (R400). -/
def execCxlPortDown (p : CxlPort) (s : State) : Out := awake s <| .next (portDown p.val s)

/-- A width change is counted, raises vector 41 and fires its source (R399). -/
def widthChange (p w : Nat) (s : State) : State :=
  syncHost (fire (0xCC2 + p) (raisePort p 41 (odCount 0xC090 0 (putWidth p w s))))

/-- CXL_LANE_DEGRADE (R399): to the widest working width below the present one. -/
def execCxlLaneDegrade (p : CxlPort) (width : Fin 5) (s : State) : Out := awake s <|
  if cxlUp p.val s ∧ width.val < hubFld (cxlStat p.val) 21 19 s then .next (widthChange p.val width.val s)
  else .next s

/-- CXL_WIDTH_RESTORE_TRY (R399): `width` is what works now. -/
def execCxlWidthRestoreTry (p : CxlPort) (width : Fin 5) (s : State) : Out := awake s <|
  if cxlUp p.val s ∧ hubFld (cxlStat p.val) 21 19 s < min width.val (fullWidth s) then
    .next (widthChange p.val (min width.val (fullWidth s)) s)
  else .next s

/-- Port `p` fails over to its partner (R401). -/
def failover (p : Nat) (s : State) : State :=
  if cxlBif s ∧ !cxlUp p s ∧ cxlUp (1 - p) s ∧ !failedOver (1 - p) s then
    syncHost (fire 0xCC4 (raisePort (1 - p) 42 (hubSetBit (cxlStat (1 - p)) 22 true s)))
  else s

/-- CXL_FAILOVER_TIMEOUT (R401): down for FO_HOLD ms with FO_AUTO = 1. -/
def execCxlFailoverTimeout (p : CxlPort) (s : State) : Out := awake s <|
  if hubBit 0x40000 22 s ∧ hubFld 0x40000 7 0 s * 10 ^ 6 ≤ (s.ticks - (cxlPort p.val s).downAt).toNat then
    .next (failover p.val s)
  else .next s

/-- FO_NOW: the port that is down fails over at once; with both up there is none (R401). -/
def foNow (s : State) : State := failover 1 (failover 0 s)

/-- CXL_FO_NOW (R401): port p, which is down, fails over at once. -/
def execCxlFoNow (p : CxlPort) (s : State) : Out := awake s <| .next (failover p.val s)

/-- Port p, up again, takes back the role that its partner carries (R401). -/
def roleBack (p : Nat) (s : State) : State :=
  syncHost (if failedOver (1 - p) s ∧ cxlUp p s then hubSetBit (cxlStat (1 - p)) 22 false s else s)

/-- FO_BACK (R401): a port that has come up again takes its role back. -/
def foBack (s : State) : State := roleBack 0 (roleBack 1 s)

/-- CXL_FO_BACK (R401): port p has come up again. -/
def execCxlFoBack (p : CxlPort) (s : State) : Out := awake s <| .next (roleBack p.val s)

/-! ## Register writes of the block -/

/-- Whether a range of `size` units from `base` may be port p's (R389). -/
def hdmAllowed (p base size : Nat) (s : State) : Bool :=
  let b := hubFld (cxlBlk (1 - p) + 0x40) 8 0 s
  let k := hubFld (cxlBlk (1 - p) + 0x41) 8 0 s
  decide (size = 0) || (decide (base + size ≤ 384) && (decide (k = 0) || decide (base + size ≤ b) || decide (b + k ≤ base)))

/-- A write of CXL_HDMp_DBASE or CXL_HDMp_SIZE (R389). -/
def hdmWrite (p : Nat) (isSize : Bool) (v : Word) (s : State) : State :=
  let base := if isSize then hubFld (cxlBlk p + 0x40) 8 0 s else fld 8 0 v
  let size := if isSize then fld 8 0 v else hubFld (cxlBlk p + 0x41) 8 0 s
  if hdmAllowed p base size s then hubCodeWrite (cxlBlk p + (if isSize then 0x41 else 0x40)) v s else cxlErr p 2 s

/-- A write of a word of CXL_HCAPp_k: word 3 installs the entry, or null when its tag fails (R387, R456). -/
def hcapWrite (p k w : Nat) (v : Word) (s : State) : State :=
  let o := cxlBlk p + 4 * k
  let t := hubCodeWrite (o + w) v s
  if w ≠ 3 then t
  else
    let c := capOfWords (hubGet o t) (hubGet (o + 1) t) (hubGet (o + 2) t) (hubGet (o + 3) t)
    let put (x : CapV) (u : State) : State :=
      cxlPutPort p { cxlPort p u with caps := smPut CapV.null (cxlPort p u).caps k x } u
    match loadCap t c with
    | some x => put x t
    | none => put CapV.null (tagFailed t)

/-- A write of a register of the CXL block, offset from the block's base. -/
def cxlWrite (o : Nat) (v : Word) (s : State) : State :=
  let off := 0x40000 + o
  if o = 0 then
    let t := hubCodeWrite off v s
    let u := if bitOf 21 v then foNow t else t
    if bitOf 20 v then foBack u else u
  else if o = 1 then syncWrite s
  else if 0x100 ≤ o ∧ o < 0x300 then
    let p := o / 0x100 - 1
    let r := o % 0x100
    if r < 0x20 then hcapWrite p (r / 4) (r % 4) v s
    else if r = 0x40 then hdmWrite p false v s
    else if r = 0x41 then hdmWrite p true v s
    else if (r = 0x48 ∨ r = 0x4B) ∧ fld 11 0 v ≠ 0 then cxlErr p 2 s
    else hubCodeWrite off v s
  else if 0x1000 ≤ o ∧ o < 0x3000 then
    let m := (o - 0x1000) / 0x400
    let r := o % 0x400
    if r = 0 then
      let t := hubCodeWrite off v s
      if bitOf 23 v then mailboxDoorbell m t else t
    else if 0x100 ≤ r ∧ r < 0x200 ∧ mbBusy m s then s
    else hubCodeWrite off v s
  else hubCodeWrite off v s

end Sys2Proof.Machine
end

