-- ==== Sys2Proof/Machine/Movers.lean ====
section
/-!
DEFINITION. Machine/Movers.lean: the registers of the 32 hub movers, starting and arming them
(spec/06_store_and_ownership.md R204–R208). The transfers stand in Machine/Transfers.lean.
The model's own choices and readings (DEDUCED, DESIGN CHOICE, PRESUMED) are log entries 39 to 41.
-/
namespace Sys2Proof.Machine

/-- The register base of mover `c`. -/
def mvReg (c : Nat) : Nat := 0x4000 + 0x20 * c

/-- STAT.BUSY of mover `c`. -/
def mvBusy (c : Nat) (s : State) : Bool := hubBit (mvReg c + 9) 23 s

/-- STAT.ARMED of mover `c`. -/
def mvArmed (c : Nat) (s : State) : Bool := hubBit (mvReg c + 9) 20 s

/-- The descriptor in hand of mover `c`. -/
def mvHand (c : Nat) (s : State) : Option MoverSt := smAt none s.movers c

/-- Put the descriptor in hand of mover `c`. -/
def mvPut (c : Nat) (d : Option MoverSt) (s : State) : State := { s with movers := smPut none s.movers c d }

/-- The descriptor that the registers of mover `c` hold. -/
def mvHead (c : Nat) (s : State) : MoverSt where
  src := (hubPair (mvReg c) s).setWidth 40
  dst := (hubPair (mvReg c + 2) s).setWidth 40
  len := hubGet (mvReg c + 4) s
  rows := hubGet (mvReg c + 5) s
  sstr := hubGet (mvReg c + 6) s
  dstr := hubGet (mvReg c + 7) s
  link := hubBit (mvReg c + 8) 20 s
  irq := hubBit (mvReg c + 8) 19 s
  nxt := (hubPair (mvReg c + 0xA) s).setWidth 40
  stop := none
  moved := 0
  old := []
  got := none

/-- A descriptor that moves no word (R204). -/
def MoverSt.empty (d : MoverSt) : Bool := decide (d.len = 0) || decide (d.rows = 0)

/-- The least address and the end of an extent of a descriptor: rows from `a`, `str` apart (R204). -/
def extentOf (a : GAddr) (str : Word) (d : MoverSt) : Int × Int :=
  let last : Int := a.toNat + str.toInt * (d.rows.toNat - 1 : Int)
  (min a.toNat last, max (a.toNat : Int) last + d.len.toNat)

/-- Whether a capability admits an extent with a permission (R205). -/
def extentOk (c : CapV) (e : Int × Int) (perm : Nat) : Bool :=
  c.valid && !capHas c.bits permIO && capHas c.bits perm && decide ((capBase c.bits : Int) ≤ e.1)
    && decide (e.2 ≤ (capBase c.bits + capLen c.bits : Nat))

/-- The capability in SCAP (offset 0xC) or DCAP (0x10) of mover `c`, its tag checked; a failed check is
counted (R205, R456). -/
def mvCap (c o : Nat) (s : State) : CapV × State :=
  let r := mvReg c + o
  match loadCap s (capOfWords (hubGet r s) (hubGet (r + 1) s) (hubGet (r + 2) s) (hubGet (r + 3) s)) with
  | some x => (x, s)
  | none => (CapV.null, tagFailed s)

/-- The check at the start of a descriptor: the stop code, or none (R205). A descriptor without words makes
no access and is not checked. -/
def mvCheck (c : Nat) (d : MoverSt) (s : State) : Option (BitVec 4) × State :=
  if d.empty then (none, s)
  else
    let a := mvCap c 0xC s
    if !extentOk a.1 (extentOf d.src d.sstr d) permRD then (some 1, a.2)
    else
      let b := mvCap c 0x10 a.2
      if !extentOk b.1 (extentOf d.dst d.dstr d) permWR then (some 2, b.2) else (none, b.2)

/-- The end of a transfer or list without error (R206, R208): DONE, the done source, the vector with IRQ; a
channel with TRIG_EN re-arms. -/
def mvDone (c : Nat) (irq : Bool) (s : State) : State :=
  let t := hubSetBit (mvReg c + 9) 23 false (hubSetBit (mvReg c + 9) 22 true (mvPut c none s))
  let u := hubSetBit (mvReg c + 9) 20 (hubBit (mvReg c + 8) 21 t) t
  let v := fire (0x840 + c) u
  if irq then raiseVec c v else v

/-- A stop with an error (R205, R206, R208). -/
def mvStop (c : Nat) (code : BitVec 4) (s : State) : State :=
  let t := hubSetFld (mvReg c + 9) 3 0 code.toNat (hubSetBit (mvReg c + 9) 23 false
    (hubSetBit (mvReg c + 9) 21 true (mvPut c none s)))
  fire (0x860 + c) (hubSetBit (mvReg c + 9) 20 false t)

/-- Start the head descriptor (R205, R206): its checks are made, and the transfer runs until
MOVER_TRANSFER_DONE. A single descriptor without words completes at once (R204). -/
def mvStart (c : Nat) (s : State) : State :=
  let d := mvHead c s
  let t := hubPutPair (mvReg c + 0x14) 0 (hubSetFld (mvReg c + 9) 3 0 0 (hubSetBit (mvReg c + 9) 20 false s))
  let r := mvCheck c d t
  match r.1 with
  | some code => mvStop c code r.2
  | none =>
    if d.empty && !d.link then mvDone c d.irq r.2
    else hubSetBit (mvReg c + 9) 23 true (mvPut c (some d) r.2)

/-- A write of ABORT reaches a channel (R206): a running one stops after the word in flight, an armed one is
disarmed. -/
def mvAbortMark (c : Nat) (s : State) : State :=
  match mvHand c s with
  | some d => mvPut c (some { d with stop := some 7 }) s
  | none => hubSetBit (mvReg c + 9) 20 false s

/-- The channel that a mover's CTL selects (R349). -/
def mvSel (v : Word) : Option Nat := if bitOf 21 v then some (fld 9 0 v) else none

/-- A write of PLOT_MVc_CTL (R206, R350): ABORT goes before GO; while BUSY nothing but ABORT counts. -/
def mvCtlWrite (c : Mover) (v : Word) (s : State) : State :=
  if mvBusy c s then (if bitOf 22 v then mvAbortMark c s else s)
  else
    let t := rebind (taskMover c) (mvSel v) (hubCodeWrite (mvReg c + 8) v s)
    if bitOf 22 v then mvAbortMark c t
    else if !bitOf 23 v then t
    else if bitOf 21 v then hubSetBit (mvReg c + 9) 20 true t
    else mvStart c t

/-- A write of a register of the mover block, offset from 0x40_0000_4000 (R206): ignored while BUSY, but for
STAT and ABORT. -/
def mvWrite (o : Nat) (v : Word) (s : State) : State :=
  let c : Mover := ⟨o / 0x20 % 32, Nat.mod_lt _ (by decide)⟩
  let r := o % 0x20
  if r = 8 then mvCtlWrite c v s
  else if r = 9 ∨ !mvBusy c s then hubCodeWrite (mvReg c + r) v s
  else s

/-- MOVER_GO (R206): a CTL write of GO = 1; `ctl` is the word written. -/
def execMoverGo (c : Mover) (ctl : Word) (s : State) : Out := awake s <| .next (mvCtlWrite c (setBit 23 true ctl) s)

/-- MOVER_TRIGGER (R206): the event that waits at the channel's task input starts one transfer of an armed
channel; while BUSY it is dropped and sets OVR. -/
def execMoverTrigger (c : Mover) (s : State) : Out := awake s <|
  if !taskWaits (taskMover c) s then .next s
  else
    let t := takeTask (taskMover c) s
    if mvBusy c t then .next (hubSetBit (mvReg c + 9) 19 true t)
    else if mvArmed c t then .next (mvStart c t)
    else .next t

/-- PLOT_MV_DONE_W0_READ (R208, R35). -/
def execPlotMvDoneW0Read (c : Mover) (m : Master) (s : State) : Out := awake s <| .next (readPairW0 (mvReg c + 0x14) m s)

end Sys2Proof.Machine
end

