-- ==== Sys2Proof/Machine/Net.lean ====
section
/-!
DEFINITION. Machine/Net.lean: the vehicle network ports and the CMAC engines
(spec/13_vehicle_networks.md R363–R380).
The model's own choices and readings (DEDUCED, DESIGN CHOICE, PRESUMED) are log entries 49 to 52.
-/
namespace Sys2Proof.Machine

/-! ## Ports -/

/-- Port `p`. -/
def netPort (p : Nat) (s : State) : PortSt := smAt PortSt.reset s.net p

/-- Put port `p`. -/
def netPut (p : Nat) (x : PortSt) (s : State) : State := { s with net := smPut PortSt.reset s.net p x }

/-- The register base of port `p`. -/
def npReg (p : Nat) : Nat := 0x30000 + 0x40 * p

/-- Whether the network group is fenced (R441). -/
def netFenced (s : State) : Bool := hubBit 0x50021 3 s

/-- Whether a port is enabled and up, in a mode whose outputs carry something (R466). -/
def netUp (p : Nat) (s : State) : Bool :=
  hubBit (npReg p) 23 s && hubBit (npReg p + 0xC) 23 s && !netFenced s && decide (4 ≤ mode s)

/-- Count in a port's counter at offset `o`. -/
def netCnt (p o : Nat) (s : State) : State := hubCount (npReg p + o) s

/-- A receive or transmit error is counted with the port and for all ports (R380). -/
def netErr (p o : Nat) (s : State) : State := odCount 0xC081 0 (netCnt p o s)

/-- A late frame (R51, R369). -/
def netLate (s : State) : State := fire 0x904 (odCount 0xC020 0 s)

/-- Bytes as packet data words (R365). -/
def packWords (bs : List HByte) : List Word := bytesWords bs

/-- The number of data words of LEN bytes (R365). -/
def dataWords (len : Nat) : Nat := (len + 2) / 3

/-- Word i of a packet; a missing word is 0. -/
def pkt (ws : List Word) (i : Nat) : Word := ws.getD i 0

/-- KIND of a packet. -/
def pktKind (ws : List Word) : Nat := fld 23 21 (pkt ws 0)

/-- TS of a packet. -/
def pktTs (ws : List Word) : Bool := bitOf 20 (pkt ws 0)

/-- LEN of a packet. -/
def pktLen (ws : List Word) : Nat := fld 13 0 (pkt ws 0)

/-- The instant of a packet (R365). -/
def pktTime (ws : List Word) : Time72 := pkt ws 3 ++ pkt ws 2 ++ pkt ws 1

/-- Whether a KIND has frames of `len` data bytes (R364): Ethernet frames are 64 to 9,216 bytes with their FCS. -/
def kindLen (kind len : Nat) : Bool := match kind with
  | 0 => decide (len ≤ 8)
  | 1 => decide (len ≤ 64)
  | 2 => decide (1 ≤ len) && decide (len ≤ 2048)
  | _ => decide (60 ≤ len) && decide (len ≤ 9212)

/-- Whether a KIND belongs to port `p`. -/
def kindOk (p kind : Nat) : Bool := if p < 32 then decide (kind ≤ 2) else decide (kind = 3)

/-- The words of a port's packet reach a queue in order, the last one as WR_LAST (R356, R367). -/
def pqWriteAll (f : Nat) : List Word → State → State
  | [], s => s
  | [w], s => pqPortWrite f w true s
  | w :: ws, s => pqWriteAll f ws (pqPortWrite f w false s)

/-- Write a packet into the port's RXQ when ROOM allows; false when it is dropped (R367). -/
def rxqPut (p : Nat) (ws : List Word) (s : State) : Bool × State :=
  let f := hubFld (npReg p + 1) 21 16 s
  if hubBit (npReg p + 1) 23 s ∧ hubBit (pqReg f) 23 s ∧ ws.length ≤ pqRoom f s then (true, pqWriteAll f ws s)
  else (false, s)

/-! ## Receive (R366, R367) -/

/-- A CAN frame with 0 in the bits that its KIND does not have (R365): SEC, SDT, VCID and AF are those of XL, whose
identifier is H5 [10:0]. -/
def canClean (fr : NetFrame) : NetFrame :=
  if fld 23 21 fr.h0 = 2 then
    { fr with h4 := fr.h4 &&& 0xF8FFFF, h5 := fr.h5 &&& 0x0007FF, h6 := fr.h6 &&& 0xFFFF1F }
  else { fr with h4 := fr.h4 &&& 0xF00000, h6 := fr.h6 &&& 0xFF001F, h7 := 0 }

/-- The 29-bit identifier of a CAN frame (R365). -/
def canId (fr : NetFrame) : Nat := fld 4 0 fr.h6 * 2 ^ 24 + fr.h5.toNat

/-- Whether filter `k` of port `p` matches (R366): IDE, and the identifier where mask bits are 1. -/
def fltMatch (p k : Nat) (fr : NetFrame) (s : State) : Bool :=
  let a := hubGet (npReg p + 0x20 + 2 * k) s
  let b := hubGet (npReg p + 0x21 + 2 * k) s
  let id := fld 20 0 a * 256 + fld 23 16 b
  let mask := fld 15 0 b * 2 ^ 13
  bitOf 23 a && (bitOf 22 a == bitOf 23 fr.h4) && decide ((id ^^^ canId fr) &&& mask = 0)

/-- Whether port `p` accepts a frame, and the index that H6 carries (R365, R366). -/
def rxAccept (p : Nat) (fr : NetFrame) (s : State) : Option Nat :=
  if !fr.crcOk ∨ !kindLen (if p < 32 then fld 23 21 fr.h0 else 3) fr.data.length then none
  else if p < 32 then (List.range 16).find? (fun k => fltMatch p k (canClean fr) s)
  else
    let dst := fr.data.take 6
    let own := (wordsBytes [hubGet (npReg p + 8) s, hubGet (npReg p + 9) s])
    let multi := bitOf 0 (dst.headD 0)
    if dst = own ∨ dst = List.replicate 6 0xFF ∨ (multi ∧ hubBit (npReg p) 11 s) ∨ hubBit (npReg p) 12 s then some 0xFF
    else none

/-- The packet of a received frame (R365). -/
def rxPacket (p idx : Nat) (fr : NetFrame) : List Word :=
  let kind := if p < 32 then fld 23 21 fr.h0 else 3
  let t : Time72 := setFld 3 0 0 fr.time
  let can := decide (p < 32)
  let fr := canClean fr
  [BitVec.ofNat 24 (kind * 2 ^ 21 + fr.data.length % 2 ^ 14),
    t.extractLsb' 0 24, t.extractLsb' 24 24, t.extractLsb' 48 24,
    if can then fr.h4 else 0, if can then fr.h5 else 0,
    if can then setFld 23 16 idx fr.h6 else setFld 23 16 idx 0, if can then fr.h7 else 0]
    ++ packWords fr.data

/-- NET_FRAME_RECEIVE (R366, R367). -/
def execNetFrameReceive (p : Port) (fr : NetFrame) (s : State) : Out := awake s <|
  if !hubBit (npReg p.val) 23 s ∨ netFenced s then .next s
  else match rxAccept p.val fr s with
  | none => .next (netErr p.val 0x10 s)
  | some idx =>
    let r := rxqPut p.val (rxPacket p.val idx fr) s
    .next (if r.1 then fire (0x880 + p.val) r.2 else odCount 0xC080 0 r.2)

/-! ## Gate states (R374) -/

/-- The gate-control base of a MAC. -/
def gclReg (mac : Nat) : Nat := npReg (32 + mac) + 0x20

/-- The active list, 0 for A and 1 for B. -/
def gclActive (mac : Nat) (s : State) : Nat := hubFld (gclReg mac) 20 20 s

/-- The length of a list. -/
def gclLen (mac l : Nat) (s : State) : Nat := if l = 0 then hubFld (gclReg mac) 6 0 s else hubFld (gclReg mac) 13 7 s

/-- CYCLE of a list in ns. -/
def gclCycle (mac l : Nat) (s : State) : Nat := (hubGet (gclReg mac + 2 + 4 * l) s).toNat

/-- BASE of a list in ns. -/
def gclBase (mac l : Nat) (s : State) : Nat := (hubTime (gclReg mac + 3 + 4 * l) s).toNat / 256

/-- The first cycle start of a list at or after an instant (R374). -/
def gclFirst (mac l t : Nat) (s : State) : Nat :=
  let b := gclBase mac l s
  let c := gclCycle mac l s
  if t ≤ b then b else b + (t - b + c - 1) / c * c

/-- Whether a list may become active (R375). -/
def gclOk (mac l : Nat) (s : State) : Bool :=
  decide (1 ≤ gclLen mac l s) && decide (gclLen mac l s ≤ 64) && decide (1 ≤ gclCycle mac l s)

/-- A word of a gate list. -/
def gclWord (mac l i : Nat) (s : State) : Word := hubGet (0x32000 + 0x100 * mac + 0x80 * l + i) s

/-- The entry that applies `d` ns into a cycle, from entry `e` on with `k` entries after it (R374), and for how many ns of
its interval it has still to apply; the last one to the cycle's end. -/
def gclEntry (mac l : Nat) (s : State) : Nat → Nat → Nat → Nat × Option Nat
  | 0, e, _ => (e, none)
  | k + 1, e, d =>
    let i := (gclWord mac l (2 * e + 1) s).toNat
    if d < i then (e, some (i - d)) else gclEntry mac l s k (e + 1) (d - i)

/-- The gate states of a list that is active since `at'`, and its entry, at an instant (R374), and for how many ns they
hold. -/
def listGates (mac l at' t : Nat) (s : State) : BitVec 8 × Nat × Nat :=
  let c0 := gclFirst mac l at' s
  if t < c0 then (0xFF, 0, c0 - t)
  else
    let d := (t - c0) % gclCycle mac l s
    let e := gclEntry mac l s (gclLen mac l s - 1) 0 d
    let left := gclCycle mac l s - d
    ((gclWord mac l (2 * e.1) s).setWidth 8, e.1, min left (e.2.getD left))

/-- The gate states and entry in force at an instant in ns from now on, a scheduled swap included (R374, R375), and for how
many ns they hold; with gate control off every gate is open. -/
def gatesAt (mac t : Nat) (s : State) : Option (BitVec 8 × Nat × Nat) :=
  let l := gclActive mac s
  let x := netPort (32 + mac) s
  if !hubBit (gclReg mac) 23 s then none
  else if hubBit (gclReg mac) 21 s then
    if x.swapAt ≤ t then some (listGates mac (1 - l) x.swapAt t s)
    else
      let g := listGates mac l x.listAt.toNat t s
      some (g.1, g.2.1, min g.2.2 (x.swapAt - t))
  else some (listGates mac l x.listAt.toNat t s)

/-- The gate states and entry in force now (R374): those of the list that ACTIVE names. -/
def gateNow (mac : Nat) (s : State) : BitVec 8 × Nat :=
  if !hubBit (gclReg mac) 23 s then (0xFF, 0)
  else
    let g := listGates mac (gclActive mac s) (netPort (32 + mac) s).listAt.toNat s.ns.toNat s
    (g.1, g.2.1)

/-- Whether the gate of a traffic class stays open for `d` ns from an instant on, through at most `k` changes (R370). -/
def gateStays (mac c : Nat) (s : State) : Nat → Nat → Nat → Bool
  | 0, _, d => decide (d = 0)
  | k + 1, t, d =>
    match gatesAt mac t s with
    | none => true
    | some (g, _, left) => bitOf c g && (decide (d ≤ left) || gateStays mac c s k (t + max 1 left) (d - max 1 left))

/-! ## Transmit (R368–R373) -/

/-- Whether an instant has been reached. -/
def reached (t : Time72) (s : State) : Bool := decide (t.toNat / 256 ≤ s.ns.toNat)

/-- The speed of a MAC in Mb/s, NET_PORTp_CFG.SPEED. -/
def macSpeed (p : Nat) (s : State) : Nat := [10, 100, 1000, 2500, 5000, 10000].getD (hubFld (npReg p) 15 13 s) 10

/-- So many byte times of a MAC in grains. -/
def macBytes (p k : Nat) (s : State) : Nat := (k * 8 * 1000 * 256 + macSpeed p s - 1) / macSpeed p s

/-- The longest duration of a packet's frame in grains (R370): of an Ethernet frame 8 bytes of preamble, its bytes and the
FCS. -/
def frameLongest (p : Nat) (ws : List Word) (s : State) : Nat :=
  if p < 32 then
    Config.canLongest (pktKind ws) (pktLen ws) (bitOf 23 (pkt ws 4)) (hubGet (npReg p + 5) s) (hubGet (npReg p + 6) s)
      (hubGet (npReg p + 7) s)
  else macBytes p (12 + pktLen ws) s

/-- How long a frame holds the line, in grains, with the interframe space: of Ethernet 12 byte times. -/
def frameHolds (p : Nat) (ws : List Word) (s : State) : Nat :=
  if p < 32 then
    min (frameLongest p ws s) (Config.canLasts ws (hubGet (npReg p + 5) s) (hubGet (npReg p + 6) s) (hubGet (npReg p + 7) s))
      + Config.canSpace (hubGet (npReg p + 5) s)
  else macBytes p (24 + pktLen ws) s

/-- Whether no frame of the port is still being sent, nor its interframe space (R370). -/
def lineFree (p : Nat) (s : State) : Bool := decide ((netPort p s).busyTo ≤ s.ticks.toNat * 256)

/-- The level of CAN_MODE of a port: 1 in the data phase of the XL frame that it sends (spec/20_electrical_package.md). -/
def canMode (p : Nat) (s : State) : Bool :=
  match (netPort p s).sent with
  | none => false
  | some f =>
    let now := s.ticks.toNat * 256
    let x := Config.canXlPhase f.words (hubGet (npReg p + 5) s) (hubGet (npReg p + 7) s)
    decide (p < 32) && decide (pktKind f.words = 2) && netUp p s && decide (mode s ≠ 1) && decide (now < (netPort p s).busyTo)
      && decide ((netPort p s).sendAt + x.1 ≤ now) && decide (now < (netPort p s).sendAt + x.2)

/-- Whether CAN_TXD of a port is recessive throughout: it sends nothing. -/
def canRecessive (p : Nat) (s : State) : Bool :=
  !netUp p s || mode s == 1 || lineFree p s || (netPort p s).sent.isNone

/-- A frame takes the line at an instant in grains of base ticks. -/
def lineTake (p : Nat) (ws : List Word) (at' : Nat) (s : State) : State :=
  netPut p { netPort p s with sendAt := at', busyTo := at' + frameHolds p ws s } s

/-- The instant within its base tick at which a timed frame is on time. -/
def onTime (f : SFrame) (timed : Bool) (s : State) : Bool := timed && decide (f.at'.toNat / 256 = s.ns.toNat)

/-- A frame leaves the port now; after its instant it is delayed (R370). -/
def netSend (p : Nat) (f : SFrame) (timed : Bool) (s : State) : State :=
  let start := s.ticks.toNat * 256 + (if onTime f timed s then f.at'.toNat % 256 else 0)
  let t := lineTake p f.words start (netPut p { netPort p s with sent := some f, retries := 0 } s)
  if timed ∧ f.at'.toNat / 256 < s.ns.toNat then
    odCount 0xC082 0 (netCnt p 0x16 (hubSetBit (npReg p + 0xC) 21 true t))
  else t

/-- The port's TXQ, while it is valid and enabled (R371). -/
def txqOf (p : Nat) (s : State) : Option Nat :=
  let f := hubFld (npReg p + 1) 13 8 s
  if hubBit (npReg p + 1) 15 s && hubBit (pqReg f) 23 s then some f else none

/-- The head packet of the port's TXQ with the cycle of its commit. -/
def txqHead (p : Nat) (s : State) : Option (BitVec 64 × List Word) :=
  match txqOf p s with
  | none => none
  | some f => (pqReadable (pqGet f s) s).head?

/-- Take the head packet off the port's TXQ, which frees its words (R358). -/
def txqPop (p : Nat) (s : State) : State :=
  match txqOf p s with
  | none => s
  | some f => pqPut f { pqGet f s with done := (pqGet f s).done.drop 1, freed := true } s

/-- Whether the mode lets the port send TXQ frames (R373). -/
def txqMode (p : Nat) (s : State) : Bool := runsModels s || hubBit (npReg p) 22 s

/-- Whether a TXQ packet is outside what the port supports (R371). -/
def txqBad (p : Nat) (ws : List Word) : Bool :=
  decide (ws.length < 8) || !kindOk p (pktKind ws) || !kindLen (pktKind ws) (pktLen ws)
    || decide (8 + (if p < 32 then 683 else 3071) < ws.length)

/-- Whether a timed TXQ packet is late: before 400 ns after its commit (R369). -/
def txqLate (cyc : BitVec 64) (ws : List Word) (s : State) : Bool :=
  decide (((pktTime ws).toNat : Int) - s.ns.toNat * 256 < ((cyc.toNat : Int) + 400 - s.ticks.toNat) * 256)

/-- A sent TXQ frame writes its confirmation packet with TXC = 1 and the instant at which it left (R371). -/
def txqConfirm (p : Nat) (ws : List Word) (s : State) : State :=
  if !hubBit (npReg p) 21 s then s
  else
    let t := if onTime ⟨pktTime ws, ws⟩ (pktTs ws) s then pktTime ws else devTime s
    let c := [setBit 19 true (setFld 20 0 0 (pkt ws 0)), t.extractLsb' 0 24, t.extractLsb' 24 24, t.extractLsb' 48 24,
      pkt ws 4, pkt ws 5, setFld 23 16 0 (pkt ws 6), pkt ws 7]
    let r := rxqPut p c s
    if r.1 then fire (0x8A8 + p) r.2 else r.2

/-- Send the head of the TXQ. -/
def txqSendHead (p : Nat) (ws : List Word) (s : State) : State :=
  txqConfirm p ws (netSend p ⟨pktTime ws, ws⟩ (pktTs ws) (txqPop p s))

/-- Whether a TS = 0 frame may start now (R370): no frame is being sent, it ends before the instant of the next timed frame, and for Ethernet within
an open gate of its class. -/
def txqFree (p : Nat) (ws : List Word) (s : State) : Bool :=
  let d := frameLongest p ws s
  let ns := (d + 255) / 256
  lineFree p s && (netPort p s).sched.all (fun f => decide (((devTime s).toNat : Int) + d < f.at'.toNat)) &&
    (decide (p < 32) || gateStays (p - 32) (fld 23 21 (pkt ws 4)) s (ns + 1) s.ns.toNat ns)

/-- The TS = 0 packets that wait in the port's TXQ (R371). -/
def txqUntimed (p : Nat) (s : State) : Nat :=
  match txqOf p s with
  | none => 0
  | some f => ((pqReadable (pqGet f s) s).filter fun h => !pktTs h.2 && !txqBad p h.2).length

/-- Discard the head packet and count it (R371). -/
def txqDrop (p : Nat) (s : State) : State := netCnt p 0x14 (txqPop p s)

/-- NET_FRAME_LAUNCH (R369, R370): the earliest due timed frame leaves, the scheduled queue first at one
instant, once the port sends no other. -/
def execNetFrameLaunch (p : Port) (s : State) : Out := awake s <|
  if !netUp p.val s ∨ !lineFree p.val s then .next s
  else
    let g := (netPort p.val s).sched.head?.filter (fun f => reached f.at' s)
    let x := (txqHead p.val s).filter (fun h =>
      txqMode p.val s && !txqBad p.val h.2 && pktTs h.2 && !txqLate h.1 h.2 s && reached (pktTime h.2) s)
    match g, x with
    | some f, some h =>
      if f.at'.toNat ≤ (pktTime h.2).toNat then
        .next (netSend p.val f true (netPut p.val { netPort p.val s with sched := (netPort p.val s).sched.drop 1 } s))
      else .next (txqSendHead p.val h.2 s)
    | some f, none =>
      .next (netSend p.val f true (netPut p.val { netPort p.val s with sched := (netPort p.val s).sched.drop 1 } s))
    | none, some h => .next (txqSendHead p.val h.2 s)
    | none, none => .next s

/-- TXQ_SEND (R369–R371, R373): the head packet is sent, or discarded where it is unsupported or late. With
TRIG.EN = 1 a TS = 0 packet needs a trigger. -/
def execTxqSend (p : Port) (s : State) : Out := awake s <|
  if !netUp p.val s ∨ !txqMode p.val s then .next s
  else match txqHead p.val s with
  | none => .next s
  | some h =>
    if txqBad p.val h.2 then .next (txqDrop p.val s)
    else if pktTs h.2 then
      if txqLate h.1 h.2 s then .next (netLate (txqPop p.val s))
      else if lineFree p.val s && reached (pktTime h.2) s && (netPort p.val s).sched.all (fun f => decide ((pktTime h.2).toNat < f.at'.toNat)) then
        .next (txqSendHead p.val h.2 s)
      else .next s
    else if !txqFree p.val h.2 s then .next s
    else if hubBit (npReg p.val + 2) 23 s then
      if 0 < (netPort p.val s).trigs then
        .next (txqSendHead p.val h.2 (netPut p.val { netPort p.val s with trigs := (netPort p.val s).trigs - 1 } s))
      else .next s
    else .next (txqSendHead p.val h.2 s)

/-- TXQ_TRIGGER (R371): a waiting event sends one waiting TS = 0 packet, at once or as soon as the port can; an event that
finds none that no earlier event has taken sets TRIGOVR. -/
def execTxqTrigger (p : Port) (s : State) : Out := awake s <|
  if !taskWaits (taskPort p) s then .next s
  else
    let t := takeTask (taskPort p) s
    let x := netPort p.val t
    if txqUntimed p.val t ≤ x.trigs then .next (hubSetBit (npReg p.val + 0xC) 20 true t)
    else
      let u := netPut p.val { x with trigs := x.trigs + 1 } t
      match txqHead p.val u with
      | some h =>
        if !pktTs h.2 && !txqBad p.val h.2 && netUp p.val u && txqMode p.val u && txqFree p.val h.2 u then
          .next (txqSendHead p.val h.2 (netPut p.val x u))
        else .next u
      | none => .next u

/-- CAN_BUS_ERROR (R372): the frame on the bus is retried up to RETRY times, then discarded and counted. -/
def execCanBusError (p : Port) (s : State) : Out := awake s <|
  match (netPort p.val s).sent with
  | none => .next s
  | some f =>
    if 32 ≤ p.val ∨ !netUp p.val s then .next s
    else if (netPort p.val s).retries < hubFld (npReg p.val) 19 16 s then
      .next (lineTake p.val f.words (s.ticks.toNat * 256)
        (netPut p.val { netPort p.val s with retries := (netPort p.val s).retries + 1 } s))
    else .next (netErr p.val 0x12 (netPut p.val { netPort p.val s with sent := none, retries := 0, busyTo := 0 } s))

/-- CAN_BUS_OFF (R372). -/
def execCanBusOff (p : Port) (s : State) : Out := awake s <|
  if 32 ≤ p.val ∨ !netUp p.val s then .next s
  else
    let t := netPut p.val { netPort p.val s with sched := [], sent := none, retries := 0, busyTo := 0 } s
    .next (fire (0x8D0 + p.val) (hubSetBit (npReg p.val + 0xC) 23 false (hubSetBit (npReg p.val + 0xC) 22 true t)))

/-- A CAN port rejoins the bus. -/
def canRejoin (p : Nat) (s : State) : State :=
  hubSetBit (npReg p + 0xC) 22 false (hubSetBit (npReg p + 0xC) 23 true s)

/-- CAN_BUS_OFF_RECOVERY (R372). -/
def execCanBusOffRecovery (p : Port) (s : State) : Out := awake s <|
  if p.val < 32 ∧ hubBit (npReg p.val) 23 s ∧ hubBit (npReg p.val) 20 s ∧ hubBit (npReg p.val + 0xC) 22 s then
    .next (canRejoin p.val s)
  else .next s

/-- NET_LINK_CHANGE (R380); the link of a fenced unit stays down (R441). -/
def execNetLinkChange (mac : Fin 8) (up : Bool) (s : State) : Out := awake s <|
  if hubBit (npReg (32 + mac.val) + 0xC) 23 s = up ∨ (up ∧ netFenced s) then .next s
  else .next (fire (0x8F8 + mac.val) (hubSetBit (npReg (32 + mac.val) + 0xC) 23 up s))

/-! ## Frame groups (R368) -/

/-- Whether a record's reserved bits are 0 (R365, R368). -/
def recordClean (ws : List Word) : Bool :=
  let h4 := pkt ws 4
  decide (fld 18 14 (pkt ws 0) = 0) &&
    (if pktKind ws = 3 then
       decide (fld 20 0 h4 = 0) && decide (pkt ws 5 = 0) && decide (fld 15 0 (pkt ws 6) = 0) && decide (pkt ws 7 = 0)
     else if pktKind ws = 2 then
       decide (fld 18 16 h4 = 0) && decide (fld 23 11 (pkt ws 5) = 0) && decide (fld 7 5 (pkt ws 6) = 0)
     else decide (fld 19 0 h4 = 0) && decide (fld 15 5 (pkt ws 6) = 0) && decide (pkt ws 7 = 0))

/-- Insert a frame in ascending instant, after frames of the same instant (R368). -/
def schedInsert (f : SFrame) : List SFrame → List SFrame
  | [] => [f]
  | x :: r => if f.at'.toNat < x.at'.toNat then f :: x :: r else x :: schedInsert f r

/-- A valid record enters the scheduled queue of 32 frames; a late one is discarded (R51, R369), one that
finds the queue full is counted (R368); in bus-off every one is discarded (R372). `t` is the commit point. -/
def schedAdd (p : Nat) (t : Time72) (ws : List Word) (s : State) : State :=
  if hubBit (npReg p + 0xC) 22 s then s
  else if (pktTime ws).toNat < t.toNat + 400 * 256 then netLate s
  else if 32 ≤ (netPort p s).sched.length then netCnt p 0x14 s
  else netPut p { netPort p s with sched := schedInsert ⟨pktTime ws, ws⟩ (netPort p s).sched } s

/-- The record at word `o` of a plot, whose words are `w` up to its end: its packet, the place of its trailer, and whether it is
valid on port `p` (R368). -/
def recordAt (p : Nat) (w : Nat → Option Word) (o : Nat) : Option (List Word × Nat × Bool) :=
  (w o).map fun h =>
    let len := fld 13 0 h
    let n := 8 + dataWords len
    let ws := (List.range n).map fun i => (w (o + i)).getD 0
    (ws, o + n, (w (o + n) == some (BitVec.ofNat 24 (0xC5 * 2 ^ 16 + len))) && pktTs ws && recordClean ws
      && kindOk p (pktKind ws) && kindLen (pktKind ws) len)

/-- Where the read of at most `k` records from word `o` on ends: behind the last one, or behind one that is discarded (R368). -/
def recordsEnd (p : Nat) (w : Nat → Option Word) : Nat → Nat → Nat
  | 0, o => o
  | k + 1, o =>
    match recordAt p w o with
    | none => o
    | some r => if r.2.2 then recordsEnd p w k (r.2.1 + 1) else r.2.1 + 1

/-- The records of a fill, at most `k` from word `o` on (R368): each trailer that is read is cleared through `clr`; a valid
record is scheduled, a discarded one ends the read and is counted. -/
def frameRecords (p : Nat) (t : Time72) (w : Nat → Option Word) (clr : Nat → State → State) : Nat → Nat → State → State
  | 0, _, s => s
  | k + 1, o, s =>
    match recordAt p w o with
    | none => s
    | some r =>
      let u := if (w r.2.1).isSome then clr r.2.1 s else s
      if r.2.2 then frameRecords p t w clr k (r.2.1 + 1) (schedAdd p t r.1 u) else netCnt p 0x14 u

/-- The frame group of port `p` reads its fill (R368, R437): with a refused or an uncorrectable word it adds nothing. -/
def frameFill (p plot ofs : Nat) (m : Cl) (other : Option Cl) (s : State) : State :=
  let at' (o : Nat) : Nat := plot * 0x1000 + o
  let own := plotRead m plot ofs s
  if !own.1 then own.2
  else match ioWords m (at' ofs) 1 own.2 with
  | ([some r], t) =>
    let k := min r.toNat (hubFld (npReg p + 3) 9 0 t)
    let w (o : Nat) : Option Word := if o < 0x1000 then some (memGet (xchgAddr m (at' o)) t) else none
    let span := min 0x1000 (recordsEnd p w k (ofs + 1)) - ofs
    let ws := ioWords m (at' ofs + 1) (span - 1) (pairCompare m other plot ofs span id t)
    if ws.1.any Option.isNone then ws.2
    else
      let clr (o : Nat) (u : State) : State := (m :: other.toList.filter fun c => ownerAdmits c (t.cl c) (16 + plot) .io).foldl (fun x c => memPut (xchgAddr c (at' o)) 0 x) u
      frameRecords p (devTime ws.2) w clr k (ofs + 1) ws.2
  | (_, t) => t

/-- A commit point of VCn (R368, R373, R437, R516): every enabled frame group of n reads its fill unless a missing
set holds its plot. -/
def netCommit (n : Cl) (src : FillSrc) (s : State) : State :=
  (List.range 40).foldl (fun t p =>
    let dst := hubGet (npReg p + 4) t
    let plot := dstPlot dst t
    if hubBit (npReg p + 3) 23 t && decide (clOf (fld 23 16 dst) = n) && !netFenced t then
      match src plot with
      | none => t
      | some (m, other) => frameFill p plot (fld 11 0 dst) m other t
    else t) s

/-! ## MDIO -/

/-- A write of NET_PORTp_MDIO_CMD (R364): ignored while an access runs. -/
def mdioWrite (mac : Nat) (v : Word) (s : State) : State :=
  if hubBit (npReg (32 + mac) + 0xA) 23 s then s else hubCodeWrite (npReg (32 + mac) + 0xA) v s

/-- MDIO_ACCESS (R364): a CMD write of GO = 1; GO reads 1 while the access runs. -/
def execMdioAccess (mac : Fin 8) (v : Word) (s : State) : Out := awake s <| .next (mdioWrite mac.val (setBit 23 true v) s)

/-- MDIO_ACCESS_COMPLETE (R364). -/
def execMdioAccessComplete (mac : Fin 8) (data : BitVec 16) (s : State) : Out := awake s <|
  let r := npReg (32 + mac.val) + 0xA
  if !hubBit r 23 s then .next s
  else
    let t := hubSetBit r 23 false s
    .next (if hubBit r 22 s then t else hubPut (r + 1) (data.setWidth 24) t)

/-! ## Gate lists (R374, R375) -/

/-- The gates follow their list. -/
def gateSync (mac : Nat) (s : State) : State :=
  let g := gateNow mac s
  netPut (32 + mac) { netPort (32 + mac) s with gates := g.1, entry := g.2 } s

/-- GATE_ENTRY_CHANGE (R374): at a base tick the gate states become those of the entry in force. -/
def execGateEntryChange (mac : Fin 8) (s : State) : Out := awake s <| .next (gateSync mac.val s)

/-- Refuse a gate-control write. -/
def gclRefuse (mac : Nat) (s : State) : State := hubSetBit (gclReg mac) 19 true s

/-- SWAP (R375): the inactive list takes over at its own first cycle start. -/
def gclSwap (mac : Nat) (s : State) : State :=
  let l := 1 - gclActive mac s
  if hubBit (gclReg mac) 21 s then s
  else if !gclOk mac l s then gclRefuse mac s
  else
    let t := hubSetBit (gclReg mac) 21 true s
    netPut (32 + mac) { netPort (32 + mac) t with swapAt := gclFirst mac l t.ns.toNat t } t

/-- GCL_SWAP (R375). -/
def execGclSwap (mac : Fin 8) (s : State) : Out := awake s <| .next (gclSwap mac.val s)

/-- GCL_SWAP_TAKEOVER (R375). -/
def execGclSwapTakeover (mac : Fin 8) (s : State) : Out := awake s <|
  let x := netPort (32 + mac.val) s
  if hubBit (gclReg mac.val) 21 s ∧ x.swapAt ≤ s.ns.toNat then
    let t := hubSetFld (gclReg mac.val) 20 20 (1 - gclActive mac.val s) (hubSetBit (gclReg mac.val) 21 false s)
    .next (gateSync mac.val (netPut (32 + mac.val) { x with listAt := BitVec.ofNat 64 x.swapAt } t))
  else .next s

/-- EN of gate control (R374, R375): from the write of EN = 1 until the first cycle start every gate is
open. -/
def gclEnable (mac : Nat) (en : Bool) (s : State) : State :=
  if en = hubBit (gclReg mac) 23 s then s
  else if !en then gateSync mac (hubSetBit (gclReg mac) 23 false s)
  else if !gclOk mac (gclActive mac s) s then gclRefuse mac s
  else
    let t := hubSetBit (gclReg mac) 23 true s
    gateSync mac (netPut (32 + mac) { netPort (32 + mac) t with listAt := t.ns } t)

/-- GCL_ENABLE (R374, R375). -/
def execGclEnable (mac : Fin 8) (en : Bool) (s : State) : Out := awake s <| .next (gclEnable mac.val en s)

/-- Whether a write to list `l` is ignored (R375): it is active, or a swap to it is pending. -/
def gclLocked (mac l : Nat) (s : State) : Bool :=
  if l = gclActive mac s then hubBit (gclReg mac) 23 s else hubBit (gclReg mac) 21 s

/-- A write of GCL_CTL (R374, R375): the lengths, CFGERR, EN and SWAP in this order. -/
def gclCtlWrite (mac : Nat) (v : Word) (s : State) : State :=
  let s0 := if bitOf 19 v then hubSetBit (gclReg mac) 19 false s else s
  let len (l hi lo : Nat) (t : State) : State :=
    if fld hi lo v = hubFld (gclReg mac) hi lo t then t
    else if gclLocked mac l t then gclRefuse mac t
    else hubSetFld (gclReg mac) hi lo (fld hi lo v) t
  let s1 := gclEnable mac (bitOf 23 v) (len 1 13 7 (len 0 6 0 s0))
  if bitOf 22 v then gclSwap mac s1 else s1

/-! ## CMAC engines (R376–R379) -/

/-- Engine `q`. -/
def cmGet (q : Nat) (s : State) : CmacSt := smAt CmacSt.reset s.cmac q

/-- Put engine `q`. -/
def cmPut (q : Nat) (x : CmacSt) (s : State) : State := { s with cmac := smPut CmacSt.reset s.cmac q x }

/-- The register base of engine `q`. -/
def cmReg (q : Nat) : Nat := 0x31000 + 0x400 * q

/-- Whether the carried capability covers a key slot's registers with KEY and `perm` (R376, R378). -/
def keyAuth (q slot perm : Nat) (cap : Cap) (s : State) : Bool :=
  let c := carried s cap
  covers c (0x4000000000 + cmReg q + 0x100 + 8 * slot) 6 && capHas c.bits permKEY && capHas c.bits perm

/-- Store word `w` of a key slot (R376): W0 clears VALID, W5 sets it. -/
def keyWrite (q slot w : Nat) (v : Word) (s : State) : State :=
  let e := cmGet q s
  let k := setFld (24 * w + 23) (24 * w) (if w = 5 then fld 7 0 v else v.toNat) (smAt 0 e.keys slot)
  let valid := if w = 0 then smPut false e.valid slot false else if w = 5 then smPut false e.valid slot true else e.valid
  cmPut q { e with keys := smPut 0 e.keys slot k, valid := valid } s

/-- CMAC_KEY_W0_WRITE (R376). -/
def execCmacKeyW0Write (q : Fin 4) (slot : Fin 64) (v : Word) (cap : Cap) (s : State) : Out := awake s <|
  .next (if keyAuth q slot permWR cap s then keyWrite q slot 0 v s else hubSetBit (cmReg q + 2) 20 true s)

/-- CMAC_KEY_W5_WRITE (R376). -/
def execCmacKeyW5Write (q : Fin 4) (slot : Fin 64) (v : Word) (cap : Cap) (s : State) : Out := awake s <|
  .next (if keyAuth q slot permWR cap s then keyWrite q slot 5 v s else hubSetBit (cmReg q + 2) 20 true s)

/-- The next message word enters the 704-word buffer (R378). -/
def msgWrite (q : Nat) (v : Word) (s : State) : State :=
  let e := cmGet q s
  if e.fill < 704 then cmPut q { e with buf := smPut 0 e.buf e.fill v, fill := e.fill + 1 } s else s

/-- CMAC_MSG_WRITE (R378). -/
def execCmacMsgWrite (q : Fin 4) (v : Word) (s : State) : Out := awake s <| .next (msgWrite q v s)

/-- The key of a slot: byte 0 in W0 bits [7:0] (R376). -/
def slotKey (k : BitVec 144) : BitVec 128 :=
  BitVec.ofNat 128 (beNat ((List.range 16).map fun i => k.extractLsb' (8 * i) 8))

/-- The freshness value that VERIFY reconstructs: the smallest value above the counter with the received low
bits; none past 48 bits (R378). -/
def verifyFv (ctr rx : DWord) (bits : Nat) : Option DWord :=
  let low := rx.toNat % 2 ^ bits
  let c := ctr.toNat / 2 ^ bits * 2 ^ bits + low
  let v := if ctr.toNat < c then c else c + 2 ^ bits
  if v < 2 ^ 48 then some (BitVec.ofNat 48 v) else none

/-- A JOB write starts a job or is refused with JOBERR (R378, R441); `auth` is the capability check. -/
def jobStart (q : Nat) (job : Word) (auth : Bool) (s : State) : State :=
  let e := cmGet q s
  let slot := fld 7 2 job
  let msgLen := hubFld (cmReg q + 1) 11 0 s
  let fvLen := hubFld (cmReg q + 1) 23 16 s
  if !auth ∨ hubBit (cmReg q + 2) 23 s ∨ !(smAt false e.valid slot) ∨ fld 22 16 job < 7 ∨ 2112 < msgLen ∨ netFenced s then
    hubSetBit (cmReg q + 2) 21 true s
  else
    let ctr := hubPair (0x33000 + 0x200 * q + 2 * fld 15 8 job) s
    let fv := if bitOf 23 job then some (ctr + 1) else verifyFv ctr (hubPair (cmReg q + 3) s) (8 * (fld 1 0 job + 1))
    let msg := (wordsBytes ((List.range 704).map fun i => smAt 0 e.buf i)).take msgLen
    let m := cmac (slotKey (smAt 0 e.keys slot)) (msg ++ beBytes fvLen (fv.getD 0).toNat)
    let blocks := max 1 ((msgLen + fvLen + 15) / 16)
    let j : CmacJob := ⟨job, fv, m, (List.range 6).map (fun i => hubGet (cmReg q + 5 + i) s),
      s.ticks + BitVec.ofNat 64 (40 + 12 * blocks)⟩
    hubSetBit (cmReg q + 2) 23 true (cmPut q { e with fill := 0, job := some j } s)

/-- CMAC_GEN (R378). -/
def execCmacGen (q : Fin 4) (job : Word) (cap : Cap) (s : State) : Out := awake s <|
  .next (jobStart q (setBit 23 true job) (keyAuth q (fld 7 2 job) permRD cap s) s)

/-- CMAC_VERIFY (R378). -/
def execCmacVerify (q : Fin 4) (job : Word) (cap : Cap) (s : State) : Out := awake s <|
  .next (jobStart q (setBit 23 false job) (keyAuth q (fld 7 2 job) permRD cap s) s)

/-- The most significant `k` bits of a MAC in six words, the first bit first in W0 (R378). -/
def macWords (m : BitVec 128) (k : Nat) : List Word :=
  let v := m.toNat / 2 ^ (128 - k) * 2 ^ (144 - k)
  (List.range 6).map fun i => BitVec.ofNat 24 (v / 2 ^ (24 * (5 - i)))

/-- Whether the first `k` bits of the words equal those of the MAC. -/
def macMatches (m : BitVec 128) (ws : List Word) (k : Nat) : Bool :=
  let v := ws.foldl (fun a w => a * 2 ^ 24 + w.toNat) 0
  decide (v / 2 ^ (144 - k) = m.toNat / 2 ^ (128 - k))

/-- CMAC_JOB_DONE (R378, R379): at the job's end the results are in place and source 0x900 + q fires. -/
def execCmacJobDone (q : Fin 4) (s : State) : Out := awake s <|
  match (cmGet q s).job with
  | none => .next s
  | some j =>
    if s.ticks.toNat < j.endAt.toNat then .next s
    else
      let bits := fld 22 16 j.job + 1
      let ctr := 0x33000 + 0x200 * q.val + 2 * fld 15 8 j.job
      let t := hubSetBit (cmReg q + 2) 23 false (cmPut q { cmGet q s with job := none } s)
      let u :=
        if bitOf 23 j.job then hubPutPair ctr (j.fv.getD 0) (hubPuts (cmReg q + 5) (macWords j.mac bits) t)
        else if j.fv.isSome && macMatches j.mac j.expect bits then
          hubSetBit (cmReg q + 2) 22 true (hubPutPair ctr (j.fv.getD 0) t)
        else odCount 0xC083 0 (hubSetBit (cmReg q + 2) 22 false t)
      .next (fire (0x900 + q.val) u)

/-- NET_CNT_W0_READ (R380, R35). -/
def execNetCntW0Read (p : Port) (i : Fin 4) (m : Master) (s : State) : Out := awake s <|
  .next (readPairW0 (npReg p.val + 0x10 + 2 * i.val) m s)

/-- NET_CM_FV_W0_READ (R377, R35). -/
def execNetCmFvW0Read (q : Fin 4) (c : Fin 256) (m : Master) (s : State) : Out := awake s <|
  .next (readPairW0 (0x33000 + 0x200 * q.val + 2 * c.val) m s)

/-! ## Register writes of the block -/

/-- A write of NET_PORTp_CFG: SPEED 6 and 7 are refused; a CAN port joins the bus when it is enabled (R372). -/
def netCfgWrite (p : Nat) (v : Word) (s : State) : State :=
  if 32 ≤ p ∧ 6 ≤ fld 15 13 v then s
  else
    let off := hubBit (npReg p + 0xC) 22 s
    let t := hubCodeWrite (npReg p) v s
    if 32 ≤ p then t
    else if !bitOf 23 v then hubSetBit (npReg p + 0xC) 23 false t
    else if off && bitOf 20 v then t
    else canRejoin p t

/-- A write of NET_PORTp_Q: a queue is TXQ of one port only. -/
def netQWrite (p : Nat) (v : Word) (s : State) : State :=
  let taken := (List.range 40).any fun r =>
    decide (r ≠ p) && hubBit (npReg r + 1) 15 s && decide (hubFld (npReg r + 1) 13 8 s = fld 13 8 v)
  if bitOf 15 v && taken then s else hubCodeWrite (npReg p + 1) v s

/-- A write of NET_PORTp_TRIG binds the port's task input (R349, R350, R371). -/
def netTrigWrite (p : Port) (v : Word) (s : State) : State :=
  rebind (taskPort p) (if bitOf 23 v then some (fld 9 0 v) else none) (hubCodeWrite (npReg p.val + 2) v s)

/-- A write of NET_PORTp_FG_CTL: EN = 1 with MAXREC = 0 leaves EN at 0 (R368). -/
def netFgWrite (p : Nat) (v : Word) (s : State) : State :=
  hubCodeWrite (npReg p + 3) (if fld 9 0 v = 0 then setBit 23 false v else v) s

/-- A write of a register of the network block, offset from 0x40_0003_0000. -/
def netWrite (o : Nat) (v : Word) (s : State) : State :=
  let off := 0x30000 + o
  if o < 0xA00 then
    let p := o / 0x40
    let r := o % 0x40
    if r = 0 then netCfgWrite p v s
    else if r = 1 then netQWrite p v s
    else if r = 2 then netTrigWrite ⟨p % 40, Nat.mod_lt _ (by decide)⟩ v s
    else if r = 3 then netFgWrite p v s
    else if p < 32 then hubCodeWrite off v s
    else if r = 0xA then mdioWrite (p - 32) v s
    else if r = 0x20 then gclCtlWrite (p - 32) v s
    else if 0x22 ≤ r ∧ r < 0x2A then
      if gclLocked (p - 32) ((r - 0x22) / 4) s then gclRefuse (p - 32) s else hubCodeWrite off v s
    else hubCodeWrite off v s
  else if 0x1000 ≤ o ∧ o < 0x2000 then
    let q := (o - 0x1000) / 0x400
    let r := o % 0x400
    if r = 0 then jobStart q v true s
    else if r = 0xB then msgWrite q v s
    else if 0x100 ≤ r ∧ r < 0x300 ∧ r % 8 < 6 then keyWrite q ((r - 0x100) / 8) (r % 8) v s
    else hubCodeWrite off v s
  else if 0x2000 ≤ o ∧ o < 0x2800 then
    let m := (o - 0x2000) / 0x100
    let l := o % 0x100 / 0x80
    if gclLocked m l s then gclRefuse m s else hubCodeWrite off v s
  else hubCodeWrite off v s

end Sys2Proof.Machine
end

