-- ==== Sys2Proof/Machine/VecOps.lean ====
section
/-!
DEFINITION. Machine/VecOps.lean: the vector orders as values: the fields of an order, its opcodes and
their order faults (spec/03_vector_orders.md R82–R97), and what each order computes from its operands
(spec/03_vector_orders.md R88–R91, spec/04_numerics.md R114–R145).
The model's own choices and readings (DEDUCED, DESIGN CHOICE, PRESUMED) are log entries 25, 26, 28, 71 and 72.
-/
namespace Sys2Proof.Machine

/-! ## Fields (R83, R84) -/

/-- OPC. -/
def oOpc (o : Order96) : Nat := fld 95 86 o
/-- TYPE (R85). -/
def oTy (o : Order96) : Nat := fld 85 82 o
/-- DST. -/
def oDst (o : Order96) : Nat := fld 81 78 o
/-- SRC1, SRC2 or SRC3. -/
def oSrc (o : Order96) (j : Nat) : Nat := if j = 1 then fld 77 74 o else if j = 2 then fld 73 70 o else fld 69 66 o
/-- MSEL (R90). -/
def oMsel (o : Order96) : Nat := fld 65 62 o
/-- CG (R94). -/
def oCg (o : Order96) : Bool := bitOf 61 o
/-- CO (R95). -/
def oCo (o : Order96) : Bool := bitOf 60 o
/-- CI (R95). -/
def oCi (o : Order96) : Bool := bitOf 59 o
/-- RND (R86). -/
def oRnd (o : Order96) : Nat := fld 58 56 o
/-- SCAL (R87). -/
def oScal (o : Order96) : Nat := fld 55 51 o
/-- QS. -/
def oQs (o : Order96) : Nat := fld 50 45 o
/-- SAT. -/
def oSat (o : Order96) : Bool := bitOf 44 o
/-- MZ (R90). -/
def oMz (o : Order96) : Bool := bitOf 43 o
/-- TEE (R95). -/
def oTee (o : Order96) : Bool := bitOf 42 o
/-- XT: VCVT's target type. -/
def oXt (o : Order96) : Nat := fld 41 38 o
/-- FN: VCMP's condition. -/
def oFn (o : Order96) : Nat := fld 37 34 o
/-- SH: the shift count. -/
def oSh (o : Order96) : Nat := fld 33 28 o
/-- MD: the mask register. -/
def oMd (o : Order96) : Nat := fld 27 24 o
/-- ISS (R97). -/
def oIss (o : Order96) : Nat := fld 18 17 o

/-! ## Types (R85, R114, R115) -/

/-- The class of a TYPE: 0 F, 1 I, 2 Q, 3 U. -/
def tyClass (t : Nat) : Nat := t / 2
/-- Whether a TYPE is floating point. -/
def tyF (t : Nat) : Bool := tyClass t == 0
/-- Whether a TYPE is unsigned. -/
def tyU (t : Nat) : Bool := tyClass t == 3
/-- Whether a TYPE is fixed point. -/
def tyQ (t : Nat) : Bool := tyClass t == 2
/-- The words of an element. -/
def tyWords (t : Nat) : Nat := t % 2 + 1
/-- The bits of an element. -/
def tyBits (t : Nat) : Nat := 24 * tyWords t
/-- The format of a floating-point TYPE. -/
def tyFmt (t : Nat) : Fmt := if t % 2 = 0 then f24 else f48
/-- The value of an integer, unsigned or raw Q pattern. -/
def tyInt (t : Nat) (x : DWord) : Int :=
  let v : Int := x.toNat % 2 ^ tyBits t
  if tyU t || decide (v < 2 ^ (tyBits t - 1)) then v else v - 2 ^ tyBits t

/-! ## Opcodes (R88) -/

/-- The orders of R88. -/
inductive VOp where
  | vadd | vsub | vrsub | vadds | vabs | vneg | vmin | vmax | vcmp | vsel | vclmp
  | vmul | vmuls | vfma | vfms | vaxpy
  | vrcp | vdiv | vsqrt | vrsqrt
  | vand | vor | vxor | vnot | vshl | vshr | vsar | vcvt | vmov | vfill | mld | mst | mcnt
  | rsum | rdot | rsumsq | rmax | rmin | rimax | rsegdot | rsegsum
  | viota | vcmpr | vexpd | vintp
deriving DecidableEq, Repr

/-- The opcode table of R88. -/
def vopTable : List (Nat × VOp) := [
  (0x000, .vadd), (0x001, .vsub), (0x002, .vrsub), (0x003, .vadds), (0x004, .vabs), (0x005, .vneg),
  (0x006, .vmin), (0x007, .vmax), (0x008, .vcmp), (0x009, .vsel), (0x00A, .vclmp),
  (0x040, .vmul), (0x041, .vmuls), (0x042, .vfma), (0x043, .vfms), (0x044, .vaxpy),
  (0x080, .vrcp), (0x081, .vdiv), (0x082, .vsqrt), (0x083, .vrsqrt),
  (0x0C0, .vand), (0x0C1, .vor), (0x0C2, .vxor), (0x0C3, .vnot), (0x0C4, .vshl), (0x0C5, .vshr),
  (0x0C6, .vsar), (0x0C7, .vcvt), (0x0C8, .vmov), (0x0C9, .vfill), (0x0CA, .mld), (0x0CB, .mst),
  (0x0CC, .mcnt),
  (0x100, .rsum), (0x101, .rdot), (0x102, .rsumsq), (0x103, .rmax), (0x104, .rmin), (0x105, .rimax),
  (0x107, .rsegdot), (0x108, .rsegsum),
  (0x140, .viota), (0x141, .vcmpr), (0x142, .vexpd), (0x143, .vintp)]

/-- The operation an OPC names; the table does not list every one. -/
def vopOf (opc : Nat) : Option VOp := (vopTable.find? (fun p => p.1 == opc)).map (·.2)

/-- The pipes, streams and special units of R96, as counts. -/
structure Need where
  mul : Nat
  add : Nat
  rcp : Nat
  log : Nat
  red : Nat
  idx : Nat
  rs  : Nat
  ws  : Nat
  ind : Nat
  tab : Nat
deriving DecidableEq, Repr

/-- Nothing needed. -/
def Need.zero : Need := ⟨0, 0, 0, 0, 0, 0, 0, 0, 0, 0⟩

/-- Two needs together. -/
def Need.plus (a b : Need) : Need :=
  ⟨a.mul + b.mul, a.add + b.add, a.rcp + b.rcp, a.log + b.log, a.red + b.red, a.idx + b.idx,
    a.rs + b.rs, a.ws + b.ws, a.ind + b.ind, a.tab + b.tab⟩

/-- What the vector unit holds (R96, R156). -/
def Need.limit : Need := ⟨4, 4, 1, 2, 1, 1, 6, 3, 1, 1⟩

/-- The needs that exceed the limit, as a 0/1 count for each. -/
def Need.over (a : Need) : List Bool :=
  let l := Need.limit
  [decide (l.mul < a.mul), decide (l.add < a.add), decide (l.rcp < a.rcp), decide (l.log < a.log),
    decide (l.red < a.red), decide (l.idx < a.idx), decide (l.rs < a.rs), decide (l.ws < a.ws),
    decide (l.ind < a.ind), decide (l.tab < a.tab)]

/-- Whether a need fits the limit. -/
def Need.fits (a : Need) : Bool := !(a.over.any id)

/-- The pipes of an order (R88). -/
def vopPipes (v : VOp) : Need :=
  let z := Need.zero
  match v with
  | .vadd | .vsub | .vrsub | .vadds | .vabs | .vneg | .vmin | .vmax | .vcmp | .vsel | .vclmp => { z with add := 1 }
  | .vmul | .vmuls => { z with mul := 1 }
  | .vfma | .vfms | .vaxpy => { z with mul := 1, add := 1 }
  | .vrcp | .vdiv | .vsqrt | .vrsqrt => { z with rcp := 1 }
  | .vand | .vor | .vxor | .vnot | .vshl | .vshr | .vsar | .vcvt | .vmov | .vfill | .mld | .mst | .mcnt =>
    { z with log := 1 }
  | .rsum | .rmax | .rmin | .rimax | .rsegsum => { z with red := 1 }
  | .rdot | .rsumsq | .rsegdot => { z with mul := 1, red := 1 }
  | .viota | .vcmpr | .vexpd => { z with idx := 1 }
  | .vintp => { z with idx := 1, mul := 1, add := 1, tab := 1 }

/-- The classes an order takes, as bits F 1, I 2, Q 4, U 8 (R88). MLD, MST and MCNT take TYPE 0x6 alone. -/
def vopClasses (v : VOp) : Nat :=
  match v with
  | .vadd | .vsub | .vrsub | .vadds | .vabs | .vneg | .vmul | .vmuls | .rsum | .rdot | .rsegdot | .rsegsum => 7
  | .vmin | .vmax | .vcmp | .vsel | .vclmp | .vcvt | .vmov | .vfill | .rmax | .rmin | .rimax | .vcmpr | .vexpd => 15
  | .vfma | .vfms | .vaxpy => 5
  | .vrcp | .vdiv | .vsqrt | .vrsqrt | .rsumsq | .vintp => 1
  | .vand | .vor | .vxor | .vnot | .viota => 10
  | .vshl => 14
  | .vshr => 8
  | .vsar => 6
  | .mld | .mst | .mcnt => 8

/-- How many of SRC1 to SRC3 are data operands (R88). VINTP's second is its table. -/
def vopSrcs (v : VOp) : Nat :=
  match v with
  | .vfill | .viota | .mst | .mcnt => 0
  | .vadds | .vabs | .vneg | .vmuls | .vrcp | .vsqrt | .vrsqrt | .vnot | .vshl | .vshr | .vsar | .vcvt | .vmov
  | .mld | .rsum | .rsumsq | .rmax | .rmin | .rimax | .rsegsum | .vcmpr | .vexpd => 1
  | .vadd | .vsub | .vrsub | .vmin | .vmax | .vcmp | .vsel | .vmul | .vaxpy | .vdiv | .vand | .vor | .vxor
  | .rdot | .rsegdot | .vintp => 2
  | .vclmp | .vfma | .vfms => 3

/-- Whether an order reads the scalar k (R88). -/
def vopK (v : VOp) : Bool :=
  match v with
  | .vadds | .vmuls | .vaxpy | .vfill | .rsum | .rdot | .rsumsq | .rsegdot | .rsegsum | .viota => true
  | _ => false

/-- Whether an order is of the RED class. -/
def vopRed (v : VOp) : Bool := (vopPipes v).red == 1

/-- Whether an order has segments (R88). -/
def vopSeg (v : VOp) : Bool := v == .rsegdot || v == .rsegsum

/-- Whether an order's result is bits of a mask (R88). -/
def vopBits (v : VOp) : Bool := v == .vcmp || v == .mld || v == .mst || v == .mcnt

/-- Whether MSEL governs an order: MCNT counts its mask register whole (R78). -/
def vopMasked (v : VOp) : Bool := v != .mcnt

/-! ## The scalar k (R87, R118) -/

/-- A constant of R87 with its exact value, for 0x10 to 0x1B. -/
def constVal (scal : Nat) : Dy :=
  match scal with
  | 0x10 => ⟨0, 0⟩
  | 0x11 => ⟨1, 0⟩
  | 0x12 => ⟨2, 0⟩
  | 0x13 => ⟨-1, 0⟩
  | 0x14 => ⟨1, -1⟩
  | 0x15 => ⟨1, -2⟩
  | 0x16 => ⟨4, 0⟩
  | 0x17 => ⟨8, 0⟩
  | 0x18 => ⟨3, 0⟩
  | 0x19 => ⟨10, 0⟩
  | 0x1A => ⟨-1, -1⟩
  | _ => ⟨1, -16⟩

/-- A constant at an integer, unsigned or Q TYPE, or none where the type cannot represent it (R87). -/
def constInt (t qs scal : Nat) : Option DWord :=
  let r := intRange (tyBits t) (tyU t)
  match scal with
  | 0x1C => some (intPat (tyBits t) r.2)
  | 0x1D => some 1
  | 0x1E => none
  | 0x1F => none
  | _ =>
    let v := constVal scal
    let k := roundInt 1 ⟨v.m, v.e + (if tyQ t then qs else 0)⟩
    if k.2 ∨ k.1 < r.1 ∨ r.2 < k.1 then none else some (intPat (tyBits t) k.1)

/-- A constant at a floating-point TYPE (R87). -/
def constF (t rnd scal : Nat) : DWord :=
  let f := tyFmt t
  match scal with
  | 0x1C => f.big false
  | 0x1D => f.mk' false (2 ^ f.fw)
  | 0x1E => f.inf false
  | 0x1F => f.inf true
  | _ => (roundDy f rnd (constVal scal) false).1

/-- The scalar k of an order whose SCAL names the f register value `f48v` or a constant (R87, R118); none
for a constant that TYPE cannot represent. DESIGN CHOICE (log entry 72): the k of a signalling NaN is quiet, so that no element
that uses it raises NV for it. -/
def scalarK (o : Order96) (f48v : DWord) : Option DWord :=
  let t := oTy o
  if 16 ≤ oScal o then (if tyF t then some (constF t (oRnd o) (oScal o)) else constInt t (oQs o) (oScal o))
  else if tyF t then some (fConv f48 (tyFmt t) (oRnd o) f48v).1
  else some (fToInt f48 (oRnd o) (tyBits t) (tyU t) true (if tyQ t then oQs o else 0) f48v).1

/-! ## Order faults of one order (R84–R91) -/

/-- The result TYPE of an order: XT for VCVT (R95). -/
def oResTy (v : VOp) (o : Order96) : Nat := if v = .vcvt then oXt o else oTy o

/-- Whether a QS fits a TYPE that is a Q type (R84). -/
def qsFits (t qs : Nat) : Bool := !tyQ t || decide (qs < tyBits t)

/-- Whether an order uses MZ (R84, R90): a masked order whose inactive elements are written; a packed destination takes 0
for them whatever MZ is. A reduction adds nothing for them, VCMPR skips them, VSEL has none. -/
def usesMz (v : VOp) (o : Order96) : Bool :=
  decide (oMsel o ≠ 0) && vopMasked v && !vopRed v && v != .vcmpr && v != .vsel

/-- Whether an order has a field set that it does not use, or one out of range (R84). DESIGN CHOICE (log entry 71): the fields
meant are the order-specific ones of R84's table; an unused SRC2, SRC3, DST, SCAL or MSEL of R83 may hold anything. -/
def fieldFault (v : VOp) (o : Order96) : Bool :=
  let t := oTy o
  let q := tyQ t || (v == .vcvt && tyQ (oXt o))
  let sat := !tyF (oResTy v o) && !vopBits v
  let shift := v == .vshl || v == .vshr || v == .vsar
  (!q && decide (oQs o ≠ 0)) || !qsFits t (oQs o) || (v == .vcvt && !qsFits (oXt o) (oQs o))
    || (oSat o && !sat) || (oMz o && !usesMz v o) || (oTee o && !oCo o)
    || (!(v == .vcvt) && decide (oXt o ≠ 0)) || (v == .vcvt && decide (7 < oXt o))
    || (!(v == .vcmp) && decide (oFn o ≠ 0)) || decide (7 < oFn o)
    || (!shift && decide (oSh o ≠ 0)) || decide (47 < oSh o)
    || (!vopBits v && decide (oMd o ≠ 0)) || (decide (8 ≤ oMd o) && !(v == .vcmp && decide (oMd o = 15)))

/-- An order with the bits that make its lowest word decode under an issue mode (R82, R97). -/
def withIss (iss : Nat) (o : Order96) : Order96 := setFld 23 17 (0b0111100 + iss) o

/-- Whether an order has an order fault of its own (R84–R91), its place in the group apart. -/
def orderFault (o : Order96) : Bool :=
  match vopOf (oOpc o) with
  | none => true
  | some v =>
    let t := oTy o
    decide (fld 16 0 o ≠ 0) || decide (7 < t) || decide (vopClasses v / 2 ^ tyClass t % 2 = 0)
      || ((v == .mld || v == .mst || v == .mcnt) && decide (t ≠ 6))
      || decide (3 < oRnd o) || (decide (9 ≤ oMsel o) && decide (oMsel o ≤ 14))
      || (decide (oMsel o = 15) && (decide (vopSrcs v = 3) || vopSeg v))
      || ((v == .vsel || v == .vcmpr || v == .vexpd) && decide (oMsel o = 0))
      || (v == .mcnt && oCi o)
      || ((v == .rmax || v == .rmin || v == .rimax) && decide (oScal o ≠ 0x11))
      || fieldFault v o || (vopK v && (scalarK o 0).isNone)

/-! ## Elementwise orders -/

/-- An exact integer result brought into TYPE (R129). -/
def fitTy (t : Nat) (sat : Bool) (v : Int) : DWord × Fl := narrow (tyBits t) (tyU t) sat v

/-- A raw Q value with extra fraction bits rounded under RND and brought into TYPE (R129, R141). DESIGN CHOICE (log entry 72):
a result out of range that wraps with SAT = 0 still raises NX where its rounding discards non-zero bits. -/
def fitQ (t rnd : Nat) (sat : Bool) (v : Dy) : DWord × Fl :=
  let k := roundInt rnd v
  let r := fitTy t sat k.1
  (r.1, r.2 ||| (if k.2 then flNX else 0))

/-- The relation FN between two integers (R84, R125). -/
def intRel (fn : Nat) (a b : Int) : Bool :=
  match fn with
  | 0 => decide (a = b)
  | 1 => decide (a ≠ b)
  | 2 => decide (a < b)
  | 3 => decide (a ≤ b)
  | 4 => decide (b < a)
  | 5 => decide (b ≤ a)
  | 6 => false
  | _ => true

/-- VCLMP on floating-point operands (R121, R126). -/
def fClamp (f : Fmt) (a b c : DWord) : DWord × Fl :=
  match nanOf f [a, b, c] with
  | some r => r
  | none => fMinMax f false (fMinMax f true a b).1 c

/-- A floating-point element (R88, R121–R126). -/
def fElem (v : VOp) (f : Fmt) (rnd : Nat) (a b c k : DWord) : DWord × Fl :=
  match v with
  | .vadd => fAdd f rnd a b
  | .vsub => fSub f rnd a b
  | .vrsub =>
    match nanOf f [a, b] with
    | some r => r
    | none => fSub f rnd b a
  | .vadds => fAdd f rnd a k
  | .vabs => (fAbs f a, 0)
  | .vneg => (fNeg f a, 0)
  | .vmin => fMinMax f false a b
  | .vmax => fMinMax f true a b
  | .vclmp => fClamp f a b c
  | .vmul => fMul f rnd a b
  | .vmuls => fMul f rnd a k
  | .vfma => fFma f rnd false a b c [a, b, c]
  | .vfms => fFma f rnd true a b c [a, b, c]
  | .vaxpy => fFma f rnd false b k a [a, b, k]
  | .vrcp => fRcp f rnd a
  | .vdiv => fDiv f rnd a b
  | .vsqrt => fSqrt f rnd a
  | .vrsqrt => fRsqrt f rnd a
  | _ => (a, 0)

/-- An element of an integer, unsigned or Q order (R88, R125, R126, R129, R130). DESIGN CHOICE (log entry 72): VSHL with SAT = 1
saturates a non-zero operand of I or Q where SH is the width or more. -/
def iElem (v : VOp) (o : Order96) (a b c k : DWord) (i : Nat) : DWord × Fl :=
  let t := oTy o
  let qs : Int := if tyQ t then oQs o else 0
  let x := tyInt t a
  let y := tyInt t b
  let z := tyInt t c
  let kv := tyInt t k
  let fit := fitTy t (oSat o)
  let w := tyBits t
  let pat (n : Nat) : DWord × Fl := (BitVec.ofNat 48 (n % 2 ^ w), 0)
  match v with
  | .vadd => fit (x + y)
  | .vsub => fit (x - y)
  | .vrsub => fit (y - x)
  | .vadds => fit (x + kv)
  | .vabs => fit (if x < 0 then -x else x)
  | .vneg => fit (-x)
  | .vmin => fit (if y < x then y else x)
  | .vmax => fit (if x < y then y else x)
  | .vclmp =>
    let m := if x < y then y else x
    fit (if z < m then z else m)
  | .vmul => fitQ t (oRnd o) (oSat o) ⟨x * y, -qs⟩
  | .vmuls => fitQ t (oRnd o) (oSat o) ⟨x * kv, -qs⟩
  | .vfma => fitQ t (oRnd o) (oSat o) (Dy.add ⟨x, 0⟩ ⟨y * z, -qs⟩)
  | .vfms => fitQ t (oRnd o) (oSat o) (Dy.add ⟨x, 0⟩ ⟨-(y * z), -qs⟩)
  | .vaxpy => fitQ t (oRnd o) (oSat o) (Dy.add ⟨y, 0⟩ ⟨kv * x, -qs⟩)
  | .vand => (a &&& b, 0)
  | .vor => (a ||| b, 0)
  | .vxor => (a ^^^ b, 0)
  | .vnot => pat (~~~a).toNat
  | .vshl =>
    if oSat o && !tyU t then fitTy t true (x * 2 ^ oSh o)
    else if w ≤ oSh o then (0, 0) else pat (a.toNat * 2 ^ oSh o)
  | .vshr => if w ≤ oSh o then (0, 0) else pat (a.toNat / 2 ^ oSh o)
  | .vsar => (intPat w (x / 2 ^ min (oSh o) w), 0)
  | .viota => fit (kv + i)
  | _ => (a, 0)

/-- VCVT (R122, R127, R128). -/
def vcvtElem (o : Order96) (a : DWord) : DWord × Fl :=
  let t := oTy o
  let x := oXt o
  if tyF t && tyF x then fConv (tyFmt t) (tyFmt x) (oRnd o) a
  else if tyF t then fToInt (tyFmt t) (oRnd o) (tyBits x) (tyU x) (oSat o) (if tyQ x then oQs o else 0) a
  else if tyF x then intToF (tyFmt x) (oRnd o) (if tyQ t then oQs o else 0) (tyInt t a)
  else fitTy x (oSat o) (tyInt t a)

/-- The result and the flags of one active element of an elementwise order (R88). -/
def elemOf (v : VOp) (o : Order96) (a b c k : DWord) (i : Nat) : DWord × Fl :=
  match v with
  | .vmov => (a, 0)
  | .vcmpr => (a, 0)
  | .vexpd => (a, 0)
  | .vfill => (k, 0)
  | .vcvt => vcvtElem o a
  | _ => if tyF (oTy o) then fElem v (tyFmt (oTy o)) (oRnd o) a b c k else iElem v o a b c k i

/-- VCMP of one element (R125). -/
def vcmpElem (o : Order96) (a b : DWord) : Bool × Fl :=
  if tyF (oTy o) then fRel (tyFmt (oTy o)) (oFn o) a b
  else (intRel (oFn o) (tyInt (oTy o) a) (tyInt (oTy o) b), 0)

/-! ## VINTP (R89, R124) -/

/-- How far VINTP comes before it reads its table: the result is known, or an entry pair is read and either
one of them is the result or they are interpolated at the exact fraction. -/
inductive IntpStep where
  | done (r : DWord × Fl)
  | pick (j : Nat) (upper : Bool) (fl : Fl)
  | mix (j : Nat) (frac : Dy) (fl : Fl)
deriving DecidableEq, Repr

/-- The floor of an exact value. -/
def dyFloor (v : Dy) : Int := if 0 ≤ v.e then v.m * 2 ^ v.e.toNat else v.m / 2 ^ (-v.e).toNat

/-- The sign of an exact value: negative. -/
def Dy.neg? (v : Dy) : Bool := decide (v.m < 0)

/-- u of R89 and the entry pair it selects in a table of `tn` entries. -/
def intpStep (f : Fmt) (rnd tn : Nat) (x x0 inv : DWord) : IntpStep :=
  let sat (neg : Bool) (fl : Fl) : IntpStep := if neg then .pick 0 false fl else .pick (tn - 2) true fl
  match nanOf f [x, x0, inv] with
  | some r => .done r
  | none =>
    let bad : IntpStep := .done (f.qnan, flNV)
    if isInf f x || isInf f x0 then
      if isInf f x && isInf f x0 && signOf f x == signOf f x0 then bad
      else if isZero f inv then bad
      else sat ((if isInf f x then signOf f x else !signOf f x0) != signOf f inv) 0
    else
      let d := (valOf f x).add (valOf f x0).neg
      if isInf f inv then (if d.m = 0 then bad else sat (d.neg? != signOf f inv) 0)
      else
        let u := roundDy f rnd (d.mul (valOf f inv)) false
        let fl := u.2 &&& ~~~flTINY
        if isInf f u.1 then sat (signOf f u.1) fl
        else
          let uv := valOf f u.1
          let j := dyFloor uv
          if j < 0 then .pick 0 false fl
          else if (tn - 2 : Int) < j then .pick (tn - 2) true fl
          else
            let fr := uv.add ⟨-j, 0⟩
            if fr.m = 0 then .pick j.toNat false fl else .mix j.toNat fr fl

/-- The end of VINTP, with the two entries read (R89): an entry exactly, raising NV for a signalling NaN
among them, or the difference rounded and one fused rounding. DESIGN CHOICE (log entry 72): an entry that is a signalling NaN
is delivered as it is. -/
def intpEnd (f : Fmt) (rnd : Nat) (st : IntpStep) (e0 e1 : DWord) : DWord × Fl :=
  match st with
  | .done r => r
  | .pick _ upper fl => (if upper then e1 else e0, fl ||| (if isSnan f e0 || isSnan f e1 then flNV else 0))
  | .mix _ fr fl =>
    match nanOf f [e0, e1] with
    | some r => (r.1, r.2 ||| fl)
    | none =>
      let d := fSub f rnd e1 e0
      let dfl := d.2 &&& ~~~flTINY
      if isNan f d.1 then (d.1, dfl ||| fl)
      else if isInf f d.1 then
        let r := fAdd f rnd e0 d.1
        (r.1, r.2 ||| dfl ||| fl)
      else
        let v := (valOf f e0).add (fr.mul (valOf f d.1))
        let r := roundDy f rnd v (zeroSign rnd (isZero f e0) (signOf f e0) (isZero f d.1) (signOf f d.1))
        (r.1, r.2 ||| dfl ||| fl)

/-! ## Reductions (R126, R134, R136–R144) -/

/-- A term of a reduction: its element and its operands, one or two. -/
structure Term where
  i : Nat
  a : DWord
  b : Option DWord
deriving DecidableEq, Repr

/-- A reduction's result and the flags it raises, each at its element. -/
structure RedRes where
  val   : DWord
  flags : List (Nat × Fl)
deriving DecidableEq, Repr

/-- The flags of a list of terms by element, none of them 0. -/
def atElems (l : List (Nat × Fl)) : List (Nat × Fl) := l.filter (fun p => p.2 ≠ 0)

/-- RMAX, RMIN and RIMAX (R126). -/
def extreme (v : VOp) (t : Nat) (ts : List Term) : RedRes :=
  let f := tyFmt t
  let nv := if tyF t then atElems (ts.map fun x => (x.i, if isSnan f x.a then flNV else 0)) else []
  let better (x y : DWord) : Bool :=
    if tyF t then (if v = .rmin then fLt f true y x else fLt f true x y)
    else (if v = .rmin then decide (tyInt t y < tyInt t x) else decide (tyInt t x < tyInt t y))
  match (if tyF t then ts.find? (fun x => isNan f x.a) else none) with
  | some x => ⟨if v = .rimax then BitVec.ofNat 48 x.i else quiet f x.a, nv⟩
  | none =>
    match ts with
    | [] =>
      let r := intRange (tyBits t) (tyU t)
      ⟨if v = .rimax then 0xFFFFFF
        else if tyF t then f.inf (v == .rmax)
        else intPat (tyBits t) (if v = .rmax then r.1 else r.2), []⟩
    | x :: r =>
      let best := r.foldl (fun m y => if better m.a y.a then y else m) x
      ⟨if v = .rimax then BitVec.ofNat 48 best.i else best.a, nv⟩

/-- An integer or Q sum (R141): exact, scaled by k, one rounding, one application of SAT. -/
def intSum (o : Order96) (k : DWord) (last : Nat) (ts : List Term) : RedRes :=
  let t := oTy o
  let qs : Int := if tyQ t then oQs o else 0
  let dot := ts.any (fun x => x.b.isSome)
  let total : Int := ts.foldl (fun m x => m + (match x.b with
    | none => tyInt t x.a
    | some y => tyInt t x.a * tyInt t y)) 0
  let r := fitQ t (oRnd o) (oSat o) ⟨total * tyInt t k, -(if dot then qs + qs else qs)⟩
  ⟨r.1, atElems [(last, r.2)]⟩

/-- What one term of a floating-point sum is (R138): a NaN with its flag, an invalid product, an infinity of
a sign, or a number with its exact value and its sign. -/
inductive TermVal where
  | nan (v : DWord) (fl : Fl)
  | bad
  | inf (s : Bool)
  | num (v : Dy) (s : Bool)
deriving DecidableEq, Repr

/-- Read a term (R136, R138). -/
def termVal (f : Fmt) (x : Term) : TermVal :=
  let ops := x.a :: x.b.toList
  match nanOf f ops with
  | some r => .nan r.1 r.2
  | none =>
    let s := ops.foldl (fun m y => m != signOf f y) false
    if ops.any (isInf f) then (if ops.any (isZero f) then .bad else .inf s)
    else .num (ops.foldl (fun m y => m.mul (valOf f y)) ⟨1, 0⟩) s

/-- A pair of the F48 tree (R142). -/
structure Pair48 where
  h : DWord
  l : DWord
deriving DecidableEq, Repr

/-- An operation of the tree: round to nearest even, of whose flags OF and UF are kept and no other (R144). -/
def treeOp (r : DWord × Fl) (fl : Fl) : DWord × Fl := (r.1, fl ||| (r.2 &&& (flOF ||| flUF)))

/-- Add of R142; an infinity propagates as the pair (∞, 0) (R144). -/
def treeAdd (p q : Pair48) (fl : Fl) : Pair48 × Fl :=
  let add (a b : DWord) (g : Fl) := treeOp (fAdd f48 0 a b) g
  let sub (a b : DWord) (g : Fl) := treeOp (fSub f48 0 a b) g
  let odd (x : DWord) : Bool := isInf f48 x || isNan f48 x
  let (s, g0) := add p.h q.h fl
  if odd p.h || odd q.h || odd s then (⟨s, 0⟩, g0)
  else
    let (v, g1) := sub s p.h g0
    let (w, g2) := sub s v g1
    let (x, g3) := sub p.h w g2
    let (y, g4) := sub q.h v g3
    let (e, g5) := add x y g4
    let (z, g6) := add p.l q.l g5
    let (e', g7) := add e z g6
    let (h, g8) := add s e' g7
    if odd h then (⟨h, 0⟩, g8)
    else
      let (u, g9) := sub h s g8
      let (l, g10) := sub e' u g9
      (⟨h, l⟩, g10)

/-- The pair by which a term enters the tree: TwoProduct for a dot term (R142). -/
def treeTerm (x : Term) (fl : Fl) : Pair48 × Fl :=
  match x.b with
  | none => (⟨x.a, 0⟩, fl)
  | some b =>
    let p := treeOp (fMul f48 0 x.a b) fl
    if isInf f48 p.1 then (⟨p.1, 0⟩, p.2)
    else
      let e := treeOp (fFma f48 0 false (fNeg f48 p.1) x.a b [x.a, b]) p.2
      (⟨p.1, e.1⟩, e.2)

/-- The tree of R142 over terms that are numbers; `i0` is the first element. -/
def tree48 (i0 : Nat) (ts : List Term) : Pair48 × Fl :=
  let zero : Pair48 := ⟨0, 0⟩
  let lane (j : Nat) (fl : Fl) : Pair48 × Fl :=
    (ts.filter (fun x => (x.i - i0) % 8 == j)).foldl (fun m x =>
      let t := treeTerm x m.2
      treeAdd m.1 t.1 t.2) (zero, fl)
  let two (a b : Pair48 × Fl) : Pair48 × Fl := treeAdd a.1 b.1 (a.2 ||| b.2)
  two (two (two (lane 0 0) (lane 1 0)) (two (lane 2 0) (lane 3 0)))
    (two (two (lane 4 0) (lane 5 0)) (two (lane 6 0) (lane 7 0)))

/-- The end of a sum: k × Σ rounded once (R136, R139, R142). `negz` is the sign of a zero sum. -/
def sumEnd (f : Fmt) (rnd : Nat) (k : DWord) (total : Dy) (negz : Bool) : DWord × Fl :=
  let sk := signOf f k
  if isInf f k then (if total.m = 0 then (f.qnan, flNV) else (f.inf (total.neg? != sk), 0))
  else roundDy f rnd (total.mul (valOf f k)) ((if total.m = 0 then negz else total.neg?) != sk)

/-- A floating-point sum over the terms of one reduction or segment, from element `i0` to `last` (R136–R144). DESIGN CHOICE (log
entry 72): of several special cases at once a NaN operand's payload is delivered, and the NV of every invalid term is raised;
opposite infinite terms raise theirs at the first infinity whose sign differs from the first one's, ∞ × k with k = 0 at the
last element; two intermediate overflows of opposite sign give the default NaN with OF and NX and no NV. -/
def fltSum (o : Order96) (k : DWord) (i0 last : Nat) (ts : List Term) : RedRes :=
  let f := tyFmt (oTy o)
  let rnd := oRnd o
  let vs := ts.map fun x => (x, termVal f x)
  let own := vs.map fun p => (p.1.i, match p.2 with
    | .nan _ fl => fl
    | .bad => flNV
    | _ => 0)
  let infs := vs.filterMap fun p => match p.2 with
    | .inf s => some (p.1.i, s)
    | _ => none
  let clash := match infs with
    | [] => none
    | (_, s) :: r => (r.find? (fun q => q.2 != s)).map (·.1)
  let clashFl := match clash with
    | none => []
    | some i => [(i, flNV)]
  match vs.find? (fun p => match p.2 with | .nan _ _ => true | _ => false), nanOf f [k] with
  | some (_, .nan v _), _ => ⟨v, atElems (own ++ clashFl)⟩
  | _, some r => ⟨r.1, atElems (own ++ clashFl ++ [(last, r.2)])⟩
  | _, none =>
    if vs.any (fun p => p.2 == .bad) || clash.isSome then ⟨f.qnan, atElems (own ++ clashFl)⟩
    else match infs with
    | (_, s) :: _ =>
      if isZero f k then ⟨f.qnan, [(last, flNV)]⟩ else ⟨f.inf (s != signOf f k), []⟩
    | [] =>
      let nums := vs.filterMap fun p => match p.2 with
        | .num v s => some (v, s)
        | _ => none
      let exact := nums.foldl (fun m p => m.add p.1) ⟨0, 0⟩
      let allNegZero := !nums.isEmpty && nums.all (fun p => decide (p.1.m = 0) && p.2)
      let someNum := nums.any (fun p => decide (p.1.m ≠ 0))
      let negz := allNegZero || (someNum && decide (rnd = 3))
      if f = f24 then
        let r := sumEnd f rnd k exact negz
        ⟨r.1, atElems [(last, r.2)]⟩
      else
        let t := tree48 i0 ts
        let tf := t.2 ||| (if t.2 &&& (flOF ||| flUF) = 0 then 0 else flNX)
        if isNan f t.1.h then ⟨f.qnan, atElems [(last, tf)]⟩
        else if isInf f t.1.h then
          if isZero f k then ⟨f.qnan, atElems [(last, tf ||| flNV)]⟩
          else ⟨f.inf (signOf f t.1.h != signOf f k), atElems [(last, tf)]⟩
        else
          let total := (valOf f t.1.h).add (valOf f t.1.l)
          let r := sumEnd f rnd k total (decide (exact.m = 0) && negz)
          ⟨r.1, atElems [(last, r.2 ||| tf)]⟩

/-- The result of a RED-class order over the active terms of one reduction or segment. -/
def reduceOf (v : VOp) (o : Order96) (k : DWord) (i0 last : Nat) (ts : List Term) : RedRes :=
  if v = .rmax ∨ v = .rmin ∨ v = .rimax then extreme v (oTy o) ts
  else if tyF (oTy o) then fltSum o k i0 last ts else intSum o k last ts

end Sys2Proof.Machine
end

