-- ==== Sys2Proof/Machine/Micro.lean ====
section
/-!
DEFINITION. Machine/Micro.lean: the micro-sequencer of a cluster's vector unit: the control store and its microaddresses,
the parity and the sequencing fields of a microword, the formed target, the return stack, one fetch with its re-read and
its errors (spec/09_microcode.md R276–R282, R287).
The model's own choices and readings (DEDUCED, DESIGN CHOICE, PRESUMED) are log entry 7.
-/
namespace Sys2Proof.Machine

/-! ## A microword (R277) -/

/-- Odd parity of a microword (R277): parity bit 128 + j with control bits [8j + 7 : 8j]. -/
def ucParityOk (w : BitVec 144) : Bool :=
  (List.range 16).all fun j =>
    let ones := ((List.range 8).map fun i => (bitOf (8 * j + i) w).toNat).sum + (bitOf (128 + j) w).toNat
    decide (ones % 2 = 1)

/-- MODE. -/
def mwMode (w : BitVec 144) : Nat := fld 127 125 w
/-- NC. -/
def mwNc (w : BitVec 144) : Nat := fld 124 122 w
/-- C0, C1, C2 or C3. -/
def mwCond (i : Nat) (w : BitVec 144) : Nat := fld (121 - 4 * i) (118 - 4 * i) w
/-- NA. -/
def mwNa (w : BitVec 144) : BitVec 13 := w.extractLsb' 93 13

/-- The formed target NA OR b (R279): bit i of b is condition Ci for i < NC. -/
def mwTarget (w : BitVec 144) (cond : Nat → Bool) : BitVec 13 :=
  mwNa w ||| BitVec.ofNat 13 ((List.range (mwNc w)).map fun i => if cond (mwCond i w) then 2 ^ i else 0).sum

/-! ## Sequencing (R277, R279, R281) -/

/-- The context after microword `w` with the conditions sampled, and whether `w` is the commit mark; none for a microcode
fault of `w`: a reserved MODE or NC, a return stack that is full or empty (R279, R281, R282). -/
def microNext (x : MicroCtx) (w : BitVec 144) (cond : Nat → Bool) : Option (MicroCtx × Bool) :=
  let on : MicroCtx := { x with addr := x.addr + 1 }
  let jump : MicroCtx := { x with addr := mwTarget w cond }
  if 4 < mwNc w then none
  else match mwMode w with
  | 0 => some (on, false)
  | 1 => some (jump, false)
  | 2 => if x.stack.length < 4 then some ({ jump with stack := on.addr :: x.stack }, false) else none
  | 3 =>
    match x.stack with
    | [] => none
    | a :: r => some ({ x with addr := a, stack := r }, false)
  | 4 => some (if cond (mwCond 0 w) then jump else x, false)
  | 5 => some (on, true)
  | 6 => some ({ x with ended := true }, false)
  | _ => none

/-! ## The control store (R276, R287) -/

/-- A half of a cluster's patch RAM. -/
def ucHalf (b : Bool) (c : Cluster) : PatchHalf := if b then c.patchB else c.patchA

/-- The patch offset of the valid entry that names ROM microaddress `a`. -/
def microMatch (h : PatchHalf) (a : Nat) : Option Nat :=
  h.table.findSome? fun e => e.2.bind fun v => if fld 11 0 v = a then some (fld 20 12 v) else none

/-- The microaddress that a fetch at `a` reaches for a routine of a half, or of ROM alone: a matched ROM microaddress is
redirected to 0x1000 + offset (R287); none where it is unmapped. -/
def microWhere (half : Option Bool) (c : Cluster) (a : BitVec 13) : Option (BitVec 13) :=
  match half with
  | none => if a.toNat < 0x1000 then some a else none
  | some b =>
    if a.toNat < 0x1000 then some (((microMatch (ucHalf b c) a.toNat).map fun o => BitVec.ofNat 13 (0x1000 + o)).getD a)
    else if a.toNat < 0x1200 then some a
    else none

/-- The microword stored at a mapped microaddress (R276). -/
def microWord (half : Option Bool) (c : Cluster) (a : BitVec 13) : BitVec 144 :=
  match half with
  | some b => if a.toNat < 0x1000 then Config.microRom a else smAt 0 (ucHalf b c).words (a.toNat - 0x1000)
  | none => Config.microRom a

/-- Whether the cells of the microword that a routine of `half` fetches at `a` are those of `m`. -/
def microHit (half : Option Bool) (a : BitVec 13) (m : BadMicro) : Bool :=
  decide (m.addr = a) && decide (m.half = if a.toNat < 0x1000 then none else half)

/-- Whether no match entry applies to a routine of `half` and no cell of the control store shows an error: what it runs is
the ROM alone, whose routines do what R88 to R144 say (log entry 7). -/
def microQuiet (half : Option Bool) (c : Cluster) : Bool :=
  c.ubad.isEmpty && (match half with
    | none => true
    | some b => (ucHalf b c).table.isEmpty)

/-- A context as a routine of a kind starts (R278). -/
def microStart (kind : Nat) (codes : List Nat) : MicroCtx := ⟨(Config.microEntry kind codes).setWidth 13, [], false⟩

/-- What a microword came to: the routine goes on, it executed its commit mark, it stopped with a persistent parity error
or a microcode fault at a microaddress (R282). -/
inductive MicroEnd where
  | on
  | mark
  | err (parity : Bool) (addr : BitVec 13)
deriving DecidableEq, Repr

/-- A context fetches and executes one microword (R276, R278, R279, R282). A parity failure that the re-read does not show
is counted; where it shows again, or a microcode fault arises, the context stays before the microword. -/
def microStep (n : Cl) (half : Option Bool) (x : MicroCtx) (cond : Nat → Bool) (s : State) : MicroCtx × MicroEnd × State :=
  let c := s.cl n
  match microWhere half c x.addr with
  | none => (x, .err false x.addr, s)
  | some a =>
    let bad := c.ubad.filter (microHit half a)
    if !ucParityOk (microWord half c a) || bad.any (·.hard) then (x, .err true a, s)
    else
      let t := if bad.isEmpty then s
        else odCount 0xC040 0 (s.modCl n fun d => { d with ubad := d.ubad.filter fun m => !microHit half a m })
      match microNext { x with addr := a } (microWord half c a) cond with
      | none => (x, .err false a, t)
      | some r => (r.1, if r.2 then .mark else .on, t)

end Sys2Proof.Machine
end

