-- ==== Sys2Proof/Machine/Vector.lean ====
section
/-!
DEFINITION. Machine/Vector.lean: chain groups in the vector unit: their streams and open checks, when a
group starts, the run of its orders, its writes, its exceptions and its end
(spec/03_vector_orders.md R75–R110, spec/05_vector_execution.md R151–R174,
spec/09_microcode.md R278–R286).
The model's own choices and readings (DEDUCED, DESIGN CHOICE, PRESUMED) are log entries 3, 7, 25 to 30, 67, 69 and 71.
-/
namespace Sys2Proof.Machine

/-! ## Descriptors (R75) -/

/-- MODE. -/
def Desc.mode (d : Desc) : Nat := fld 17 16 d.attr
/-- CAP. -/
def Desc.cap (d : Desc) : Nat := fld 23 20 d.attr
/-- SKEW. -/
def Desc.skew (d : Desc) : Bool := bitOf 19 d.attr
/-- RT. -/
def Desc.rt (d : Desc) : Bool := bitOf 18 d.attr
/-- IDXD. -/
def Desc.idxd (d : Desc) : Nat := fld 15 12 d.attr
/-- ISH. -/
def Desc.ish (d : Desc) : Nat := fld 11 10 d.attr

/-- A stream of a group: the order, its role (0 DST, 1–3 SRC, 4 an index stream), its descriptor with the
copied capability, the words of an element, whether it must be packed, whether it is written, its element
count, whether LEN is exempt (R78), whether it is VINTP's table, and the index stream's descriptor. -/
structure Strm where
  pos    : Nat
  role   : Nat
  d      : Desc
  cap    : CapV
  w      : Nat
  bits   : Bool
  wr     : Bool
  cnt    : Nat
  exempt : Bool
  tab    : Bool
  idx    : Desc × CapV
deriving DecidableEq, Repr

/-- The descriptor and capability an order copied for descriptor `j`. -/
def QOrder.desc (q : QOrder) (j : Nat) : Desc × CapV :=
  ((q.descs.find? (fun p => p.1 == j)).map (·.2)).getD (Desc.zero, CapV.null)

/-- The operation of an order; an unlisted OPC never gets past its order fault. -/
def QOrder.op (q : QOrder) : VOp := (vopOf (oOpc q.bits)).getD .vmov

/-- Whether an order writes its DST (R88, R95, R96). -/
def writesDst (q : QOrder) : Bool :=
  match q.op with
  | .vcmp => decide (oMd q.bits = 15)
  | .mld => false
  | _ => !oCo q.bits || oTee q.bits

/-- The element count N of a group (R78). -/
def groupN (orders : List QOrder) : Nat :=
  match orders with
  | [] => 0
  | q :: _ =>
    let j := match q.op with
      | .vfill | .viota | .mst | .vexpd => oDst q.bits
      | _ => oSrc q.bits 1
    (q.desc j).1.len.toNat

/-- The streams of one order in a group of N elements: its sources, its mask or segment stream, its
destination (R88–R91, R96). -/
def orderStreams (num pos : Nat) (q : QOrder) : List Strm :=
  let o := q.bits
  let v := q.op
  let w := tyWords (oTy o)
  let mk (role j w' : Nat) (bits wr : Bool) (cnt : Option Nat) (tab : Bool) : Strm :=
    let d := q.desc j
    ⟨pos, role, d.1, d.2, w', bits, wr, cnt.getD num, cnt.isSome, tab, q.desc d.1.idxd⟩
  let lenOf (j : Nat) : Nat := (q.desc j).1.len.toNat
  let srcs := ((List.range (vopSrcs v)).map (· + 1)).filter (fun j => !(decide (j = 1) && oCi o))
  let ss := srcs.map fun j =>
    if v = .vintp ∧ j = 2 then mk j (oSrc o j) w false false (some (lenOf (oSrc o j))) true
    else if v = .mld then mk j (oSrc o j) 1 true false none false
    else if v = .vexpd then mk j (oSrc o j) w false false (some (lenOf (oSrc o j))) false
    else mk j (oSrc o j) w false false none false
  let ms := if (oMsel o = 15 ∧ vopMasked v) ∨ vopSeg v then [mk 3 (oSrc o 3) 1 true false none false] else []
  let ds :=
    if !writesDst q then []
    else match v with
    | .vcmp | .mst => [mk 0 (oDst o) 1 true true none false]
    | .mcnt | .rimax => [mk 0 (oDst o) 1 false true (some 1) false]
    | .rsegdot | .rsegsum | .vcmpr => [mk 0 (oDst o) w false true (some (lenOf (oDst o))) false]
    | .vcvt => [mk 0 (oDst o) (tyWords (oXt o)) false true none false]
    | _ => [mk 0 (oDst o) w false true (if vopRed v then some 1 else none) false]
  ss ++ ms ++ ds

/-- The index stream of an indexed stream (R92). -/
def indexStream (num : Nat) (x : Strm) : Strm :=
  ⟨x.pos, 4, x.idx.1, x.idx.2, 1, false, false, num, false, false, (Desc.zero, CapV.null)⟩

/-- Whether a stream is indexed. -/
def Strm.indexed (x : Strm) : Bool := decide (x.d.mode = 1) && decide (x.role ≠ 4)

/-- The streams of a group, with its index streams (R92, R96). -/
def groupStreams (num : Nat) (orders : List QOrder) : List Strm :=
  (orders.zipIdx.flatMap fun p => orderStreams num p.2 p.1).flatMap fun x =>
    if x.indexed then [indexStream num x, x] else [x]

/-- Whether a read stream is a broadcast stream (R77). -/
def Strm.bcast (x : Strm) : Bool :=
  decide (x.d.mode = 0) && decide (x.d.stride = 0) && !x.wr && !x.tab

/-- The extent of a stream, first and last word, or none where it has no element (R76, R81, R89, R92). -/
def Strm.extent (x : Strm) : Option (Int × Int) :=
  let b : Int := x.d.base.toNat
  if x.indexed then
    if capLen x.cap.bits = 0 then none
    else some (capBase x.cap.bits, (capBase x.cap.bits + capLen x.cap.bits - 1 : Nat))
  else if x.tab then some (b, b + (x.cnt + 2) * x.w - 1)
  else if x.cnt = 0 then none
  else if x.d.mode = 2 then some (b, b + (x.cnt + 23) / 24 - 1)
  else if x.bcast then some (b, b + x.w - 1)
  else
    let span := ((x.cnt : Int) - 1) * x.d.stride.toInt
    some (b + min 0 span, b + max 0 span + x.w - 1)

/-- What a group needs of R96. DESIGN CHOICE (log entry 71): the IDX pipe of an indexed stream adds to the one that an order
names itself. -/
def groupNeed (orders : List QOrder) : Need :=
  let ss := groupStreams (groupN orders) orders
  let pipes := orders.foldl (fun m q => m.plus (vopPipes q.op)) Need.zero
  let count (p : Strm → Bool) : Nat := (ss.filter p).length
  pipes.plus { Need.zero with
    rs := count (fun x => !x.wr), ws := count (·.wr), ind := count (·.indexed), idx := count (·.indexed) }

/-! ## Order faults of a group (R94–R96, R100) -/

/-- Whether an order may not chain out (R94). -/
def noChainOut (q : QOrder) : Bool :=
  match vopOf (oOpc q.bits) with
  | none => false
  | some v => vopBits v || v == .vcmpr || vopRed v

/-- Whether the order at `pos` breaks the structure of R94. -/
def structFault (orders : List QOrder) (pos : Nat) (q : QOrder) : Bool :=
  let o := q.bits
  decide (6 ≤ pos) || (decide (pos = 0) && oCi o) || (oCo o && oCg o) || (oCo o && noChainOut q)
    || (!oCo o && !oCg o && decide (pos + 1 < orders.length))
    || (match orders[pos + 1]? with | some r => !oCi r.bits | none => false)
    || (match orders with | r :: _ => decide (oIss r.bits ≠ oIss o) | [] => false)

/-- Whether the order at `pos` has another order fault: its own, a TYPE that is not its producer's result
type (R95), or more elements than a mask register governs (R90). -/
def otherFault (orders : List QOrder) (pos : Nat) (q : QOrder) : Bool :=
  let o := q.bits
  let v := q.op
  let big := decide (4096 < groupN orders)
  orderFault o
    || (match (if pos = 0 then none else orders[pos - 1]?) with
        | some p => decide (oTy o ≠ oResTy p.op p.bits)
        | none => false)
    || (big && vopMasked v && decide (1 ≤ oMsel o) && decide (oMsel o ≤ 8))
    || (big && (v == .vcmp || v == .mld || v == .mst) && decide (oMd o < 8))

/-- The first order fault of a complete group: VU_SET_ERR's code and the order's position (R94, R96, R100). -/
def groupFault (orders : List QOrder) : Option (Nat × Nat) :=
  let each := orders.zipIdx.findSome? fun p =>
    if structFault orders p.2 p.1 then some (3, p.2)
    else if otherFault orders p.2 p.1 then some (7, p.2) else none
  match each with
  | some r => some r
  | none => if (groupNeed orders).fits then none else some (4, orders.length - 1)

/-! ## Open checks (R76–R81, R89, R92, R171) -/

/-- Where a stream's extent lies (R76). -/
inductive Place where
  | own
  | exchange
  | remote (m : Cl)
deriving DecidableEq, Repr

/-- The place of an extent, or none for any other region and for one that spans two. -/
def placeOf (n : Cl) (lo hi : Int) : Option Place :=
  if lo < 0 ∨ hi < lo then none
  else match regionOf lo.toNat, regionOf hi.toNat with
  | .ls m _, .ls k _ => if m = k then some (if m = n then .own else .remote m) else none
  | .xchg m _, .xchg k _ => if m = k ∧ m = n then some .exchange else none
  | _, _ => none

/-- The plots of their home cluster that an extent touches, as (home, plot index, first word). -/
def plotsOf (n : Cl) (p : Place) (lo hi : Int) : List (Cl × Nat × Nat) :=
  let m := match p with | .remote m => m | _ => n
  let o1 := lo.toNat % 2 ^ 22
  let o2 := hi.toNat % 2 ^ 22
  ((List.range ((plotOf o2).1 + 1)).filter (fun i => decide ((plotOf o1).1 ≤ i))).map fun i =>
    (m, i, max lo.toNat (plotRange m i).1)

/-- Whether a valid slot entry of VCn names a remote cluster (R171). -/
def slotFor (n m : Cl) (s : State) : Bool :=
  (List.range 128).any fun x =>
    let e := smAt 0 (s.cl n).fslot x
    bitOf 23 e && decide (fld 7 0 e = m.val)

/-- Whether a stream's form breaks R77, R78, R81, R89 or R92. DESIGN CHOICE (log entry 71): a write stream with STRIDE 0 is
held to its own element count; a stream that carries bits and is not in packed mode is a descriptor fault. -/
def formFault (num : Nat) (x : Strm) : Bool :=
  let d := x.d
  decide (d.mode = 3) || (x.bits && decide (d.mode ≠ 2)) || (decide (d.mode = 2) && decide (d.stride ≠ 1))
    || (x.tab && (decide (d.mode ≠ 0) || decide (x.cnt < 2))) || (decide (x.role = 4) && decide (d.mode ≠ 0))
    || (!x.exempt && !x.bcast && decide (d.len.toNat ≠ num)) || (decide (x.role = 4) && decide (d.len.toNat ≠ num))
    || (decide (d.mode = 0) && decide (x.w = 2) && (decide (d.stride = 1) || decide (d.stride = -1)))
    || (x.wr && decide (d.mode = 0) && decide (d.stride = 0) && decide (1 < x.cnt))

/-- How a stream's open check ends. -/
inductive OpenRes where
  | ok
  | held
  | fault (cause : Nat) (addr : Int)
deriving DecidableEq, Repr

/-- The checks of a stream when it opens but that of its owner (R76–R81, R171): its form, its region, its reserved slot,
its capability, its SKEW. The answer is the cause and the address of the first failure. An indexed stream is checked at
every element instead (R79). -/
def openForm (n : Cl) (num : Nat) (x : Strm) (s : State) : Option (Nat × Int) :=
  let base : Int := x.d.base.toNat
  if formFault num x then some (2, base)
  else if x.indexed then none
  else match x.extent with
  | none => none
  | some (lo, hi) =>
    match placeOf n lo hi with
    | none => some (2, lo)
    | some p =>
      let remote := match p with | .remote m => some m | _ => none
      if x.tab && remote.isSome then some (2, lo)
      else if (match remote with | some m => x.d.rt && !slotFor n m s | none => false) then some (2, lo)
      else if (capFault x.cap lo.toNat (hi - lo + 1).toNat (if x.wr then permWR else permRD)).isSome then some (3, lo)
      else if p ≠ .exchange ∧ (plotsOf n p lo hi).any (fun t => bitOf 23 (govCfg t.2.1 (s.cl t.1)) != x.d.skew) then
        some (2, lo)
      else none

/-- The plots whose owner is checked when a stream opens; those of an indexed one are checked at its elements (R79). -/
def openPlots (n : Cl) (x : Strm) : List (Cl × Nat × Nat) :=
  if x.indexed then []
  else match x.extent with
  | none => []
  | some (lo, hi) => match placeOf n lo hi with
    | none => []
    | some p => plotsOf n p lo hi

/-- The first word of a stream's extent that lies in a plot which the cluster does not own (R29, R79). -/
def lostPlot (n : Cl) (x : Strm) (s : State) : Option Nat :=
  ((openPlots n x).find? fun t => !ownerAdmits t.1 (s.cl t.1) t.2.1 (.stream n)).map (·.2.2)

/-- The check of a stream when it opens (R76–R81, R171). -/
def openCheck (n : Cl) (num : Nat) (x : Strm) (s : State) : OpenRes :=
  match openForm n num x s, lostPlot n x s with
  | some f, _ => .fault f.1 f.2
  | none, some a => .fault 4 a
  | none, none => if (openPlots n x).any (fun t => portHeld t.2.1 (s.cl t.1)) then .held else .ok

/-! ## Exceptions (R105, R106, R108, R133) -/

/-- The record of an exception of a group. -/
def excOf (g : Group) (cause pos role elem : Nat) (addr : Int) (fl : Fl) : ExcRec where
  cause := BitVec.ofNat 4 cause
  imprecise := false
  set := g.set
  order := pos
  stream := role
  pc := (g.orders.head?.map (·.pc)).getD 0
  elem := elem
  addr := BitVec.ofInt 40 addr
  flags := fl
  micro := none

/-- Of two exceptions the one that is reported: the lowest element, then the lowest order (R133). -/
def firstExc (a : Option ExcRec) (b : ExcRec) : Option ExcRec :=
  match a with
  | none => some b
  | some x => if b.elem < x.elem ∨ (b.elem = x.elem ∧ b.order < x.order) then some b else some x

/-- Put an exception into the VU_EXC registers and raise it; its set waits for the handler's return: the vector-exception trap, or for an
uncorrectable read the machine check (R106, R193). The DETAIL of that machine check is free. -/
def recordExc (n : Cl) (e : ExcRec) (s : State) : State :=
  let c := s.cl n
  let cause : Nat := 2 ^ 23 + e.imprecise.toNat * 2 ^ 22 + e.set.isSome.toNat * 2 ^ 21 + e.set.getD 0 % 8 * 2 ^ 18
    + e.order % 8 * 2 ^ 15 + e.stream % 8 * 2 ^ 12 + e.cause.toNat
  let c1 := ioPut 0x1C0 (BitVec.ofNat 24 cause) c
  let c2 := ioPut 0x1C2 (BitVec.ofNat 24 e.elem) (ioPut 0x1C1 e.pc c1)
  let c3 := ioPut 0x1C5 (e.flags.setWidth 24) (ioPutPair 0x1C3 (e.addr.setWidth 48)
    { c2 with excSets := c2.excSets ++ (e.set.map fun k => (k, none)).toList })
  if e.cause = 6 then
    let detail : Nat × Word := match e.micro with
      | some m => (m.1.toNat, m.2)
      | none => (fld 7 0 (Config.freeWord s.fresh), 0)
    let info : Word := BitVec.ofNat 24 (detail.1 * 2 ^ 8 + 1)
    drawn (s.putCl n { c3 with mcheck := some (c3.mcheck.getD (info, detail.2)), mcVec := true })
  else s.putCl n { c3 with vexc := true }

/-- An exception arises: recorded, or held inside the vector unit while another is recorded (R106). -/
def vecRaise (n : Cl) (e : ExcRec) (s : State) : State :=
  let c := s.cl n
  if ioBit 0x1C0 23 c ∨ c.heldExc ≠ [] then s.putCl n { c with heldExc := c.heldExc ++ [e] } else recordExc n e s

/-- A group stopped, to run again from element 0 (R106, R283, R286). -/
def stopGroup (ph : GPhase) (g : Group) : Group :=
  { g with phase := ph, n := 0, pos := 0, chain := [], flags := 0, wbuf := [], wset := [], wby := [], wlog := [], opened := [], filled := [],
           homes := [], committed := false, asked := false, redAdd := false, exc := none, masks := [], micro := none }

/-- Put a group of VCn. -/
def putGroup (n : Cl) (g : Group) (s : State) : State :=
  s.modCl n fun c => { c with groups := c.groups.map fun x => if x.gid = g.gid then g else x }

/-- The group `gid` of VCn. -/
def group? (n : Cl) (gid : Nat) (s : State) : Option Group := (s.cl n).groups.find? (fun g => g.gid == gid)

/-- A precise exception of a group (R106): the group and the later uncommitted ones of the sequencer, and of
its own set, are abandoned; the exception is recorded or held. -/
def precise (n : Cl) (gid : Nat) (e : ExcRec) (s : State) : State :=
  let c := s.cl n
  let here := c.groups.findIdx (fun g => g.gid == gid)
  let gs := c.groups.zipIdx.map fun p =>
    let g := p.1
    if p.2 = here then stopGroup .abandoned g
    else if here < p.2 ∧ g.phase = .running ∧ (g.set = none ∨ g.set = e.set) then
      (if g.committed then { g with asked := true } else stopGroup .abandoned g)
    else g
  let stopped := ((c.groups.zip gs).filter fun p => p.2.phase == .abandoned && p.1.phase != .abandoned).length
  vecRaise n e (s.putCl n (evcEvent 0x0E stopped { c with groups := gs }))

/-- Whether a machine check of the vector unit waits for its handler (R106). -/
def vecCheck (c : Cluster) : Bool := c.mcheck.isSome && c.mcVec

/-- Whether an exception, a machine check of the vector unit or their handler is outstanding (R106). -/
def excOut (c : Cluster) : Bool := c.vexc || vecCheck c || c.vhand.isSome || !c.heldExc.isEmpty

/-- Whether the rule of R106 keeps a group from starting: every sequencer-issued group, and the groups of a
set that raised the recorded or a held exception. -/
def excBlocks (g : Group) (c : Cluster) : Bool :=
  match g.set with
  | none => excOut c
  | some k => c.excSets.any (fun p => p.1 == k) || c.heldExc.any (fun e => e.set == some k)

/-! ## When a group starts (R98, R154, R156) -/

/-- The extents a group reads and writes (R98). -/
def groupExtents (wr : Bool) (g : Group) : List (Int × Int) :=
  if groupN g.orders = 0 then []
  else ((groupStreams (groupN g.orders) g.orders).filter (fun x => x.wr == wr)).filterMap (·.extent)

/-- Whether some extent of one list overlaps one of the other. -/
def extOverlap (a b : List (Int × Int)) : Bool :=
  a.any fun p => b.any fun q => decide (p.1 ≤ q.2) && decide (q.1 ≤ p.2)

/-- The mask registers a group reads (R98). -/
def masksRead (g : Group) : List Nat :=
  g.orders.flatMap fun q =>
    (if vopMasked q.op ∧ 1 ≤ oMsel q.bits ∧ oMsel q.bits ≤ 8 then [oMsel q.bits - 1] else [])
      ++ (if q.op = .mst ∨ q.op = .mcnt then [oMd q.bits] else [])

/-- The mask registers a group writes (R98). -/
def masksWritten (g : Group) : List Nat :=
  g.orders.flatMap fun q => if (q.op = .vcmp ∧ oMd q.bits < 8) ∨ q.op = .mld then [oMd q.bits] else []

/-- Whether R98 keeps a group back behind an earlier unfinished one. -/
def conflicts (g e : Group) : Bool :=
  let gr := groupExtents false g
  let gw := groupExtents true g
  let er := groupExtents false e
  let ew := groupExtents true e
  extOverlap gr ew || extOverlap gw er || extOverlap gw ew
    || (masksRead g).any (fun m => (masksWritten e).contains m)
    || (masksWritten g).any (fun m => (masksWritten e).contains m || (masksRead e).contains m)

/-- What a running group holds: its reduction may run in an ADD pipe (R154). -/
def heldNeed (g : Group) : Need :=
  let d := groupNeed g.orders
  if g.redAdd then { d with red := 0, add := d.add + 1 } else d

/-- What the running groups hold together. -/
def usedNeed (c : Cluster) : Need :=
  (c.groups.filter (fun g => g.phase = .running)).foldl (fun m g => m.plus (heldNeed g)) Need.zero

/-- Whether a group's reduction may run in an ADD pipe (R154). -/
def reduceMode (g : Group) : Bool :=
  g.orders.any fun q => vopRed q.op && !vopSeg q.op

/-- Whether the pipes and streams a group needs are free, and whether its reduction then takes an ADD pipe
(R154, R156). -/
def resources (g : Group) (c : Cluster) : Option Bool :=
  let u := usedNeed c
  let d := groupNeed g.orders
  if (u.plus d).fits then some false
  else if u.red = 1 ∧ d.red = 1 ∧ reduceMode g ∧ (u.plus { d with red := 0, add := d.add + 1 }).fits then some true
  else none

/-- Which resources a need touches, in the order of `Need.over`. -/
def Need.uses (a : Need) : List Bool := [a.mul, a.add, a.rcp, a.log, a.red, a.idx, a.rs, a.ws, a.ind, a.tab].map (0 < ·)

/-- Whether a group is not running and nothing but R98, R156 and its place keep it back: no outstanding
exception, no FENCE behind unfinished groups, no buffered store before it (R229), and for a displaced group
no set that still runs (R102). -/
def eligible (g : Group) (before : List Group) (c : Cluster) : Bool :=
  g.phase != .running && !excBlocks g c && decide (g.stores = 0) && !(g.fence && !before.isEmpty)
    && !(g.phase == .displaced && c.groups.any (fun e => e.set.isSome))

/-- Whether a group may start, among the earlier groups each with whether it may itself (R98, R156): not behind one that
may, nor where it needs a pipe or a stream that one which waits only for those still lacks. DESIGN CHOICE (log entry 71): a
reduction that R154 would run in an ADD pipe needs the RED pipe that an earlier group lacks all the same. -/
def startable (c : Cluster) (before : List (Group × Bool)) (g : Group) : Bool :=
  let earlier := before.map (·.1)
  eligible g earlier c && !earlier.any (conflicts g) && (resources g c).isSome
    && before.zipIdx.all fun p =>
      let e := p.1.1
      let prior := earlier.take p.2
      if p.1.2 then false
      else if e.phase = .running ∨ !eligible e prior c ∨ prior.any (conflicts e) then true
      else match resources e c with
      | some _ => true
      | none =>
        let lack := ((usedNeed c).plus (groupNeed e.orders)).over
        !((groupNeed g.orders).uses.zip lack).any (fun q => q.1 && q.2)

/-- Group `g` runs, with its pipes and streams. -/
def startIn (g : Group) (red : Bool) (c : Cluster) : Cluster :=
  { c with groups := c.groups.map fun e => if e.gid = g.gid then { e with phase := .running, redAdd := red } else e }

/-- Whether a group may start now (R98, R102, R156), with the groups before it in issue order; the answer
says whether its reduction takes an ADD pipe. An earlier group that may start and whose accesses are held (`stuck`) has its
pipes and streams and keeps no later one waiting. -/
def mayStart (stuck : Group → Bool) (g : Group) (c : Cluster) : Option Bool :=
  let r := (c.groups.takeWhile (fun e => e.gid ≠ g.gid)).foldl (fun (p : Cluster × List (Group × Bool)) e =>
    match (if startable p.1 p.2 e && stuck e then resources e p.1 else none) with
    | some red => (startIn e red p.1, p.2 ++ [({ e with phase := .running, redAdd := red }, false)])
    | none => (p.1, p.2 ++ [(e, startable p.1 p.2 e)])) (c, [])
  if startable r.1 r.2 g then resources g r.1 else none

/-! ## Reading the streams -/

/-- The run of an order: the state, whether an access was held, the exception met, the flags raised, and the
packed word read last. -/
structure Run where
  s     : State
  held  : Bool
  exc   : Option ExcRec
  flags : BitVec 5
  pk    : Option ((Nat × Nat × Nat) × Word)

/-- The key of a word that pre-open or the open read fetched: the order, the stream's role, the word. -/
def fillKey (pos role k : Nat) : Nat := (pos * 8 + role) * 64 + k

/-- Note an exception of an element. -/
def Run.fail (g : Group) (cause pos role elem : Nat) (addr : Int) (r : Run) : Run :=
  { r with exc := firstExc r.exc (excOf g cause pos role elem addr 0) }

/-- Note the flags of an element and its arithmetic trap (R131). -/
def Run.note (g : Group) (pos elem : Nat) (fl : Fl) (r : Run) : Run :=
  let en : Fl := if g.set.isNone || bitOf 8 g.trapen then g.trapen.setWidth 6 &&& 0x1F else 0
  let trap := decide (fl &&& en ≠ 0) || (decide (fl &&& flTINY ≠ 0) && decide (en &&& flUF ≠ 0))
  let r1 := { r with flags := r.flags ||| fl.setWidth 5 }
  if trap then { r1 with exc := firstExc r1.exc (excOf g 5 pos 6 elem 0 fl) } else r1

/-- Whether a write stream and a read stream coincide (R109). -/
def coincide (x y : Strm) : Bool :=
  decide (x.d.mode = 0) && decide (y.d.mode = 0) && !x.tab && decide (x.d.base = y.d.base)
    && decide (x.d.stride = y.d.stride) && decide (x.w = y.w)

/-- The words that a read of address `a` for element `elem` may find written by its own group (R109): those of the streams
that do not coincide with it, of the elements before, since a later element is written after the read (R151, R163). -/
def writtenBefore (g : Group) (x : Strm) (a elem : Nat) : List Word :=
  let ys := (groupStreams g.n g.orders).filter (fun y => y.wr && !coincide x y)
  (g.wset.filter fun w => decide (w.addr = a) && decide (w.elem < elem) && ys.any (fun y => y.pos == w.pos)).map (·.word)

/-- How many free choices a group has for its overlapping reads: one for each order, stream, element and address. -/
def overlapKeys : Nat := 2 ^ 70

/-- The place of a read among the free choices of its group. -/
def overlapKey (g : Group) (x : Strm) (a elem : Nat) : Nat := g.seed + (((x.pos * 8 + x.role) * 2 ^ 24 + elem) * 2 ^ 40 + a)

/-- The word that a stream's read of address `a` returns, given the stored word (R109): the word before the group, or one
that the group wrote through a stream which does not coincide with it. A parameter's home that was written while the group
ran reads as before or as now (R419). -/
def overlapRead (g : Group) (x : Strm) (a elem : Nat) (v : Word) (r : Run) : Word × Run :=
  if !g.wset.any (fun w => w.addr == a) then
    (match smAt none g.homes a with
     | some o => (if Config.freeBit r.s.fresh then o else v, { r with s := drawn r.s })
     | none => (v, r))
  else
    let old := (smAt none g.wlog a).getD v
    let k := overlapKey g x a elem
    let ws := writtenBefore g x a elem
    (if Config.freeBit k then old else ws.getD (Config.freeNat k % ws.length) old, r)

/-- Read one word of a stream for an element: from what was fetched, or from memory as the stream. A read
that fails gives 0 and notes its exception (R108, R187, R193). -/
def readWord (n : Cl) (g : Group) (x : Strm) (key : Option Nat) (a : Nat) (elem : Nat) (r : Run) : Word × Bool × Run :=
  match key.bind (fun k => smAt none g.filled (fillKey x.pos x.role k)) with
  | some v => (v, true, r)
  | none =>
    match agentRead (.stream n) a r.s with
    | (.ok v, t) =>
      let q := overlapRead g x a elem v { r with s := t }
      (q.1, true, q.2)
    | (.held, t) => (0, false, { r with s := t, held := true })
    | (.refused, t) => (0, false, Run.fail g 4 x.pos x.role elem a { r with s := t })
    | (.ue, t) => (0, false, Run.fail g 6 x.pos x.role elem a { r with s := t })
    | (_, t) => (0, false, Run.fail g 3 x.pos x.role elem a { r with s := t })

/-- Read the `w` words of an element from address `a`, low word first; `key` numbers the first of them among
the fetched words. An element with a failed word is 0. -/
def readAt (n : Cl) (g : Group) (x : Strm) (key : Option Nat) (a : Int) (elem : Nat) (r : Run) : DWord × Run :=
  let lo := readWord n g x key a.toNat elem r
  if x.w = 1 then (lo.1.setWidth 48, lo.2.2)
  else
    let hi := readWord n g x (key.map (· + 1)) (a.toNat + 1) elem lo.2.2
    (if lo.2.1 && hi.2.1 then DWord.ofWords lo.1 hi.1 else 0, hi.2.2)

/-- Among the first 64 words of a stream (R158). -/
def firstWords (k w : Nat) : Option Nat := if k + w ≤ 64 then some k else none

/-- Element `j` of a strided, broadcast or packed stream, for element `elem` of the group. -/
def readPlain (n : Cl) (g : Group) (x : Strm) (j elem : Nat) (r : Run) : DWord × Run :=
  if x.d.mode = 2 then
    let q := j / 24
    let k := (x.pos, x.role, q)
    let bit (w : Word) : DWord := if bitOf (j % 24) w then 1 else 0
    match r.pk with
    | some (k', w) =>
      if k' = k then (bit w, r)
      else
        let t := readWord n g x (firstWords q 1) (x.d.base.toNat + q) elem r
        (bit t.1, { t.2.2 with pk := some (k, t.1) })
    | none =>
      let t := readWord n g x (firstWords q 1) (x.d.base.toNat + q) elem r
      (bit t.1, { t.2.2 with pk := some (k, t.1) })
  else if x.bcast then readAt n g x (some 0) x.d.base.toNat elem r
  else readAt n g x (firstWords (j * x.w) x.w) ((x.d.base.toNat : Int) + j * x.d.stride.toInt) elem r

/-- Where the element of an indexed stream with this index lies (R92). -/
def indexed (x : Strm) (v : DWord) : Int := (x.d.base.toNat : Int) + (v.setWidth 24 : Word).toInt * 2 ^ x.d.ish

/-- The address of element `j` of an indexed stream after its checks (R76, R79, R80, R92), or none with the exception
noted. An element in the other of the cluster's stores than the first element makes the stream span two regions. -/
def indexAddr (n : Cl) (g : Group) (x : Strm) (j elem : Nat) (r : Run) : Option Int × Run :=
  let ix := indexStream g.n x
  let (v, r1) := readPlain n g ix j elem r
  let a := indexed x v
  let perm := if x.wr then permWR else permRD
  if a < 0 ∨ (capFault x.cap a.toNat x.w perm).isSome then (none, Run.fail g 3 x.pos x.role elem a r1)
  else
    let here := placeOf n a (a + x.w - 1)
    let first := (readPlain n g ix 0 elem r).1
    let a0 := indexed x first
    let bad := match here, placeOf n a0 (a0 + x.w - 1) with
      | some (.remote _), _ => true
      | some .own, some .exchange => true
      | some .exchange, some .own => true
      | some .own, _ => (plotsOf n .own a (a + x.w - 1)).any fun t => bitOf 23 (govCfg t.2.1 (r1.s.cl n)) != x.d.skew
      | some .exchange, _ => false
      | none, _ => true
    if bad then (none, Run.fail g 2 x.pos x.role elem a r1) else (some a, r1)

/-- Element `j` of a read stream. -/
def readElem (n : Cl) (g : Group) (x : Strm) (j elem : Nat) (r : Run) : DWord × Run :=
  if x.indexed then
    match indexAddr n g x j elem r with
    | (some a, r1) => readAt n g x none a elem r1
    | (none, r1) => (0, r1)
  else readPlain n g x j elem r

/-! ## The run of one order -/

/-- The stream of an order in a role. -/
def roleOf (ss : List Strm) (role : Nat) : Option Strm := ss.find? (fun x => x.role == role)

/-- Operand `j` of an order at element `i`: the chained value for the first one of an order with CI = 1, else
the element of its stream. -/
def operand (n : Cl) (g : Group) (ss : List Strm) (q : QOrder) (j i : Nat) (r : Run) : DWord × Run :=
  if j = 1 ∧ oCi q.bits then (g.chain.getD i 0, r)
  else if vopSrcs q.op < j then (0, r)
  else match roleOf ss j with
  | none => (0, r)
  | some x => readElem n g x i i r

/-- The activity of element `i` (R90). -/
def maskBit (n : Cl) (g : Group) (ss : List Strm) (q : QOrder) (i : Nat) (r : Run) : Bool × Run :=
  let m := oMsel q.bits
  if !vopMasked q.op ∨ m = 0 then (true, r)
  else if m ≤ 8 then ((smAt 0 (r.s.cl n).masks (m - 1)).getLsbD i, r)
  else match roleOf ss 3 with
  | none => (true, r)
  | some x =>
    let t := readElem n g x i i r
    (decide (t.1 ≠ 0), t.2)

/-- The words that a result adds to its stream's buffer: element `j` of DST, for element `elem`. -/
def writeElem (n : Cl) (g : Group) (x : Strm) (j elem : Nat) (v : DWord) (r : Run) : List WWord × Run :=
  let go (a : Int) : List WWord :=
    (List.range x.w).map fun (k : Nat) => ⟨x.pos, elem, (a + (k : Int)).toNat, v.extractLsb' (24 * k) 24⟩
  if x.indexed then
    match indexAddr n g x j elem r with
    | (some a, r1) => (go a, r1)
    | (none, r1) => ([], r1)
  else (go ((x.d.base.toNat : Int) + j * x.d.stride.toInt), r)

/-- The words of a packed destination (R81, R90). -/
def packBits (x : Strm) (num : Nat) (bs : List Bool) : List WWord :=
  (List.range ((num + 23) / 24)).map fun q =>
    let w : Nat := (List.range 24).foldl (fun m i => m + (if bs.getD (24 * q + i) false then 2 ^ i else 0)) 0
    ⟨x.pos, min (24 * q + 23) (num - 1), x.d.base.toNat + q, BitVec.ofNat 24 w⟩

/-- What the elements of an order give, gathered in reverse: the values it passes on, the words it writes, the
bits of a mask or packed destination, a running count. -/
structure Acc1 where
  r   : Run
  out : List DWord
  ws  : List WWord
  bs  : List Bool
  cnt : Nat

/-- Write an element's result where the order writes; a packed destination takes its bit 0. -/
def Acc1.put (n : Cl) (g : Group) (dst : Option Strm) (j i : Nat) (v : DWord) (a : Acc1) : Acc1 :=
  match dst with
  | none => a
  | some x =>
    if x.d.mode = 2 then a
    else
      let t := writeElem n g x j i v a.r
      { a with r := t.2, ws := t.1.reverse ++ a.ws }

/-- VINTP of one element (R89). -/
def runIntp (n : Cl) (g : Group) (ss : List Strm) (q : QOrder) (i : Nat) (x : DWord) (r : Run) : (DWord × Fl) × Run :=
  match roleOf ss 2 with
  | none => ((x, 0), r)
  | some t =>
    let f := tyFmt (oTy q.bits)
    let b : Int := t.d.base.toNat
    let (x0, r1) := readAt n g t (some 0) b i r
    let (inv, r2) := readAt n g t (some t.w) (b + t.w) i r1
    let st := intpStep f (oRnd q.bits) t.cnt x x0 inv
    let pair (j : Nat) : (DWord × Fl) × Run :=
      let (e0, r3) := readAt n g t none (b + (j + 2) * t.w) i r2
      let (e1, r4) := readAt n g t none (b + (j + 3) * t.w) i r3
      (intpEnd f (oRnd q.bits) st e0 e1, r4)
    match st with
    | .done v => (v, r2)
    | .pick j _ _ => pair j
    | .mix j _ _ => pair j

/-- One element of an elementwise order (R88, R90, R95). DESIGN CHOICE (log entry 71): a gather checks and reads an inactive
element too. -/
def runElem (n : Cl) (g : Group) (ss : List Strm) (q : QOrder) (k : DWord) (acc : Acc1) (i : Nat) : Acc1 :=
  let o := q.bits
  let v := q.op
  let pos := g.pos
  let dst := roleOf ss 0
  let (m, r1) := maskBit n g ss q i acc.r
  let (a, r2) := operand n g ss q 1 i r1
  let (b, r3) := if v = .vintp then (0, r2) else operand n g ss q 2 i r2
  let (c, r4) := operand n g ss q 3 i r3
  if m || v == .vsel then
    let (res, r5) :=
      if v = .vsel then ((if m then a else b, (0 : Fl)), r4)
      else if v = .vintp then runIntp n g ss q i a r4
      else (elemOf v o a b c k i, r4)
    let r6 := Run.note g pos i res.2 r5
    Acc1.put n g dst i i res.1 { acc with r := r6, out := res.1 :: acc.out, bs := bitOf 0 res.1 :: acc.bs }
  else
    let pass := if oMz o || decide (vopSrcs v = 0) then 0 else a
    let acc1 := { acc with r := r4, out := pass :: acc.out, bs := false :: acc.bs }
    if oMz o then Acc1.put n g dst i i 0 acc1 else acc1

/-- One element of VEXPD (R91, R95). DESIGN CHOICE (log entry 71): LEN of a broadcast SRC1 is a capacity too. -/
def runExpd (n : Cl) (g : Group) (ss : List Strm) (q : QOrder) (acc : Acc1) (i : Nat) : Acc1 :=
  let o := q.bits
  let dst := roleOf ss 0
  let (m, r1) := maskBit n g ss q i acc.r
  let cap := if oCi o then g.n else (roleOf ss 1).elim 0 (·.cnt)
  if m then
    if cap ≤ acc.cnt then
      let addr : Int := ((roleOf ss 1).map (fun x => (x.d.base.toNat : Int))).getD 0
      { acc with r := Run.fail g 2 g.pos 1 i addr r1, out := 0 :: acc.out, bs := false :: acc.bs }
    else
      let (a, r2) := if oCi o then (g.chain.getD acc.cnt 0, r1) else match roleOf ss 1 with
        | none => (0, r1)
        | some x => readElem n g x acc.cnt i r1
      Acc1.put n g dst i i a { acc with r := r2, out := a :: acc.out, bs := bitOf 0 a :: acc.bs, cnt := acc.cnt + 1 }
  else
    let acc1 := { acc with r := r1, out := 0 :: acc.out, bs := false :: acc.bs }
    if oMz o then Acc1.put n g dst i i 0 acc1 else acc1

/-- One element of VCMPR (R91). -/
def runCmpr (n : Cl) (g : Group) (ss : List Strm) (q : QOrder) (acc : Acc1) (i : Nat) : Acc1 :=
  let dst := roleOf ss 0
  let (m, r1) := maskBit n g ss q i acc.r
  let (a, r2) := operand n g ss q 1 i r1
  if !m then { acc with r := r2 }
  else if dst.elim 0 (·.cnt) ≤ acc.cnt then
    let addr : Int := (dst.map (fun x => (x.d.base.toNat : Int))).getD 0
    { acc with r := Run.fail g 2 g.pos 0 i addr r2 }
  else
    let acc1 := Acc1.put n g dst acc.cnt i a { acc with r := r2, bs := bitOf 0 a :: acc.bs }
    { acc1 with cnt := acc.cnt + 1 }

/-- One bit of VCMP, MLD or MST (R88, R90). -/
def runBit (n : Cl) (g : Group) (ss : List Strm) (q : QOrder) (acc : Acc1) (i : Nat) : Acc1 :=
  let o := q.bits
  let old := (smAt 0 (acc.r.s.cl n).masks (oMd o)).getLsbD i
  let packed := q.op == .mst || decide (oMd o = 15)
  let (m, r1) := maskBit n g ss q i acc.r
  let (a, r2) := operand n g ss q 1 i r1
  let (b, r3) := operand n g ss q 2 i r2
  let res : Bool × Fl := match q.op with
    | .vcmp => vcmpElem o a b
    | .mld => (decide (a ≠ 0), 0)
    | _ => (old, 0)
  if m then { acc with r := Run.note g g.pos i res.2 r3, bs := res.1 :: acc.bs }
  else { acc with r := r3, bs := (!packed && !oMz o && old) :: acc.bs }

/-- What an order's run leaves: the run, the chained values, the words for the write buffers, and a mask
register's new value. -/
structure OrderRes where
  r    : Run
  out  : List DWord
  ws   : List WWord
  mask : Option (Nat × BitVec 4096)

/-- Gather one term of a reduction, and the bit that closes its segment. -/
def runTerm (n : Cl) (g : Group) (ss : List Strm) (q : QOrder) (acc : Run × List (Option Term × Bool)) (i : Nat) :
    Run × List (Option Term × Bool) :=
  let (m, r1) := maskBit n g ss q i acc.1
  let (a, r2) := operand n g ss q 1 i r1
  let (b, r3) := operand n g ss q 2 i r2
  let (e, r4) := if vopSeg q.op then (match roleOf ss 3 with
      | none => (false, r3)
      | some x =>
        let t := readElem n g x i i r3
        (decide (t.1 ≠ 0), t.2)) else (false, r3)
  let t : Term := ⟨i, a, match q.op with
    | .rdot | .rsegdot => some b
    | .rsumsq => some a
    | _ => none⟩
  (r4, (if m then some t else none, e) :: acc.2)

/-- The segments of a reduction: first and last element of each (R88). -/
def segments (num : Nat) (seg : Bool) (ends : List Bool) : List (Nat × Nat) :=
  if !seg then [(0, num - 1)]
  else
    let r := (ends.zipIdx).foldl (fun (p : List (Nat × Nat) × Nat) e =>
      if e.1 ∨ e.2 + 1 = num then ((p.2, e.2) :: p.1, e.2 + 1) else p) ([], 0)
    r.1.reverse

/-- A RED-class order (R88, R134, R136–R144). DESIGN CHOICE (log entry 71): where the segments are more than LEN of DST, the
exception names the first element of the first segment beyond it. -/
def runReduce (n : Cl) (g : Group) (ss : List Strm) (q : QOrder) (k : DWord) (r : Run) : OrderRes :=
  let t := (List.range g.n).foldl (runTerm n g ss q) (r, [])
  let items := t.2.reverse
  let dst := roleOf ss 0
  let segs := segments g.n (vopSeg q.op) (items.map (·.2))
  let fin := segs.zipIdx.foldl (fun (a : Acc1) p =>
    if vopSeg q.op && decide (dst.elim 0 (·.cnt) ≤ p.2) then
      let addr : Int := (dst.map (fun x => (x.d.base.toNat : Int))).getD 0
      { a with r := Run.fail g 2 g.pos 0 p.1.1 addr a.r }
    else
      let ts := (items.drop p.1.1 |>.take (p.1.2 + 1 - p.1.1)).filterMap (·.1)
      let res := reduceOf q.op q.bits k p.1.1 p.1.2 ts
      let r1 := res.flags.foldl (fun u f => Run.note g g.pos f.1 f.2 u) a.r
      Acc1.put n g dst p.2 p.1.2 res.val { a with r := r1, bs := bitOf 0 res.val :: a.bs }) ⟨t.1, [], [], [], 0⟩
  ⟨fin.r, [], fin.ws.reverse ++ (match dst with
    | some x => if x.d.mode = 2 then packBits x fin.bs.length fin.bs.reverse else []
    | none => []), none⟩

/-- A mask register with its first `num` bits replaced (R90). -/
def maskWith (old : BitVec 4096) (num : Nat) (bs : List Bool) : BitVec 4096 :=
  let low : Nat := (bs.zipIdx).foldl (fun m p => m + (if p.1 then 2 ^ p.2 else 0)) 0
  BitVec.ofNat 4096 (old.toNat / 2 ^ num * 2 ^ num + low)

/-- The run of the next order of a group over all its elements. -/
def runOrder (n : Cl) (g : Group) (q : QOrder) (r : Run) : OrderRes :=
  let ss := orderStreams g.n g.pos q
  let k := (scalarK q.bits q.k).getD 0
  let start : Acc1 := ⟨r, [], [], [], 0⟩
  let close (a : Acc1) : OrderRes :=
    let packed := match roleOf ss 0 with
      | some x => if x.d.mode = 2 then packBits x a.bs.length a.bs.reverse else []
      | none => []
    ⟨a.r, a.out.reverse, a.ws.reverse ++ packed, none⟩
  let v := q.op
  if vopRed v then runReduce n g ss q k r
  else match v with
  | .vcmp | .mld | .mst =>
    let a := (List.range g.n).foldl (runBit n g ss q) start
    let c := close a
    if v = .mst ∨ oMd q.bits = 15 then c
    else { c with mask := some (oMd q.bits, maskWith (smAt 0 (a.r.s.cl n).masks (oMd q.bits)) g.n a.bs.reverse) }
  | .mcnt =>
    let m := smAt 0 (r.s.cl n).masks (oMd q.bits)
    let c := ((List.range g.n).filter (fun i => m.getLsbD i)).length
    close (Acc1.put n g (roleOf ss 0) 0 (g.n - 1) (BitVec.ofNat 48 c) { start with bs := [decide (c % 2 = 1)] })
  | .vcmpr => close ((List.range g.n).foldl (runCmpr n g ss q) start)
  | .vexpd => close ((List.range g.n).foldl (runExpd n g ss q) start)
  | _ => close ((List.range g.n).foldl (runElem n g ss q k) start)

/-- Whether the fabric has reserved slots: while the grid runs and is not held (R170). -/
def slotsReserved (s : State) : Bool := gridRun s && !holdActive s

/-- Whether the service-path pause holds a stream: it is remote and best-effort (R170, R174, R481). -/
def pausedStream (n : Cl) (s : State) (x : Strm) : Bool :=
  servicePause s && (!x.d.rt || !slotsReserved s) && (match x.extent with
    | some (lo, hi) => (match placeOf n lo hi with | some (.remote _) => true | _ => false)
    | none => false)

/-- Whether the service-path pause holds a group. -/
def pausedGroup (n : Cl) (g : Group) (s : State) : Bool :=
  servicePause s && (groupStreams (groupN g.orders) g.orders).any (pausedStream n s)

/-! ## Starting -/

/-- The words that streams read when they open (R77, R89, R152): the element of a broadcast stream, an index stream
included, X0 and INVH of a table. -/
def openReads (n : Cl) (g : Group) (r : Run) : Run × SMap (Option Word) :=
  ((groupStreams g.n g.orders).filter (fun x => x.bcast || x.tab)).foldl
    (fun (p : Run × SMap (Option Word)) x =>
      (List.range (if x.tab then 2 * x.w else x.w)).foldl (fun (u : Run × SMap (Option Word)) k =>
        let t := readWord n { g with filled := u.2 } x (some k) (x.d.base.toNat + k) 0 u.1
        (t.2.2, smPut none u.2 (fillKey x.pos x.role k) (some t.1))) p) (r, g.filled)

/-- The first stream of a group that fails its open check; those that pre-open opened are open (R158). -/
def openFault (n : Cl) (g : Group) (num : Nat) (s : State) : Option (Strm × OpenRes) :=
  (((groupStreams num g.orders).filter fun x => !g.opened.contains (x.pos, x.role)).map
    (fun x => (x, openCheck n num x s))).find? (fun p => p.2 ≠ .ok)

/-- Whether the accesses with which a group would open are held: by the service-path pause, or until port A has a plot's new
owner (R181, R481). -/
def stuckGroup (n : Cl) (s : State) (g : Group) : Bool :=
  pausedGroup n g s || (match openFault n g (groupN g.orders) s with | some (_, .held) => true | _ => false)

/-- The patch half a routine that starts now uses; none in ROM alone (R291, R293). -/
def activeHalf (n : Cl) (s : State) : Option Bool :=
  let w := hubGet (0x200002 + 0x20 * n.val) s
  if bitOf 3 w then none else some (bitOf 0 w)

/-- A refusal that an open check meets is recorded by the plot's home cluster (R187). -/
def openRefuse (n : Cl) (x : Strm) (cause : Nat) (a : Int) (s : State) : State :=
  if cause ≠ 4 then s
  else match regionOf a.toNat with
  | .ls m o => refuse m (plotOf o).1 (plotOf o).2 (.stream n) x.wr s
  | .xchg m o => refuse m (plotOf (0x40000 + o)).1 (plotOf (0x40000 + o)).2 (.stream n) x.wr s
  | _ => s

/-- A set has no group left, nor one to issue: it is complete (R104). -/
def setSettle (n : Cl) (s : State) : State :=
  s.modCl n fun c => (List.range 8).foldl (fun d k =>
    if d.groups.any (fun g => g.set == some k) || d.aux.any (fun x => x.kind == 2 && x.set == k) then d
    else ioSetBit (0x1A0 + k) 2 false d) c

/-- A group of a set that a staged descriptor has given an order fault does not run: VU_SET_ERR alone records it (R105,
log entry 29). -/
def setGroupFault (n : Cl) (g : Group) (code : Nat) (s : State) : State :=
  setSettle n (s.modCl n fun c => ioPut 0x1A8 (BitVec.ofNat 24 code) { c with groups := c.groups.filter (fun x => x.gid ≠ g.gid) })

/-- The masters of R169 that the streams of a group are: the cluster's own read and write streams, and at another cluster its
incoming remote accesses. -/
def groupAsks (n : Cl) (num : Nat) (g : Group) (s : State) : State :=
  (groupStreams num g.orders).foldl (fun t x =>
    match x.extent.bind fun e => placeOf n e.1 e.2 with
    | some (.remote m) => t.modCl m (ask [10])
    | _ => t.modCl n (ask (if x.wr then [6, 7, 8] else [0, 1, 2, 3, 4, 5]))) s

/-- A group starts or restarts (R78, R98, R132, R156, R286): it samples VU_TRAPEN, opens its streams and runs, or
takes the first fault of its open checks. -/
def groupBegin (n : Cl) (g : Group) (red : Bool) (s : State) : State :=
  let num := groupN g.orders
  let g0 : Group := { g with phase := .running, n := num, trapen := ioGet 0x1D1 (s.cl n), redAdd := red,
                             patchB := activeHalf n s,
                             micro := some (microStart 0 (g.orders.map fun q => oOpc q.bits)) }
  if num = 0 then putGroup n { g0 with pos := g.orders.length, patchB := none, micro := none } s
  else if (groupFault g.orders).isSome then
    if g.set.isSome then setGroupFault n g ((groupFault g.orders).elim 0 (·.1)) s
    else precise n g.gid (excOf g 1 ((groupFault g.orders).elim 0 (·.2)) 6 0 0 0) (putGroup n g0 s)
  else if 4096 < num ∧ g.orders.any (fun q => q.op == .mcnt) then
    precise n g.gid (excOf g 2 0 1 0 0 0) (putGroup n g0 s)
  else match openFault n g num s with
  | some (_, .held) => s
  | some (x, .fault cause addr) =>
    precise n g.gid (excOf g cause x.pos x.role 0 addr 0) (putGroup n g0 (openRefuse n x cause addr s))
  | _ =>
    let o := openReads n g0 ⟨s, false, none, 0, none⟩
    if o.1.held || pausedGroup n g s then s
    else
      let g1 := { g0 with filled := o.2, seed := o.1.s.fresh }
      let t := putGroup n g1 (groupAsks n num g { o.1.s with fresh := o.1.s.fresh + overlapKeys })
      match o.1.exc with
      | some e => precise n g.gid e t
      | none => t

/-- A group as it forms, waiting to start. -/
def newGroup (gid : Nat) (set : Option Nat) (orders : List QOrder) (fence notify : Bool) (stores : Nat) : Group where
  gid := gid
  set := set
  orders := orders
  fence := fence
  notify := notify
  phase := .waiting
  n := 0
  pos := 0
  chain := []
  flags := 0
  trapen := 0
  wbuf := []
  wset := []
  seed := 0
  wby := []
  wlog := []
  opened := []
  filled := []
  homes := []
  committed := false
  asked := false
  redAdd := false
  exc := none
  patchB := none
  micro := none
  masks := []
  stores := stores

/-- Whether a word lies in a group's read range (R107). -/
def inReadRange (g : Group) (a : Nat) : Bool :=
  (groupExtents false g).any fun p => decide (p.1 ≤ a) && decide ((a : Int) ≤ p.2)

/-! ## The routines of groups and their errors (R278–R282) -/

/-- A persistent parity error or a microcode fault at a microaddress is counted and recorded (R282). The cluster fails at a
second persistent error at one microaddress. -/
def microNote (n : Cl) (parity : Bool) (a : BitVec 13) (s : State) : State :=
  let ma : Word := a.setWidth 24
  let w : Nat := 0x200000 + 0x20 * n.val
  let t := odCount 0xC041 0 s
  if parity then
    let again := (t.cl n).uerr.contains ma
    hubPut (w + 7) ma (hubSetBit (w + 2) 7 true (t.modCl n fun c => { c with
      uerr := if again then c.uerr else c.uerr ++ [ma], failCause := c.failCause || again }))
  else t

/-- The record of such an error (R282). -/
def microExc (g : Group) (parity : Bool) (a : BitVec 13) : ExcRec :=
  { excOf g 6 0 6 0 0 0 with micro := some (if parity then 0x10 else 0x11, a.setWidth 24) }

/-- Such an error stops the routine of a group (R282): before its commit mark the group is abandoned; behind it the error is
delivered when the group completes (R108). -/
def microError (n : Cl) (g : Group) (parity : Bool) (a : BitVec 13) (s : State) : State :=
  let e := microExc g parity a
  let t := microNote n parity a s
  if g.committed then
    putGroup n { g with exc := firstExc g.exc e, micro := g.micro.map fun x => { x with ended := true } } t
  else precise n g.gid e t

/-- The number of elements in a step of a group (R151). -/
def stepSize (orders : List QOrder) : Nat :=
  if orders.any (fun q => decide (oTy q.bits % 2 = 1) || (q.op == .vcvt && decide (oXt q.bits % 2 = 1))) then 8 else 16

/-- The value of a condition source (R280), for a routine of group `g` or of none. What the model does not follow, the place
of a step in its group, the readiness of streams, the banks, and the next write of a group whose buffers are empty and whose
extents overlap, is free; so is each source of a routine with no group (log entry 7). -/
def microCond (g : Option Group) (fresh : Nat) (code : Nat) : Bool :=
  let free := Config.freeBit (fresh + code)
  match g with
  | none => decide (code ≠ 0) && free
  | some g =>
    let ss := groupStreams g.n g.orders
    let cur := (g.orders[g.pos]?).or g.orders.getLast?
    let onCur (f : QOrder → Bool) : Bool := cur.any f
    match code with
    | 0x0 => false
    | 0x1 => decide (g.pos = g.orders.length) || decide (g.n ≤ stepSize g.orders) || free
    | 0x4 => g.exc.isSome
    | 0x5 => g.asked
    | 0x6 => g.committed
    | 0x7 => onCur fun q => decide (oTy q.bits % 2 = 1)
    | 0x8 => ss.any (·.indexed)
    | 0x9 => ss.any fun x => decide (x.d.mode = 2)
    | 0xA => ss.any fun x => decide (x.pos = min g.pos (g.orders.length - 1)) && decide (x.role = 1) && x.bcast
    | 0xB => onCur fun q => oCi q.bits
    | 0xC => onCur fun q => oCo q.bits
    | 0xD => onCur fun q => vopRed q.op
    | 0xE => g.set.isSome
    | 0xF => (match g.wbuf with
      | [] => free && extOverlap (groupExtents false g) (groupExtents true g)
      | w :: _ => inReadRange g w.addr)
    | _ => free

/-- The conditions are sampled at the end of a microword's cycle (R279): the free ones are drawn. -/
def microSample (s : State) : State := { s with fresh := s.fresh + 16 }

/-- Up to `k` microwords of the routine of group `gid`: its context stops at an error and at its end (R278, R282, R284). -/
def microWords (n : Cl) (gid : Nat) : Nat → State → State
  | 0, s => s
  | k + 1, s =>
    match group? n gid s with
    | none => s
    | some g =>
      match g.phase, g.micro with
      | .running, some x =>
        if x.ended then s
        else
          let r := microStep n g.patchB x (microCond (some g) s.fresh) (microSample s)
          let g1 := { g with micro := some r.1 }
          match r.2.1 with
          | .on => microWords n gid k (putGroup n g1 r.2.2)
          | .mark => microWords n gid k (putGroup n { g1 with committed := true } r.2.2)
          | .err p a => microError n g1 p a r.2.2
      | _, _ => s

/-- Whether the routine of a group runs the ROM alone, or has ended, or there is none (log entry 7). -/
def microDone (n : Cl) (g : Group) (s : State) : Bool := microQuiet g.patchB (s.cl n) || g.micro.all (·.ended)

/-- The routine of a group goes on by a free number of microwords beside what the group's command does (log entry 7): the
control bits that drive the datapath are not documented. -/
def microRun (n : Cl) (gid : Nat) (s : State) : State :=
  match group? n gid s with
  | none => s
  | some g => if microDone n g s then s else microWords n gid (Config.freeNat s.fresh) (drawn s)

/-- Up to `k` microwords of a routine that serves no group; the answer gives its context and the error that stopped it. -/
def auxWords (n : Cl) (half : Option Bool) : Nat → MicroCtx → State → (MicroCtx × Option (Bool × BitVec 13)) × State
  | 0, x, s => ((x, none), s)
  | k + 1, x, s =>
    if x.ended then ((x, none), s)
    else
      let r := microStep n half x (microCond none s.fresh) (microSample s)
      match r.2.1 with
      | .err p a => ((r.1, some (p, a)), r.2.2)
      | _ => auxWords n half k r.1 r.2.2

/-- An error of a routine of set `k` is delivered like that of a group of the set (R282, log entry 7). -/
def auxError (n : Cl) (k : Nat) (p : Bool × BitVec 13) (s : State) : State :=
  vecRaise n (microExc (newGroup 0 (some k) [] false false 0) p.1 p.2) (microNote n p.1 p.2 s)

/-- The start of a sequencer-issued group is counted once it has started (R494). -/
def startCount (n : Cl) (x : Group) (t : State) : State :=
  if x.set.isNone && (group? n x.gid t).any (fun g => g.phase != x.phase) then t.modCl n (evcEvent 0x0C 1) else t

/-- GROUP_START (R98, R156): a group that waits to start for the first time. -/
def execGroupStart (n : Cl) (g : Nat) (s : State) : Out := onIsland n s <|
  match group? n g s with
  | none => .next s
  | some x =>
    if x.phase ≠ .waiting then .next s
    else match mayStart (stuckGroup n s) x (s.cl n) with
    | none => .next s
    | some red => .next (microRun n x.gid (startCount n x (groupBegin n x red s)))

/-- GROUP_RESTART (R102, R106, R286): an abandoned or displaced group starts again from element 0. -/
def execGroupRestart (n : Cl) (g : Nat) (s : State) : Out := onIsland n s <|
  match group? n g s with
  | none => .next s
  | some x =>
    if x.phase = .waiting ∨ x.phase = .running then .next s
    else match mayStart (stuckGroup n s) x (s.cl n) with
    | none => .next s
    | some red => .next (microRun n x.gid (startCount n x (groupBegin n x red s)))

/-! ## Writing and completing -/

/-- One buffered word of a group reaches its bank (R93, R107, R187), the one of its last write included in its commit point,
which is none while an exception waits to be settled;
the answer says whether it was written. A word that another stream of the group wrote keeps one of the two values. A
refused word is not written. None: the bank's owner still changes. -/
def drainOne (n : Cl) (g : Group) (w : WWord) (s : State) : Option (Bool × State) :=
  let last := decide (g.pos = g.orders.length) && decide (g.wbuf.length ≤ 1) && g.exc.isNone
  let g1 := { g with wbuf := g.wbuf.erase w, committed := g.committed || inReadRange g w.addr || last }
  let by' := smAt 0 g.wby w.addr
  let rival := decide (by' ≠ 0) && decide (by' ≠ w.pos + 1)
  let s1 := if rival then drawn s else s
  if rival && !Config.freeBit s.fresh then some (false, putGroup n g1 s1)
  else match agentWrite (.stream n) w.addr w.word s1 with
  | (.held, _) => none
  | (.ok _, t) =>
    let log := if (smAt none g.wlog w.addr).isSome then g.wlog else smPut none g.wlog w.addr (some (memGet w.addr s))
    some (true, putGroup n { g1 with wby := smPut 0 g.wby w.addr (w.pos + 1), wlog := log } t)
  | (_, t) =>
    let e := excOf g 4 w.pos 0 w.elem w.addr 0
    some (false, if g1.committed then putGroup n { g1 with exc := firstExc g.exc e } t
      else precise n g.gid e (putGroup n g1 t))

/-- Buffered words drain in order while the group runs; the answer lists the addresses written. -/
def drainWords (n : Cl) (gid : Nat) : List WWord → List Nat → State → List Nat × State
  | [], as, s => (as, s)
  | w :: r, as, s =>
    match (group? n gid s).filter (fun g => g.phase == .running) with
    | none => (as, s)
    | some g =>
      match drainOne n g w s with
      | none => (as, s)
      | some p => drainWords n gid r (if p.1 then w.addr :: as else as) p.2

/-- Whether a word waits for its group's exception to be settled: before the commit point none of an element at or
behind it is written (R106). -/
def drainStops (g : Group) (w : WWord) : Bool :=
  !g.committed && (match g.exc with | some e => decide (e.elem ≤ w.elem) | none => false)

/-- The words that the next drain takes to one row: those of the first buffered word's stream that its 64-word buffer
holds for the row (R166). -/
def drainRow (g : Group) : List WWord :=
  match g.wbuf with
  | [] => []
  | w :: _ => ((g.wbuf.filter (fun y => y.pos == w.pos)).take 64).filter
      (fun y => decide (y.addr / 4 = w.addr / 4) && !drainStops g y)

/-- The next drain of a group's write buffers (R166, R193): a row written in full loses its error. -/
def drainWord (n : Cl) (gid : Nat) (s : State) : State :=
  match group? n gid s with
  | none => s
  | some g =>
    if g.phase ≠ .running ∨ pausedGroup n g s then s
    else
      let r := drainWords n gid (drainRow g) [] s
      wrote r.1 r.2

/-- WRITE_BUFFER_DRAIN (R166). -/
def execWriteBufferDrain (n : Cl) (g : Nat) (s : State) : Out := onIsland n s <| .next (drainWord n g (microRun n g s))

/-! ## The run of a group -/

/-- The words that the streams of a group write in all, as its orders find memory now, with what the group's reads find
written before taken from `ws`. -/
def dryWrites (n : Cl) (g : Group) (s : State) (ws : List WWord) : List WWord :=
  (g.orders.foldl (fun (p : Group × State × List WWord) q =>
    let r := runOrder n p.1 q ⟨p.2.1, false, none, 0, none⟩
    ({ p.1 with pos := p.1.pos + 1, chain := r.out }, r.r.s, p.2.2 ++ r.ws)) ({ g with wset := ws }, s, [])).2.2

/-- The writes of a group that agree with what its reads find: an element depends on the writes of earlier elements alone,
so that each run settles one more element at least. -/
def settleWrites (n : Cl) (g : Group) (s : State) : Nat → List WWord → List WWord
  | 0, ws => ws
  | k + 1, ws => let now := dryWrites n g s ws; if now = ws then ws else settleWrites n g s k now

/-- A group's `wset` as its first order runs (R109). -/
def writeSet (n : Cl) (g : Group) (s : State) : List WWord :=
  if !extOverlap (groupExtents false g) (groupExtents true g) then []
  else settleWrites n g s (g.n + 1) (dryWrites n g s [])

/-- The buffered words of two streams, by element. -/
def mergeWords : List WWord → List WWord → List WWord
  | [], ws => ws
  | w :: r, ws => ws.takeWhile (fun y => decide (y.elem < w.elem)) ++
      w :: mergeWords r (ws.dropWhile (fun y => decide (y.elem < w.elem)))

/-- The words of elements before an exception that are still buffered. -/
def wordsBefore (e : ExcRec) (g : Group) : List WWord := g.wbuf.filter fun w => decide (w.elem < e.elem)

/-- By the time an element meets an exception its stream's earlier words have left the buffer but for at most 64, and of
those a free number (R108, R166): drains until at most `keep` are left. -/
def drainTo (n : Cl) (gid : Nat) (e : ExcRec) (keep : Nat) : Nat → State → State
  | 0, s => s
  | f + 1, s =>
    match group? n gid s with
    | none => s
    | some g =>
      let ws := wordsBefore e g
      if keep < ws.length ∨ ws.any (fun w => decide (64 < (ws.filter (fun y => y.pos == w.pos)).length)) then
        drainTo n gid e keep f (drainWord n gid s)
      else s

/-- A group whose last order has run has met an exception (R106, R108): a precise one where its commit point has not come by
then; else it runs on and the exception is delivered at its end. -/
def settleExc (n : Cl) (gid : Nat) (e : ExcRec) (s : State) : State :=
  match group? n gid s with
  | none => s
  | some g =>
    let t := drainTo n gid e (Config.freeNat s.fresh % ((wordsBefore e g).length + 1)) g.wbuf.length (drawn s)
    match group? n gid t with
    | none => t
    | some h => if h.phase ≠ .running ∨ h.committed then t else precise n gid (h.exc.getD e) t

/-- The next order of group `gid` runs, if its operation is `v` (R88). An order that meets an access which a
store still holds waits: nothing changes. When the group's last order has run, an exception met is settled (R106, R108,
R133). -/
def runOp (v : VOp) (n : Cl) (gid : Nat) (s0 : State) : State :=
  let s := if clocked n s0 then microRun n gid s0 else s0
  match group? n gid s with
  | none => s
  | some g =>
    if !clocked n s then s else
    match g.orders[g.pos]? with
    | none => s
    | some q =>
      if g.phase ≠ .running ∨ q.op ≠ v ∨ pausedGroup n g s then s
      else
        let g0 := if g.pos = 0 then { g with wset := writeSet n g s } else g
        let res := runOrder n g0 q ⟨s, false, g.exc, g.flags, none⟩
        if res.r.held then s
        else
          let g1 := { g0 with
            pos := g.pos + 1, chain := res.out, flags := res.r.flags, wbuf := mergeWords g.wbuf res.ws, exc := res.r.exc,
            masks := match res.mask with | none => g.masks | some (m, b) => smPut none g.masks m (some b) }
          let t := putGroup n g1 res.r.s
          match g1.exc with
          | some e => if g1.pos = g1.orders.length ∧ !g1.committed then settleExc n gid e t else t
          | none => t

/-! ## Completing -/

/-- Raise interrupt input `k` of a sequencer (R256). -/
def irqRaise (k : Nat) (c : Cluster) : Cluster := ioSetBit (0x30 + k / 24) (k % 24) true c

/-- GROUP_COMPLETE (R97, R108, R135, R163, R284): the group's routine ends, its last words reach the store; its flags accrue,
its mask register is written, NOTIFY raises input 2, a late exception is delivered. -/
def execGroupComplete (n : Cl) (g : Nat) (s0 : State) : Out := onIsland n s0 <|
  let s := microRun n g s0
  match group? n g s with
  | none => .next s
  | some x =>
    if x.phase ≠ .running ∨ x.pos < x.orders.length ∨ !microDone n x s then .next s
    else
      let t := x.wbuf.foldl (fun u _ => drainWord n g u) s
      match group? n g t with
      | none => .next t
      | some y =>
        if y.phase ≠ .running ∨ y.wbuf ≠ [] then .next t
        else
          let c := t.cl n
          let c1 := ioPut 0x1D0 (ioGet 0x1D0 c ||| y.flags.setWidth 24) c
          let c2 := { c1 with
            groups := c1.groups.filter (fun z => z.gid ≠ g),
            masks := y.masks.foldl (fun m p => match p.2 with | none => m | some b => smPut 0 m p.1 b) c1.masks }
          let c3 := if y.notify then irqRaise 2 c2 else c2
          let u := setSettle n (t.putCl n c3)
          .next (match y.exc with
            | none => u
            | some e => vecRaise n { e with imprecise := true } u)

/-- HELD_EXCEPTION_RECORD (R106): the oldest held exception is recorded once VALID is 0. -/
def execHeldExceptionRecord (n : Cl) (s : State) : Out := onIsland n s <|
  match (s.cl n).heldExc with
  | [] => .next s
  | e :: r =>
    if ioBit 0x1C0 23 (s.cl n) then .next s
    else .next (recordExc n e (s.modCl n fun c => { c with heldExc := r }))

/-! ## Sequencer-issued groups (R97, R105, R237, R238) -/

/-- The orders in the order queue: those of sequencer-issued groups that have not started, and of the group
that forms (R238). -/
def queueOrders (c : Cluster) : Nat :=
  c.forming.length + ((c.groups.filter (fun g => g.set.isNone && g.phase == .waiting)).map (fun g => g.orders.length)).sum

/-- An order enters the order queue (R94, R97, R105, R237): at its CG the group forms, or is dropped with an
order fault; a seventh order faults whatever its CG. DESIGN CHOICE (log entry 71): a dropped group does not start again when
the handler returns. -/
def orderEnter (n : Cl) (q : QOrder) (s : State) : State :=
  let c := evcEvent 0x0B 1 (s.cl n)
  let orders := c.forming ++ [q]
  let iss := oIss q.bits
  let g := newGroup c.nextGid none orders (decide (iss = 1)) (decide (iss = 3)) c.sbuf.length
  let drop := s.putCl n { c with forming := [] }
  if 6 < orders.length then vecRaise n (excOf g 1 6 6 0 0 0) drop
  else if !oCg q.bits then s.putCl n { c with forming := orders }
  else match groupFault orders with
  | some f => vecRaise n (excOf g 1 f.2 6 0 0 0) drop
  | none => s.putCl n { c with forming := [], groups := c.groups ++ [g], nextGid := c.nextGid + 1 }

/-! ## The orders of R88, one command each -/

/-- VADD: Vector add d = s1 + s2. The next order of group `g` runs. -/
def execVadd (n : Cl) (g : Nat) (s : State) : Out := .next (runOp .vadd n g s)

/-- VSUB: Vector subtract d = s1 − s2. The next order of group `g` runs. -/
def execVsub (n : Cl) (g : Nat) (s : State) : Out := .next (runOp .vsub n g s)

/-- VRSUB: Vector reverse subtract d = s2 − s1. The next order of group `g` runs. -/
def execVrsub (n : Cl) (g : Nat) (s : State) : Out := .next (runOp .vrsub n g s)

/-- VADDS: Vector add of the scalar k. The next order of group `g` runs. -/
def execVadds (n : Cl) (g : Nat) (s : State) : Out := .next (runOp .vadds n g s)

/-- VABS: Vector absolute value. The next order of group `g` runs. -/
def execVabs (n : Cl) (g : Nat) (s : State) : Out := .next (runOp .vabs n g s)

/-- VNEG: Vector negation. The next order of group `g` runs. -/
def execVneg (n : Cl) (g : Nat) (s : State) : Out := .next (runOp .vneg n g s)

/-- VMIN: Elementwise minimum. The next order of group `g` runs. -/
def execVmin (n : Cl) (g : Nat) (s : State) : Out := .next (runOp .vmin n g s)

/-- VMAX: Elementwise maximum. The next order of group `g` runs. -/
def execVmax (n : Cl) (g : Nat) (s : State) : Out := .next (runOp .vmax n g s)

/-- VCMP: Compare under FN, writing a mask register or a packed stream. The next order of group `g` runs. -/
def execVcmp (n : Cl) (g : Nat) (s : State) : Out := .next (runOp .vcmp n g s)

/-- VSEL: Select s1 or s2 by the mask. The next order of group `g` runs. -/
def execVsel (n : Cl) (g : Nat) (s : State) : Out := .next (runOp .vsel n g s)

/-- VCLMP: Clamp d = min(max(s1, s2), s3). The next order of group `g` runs. -/
def execVclmp (n : Cl) (g : Nat) (s : State) : Out := .next (runOp .vclmp n g s)

/-- VMUL: Vector multiply. The next order of group `g` runs. -/
def execVmul (n : Cl) (g : Nat) (s : State) : Out := .next (runOp .vmul n g s)

/-- VMULS: Vector multiply by the scalar k. The next order of group `g` runs. -/
def execVmuls (n : Cl) (g : Nat) (s : State) : Out := .next (runOp .vmuls n g s)

/-- VFMA: Fused d = s1 + s2 × s3, rounded once. The next order of group `g` runs. -/
def execVfma (n : Cl) (g : Nat) (s : State) : Out := .next (runOp .vfma n g s)

/-- VFMS: Fused d = s1 − s2 × s3, rounded once. The next order of group `g` runs. -/
def execVfms (n : Cl) (g : Nat) (s : State) : Out := .next (runOp .vfms n g s)

/-- VAXPY: Fused d = k × s1 + s2, rounded once. The next order of group `g` runs. -/
def execVaxpy (n : Cl) (g : Nat) (s : State) : Out := .next (runOp .vaxpy n g s)

/-- VRCP: Correctly rounded reciprocal. The next order of group `g` runs. -/
def execVrcp (n : Cl) (g : Nat) (s : State) : Out := .next (runOp .vrcp n g s)

/-- VDIV: Correctly rounded division. The next order of group `g` runs. -/
def execVdiv (n : Cl) (g : Nat) (s : State) : Out := .next (runOp .vdiv n g s)

/-- VSQRT: Correctly rounded square root. The next order of group `g` runs. -/
def execVsqrt (n : Cl) (g : Nat) (s : State) : Out := .next (runOp .vsqrt n g s)

/-- VRSQRT: Correctly rounded reciprocal square root. The next order of group `g` runs. -/
def execVrsqrt (n : Cl) (g : Nat) (s : State) : Out := .next (runOp .vrsqrt n g s)

/-- VAND: Bitwise AND. The next order of group `g` runs. -/
def execVand (n : Cl) (g : Nat) (s : State) : Out := .next (runOp .vand n g s)

/-- VOR: Bitwise OR. The next order of group `g` runs. -/
def execVor (n : Cl) (g : Nat) (s : State) : Out := .next (runOp .vor n g s)

/-- VXOR: Bitwise XOR. The next order of group `g` runs. -/
def execVxor (n : Cl) (g : Nat) (s : State) : Out := .next (runOp .vxor n g s)

/-- VNOT: Bitwise NOT. The next order of group `g` runs. -/
def execVnot (n : Cl) (g : Nat) (s : State) : Out := .next (runOp .vnot n g s)

/-- VSHL: Shift left by SH. The next order of group `g` runs. -/
def execVshl (n : Cl) (g : Nat) (s : State) : Out := .next (runOp .vshl n g s)

/-- VSHR: Logical shift right by SH. The next order of group `g` runs. -/
def execVshr (n : Cl) (g : Nat) (s : State) : Out := .next (runOp .vshr n g s)

/-- VSAR: Arithmetic shift right by SH. The next order of group `g` runs. -/
def execVsar (n : Cl) (g : Nat) (s : State) : Out := .next (runOp .vsar n g s)

/-- VCVT: Convert from TYPE to XT. The next order of group `g` runs. -/
def execVcvt (n : Cl) (g : Nat) (s : State) : Out := .next (runOp .vcvt n g s)

/-- VMOV: Copy s1 to d. The next order of group `g` runs. -/
def execVmov (n : Cl) (g : Nat) (s : State) : Out := .next (runOp .vmov n g s)

/-- VFILL: Fill d with the scalar k. The next order of group `g` runs. -/
def execVfill (n : Cl) (g : Nat) (s : State) : Out := .next (runOp .vfill n g s)

/-- MLD: Load a mask register from a packed stream. The next order of group `g` runs. -/
def execMld (n : Cl) (g : Nat) (s : State) : Out := .next (runOp .mld n g s)

/-- MST: Store a mask register to a packed stream. The next order of group `g` runs. -/
def execMst (n : Cl) (g : Nat) (s : State) : Out := .next (runOp .mst n g s)

/-- MCNT: Count the 1 bits among the N bits of a mask register into one word. The next order of group `g` runs. -/
def execMcnt (n : Cl) (g : Nat) (s : State) : Out := .next (runOp .mcnt n g s)

/-- RSUM: Sum reduction times k, rounded once. The next order of group `g` runs. -/
def execRsum (n : Cl) (g : Nat) (s : State) : Out := .next (runOp .rsum n g s)

/-- RDOT: Dot product times k, rounded once. The next order of group `g` runs. -/
def execRdot (n : Cl) (g : Nat) (s : State) : Out := .next (runOp .rdot n g s)

/-- RSUMSQ: Sum of squares times k. The next order of group `g` runs. -/
def execRsumsq (n : Cl) (g : Nat) (s : State) : Out := .next (runOp .rsumsq n g s)

/-- RMAX: Maximum reduction. The next order of group `g` runs. -/
def execRmax (n : Cl) (g : Nat) (s : State) : Out := .next (runOp .rmax n g s)

/-- RMIN: Minimum reduction. The next order of group `g` runs. -/
def execRmin (n : Cl) (g : Nat) (s : State) : Out := .next (runOp .rmin n g s)

/-- RIMAX: Lowest index of the maximum. The next order of group `g` runs. -/
def execRimax (n : Cl) (g : Nat) (s : State) : Out := .next (runOp .rimax n g s)

/-- RSEGDOT: Segmented dot products closed by a packed end stream. The next order of group `g` runs. -/
def execRsegdot (n : Cl) (g : Nat) (s : State) : Out := .next (runOp .rsegdot n g s)

/-- RSEGSUM: Segmented sums closed by a packed end stream. The next order of group `g` runs. -/
def execRsegsum (n : Cl) (g : Nat) (s : State) : Out := .next (runOp .rsegsum n g s)

/-- VIOTA: d[i] = k + i. The next order of group `g` runs. -/
def execViota (n : Cl) (g : Nat) (s : State) : Out := .next (runOp .viota n g s)

/-- VCMPR: Compress the active elements into d. The next order of group `g` runs. -/
def execVcmpr (n : Cl) (g : Nat) (s : State) : Out := .next (runOp .vcmpr n g s)

/-- VEXPD: Expand the source into the active positions. The next order of group `g` runs. -/
def execVexpd (n : Cl) (g : Nat) (s : State) : Out := .next (runOp .vexpd n g s)

/-- VINTP: Table interpolation at s1. The next order of group `g` runs. -/
def execVintp (n : Cl) (g : Nat) (s : State) : Out := .next (runOp .vintp n g s)

end Sys2Proof.Machine
end

