-- ==== Sys2Proof/Machine/Sets.lean ====
section
/-!
DEFINITION. Machine/Sets.lean: standing sets: building, arming, staged descriptors, pre-open, firing
(spec/03_vector_orders.md R99–R104, spec/05_vector_execution.md R158, R159), and the vector unit's
counters as they are read (R169, R173).
The model's own choices and readings (DEDUCED, DESIGN CHOICE, PRESUMED) are log entries 3, 7, 22, 29, 30, 41, 71 and 74.
-/
namespace Sys2Proof.Machine

/-- Set `k` of a cluster. -/
def setOf (k : Nat) (c : Cluster) : SetSt := smAt SetSt.reset c.sets k

/-- Put set `k`. -/
def putSet (k : Nat) (x : SetSt) (c : Cluster) : Cluster := { c with sets := smPut SetSt.reset c.sets k x }

/-- Set VU_SET_ERR.CODE. -/
def setErr (code : Nat) (c : Cluster) : Cluster := ioPut 0x1A8 (BitVec.ofNat 24 code) c

/-- ARM, BUILD, BUILT, START and COUNT of set `k`. -/
def setArm (k : Nat) (c : Cluster) : Bool := ioBit (0x190 + k) 0 c
/-- BUILD. -/
def setBuild (k : Nat) (c : Cluster) : Bool := ioBit (0x190 + k) 1 c
/-- BUILT. -/
def setBuilt (k : Nat) (c : Cluster) : Bool := ioBit (0x190 + k) 2 c
/-- START. -/
def setStart (k : Nat) (c : Cluster) : Nat := ioFld (0x190 + k) 16 10 c
/-- COUNT. -/
def setCount (k : Nat) (c : Cluster) : Nat := ioFld (0x190 + k) 9 5 c
/-- TICK. -/
def setTick (k : Nat) (c : Cluster) : Bool := ioBit (0x198 + k) 10 c
/-- RUNNING. -/
def setRunning (k : Nat) (c : Cluster) : Bool := ioBit (0x1A0 + k) 2 c

/-- Whether a set's groups are pre-opened: armed to the frame tick with PREOPEN = 1 (R101). -/
def setPreopens (k : Nat) (c : Cluster) : Bool := setTick k c && ioBit (0x190 + k) 4 c

/-- The descriptors that an order names, with the index descriptors of the indexed ones, copied from a table
(R237, R247). -/
def copyDescs (tbl : Nat → Desc × CapV) (o : Order96) : List (Nat × Desc × CapV) :=
  let named := [oDst o, oSrc o 1, oSrc o 2, oSrc o 3]
  let idx := (named.filter (fun j => (tbl j).1.mode == 1)).map (fun j => (tbl j).1.idxd)
  (named ++ idx).dedup.map fun j => (j, tbl j)

/-- Descriptor register `j` with the capability its CAP names. -/
def regDesc (c : Cluster) (j : Nat) : Desc × CapV :=
  let d := smAt Desc.zero c.dregs j
  (d, smAt CapV.null c.cregs d.cap)

/-- Descriptor `j` of a set's table. -/
def tableDesc (x : SetSt) (j : Nat) : Desc × CapV := smAt (Desc.zero, CapV.null) x.table j

/-- The scalar an order reads: its f register, for the SCAL values that name one (R87). -/
def orderK (c : Cluster) (o : Order96) : DWord := if oScal o < 16 then smAt 0 c.fregs (oScal o) else 0

/-- The orders of set `k` in slot order, with a descriptor table (R100). -/
def setOrders (tbl : Nat → Desc × CapV) (k : Nat) (c : Cluster) : List QOrder :=
  (List.range (setCount k c)).map fun i =>
    let slot := setStart k c + i
    let o := smAt 0 c.ostore slot
    ⟨o, BitVec.ofNat 24 slot, orderK c o, copyDescs tbl o⟩

/-- Orders cut into runs that end at CG = 1 (R94), each with the index of its first order; the last run may
lack its end. -/
def cutGroups : Nat → List QOrder → List QOrder → List (Nat × List QOrder)
  | b, acc, [] => if acc = [] then [] else [(b, acc)]
  | b, acc, q :: r =>
    if oCg q.bits then (b, acc ++ [q]) :: cutGroups (b + acc.length + 1) [] r
    else cutGroups b (acc ++ [q]) r

/-- The first failure of the close checks in slot order, as VU_SET_ERR's code (R100). -/
def closeFault (orders : List QOrder) : Option Nat :=
  if orders = [] then some 5
  else (cutGroups 0 [] orders).findSome? fun p =>
    let ends := match p.2.getLast? with | some q => oCg q.bits | none => false
    if ends then (groupFault p.2).map (·.1)
    else
      match p.2.zipIdx.findSome? (fun t =>
        if structFault p.2 t.2 t.1 then some 3 else if otherFault p.2 t.2 t.1 then some 7 else none) with
      | some r => some r
      | none => some 5

/-- The close of a build (R100). -/
def buildClose (n : Cl) (k : Nat) (s : State) : State :=
  let c := ioSetBit (0x190 + k) 1 false (s.cl n)
  match closeFault (setOrders (regDesc c) k c) with
  | some code => s.putCl n (setErr code c)
  | none =>
    let tbl := (List.range 16).foldl (fun m j => smPut (Desc.zero, CapV.null) m j (regDesc c j)) []
    s.putCl n (ioSetBit (0x190 + k) 2 true (putSet k { setOf k c with table := tbl } c))

/-- The task input of a set follows its selector: bound to CHAN while armed to a channel (R101, R349). -/
def setBind (n : Cl) (k : Set8) (s : State) : State :=
  let c := s.cl n
  rebind (taskSet n k) (if setArm k c && !setTick k c then some (ioFld (0x198 + k) 9 0 c) else none) s

/-- The opening of a build (R99, R103): BUILT and COUNT are cleared and staged changes discarded. DESIGN CHOICE (log entry
71): a second write of BUILD = 1 to the set under build begins the build again. -/
def buildOpen (k : Nat) (c : Cluster) : Cluster :=
  putSet k { setOf k c with staged := [] } <| (fun d : Cluster =>
      { d with aux := d.aux.filter fun x => !(x.kind == 3 && x.set == k) }) <|
    ioSetBit (0x1A0 + k) 1 false (ioSetBit (0x190 + k) 1 true (ioSetBit (0x190 + k) 2 false (ioSetFld (0x190 + k) 9 5 0 c)))

/-- A write of VU_SETn_CTL (R99–R101): a refused write changes nothing but VU_SET_ERR. START takes a value only
while ARM and BUILD are 0. -/
def setCtlWrite (n : Cl) (k : Set8) (v : Word) (s : State) : State :=
  let c := s.cl n
  let other := (List.range 8).any (fun j => decide (j ≠ k.val) && setBuild j c)
  if bitOf 1 v && (other || setArm k c) then s.putCl n (setErr 1 c)
  else if bitOf 0 v && !setArm k c && (!setBuilt k c || bitOf 1 v) && !(setBuild k c && !bitOf 1 v) then s.putCl n (setErr 2 c)
  else
    let c1 := ioSetBit (0x190 + k) 4 (bitOf 4 v) c
    let c2 := if !setArm k c && !setBuild k c then ioSetFld (0x190 + k) 16 10 (fld 16 10 v) c1 else c1
    let s1 :=
      if bitOf 1 v then s.putCl n (buildOpen k c2)
      else if setBuild k c then buildClose n k (s.putCl n c2)
      else s.putCl n c2
    let d := s1.cl n
    let s2 :=
      if bitOf 0 v && !setArm k d then
        (if setBuilt k d then s1.putCl n (ioSetBit (0x190 + k) 0 true (putSet k { setOf k d with armedAt := s.ticks, pre := none } d))
         else s1.putCl n (setErr 2 d))
      else s1.putCl n (ioSetBit (0x190 + k) 0 (bitOf 0 v) d)
    setBind n k s2

/-- The value of VU_SETn_CTL with a bit replaced: what a write that changes that bit alone carries. -/
def setCtlWith (n : Cl) (k : Set8) (i : Nat) (b : Bool) (s : State) : Word := setBit i b (ioGet (0x190 + k) (s.cl n))

/-- SET_BUILD_OPEN (R99). -/
def execSetBuildOpen (n : Cl) (k : Set8) (start : BitVec 7) (preopen : Bool) (s : State) : Out := onIsland n s <|
  .next (setCtlWrite n k (BitVec.ofNat 24 (start.toNat * 2 ^ 10 + preopen.toNat * 2 ^ 4 + 2)) s)

/-- SET_BUILD_CLOSE (R100). -/
def execSetBuildClose (n : Cl) (k : Set8) (s : State) : Out := onIsland n s <| .next (setCtlWrite n k (setCtlWith n k 1 false s) s)

/-- SET_ARM (R101). -/
def execSetArm (n : Cl) (k : Set8) (s : State) : Out := onIsland n s <| .next (setCtlWrite n k (setCtlWith n k 0 true s) s)

/-- SET_DISARM (R101). -/
def execSetDisarm (n : Cl) (k : Set8) (s : State) : Out := onIsland n s <| .next (setCtlWrite n k (setCtlWith n k 0 false s) s)

/-- An APPEND order reaches the order store (R99), or is an order fault that VU_SET_ERR records. DESIGN CHOICE (log entry 71):
a group that forms in the order queue stays as it is (R94). -/
def orderAppend (n : Cl) (o : Order96) (s : State) : State :=
  let c := s.cl n
  match (List.range 8).find? (fun k => setBuild k c) with
  | none => s.putCl n (setErr 9 c)
  | some k =>
    let slot := setStart k c + setCount k c
    let taken := (List.range 8).any fun j =>
      decide (j ≠ k) && setBuilt j c && decide (setStart j c ≤ slot) && decide (slot < setStart j c + setCount j c)
    if setCount k c = 16 then s.putCl n (setErr 8 c)
    else if 127 < slot ∨ taken then s.putCl n (setErr 6 c)
    else s.putCl n (ioSetFld (0x190 + k) 9 5 (setCount k c + 1) { c with ostore := smPut 0 c.ostore slot o })

/-- The staged changes that `p` picks take effect (R103); DPEND falls with the last. -/
def takeStaged (p : BitVec 64 → Bool) (k : Nat) (c : Cluster) : Cluster :=
  let x := setOf k c
  let now := x.staged.filter (fun t => p t.2.2.2)
  let rest := x.staged.filter (fun t => !p t.2.2.2)
  let tbl := now.foldl (fun m t => smPut (Desc.zero, CapV.null) m t.1 (t.2.1, t.2.2.1)) x.table
  putSet k { x with table := tbl, staged := rest } c

/-! ## Pre-open (R31, R101, R158, R159) -/

/-- The device time in ns of the next base frame tick. -/
def nextTickNs (s : State) : Nat :=
  let o := (hubTime 0x1011 s).toNat
  if (devTime s).toNat < o then o / 256 else o / 256 + (frameOfTime s + 1) * framePeriod s

/-- How many base ticks before a tick edge its 40 stream cycles begin (R101): of the cluster's clock, which lies within
1.2–1.9 GHz. -/
def preopenNs (n : Cl) : Nat := 21 + (Config.preopenLead n.val).val

/-- The base tick at which a cluster that pre-opens now has its tick edge, where the next base frame tick is its frame
tick. -/
def preopenEdge (s : State) : Nat := s.ticks.toNat + (nextTickNs s - s.ns.toNat)

/-- Whether the next base frame tick is a frame tick of VCn and its pre-open instant has come (R101). -/
def preopenTime (n : Cl) (s : State) : Bool :=
  isFrameTick n (frameOfTime s + 1) s && decide (nextTickNs s < s.ns.toNat + preopenNs n)

/-- Whether the cluster is in fault-stop (R263). -/
def faultStopped (c : Cluster) : Bool := decide (ioGet 0x1E c ≠ 0)

/-- Whether the sequencer stands at a boundary between words at which R257 permits an asynchronous event: every
earlier result is visible, no pair is split, no word waits to be cancelled. -/
def seqBoundary (c : Cluster) : Bool := c.due.isEmpty && c.slotA.isNone && !c.skipNext

/-- Whether the monitor has stopped the sequencer (R493): after HALT at the first boundary, after STEP behind the one word;
the results that are then under way become visible before anything else issues. -/
def seqHalted (c : Cluster) : Bool :=
  c.halted && !c.stepping && c.slotA.isNone && !c.skipNext && (!c.haltDue || c.due.isEmpty)

/-- Whether no set of the cluster fires: in fault-stop, and while the sequencer is halted (R263, R493). -/
def setsStopped (c : Cluster) : Bool := faultStopped c || seqHalted c

/-- The number of words that pre-open fetches of a stream, at most 64 (R89, R158). -/
def fillWords (x : Strm) : Nat :=
  if x.indexed then 0
  else if x.tab then 2 * x.w
  else if x.bcast then x.w
  else if x.d.mode = 2 then min 64 ((x.cnt + 23) / 24)
  else min 64 (x.cnt * x.w / x.w * x.w)

/-- The address of the `k`-th of those words. -/
def fillAddr (x : Strm) (k : Nat) : Nat :=
  let b : Int := x.d.base.toNat
  if x.tab ∨ x.bcast ∨ x.d.mode = 2 then (b + k).toNat else (b + (k / x.w : Nat) * x.d.stride.toInt + (k % x.w : Nat)).toNat

/-- Whether the words that pre-open fetches lie in plots that the cluster owns (R31). -/
def fillOwned (n : Cl) (x : Strm) (s : State) : Bool :=
  (List.range (fillWords x)).all fun k =>
    match regionOf (fillAddr x k) with
    | .ls m o => ownerAdmits m (s.cl m) (plotOf o).1 (.stream n)
    | .xchg m o => ownerAdmits m (s.cl m) (plotOf (0x40000 + o)).1 (.stream n)
    | _ => true

/-- Pre-open of one stream of the group whose first order is order `b` of its set (R31, R158): its open checks, but that of
the owner where its first words lie in a plot of another owner; a stream that opens is filled where its group can start at
the tick and no service pause holds it (R481). -/
def preopenStream (n : Cl) (b : Nat) (g : Group) (starts : Bool) (p : PreOpenSt × State) (x : Strm) : PreOpenSt × State :=
  let num := groupN g.orders
  let note (cause : Nat) (a : Int) (q : PreOpenSt × State) : PreOpenSt × State :=
    let e := excOf g cause x.pos x.role 0 a 0
    if q.1.faults.any (fun f => f.pc == e.pc) then q else ({ q.1 with faults := q.1.faults ++ [e] }, q.2)
  match openForm n num x p.2 with
  | some f => note f.1 f.2 p
  | none =>
    if !fillOwned n x p.2 then p
    else match openCheck n num x p.2 with
    | .fault cause a => note cause a p
    | .held => p
    | .ok =>
      let q : PreOpenSt × State := ({ p.1 with opened := p.1.opened ++ [(b + x.pos, x.role)] }, p.2)
      if !starts || pausedStream n p.2 x then q
      else (List.range (fillWords x)).foldl (fun (u : PreOpenSt × State) k =>
        match agentRead (.stream n) (fillAddr x k) u.2 with
        | (.ok v, t) =>
          ({ u.1 with words := smPut none u.1.words (fillKey (b + x.pos) x.role k) (some v) }, t)
        | (.ue, t) => note 6 (fillAddr x k) (u.1, t)
        | (_, t) => (u.1, t)) q

/-- The groups of set `k` as it fires or pre-opens, each with the index of its first order. -/
def setGroups (k : Nat) (c : Cluster) : List (Nat × Group) :=
  (cutGroups 0 [] (setOrders (tableDesc (setOf k c)) k c)).map fun p =>
    (p.1, newGroup (c.nextGid + p.1) (some k) p.2 false false 0)

/-- The groups of a cluster as set `k` fires with its groups `mine` (R102): they go ahead of the sequencer's groups that have
not passed their commit points, of which those that run are displaced. -/
def fireGroups (mine : List Group) (gs : List Group) : List Group :=
  let ahead (g : Group) : Bool := g.set.isSome || (g.phase == .running && g.committed)
  (gs.filter ahead).map (fun g => if g.set.isNone then { g with asked := true } else g) ++ mine ++
    (gs.filter (fun g => !ahead g)).map fun g => if g.phase = .running then stopGroup .displaced g else g

/-- Whether a set armed to the frame tick is built and armed in time for a tick edge at base tick `at'` (R101). DESIGN CHOICE
(log entry 71): a set with PREOPEN = 0 that is armed after the pre-open point of a tick fires at that tick. -/
def tickSet (n : Cl) (k : Nat) (at' : Nat) (c : Cluster) : Bool :=
  setArm k c && setTick k c && setBuilt k c && (!setPreopens k c || decide ((setOf k c).armedAt.toNat + preopenNs n ≤ at'))

/-- Which of the groups of a cluster start in issue order, each once those before it have (R98, R156). -/
def startAll (c : Cluster) : Cluster :=
  c.groups.foldl (fun d g => match mayStart (fun _ => false) g d with
    | none => d
    | some red => startIn g red d) c

/-- Whether a group of a set would start at the tick edge `at'` (R158): among the groups that run on then and those of every
set that fires there, in ascending set number. -/
def startsAtTick (n : Cl) (k : Nat) (at' : Nat) (c : Cluster) (g : Group) : Bool :=
  let sets := (List.range 8).filter fun j => tickSet n j at' c
  let c1 := { c with groups := c.groups.filter fun e => !sets.any (fun j => e.set == some j) }
  let c2 := sets.foldl (fun (d : Cluster) j =>
    let mine := (setGroups j c).map fun p => { p.2 with gid := d.nextGid + p.1 }
    { d with groups := fireGroups mine d.groups, nextGid := d.nextGid + setCount j c + 1 }) c1
  (startAll c2).groups.any fun e => e.set == some k && decide (e.orders = g.orders) && e.phase == .running

/-- The pre-open of a set (R31, R101, R103, R158): staged changes so far take effect, the read streams are checked, and the
buffers of the groups that can start at the tick are filled. A group with N = 0 opens none (R78). -/
def preOpenRun (n : Cl) (k : Nat) (s : State) : State :=
  let c1 := takeStaged (fun _ => true) k (s.cl n)
  let s1 := s.putCl n c1
  let r := (setGroups k c1).foldl (fun (p : PreOpenSt × State) g =>
    if groupN g.2.orders = 0 then p
    else ((groupStreams (groupN g.2.orders) g.2.orders).filter (fun x => !x.wr)).foldl
      (preopenStream n g.1 g.2 (startsAtTick n k (preopenEdge s) c1 g.2)) p) (⟨[], [], []⟩, s1)
  r.2.modCl n fun d => putSet k { setOf k d with pre := some r.1 }
    (if r.1.words = [] then d else ask [0, 1, 2, 3, 4, 5] d)

/-! ## Firing (R101–R104) -/

/-- What pre-open fetched for a group, with its orders counted from the group's first. -/
def fillOf (b len : Nat) (pre : Option PreOpenSt) : SMap (Option Word) :=
  match pre with
  | none => []
  | some p => p.words.foldl (fun m e =>
      let pos := e.1 / 512
      if b ≤ pos ∧ pos < b + len then smPut none m (e.1 - b * 512) e.2 else m) []

/-- The streams that pre-open opened for a group, with its orders counted from the group's first. -/
def openedOf (b len : Nat) (pre : Option PreOpenSt) : List (Nat × Nat) :=
  ((pre.elim [] (·.opened)).filter fun p => decide (b ≤ p.1) && decide (p.1 < b + len)).map fun p => (p.1 - b, p.2)

/-- The exchange plots of VCn that the write streams of a set touch (R516). -/
def writtenPlots (n : Cl) (gs : List (Nat × Group)) : List Nat :=
  (gs.flatMap fun g => (groupExtents true g.2).flatMap fun e =>
    match placeOf n e.1 e.2 with
    | some .exchange => (plotsOf n .exchange e.1 e.2).map (·.2.1)
    | _ => []).dedup

/-- A pre-opened read stream of a group, whose first order is order `b` of its set, that lies in a plot which the tick handed
away (R159). -/
def lostStream (n : Cl) (b : Nat) (g : Group) (p : PreOpenSt) (s : State) : Option (Strm × Int) :=
  (groupStreams (groupN g.orders) g.orders).findSome? fun (x : Strm) =>
    if p.opened.contains (b + x.pos, x.role) && !x.wr then (lostPlot n x s).map fun a => (x, (a : Int)) else none

/-- A fault of one group of a firing is delivered: what pre-open found, or a stream that it opened and the tick took
away (R159). -/
def fireFault (n : Cl) (p : PreOpenSt) (g : Nat × Group) (s : State) : State :=
  let first : Word := match g.2.orders.head? with | some o => o.pc | none => 0
  match p.faults.find? (fun (e : ExcRec) => e.pc == first) with
  | some e => precise n g.2.gid e s
  | none =>
    match lostStream n g.1 g.2 p s with
    | none => s
    | some (x, a) => precise n g.2.gid (excOf g.2 4 x.pos x.role 0 a 0) (openRefuse n x 4 a s)

/-- VU_SETn_STAT.DPEND: a change is staged, or being staged (R103). -/
def syncDpend (k : Nat) (c : Cluster) : Cluster :=
  ioSetBit (0x1A0 + k) 1 (!(setOf k c).staged.isEmpty || c.aux.any fun x => x.kind == 3 && x.set == k) c

/-- A firing set's groups are issued (R102, R159): they go ahead of the sequencer's groups that have not started, those
that run uncommitted are displaced; the faults of its groups that pre-open and the tick found are delivered. -/
def setIssue (n : Cl) (gs : List (Nat × Group)) (pre : Option PreOpenSt) (s : State) : State :=
  let t := s.modCl n fun c => { c with groups := fireGroups (gs.map (·.2)) c.groups }
  match pre with
  | none => t
  | some p => gs.foldl (fun u g => fireFault n p g u) t

/-- A change of a descriptor is staged in place of an earlier one of the same descriptor (R103). -/
def stageChange (k : Nat) (e : Nat × Desc × CapV × BitVec 64) (c : Cluster) : Cluster :=
  let x := setOf k c
  syncDpend k (putSet k { x with staged := (x.staged.filter fun p => p.1 ≠ e.1) ++ [e] } c)

/-- What pre-open, set issue or descriptor staging does when its routine has ended (R278). -/
def auxDone (n : Cl) (x : AuxRun) (s : State) : State :=
  match x.kind, x.stage with
  | 1, _ => preOpenRun n x.set s
  | 2, _ => setIssue n x.groups x.pre s
  | _, some e => s.modCl n (stageChange x.set e)
  | _, none => s

/-- The routine in one of the three contexts for pre-open, set issue and staging goes on by a free number of microwords; it
acts when it ends, and one that stops with an error does not (R278, R282, log entry 7). -/
def auxStep (n : Cl) (kind : Nat) (s : State) : State :=
  match (s.cl n).aux.find? (fun x => x.kind == kind) with
  | none => s
  | some x =>
    let r := auxWords n x.half (Config.freeNat s.fresh) x.ctx (drawn s)
    let off := r.2.modCl n fun c => { c with aux := c.aux.erase x }
    match r.1.2 with
    | some p => setSettle n (auxError n x.set p (off.modCl n (syncDpend x.set)))
    | none =>
      if r.1.1.ended then auxDone n x off
      else r.2.modCl n fun c => { c with aux := c.aux.map fun y => if y = x then { y with ctx := r.1.1 } else y }

/-- The routines of a cluster that serve no group go on. -/
def auxAll (n : Cl) (s : State) : State := if (s.cl n).aux.isEmpty then s else auxStep n 3 (auxStep n 2 (auxStep n 1 s))

/-- A routine for pre-open, set issue or staging begins in its context; of the ROM alone it has ended at once (log entry
7). -/
def auxStart (n : Cl) (x : AuxRun) (s : State) : State :=
  if microQuiet x.half (s.cl n) then auxDone n x s
  else auxStep n x.kind (s.modCl n fun c => { c with aux := c.aux ++ [x] })

/-- A routine that begins now for set `k`. -/
def auxNew (n : Cl) (kind k : Nat) (s : State) : AuxRun := ⟨kind, k, activeHalf n s, microStart kind [], none, [], none⟩

/-- PRE_OPEN (R31, R101): at the pre-open instant of a set armed to the frame tick. -/
def execPreOpen (n : Cl) (k : Set8) (s : State) : Out := onIsland n s <|
  let c := s.cl n
  if !setArm k c ∨ !setPreopens k c ∨ (setOf k c).pre.isSome ∨ !gridRun s ∨ setsStopped c ∨ !preopenTime n s ∨
      !tickSet n k (preopenEdge s) c ∨ c.aux.any (fun x => x.kind == 1 && x.set == k.val) then .next s
  else .next (auxStart n (auxNew n 1 k s) s)

/-- A write of VU_SDESC_CMD (R103): the change is staged with the capability its slot holds now. -/
def sdescCmd (n : Cl) (k j : Nat) (s : State) : State :=
  let c := s.cl n
  if !setBuilt k c then s.putCl n (setErr 0xA c)
  else
    let w (i : Nat) : Word := ioGet (0x1B0 + i) c
    let d : Desc := ⟨(w 1 ++ w 0).setWidth 40, w 2, w 3, w 4 &&& attrMask⟩
    (auxStart n { auxNew n 3 k s with stage := some (j, d, smAt CapV.null c.cregs d.cap, s.ticks) } s).modCl n (syncDpend k)

/-- SDESC_CMD (R103). -/
def execSdescCmd (n : Cl) (k : Set8) (d : Reg) (s : State) : Out := onIsland n s <| .next (sdescCmd n k d s)

/-- LOCAL_BASE_TICK (R39, R69, R278): the replica advances by 256 grains. The beacon of a STEP is loaded; any
other full-value beacon that differs is loaded too, sets BEACON_ERR and is counted. The micro-sequencer goes on. -/
def execLocalBaseTick (n : Cl) (s : State) : Out := onIsland n s <|
  let adv := (s.cl n).localNs + 1
  .next (auxAll n (
    if s.tb.stepBeacon then s.modCl n fun c => { c with localNs := s.ns }
    else if s.ns.toNat % 1000 = 0 ∧ adv ≠ s.ns then
      tbFlag 7 (odCount 0xC022 0 (s.modCl n fun c => { c with localNs := s.ns }))
    else s.modCl n fun c => { c with localNs := adv }))

/-- A set fires (R102, R103): its staged changes take effect, its groups take their descriptors and scalars, and the routine
of set issue begins. -/
def setFire (n : Cl) (k : Nat) (s : State) : State :=
  let c := s.cl n
  let pre := (setOf k c).pre
  let c1 :=
    if !setPreopens k c then takeStaged (fun _ => true) k c
    else if pre.isSome then c
    else takeStaged (fun t => decide (t.toNat + preopenNs n ≤ s.ticks.toNat)) k c
  let gs := setGroups k c1
  let mine := gs.map fun g => (g.1, { g.2 with
    filled := fillOf g.1 g.2.orders.length pre, opened := openedOf g.1 g.2.orders.length pre })
  let c2 := putSet k { setOf k c1 with pre := none, plots := writtenPlots n gs, missed := none }
    { c1 with nextGid := c1.nextGid + setCount k c1 + 1
              aux := c1.aux.filter fun x => !(x.kind == 1 && x.set == k) }
  let t := s.putCl n (evcEvent 0x0D 1 (syncDpend k (ioSetBit (0x1A0 + k) 2 true c2)))
  auxStart n { auxNew n 2 k t with groups := mine, pre := pre } t

/-- A set is abandoned (R55, R110): its groups stop where they are, the words in their buffers are discarded. -/
def setAbandon (k : Nat) (c : Cluster) : Cluster :=
  ioSetBit (0x1A0 + k) 2 false { c with
    groups := c.groups.filter (fun g => g.set ≠ some k)
    aux := c.aux.filter fun x => x.kind == 3 || x.set != k }

/-- Whether a set armed to the frame tick fires at this tick (R101): where it pre-opens, its ARM write came in time. -/
def firesAtTick (n : Cl) (k : Nat) (s : State) (c : Cluster) : Bool := tickSet n k s.ticks.toNat c

/-- SET_FIRE_EVENT (R101, R104): an event reaches a set armed to a channel. While the grid is stopped or held, or
the cluster is being replayed (R430), it is dropped; while the set runs it is dropped and sets OVR. -/
def execSetFireEvent (n : Cl) (k : Set8) (s : State) : Out := onIsland n s <|
  if !taskWaits (taskSet n k) s then .next s
  else
    let t := takeTask (taskSet n k) s
    let c := t.cl n
    if !gridRun t ∨ holdActive t ∨ isolated n t ∨ setsStopped c ∨ !setArm k c ∨ setTick k c then .next t
    else if setRunning k c then .next (t.putCl n (irqRaise 3 (ioSetBit (0x1A0 + k) 0 true c)))
    else .next (setFire n k t)

/-! ## Counters (R169, R173) -/

/-- Set every VU_CONF counter to 0 (R169). The streams of a group that runs go on making requests. -/
def confClear (c : Cluster) : Cluster :=
  (List.range 24).foldl (fun d i => ioPut (0x1E0 + i) 0 d) { c with
    conf := if c.groups.any (fun g => g.phase == .running) then c.conf.filter (fun k => decide (k < 9)) else [] }

/-- VU_CONF_CLEAR (R169). -/
def execVuConfClear (n : Cl) (s : State) : Out := onIsland n s <| .next (s.modCl n confClear)

/-- The conflict counter at an IO offset has advanced by the cycles in which its master waited, unless it is frozen or the
master has made no request: the model does not follow the banks cycle by cycle, so the amount is free (R169, log entry
3). -/
def confRun (n : Cl) (off : Nat) (s : State) : State :=
  if ioBit 0x1F8 1 (s.cl n) || !(s.cl n).conf.contains ((off - 0x1E0) / 2) then s
  else drawn (s.modCl n fun c => ioPutPair off (ioPair off c + BitVec.ofNat 48 (Config.freeNat s.fresh)) c)

/-- Every conflict counter comes up to date. -/
def confRunAll (n : Cl) (s : State) : State := (List.range 12).foldl (fun t i => confRun n (0x1E0 + 2 * i) t) s

/-- A write of VU_CONF_CTL (R169): the counters hold their values from FREEZE on. -/
def confCtlWrite (n : Cl) (v : Word) (s : State) : State :=
  (confRunAll n s).modCl n fun c =>
    let d := ioCodeWrite 0x1F8 v c
    if bitOf 0 v then confClear d else d

/-- The slots of a base frame (R170). -/
def frameSlots (s : State) : Nat := (framePeriod s + 7) / 8

/-- The slots of the current base frame that have passed. -/
def slotsPassed (s : State) : Nat :=
  ((devTime s).toNat - (hubTime 0x1011 s).toNat) % (framePeriod s * 256) / 2048

/-- How many of the slots from `lo` on below `hi` two clusters reserve at the port of cluster `n` (R170, R171, R173). -/
def clashSlots (n : Cl) (lo hi : Nat) (s : State) : Nat :=
  ((List.range hi).filter fun t => decide (lo ≤ t) &&
    decide (2 ≤ (allCl.filter fun m =>
      let e := smAt 0 (s.cl m).fslot (t % 128)
      bitOf 23 e && decide (fld 7 0 e = n.val) && m != n).length)).length

/-- The clash count of VCn comes up to slot `hi` of the base frame (R173): of the slots that two clusters reserve at its port,
it counts those in which both had requests there, a free number, since the model does not place requests in slots. -/
def clashTake (hi : Nat) (n : Cl) (s : State) : State :=
  let k := clashSlots n (s.cl n).clashTo hi s
  if !s.tb.slots ∨ k = 0 then s
  else drawn (s.modCl n fun c => ioPutPair 0x1FA (ioPair 0x1FA c + BitVec.ofNat 48 (Config.freeNat s.fresh % (k + 1)))
    { c with clashTo := hi })

/-- The clashes of the base frame that ends are counted. -/
def clashFrame (s : State) : State := if s.tb.slots then allCl.foldl (fun t n => clashTake (frameSlots s) n t) s else s

/-- A read of W0 of the clash count. -/
def clashRead (n : Cl) (s : State) : State := clashTake (slotsPassed s) n s

/-- A read of W0 of a two-word register by the cluster's own sequencer: W1 is snapshotted for its bank (R37). -/
def ioPairRead (n : Cl) (off : Nat) (s0 : State) : State :=
  let s := if 0x1E0 ≤ off ∧ off < 0x1F8 then confRun n off s0 else if off = 0x1FA then clashRead n s0 else s0
  let c := s.cl n
  respond [ioGet off c] (snapPut (ioSnapReg n off) (bankReader c) ((ioGet (off + 1) c).setWidth 48) s)

/-- VU_CONF_W0_READ (R169). -/
def execVuConfW0Read (n : Cl) (i : Fin 12) (s : State) : Out := onIsland n s <| .next (ioPairRead n (0x1E0 + 2 * i.val) s)

/-- VU_FSLOT_CLASH_W0_READ (R173). -/
def execVuFslotClashW0Read (n : Cl) (s : State) : Out := onIsland n s <| .next (ioPairRead n 0x1FA s)

end Sys2Proof.Machine
end

