-- ==== Sys2Proof/Machine/Params.lean ====
section
/-!
DEFINITION. Machine/Params.lean: parameter queues, the dictionary server's backlog and its responses
(spec/15_object_dictionary.md R408, R412, R414, R417–R424).
The model's own choices and readings (DEDUCED, DESIGN CHOICE, PRESUMED) are log entries 56 and 57.
-/
namespace Sys2Proof.Machine

/-! ## Responses (R408–R412, R424) -/

/-- The words of a response (R408, R409): OP, SEQ, INDEX and SUBINDEX as given, STATUS, TYPE, the data, word 3. -/
def nfpWords (op seq idx sub status ty : Nat) (data : List Word) (w3 : Word) : List Word :=
  [BitVec.ofNat 24 (2 ^ 20 + op % 16 * 2 ^ 16 + seq % 2 ^ 16), BitVec.ofNat 24 (idx % 2 ^ 16 * 256 + sub % 256),
   BitVec.ofNat 24 (status * 2 ^ 16 + ty * 2 ^ 12 + data.length), w3] ++ data

/-- The STATUS of a message. -/
def nfpStatus (ws : List Word) : Nat := fld 23 16 (ws.getD 2 0)

/-- The SEQ of a message. -/
def nfpSeq (ws : List Word) : BitVec 16 := (ws.getD 0 0).setWidth 16

/-- A response leaves on its path and is counted (R411, R414, R415, R424); one whose mailbox has completed without it is
discarded (R398). -/
def nfpSend (path : NfpPath) (ws : List Word) (s : State) : State :=
  let s1 := odCount 0xC0A0 0 (if nfpStatus ws = 0 then s else odCount 0xC0A1 0 s)
  let s2 := respond ws { s1 with od := { s1.od with out := s1.od.out ++ [(path, ws)] } }
  match path with
  | .mailbox m => mailboxRespond m (nfpStatus ws) ws s2
  | .monitor => { s2 with mon := { s2.mon with resp := ws, ok := true, code := 0 } }
  | .lost => s1
  | .field .. => s2

/-- The kept responses of one peer less the ones older than 1 s: those to its last 16 requests (R412). -/
def keptOf (peer : NfpPeer) (s : State) : List Kept :=
  let mine := s.od.kept.filter fun (k : Kept) => k.peer == peer && decide ((s.ticks - k.at').toNat ≤ 10 ^ 9)
  mine.drop (mine.length - 16)

/-- Answer a request for the first time: the response is kept for a field peer (R412). -/
def nfpAnswer (path : NfpPath) (ws : List Word) (s : State) : State :=
  match path with
  | .field _ peer _ =>
    let others := s.od.kept.filter fun (k : Kept) => k.peer != peer
    let mine := keptOf peer s
    nfpSend path ws { s with od := { s.od with kept := others ++ mine.drop (mine.length - 15) ++ [⟨peer, nfpSeq ws, ws, s.ticks⟩] } }
  | _ => nfpSend path ws s

/-- Request `req` waits no more: nobody answers it. -/
def forget (req : Nat) (s : State) : State :=
  { s with od := { s.od with waiting := s.od.waiting.filter fun (x : Waiting) => x.req != req } }

/-- The response of request `req` is sent, if one waits: with STATUS and data (R409, R418). -/
def answerReq (req status ty : Nat) (data : List Word) (s : State) : State :=
  match s.od.waiting.find? fun (w : Waiting) => w.req == req with
  | none => s
  | some w =>
    nfpAnswer w.path ([w.hdr.getD 0 0, w.hdr.getD 1 0, BitVec.ofNat 24 (status * 2 ^ 16 + ty * 2 ^ 12 + data.length),
      w.hdr.getD 3 0] ++ data) (forget req s)

/-! ## The parameter queue of a cluster (R419, R423) -/

/-- The base offset of a cluster's queue registers. -/
def pqBase (n : Cl) : Nat := 0x300000 + 0x10 * n.val

/-- EMPTY, FULL and LEVEL of OD_PQ_STAT follow the queue. -/
def pqLevel (n : Cl) (s : State) : State :=
  let k := (s.cl n).pq.length
  let o := pqBase n + 5
  hubSetFld o 4 0 k (hubSetBit o 22 (decide (k = 16)) (hubSetBit o 23 (decide (k = 0)) s))

/-- Why a push is refused (R423), one bit each: FULL, ADDR, CAP. -/
def pqRefusals (n : Cl) (e : PEntry) (s : State) : Bool × Bool × Bool :=
  let c := s.cl n
  let k := e.words.length
  (decide (16 ≤ c.pq.length), decide (k = 0) || decide (0x3FFFF < e.offset + k - 1),
   (capFault c.pqCap (lsAddr n e.offset) k permWR).isSome)

/-- Push an entry (R423): refused with its error bits, or queued. -/
def pqPush (n : Cl) (e : PEntry) (s : State) : State :=
  let r := pqRefusals n e s
  let o := pqBase n + 5
  let mark (i : Nat) (b : Bool) (t : State) : State := if b then hubSetBit o i true t else t
  if r.1 || r.2.1 || r.2.2 then mark 21 r.1 (mark 20 r.2.1 (mark 19 r.2.2 s))
  else pqLevel n (s.modCl n fun c => { c with pq := c.pq ++ [e] })

/-- OD_PQ_PUSH (R423): the entry in OD_PQ_ADDR and OD_PQ_V0–V2. -/
def execOdPqPush (n : Cl) (s : State) : Out := awake s <|
  let a := hubGet (pqBase n) s
  let ws := (List.range (fld 23 22 a)).map fun i => hubGet (pqBase n + 1 + i) s
  .next (pqPush n ⟨fld 17 0 a, ws, none, 0, false⟩ s)

/-- OD_PQ_CAP_W3_WRITE (R423): the capability in W0–W2 and this word is installed when its TAG verifies, null
otherwise. -/
def execOdPqCapW3Write (n : Cl) (v : Word) (s : State) : Out := awake s <|
  let w (i : Nat) : Word := hubGet (pqBase n + 0xC + i) s
  let c := loadCap s (capOfWords (w 0) (w 1) (w 2) v)
  let t := match c with | none => tagFailed s | some _ => s
  .next (t.modCl n fun d => { d with pqCap := c.getD CapV.null })

/-- OD_PQ_LAST_F0_READ (R423, R35). -/
def execOdPqLastF0Read (n : Cl) (m : Master) (s : State) : Out := awake s <| .next (readPairW0 (pqBase n + 6) m s)

/-- OD_PQ_APPLIED_W0_READ (R423, R35). -/
def execOdPqAppliedW0Read (n : Cl) (m : Master) (s : State) : Out := awake s <| .next (readPairW0 (pqBase n + 8) m s)

/-- A word of a parameter's home enters the pre-opened buffers that hold it (R419). -/
def preopenPatch (_n : Cl) (addr : Nat) (v : Word) (c : Cluster) : Cluster :=
  (List.range 8).foldl (fun d k =>
    match (setOf k d).pre with
    | none => d
    | some p =>
      let words := (setGroups k d).foldl (fun (m : SMap (Option Word)) (g : Nat × Group) =>
        ((groupStreams (groupN g.2.orders) g.2.orders).filter fun (x : Strm) => !x.wr).foldl (fun m (x : Strm) =>
          (List.range (fillWords x)).foldl (fun m i =>
            let key := fillKey (g.1 + x.pos) x.role i
            if fillAddr x i = addr ∧ (smAt none m key).isSome then smPut none m key (some v) else m) m) m) p.words
      putSet k { setOf k d with pre := some { p with words := words } } d) c

/-- One word of a home is written (R419): whoever owns the plot; a running sequencer-issued group may still read
the word before. -/
def homeWrite (n : Cl) (off : Nat) (v : Word) (s : State) : State :=
  let a := lsAddr n off
  let old := memGet a s
  memPut a v (s.modCl n fun c => preopenPatch n a v { c with groups := c.groups.map fun (g : Group) =>
    if g.set.isNone && g.phase == .running && (smAt none g.homes a).isNone then { g with homes := smPut none g.homes a (some old) } else g })

/-- Whether the dictionary server runs: Topsoil runs, is not being replaced, and its unit is not fenced (R415, R441). -/
def serverUp (s : State) : Bool :=
  s.sec.topRuns && s.sec.quiesceAt.isNone && decide (4 ≤ mode s) && !hubBit 0x50021 5 s

/-- Apply the oldest entry (R418–R420): its words together, LAST and APPLIED, the server's value, the response
that waits for it. While no server runs nobody sends it (DESIGN CHOICE, log entry 57): the requester repeats the request
(R415, R442). -/
def paramApply (n : Cl) (s : State) : State :=
  match (s.cl n).pq with
  | [] => s
  | e :: rest =>
    let offs := (List.range e.words.length).map fun i => e.offset + i
    let s1 := s.modCl n fun c => { c with pq := rest }
    let s2 := wrote (offs.map (lsAddr n)) ((offs.zip e.words).foldl (fun t p => homeWrite n p.1 p.2 t) s1)
    let s3 := hubCount (pqBase n + 8) (hubPutPair (pqBase n + 6) (hubPair 0x1018 s2) (pqLevel n s2))
    let s4 := odCount 0xC0A3 0 s3
    let s5 := match e.key with
      | none => s4
      | some k => { s4 with od := { s4.od with params := s4.od.params.map fun (p : Param) =>
          if p.key = k then { p with applied := e.words } else p } }
    let s6 := s5.modCl n fun c => evcEvent 0x13 1 { c with jParams := c.jParams ++ [e] }
    if e.last && serverUp s6 then answerReq e.req 0 4 (DWord.words (hubPair 0x1018 s6)) s6
    else if e.last then forget e.req s6 else s6

/-- PARAM_QUEUE_APPLY_STOPPED (R420): while the grid is stopped the queue applies its entries in order. A failed
cluster's queue is stopped (R427). -/
def execParamQueueApplyStopped (n : Cl) (s : State) : Out := onIsland n s <|
  .next (if gridRun s || isolated n s || (s.cl n).failover.isSome then s else paramApply n s)

/-! ## The server's pushes (R418, R421, R437) -/

/-- The backlog of a cluster. -/
def backlogOf (n : Cl) (s : State) : List PEntry := smAt [] s.od.backlog n

/-- Put the backlog of a cluster. -/
def putBacklog (n : Cl) (b : List PEntry) (s : State) : State :=
  { s with od := { s.od with backlog := smPut [] s.od.backlog n b } }

/-- The server's write of an entry into the queue registers, then PUSH (R418). -/
def serverPush (n : Cl) (e : PEntry) (s : State) : State :=
  let a : Word := BitVec.ofNat 24 (e.words.length % 4 * 2 ^ 22 + e.offset % 2 ^ 18)
  pqPush n e (hubPuts (pqBase n + 1) e.words (hubPut (pqBase n) a s))

/-- The server hands an entry to a cluster's queue: behind a backlog it waits; a full queue leaves it in the
backlog; ERR_CAP or ERR_ADDR answers false (R418, R421). -/
def serverOffer (n : Cl) (e : PEntry) (s : State) : Bool × State :=
  let r := pqRefusals n e s
  if backlogOf n s ≠ [] then (true, putBacklog n (backlogOf n s ++ [e]) s)
  else
    let t := serverPush n e s
    if r.2.1 || r.2.2 then (false, t)
    else if r.1 then (true, putBacklog n [e] t)
    else (true, t)

/-- The server pushes an entry of a request, for the primary of a pair into both queues (R437). A read returns what the
primary's queue last applied, so the secondary's entry names no parameter. -/
def serverEntry (n : Cl) (e : PEntry) (s : State) : Bool × State :=
  let (ok, t) := serverOffer n e s
  match pairSecond n s with
  | some m => (ok, if ok then (serverOffer m { e with key := none, req := 0, last := false } t).2 else t)
  | none => (ok, t)

/-- The entries of one request, in order: none after a refused one (R418). -/
def serverEntries (n : Cl) (es : List PEntry) (s : State) : Bool × State :=
  es.foldl (fun (p : Bool × State) e => if p.1 then serverEntry n e p.2 else p) (true, s)

/-- PARAM_BACKLOG_PUSH (R418): when the queue has room the server pushes its oldest waiting entry; a refusal drops
the entry and the later ones of its request, which is answered with STATUS 0x07. While Topsoil is replaced or its unit is
fenced nothing is pushed (R415). -/
def execParamBacklogPush (n : Cl) (s : State) : Out := awake s <|
  match backlogOf n s with
  | [] => .next s
  | e :: rest =>
    if !serverUp s then .next s else
    let r := pqRefusals n e s
    if r.1 then .next s
    else
      let t := serverPush n e (putBacklog n rest s)
      if r.2.1 || r.2.2 then
        let left := if e.req = 0 then rest else rest.filter fun (x : PEntry) => x.req != e.req
        .next (answerReq e.req 7 0 [] (putBacklog n left t))
      else .next t

end Sys2Proof.Machine
end

