-- ==== Sys2Proof/Machine/Ucode.lean ====
section
/-!
DEFINITION. Machine/Ucode.lean: the patch RAM of a cluster's control store, its loading and its live
switching (spec/09_microcode.md R287–R294). A patch changes no result and no flag (R295).
The model's own choices and readings (DEDUCED, DESIGN CHOICE, PRESUMED) are log entries 7 and 37.
-/
namespace Sys2Proof.Machine

/-- The base offset of a cluster's UCODE block. -/
def ucReg (n : Cl) : Nat := 0x200000 + 0x20 * n.val

/-- Whether the inactive half is half B (R291): half A while UCODE_STAT.ROMONLY is 1. -/
def ucInactive (n : Cl) (s : State) : Bool := !hubBit (ucReg n + 2) 3 s && !hubBit (ucReg n + 2) 0 s

/-- A half's VALID bit of UCODE_STAT. -/
def ucValid (n : Cl) (b : Bool) (s : State) : Bool := hubBit (ucReg n + 2) (if b then 2 else 1) s

/-- Set or clear a half's VALID bit. -/
def ucSetValid (n : Cl) (b v : Bool) (s : State) : State := hubSetBit (ucReg n + 2) (if b then 2 else 1) v s

/-- Put a half of a cluster's patch RAM. -/
def ucPutHalf (b : Bool) (h : PatchHalf) (c : Cluster) : Cluster :=
  if b then { c with patchB := h } else { c with patchA := h }

/-- UCODE_STAT.OLDBUSY: a context still uses the inactive half (R293). -/
def ucOldBusy (n : Cl) (s : State) : Bool :=
  (s.cl n).groups.any fun (g : Group) => g.phase == .running && g.micro.isSome && g.patchB == some (ucInactive n s)

/-- A refused load or switch write sets UCODE_STAT.LDERR (R290, R292). -/
def ucRefuse (n : Cl) (s : State) : State := hubSetBit (ucReg n + 2) 8 true s

/-- A switch to the inactive half takes place (R291–R294). -/
def ucSwitchNow (n : Cl) (late : Bool) (s : State) : State :=
  let b := ucInactive n s
  let s1 := hubPut (ucReg n) (ucHalf b (s.cl n)).ver s
  let s2 := hubSetBit (ucReg n + 2) 0 b (hubSetBit (ucReg n + 2) 3 false (hubSetBit (ucReg n + 2) 4 false s1))
  let s3 := s2.modCl n fun c => { c with ucSwitch := none }
  if late then hubSetBit (ucReg n + 2) 5 true s3 else s3

/-- The scheduled switch of a cluster at its frame tick in base frame `k` (R292). -/
def ucAtTick (n : Cl) (k : Nat) (s : State) : State :=
  match (s.cl n).ucSwitch with
  | some (f, late) => if late ∨ f ≤ k then ucSwitchNow n late s else s
  | none => s

/-- UCODE_SWITCH (R292): refused while the inactive half is not VALID, or in a mode that allows no live patch (R464); at once while the grid is stopped; else
scheduled, late where its frame is not after the current one. -/
def execUcodeSwitch (n : Cl) (s : State) : Out := awake s <|
  let f := (hubPair (ucReg n + 3) s).toNat
  if !ucValid n (ucInactive n s) s || !liveMode s then .next (ucRefuse n s)
  else if !gridRun s then .next (ucSwitchNow n false s)
  else .next (hubSetBit (ucReg n + 2) 4 true
    (s.modCl n fun c => { c with ucSwitch := some (f, decide (f ≤ baseFrame s)) }))

/-- UCODE_CANCEL (R292). -/
def execUcodeCancel (n : Cl) (s : State) : Out := awake s <|
  .next (hubSetBit (ucReg n + 2) 4 false (s.modCl n fun c => { c with ucSwitch := none }))

/-- Whether OPEN is refused: a switch is scheduled, or a routine uses the inactive half (R290). -/
def ucOpenBusy (n : Cl) (s : State) : Bool := hubBit (ucReg n + 2) 4 s || ucOldBusy n s

/-- Open the inactive half for loading (R290). -/
def ucOpen (n : Cl) (s : State) : State :=
  let b := ucInactive n s
  if ucOpenBusy n s then ucRefuse n s
  else ucSetValid n b false (s.modCl n fun c => ucPutHalf b { ucHalf b c with table := [] } c)

/-- UCODE_OPEN (R290). -/
def execUcodeOpen (n : Cl) (s : State) : Out := awake s <| .next (ucOpen n s)

/-- The global address of the deep-store region of VCn (R434). -/
def regionBase (n : Cl) (s : State) : Nat :=
  (hubGet (0x50104 + 8 * n.val) s).toNat + hubFld (0x50105 + 8 * n.val) 15 0 s * 2 ^ 24

/-- Where the patch halves lie in a region's code block (R429). -/
def patchOfs : Nat := 16384 + 512 + 640

/-- Hardpan rewrites the patch halves in the code block of a protected cluster (R434). -/
def regionPatch (n : Cl) (s : State) : State :=
  if hubBit (0x50101 + 8 * n.val) 23 s then
    let a := regionBase n s + patchOfs
    let put (b : Bool) (t : State) : State := (ucHalf b (t.cl n)).words.foldl (fun t (p : Nat × BitVec 144) =>
      (List.range 6).foldl (fun t i => deepPut (a + (if b then 3072 else 0) + 6 * p.1 + i) (p.2.extractLsb' (24 * i) 24) t) t) t
    put true (put false (deepDrop a (a + 6144) s))
  else s

/-- Seal the inactive half: its version and its VALID bit (R290). -/
def ucSeal (n : Cl) (s : State) : State :=
  let b := ucInactive n s
  let v := hubGet (ucReg n + 6) s
  regionPatch n (ucSetValid n b true (s.modCl n fun c => ucPutHalf b { ucHalf b c with ver := v } c))

/-- UCODE_SEAL (R290). -/
def execUcodeSeal (n : Cl) (s : State) : Out := awake s <| .next (ucSeal n s)

/-- Store the microword or match entry in W0–W5 at UCODE_LD_ADDR (R290). A match entry with a word of W1–W5
other than 0 is refused as a load write against its rule. -/
def ucLoad (n : Cl) (w : BitVec 144) (s : State) : State :=
  let b := ucInactive n s
  let a := hubFld (ucReg n + 5) 8 0 s
  if ucValid n b s then ucRefuse n s
  else if hubBit (ucReg n + 5) 23 s then
    if 15 < a ∨ w.toNat / 2 ^ 24 ≠ 0 then ucRefuse n s
    else s.modCl n fun c =>
      ucPutHalf b { ucHalf b c with table := smPut none (ucHalf b c).table a (some (w.extractLsb' 0 24)) } c
  else if !ucParityOk w then ucRefuse n s
  else s.modCl n fun c =>
    let d := ucPutHalf b { ucHalf b c with words := smPut 0 (ucHalf b c).words a w } c
    { d with ubad := d.ubad.filter fun m => !microHit (some b) (BitVec.ofNat 13 (0x1000 + a)) m }

/-- UCODE_LD_ADDR and the six data words written in order, the last of which stores a microword or a match entry (R290). -/
def ucLoadAt (n : Cl) (addr : Word) (w : BitVec 144) (s : State) : State :=
  ucLoad n w ((List.range 5).foldl (fun t i => hubPut (ucReg n + 8 + i) (w.extractLsb' (24 * i) 24) t) (hubPut (ucReg n + 5) addr s))

/-- UCODE_LD_DATA_W5_WRITE (R290): W0–W4 as written before, W5 now. -/
def execUcodeLdDataW5Write (n : Cl) (v : Word) (s : State) : Out := awake s <|
  let w (i : Nat) : Word := hubGet (ucReg n + 8 + i) s
  .next (ucLoad n (v ++ w 4 ++ w 3 ++ w 2 ++ w 1 ++ w 0) s)

end Sys2Proof.Machine
end

