-- ==== Sys2Proof/Machine/Spm.lean ====
section
/-!
DEFINITION. Machine/Spm.lean: power domains as they switch, the spare manager: failover, mirrors and journals,
pairs, fencing, swaps (spec/16_availability.md R425–R445, spec/18_modes_power_startup.md R475, R476). What the
spare manager does at a tick edge is put together in Machine/Ticks.lean.
The model's own choices and readings (DEDUCED, DESIGN CHOICE, PRESUMED) are log entries 23, 24, 58 and 59.
-/
namespace Sys2Proof.Machine

/-! ## Power domains (R475, R476) -/

/-- A domain begins to switch to a state; `who` is its BY code (R476). The spare manager's switches are noted with the tick
they fall on. -/
def domSwitch (d : Nat) (target : BitVec 2) (who : Nat) (s : State) : State :=
  let t := hubSetFld (domReg d) 23 22 3 (hubSetFld (domReg d) 21 20 who s)
  { t with pwr := { t.pwr with
    switching := smPut none t.pwr.switching d (some target)
    spmSwitch := if who = 1 then smPut none t.pwr.spmSwitch d (some t.ticks) else t.pwr.spmSwitch } }

/-- Hub registers of a range return to their Reset values. -/
def hubClear (lo hi : Nat) (s : State) : State :=
  { s with hub := s.hub.filter fun p => !(decide (lo ≤ p.1) && decide (p.1 < hi)) }

/-! ## The spare manager's registers -/

/-- SPM_CLn_MAP.STATE: 0 normal, 1 restore, 2 replay, 3 lost, 4 wait. -/
def spmState (n : Cl) (s : State) : Nat := hubFld (spmCl n 0) 23 21 s

/-- Put SPM_CLn_MAP.STATE. -/
def spmPutState (n : Cl) (k : Nat) (s : State) : State := hubSetFld (spmCl n 0) 23 21 k s

/-- Whether VCn is protected (R434). -/
def spmProt (n : Cl) (s : State) : Bool := hubBit (spmCl n 1) 23 s

/-- SPM_TILEt. -/
def tileReg (t : Nat) : Nat := 0x50010 + t

/-- Whether spare `k` of a tile is free. -/
def spareFree (t k : Nat) (s : State) : Bool := hubBit (tileReg t) (23 - k) s

/-- The slot of spare `k` of a tile. -/
def spareSlot (t k : Nat) (s : State) : Nat :=
  if k = 0 then hubFld (tileReg t) 21 16 s else hubFld (tileReg t) 13 8 s

/-- Put the slot of spare `k` of a tile. -/
def putSpareSlot (t k v : Nat) (s : State) : State :=
  if k = 0 then hubSetFld (tileReg t) 21 16 v s else hubSetFld (tileReg t) 13 8 v s

/-- Which spare of a tile is free and has the lowest slot number (R428). -/
def lowestSpare (t : Nat) (s : State) : Option Nat :=
  match spareFree t 0 s, spareFree t 1 s with
  | true, true => some (if spareSlot t 0 s ≤ spareSlot t 1 s then 0 else 1)
  | true, false => some 0
  | false, true => some 1
  | false, false => none

/-- FO_OPEN and the reasons TAKEOVER, LOST, NOSPARE and SINGLE follow the clusters (R439). -/
def syncSpm (s : State) : State :=
  let opn := allCl.any fun n => foOpen n s
  let lost := allCl.any fun n => decide (spmState n s = 3)
  let nospare := (List.range 8).any fun t => !spareFree t 0 s && !spareFree t 1 s
  hubSetBit 0x50001 23 (opn || hubBit 0x50030 22 s)
    (setDegr 0 opn (setDegr 1 lost (setDegr 2 nospare (setDegr 6 (!s.spm.single.isEmpty) s))))

/-! ## Regions, mirrors and journals (R434–R436) -/

/-- The local plots that a mask names, ascending. -/
def plotsIn (mask : Nat) : List Nat := (List.range 16).filter fun i => decide (mask / 2 ^ i % 2 = 1)

/-- MPLOTS. -/
def mPlots (n : Cl) (s : State) : List Nat := plotsIn (hubFld (spmCl n 2) 15 0 s)

/-- SPLOTS. -/
def sPlots (n : Cl) (s : State) : List Nat := plotsIn (hubFld (spmCl n 3) 15 0 s)

/-- The words of the code block (R429). -/
def codeWords : Nat := 23680

/-- S words. -/
def mirrorWords (n : Cl) (s : State) : Nat := 16384 * (mPlots n s).length

/-- K words. -/
def staticWords (n : Cl) (s : State) : Nat := 16384 * (sPlots n s).length

/-- Where mirror A or B begins in the region. -/
def mirrorOfs (n : Cl) (b : Bool) (s : State) : Nat := codeWords + staticWords n s + if b then mirrorWords n s else 0

/-- Where the journal ring begins in the region. -/
def ringOfs (n : Cl) (s : State) : Nat := codeWords + staticWords n s + 2 * mirrorWords n s

/-- The words of the journal ring (R434). -/
def ringSize (n : Cl) (s : State) : Nat := 2 ^ hubFld (spmCl n 5) 20 16 s - ringOfs n s

/-- The frame of a cluster in ns (R43). -/
def clFrameNs (n : Cl) (s : State) : Nat := framePeriod s * divisor n s

/-- B: the words a mirror pass copies per frame at most (R435). -/
def mirrorBudget (n : Cl) (s : State) : Nat := 2048 * clFrameNs n s / 1000

/-- The words of the mirrored plots as they stand, by local-store offset. -/
def plotImage (n : Cl) (plots : List Nat) (s : State) : SMap Word :=
  (memTake (lsAddr n 0) (lsAddr n 0x40000) s).filter fun p => decide (p.1 / 16384 ∈ plots)

/-- A mirror pass starts at a tick edge (R435). -/
def mirrorStart (n : Cl) (s : State) : State :=
  if spmProt n s && (s.cl n).mirror.isNone then
    s.modCl n fun c => { c with mirror := some ⟨baseFrame s, plotImage n (mPlots n s) s⟩ }
  else s

/-- Whether PASS frames have passed since a pass began (R435). -/
def mirrorLate (n : Cl) (p : MirrorPass) (s : State) : Bool :=
  decide (p.start + hubFld (spmCl n 2) 23 16 s * divisor n s ≤ baseFrame s)

/-- MIRROR_PASS_COMPLETE (R435, R436): the pass has copied its S words at B a frame; the mirror that does not hold
the last complete one takes them, and protection returns unless the ring has lost a record of its time. -/
def execMirrorPassComplete (n : Cl) (s : State) : Out := awake s <|
  match (s.cl n).mirror with
  | none => .next s
  | some p =>
    let frames := (baseFrame s - p.start) / divisor n s + 1
    if mirrorBudget n s * frames < mirrorWords n s ∨ mirrorLate n p s ∨ isolated n s then .next s
    else
      let b := (s.cl n).lastB == some false
      let a := regionBase n s + mirrorOfs n b s
      let at' (o : Nat) : Nat := (mPlots n s).idxOf (o / 16384) * 16384 + o % 16384
      let s1 := deepDrop a (a + mirrorWords n s) s
      let s2 := p.image.foldl (fun t (w : Nat × Word) => deepPut (a + at' w.1) w.2 t) s1
      let s3 := clearLines (a - 0x1000000000) (mirrorWords n s2) s2
      let kept := match (s.cl n).ringDrop with | some f => decide (f < p.start) | none => true
      let s4 := s3.modCl n fun c => { c with mirror := none, lastB := some b, mirrorAt := p.start }
      .next (if kept then hubSetBit (spmCl n 0) 19 false s4 else s4)

/-- MIRROR_PASS_ABANDON (R435): not complete PASS frames after its start. -/
def execMirrorPassAbandon (n : Cl) (s : State) : Out := awake s <|
  match (s.cl n).mirror with
  | none => .next s
  | some p =>
    if !mirrorLate n p s then .next s
    else .next (fire 0xC84 (odCount 0xC0B2 0 (s.modCl n fun c => { c with mirror := none })))

/-- The words of the record of one frame (R436): frame, word count, entry count, fill words, 4 words an entry. -/
def recordWords (frame : Nat) (fills : List (Nat × Word)) (params : List PEntry) : List Word :=
  [BitVec.ofNat 24 frame, BitVec.ofNat 24 (frame / 2 ^ 24), BitVec.ofNat 24 fills.length, BitVec.ofNat 24 params.length]
    ++ fills.map (·.2)
    ++ params.flatMap fun e => [BitVec.ofNat 24 (e.words.length % 4 * 2 ^ 22 + e.offset % 2 ^ 18), e.words.getD 0 0,
        e.words.getD 1 0, e.words.getD 2 0]

/-- The words a record takes. -/
def RingRec.size (r : RingRec) : Nat := 4 + r.fills.length + 4 * r.params

/-- The newest records that together take at most `room` words; the list begins with the newest. -/
def ringKeep : Nat → List RingRec → List RingRec
  | _, [] => []
  | room, r :: rs => if r.size ≤ room then r :: ringKeep (room - r.size) rs else []

/-- The record of the current frame is appended to the ring; records it overwrites are gone, and protection is
lost when one of them is needed (R436). -/
def journalAppend (n : Cl) (s : State) : State :=
  let c := s.cl n
  let clean (t : State) : State := t.modCl n fun d => { d with jFills := [], jParams := [] }
  if !spmProt n s then clean s
  else
    let ws := recordWords (baseFrame s) c.jFills c.jParams
    let size := ringSize n s
    let r : RingRec := ⟨baseFrame s, c.ringPos, phaseOf c, c.jFills.map (·.1), c.jParams.length⟩
    let kept := (ringKeep (size - ws.length) c.ringRecs.reverse).reverse
    let gone := c.ringRecs.take (c.ringRecs.length - kept.length)
    let drop := match gone.getLast? with | some x => some x.frame | none => c.ringDrop
    let fits := decide (ws.length ≤ size)
    let drop' := if fits then drop else some (baseFrame s)
    let lost := c.lastB.isSome && !hubBit (spmCl n 0) 19 s
      && (match drop' with | some f => decide (c.mirrorAt ≤ f) | none => false)
    let base := regionBase n s + ringOfs n s
    let s1 := if fits then
        (ws.foldl (fun (p : Nat × State) w => (p.1 + 1, deepPut (base + (c.ringPos + p.1) % size) w p.2)) (0, s)).2
      else s
    let s2 := clean (s1.modCl n fun d => { d with
      ringPos := if fits then (c.ringPos + ws.length) % size else c.ringPos,
      ringRecs := if fits then kept ++ [r] else kept, ringDrop := drop' })
    if lost then fire 0xC85 (odCount 0xC0B3 0 (hubSetBit (spmCl n 0) 19 true s2)) else s2

/-- R: the frames a restore takes (R429). -/
def restoreFrames (n : Cl) (s : State) : Nat :=
  let ns := 1000 + (codeWords + staticWords n s + mirrorWords n s + 15) / 16
  (ns + clFrameNs n s - 1) / clFrameNs n s

/-- SPM_CLn_GAP as it reads (R433): the age of the last complete mirror and the bound it gives, none while the cluster is
unprotected. -/
def spmGap (n : Cl) (s : State) : Word :=
  let c := s.cl n
  let age := if c.lastB.isSome then (baseFrame s - c.mirrorAt) / divisor n s else 0
  let gap := if hubBit (spmCl n 0) 19 s ∨ clFrameNs n s = 0 then 0xFFF else 2 + age + 2 + 2 * restoreFrames n s
  BitVec.ofNat 24 (min 0xFFF gap * 2 ^ 12 + min 0xFFF age)

/-! ## Restore (R429) -/

/-- A descriptor with word `w` replaced (dN words, R75). -/
def descPut (d : Desc) (w : Nat) (v : Word) : Desc :=
  match w with
  | 0 => { d with base := setFld 23 0 v.toNat d.base }
  | 1 => { d with base := setFld 39 24 (fld 15 0 v) d.base }
  | 2 => { d with stride := v }
  | 3 => { d with len := v }
  | _ => { d with attr := v &&& attrMask }

/-- Word `w` of a descriptor (R75). -/
def descGet (d : Desc) (w : Nat) : Word :=
  match w with
  | 0 => d.base.extractLsb' 0 24
  | 1 => (d.base.extractLsb' 24 16).setWidth 24
  | 2 => d.stride
  | 3 => d.len
  | _ => d.attr

/-- A word of the code block reaches the cluster: order store, set descriptor tables, patch halves (R429). -/
def codeWordPut (i : Nat) (v : Word) (c : Cluster) : Cluster :=
  if i < 16896 then
    let k := (i - 16384) / 4
    let j := i % 4
    { c with ostore := smPut 0 c.ostore k (setFld (24 * j + 23) (24 * j) v.toNat (smAt 0 c.ostore k)) }
  else if i < 17536 then
    let o := i - 16896
    let x := setOf (o / 80) c
    let d := smAt (Desc.zero, CapV.null) x.table (o % 80 / 5)
    putSet (o / 80) { x with table := smPut (Desc.zero, CapV.null) x.table (o % 80 / 5) (descPut d.1 (o % 5) v, d.2) } c
  else
    let o := i - 17536
    let b := decide (3072 ≤ o)
    let k := o % 3072 / 6
    let j := o % 6
    let h := ucHalf b c
    ucPutHalf b { h with words := smPut 0 h.words k (setFld (24 * j + 23) (24 * j) v.toNat (smAt 0 h.words k)) } c

/-- A word of a restore image, by its distance from the region's start: the code block, the static plots, then
the mirrored plots from `mofs` on (R429, R434, R443). -/
def restoreWord (n : Cl) (mofs : Nat) (p : Nat × Word) (s : State) : State :=
  if p.1 < 16384 then memPut (istoreAddr n p.1) p.2 s
  else if p.1 < codeWords then s.modCl n (codeWordPut p.1 p.2)
  else if p.1 < codeWords + staticWords n s then
    let o := p.1 - codeWords
    memPut (lsAddr n ((sPlots n s).getD (o / 16384) 0 * 16384 + o % 16384)) p.2 s
  else if mofs ≤ p.1 ∧ p.1 < mofs + mirrorWords n s then
    let o := p.1 - mofs
    memPut (lsAddr n ((mPlots n s).getD (o / 16384) 0 * 16384 + o % 16384)) p.2 s
  else s

/-- The words that a restore loads, before it loads them: the instruction store and the plots named are 0 (R429). -/
def restoreClear (n : Cl) (plots : List Nat) (s : State) : State :=
  plots.foldl (fun t i => memDrop (lsAddr n (i * 16384)) (lsAddr n (i * 16384 + 16384)) t)
    (memDrop (istoreAddr n 0) (istoreAddr n 16384) s)

/-- The cluster as the spare takes it over (R428, R429, R431, R497): its registers outside the sequencer from the
shadow, event counts restarted, engines idle, the sequencer as after a warm reset. -/
def spareCluster (ns : BitVec 64) (c : Cluster) : Cluster :=
  let keep (o : Nat) : Bool := decide (0x180 ≤ o) && !(decide (0x1C0 ≤ o) && decide (o < 0x1C6)) && decide (o ≠ 0x1D0)
    && !(decide (0x3A0 ≤ o) && decide (o ≤ 0x3A1)) && !(decide (0x1101 ≤ o) && decide (o < 0x1108))
    && !(decide (0x1110 ≤ o) && decide (o < 0x1130))
  let d : Cluster := { Cluster.reset with
    io := c.io.filter (fun p => keep p.1)
    sets := c.sets.map fun p => (p.1, { p.2 with table := p.2.table.map (fun q => (q.1, (Desc.zero, q.2.2))), pre := none, plots := [] })
    fslot := c.fslot, plotWait := c.plotWait, portA := c.portA
    patchA := { c.patchA with words := [] }, patchB := { c.patchB with words := [] }
    pq := c.pq, pqCap := c.pqCap, localNs := ns, failover := c.failover
    lastB := c.lastB, mirrorAt := c.mirrorAt, ringPos := c.ringPos, ringRecs := c.ringRecs, ringDrop := c.ringDrop
    jFills := c.jFills, jParams := c.jParams, tickAt := c.tickAt, heldFor := c.heldFor, ucSwitch := c.ucSwitch }
  ioSetBit 0x1100 21 true ((List.range 8).foldl (fun d k => ioSetBit (0x1A0 + k) 2 false d) d)

/-- The stores of VCn become those that physical domain `d` keeps; the ones they held stay with `old`. -/
def moveStores (n : Cl) (old d : Nat) (s : State) : State :=
  let lo := lsAddr n 0
  let mine := memTake lo (lo + 2 ^ 22) s
  let t := memLoad lo (smAt [] s.spm.retained d) (memDrop lo (lo + 2 ^ 22) s)
  { t with spm := { t.spm with retained := smPut [] (smPut [] t.spm.retained d []) old mine } }

/-! ## Failover (R425–R431) -/

/-- The restore engine of a tile takes the cluster that has waited longest, if it is free (R428). -/
def engineNext (t : Nat) (s : State) : State :=
  if (smAt none s.spm.engine t).isSome then s
  else
    let waits := allCl.filter fun n => decide (homeTile n = t) && decide (spmState n s = 4)
    let since (n : Cl) : Nat := ((s.cl n).failover.map (·.at')).getD 0
    match waits.foldl (fun (b : Option Cl) n => match b with
        | none => some n
        | some m => if since n < since m then some n else b) none with
    | none => s
    | some n =>
      let u := spmPutState n 1 s
      { u with spm := { u.spm with engine := smPut none u.spm.engine t (some n.val) } }

/-- The spare manager declares VCn failed (R427, R428): its island is isolated and its domain switched off; it
takes a spare and waits for the tile's engine, or is lost. -/
def declareFailed (n : Cl) (s : State) : State :=
  let t := homeTile n
  let old := physDom n s
  let s1 := fire 0xC80 (odCount 0xC0B0 0 (domSwitch old 0 1 s))
  let s2 := hubSetFld (tileReg t) 5 0 (min 63 (hubFld (tileReg t) 5 0 s1 + 1)) s1
  let s3 := s2.modCl n fun c => { c with failCause := false, dlf := 0, groups := [], forming := [], mirror := none, ran := false, lastCommit := none }
  let s4 := if hubBit (spmCl n 1) 22 s3 ∧ n.val ∉ s3.spm.single
    then { s3 with spm := { s3.spm with single := s3.spm.single ++ [n.val] } } else s3
  match lowestSpare t s4 with
  | none =>
    let s5 := fire 0xC82 (spmPutState n 3 (s4.modCl n fun c => { c with failover := some ⟨none, baseFrame s4, 0, false, phaseOf c⟩ }))
    syncSpm (if hubBit (spmCl n 1) 20 s5 then requestSafe s5 else s5)
  | some k =>
    let slot := spareSlot t k s4
    let s5 := hubSetBit (tileReg t) (23 - k) false (domSwitch (34 * t + slot) 2 1 s4)
    let s6 := moveStores n old (34 * t + slot) s5
    let s7 := { s6 with spm := { s6.spm with retained := smPut [] s6.spm.retained old [] } }
    let s8 := hubSetFld (spmCl n 0) 13 8 slot
      (spmPutState n 4 (s7.modCl n fun c => { c with failover := some ⟨some slot, baseFrame s7, 0, false, phaseOf c⟩ }))
    syncSpm (engineNext t s8)

/-- The first base frame from which replay has no record to lose (R430, R436): none where a record at or after the
mirror point is gone, or there is no mirror. -/
def replayFrom (n : Cl) (s : State) : Nat :=
  let c := s.cl n
  let gone := match c.ringDrop with | some f => decide (c.mirrorAt ≤ f) | none => false
  if spmProt n s && c.lastB.isSome && !gone then c.mirrorAt else 2 ^ 48

/-- The restore of a failed cluster completes (R429, R430): the spare holds the region's words; replay begins. -/
def restoreDone (n : Cl) (s : State) : State :=
  let c := s.cl n
  let mofs := mirrorOfs n (c.lastB == some true) s
  let base := regionBase n s
  let all := deepTake base (base + mofs + mirrorWords n s) s
  let s := snoopSpan false base (base + mofs + mirrorWords n s) s
  let img := all.filter fun p => decide (p.1 < codeWords + staticWords n s) || (c.lastB.isSome && decide (mofs ≤ p.1))
  let t := s.putCl n (spareCluster s.ns c)
  let u := if spmProt n s then
      img.foldl (fun u p => restoreWord n mofs p u)
        (restoreClear n (if c.lastB.isSome then sPlots n s ++ mPlots n s else sPlots n s) t)
    else t
  spmPutState n 2 (u.modCl n fun d => { d with failover := d.failover.map fun f => { f with next := replayFrom n s } })

/-- RESTORE_COMPLETE (R429, R443): the tile's engine has loaded a failed cluster's spare, or the spare of a swap. -/
def execRestoreComplete (n : Cl) (s : State) : Out := awake s <|
  let t := homeTile n
  if smAt none s.spm.engine t ≠ some n.val then .next s
  else
    let s1 := { s with spm := { s.spm with engine := smPut none s.spm.engine t none } }
    if spmState n s = 1 then .next (engineNext t (restoreDone n s1))
    else
      let base := ((s1.spm.swap.map (·.base)).getD 0)
      let hi := base + codeWords + staticWords n s1 + mirrorWords n s1
      let s2 := snoopSpan false base hi s1
      .next (engineNext t { s2 with spm := { s2.spm with swapDone := true, swapMem := deepTake base hi s1 } })

/-- The next record that replay has: the oldest at or after `k`, unless one of that time is gone (R430, R436). -/
def replayRec (k : Nat) (c : Cluster) : Option RingRec :=
  let gone := match c.ringDrop with | some f => decide (k ≤ f) | none => false
  if gone then none else c.ringRecs.find? fun r => decide (k ≤ r.frame)

/-- One frame is replayed (R430): the plots stand as its PLOT_PHASE gives them, its fills and parameter entries are
written, its tick-armed sets fire. -/
def replayRecord (n : Cl) (r : RingRec) (s : State) : State :=
  let base := regionBase n s + ringOfs n s
  let size := ringSize n s
  let at' (i : Nat) : Nat := base + (r.pos + i) % size
  let w (i : Nat) (t : State) : Word := deepGet (at' i) t
  let s0 := (List.range r.size).foldl (fun t i => snoopSpan false (at' i) (at' i + 1) t) s
  let s1 := (List.range 20).foldl (fun t i => t.modCl n fun c =>
      let cfg := govCfg i c
      if bitOf 22 cfg then
        (if r.phase % 2 = 0 then putOwner i (fld 11 10 cfg) (fld 7 0 cfg) false c
         else (fun (o : Nat × Nat) => putOwner i o.1 o.2 false c) (cfgOwner cfg r.phase)) else c)
    (s0.modCl n (ioPut 0x341 (BitVec.ofNat 24 r.phase)))
  let s2 := r.fills.zipIdx.foldl (fun t (p : Nat × Nat) => memPut (xchgAddr n p.1) (w (4 + p.2) t) t) s1
  let s3 := (List.range r.params).foldl (fun t j =>
    let o := 4 + r.fills.length + 4 * j
    let a := w o t
    (List.range (fld 23 22 a)).foldl (fun u i => memPut (lsAddr n (fld 17 0 a + i)) (w (o + 1 + i) u) u) t) s2
  (List.range 8).foldl (fun t k =>
    let c := t.cl n
    if setArm k c && setTick k c && setBuilt k c then setFire n k t else t) s3

/-- REPLAY_FRAME (R430, R469): the previous frame has completed; a spare's replay or a REPLAY_GO takes the next
frame of the journal. -/
def execReplayFrame (n : Cl) (s : State) : Out := awake s <|
  let c := s.cl n
  if c.groups ≠ [] then .next s
  else if spmState n s = 2 then
    match c.failover with
    | none => .next s
    | some f =>
      match replayRec f.next c with
      | none => .next s
      | some r => .next (replayRecord n r (s.modCl n fun d => { d with failover := some { f with next := r.frame + 1 } }))
  else if mode s = 0xA ∧ hubBit 0x60060 22 s ∧ s.pwr.replayVc = n.val ∧ 0 < s.pwr.replayLeft then
    match replayRec s.pwr.replayAt c with
    | none => .next s
    | some r => .next (replayRecord n r { s with pwr := { s.pwr with replayAt := r.frame + 1, replayLeft := s.pwr.replayLeft - 1 } })
  else .next s

/-- A pair member is in again (R438). -/
def pairBack (n : Cl) (s : State) : State :=
  { s with spm := { s.spm with single := s.spm.single.filter (· ≠ n.val) } }

/-- Whether an unprotected member of a pair waits for the next HOLD to rejoin (R438). -/
def rejoinsAtHold (n : Cl) (s : State) : Bool := !spmProt n s && hubBit (spmCl n 1) 22 s

/-- The plot plan runs normally again: PLOT_PHASE is the one of the current frame (R430). -/
def livePhase (c : Cluster) : Cluster :=
  match c.failover with
  | some f => ioPut 0x341 (BitVec.ofNat 24 f.phase) c
  | none => c

/-- FIRST_LIVE_FRAME (R430, R431): at a frame tick with no record left to replay, the spare runs live; its sequencer
starts, TKO is 1. -/
def execFirstLiveFrame (n : Cl) (s : State) : Out := awake s <|
  let c := s.cl n
  match c.failover with
  | none => .next s
  | some f =>
    if spmState n s ≠ 2 ∨ c.tickAt.isNone ∨ c.groups ≠ [] ∨ (replayRec f.next c).isSome ∨ rejoinsAtHold n s ∨ holdActive s then .next s
    else
      let t := s.modCl n fun d => livePhase { d with failover := some { f with live := true } }
      .next (syncSpm (pairBack n (hubSetBit (spmCl n 0) 20 true (spmPutState n 0 t))))

/-- At a RESUME tick the members that rejoin then take their partners' mirrored and static plots (R438). -/
def pairRejoin (s : State) : State :=
  allCl.foldl (fun t n =>
    if spmState n t = 2 ∧ rejoinsAtHold n t then
      let m := clOf (hubFld (spmCl n 1) 7 0 t)
      let img := plotImage m (mPlots m t ++ sPlots m t) t
      let old := (mPlots m t ++ sPlots m t).foldl (fun u i => memDrop (lsAddr n (i * 16384)) (lsAddr n (i * 16384 + 16384)) u) t
      let t1 := memLoad (lsAddr n 0) img old
      let t2 := t1.modCl n fun d => livePhase { d with failover := d.failover.map fun f => { f with live := true } }
      syncSpm (pairBack n (hubSetBit (spmCl n 0) 20 true (spmPutState n 0 t2)))
    else t) s

/-- The first release after a takeover (R426, R433): LAST holds the commit points held. -/
def firstRelease (n : Cl) (s : State) : State :=
  match (s.cl n).failover with
  | some f =>
    if f.live then
      syncSpm (fire 0xC81 (hubPut (spmCl n 7) (BitVec.ofNat 24 (s.cl n).heldFor) (s.modCl n fun c => { c with failover := none })))
    else s
  | none => s

/-! ## Swaps (R443) -/

/-- A write of GO to SPM_SWAP_CTL (R443): cluster, base frame and region are those of the write. Refused outside the modes that
R464 allows and HOLD, where R443 has a model swap (log entry 58). -/
def swapGo (n : Cl) (s : State) : State :=
  let t := homeTile n
  let busy := allCl.any fun m => decide (homeTile m = t) && foOpen m s
  match lowestSpare t s with
  | none => hubSetBit 0x50001 22 true s
  | some k =>
    if busy ∨ hubBit 0x50030 22 s ∨ !(liveMode s || mode s == 8) then hubSetBit 0x50001 22 true s
    else
      let s1 := domSwitch (34 * t + spareSlot t k s) 2 1 (hubSetBit (tileReg t) (23 - k) false (hubSetBit 0x50030 22 true s))
      syncSpm { s1 with spm := { s1.spm with
        engine := smPut none s1.spm.engine t (some n.val), swap := some ⟨n.val, (hubPair 0x50031 s).toNat, hubAddr 0x50033 s⟩, swapSlot := some k, swapDone := false, swapLate := false, swapMem := [] } }

/-- SWAP_GO (R443): GO with VC. -/
def execSwapGo (vc : Cl) (s : State) : Out := awake s <| .next (swapGo vc (hubSetFld 0x50030 7 0 vc.val s))

/-- Whether the scheduled swap is VCn's. -/
def swapOf (n : Cl) (s : State) : Bool := hubBit 0x50030 22 s && s.spm.swap.any fun r => r.vc == n.val

/-- At a frame tick edge of the cluster at or after its base frame the swap takes place, once its restore has
completed (R443). The physical cluster of a lost one has failed and becomes no spare. -/
def swapAtTick (n : Cl) (s : State) : State :=
  if !swapOf n s ∨ !(s.spm.swap.any fun r => decide (r.frame ≤ baseFrame s)) ∨ holdActive s then s
  else if !s.spm.swapDone then { s with spm := { s.spm with swapLate := true } }
  else
    let t := homeTile n
    let k := s.spm.swapSlot.getD 0
    let slot := spareSlot t k s
    let old := physDom n s
    let oldSlot := hubFld (spmCl n 0) 13 8 s
    let s1 := moveStores n old (34 * t + slot) s
    let s2 := s1.putCl n { spareCluster s1.ns (s1.cl n) with tickAt := (s1.cl n).tickAt, failover := none }
    let s3 := s2.spm.swapMem.foldl (fun u p => restoreWord n (codeWords + staticWords n s2) p u)
      (restoreClear n (sPlots n s2 ++ mPlots n s2) s2)
    let moved := spmPutState n 0 (hubSetFld (spmCl n 0) 13 8 slot s3)
    let s4 := if isolated n s then moved
      else domSwitch old 1 1 (hubSetBit (tileReg t) (23 - k) true (putSpareSlot t k oldSlot moved))
    let s5 := hubSetBit (spmCl n 0) 20 true (hubSetBit 0x50030 22 false s4)
    let s6 := if s.spm.swapLate then hubSetBit 0x50030 21 true s5 else s5
    syncSpm { s6 with spm := { s6.spm with swap := none, swapSlot := none, swapDone := false, swapLate := false, swapMem := [] } }

/-! ## Fencing (R441) -/

/-- The domain of a unit that can be fenced (R441, R475). -/
def unitDom (u : Nat) : Nat :=
  match u with
  | 0 => 286
  | 1 => 287
  | 2 => 288
  | 3 => 285
  | 4 => 284
  | 5 => 290
  | _ => 289

/-- Whether a unit is fenced. -/
def unitFenced (u : Nat) (s : State) : Bool := hubBit 0x50021 u s

/-- Every network port is down (R441). -/
def netStop (s : State) : State :=
  (List.range 40).foldl (fun t p =>
    if hubBit (npReg p + 0xC) 23 t then
      let u := hubSetBit (npReg p + 0xC) 23 false t
      if 32 ≤ p then fire (0x8F8 + (p - 32)) u else u
    else t) { s with cmac := s.cmac.map fun e => (e.1, { e.2 with job := none }) }

/-- What a unit does while it is fenced (R441): links and ports go down, pins drive nothing. -/
def unitStop (u : Nat) (s : State) : State :=
  match u with
  | 0 => (List.range 8).foldl (fun t l => linkDown l t) s
  | 1 => (List.range 8).foldl (fun t l => linkDown (8 + l) t) s
  | 2 => pinsSettle s
  | 3 => netStop s
  | 4 => portDown 1 (portDown 0 s)
  | 5 => { s with od := { s.od with backlog := [], waiting := [], kept := [] } }
  | 6 => { s with sec := { s.sec with job := none } }
  | _ => s

/-- Fence a unit (R441). -/
def fenceUnit (u : Nat) (s : State) : State :=
  if 6 < u ∨ unitFenced u s then s
  else
    let t := setDegr 5 true (fire 0xC88 (odCount 0xC0B4 0 (hubSetBit 0x50021 u true (domSwitch (unitDom u) 0 3 s))))
    unitStop u t

/-- A unit's registers and engines at their reset values (R441). -/
def unitReset (u : Nat) (s : State) : State :=
  let half (h : Nat) (t : State) : State :=
    let t1 := hubClear (0x8080 + 32 * h) (0x80A0 + 32 * h) (hubClear (0x8040 + 32 * h) (0x8060 + 32 * h)
      (hubClear (lkReg (8 * h)) (lkReg (8 * h + 8)) t))
    lkDegr ((List.range 8).foldl (fun v l => lkPut (8 * h + l) Link.reset v) t1)
  match u with
  | 0 => half 0 s
  | 1 => half 1 s
  | 2 => banksStart { hubClear 0x10000 0x20000 s with tmc := { State.reset.tmc with
      bankMv := s.tmc.bankMv, pins := s.tmc.pins.map fun p => (p.1, { PinSt.reset with land := p.2.land }) } }
  | 3 =>
    let t := (List.finRange 40).foldl (fun v p => unbind (taskPort p) v) s
    { hubClear 0x30000 0x40000 t with net := [], cmac := [] }
  | 4 => { hubClear 0x40000 0x50000 s with cxl := { s.cxl with ports := [], mbs := [] } }
  | 6 => { hubClear 0x800000 0x800020 s with sec := { s.sec with ext := if s.sec.extNext.isSome then s.sec.extNext else s.sec.ext, extNext := none } }
  | _ => s

/-- Switch a fenced unit on again (R441). -/
def unfenceUnit (u : Nat) (s : State) : State :=
  if 6 < u ∨ !unitFenced u s then s
  else
    let t := unitReset u (hubSetBit 0x50021 u false (domSwitch (unitDom u) 2 3 s))
    let p := if u = 6 then hubSetBit 0x800009 23 t.sec.otp.provisioned t else t
    let b := if u = 4 then hubSetBit 0x40000 23 (hubBit 0x40000 23 s) p else p
    setDegr 5 (decide (hubFld 0x50021 6 0 b ≠ 0)) (syncHost b)

/-- FENCE (R441). -/
def execFence (u : Unit7) (s : State) : Out := awake s <| .next (fenceUnit u.val s)

/-- UNFENCE (R441). -/
def execUnfence (u : Unit7) (s : State) : Out := awake s <| .next (unfenceUnit u.val s)

/-- UNIT_INTERNAL_ERROR (R441). -/
def execUnitInternalError (u : Unit7) (s : State) : Out := awake s <| .next (fenceUnit u.val s)

/-! ## Register writes of the block -/

/-- A write of SPM_CLn_CFG (R434): while PROT is 1 only PROT changes; PROT = 1 is refused for a small ring or
overlapping plots; protection begins without a mirror and with an empty ring. -/
def spmCfgWrite (n : Cl) (v : Word) (s : State) : State :=
  let on := spmProt n s
  let start (t : State) : State := hubSetBit (spmCl n 0) 19 true (t.modCl n fun c => { c with
    mirror := none, lastB := none, mirrorAt := 0, ringPos := 0, ringRecs := [], ringDrop := none, jFills := [], jParams := [] })
  if on then
    if bitOf 23 v then s else start (hubSetBit (spmCl n 1) 23 false s)
  else if bitOf 23 v then
    if ringSize n s < 16384 ∨ (mPlots n s).any (fun i => (sPlots n s).contains i) then hubSetBit 0x50001 22 true s
    else start (hubCodeWrite (spmCl n 1) v s)
  else hubCodeWrite (spmCl n 1) v s

/-- A write of a register of the SPM block, offset from 0x40_0005_0000. -/
def spmWrite (o : Nat) (v : Word) (s : State) : State :=
  if o = 0 then (if fld 1 0 v = 0 ∨ fld 1 0 v = 3 then s else hubCodeWrite 0x50000 v s)
  else if o = 0x20 then
    (if bitOf 23 v then fenceUnit (fld 2 0 v) s else if bitOf 22 v then unfenceUnit (fld 2 0 v) s else s)
  else if o = 0x30 then
    let t := hubCodeWrite 0x50030 v s
    if bitOf 23 v then swapGo (clOf (fld 7 0 v)) t else t
  else if 0x100 ≤ o ∧ o < 0x900 then
    let n := clOf ((o - 0x100) / 8)
    let i := o % 8
    if i = 1 then spmCfgWrite n v s
    else if 2 ≤ i ∧ i ≤ 5 ∧ spmProt n s then s
    else if i = 0 then hubPut (spmCl n 0) (setBit 20 (hubBit (spmCl n 0) 20 s && !bitOf 20 v) (hubGet (spmCl n 0) s)) s
    else hubCodeWrite (0x50000 + o) v s
  else hubCodeWrite (0x50000 + o) v s

end Sys2Proof.Machine
end

