-- ==== Sys2Proof/Machine/Values.lean ====
section
/-!
DEFINITION. Machine/Values.lean: the values of dictionary entries by type and their order
(spec/15_object_dictionary.md R404, R405).
-/
namespace Sys2Proof.Machine

/-- The words of a value of a type; none for STRING, DOMAIN and the codes that denote no type (R404). -/
def typeWords (ty : Nat) : Option Nat :=
  match ty with
  | 1 => some 1
  | 2 => some 1
  | 3 => some 1
  | 4 => some 2
  | 5 => some 2
  | 6 => some 1
  | 7 => some 2
  | 8 => some 3
  | _ => none

/-- The words of a value as one number, low word first (R4). -/
def wordsNat (ws : List Word) : Nat := ws.foldr (fun w a => w.toNat + 2 ^ 24 * a) 0

/-- A number of so many words as a signed one. -/
def wordsInt (ws : List Word) : Int :=
  let v := wordsNat ws
  if 2 * v < 2 ^ (24 * ws.length) then v else (v : Int) - 2 ^ (24 * ws.length)

/-- The floating-point value of an F24 or F48 entry. -/
def wordsF (ws : List Word) : DWord := BitVec.ofNat 48 (wordsNat ws)

/-- Whether a value is a NaN of its type (R405). -/
def valNan (ty : Nat) (a : List Word) : Bool :=
  if ty = 6 then isNan f24 (wordsF a) else if ty = 7 then isNan f48 (wordsF a) else false

/-- Whether one value of a type is at most another, as values (R405). -/
def valLe (ty : Nat) (a b : List Word) : Bool :=
  if ty = 3 ∨ ty = 5 then decide (wordsInt a ≤ wordsInt b)
  else if ty = 6 then !valNan 6 a && !valNan 6 b && !fLt f24 false (wordsF b) (wordsF a)
  else if ty = 7 then !valNan 7 a && !valNan 7 b && !fLt f48 false (wordsF b) (wordsF a)
  else decide (wordsNat a ≤ wordsNat b)

/-- Whether a value is in the range of its entry (R405). -/
def valOk (ty : Nat) (lo hi v : List Word) : Bool :=
  (ty != 1 || decide (wordsNat v ≤ 1)) && !valNan ty v && valLe ty lo v && valLe ty v hi

end Sys2Proof.Machine
end

