-- ==== Sys2Proof/Machine/Sec.lean ====
section
/-!
DEFINITION. Machine/Sec.lean: the security core: OTP, signed images, requests, measurement, keys,
attestation, the replacement of Topsoil (spec/17_security.md R446–R462, spec/16_availability.md R442).
The model's own choices and readings (DEDUCED, DESIGN CHOICE, PRESUMED) are log entries 10, 15, 16 and 60.
-/
namespace Sys2Proof.Machine

/-! ## Registers, measurement and OTP -/

/-- Whether Hardpan serves a request (SEC_REQ_CTL.BUSY). -/
def secBusy (s : State) : Bool := hubBit 0x800000 22 s

/-- Measurement register M_i. -/
def measOf (i : Nat) (s : State) : BitVec 256 := smAt 0 s.sec.meas i

/-- Extend M_i by a digest (R453). -/
def measExtend (i : Nat) (d : BitVec 256) (s : State) : State :=
  let v := sha256 (beBytes 32 (measOf i s).toNat ++ beBytes 32 d.toNat)
  { s with sec := { s.sec with meas := smPut 0 s.sec.meas i v } }

/-- A rollback counter of the OTP: 0 HPEXT, 1 TOPSOIL, 2 UCODE, 3 LOAM (R447). -/
def rollback (i : Nat) (s : State) : Nat := smAt 0 s.sec.otp.counters i

/-- The key hash of a slot: 0 and 1 VENDOR, 2–5 OWNER (R448). -/
def slotHash (k : Nat) (o : Otp) : BitVec 256 := if k < 2 then smAt 0 o.vendor k else smAt 0 o.owner (k - 2)

/-- Whether a key slot is programmed and not revoked (R449). -/
def slotValid (k : Nat) (o : Otp) : Bool := decide (k < 6) && o.programmed.getLsbD k && !o.revoked.getLsbD k

/-- M4 is extended with the digest of the OTP's key hashes, revoke bits and counters (R453). -/
def measOtp (s : State) : State :=
  let o := s.sec.otp
  measExtend 4 (Config.otpDigest ((List.range 6).map fun k => slotHash k o) o.revoked
    ((List.range 4).map fun i => rollback i s)) s

/-- A write of the OTP, after which M4 is extended (R447, R453). -/
def otpPut (o : Otp) (s : State) : State := measOtp { s with sec := { s.sec with otp := o } }

/-- The hash of a public key (R447). -/
def keyHash (qx qy : BitVec 256) : BitVec 256 := sha256 (beBytes 32 qx.toNat ++ beBytes 32 qy.toNat)

/-- The identity public key (R460). -/
def identityKey (s : State) : BitVec 256 × BitVec 256 := ecPublic s.sec.otp.idKey.toNat

/-- The identity public key as the 22 words that PUB returns (R448, R490). -/
def identityWords (s : State) : List Word := int256Words (identityKey s).1 ++ int256Words (identityKey s).2

/-- The running Topsoil image. -/
def topsoil (s : State) : Option Img :=
  if !s.sec.topRuns then none else if s.sec.halfB then s.sec.topB else s.sec.topA

/-- Put an image, or none, into the half of the service-sequencer memory that does not run (R451). -/
def putInactive (i : Option Img) (s : State) : State :=
  if s.sec.halfB then { s with sec := { s.sec with topA := i } } else { s with sec := { s.sec with topB := i } }

/-- The version of an image, 0 for none. -/
def imgVersion (i : Option Img) : Word := (i.map (·.version)).getD 0

/-- The UCODE_VER of a cluster (R294). -/
def ucodeVer (n : Cl) (s : State) : Word := hubGet (ucReg n) s

/-- The lowest UCODE_VER among the logical clusters (R449). -/
def lowestUcode (s : State) : Nat := allCl.foldl (fun m n => min m (ucodeVer n s).toNat) (2 ^ 24)

/-- The UCODE_VER common to all logical clusters, all ones while they differ (R296). -/
def commonUcode (s : State) : Word :=
  let v := ucodeVer 0 s
  if allCl.all fun n => ucodeVer n s == v then v else 0xFFFFFF

/-! ## Envelopes (R448, R449) -/

/-- The MAGIC of a kind. -/
def kindMagic (kind : Nat) : Nat :=
  match kind with
  | 1 => 0x485045
  | 2 => 0x54534C
  | 4 => 0x4C4D49
  | 5 => 0x485043
  | _ => 0x4F574E

/-- The payload limit of a kind in words; the owner envelope has just the 13 words of log entry 15. -/
def payloadLimit (kind : Nat) : Nat :=
  match kind with
  | 1 => 10922
  | 2 => 3145728
  | 4 => 268435456
  | 5 => 4096
  | _ => 13

/-- NWORDS of an envelope. -/
def envWords (ws : List Word) : Nat := (ws.getD 6 0).toNat + (ws.getD 7 0).toNat * 2 ^ 24

/-- The digest of an envelope's signed bytes. -/
def envDigest (ws : List Word) : BitVec 256 := sha256 (wordsBytes (ws.take (38 + envWords ws)))

/-- The signer's public key. -/
def envKey (ws : List Word) : BitVec 256 × BitVec 256 :=
  (wordsInt256 ((ws.drop 16).take 11), wordsInt256 ((ws.drop 27).take 11))

/-- Check 1 of R449: MAGIC, FORMAT, STEPPING, reserved words, SVN. -/
def envFormat (kind : Nat) (ws : List Word) : Bool :=
  let w (i : Nat) : Nat := (ws.getD i 0).toNat
  decide (w 0 = kindMagic kind) && decide (w 1 = 1) && decide (w 2 = 0xA1) && decide (w 4 ≤ 64) && decide (w 5 < 8)
    && ((List.range 6).all fun i => decide (w (10 + i) = 0)) && decide (w 26 < 2 ^ 16) && decide (w 37 < 2 ^ 16)

/-- Whether the signature of an envelope verifies (R448). -/
def envSigned (ws : List Word) : Bool :=
  let k := envKey ws
  let e := 38 + envWords ws
  decide ((ws.getD (e + 10) 0).toNat < 2 ^ 16) && decide ((ws.getD (e + 21) 0).toNat < 2 ^ 16)
    && ecdsaVerify k.1 k.2 (wordsInt256 ((ws.drop e).take 11)) (wordsInt256 ((ws.drop (e + 11)).take 11)) (envDigest ws)

/-- The checks of R449 in order: 0, or the code of the first failure. `len` is the request's LEN. -/
def envCheck (kind len : Nat) (ws : List Word) (s : State) : Nat :=
  let o := s.sec.otp
  let slot := (ws.getD 5 0).toNat
  let svn := (ws.getD 4 0).toNat
  let floor := match kind with | 1 => rollback 0 s | 2 => rollback 1 s | 4 => rollback 3 s | _ => 0
  let vendor := decide (kind = 1) || decide (kind = 2)
  let k := envKey ws
  if !envFormat kind ws then 0x01
  else if payloadLimit kind < envWords ws ∨ (kind = 11 ∧ envWords ws ≠ 13) ∨ len ≠ 60 + envWords ws then 0x0A
  else if (slot < 2) ≠ vendor ∨ !slotValid slot o then 0x03
  else if keyHash k.1 k.2 ≠ slotHash slot o then 0x04
  else if !envSigned ws then 0x05
  else if svn < floor then 0x06
  else if lowestUcode s < (ws.getD 8 0).toNat ∨ (imgVersion (topsoil s)).toNat < (ws.getD 9 0).toNat then 0x07
  else 0

/-- The image that an accepted envelope holds. -/
def envImg (ws : List Word) : Img :=
  ⟨ws.getD 3 0, (ws.getD 4 0).toNat, (envKey ws).1, (envKey ws).2, envDigest ws⟩

/-! ## Microcode patches (R288–R290) -/

/-- The digest of a patch's signed words. -/
def patchDigest (ws : List Word) : BitVec 256 :=
  sha256 (wordsBytes (ws.take (16 + (ws.getD 6 0).toNat + 6 * (ws.getD 5 0).toNat)))

/-- Microword `i` of a patch image. -/
def patchWord (ws : List Word) (i : Nat) : BitVec 144 :=
  let a := 16 + (ws.getD 6 0).toNat + 6 * i
  BitVec.ofNat 144 (wordsOf ((ws.drop a).take 6))
where
  /-- Words as one number, low word first. -/
  wordsOf (l : List Word) : Nat := l.foldr (fun w x => w.toNat + 2 ^ 24 * x) 0

/-- The checks of R289 on a patch of `len` words: 0, or a code of SEC_RESULT. -/
def patchCheck (len : Nat) (ws : List Word) (s : State) : Nat :=
  let w (i : Nat) : Nat := (ws.getD i 0).toNat
  let nw := w 5
  let nm := w 6
  let entries := (List.range nm).map fun i => w (16 + i)
  let e := 16 + nm + 6 * nw
  let sigOk := match s.sec.ext with
    | none => false
    | some x => decide ((ws.getD (e + 10) 0).toNat < 2 ^ 16) && decide ((ws.getD (e + 21) 0).toNat < 2 ^ 16)
        && ecdsaVerify x.qx x.qy (wordsInt256 ((ws.drop e).take 11)) (wordsInt256 ((ws.drop (e + 11)).take 11)) (patchDigest ws)
  if w 0 ≠ 0x5A4D55 ∨ w 1 ≠ 1 ∨ w 2 ≠ 0xA1 ∨ w 4 ≠ 0x010000 ∨ w 3 / 256 ≠ 0x0100 ∨ w 3 % 256 = 0 ∨ 64 < w 3 % 256
      ∨ !((List.range 9).all fun i => decide (w (7 + i) = 0)) then 0x01
  else if nw = 0 ∨ 512 < nw ∨ 16 < nm ∨ len ≠ e + 22 then 0x0A
  else if !(entries.map (· % 4096)).Nodup ∨ !(entries.all fun x => decide (x / 4096 < nw))
      ∨ !((List.range nw).all fun i => ucParityOk (patchWord ws i)) then 0x01
  else if !sigOk then 0x05
  else if w 3 % 256 < rollback 2 s then 0x06
  else 0

/-- Hardpan loads a patch into the inactive half of a cluster and seals it, through the UCODE block (R290). -/
def patchLoad (n : Cl) (ws : List Word) (s : State) : State :=
  let s1 := (List.range (ws.getD 5 0).toNat).foldl (fun t i => ucLoadAt n (BitVec.ofNat 24 i) (patchWord ws i) t) (ucOpen n s)
  let s2 := (List.range (ws.getD 6 0).toNat).foldl (fun t i =>
    ucLoadAt n (BitVec.ofNat 24 (2 ^ 23 + i)) ((ws.getD (16 + i) 0).setWidth 144) t) s1
  ucSeal n (hubPut (ucReg n + 6) (ws.getD 3 0) s2)

/-! ## The sealed area (R452) and the loader (R417) -/

/-- The sealed area's first address. -/
def sealedBase : Nat := 0x17C0000000

/-- The sealed area's words. -/
def sealedSize : Nat := 2 ^ 30

/-- The lowest place for a copy of `len` words, at a multiple of 64 words. -/
def sealedRoom (len : Nat) (s : State) : Option Nat :=
  let up (a : Nat) : Nat := (a + 63) / 64 * 64
  let starts := sealedBase :: s.sec.sealedCps.map fun c => up (c.addr + c.len)
  let free (a : Nat) : Bool := decide (a + len ≤ sealedBase + sealedSize)
    && s.sec.sealedCps.all fun c => decide (a + len ≤ c.addr) || decide (c.addr + c.len ≤ a)
  (starts.filter free).foldl (fun (b : Option Nat) a => match b with
    | none => some a
    | some x => some (min x a)) none

/-- A verified copy enters the sealed area; SEC_RESULT_ADDR names it (R451, R452). -/
def sealPut (a len svn : Nat) (loam : Bool) (ws : List Word) (s : State) : State :=
  let t := clearLines (a - 0x1000000000) len (memPuts a ws (memDrop a (a + len) s))
  { t with sec := { t.sec with sealedCps := t.sec.sealedCps ++ [⟨a, len, svn, loam⟩] } }

/-- The parameter descriptors of a Loam payload: word 0 counts them, 14 words each follow (log entry 16). -/
def loamDescs (ws : List Word) : List (List Word) :=
  let p := ws.drop 38
  (List.range (p.getD 0 0).toNat).map fun i => (p.drop (1 + 14 * i)).take 14

/-- A descriptor's key, type, access, cluster and home word. -/
def descKey (d : List Word) : Nat := (d.getD 0 0).toNat
/-- TYPE of a descriptor. -/
def descTy (d : List Word) : Nat := fld 23 20 (d.getD 1 0)
/-- Access of a descriptor: 1 RO, 2 RW, 3 RWC. -/
def descAcc (d : List Word) : Nat := fld 19 16 (d.getD 1 0)
/-- Logical cluster of a descriptor. -/
def descCl (d : List Word) : Cl := clOf (fld 23 16 (d.getD 3 0))
/-- Home word of a descriptor. -/
def descHome (d : List Word) : Nat := fld 17 0 (d.getD 4 0)
/-- Words of a descriptor's type. -/
def descWords (d : List Word) : Nat := (typeWords (descTy d)).getD 0
/-- Default (0), minimum (1) or maximum (2) of a descriptor. -/
def descVal (d : List Word) (i : Nat) : List Word := ((d.drop (5 + 3 * i)).take 3).take (descWords d)

/-- Whether two descriptors' home words overlap. -/
def homesOverlap (a b : List Word) : Bool :=
  decide (descCl a = descCl b) && decide (descHome a < descHome b + descWords b) && decide (descHome b < descHome a + descWords a)

/-- Whether the loader accepts a descriptor of an image, beside those of loaded images (R417). -/
def descOk (old all : List (List Word)) (d : List Word) : Bool :=
  let idx := descKey d / 256
  let grp := (d.getD 2 0).toNat
  decide (0x6000 ≤ idx) && decide (idx ≤ 0x9FFF) && decide (descKey d % 256 ≤ 0xFE)
    && !(old.any fun o => descKey o == descKey d) && decide ((all.filter fun o => descKey o == descKey d).length = 1)
    && decide (1 ≤ descTy d) && decide (descTy d ≤ 8) && decide (1 ≤ descAcc d) && decide (descAcc d ≤ 3)
    && (decide (grp = 0) || all.any fun g => descKey g == grp && decide (descTy g = 2) && decide (descAcc g = 1) && decide (descCl g = descCl d))
    && decide (descHome d + descWords d ≤ 0x40000)
    && !(old.any fun o => homesOverlap o d) && decide ((all.filter fun o => homesOverlap o d).length = 1)
    && valOk (descTy d) (descVal d 1) (descVal d 2) (descVal d 0)

/-- Topsoil's loader defines an image's entries and writes their defaults into their homes, or refuses the image
(R11, R417). It reaches a plot only while the plot is owned by MOVERS (R179); a refused write is recorded (R187). None while a
write waits, for a plot's owner or for a lock that another master holds (R24, R181). -/
def loamLoad (ws : List Word) (s : State) : Option State :=
  let ds := loamDescs ws
  if !(ds.all fun d => descOk (s.od.params.map (·.desc)) ds d) then some s
  else ds.foldl (fun (o : Option State) d =>
    let v := descVal d 0
    let as := (List.range v.length).map fun i => lsAddr (descCl d) (descHome d + i)
    let r := (as.zip v).foldl (fun (x : Option (List Nat × State)) p => x.bind fun y =>
      match memWrite .svc0 .hubM p.1 p.2 y.2 with
      | (.held, _) => none
      | (.ok _, t) => some (y.1 ++ [p.1], t)
      | (_, t) => some (y.1, t)) (o.map ([], ·))
    r.map fun y =>
      let u := wrote y.1 y.2
      { u with od := { u.od with params := u.od.params ++ [⟨descKey d, d, v, v⟩] } }) (some s)

/-! ## Capabilities that Hardpan mints (R446, R454) -/

/-- The capabilities over the cluster slots and the deep store outside the sealed area (R446). -/
def memoryRoots (s : State) : List CapV :=
  (allCl.map fun n => ⟨mintCap s (lsAddr n 0) (2 ^ 22) (permRD + permWR + permHO + permGLB), true⟩)
  ++ ((List.range 15).map fun k => ⟨mintCap s (0x1000000000 + k * 0x80000000) 0x80000000 (permRD + permWR + permGLB), true⟩)
  ++ [⟨mintCap s 0x1780000000 0x40000000 (permRD + permWR + permGLB), true⟩]

/-- The hub-register blocks of Topsoil's IO capabilities, offset and length (R446): TB, the movers, JL, TMC, EVF, NET, SPM, the
plot registers, OD_PQ, and the security core's request registers. Its writes of the mailboxes (R397) and of PWR_MODE and
PWR_DOMd (R463, R476) need those of CXL and PWR too (DEDUCED, log entry 63). -/
def topsoilBlocks : List (Nat × Nat) :=
  [(0x1000, 0x1000), (0x4000, 0x400), (0x8000, 0x1000), (0x10000, 0x10000), (0x20000, 0x10000), (0x30000, 0x10000),
   (0x40000, 0x10000), (0x50000, 0x10000), (0x60000, 0x1000), (0x100000, 0x10000), (0x300000, 0x1000), (0x800000, 0x1B)]

/-- The registers of the CMAC engines' key slots and freshness counters (R376, R377). -/
def keyBlocks : List (Nat × Nat) :=
  (List.range 4).flatMap fun q => [(cmReg q + 0x100, 0x200), (0x33000 + 0x200 * q, 0x200)]

/-- All that Topsoil holds (R446). -/
def topsoilCaps (s : State) : List CapV :=
  memoryRoots s
  ++ (topsoilBlocks.map fun b => ⟨mintCap s (0x4000000000 + b.1) b.2 (permRD + permWR), true⟩)
  ++ (keyBlocks.map fun b => ⟨mintCap s (0x4000000000 + b.1) b.2 (permRD + permWR + permKEY), true⟩)

/-- Topsoil's loader receives a capability with RD only over a verified copy (R452). -/
def loaderCap (a len : Nat) (s : State) : State :=
  { s with sec := { s.sec with svcCaps := s.sec.svcCaps ++ [⟨mintCap s a len permRD, true⟩] } }

/-- Whether a capability gives WR over a word of the sealed area (R452). -/
def coversSealed (c : Cap) : Bool :=
  capHas c permWR && decide (capBase c < sealedBase + sealedSize) && decide (sealedBase < capBase c + capLen c)

/-- The capabilities that Topsoil and the host start with (R446, R454): the default host entries are the part's. -/
def mintRoots (s : State) : State :=
  let s1 := { s with sec := { s.sec with svcCaps := topsoilCaps s, reqCaps := memoryRoots s } }
  (List.range 2).foldl (fun t p => (List.range 8).foldl (fun u k =>
    let c := retag u (Config.hostEntry p k)
    let v : CapV := if coversSealed c then CapV.null else ⟨c, decide (Config.hostEntry p k ≠ 0)⟩
    cxlPutPort p { cxlPort p u with caps := smPut CapV.null (cxlPort p u).caps k v } u) t) s1

/-- A new tag secret from Hardpan's random source (R454, R456). -/
def newTagSecret (s : State) : State :=
  drawn { s with sec := { s.sec with tagSecret := (Config.random s.fresh).setWidth 128 } }

/-! ## Requests (R450, R451) -/

/-- A request enters service: BUSY, KIND, and what its end will report. -/
def secBegin (kind : Nat) (j : SecJob) (s : State) : State :=
  let t := hubSetBit 0x800000 22 true (hubSetFld 0x800000 3 0 kind s)
  { t with sec := { t.sec with job := some j } }

/-- Whether a request capability covers a source range for RD (R450). -/
def srcCovered (a len : Nat) (s : State) : Bool :=
  s.sec.reqCaps.any fun c => capHas c.bits permRD && covers c a len

/-- What Hardpan's reads of `k` words from an address on give: the words, or none where a read waits, and whether one is
refused, unmapped or uncorrectable (R28, R29, R187, R197, R391). -/
def secWords (a : Nat) : Nat → State → Bool × Option (List Word) × State
  | 0, s => (false, some [], s)
  | k + 1, s =>
    match memRead .security .hubM a s with
    | (.ok v, t) =>
      let r := secWords (a + 1) k t
      (r.1, r.2.1.map (v :: ·), r.2.2)
    | (.held, t) => (false, none, t)
    | (_, t) => (true, none, t)

/-- A free code of a refused request, none that says accepted (R450). -/
def freeCode (s : State) : Nat := 1 + (Config.freeWord s.fresh).toNat % 255

/-- A request whose source the registers name: code 0x09 where it is not covered, a free code where a read fails, which no rule
names; nothing where one waits. -/
def withSource (fail : Nat → State → State) (serve : List Word → State → State) (s : State) : State :=
  let a := hubAddr 0x800001 s
  let len := (hubPair 0x800003 s).toNat
  if !srcCovered a len s then fail 0x09 s
  else match secWords a len s with
  | (_, some ws, t) => serve ws t
  | (true, none, t) => fail (freeCode t) (drawn t)
  | (false, none, _) => s

/-- The outcome of an image that failed with a code. -/
def imgFailed (kind code : Nat) (s : State) : State :=
  secBegin kind ⟨BitVec.ofNat 4 kind, BitVec.ofNat 8 code, none, none, true⟩ s

/-- A failed image leaves its destination invalid (R451): the extension for the next restart, the half that the next Topsoil
takes. A refused patch writes nothing (R289). -/
def imgInvalid (kind : Nat) (s : State) : State :=
  if kind = 1 then { s with sec := { s.sec with extNext := none } }
  else if kind = 2 then
    let t := putInactive none s
    { t with sec := { t.sec with quiesceAt := none } }
  else s

/-- Whether the mode lets an image of a kind be loaded (R464). -/
def loadMode (kind : Nat) (s : State) : Bool :=
  if kind = 3 then liveMode s else if kind = 2 then liveMode s || mode s == 2 else mode s != 3

/-- Verify an image of a kind and install it (R289, R449, R451, R452). `len` is the request's LEN. -/
def secImage (kind len : Nat) (ws : List Word) (s : State) : State :=
  let done (a : Option Nat) (d : BitVec 256) (t : State) : State := secBegin kind ⟨BitVec.ofNat 4 kind, 0, a, some d, true⟩ t
  if !loadMode kind s then imgFailed kind 0x08 s
  else if kind = 3 then
    let n := clOf (hubGet 0x800005 s).toNat
    let code := patchCheck len ws s
    if code ≠ 0 then imgFailed kind code s
    else if ucOpenBusy n s then
      imgFailed kind (freeCode s) (drawn (ucRefuse n s))
    else done none (patchDigest ws) (measExtend 2 (patchDigest ws) (patchLoad n ws s))
  else
    let code := envCheck kind len ws s
    let d := envDigest ws
    if code ≠ 0 then imgFailed kind code (imgInvalid kind s)
    else if kind = 1 then done none d { s with sec := { s.sec with extNext := some (envImg ws) } }
    else if kind = 2 then
      let t := putInactive (some (envImg ws)) s
      done none d { t with sec := { t.sec with quiesceAt := some t.ticks, timedOut := false } }
    else match sealedRoom len s with
      | none => imgFailed kind 0x0B s
      | some a =>
        let t := measExtend 3 d (sealPut a len (ws.getD 4 0).toNat (decide (kind = 4)) ws s)
        if kind = 4 then (match loamLoad ws (loaderCap a len t) with | some u => done (some a) d u | none => s) else done (some a) d t

/-- A write of GO while BUSY is ignored and sets REQERR; a fenced security core serves nothing (R441, R450). -/
def secServed (f : State → State) (s : State) : State :=
  if unitFenced 6 s then s else if secBusy s then hubSetBit 0x800009 22 true s else f s

/-- A request for an image in the request registers (R450). A source that fails on the way leaves the destination invalid
(R451). -/
def secLoad (kind : Nat) (s : State) : State :=
  secServed (withSource (fun code t => imgFailed kind code (if code = 0x09 then t else imgInvalid kind t)) fun ws t => secImage kind (hubPair 0x800003 t).toNat ws t) s

/-- A request that loads nothing ends with a code. -/
def secEnd (kind code : Nat) (s : State) : State :=
  secBegin kind ⟨BitVec.ofNat 4 kind, BitVec.ofNat 8 code, none, none, false⟩ s

/-- A request whose end the spec gives no code for: a free one. -/
def secFree (kind : Nat) (s : State) : State := secEnd kind (freeCode s) (drawn s)

/-- REKEY (R456): a new tag secret; the capabilities installed for the host and in the request registers are minted again.
Where the report of Topsoil's new roots stands is no rule's: SEC_RESULT_ADDR takes a free address (DESIGN CHOICE, log entry
60). -/
def secRekey (s : State) : State :=
  secServed (fun t =>
    if mode t ≠ 4 ∧ mode t ≠ 5 then secEnd 7 0x08 t
    else
      let u := newTagSecret t
      let v := { u with sec := { u.sec with reqCaps := u.sec.reqCaps.map fun c => { c with bits := retag u c.bits } } }
      let w := (List.range 2).foldl (fun x p => cxlPutPort p { cxlPort p x with
        caps := (cxlPort p x).caps.map fun e => (e.1, { e.2 with bits := retag u e.2.bits }) } x) v
      secBegin 7 ⟨7, 0, some ((Config.freeWord w.fresh).toNat + 2 ^ 24 * fld 15 0 (Config.freeWord (w.fresh + 1))), none, false⟩
        (drawn (drawn (fire 0xCA3 w)))) s

/-- COMMIT (R457). -/
def secCommitAs (i : Nat) (s : State) : State :=
  secServed (fun t =>
    let svn := match i with
      | 0 => (t.sec.ext.map (·.svn)).getD 0
      | 1 => ((topsoil t).map (·.svn)).getD 0
      | 2 => (commonUcode t).toNat % 256
      | _ => (t.sec.sealedCps.filter (·.loam)).foldl (fun m c => max m c.svn) 0
    if 3 < i then secFree 8 t
    else if mode t = 3 ∨ (i = 2 ∧ commonUcode t = 0xFFFFFF) then secEnd 8 0x08 t
    else if svn ≤ rollback i t then secEnd 8 0 t
    else secEnd 8 0 (otpPut { t.sec.otp with counters := smPut 0 t.sec.otp.counters i svn } t)) s

/-- LOG EXTEND (R453): ARG names M5–M7, the source is the digest in 11 words, of which the last has 16 bits (R448). -/
def secLog (s : State) : State :=
  secServed (withSource (secEnd 9) fun ws t =>
    let i := (hubGet 0x800005 t).toNat
    if ¬ (5 ≤ i ∧ i ≤ 7) then secFree 9 t
    else if ws.length ≠ 11 then secEnd 9 0x0A t
    else if 2 ^ 16 ≤ (ws.getD 10 0).toNat then secEnd 9 0x01 t
    else secEnd 9 0 (measExtend i (wordsInt256 ws) t)) s

/-- RELEASE (R452): ARG is the copy's distance from the sealed area's start in units of 64 words. -/
def secReleaseReq (s : State) : State :=
  secServed (fun t =>
    let a := sealedBase + 64 * (hubGet 0x800005 t).toNat
    match t.sec.sealedCps.find? fun c => c.addr == a with
    | none => secFree 0xA t
    | some c => secEnd 0xA 0
        { memDrop c.addr (c.addr + c.len) t with sec := { t.sec with sealedCps := t.sec.sealedCps.filter fun x => x.addr != a } }) s

/-- The outcome of an owner envelope (R458): its payload is the slot number, the revoke flag and the new hash.
The first envelope needs no signature where every owner slot is blank and it came through the monitor. The last unrevoked slot
can only have signed its own revocation: that answers 0x08, any other envelope signed by its own slot 0x03 (DEDUCED, log
entry 15). -/
def secOwnerImage (len : Nat) (ws : List Word) (viaMonitor : Bool) (s : State) : State :=
  let o := s.sec.otp
  let p := ws.drop 38
  let k := 2 + (p.getD 0 0).toNat % 4
  let revoke := bitOf 0 (p.getD 1 0)
  let h := wordsInt256 ((p.drop 2).take 11)
  let blank := decide (o.programmed.toNat / 4 = 0)
  let valid := (List.range 4).filter fun i => slotValid (2 + i) o
  let code :=
    if blank && viaMonitor then (if !envFormat 11 ws then 0x01 else if envWords ws ≠ 13 ∨ len ≠ 73 then 0x0A else 0)
    else envCheck 11 len ws s
  if code ≠ 0 then secEnd 11 code s
  else if 2 ^ 16 ≤ (p.getD 12 0).toNat then secEnd 11 0x01 s
  else if revoke && decide (valid = [k - 2]) then secEnd 11 0x08 s
  else if !(blank && viaMonitor) && decide ((ws.getD 5 0).toNat = k) then secEnd 11 0x03 s
  else if revoke then
    if !o.programmed.getLsbD k then secFree 11 s
    else secEnd 11 0 (otpPut { o with revoked := o.revoked ||| BitVec.ofNat 6 (2 ^ k) } s)
  else if o.programmed.getLsbD k then secEnd 11 0x03 s
  else secEnd 11 0 (otpPut { o with owner := smPut 0 o.owner (k - 2) h, programmed := o.programmed ||| BitVec.ofNat 6 (2 ^ k) } s)

/-- OWNER (R458). -/
def secOwnerReq (viaMonitor : Bool) (s : State) : State :=
  secServed (withSource (secEnd 11) fun ws t => secOwnerImage (hubPair 0x800003 t).toNat ws viaMonitor t) s

/-- SEC_LOAD_HARDPAN_EXTENSION (R451). -/
def execSecLoadHardpanExtension (s : State) : Out := awake s <| .next (secLoad 1 s)
/-- SEC_LOAD_TOPSOIL (R451). -/
def execSecLoadTopsoil (s : State) : Out := awake s <| .next (secLoad 2 s)
/-- SEC_LOAD_MICROCODE_PATCH (R289). -/
def execSecLoadMicrocodePatch (s : State) : Out := awake s <| .next (secLoad 3 s)
/-- SEC_LOAD_LOAM_IMAGE (R452). -/
def execSecLoadLoamImage (s : State) : Out := awake s <| .next (secLoad 4 s)
/-- SEC_LOAD_HOST_POLICY (R451). -/
def execSecLoadHostPolicy (s : State) : Out := awake s <| .next (secLoad 5 s)
/-- SEC_REKEY (R456). -/
def execSecRekey (s : State) : Out := awake s <| .next (secRekey s)
/-- SEC_COMMIT (R457): the counter that SEC_REQ_ARG names. -/
def execSecCommit (s : State) : Out := awake s <| .next (secCommitAs (hubGet 0x800005 s).toNat s)
/-- SEC_LOG_EXTEND (R453). -/
def execSecLogExtend (s : State) : Out := awake s <| .next (secLog s)
/-- SEC_RELEASE (R452). -/
def execSecRelease (s : State) : Out := awake s <| .next (secReleaseReq s)
/-- SEC_OWNER (R458). -/
def execSecOwner (viaMonitor : Bool) (s : State) : Out := awake s <| .next (secOwnerReq viaMonitor s)
/-- SEC_REQUEST_UNLISTED_KIND (R450): ends with CODE 0x01; a kind that names a request is none. -/
def secUnlisted (kind : Nat) (s : State) : State := secServed (secEnd kind 0x01) s
/-- SEC_REQUEST_UNLISTED_KIND (R450). -/
def execSecRequestUnlistedKind (kind : BitVec 4) (s : State) : Out := awake s <|
  .next (if kind.toNat ∈ [1, 2, 3, 4, 5, 7, 8, 9, 10, 11] then s else secUnlisted kind.toNat s)

/-- The CODE that Hardpan gives the request in hand. -/
def jobCode (s : State) : Word := match s.sec.job with | some j => j.code.setWidth 24 | none => 0

/-- After a boot failure Hardpan takes a recovery image from CXL mailbox 0 (R454). DESIGN CHOICE (log entry 60): the requests'
words follow one another up to the envelope's end; each but the last is answered with STATUS 0, the last with the image's
CODE. -/
def bootMailbox (s : State) : State :=
  let take (ws : List Word) (t : State) : State := { t with sec := { t.sec with mbImage := ws } }
  let ws := s.sec.mbImage ++ (List.range (min 256 (hubFld (mbReg 0 + 1) 8 0 s))).map fun i => hubGet (mbReg 0 + 0x100 + i) s
  let magic := (ws.getD 0 0).toNat
  let kind := if magic = kindMagic 1 then 1 else 2
  if mode s ≠ 2 ∨ hubFld 0x800009 20 18 s = 0 ∨ !mbBusy 0 s ∨ secBusy s ∨ unitFenced 6 s ∨ cxlFenced s then s
  else if magic ≠ kindMagic kind then mailboxRespond 0 0x01 [] (take [] s)
  else if ws.length < 8 ∨ (ws.length < 60 + envWords ws ∧ envWords ws ≤ payloadLimit kind) then mailboxRespond 0 0 [] (take ws s)
  else
    let t := secImage kind ws.length ws (take [] s)
    mailboxRespond 0 (jobCode t).toNat [] t

/-- MAILBOX_DOORBELL (R397, R454). -/
def execMailboxDoorbell (mb : Fin 8) (s : State) : Out := awake s <| .next (bootMailbox (mailboxDoorbell mb.val s))

/-- SEC_REQUEST_DONE (R450): DONE, CODE, the copy's address, the digest of an accepted image, its source; after a REKEY Topsoil
has its new roots (R456). -/
def execSecRequestDone (s : State) : Out := awake s <|
  match s.sec.job with
  | none => .next s
  | some j =>
    let s1 := hubPut 0x800006 (setBit 23 true (setFld 7 0 j.code.toNat (hubGet 0x800006 s)))
      (hubSetBit 0x800000 22 false { s with sec := { s.sec with job := none } })
    let s2 := match j.addr with | some a => hubPutPair 0x800007 (BitVec.ofNat 48 a) s1 | none => s1
    let s3 := match j.digest with | some d => hubPuts 0x800010 (int256Words d) s2 | none => s2
    let s4 := if j.kind = 7 ∧ j.code = 0 then
        { s3 with sec := { s3.sec with svcCaps := s3.sec.svcCaps.map fun c => { c with bits := retag s3 c.bits } } }
      else s3
    .next (bootMailbox (if !j.image then s4 else if j.code = 0 then fire 0xCA0 s4 else fire 0xCA1 (odCount 0xC0C1 0 s4)))

/-- A write of SEC_REQ_CTL (R450). -/
def secCtlWrite (v : Word) (s : State) : State :=
  if !bitOf 23 v then hubCodeWrite 0x800000 v s
  else
    match fld 3 0 v with
    | 1 => secLoad 1 s
    | 2 => secLoad 2 s
    | 3 => secLoad 3 s
    | 4 => secLoad 4 s
    | 5 => secLoad 5 s
    | 7 => secRekey s
    | 8 => secCommitAs (hubGet 0x800005 s).toNat s
    | 9 => secLog s
    | 10 => secReleaseReq s
    | 11 => secOwnerReq false s
    | k => secUnlisted k s

/-- A write of a register of the SEC block, offset from 0x40_0080_0000. -/
def secWrite (o : Nat) (v : Word) (s : State) : State :=
  if o = 0 then secCtlWrite v s else hubCodeWrite (0x800000 + o) v s

/-! ## Topsoil's replacement (R442) -/

/-- TOPSOIL_QUIESCE_TIMEOUT (R442): 100 ms without a report; the service sequencers stop. -/
def execTopsoilQuiesceTimeout (s : State) : Out := awake s <|
  match s.sec.quiesceAt with
  | none => .next s
  | some t =>
    if s.ticks.toNat < t.toNat + 10 ^ 8 ∨ !s.sec.topRuns then .next s
    else .next { s with sec := { s.sec with timedOut := true, topRuns := false, svcCaps := [] } }

/-- Topsoil starts in a half of the service-sequencer memory (R442, R454): M1 is extended, the roots are minted,
and a device in BOOT goes to CONFIGURE. -/
def topsoilStart (halfB : Bool) (s : State) : State :=
  match (if halfB then s.sec.topB else s.sec.topA) with
  | none => s
  | some i =>
    let t := measExtend 1 i.digest (hubSetBit 0x800009 21 halfB { s with sec := { s.sec with topRuns := true, halfB := halfB } })
    let u := mintRoots t
    if mode u = 2 then changeMode 4 u else u

/-- TOPSOIL_REPLACEMENT (R442): once quiescence is reported, or after the timeout, the new image starts with
the state block, which is empty where the old Topsoil timed out. -/
def execTopsoilReplacement (s : State) : Out := awake s <|
  match s.sec.quiesceAt with
  | none => .next s
  | some _ =>
    if unitFenced 5 s ∨ unitFenced 6 s then .next s
    else
      let od := if s.sec.timedOut then { s.od with kept := [], backlog := [], waiting := [] } else s.od
      let halfB := !s.sec.halfB
      .next (topsoilStart halfB { s with od := od, sec := { s.sec with quiesceAt := none, timedOut := false, svcCaps := [] } })

/-! ## Attestation (R461) and provisioning (R460) -/

/-- The report that Hardpan signs over a nonce, as things stand now (R461). -/
def attestation (nonce : List Word) (s : State) : List Word :=
  let body : List Word :=
    [0x415452, 1, BitVec.ofNat 24 (mode s), commonUcode s, imgVersion s.sec.ext, imgVersion (topsoil s)]
    ++ (List.range 3).map (fun i => (devTime s).extractLsb' (24 * i) 24)
    ++ DWord.words Config.serial
    ++ (List.range 11).map (fun i => nonce.getD i 0)
    ++ (List.range 8).flatMap (fun i => int256Words (measOf i s))
    ++ (List.range 4).map (fun i => BitVec.ofNat 24 (rollback i s))
    ++ [0, 0]
  let sg := ecdsaSign s.sec.otp.idKey.toNat (Config.random s.fresh).toNat (sha256 (wordsBytes body))
  body ++ int256Words sg.1 ++ int256Words sg.2

/-- Hardpan signs a report for a nonce; a read of 0x1030:02 returns it (R461). -/
def attest (nonce : List Word) (s : State) : State :=
  drawn { s with sec := { s.sec with nonce := nonce, report := attestation nonce s } }

/-- SPDM_REQUEST (R381, R460, R461): the certificate chain, or the fields of a report over the nonce. -/
def execSpdmRequest (k : SpdmKind) (nonce : List Word) (s : State) : Out := awake s <|
  if unitFenced 6 s ∨ cxlFenced s then .next s
  else
    match k with
    | .getCertificate => .next (respond (s.sec.otp.idCert ++ s.sec.otp.caCert) s)
    | .challenge => .next (respond (attestation nonce s) (drawn s))
    | .getMeasurements => .next (respond (attestation nonce s) (drawn s))

/-- A byte of the boot flash. -/
def flashByte (f : Flash) (o : Nat) : HByte :=
  match f.runs.find? fun (r : Nat × List HByte) => decide (r.1 ≤ o) && decide (o < r.1 + r.2.length) with
  | some r => r.2.getD (o - r.1) 0xFF
  | none => 0xFF

/-- Words of the boot flash from a byte offset on, 3 bytes each, low byte first (R411, R473). -/
def flashWords (f : Flash) (o k : Nat) : List Word :=
  (List.range k).map fun i => (flashByte f (o + 3 * i + 2) ++ flashByte f (o + 3 * i + 1) ++ flashByte f (o + 3 * i) : BitVec 24)

/-- The image of a kind at a byte offset of the boot flash (R473): a region whose first word is not the expected MAGIC holds
none, and an envelope that is too long is read as far as its payload may go. -/
def flashImage (kind o : Nat) (f : Flash) : List Word :=
  let head := flashWords f o 8
  if (head.getD 0 0).toNat ≠ kindMagic kind then head else flashWords f o (60 + min (envWords head) (payloadLimit kind))

/-- Hardpan's boot from step 3 of R454 on: the extension, Topsoil half A or B, the roots, CONFIGURE (R473). -/
def bootImages (s : State) : State :=
  let ext := flashImage 1 0 s.sec.flash
  let topA := flashImage 2 0x100000 s.sec.flash
  let topB := flashImage 2 0xB00000 s.sec.flash
  let bootErr (k : Nat) (t : State) : State := hubSetFld 0x800009 20 18 k t
  let s1 :=
    if envCheck 1 ext.length ext s = 0 then
      measExtend 0 (envDigest ext) { s with sec := { s.sec with ext := some (envImg ext) } }
    else bootErr 3 s
  let s2 := { s1 with sec := { s1.sec with topA := none, topB := none, topRuns := false } }
  if envCheck 2 topA.length topA s2 = 0 then
    topsoilStart false { s2 with sec := { s2.sec with topA := some (envImg topA) } }
  else if envCheck 2 topB.length topB s2 = 0 then
    topsoilStart true { s2 with sec := { s2.sec with topB := some (envImg topB) } }
  else bootErr 4 s2

/-- SECURE_BOOT (R454, R460): the tag secret, M4, then PROVISION for a blank part, which generates its identity
key, or the images. -/
def secureBoot (s : State) : State :=
  let s1 := measOtp (newTagSecret s)
  if s1.sec.otp.provisioned then bootImages (hubSetBit 0x800009 23 true s1)
  else
    let k := 1 + (Config.random s1.fresh).toNat % (p256N - 1)
    let s2 := if s1.sec.otp.idKey = 0 then otpPut { s1.sec.otp with idKey := BitVec.ofNat 256 k } (drawn s1) else s1
    changeMode 3 s2

/-- Words of the OTP written over others: a bit once 1 stays 1 (R447). -/
def otpWords (old new : List Word) : List Word :=
  (List.range (max old.length new.length)).map fun i => old.getD i 0 ||| new.getD i 0

/-- FACTORY_COMMAND (R460): in PROVISION; an identity certificate for another key is refused; at the end
PROVISIONED is set and Hardpan continues at step 3 of R454. -/
def execFactoryCommand (c : FactoryCmd) (s : State) : Out := awake s <|
  let o := s.sec.otp
  if mode s ≠ 3 then .next s
  else
    match c with
    | .identityCert key der =>
      .next (if key = identityWords s ∧ certFits der then otpPut { o with idCert := otpWords o.idCert der } s else s)
    | .deviceCaCert der => .next (if certFits der then otpPut { o with caCert := otpWords o.caCert der } s else s)
    | .vendorHash k h =>
      .next (otpPut { o with vendor := smPut 0 o.vendor k.val (smAt 0 o.vendor k.val ||| h), programmed := o.programmed ||| BitVec.ofNat 6 (2 ^ k.val) } s)
    | .finish =>
      if o.idCert = [] ∨ o.caCert = [] ∨ o.programmed.toNat % 4 ≠ 3 then .next s
      else .next (bootImages (changeMode 2 (hubSetBit 0x800009 23 true (otpPut { o with provisioned := true } s))))

end Sys2Proof.Machine
end

