-- ==== Sys2Proof/Machine/Pwr.lean ====
section
/-!
DEFINITION. Machine/Pwr.lean: resets, mode requests, power domains and replay
(spec/18_modes_power_startup.md R463–R477, R486). Secure boot stands in Machine/Sec.lean, the transitions at ticks
in Machine/Ticks.lean, the supplies and the temperature in Machine/Supplies.lean.
The model's own choices and readings (DEDUCED, DESIGN CHOICE, PRESUMED) are log entries 4, 61 and 68.
-/
namespace Sys2Proof.Machine

/-! ## Resets (R471, R472, R468) -/

/-- The machine as a reset of the whole device leaves it before Hardpan boots: what lies outside the device and
the OTP stay (lands, bank supplies, references, host memory, boot flash, queue of commands). -/
def deviceReset (s : State) : State :=
  { State.reset with
    pending := s.pending
    fresh := s.fresh
    ticks := s.ticks
    jtag := { s.jtag with thermtrip := false }
    sec := { State.reset.sec with otp := s.sec.otp, flash := s.sec.flash }
    cxl := { State.reset.cxl with host := s.cxl.host }
    tb := { State.reset.tb with
      refPresent := s.tb.refPresent
      refSince := (List.range 3).foldl (fun m r => smPut 0 m r s.ticks) [] }
    tmc := { State.reset.tmc with
      bankMv := s.tmc.bankMv
      pins := s.tmc.pins.map fun p => (p.1, { PinSt.reset with land := p.2.land }) } }

/-- What the always-on block and the time base bring up (R471, R474): the supplies of the banks are evaluated, the
PLL locks to the first present reference, idle spares go to RETAIN. -/
def deviceStart (s : State) : State :=
  let s1 := banksStart s
  let s2 := (List.range 3).foldl (fun t r => hubSetBit 0x100A (refBit r) (smAt false t.tb.refPresent r) t) s1
  let s3 := syncHoldover (hubSetBit 0x100A 1 true (hubSetFld 0x100A 7 6 (bestRef s2) s2))
  (List.range 8).foldl (fun t k =>
    hubSetFld (domReg (34 * k + 33)) 23 22 1 (hubSetFld (domReg (34 * k + 32)) 23 22 1 t)) s3

/-- The RWS fields, PWR_WAKE_CFG and PWR_WAKE_AT (R8), as they were. -/
def keepRws (old s : State) : State := hubPuts 0x60002 ((List.range 4).map fun i => hubGet (0x60002 + i) old) s

/-- Device time and the replicas at a value in ns. -/
def setTime (ns : BitVec 64) (s : State) : State :=
  { s with ns := ns, cls := s.cls.map fun c => { c with localNs := ns } }

/-- A cold reset (R471): everything to its reset state, then Hardpan boots. -/
def coldReset (strap : Bool) (flash : Flash) (s : State) : State :=
  let t := deviceReset s
  secureBoot (deviceStart (hubSetBit 0x40000 23 strap { t with sec := { t.sec with flash := flash } }))

/-- COLD_RESET (R471). A device without power, or one that TJ_TRIP holds, leaves that by power-on alone (R464, R483). -/
def execColdReset (cause : ResetCause) (strap : Bool) (flash : Flash) (s : State) : Out :=
  .next (if (s.pwr.trip ∨ mode s = 0) ∧ cause ≠ .powerOn then s else coldReset strap flash s)

/-- Power is removed (R464): the device is OFF. -/
def powerOff (s : State) : State := setMode 0 (deviceReset s)

/-- A warm reset (R472): device time, references, RWS fields and the deep store outside the sealed area stay. The
entries of the dictionary take their defaults, 0xA031 among them (R209). -/
def warmReset (flash : Flash) (s : State) : State :=
  let t := deviceReset s
  let sealLine (l : Nat) : Bool := decide (sealedBase ≤ 0x1000000000 + 32 * l)
  let u := { t with
    sec := { t.sec with flash := flash }
    snap := s.snap
    tb := { t.tb with refSince := s.tb.refSince }
    mem := s.mem.filter fun p => decide (0x1000000000 ≤ p.1) && decide (p.1 < sealedBase)
    hbm := { s.hbm with poisoned := s.hbm.poisoned.filter fun l => !sealLine l, spareUsed := [] } }
  let v := hubSetBit 0x40000 23 (cxlBif s) (keepRws s (setTime s.ns u))
  secureBoot (deviceStart v)

/-- WARM_RESET (R472): a write of PWR_CTL.WARM. -/
def execWarmReset (flash : Flash) (s : State) : Out := awake s <| .next (warmReset flash s)

/-- WAKE (R468, R340): from STANDBY, by the pin or by the alarm; device time continues `elapsed` ns later, the
timing unit keeps its state and makes up its counts, RWS fields stay. -/
def execWake (cause : WakeCause) (elapsed : Nat) (strap : Bool) (flash : Flash) (s : State) : Out :=
  let now := s.pwr.standbyAt + BitVec.ofNat 64 elapsed
  let woken := match cause with
    | .pin => hubBit 0x60002 23 s
    | .alarm => hubBit 0x60002 22 s && decide ((hubTime 0x60003 s).toNat ≤ (now ++ (0#8)).toNat)
  if mode s ≠ 1 ∨ s.pwr.trip ∨ !woken then .next s
  else
    let t := deviceReset { s with ticks := s.ticks + BitVec.ofNat 64 elapsed }
    let u := { t with
      snap := s.snap
      sec := { t.sec with flash := flash }, tmc := s.tmc
      hub := s.hub.filter fun p => decide (0x10000 ≤ p.1) && decide (p.1 < 0x20000) }
    let v := hubSetBit 0x40000 23 strap (keepRws s (setTime now u))
    .next (secureBoot (tmcCatchUp s.pwr.standbyAt now (deviceStart v)))

/-! ## Mode requests (R463, R464) -/

/-- A refused mode request (R463, R486). -/
def modeRefuse (s : State) : State := hubSetBit 0x60000 15 true (odCount 0xC0D2 0 s)

/-- The target that PWR_MODE.PEND shows (R464): of the transition that a request or a SAFE_OUTPUT trigger has set waiting,
else of the pending grid action, else of the DEGR rule. -/
def pendShown (s : State) : Nat :=
  let m := mode s
  let p := modePend s
  let acts (k : GridKind) : Bool := s.tb.action.any fun a => a.kind == k
  if m = 9 ∧ 6 ≤ p ∧ p ≤ 8 then (if holdActive s then 8 else runMode s)
  else if p ≠ 0xF then p
  else if acts .stop then 5
  else if acts .hold ∧ (m = 6 ∨ m = 7) then 8
  else if acts .resume ∧ m = 8 then runMode s
  else if (m = 6 ∧ runMode s = 7) ∨ (m = 7 ∧ runMode s = 6) then runMode s
  else 0xF

/-- Whether a switch to STANDBY is under way. -/
def toStandby (s : State) : Bool := decide (modePend s = 1)

/-- The logical cluster that is on a physical cluster's domain. -/
def logicalOn (d : Nat) (s : State) : Option Cl := allCl.find? fun n => decide (physDom n s = d)

/-- The state that a domain holds in CONFIGURE (R441, R476): what Topsoil asked for of a logical cluster, RETAIN for an idle
spare, OFF for a failed cluster and a fenced unit, else ON. -/
def homeState (d : Nat) (s : State) : BitVec 2 :=
  if d < 272 then
    match logicalOn d s with
    | some n => if isolated n s then 0 else BitVec.ofNat 2 (hubFld (domReg d) 1 0 s)
    | none => if [0, 1].any (fun k => spareSlot (d / 34) k s == d % 34 && spareFree (d / 34) k s) then 1 else 0
  else if (List.range 7).any (fun u => unitDom u == d && unitFenced u s) then 0
  else 2

/-- An accepted request ends a switch to STANDBY that still waits (R464): the domains switch back (DESIGN CHOICE, log
entry 61). -/
def leaveStandby (s : State) : State :=
  if toStandby s then setModePend 0xF ((List.range 292).foldl (fun u d => domSwitch d (homeState d u) 0 u) s) else s

/-- Request 0x1 (R464, R468): the domains switch. -/
def requestStandby (s : State) : State :=
  if mode s ≠ 4 ∨ secBusy s then modeRefuse s
  else if toStandby s then s
  else
    let t := (List.range 292).foldl (fun u d => domSwitch d (if d = 288 then 1 else 0) 0 u) s
    setModePend 1 t

/-- Request 0x4 (R464). -/
def requestConfigure (flash : Flash) (s : State) : State :=
  if mode s = 5 ∧ s.tb.action.isNone then changeMode 4 s
  else if mode s = 0xA ∧ !hubBit 0x60060 22 s then changeMode 4 s
  else if mode s = 0xB then warmReset flash s
  else modeRefuse s

/-- Request 0x5 (R464). -/
def requestArmed (s : State) : State :=
  if mode s = 4 ∧ hubBit 0x100A 1 s ∧ (hubFld 0x100D 1 0 s ≠ 2 ∨ hubBit 0x100A 5 s) ∧ !secBusy s then
    changeMode 5 (leaveStandby s)
  else modeRefuse s

/-- Whether a START action is pending. -/
def startPending (s : State) : Bool :=
  match s.tb.action with
  | some a => a.kind == .start
  | none => false

/-- Request 0x6 (R464, R484). -/
def requestRun (s : State) : State :=
  if mode s = 5 ∧ startPending s then setModePend 6 s
  else if mode s = 9 ∧ !hubBit 0x60058 15 s then setModePend (if holdActive s then 8 else runMode s) s
  else modeRefuse s

/-- Request 0x9 (R464). -/
def requestSafeOutput (s : State) : State := if runsModels s then requestSafe s else modeRefuse s

/-- Requests 0xA and 0xB (R464). -/
def requestFrom4 (m : Nat) (s : State) : State := if mode s = 4 then changeMode m (leaveStandby s) else modeRefuse s

/-- MODE_REQUEST_STANDBY (R464). -/
def execModeRequestStandby (s : State) : Out := awake s <| .next (requestStandby s)
/-- MODE_REQUEST_CONFIGURE (R464). -/
def execModeRequestConfigure (flash : Flash) (s : State) : Out := awake s <| .next (requestConfigure flash s)
/-- MODE_REQUEST_ARMED (R464). -/
def execModeRequestArmed (s : State) : Out := awake s <| .next (requestArmed s)
/-- MODE_REQUEST_RUN (R464). -/
def execModeRequestRun (s : State) : Out := awake s <| .next (requestRun s)
/-- MODE_REQUEST_SAFE_OUTPUT (R464). -/
def execModeRequestSafeOutput (s : State) : Out := awake s <| .next (requestSafeOutput s)
/-- MODE_REQUEST_REPLAY (R464). -/
def execModeRequestReplay (s : State) : Out := awake s <| .next (requestFrom4 0xA s)
/-- MODE_REQUEST_SERVICE (R464). -/
def execModeRequestService (s : State) : Out := awake s <| .next (requestFrom4 0xB s)

/-- Whether the table of R464 has no row for a code from any mode. -/
def unacceptedCode (code : Nat) : Bool := code == 2 || code == 3 || code == 7 || code == 8 || decide (12 ≤ code)

/-- MODE_REQUEST_UNACCEPTED_CODE (R463). -/
def execModeRequestUnacceptedCode (code : BitVec 4) (s : State) : Out := awake s <|
  .next (if unacceptedCode code.toNat then modeRefuse s else s)

/-- A mode request by its code (R463). -/
def modeRequest (code : Nat) (s : State) : State :=
  match code with
  | 0 => s
  | 1 => requestStandby s
  | 4 => requestConfigure s.sec.flash s
  | 5 => requestArmed s
  | 6 => requestRun s
  | 9 => requestSafeOutput s
  | 10 => requestFrom4 0xA s
  | 11 => requestFrom4 0xB s
  | _ => modeRefuse s

/-- STANDBY_ENTRY (R468): the domains have switched; device time goes to the slow clock, the timing unit stops, the
pins drive nothing. -/
def execStandbyEntry (s : State) : Out := awake s <|
  if mode s ≠ 4 ∨ !toStandby s then .next s
  else
    let t := (List.range 292).foldl (fun u d => hubSetFld (domReg d) 23 22 (if d = 288 then 1 else 0) u) s
    let u := { t with
      pwr := { t.pwr with switching := [], standbyAt := s.ns }, sec := { t.sec with topRuns := false }, syncOut := false }
    .next (pinsSettle (changeMode 1 (setModePend 0xF u)))

/-! ## Replay (R469) -/

/-- A write of GO to PWR_REPLAY_CTL: the plots take the last complete mirror; frames follow by REPLAY_FRAME. -/
def replayGo (n : Cl) (s : State) : State :=
  if mode s ≠ 0xA ∨ hubBit 0x60060 22 s ∨ !spmProt n s ∨ hubBit (spmCl n 0) 19 s then hubSetBit 0x60000 15 true s
  else
    let mofs := mirrorOfs n ((s.cl n).lastB == some true) s
    let a := regionBase n s + mofs
    let img := deepTake a (a + mirrorWords n s) s
    let s := snoopSpan false a (a + mirrorWords n s) s
    let s1 := (mPlots n s).foldl (fun t i => memDrop (lsAddr n (i * 16384)) (lsAddr n (i * 16384 + 16384)) t) s
    let s2 := img.foldl (fun t (p : Nat × Word) => restoreWord n mofs (mofs + p.1, p.2) t) s1
    let s3 := s2.modCl n fun c => { c with groups := [], forming := [] }
    hubSetBit 0x60060 22 true { s3 with pwr := { s3.pwr with
      replayAt := (hubPair 0x60061 s3).toNat, replayLeft := (hubGet 0x60063 s3).toNat, replayVc := n.val } }

/-- REPLAY_GO (R469): GO with VC. -/
def execReplayGo (vc : Cl) (s : State) : Out := awake s <| .next (replayGo vc (hubSetFld 0x60060 7 0 vc.val s))

/-- REPLAY_DONE (R469): at the first missing record or after N frames. -/
def execReplayDone (s : State) : Out := awake s <|
  let c := s.cl (clOf s.pwr.replayVc)
  if !hubBit 0x60060 22 s ∨ c.groups ≠ [] ∨ (0 < s.pwr.replayLeft ∧ (replayRec s.pwr.replayAt c).isSome) then .next s
  else .next (hubSetBit 0x60060 22 false s)

/-! ## Domains (R476) -/

/-- Whether Topsoil may switch the domain of a logical cluster (R476): it has no armed set, no protection, no pair
membership and no open swap, and the spare manager has not switched the domain in this tick. -/
def domOpen (d : Nat) (s : State) : Bool :=
  match (if d < 272 then logicalOn d s else none) with
  | none => false
  | some n =>
    !((List.range 8).any fun k => setArm k (s.cl n)) && !spmProt n s && !hubBit (spmCl n 1) 22 s
      && !swapOf n s && smAt none s.pwr.spmSwitch d != some s.ticks

/-- A write of PWR_DOMd (R476). -/
def domWrite (d : Nat) (v : Word) (s : State) : State :=
  let t := hubSetBit (domReg d) 19 (hubBit (domReg d) 19 s && !bitOf 19 v) s
  let r := fld 1 0 v
  if r = 3 then t
  else if !domOpen d t then hubSetBit (domReg d) 19 true t
  else
    let u := hubSetFld (domReg d) 1 0 r t
    if domState d u = r then u else domSwitch d (BitVec.ofNat 2 r) 2 u

/-- DOMAIN_REQUEST (R476). -/
def execDomainRequest (d : Dom) (v : Word) (s : State) : Out := awake s <| .next (domWrite d.val v s)

/-- A cluster island that loses its power loses its state: stores, registers, patch RAM, bindings (R476). The
parameter queue and what the spare manager keeps lie in the hub and stay. -/
def islandLost (n : Cl) (s : State) : State :=
  let s1 := memDrop (lsAddr n 0) (lsAddr n 0 + 2 ^ 22) s
  let s2 := (List.range 8).foldl (fun t k => unbind (taskSet n ⟨k % 8, Nat.mod_lt _ (by decide)⟩) t)
    ((List.range 64).foldl (fun t k => unbind (taskIrq n k) t) s1)
  let s3 := s2.modCl n fun c => { Cluster.reset with
    pq := c.pq, pqCap := c.pqCap, localNs := c.localNs, tickAt := c.tickAt, failover := c.failover, failCause := c.failCause
    dlf := c.dlf, heldFor := c.heldFor, lastB := c.lastB, mirrorAt := c.mirrorAt, ringPos := c.ringPos, ringRecs := c.ringRecs
    ringDrop := c.ringDrop, jFills := c.jFills, jParams := c.jParams }
  hubClear (ucReg n) (ucReg n + 0x20) s3

/-- DOMAIN_SWITCH_COMPLETE (R476). -/
def execDomainSwitchComplete (d : Dom) (s : State) : Out := awake s <|
  match smAt none s.pwr.switching d.val with
  | none => .next s
  | some target =>
    let s1 := hubSetFld (domReg d.val) 23 22 target.toNat
      { s with pwr := { s.pwr with switching := smPut none s.pwr.switching d.val none } }
    let s2 := if target = 0 then { s1 with spm := { s1.spm with retained := smPut [] s1.spm.retained d.val [] } } else s1
    let s3 := match (if target = 0 then logicalOn d.val s2 else none) with
      | some n => islandLost n s2
      | none => s2
    .next (fire 0xC64 s3)

/-! ## Temperature (R482) -/

/-- Tmax in 1/16 °C, the hottest of the samples. -/
def hottest (temps : List Word) : Option Int :=
  temps.foldl (fun (b : Option Int) w => match b with
    | none => some w.toInt
    | some x => some (max x w.toInt)) none

/-! ## Register writes of the block -/

/-- A write of a register of the PWR block, offset from 0x40_0006_0000. -/
def pwrWrite (o : Nat) (v : Word) (s : State) : State :=
  if o = 0 then modeRequest (fld 3 0 v) (hubSetBit 0x60000 15 (hubBit 0x60000 15 s && !bitOf 15 v) s)
  else if o = 1 then (if bitOf 23 v then warmReset s.sec.flash s else s)
  else if o = 0x58 then
    let c := fld 23 16 v
    hubCodeWrite 0x60058 (if 80 ≤ c ∧ c ≤ 103 then v else setFld 23 16 (hubFld 0x60058 23 16 s) v) s
  else if o = 0x60 then
    let t := hubCodeWrite 0x60060 v s
    if bitOf 23 v then replayGo (clOf (fld 7 0 v)) t else t
  else if 0x100 ≤ o ∧ o < 0x225 then domWrite (o - 0x100) v s
  else hubCodeWrite (0x60000 + o) v s

end Sys2Proof.Machine
end

