-- ==== Sys2Proof/Machine/Od.lean ====
section
/-!
DEFINITION. Machine/Od.lean: the entries of the object dictionary and the server's operations
(spec/15_object_dictionary.md R403–R416, R421, R422; the entries of R74, R209, R296, R316, R341, R362, R380,
R402, R424, R445, R462, R485).
The model's own choices and readings (DEDUCED, DESIGN CHOICE, PRESUMED) are log entries 55, 56 and 73.
-/
namespace Sys2Proof.Machine

/-! ## Entries (R10, R403–R405) -/

/-- An entry: TYPE code, access (0 CONST, 1 RO, 2 RW, 3 RWC, 4 WO), size in words, default, minimum, maximum. -/
structure OdEntry where
  ty   : Nat
  acc  : Nat
  size : Nat
  dflt : List Word
  lo   : List Word
  hi   : List Word
deriving DecidableEq, Repr

/-- The least value of a type, for an entry whose rule gives no minimum (R404). -/
def tyMin (ty : Nat) : List Word :=
  match ty with
  | 3 => [0x800000]
  | 5 => [0, 0x800000]
  | 6 => [0xFF0000]
  | 7 => DWord.words (f48.inf true)
  | 9 => []
  | 10 => []
  | _ => List.replicate ((typeWords ty).getD 0) 0

/-- The greatest value of a type, for an entry whose rule gives no maximum (R404). -/
def tyMax (ty : Nat) : List Word :=
  match ty with
  | 1 => [1]
  | 3 => [0x7FFFFF]
  | 5 => [0xFFFFFF, 0x7FFFFF]
  | 6 => [0x7F0000]
  | 7 => DWord.words (f48.inf false)
  | 9 => []
  | 10 => []
  | _ => List.replicate ((typeWords ty).getD 0) 0xFFFFFF

/-- A number as a value of so many words, low word first. -/
def natWords (k v : Nat) : List Word := (List.range k).map fun i => BitVec.ofNat 24 (v / 2 ^ (24 * i))

/-- An entry of a numeric type over its type's whole range. -/
def odNum (ty acc dflt : Nat) : OdEntry :=
  let k := (typeWords ty).getD 0
  ⟨ty, acc, k, natWords k dflt, tyMin ty, tyMax ty⟩

/-- The bytes of a STRING in words (R404). -/
def strWords : List Nat → List Word
  | a :: b :: c :: t => BitVec.ofNat 24 (a + b * 2 ^ 8 + c * 2 ^ 16) :: strWords t
  | [a, b] => [BitVec.ofNat 24 (a + b * 2 ^ 8)]
  | [a] => [BitVec.ofNat 24 a]
  | [] => []

/-- The decimal digits of a number below 1,000 as characters. -/
def decDigits (v : Nat) : List Nat :=
  (if 100 ≤ v then [48 + v / 100] else []) ++ (if 10 ≤ v then [48 + v / 10 % 10] else []) ++ [48 + v % 10]

/-- A version word as "major.minor.patch" (R294, R416). -/
def versionString (v : Word) : List Word :=
  strWords (decDigits (fld 23 16 v) ++ [46] ++ decDigits (fld 15 8 v) ++ [46] ++ decDigits (fld 7 0 v))

/-- The entries of the identity range (R416). -/
def odIdentity : List (Nat × OdEntry) := [
  (odKey 0x1000 0, odNum 2 0 0x824),
  (odKey 0x1008 0, ⟨9, 0, 2, strWords [0x5A, 0x56, 0x2D, 0x38, 0x32, 0x34], [], []⟩),
  (odKey 0x1009 0, ⟨9, 0, 1, strWords [0x41, 0x31], [], []⟩),
  (odKey 0x100A 0, ⟨9, 1, 4, [], [], []⟩),
  (odKey 0x1018 1, odNum 2 0 0x4F44),
  (odKey 0x1018 2, odNum 2 0 0x824),
  (odKey 0x1018 3, odNum 2 0 0xA1),
  (odKey 0x1018 4, odNum 4 0 Config.serial.toNat),
  (odKey 0x1019 0, odNum 2 1 0),
  (odKey 0x1020 0, odNum 2 1 0x010000)]

/-- The entries of trust and identity (R462). -/
def odTrust : List (Nat × OdEntry) := [
  (odKey 0x1030 1, ⟨10, 4, 11, List.replicate 11 0, [], []⟩),
  (odKey 0x1030 2, ⟨10, 1, 138, List.replicate 138 0, [], []⟩),
  (odKey 0x1031 1, ⟨10, 0, 214, [], [], []⟩),
  (odKey 0x1031 2, ⟨10, 0, 214, [], [], []⟩)]
  ++ (List.range 4).map (fun i => (odKey 0x1040 (i + 1), odNum 2 1 0))
  ++ [(odKey 0x2040 0, { odNum 2 3 0 with hi := [3] }), (odKey 0xA0C0 0, odNum 2 1 0)]

/-- The communication and configuration entries (R416). -/
def odComm : List (Nat × OdEntry) := [
  (odKey 0x1200 1, { odNum 2 3 0xBAC4 with lo := [1] }),
  (odKey 0x1200 2, { odNum 2 3 0x88B5 with lo := [0x600] }),
  (odKey 0x1201 1, ⟨10, 3, 6, List.replicate 6 0, [], []⟩),
  (odKey 0x1201 2, ⟨10, 3, 6, List.replicate 6 0, [], []⟩)]
  ++ (List.range 16).map (fun i => (odKey 0x1400 (i + 1), odNum 4 2 0))
  ++ [(odKey 0x1400 0x11, odNum 1 2 0), (odKey 0x2000 0, ⟨2, 4, 1, [0], [1], [11]⟩)]

/-- The status entries (R416 and the chapters' own tables). -/
def odStatusEntries : List (Nat × OdEntry) :=
  [(odKey 0xA000 0, odNum 2 1 2), (odKey 0xA021 0, odNum 8 1 0), (odKey 0xA080 0, odNum 4 1 0),
   (odKey 0xA0B1 0, odNum 2 1 16), (odKey 0xA0D0 0, odNum 6 1 0)]
  ++ ([0xA010, 0xA011, 0xA020, 0xA030, 0xA031, 0xA040, 0xA050, 0xA060, 0xA070, 0xA090, 0xA0B0, 0xA0B2, 0xA0D1, 0xA0D2].map
      fun i => (odKey i 0, odNum 2 1 0))

/-- The indices of the counters. -/
def odCounters : List Nat :=
  [(0xC010, 1), (0xC020, 4), (0xC030, 7), (0xC040, 2), (0xC050, 4), (0xC060, 4), (0xC070, 5), (0xC080, 4), (0xC090, 5), (0xC0A0, 4),
   (0xC0B0, 5), (0xC0C0, 2), (0xC0D0, 3)].flatMap fun (p : Nat × Nat) => (List.range p.2).map fun i => p.1 + i

/-- The entries that every device holds, by key. -/
def odFixed : List (Nat × OdEntry) :=
  odIdentity ++ odTrust ++ odComm ++ odStatusEntries ++ odCounters.map fun i => (odKey i 0, odNum 4 1 0)

/-- The model parameter of a key. -/
def odParam (key : Nat) (s : State) : Option Param := s.od.params.find? fun (p : Param) => p.key == key

/-- The entry of a model parameter (R417). -/
def paramEntry (d : List Word) : OdEntry := ⟨descTy d, descAcc d, descWords d, descVal d 0, descVal d 1, descVal d 2⟩

/-- The subindexes that an index holds. -/
def odSubs (idx : Nat) (s : State) : List Nat :=
  ((odFixed.map (·.1) ++ s.od.params.map (·.key)).filter fun k => decide (k / 256 = idx)).map fun k => k % 256

/-- The entry at an index and subindex, or the STATUS of one that does not exist (R403): subindex 0 of a record
gives its highest subindex. -/
def odFind (idx sub : Nat) (s : State) : Except Nat OdEntry :=
  match odFixed.find? (fun p => p.1 == odKey idx sub), odParam (odKey idx sub) s with
  | some p, _ => .ok p.2
  | none, some p => .ok (paramEntry p.desc)
  | none, none =>
    match odSubs idx s with
    | [] => .error 1
    | x :: xs => if sub = 0 then .ok (odNum 2 0 (xs.foldl max x)) else .error 2

/-- The default of an entry that the server keeps itself. -/
def odDefault (key : Nat) : List Word := ((odFixed.find? fun p => p.1 == key).map (·.2.dflt)).getD []

/-- How many of the logical clusters meet a condition. -/
def countCl (f : Cl → Bool) : Nat := (allCl.filter f).length

/-- A word with bit i set where the condition holds of i. -/
def maskOf (k : Nat) (f : Nat → Bool) : Nat := (List.range k).foldl (fun a i => if f i then a + 2 ^ i else a) 0

/-- The words of a DOMAIN filled up to its size. -/
def padTo (k : Nat) (ws : List Word) : List Word := ws.take k ++ List.replicate (k - ws.length) 0

/-- What a status entry reads as now; none for an entry of another kind. DESIGN CHOICE
(log entry 73): 0xA021:00 answers the device time of the read itself. -/
def odStatus (idx sub : Nat) (s : State) : Option (List Word) :=
  let u24 (v : Nat) : Option (List Word) := some [BitVec.ofNat 24 v]
  match idx with
  | 0x100A => some (versionString (imgVersion (topsoil s)))
  | 0x1019 => some [imgVersion s.sec.ext]
  | 0x1020 => some [commonUcode s]
  | 0x1030 => if sub = 1 then some (padTo 11 s.sec.nonce) else if sub = 2 then some (padTo 138 s.sec.report) else none
  | 0x1031 => if sub = 1 then some (padTo 214 s.sec.otp.idCert) else if sub = 2 then some (padTo 214 s.sec.otp.caCert) else none
  | 0x1040 => if sub = 0 then none else u24 (rollback (sub - 1) s)
  | 0xA000 => u24 (mode s)
  | 0xA010 => u24 s.od.params.length
  | 0xA011 =>
    let waits (l : List PEntry) : Nat := (l.filter fun e => decide (e.req ≠ 0)).length
    u24 ((allCl.map fun n => waits (s.cl n).pq + waits (backlogOf n s)).sum)
  | 0xA020 => some [hubGet 0x100A s]
  | 0xA021 => some (natWords 3 (devTime s).toNat)
  | 0xA030 => u24 ((allCl.map fun n => (ioBit 0x3A1 23 (s.cl n)).toNat + (ioBit 0x3A1 15 (s.cl n)).toNat).sum)
  | 0xA031 => u24 (maskOf 4 fun k => (smAt none s.hbm.spareUsed k).isSome)
  | 0xA040 =>
    let top := allCl.foldl (fun m n => max m (ucodeVer n s).toNat) 0
    u24 (countCl fun n => decide ((ucodeVer n s).toNat ≠ top))
  | 0xA050 => u24 (maskOf 16 fun l => lkEn l s && !lkUp l s)
  | 0xA060 => u24 (maskOf 8 fun b => bankDown b s)
  | 0xA070 => u24 ((List.range 1024).filter fun c => bitOf 23 (chTaskReg c s)).length
  | 0xA080 => some (natWords 2 (maskOf 40 fun p => hubBit (npReg p) 23 s && !hubBit (npReg p + 0xC) 23 s))
  | 0xA090 => u24 (hubFld (cxlStat 0) 23 16 s + 2 ^ 8 * hubFld (cxlStat 1) 23 16 s)
  | 0xA0B0 => u24 (hubFld 0x50001 6 0 s)
  | 0xA0B1 => u24 (((List.range 8).map fun t => (spareFree t 0 s).toNat + (spareFree t 1 s).toNat).sum)
  | 0xA0B2 => u24 (countCl fun n => spmProt n s && hubBit (spmCl n 0) 19 s)
  | 0xA0C0 => some [hubGet 0x800009 s]
  | 0xA0D0 => match hottest (hubGetTemps s) with
    | none => some [Config.freeWord s.fresh]
    | some x => some [(intToF f24 0 4 x).1.setWidth 24]
  | 0xA0D1 => u24 (maskOf 15 fun r => hubBit (railReg r) 23 s)
  | 0xA0D2 => u24 (mode s * 32 + pendShown s * 2 + hubFld 0x60000 15 15 s)
  | _ => if decide (0xC000 ≤ idx) && decide (idx < 0xD000) then some (DWord.words (odCtr idx sub s)) else none
where
  /-- The temperatures of the valid sensors (R482). -/
  hubGetTemps (s : State) : List Word :=
    ((List.range 40).filter fun i => !s.pwr.tempBad.contains i).map fun i => hubGet (0x60030 + i) s

/-- The value of an entry (R407, R418): a model parameter as the queue last applied it. -/
def odValue (idx sub : Nat) (e : OdEntry) (s : State) : List Word :=
  match odParam (odKey idx sub) s with
  | some p => p.applied
  | none => (odStatus idx sub s).getD (if e.acc = 0 then e.dflt else smGet odDefault s.od.vals (odKey idx sub))

/-- Whether an access right permits a write in the current mode (R10). -/
def odWritable (acc : Nat) (s : State) : Bool :=
  acc == 2 || acc == 4 || (acc == 3 && (mode s == 4 || mode s == 5))

/-- The STATUS that a write of a value meets; 0 where it is none (R405). -/
def odCheck (e : OdEntry) (ty : Nat) (data : List Word) (s : State) : Nat :=
  if !odWritable e.acc s then 3
  else if ty ≠ e.ty then 4
  else match typeWords ty with
    | some k => if data.length ≠ k then 5 else if valOk ty e.lo e.hi data then 0 else 6
    | none => if e.size < data.length then 5 else 0

/-! ## The server (R406, R411–R415) -/

/-- Whether the server takes a request of this path: Topsoil runs and is not being replaced; a mailbox request
waits in its mailbox, which has not handed it over yet (R414, R415, R441). -/
def nfpUp (path : NfpPath) (s : State) : Bool :=
  serverUp s &&
    (match path with
     | .mailbox m => mbBusy m s && !cxlFenced s && !(s.od.waiting.any fun (w : Waiting) => w.path == path)
     | _ => true)

/-- Whether the frame's source MAC address is an entry of 0x1400 (R413). -/
def peerListed (mac : BitVec 48) (s : State) : Bool :=
  (List.range 16).any fun i =>
    let v := wordsNat (smGet odDefault s.od.vals (odKey 0x1400 (i + 1)))
    decide (v ≠ 0) && decide (v = mac.toNat)

/-- Whether a request lacks the peer entry it needs (R413). -/
def peerRefused (path : NfpPath) (write : Bool) (s : State) : Bool :=
  match path with
  | .field _ _ mac =>
    (write || decide (wordsNat (smGet odDefault s.od.vals (odKey 0x1400 0x11)) = 1)) && !peerListed mac s
  | _ => false

/-- Whether two paths name one peer (R412). -/
def samePeer (a b : NfpPath) : Bool :=
  match a, b with
  | .field _ p _, .field _ q _ => p == q
  | _, _ => false

/-- A request reaches the server: a repeat gets its kept response, one whose first copy still waits gets none
(R412); any other is served. -/
def nfpServe (path : NfpPath) (seq : Nat) (f : State → State) (s : State) : State :=
  if !nfpUp path s then s
  else
    let kept := match path with
      | .field _ peer _ => (keptOf peer s).find? fun (k : Kept) => k.seq.toNat == seq % 2 ^ 16
      | _ => none
    match kept with
    | some k => nfpSend path k.resp (odCount 0xC0A2 0 s)
    | none =>
      if s.od.waiting.any fun (w : Waiting) => samePeer w.path path && decide ((nfpSeq w.hdr).toNat = seq % 2 ^ 16) then s
      else f s

/-- A request with its header fields. -/
structure NfpHdr where
  path : NfpPath
  op   : Nat
  seq  : Nat
  idx  : Nat
  sub  : Nat
  w3   : Word

/-- OP and word 3 of the response: OP + 0x8, 0xF where it is not listed; the OFFSET of a segment operation, the item count
of a WRITE_MULTI, 0 otherwise (R408, R409). -/
def NfpHdr.resp (h : NfpHdr) : Nat × Word :=
  (if 1 ≤ h.op ∧ h.op ≤ 6 then h.op + 8 else 0xF, if h.op = 3 ∨ h.op = 4 ∨ h.op = 6 then h.w3 else 0)

/-- Answer with a STATUS and data of a TYPE (R408, R409). -/
def nfpReply (h : NfpHdr) (status ty : Nat) (data : List Word) (s : State) : State :=
  nfpAnswer h.path (nfpWords h.resp.1 h.seq h.idx h.sub status ty data h.resp.2) s

/-- READ (R409). -/
def nfpDoRead (h : NfpHdr) (s : State) : State :=
  if peerRefused h.path false s then nfpReply h 8 0 [] s
  else match odFind h.idx h.sub s with
    | .error st => nfpReply h st 0 [] s
    | .ok e => if e.acc = 4 then nfpReply h 3 0 [] s else nfpReply h 0 e.ty (odValue h.idx h.sub e s) s

/-- READ_SEG (R409). -/
def nfpDoReadSeg (h : NfpHdr) (len : Nat) (s : State) : State :=
  if peerRefused h.path false s then nfpReply h 8 0 [] s
  else match odFind h.idx h.sub s with
    | .error st => nfpReply h st 0 [] s
    | .ok e =>
      if e.acc = 4 then nfpReply h 3 0 [] s
      else if e.ty ≠ 10 then nfpReply h 4 0 [] s
      else if e.size < h.w3.toNat + len then nfpReply h 0xA 0 [] s
      else nfpReply h 0 10 (((padTo e.size (odValue h.idx h.sub e s)).drop h.w3.toNat).take len) s

/-- A value in three words, low-aligned and zero-filled (R409). -/
def threeWords (ws : List Word) : List Word := padTo 3 ws

/-- DESCRIBE (R409). The default of an entry that names what runs is what runs. -/
def nfpDoDescribe (h : NfpHdr) (s : State) : State :=
  if peerRefused h.path false s then nfpReply h 8 0 [] s
  else match odFind h.idx h.sub s with
    | .error st => nfpReply h st 0 [] s
    | .ok e =>
      let w0 : Word := BitVec.ofNat 24 (e.ty * 2 ^ 20 + e.acc * 2 ^ 16 + e.size)
      let dflt := if h.idx = 0x1019 then odValue h.idx h.sub e s else e.dflt
      let num := !(e.ty == 9 || e.ty == 10)
      let three (ws : List Word) : List Word := if num then threeWords ws else [0, 0, 0]
      nfpReply h 0 0 (w0 :: (three dflt ++ three e.lo ++ three e.hi)) s

/-- Store the value of an entry that the server keeps. -/
def odStore (key : Nat) (ws : List Word) (s : State) : State :=
  { s with od := { s.od with vals := smSet odDefault s.od.vals key ws } }

/-- A mode request through 0x2000:00 (R463): refused with STATUS 0x06; a warm reset answers nothing. -/
def odModeRequest (h : NfpHdr) (code : Nat) (s : State) : State :=
  let t := modeRequest code s
  if mode s = 0xB ∧ code = 4 then t
  else nfpReply h (if odCtr 0xC0D2 0 t = odCtr 0xC0D2 0 s then 0 else 6) 0 [] t

/-- A write takes effect in an entry that is no model parameter (R406). -/
def odTake (h : NfpHdr) (e : OdEntry) (data : List Word) (s : State) : State :=
  if h.idx = 0x2000 then odModeRequest h (wordsNat data) s
  else if h.idx = 0x1030 then
    if unitFenced 6 s then nfpReply h 9 0 [] s else nfpReply h 0 0 [] (attest (padTo 11 data) s)
  else if h.idx = 0x2040 then
    if secBusy s ∨ unitFenced 6 s then nfpReply h 9 0 [] s
    else nfpReply h 0 0 [] (secCommitAs (wordsNat data) (odStore (odKey h.idx h.sub) data s))
  else nfpReply h 0 0 [] (odStore (odKey h.idx h.sub) (if e.ty = 10 then padTo e.size data else data) s)

/-- The free entries of a cluster's queue that the server's next pushes find: none behind a backlog. -/
def queueRoom (n : Cl) (s : State) : Nat := if backlogOf n s = [] then 16 - (s.cl n).pq.length else 0

/-- Whether `k` more writes of a cluster leave more than 256 unpushed (R421). -/
def backlogOver (n : Cl) (k : Nat) (s : State) : Bool := decide (256 < (backlogOf n s).length + (k - queueRoom n s))

/-- The queue entry of a parameter's new value. -/
def paramPush (p : Param) (v : List Word) (req : Nat) (last : Bool) : PEntry :=
  ⟨descHome p.desc, v, some p.key, req, last⟩

/-- Note the latest accepted value of a parameter (R422). -/
def paramAccept (key : Nat) (v : List Word) (s : State) : State :=
  { s with od := { s.od with params := s.od.params.map fun (p : Param) => if p.key = key then { p with accepted := v } else p } }

/-- Accepted writes go to their cluster's queue; the response waits for the last (R418). -/
def paramWrites (h : NfpHdr) (n : Cl) (ps : List (Param × List Word)) (s : State) : State :=
  let req := s.od.nextReq
  let w : Waiting := ⟨req, h.path, nfpWords h.resp.1 h.seq h.idx h.sub 0 0 [] h.resp.2⟩
  let s1 := { s with od := { s.od with nextReq := req + 1, waiting := s.od.waiting ++ [w] } }
  let s2 := ps.foldl (fun t p => paramAccept p.1.key p.2 t) s1
  let es := ps.mapIdx fun i p => paramPush p.1 p.2 req (decide (i + 1 = ps.length))
  let (ok, s3) := serverEntries n es s2
  if ok then s3 else answerReq req 7 0 [] s3

/-- WRITE (R405, R409, R413, R418, R421). -/
def nfpDoWrite (h : NfpHdr) (ty : Nat) (data : List Word) (s : State) : State :=
  if peerRefused h.path true s then nfpReply h 8 0 [] s
  else match odFind h.idx h.sub s with
    | .error st => nfpReply h st 0 [] s
    | .ok e =>
      let st := odCheck e ty data s
      if st ≠ 0 then nfpReply h st 0 [] s
      else match odParam (odKey h.idx h.sub) s with
        | none => odTake h e data s
        | some p =>
          if backlogOver (descCl p.desc) 1 s then nfpReply h 9 0 [] s
          else paramWrites h (descCl p.desc) [(p, data)] s

/-- WRITE_SEG (R409). -/
def nfpDoWriteSeg (h : NfpHdr) (data : List Word) (s : State) : State :=
  if peerRefused h.path true s then nfpReply h 8 0 [] s
  else match odFind h.idx h.sub s with
    | .error st => nfpReply h st 0 [] s
    | .ok e =>
      let o := h.w3.toNat
      if !odWritable e.acc s then nfpReply h 3 0 [] s
      else if e.ty ≠ 10 then nfpReply h 4 0 [] s
      else if e.size < o + data.length then nfpReply h 0xA 0 [] s
      else
        let old := padTo e.size (odValue h.idx h.sub e s)
        odTake h e (old.take o ++ data ++ old.drop (o + data.length)) s

/-- The STATUS of item `i` of a WRITE_MULTI with the parameter it names (R405, R421, R422): `n` is the cluster of
the first item. -/
def itemCheck (n : Option Cl) (i : Nat) (it : NfpItem) (s : State) : Except Nat (Param × List Word) :=
  match odFind it.idx.toNat it.sub.toNat s with
  | .error st => .error st
  | .ok e =>
    let st := odCheck e it.ty.toNat it.data s
    if st ≠ 0 then .error st
    else match odParam (odKey it.idx.toNat it.sub.toNat) s with
      | none => .error 0xD
      | some p =>
        if n.any fun m => decide (m ≠ descCl p.desc) then .error 0xD
        else if backlogOver (descCl p.desc) (i + 1) s then .error 9
        else .ok (p, it.data)

/-- The cluster that the first item names. -/
def itemsCl (items : List NfpItem) (s : State) : Option Cl :=
  match items with
  | [] => none
  | it :: _ => (odParam (odKey it.idx.toNat it.sub.toNat) s).map fun p => descCl p.desc

/-- The generation writes that a request appends: one for each group entry its items name (R422). -/
def generationWrites (ps : List (Param × List Word)) (s : State) : List (Param × List Word) :=
  let keys := ((ps.map fun p => (p.1.desc.getD 2 0).toNat).filter fun k => decide (k ≠ 0)).dedup
  keys.filterMap fun k => (odParam k s).map fun g => (g, [g.accepted.getD 0 0 + 1])

/-- WRITE_MULTI (R409, R413, R422). -/
def nfpDoWriteMulti (h : NfpHdr) (items : List NfpItem) (s : State) : State :=
  if peerRefused h.path true s then nfpReply h 8 0 [] s
  else
    match itemsCl items s, (items.mapIdx fun i it => itemCheck (itemsCl items s) i it s).mapM id with
    | _, .error st => nfpReply h st 0 [] s
    | none, .ok _ => nfpReply h 0xB 0 [] s
    | some n, .ok ps =>
      let all := ps ++ generationWrites ps s
      if backlogOver n all.length s then nfpReply h 9 0 [] s else paramWrites h n all s

/-! ## A message as words (R408) -/

/-- The items of a WRITE_MULTI as words, and the words behind them; none where the data ends before them or a reserved field
is not 0. -/
def nfpItems : Nat → List Word → Option (List NfpItem × List Word)
  | 0, r => some ([], r)
  | k + 1, a :: b :: r =>
    let len := fld 11 0 b
    if r.length < len ∨ fld 23 16 b ≠ 0 then none
    else (nfpItems k (r.drop len)).map fun p =>
      (⟨BitVec.ofNat 16 (fld 23 8 a), BitVec.ofNat 8 (fld 7 0 a), BitVec.ofNat 4 (fld 15 12 b), r.take len⟩ :: p.1, p.2)
  | _, _ => none

/-- Whether `n` words are as many as a message should have: on a field port any further ones are ignored (R411). -/
def lengthOk (path : NfpPath) (n should : Nat) : Bool :=
  match path with
  | .field .. => decide (should ≤ n)
  | _ => decide (n = should)

/-- A message of words reaches the server (R408, R411, R414, R415): wrong VER, an unlisted OP and a malformed request are
answered with their STATUS. The LEN of a READ_SEG names words of the DOMAIN, so such a request has four words; a mailbox may
give 4 + LEN (log entry 55). -/
def nfpMessage (path : NfpPath) (ws : List Word) (s : State) : State :=
  let w0 := ws.getD 0 0
  let w1 := ws.getD 1 0
  let w2 := ws.getD 2 0
  let w3 := ws.getD 3 0
  let op := fld 19 16 w0
  let len := fld 11 0 w2
  let ty := fld 15 12 w2
  let data := (ws.drop 4).take len
  let h : NfpHdr := ⟨path, op, fld 15 0 w0, fld 23 8 w1, fld 7 0 w1, w3⟩
  let plain := decide (4 ≤ ws.length) && decide (fld 23 16 w2 = 0) && decide (len ≤ 480)
  let whole := plain && lengthOk path ws.length (4 + len)
  let noData := whole && decide (ty = 0) && decide (len = 0) && w3 == 0
  let bad (t : State) : State := nfpReply h 0xB 0 [] t
  nfpServe path h.seq (fun t =>
    if fld 23 20 w0 ≠ 1 then nfpReply h 0xC 0 [] t
    else match op with
      | 1 => if noData then nfpDoRead h t else bad t
      | 2 => if whole && w3 == 0 then nfpDoWrite h ty data t else bad t
      | 3 => if plain && decide (ty = 0) && (lengthOk path ws.length 4 || whole) then nfpDoReadSeg h len t else bad t
      | 4 => if !whole then bad t else if ty = 0 ∨ ty = 10 then nfpDoWriteSeg h data t else nfpReply h 4 0 [] t
      | 5 => if noData then nfpDoDescribe h t else bad t
      | 6 =>
        if plain && decide (ty = 0) && decide (len = 0) && w1 == 0 then
          match nfpItems w3.toNat ((ws.drop 4).take 480) with
          | some (is, rest) => if lengthOk path ws.length (ws.length - rest.length) then nfpDoWriteMulti h is t else bad t
          | none => bad t
        else bad t
      | _ => bad t) s

/-! ## How a request comes (R411, R414, R416) -/

/-- The number that an entry of the server holds. -/
def odNumber (idx sub : Nat) (s : State) : Nat := wordsNat (smGet odDefault s.od.vals (odKey idx sub))

/-- Whether a datagram is for a field port: for its address of 0x1201, or for a link-local one (R416; PRESUMED, log entry
55: the link-local address is the port's own). -/
def addressed (port : Fin 2) (dst : BitVec 128) (s : State) : Bool :=
  let own := BitVec.ofNat 128 (odNumber 0x1201 (port.val + 1) s)
  (own != 0 && own == dst) || (dst.extractLsb' 0 8 == 0xFE && dst.extractLsb' 14 2 == 2)

/-- The path of a request that the server takes: a datagram to its UDP port, a frame of its EtherType (R411, R416). -/
def viaPath (via : NfpVia) (s : State) : Option NfpPath :=
  match via with
  | .udp port mac src srcPort dst dstPort _ =>
    if dstPort.toNat = odNumber 0x1200 1 s ∧ addressed port dst s then some (.field port (.udp src srcPort) mac) else none
  | .ether port mac ty _ => if ty.toNat = odNumber 0x1200 2 s then some (.field port (.ether mac) mac) else none
  | .mailbox m => some (.mailbox m)

/-- Bytes as words of 3, low byte first (R411). -/
def byteWords : List HByte → List Word
  | a :: b :: c :: t => (c ++ b ++ a : BitVec 24) :: byteWords t
  | _ => []

/-- The words of a request's message: a mailbox's lie in CXL_MBm_REQ, as many as its LEN (R414). -/
def viaWords (via : NfpVia) (s : State) : List Word :=
  match via with
  | .udp _ _ _ _ _ _ msg => byteWords msg
  | .ether _ _ _ msg => byteWords msg
  | .mailbox m => (List.range (min 256 (hubFld (mbReg m + 1) 8 0 s))).map fun i => hubGet (mbReg m + 0x100 + i) s

/-- A request whose OP is one of the command's reaches the server; no other request is this command. -/
def nfpTake (mine : Nat → Bool) (via : NfpVia) (s : State) : State :=
  match viaPath via s with
  | none => s
  | some path => if mine (fld 19 16 ((viaWords via s).getD 0 0)) then nfpMessage path (viaWords via s) s else s

/-! ## The requests as commands -/

/-- NFP_READ (R409). -/
def execNfpRead (via : NfpVia) (s : State) : Out := awake s <| .next (nfpTake (· == 1) via s)

/-- NFP_WRITE (R405, R409, R418). -/
def execNfpWrite (via : NfpVia) (s : State) : Out := awake s <| .next (nfpTake (· == 2) via s)

/-- NFP_READ_SEG (R409). -/
def execNfpReadSeg (via : NfpVia) (s : State) : Out := awake s <| .next (nfpTake (· == 3) via s)

/-- NFP_WRITE_SEG (R409). -/
def execNfpWriteSeg (via : NfpVia) (s : State) : Out := awake s <| .next (nfpTake (· == 4) via s)

/-- NFP_DESCRIBE (R409). -/
def execNfpDescribe (via : NfpVia) (s : State) : Out := awake s <| .next (nfpTake (· == 5) via s)

/-- NFP_WRITE_MULTI (R422). -/
def execNfpWriteMulti (via : NfpVia) (s : State) : Out := awake s <| .next (nfpTake (· == 6) via s)

/-- NFP_UNLISTED_OPERATION (R408). -/
def execNfpUnlistedOperation (via : NfpVia) (s : State) : Out := awake s <|
  .next (nfpTake (fun op => op == 0 || decide (6 < op)) via s)

end Sys2Proof.Machine
end

