-- ==== Sys2Proof/Machine/RegAccess.lean ====
section
/-!
DEFINITION. Machine/RegAccess.lean: how a read and a write reach the hub's registers and a cluster's event
counters (spec/00_scope.md R6–R8, spec/02_time_and_frames.md R35, spec/12_events_and_queues.md,
spec/19_monitor_counters.md R494–R498), who may write them (spec/17_security.md R446), and REGISTER_WRITE.
The model's own choices and readings (DEDUCED, DESIGN CHOICE, PRESUMED) are log entries 62 and 63.
-/
namespace Sys2Proof.Machine

/-- The word that a read command answers, and the state it leaves with the last answer kept. -/
def asRead (o : Out) (s : State) : Word × State :=
  match o with
  | .next t => (t.resp.headD 0, { t with resp := s.resp })
  | _ => (0, s)

/-- The state a command leaves. -/
def asWrite (o : Out) (s : State) : State :=
  match o with
  | .next t => t
  | _ => s

/-! ## Event counters of a cluster (R494–R497) -/

/-- The sources whose events depend on cycles the model does not follow: their counts advance by free
amounts. -/
def evcTimed (sel : Nat) : Bool := [0x01, 0x07, 0x08, 0x09, 0x0A, 0x10].contains sel

/-- Add to counter `i` of a cluster; a step past the end wraps and sets OVF (R494). -/
def evcAdd (i k : Nat) (c : Cluster) : Cluster :=
  let v := (ioPair (0x1110 + 2 * i) c).toNat + k
  let d := ioPutPair (0x1110 + 2 * i) (BitVec.ofNat 48 v) c
  if 2 ^ 48 ≤ v then ioSetBit 0x1100 i true d else d

/-- The counts of timed sources move on by free amounts. -/
def evcFree (n : Cl) (s : State) : State :=
  let c := (List.range 8).foldl (fun (d : Cluster) i =>
    if evcTimed (ioFld (0x1108 + i) 5 0 d) then evcAdd i (Config.freeNat (s.fresh + i)) d else d) (s.cl n)
  { s.putCl n c with fresh := s.fresh + 8 }

/-- CLEAR: the eight counts become 0 (R495). -/
def evcClear (c : Cluster) : Cluster := (List.range 16).foldl (fun d i => ioPut (0x1110 + i) 0 d) c

/-- At a tick edge with SNAP = 1 the counts are copied and the base frame is recorded (R495). -/
def evcSnap (n : Cl) (s : State) : State :=
  if !ioBit 0x1100 23 (s.cl n) then s
  else
    let t := evcFree n s
    t.modCl n fun c => ioPutPair 0x1101 (BitVec.ofNat 48 (baseFrame s))
      ((List.range 16).foldl (fun d i => ioPut (0x1120 + i) (ioGet (0x1110 + i) d) d) c)

/-- A read of a counter register at IO offset 0x1100 + r: a W0 snapshots its W1 for the reader (R496). -/
def evcRead (n : Cl) (r reader : Nat) (s : State) : Word × State :=
  let off := 0x1100 + r
  if r = 1 ∨ (0x10 ≤ r ∧ r < 0x30 ∧ r % 2 = 0) then
    let t := if 0x10 ≤ r ∧ r < 0x20 then evcFree n s else s
    (ioGet off (t.cl n), snapPut (ioSnapReg n off) reader ((ioGet (off + 1) (t.cl n)).setWidth 48) t)
  else if r = 2 ∨ (0x10 ≤ r ∧ r < 0x30) then ((snapGet (ioSnapReg n (off - 1)) reader s).setWidth 24, s)
  else
    let t := if r = 0 then evcFree n s else s
    (regRead (ioRow off) (ioGet off (t.cl n)), t)

/-- A write of a counter register at IO offset 0x1100 + r (R495): what a counter has counted under its old SEL stays. -/
def evcWrite (n : Cl) (r : Nat) (v : Word) (s : State) : State :=
  (if 8 ≤ r ∧ r < 0x10 then evcFree n s else s).modCl n fun c =>
    let d := ioCodeWrite (0x1100 + r) v c
    if r = 0 ∧ bitOf 22 v then evcClear d else d

/-- The number of a reader of a cluster's counters (R37, R496). -/
def evcReader : EvcReader → Nat
  | .hub m => masterNum m
  | .normalBank => 12
  | .fastBank => 13

/-- SEQ_EVC_CLEAR (R495). -/
def execSeqEvcClear (n : Cl) (s : State) : Out := awake s <| .next (s.modCl n evcClear)

/-- The answer of a read of a counter register. -/
def evcAnswer (n : Cl) (r : Nat) (m : EvcReader) (s : State) : State :=
  let p := evcRead n r (evcReader m) s
  respond [p.1] p.2

/-- SEQ_EVC_W0_READ (R496). -/
def execSeqEvcW0Read (n : Cl) (k : Fin 8) (m : EvcReader) (s : State) : Out := awake s <| .next (evcAnswer n (0x10 + 2 * k.val) m s)

/-- SEQ_EVC_SNAPF_W0_READ (R495). -/
def execSeqEvcSnapfW0Read (n : Cl) (m : EvcReader) (s : State) : Out := awake s <| .next (evcAnswer n 1 m s)

/-! ## Plot registers (R178–R188) -/

/-- A write of a register at IO offset 0x300–0x3FF of VCn (R180–R188): handover writes are checked against who makes
them; any non-zero value clears PLOT_ERR. -/
def plotRegWrite (n : Cl) (off : Nat) (v : Word) (who : Handler) (s : State) : State :=
  if 0x300 ≤ off ∧ off < 0x314 then plotCfgWrite n ⟨(off - 0x300) % 20, Nat.mod_lt _ (by decide)⟩ v who s
  else if off = 0x342 then (if fld 3 0 v ≠ 0 then s.modCl n (plotErr 0) else s)
  else if 0x348 ≤ off ∧ off < 0x368 ∧ off % 4 = 0 then plotHoWrite n ((off - 0x348) / 4) v who s
  else s.modCl n (ioCodeWrite off v)

/-- The plot that a handover write concerns. -/
def plotOfWrite (off : Nat) (v : Word) : Nat := if off < 0x314 then off - 0x300 else fld 20 16 v

/-- The capability with which a holder of several makes a handover write: the first that authorises it. -/
def handCap (cs : List CapV) (n : Cl) (off : Nat) (v : Word) : Cap :=
  match cs.find? (fun c => handoverOk n (plotOfWrite off v) c) with
  | some c => c.bits
  | none => 0

/-! ## Global counters (R498) -/

/-- CLEAR: the sixteen global counts become 0. -/
def gcntClear (s : State) : State :=
  (List.range 16).foldl (fun t g => hubPutPair (0x25001 + 8 * g) 0 t) s

/-- At a base frame tick with SNAP = 1 the global counts are copied, without the events of the tick's cycle (R495). -/
def gcntSnap (s : State) : State :=
  if !hubBit 0x25080 23 s then s
  else (List.range 16).foldl (fun t g => hubPutPair (0x25003 + 8 * g) (gcntBefore g t) t) s

/-- EVF_GCNT_CLEAR (R498). -/
def execEvfGcntClear (s : State) : Out := awake s <| .next (gcntClear s)

/-- EVF_GCNT_W0_READ (R498, R35). -/
def execEvfGcntW0Read (g : Fin 16) (m : Master) (s : State) : Out := awake s <| .next (readPairW0 (0x25001 + 8 * g.val) m s)

/-! ## Reads of hub registers -/

/-- Whether an offset is the W0 of a two-word register whose read snapshots W1 (R35). -/
def isPairW0 (off : Nat) : Bool :=
  decide (off = 0x1018) || decide (off = 0x101A)
    || (decide (0x4000 ≤ off) && decide (off < 0x4400) && decide (off % 0x20 = 0x14))
    || (decide (0x8100 ≤ off) && decide (off < 0x8900) && decide (0x10 ≤ off % 0x80) && decide (off % 0x80 < 0x1A)
        && decide (off % 2 = 0))
    || (decide (0x13000 ≤ off) && decide (off < 0x13006) && decide (off % 2 = 0))
    || (decide (0x30000 ≤ off) && decide (off < 0x30A00) && decide (0x10 ≤ off % 0x40) && decide (off % 0x40 < 0x18)
        && decide (off % 2 = 0))
    || (decide (0x33000 ≤ off) && decide (off < 0x33800) && decide (off % 2 = 0))
    || (decide (0x25000 ≤ off) && decide (off < 0x25080) && (decide (off % 8 = 1) || decide (off % 8 = 3)))
    || (decide (0x300000 ≤ off) && decide (off < 0x301000) && (decide (off % 0x10 = 6) || decide (off % 0x10 = 8)))

/-- The value of a register that its block computes when it is read. -/
def hubComputed (off : Nat) (s : State) : Option Word :=
  let w := hubGet off s
  if off = 0x20000 then some (setBit 23 (forken s) w)
  else if off = 0x10014 then some (setBit 23 (anyGenRuns s) w)
  else if off = 0x60000 then some (setFld 19 16 (pendShown s) w)
  else if 0x21000 ≤ off ∧ off < 0x22000 ∧ off % 4 = 2 then some (chTaskReg ((off - 0x21000) / 4) s)
  else if 0x24000 ≤ off ∧ off < 0x24400 then
    let f := (off - 0x24000) / 0x10
    match off % 0x10 with
    | 6 => some (pqHeadReg f s)
    | 7 => some (pqStatReg f s)
    | 8 => some (pqLevelReg f s)
    | 9 => some (BitVec.ofNat 24 (pqRoom f s))
    | 0xA => some (BitVec.ofNat 24 (pqOpenLen (pqGet f s) s))
    | _ => none
  else if 0x50100 ≤ off ∧ off < 0x50900 ∧ off % 8 = 6 then some (spmGap (clOf ((off - 0x50100) / 8)) s)
  else if 0x200000 ≤ off ∧ off < 0x202000 ∧ off % 0x20 = 2 then
    some (setBit 6 (ucOldBusy (clOf ((off - 0x200000) / 0x20)) s) w)
  else none

/-- A read of a hub register by a master (R7, R8, R35): the word and the state it leaves. -/
def hubRead (m : Master) (off : Nat) (s : State) : Word × State :=
  if off = 0x1000 then asRead (execTbTimeW0Read m s) s
  else if off = 0x1001 then ((snapGet 0x1000 (masterNum m) s).extractLsb' 0 24, s)
  else if off = 0x1002 then ((snapGet 0x1000 (masterNum m) s).extractLsb' 24 24, s)
  else if isPairW0 off then asRead (.next (readPairW0 off m s)) s
  else if 1 ≤ off ∧ isPairW0 (off - 1) then ((snapGet (off - 1) (masterNum m) s).setWidth 24, s)
  else if 0x11000 ≤ off ∧ off < 0x13000 ∧ off % 8 = 3 then
    asRead (execCapW0Read ⟨(off - 0x11000) / 8 % 1024, Nat.mod_lt _ (by decide)⟩ m s) s
  else if 0x11000 ≤ off ∧ off < 0x13000 ∧ off % 8 = 4 then ((snapGet (off - 1) (masterNum m) s).extractLsb' 0 24, s)
  else if 0x11000 ≤ off ∧ off < 0x13000 ∧ off % 8 = 5 then ((snapGet (off - 2) (masterNum m) s).extractLsb' 24 24, s)
  else if 0x10200 ≤ off ∧ off < 0x10240 ∧ off % 2 = 1 then
    asRead (execTmcCntValRead ⟨(off - 0x10200) / 2 % 32, Nat.mod_lt _ (by decide)⟩ m s) s
  else if 0x24000 ≤ off ∧ off < 0x24400 ∧ off % 0x10 = 5 then
    asRead (execPqRd ⟨(off - 0x24000) / 0x10 % 64, Nat.mod_lt _ (by decide)⟩ s) s
  else if off = 0x40001 then asRead (execCxlSyncRead m s) s
  else if 0x400000 ≤ off ∧ off < 0x404000 ∧ off % 0x40 < 0x30 then
    evcRead (clOf ((off - 0x400000) / 0x40)) (off % 0x40) (masterNum m) s
  else if 0x100000 ≤ off ∧ off < 0x110000 then
    (regRead (ioRow (0x300 + off % 0x100)) (ioGet (0x300 + off % 0x100) (s.cl (clOf ((off - 0x100000) / 0x100)))), s)
  else match hubComputed off s with
  | some w => (w, s)
  | none => (regRead (hubRow off) (hubGet off s), s)

/-! ## Writes of hub registers -/

/-- A write of a register of the time base (R46, R47, R68, R69). -/
def tbWrite (off : Nat) (v : Word) (s : State) : State :=
  if off = 0x1008 then
    let t := hubCodeWrite off v s
    if bitOf 0 v then asWrite (execTbStep t) t else t
  else if off = 0x1009 then asWrite (execTbSlewWrite v s) s
  else if off = 0x100C then reselectRef false (hubCodeWrite off v s)
  else if off = 0x100D then syncCfgWrite v s
  else if off = 0x1017 then
    match fld 3 0 v with
    | 0 => s
    | 1 => asWrite (execGridStart s) s
    | 2 => asWrite (execGridStop s) s
    | 4 => asWrite (execGridHold s) s
    | 8 => asWrite (execGridResume s) s
    | _ => tbFlag 8 s
  else if off = 0x1010 ∨ (0x1011 ≤ off ∧ off < 0x1014) ∨ (0x1100 ≤ off ∧ off < 0x1200) then tbGridWrite off v s
  else hubCodeWrite off v s

/-- A write of EVF_CHFLAG: a 1 clears the channel's FLAG, which the word mirrors. -/
def chFlagWrite (w : Nat) (v : Word) (s : State) : State :=
  (List.range 24).foldl (fun t i => if bitOf i v ∧ 24 * w + i < 1024 then setChFlag (24 * w + i) false t else t) s

/-- A write of EVF_GRPg_CTL (R347, R348): in a cycle in which an event switched the group, the event's EN stands. -/
def grpWrite (g : Nat) (v : Word) (s : State) : State :=
  let o := smAt ⟨0, false, false⟩ s.ev.grpOld g
  let en := if o.stamp = s.ticks + 1 then hubBit (0x20100 + g) 23 s else bitOf 23 v
  hubCodeWrite (0x20100 + g) (setBit 23 en v) s

/-- A write of a packet queue's register (R355–R361): FLUSH goes before REWIND. -/
def pqRegWrite (f : Pq) (r : Nat) (v : Word) (s : State) : State :=
  match r with
  | 0 =>
    if bitOf 23 v then asWrite (execPqEnable f v s) s
    else if hubBit (pqReg f.val) 23 s then asWrite (execPqDisable f s) s
    else hubCodeWrite (pqReg f.val) v s
  | 1 =>
    let t := if bitOf 23 v then pqFlushAll f.val s else s
    if bitOf 22 v then pqRewindWith f.val 17 t else t
  | 3 => pqWrite f.val v false s
  | 4 => pqWrite f.val v true s
  | _ => hubCodeWrite (pqReg f.val + r) v s

/-- A write of a register of the event fabric (12). -/
def evfWrite (off : Nat) (v : Word) (s : State) : State :=
  if off = 0x20004 then fire (0xC00 + fld 5 0 v) s
  else if 0x20010 ≤ off ∧ off < 0x2003B then chFlagWrite (off - 0x20010) v s
  else if 0x20100 ≤ off ∧ off < 0x20140 then grpWrite (off - 0x20100) v s
  else if 0x21000 ≤ off ∧ off < 0x22000 then
    let c : Chan := ⟨(off - 0x21000) / 4 % 1024, Nat.mod_lt _ (by decide)⟩
    let t := hubCodeWrite off v s
    match off % 4 with
    | 0 => if bitOf 16 v then asWrite (execChannelSwtrig c t) t else t
    | 3 => if bitOf 23 v then setChFlag c.val false t else t
    | _ => t
  else if 0x22000 ≤ off ∧ off < 0x22800 ∧ off % 4 = 0 then
    cellCtlWrite ((off - 0x22000) / 4) v s
  else if 0x24000 ≤ off ∧ off < 0x24400 then
    pqRegWrite ⟨(off - 0x24000) / 0x10 % 64, Nat.mod_lt _ (by decide)⟩ (off % 0x10) v s
  else if off = 0x25080 then
    let t := hubCodeWrite off v s
    if bitOf 22 v then gcntClear t else t
  else hubCodeWrite off v s

/-- A write of a register of a UCODE block (R290, R292): CANCEL, OPEN, SEAL, SWITCH in that order. -/
def ucodeWrite (off : Nat) (v : Word) (s : State) : State :=
  let n := clOf ((off - 0x200000) / 0x20)
  match off % 0x20 with
  | 1 =>
    let s1 := if bitOf 22 v then asWrite (execUcodeCancel n s) s else s
    let s2 := if bitOf 21 v then ucOpen n s1 else s1
    let s3 := if bitOf 20 v then ucSeal n s2 else s2
    if bitOf 23 v then asWrite (execUcodeSwitch n s3) s3 else s3
  | 0xD => asWrite (execUcodeLdDataW5Write n v s) s
  | _ => hubCodeWrite off v s

/-- A write of a register of a parameter queue (R423). -/
def odPqWrite (off : Nat) (v : Word) (s : State) : State :=
  let n := clOf ((off - 0x300000) / 0x10)
  match off % 0x10 with
  | 4 => if bitOf 23 v then asWrite (execOdPqPush n s) s else s
  | 0xF => asWrite (execOdPqCapW3Write n v s) s
  | _ => hubCodeWrite off v s

/-- A write of a hub register that is authorised (R7, R8); `m` makes it and `cs` are the capabilities it holds, for
handover writes. -/
def hubWrite (m : Master) (cs : List CapV) (off : Nat) (v : Word) (s : State) : State :=
  if off < 0x1000 then s
  else if 0x100000 ≤ off ∧ off < 0x110000 then
    let n := clOf ((off - 0x100000) / 0x100)
    plotRegWrite n (0x300 + off % 0x100) v (.hub m (handCap cs n (0x300 + off % 0x100) v)) s
  else if off < 0x2000 then tbWrite off v s
  else if 0x4000 ≤ off ∧ off < 0x4400 then mvWrite (off - 0x4000) v s
  else if 0x8000 ≤ off ∧ off < 0x8900 then jlWrite off v s
  else if 0x10000 ≤ off ∧ off < 0x20000 then tmcWrite off v s
  else if 0x20000 ≤ off ∧ off < 0x30000 then evfWrite off v s
  else if 0x30000 ≤ off ∧ off < 0x40000 then netWrite (off - 0x30000) v s
  else if 0x40000 ≤ off ∧ off < 0x50000 then
    (if off = 0x41000 then bootMailbox (cxlWrite 0x1000 v s) else cxlWrite (off - 0x40000) v s)
  else if 0x50000 ≤ off ∧ off < 0x60000 then spmWrite (off - 0x50000) v s
  else if 0x60000 ≤ off ∧ off < 0x70000 then pwrWrite (off - 0x60000) v s
  else if 0x200000 ≤ off ∧ off < 0x202000 then ucodeWrite off v s
  else if 0x300000 ≤ off ∧ off < 0x301000 then odPqWrite off v s
  else if 0x400000 ≤ off ∧ off < 0x404000 ∧ off % 0x40 < 0x30 then
    evcWrite (clOf ((off - 0x400000) / 0x40)) (off % 0x40) v s
  else if 0x800000 ≤ off ∧ off < 0x800100 then secWrite (off - 0x800000) v s
  else s

/-! ## Who may write (R20, R376, R387, R446) -/

/-- The hub registers whose writes are reserved to Hardpan (R446): the UCODE blocks, CXL_HCAPp_k and CXL_HDMp. -/
def reservedReg (off : Nat) : Bool :=
  (decide (0x200000 ≤ off) && decide (off < 0x202000))
    || (decide (0x40100 ≤ off) && decide (off < 0x40300) && (decide (off % 0x100 < 0x20) || decide (off % 0x100 = 0x40)
        || decide (off % 0x100 = 0x41)))

/-- The hub registers that no capability of Topsoil, the host or a cluster opens: those, and PWR_CTL, which needs a capability
that Hardpan mints for the block (R472). -/
def hardpanOnly (off : Nat) : Bool := reservedReg off || decide (off = 0x60001)

/-- The key-slot and JOB registers of the CMAC engines, which need KEY (R376, R378). -/
def keyReg (off : Nat) : Bool :=
  decide (0x31000 ≤ off) && decide (off < 0x32000) &&
    (decide (off % 0x400 = 0) || (decide (0x100 ≤ off % 0x400) && decide (off % 0x400 < 0x300) && decide (off % 8 < 6)))

/-- The freshness counters of the CMAC engines, whose writes need KEY (R377). -/
def fvReg (off : Nat) : Bool := decide (0x33000 ≤ off) && decide (off < 0x33800)

/-- The engine's bit for an access without its capability: JOBERR for JOB, CAPERR for a key word (R376, R378). -/
def keyRefuse (off : Nat) (s : State) : State :=
  let q := (off - 0x31000) / 0x400
  hubSetBit (cmReg q + 2) (if off % 0x400 = 0 then 21 else 20) true s

/-- The words that a capability must cover for a write of a hub register: of a key word the whole slot (R376). -/
def regExtent (off : Nat) : Nat × Nat := if keyReg off then (off - off % 8, 6) else (off, 1)

/-- Whether a capability authorises a write of a hub register. -/
def capWrites (c : CapV) (off : Nat) : Bool :=
  let x := regExtent off
  !capHas c.bits permIO && covers c (0x4000000000 + x.1) x.2 && capHas c.bits permWR
    && (!(keyReg off || fvReg off) || capHas c.bits permKEY)

/-- Whether a capability covers the key slot that a JOB word names with KEY and RD (R378). -/
def capJobs (c : CapV) (off : Nat) (v : Word) : Bool :=
  covers c (0x4000000000 + cmReg ((off - 0x31000) / 0x400) + 0x100 + 8 * fld 7 2 v) 6 && capHas c.bits permKEY
    && capHas c.bits permRD

/-- Whether one of a holder's capabilities authorises this write of a hub register. -/
def anyWrites (cs : List CapV) (off : Nat) (v : Word) : Bool :=
  if keyReg off ∧ off % 0x400 = 0 then cs.any (fun c => capJobs c off v) else cs.any (fun c => capWrites c off)

/-- The host entries of a port, or of both ports where they are not bifurcated (R387). -/
def hostCaps (p : Nat) (s : State) : List CapV :=
  (List.range 8).map (fun k => smAt CapV.null (cxlPort p s).caps k)

/-- The cluster and the offset of its plot registers that a hub register shows. -/
def plotView (off : Nat) : Option (Cl × Nat) :=
  if 0x100000 ≤ off ∧ off < 0x110000 then some (clOf ((off - 0x100000) / 0x100), 0x300 + off % 0x100) else none

/-- The cluster, the plot and the register of a handover write through the hub view (R180). -/
def handoverOf (off : Nat) (v : Word) : Option (Cl × Nat) :=
  match plotView off with
  | none => none
  | some (n, r) =>
    if r < 0x314 then some (n, r - 0x300)
    else if 0x348 ≤ r ∧ r < 0x368 ∧ r % 4 = 0 ∧ bitOf 23 v ∧ fld 20 16 v < 20 then some (n, fld 20 16 v)
    else none

/-- Whether a host entry authorises a write of one word (R376, R387, R446). -/
def hostAllows (c : CapV) (a : Nat) (v : Word) : Bool :=
  match regionOf a with
  | .hub off => !hardpanOnly off && anyWrites [c] off v
  | _ => capFault c a 1 permWR == none

/-- The handover that a host's write of a word makes. -/
def hostHandover (a : Nat) (v : Word) : Option (Cl × Nat) :=
  match regionOf a with
  | .hub off => handoverOf off v
  | _ => none

/-- Whether a port's entries authorise a write access (R387): one entry covers all its words with WR, but each of its handover
writes has an entry with HO over the plot (R180). -/
def hostMayWrite (p : Nat) (ws : List (Nat × Word)) (s : State) : Bool :=
  let hand := ws.filter fun w => (hostHandover w.1 w.2).isSome
  let rest := ws.filter fun w => (hostHandover w.1 w.2).isNone
  hand.all (fun w => (hostHandover w.1 w.2).any fun h => (hostCaps p s).any (handoverOk h.1 h.2)) &&
    (rest.isEmpty || (hostCaps p s).any fun c => rest.all fun w => hostAllows c w.1 w.2)

/-- What a refused word of a host's write leaves beside the port's own record: the engine's bit, and PLOT_ERR of a handover
(R180, R376). -/
def hostRefuse (a : Nat) (v : Word) (s : State) : State :=
  match regionOf a with
  | .hub off =>
    if keyReg off then keyRefuse off s
    else match handoverOf off v with
    | some h => s.modCl h.1 (plotErr 1)
    | none => s
  | _ => s

/-- The capability slots of a cluster's sequencer. -/
def slotCaps (n : Cl) (s : State) : List CapV := (List.range 16).map fun k => smAt CapV.null (s.cl n).cregs k

/-- FO_NOW is Hardpan's alone: another writer's bit is ignored (R446). -/
def maskReserved (off : Nat) (v : Word) : Word := if off = 0x40000 then setBit 21 false v else v

/-- A host access that no entry authorises, or that is refused on its way (R387). -/
def hostDenied (p : Nat) (s : State) : State := odCount 0xC091 0 (cxlErr p 3 s)

/-- A write of a hub register by a host port: without a covering entry it is dropped with DENY (R387). -/
def hostWrite (p off : Nat) (v : Word) (s : State) : State :=
  let a := 0x4000000000 + off
  if hostMayWrite p [(a, v)] s then
    hubWrite (if p = 0 then .hostA else .hostB) (hostCaps p s) off (maskReserved off v) s
  else hostRefuse a v (hostDenied p s)

/-- The capability over VCn's slot that Hardpan and Topsoil hold (R446). -/
def slotRoot (n : Cl) (s : State) : CapV :=
  ⟨mintCap s (lsAddr n 0) (2 ^ 22) (permRD + permWR + permHO + permGLB), true⟩

/-- The roots that a write of a plot register of VCn through the hub view is made with. -/
def plotRoots (off : Nat) (s : State) : List CapV :=
  if 0x100000 ≤ off ∧ off < 0x110000 then [slotRoot (clOf ((off - 0x100000) / 0x100)) s] else []

/-- What Hardpan does not write (R452): an HDM range that reaches the sealed area, a host entry with WR over it. A range past
the deep store's end is refused by its register (R389). -/
def sealedWrite (off : Nat) (v : Word) (s : State) : Bool :=
  let r := off % 0x100
  let part (o : Nat) : Nat := if r = o then fld 8 0 v else hubFld (off - r + o) 8 0 s
  decide (0x40100 ≤ off) && decide (off < 0x40300) &&
    (if r = 0x40 ∨ r = 0x41 then decide (372 < part 0x40 + part 0x41) && decide (part 0x40 + part 0x41 ≤ 384)
     else decide (r < 0x20) && decide (r % 4 = 3) &&
       coversSealed (capOfWords (hubGet (off - 3) s) (hubGet (off - 2) s) (hubGet (off - 1) s) v))

/-- A write of a hub register by a master under the authority it holds. The security core holds all; Topsoil the capabilities
that Hardpan gave it at its start (R446, R454); a cluster what its slots hold; the network block's DMA writes no register; the
monitor writes only in SERVICE, with capabilities over all of the hub registers but the security core's (R491). -/
def masterWrite (m : Master) (off : Nat) (v : Word) (s : State) : State :=
  match m with
  | .security => if sealedWrite off v s then s else hubWrite m (plotRoots off s) off v s
  | .svc0 | .svc1 | .svc2 | .svc3 =>
    if hardpanOnly off then s
    else if anyWrites s.sec.svcCaps off v then hubWrite m s.sec.svcCaps off (maskReserved off v) s
    else if keyReg off then keyRefuse off s
    else s
  | .hostA => hostWrite 0 off v s
  | .hostB => hostWrite 1 off v s
  | .cluster n =>
    if hardpanOnly off then s
    else if anyWrites (slotCaps n s) off v then hubWrite m (slotCaps n s) off (maskReserved off v) s
    else if keyReg off then keyRefuse off s
    else s
  | .monitor =>
    if mode s = 0xB ∧ !reservedReg off ∧ !secBlock off then hubWrite m (plotRoots off s) off (maskReserved off v) s else s
  | .moverLo | .moverHi | .netDma => s

/-! ## Words through the hub matrix -/

/-- Write a hub register as a master under one capability: a write that it does not authorise is dropped. -/
def capHubWrite (m : Master) (cap : CapV) (off : Nat) (v : Word) (s : State) : State :=
  if hardpanOnly off then s
  else if anyWrites [cap] off v then hubWrite m [cap] off (maskReserved off v) s
  else if keyReg off then keyRefuse off s
  else s

/-- Write host memory. -/
def hostStore (w : Nat) (v : Word) (s : State) : Acc × State :=
  match hostAccess w (some v) s with
  | (some _, t) => (.ok 0, t)
  | (none, t) => (.error, t)

/-- Read one global word as an agent, whose reads of hub registers are those of master `m` (R21, R27, R391). -/
def wordRead (m : Master) (g : Agent) (a : Nat) (s : State) : Acc × State :=
  if lockedFor m a s then (.held, s)
  else match regionOf a with
  | .hub off =>
    let p := hubRead m off s
    (.ok p.1, p.2)
  | .host w =>
    match hostAccess w none s with
    | (some v, t) => (.ok v, t)
    | (none, t) => (.error, t)
  | _ => memRead m g a s

/-- The queue of a WR or WR_LAST register, and whether it is the last word's (R356). -/
def pqPort (off : Nat) : Option (Nat × Bool) :=
  if 0x24000 ≤ off ∧ off < 0x24400 ∧ (off % 0x10 = 3 ∨ off % 0x10 = 4) then
    some ((off - 0x24000) / 0x10, decide (off % 0x10 = 4))
  else none

/-- A write of a hub register by a master that waits for its handshake (R21): only a full packet queue withholds it
(R358). -/
def regWordWrite (m : Master) (cap : CapV) (off : Nat) (v : Word) (s : State) : Acc × State :=
  match pqPort off with
  | some (f, last) =>
    if anyWrites [cap] off v then
      let r := pqMasterWrite m f v last s
      (if r.1 then .ok 0 else .held, r.2)
    else (.ok 0, s)
  | none => (.ok 0, capHubWrite m cap off v s)

/-- Write one global word as an agent, whose writes of hub registers are made under a capability. -/
def wordWrite (m : Master) (g : Agent) (cap : CapV) (a : Nat) (v : Word) (s : State) : Acc × State :=
  if lockedFor m a s then (.held, s)
  else match regionOf a with
  | .hub off => regWordWrite m cap off v s
  | .host w => hostStore w v s
  | _ => memWrite m g a v s

/-- REGISTER_WRITE (R6–R8): a master writes a register at a global word address; it waits while another master holds a lock
on the target (R24). -/
def execRegisterWrite (m : Master) (a : BitVec 40) (v : Word) (s : State) : Out := awake s <|
  match regionOf a.toNat with
  | .hub off => .next (if lockedFor m a.toNat s then s else masterWrite m off v s)
  | _ => .next s

/-! ## Task selectors (R349, R350) -/

/-- A write of EVF_IRQB_k binds the interrupt input (R349). -/
def irqbWrite (n : Cl) (k : Nat) (v : Word) (s : State) : State :=
  rebind (taskIrq n k) (if bitOf 23 v then some (fld 9 0 v) else none) (s.modCl n (ioCodeWrite (0x1000 + k) v))

/-- A write of VU_SETn_EVT (R101, R349). -/
def setEvtWrite (n : Cl) (k : Set8) (v : Word) (s : State) : State :=
  setBind n k (s.modCl n (ioCodeWrite (0x198 + k.val) v))

/-- TASK_BINDING_WRITE (R349, R350): a write of a task input's selector register. -/
def execTaskBindingWrite (t : TaskSel) (v : Word) (s : State) : Out := awake s <|
  match t with
  | .irq n k => .next (if 8 ≤ k.val then irqbWrite n k.val v s else s)
  | .set n k => .next (setEvtWrite n k v s)
  | .mover c => .next (mvCtlWrite c v s)
  | .port p => .next (netTrigWrite p v s)

end Sys2Proof.Machine
end

