-- ==== Sys2Proof/Machine/Bars.lean ====
section
/-!
DEFINITION. Machine/Bars.lean: a host's accesses through BAR0 and BAR2 (spec/14_host_cxl.md R384–R388). A read answers
its bytes, one a word.
The model's own choices and readings (DEDUCED, DESIGN CHOICE, PRESUMED) are log entries 41 and 53.
-/
namespace Sys2Proof.Machine

/-- The hub-matrix master of a port (R383). -/
def portMaster (p : Nat) : Master := if p = 0 then .hostA else .hostB

/-- Whether a port takes host accesses. -/
def portTakes (p : Nat) (s : State) : Bool := cxlUp p s && !cxlFenced s

/-! ## Bytes and 32-bit units (R384) -/

/-- The 32-bit unit that `n` bytes at `byte` lie in, with the values given for its bytes. -/
def unitBytes (byte : Nat) (data : List HByte) (k : Nat) : List (Option HByte) :=
  (List.range 4).map fun i => if byte ≤ 4 * k + i then data[4 * k + i - byte]? else none

/-- The word of a unit in the spread view, where bytes 4w to 4w + 2 are all given (R386). -/
def unitWord (bs : List (Option HByte)) : Option Word :=
  match bs with
  | some a :: some b :: some c :: _ => some (c ++ b ++ a)
  | _ => none

/-- The bytes of an access out of the 32-bit units it touches, from unit `k` on. -/
def bytesOf (byte size k : Nat) (units : List (BitVec 32)) : List Word :=
  (List.range size).map fun i =>
    (((units.getD ((byte + i) / 4 - k) 0).extractLsb' (8 * ((byte + i) % 4)) 8)).setWidth 24

/-! ## BAR0 (R385–R387) -/

/-- The hub offset of a 32-bit unit of BAR0. -/
def bar0Hub (k : Nat) : Option Nat := if 4 * k < 0x3F00000 then some k else none

/-- Whether another master's lock holds the hub registers among these units (R24). -/
def bar0Held (p : Nat) (ks : List Nat) (s : State) : Bool :=
  ks.any fun k => match bar0Hub k with
    | some off => lockedFor (portMaster p) (0x4000000000 + off) s
    | none => false

/-- A unit of BAR0 that is no hub register: the MSI-X table, the pending-bit array, or 0 (R385). -/
def bar0Other (p k : Nat) (s : State) : BitVec 32 :=
  if 0x3F00000 ≤ 4 * k ∧ 4 * k < 0x3F08000 then msixGet p (k - 0xFC0000) s
  else if 0x3F80000 ≤ 4 * k ∧ 4 * k < 0x3F80100 then
    (List.range 32).foldl (fun w i =>
      setBit i (smAt false (cxlPort p s).pba (32 * (k - 0xFE0000) + i)) w) 0
  else 0

/-- Whether the lowest-numbered entry that covers every hub word of a read exists with RD (R387). -/
def hostReads (p : Nat) (words : List Nat) (s : State) : Bool :=
  words.isEmpty || (hostCaps p s).any fun c => words.all fun a => capFault c a 1 permRD == none

/-- Read units of BAR0 in ascending order. -/
def bar0Units (p : Nat) (s : State) : List Nat → List (BitVec 32) × State
  | [] => ([], s)
  | k :: r =>
    match bar0Hub k with
    | some off =>
      let v := hubRead (portMaster p) off s
      let q := bar0Units p v.2 r
      (v.1.setWidth 32 :: q.1, q.2)
    | none =>
      let q := bar0Units p s r
      (bar0Other p k s :: q.1, q.2)

/-- A read through BAR0 (R386, R387). -/
def bar0Read (p byte size : Nat) (s : State) : State :=
  let ks := touched 4 byte size
  if !portTakes p s ∨ bar0Held p ks s then s
  else if hostReads p ((ks.filterMap bar0Hub).map (0x4000000000 + ·)) s then
    let q := bar0Units p s ks
    respond (bytesOf byte size (byte / 4) q.1) q.2
  else respond ((List.range size).map fun _ => 0) (hostDenied p s)

/-- BAR0_READ (R386). -/
def execBar0Read (p : CxlPort) (byte : BitVec 26) (size : Nat) (s : State) : Out := awake s <| .next (bar0Read p.val byte.toNat size s)

/-- Whether a port's entries authorise a write of hub registers (R387). -/
def hostWritesOk (p : Nat) (ws : List (Nat × Word)) (s : State) : Bool :=
  hostMayWrite p (ws.map fun w => (0x4000000000 + w.1, w.2)) s

/-- A host's write of hub registers in ascending order (R386, R387). -/
def hostWrites (p : Nat) (ws : List (Nat × Word)) (s : State) : State :=
  if hostWritesOk p ws s then
    ws.foldl (fun t w => hubWrite (portMaster p) (hostCaps p t) w.1 (maskReserved w.1 w.2) t) s
  else ws.foldl (fun t w => hostRefuse (0x4000000000 + w.1) w.2 t) (hostDenied p s)

/-- A write of a 32-bit word of the MSI-X table; an entry that it unmasks sends its pending message (R396). -/
def msixWrite (p k : Nat) (bs : List (Option HByte)) (s : State) : State :=
  let old := msixGet p k s
  let v := bs.zipIdx.foldl (fun w b => match b.1 with
    | some x => setFld (8 * b.2 + 7) (8 * b.2) x.toNat w
    | none => w) old
  let t := msixPut p k v s
  if k % 4 = 3 ∧ bitOf 0 old ∧ !bitOf 0 v then msixUnmask p (k / 4) t else t

/-- A write through BAR0 (R385–R387). -/
def bar0Write (p byte : Nat) (data : List HByte) (s : State) : State :=
  let ks := touched 4 byte data.length
  let hub := ks.filterMap fun k => (bar0Hub k).map fun off => (off, unitWord (unitBytes byte data k))
  if !portTakes p s ∨ bar0Held p ks s then s
  else if hub.any (fun w => w.2.isNone) then cxlErr p 4 s
  else
    let ws := hub.filterMap fun w => w.2.map fun v => (w.1, v)
    let t := if ws = [] then s else hostWrites p ws s
    ks.foldl (fun u k =>
      if 0x3F00000 ≤ 4 * k ∧ 4 * k < 0x3F08000 then msixWrite p (k - 0xFC0000) (unitBytes byte data k) u else u) t

/-- BAR0_WRITE (R386). -/
def execBar0Write (p : CxlPort) (byte : BitVec 26) (data : List HByte) (s : State) : Out := awake s <|
  .next (bar0Write p.val byte.toNat data s)

/-! ## BAR2 (R388) -/

/-- The global address that a 32-bit unit of BAR2 reaches through its window; none where the window is disabled. -/
def bar2Addr (p k : Nat) (s : State) : Option Nat :=
  let r := cxlBlk p + 0x20 + 2 * (k / 2 ^ 22)
  if hubBit (r + 1) 23 s then some ((hubGet r s).toNat + hubFld (r + 1) 15 0 s * 2 ^ 24 + k % 2 ^ 22) else none

/-- Write one global word that the entries authorise as a host port. -/
def hostWrite1 (p a : Nat) (v : Word) (s : State) : Acc × State :=
  if lockedFor (portMaster p) a s then (.held, s)
  else match regionOf a with
  | .hub off => (.ok 0, hubWrite (portMaster p) (hostCaps p s) off (maskReserved off v) s)
  | .host w => hostStore w v s
  | _ => memWrite (portMaster p) .hubM a v s

/-- Read units of BAR2 in ascending order: none while a word waits for its owner; whether every word was
delivered. -/
def bar2Reads (p : Nat) (s : State) : List Nat → Option (List (BitVec 32) × Bool × State)
  | [] => some ([], true, s)
  | k :: r =>
    match bar2Addr p k s with
    | none => (bar2Reads p s r).map fun q => (0 :: q.1, q.2)
    | some a =>
      match wordRead (portMaster p) .hubM a s with
      | (.ok v, t) => (bar2Reads p t r).map fun q => (v.setWidth 32 :: q.1, q.2)
      | (.held, _) => none
      | (_, t) => (bar2Reads p t r).map fun q => (0 :: q.1, false, q.2.2)

/-- Whether a word of a host's write is refused on its way (R28, R187). -/
def hostRefused (p : Nat) (s : State) (w : Nat × Word) : Bool :=
  match (hostWrite1 p w.1 w.2 s).1 with
  | .ok _ => false
  | .held => false
  | _ => true

/-- Write words in ascending order: none while one waits. -/
def bar2Writes (p : Nat) (s : State) : List (Nat × Word) → Option State
  | [] => some s
  | (a, v) :: r =>
    match hostWrite1 p a v s with
    | (.held, _) => none
    | (_, t) => bar2Writes p t r

/-- Whether one entry covers every word of an access with a permission (R387). -/
def hostCovers (p perm : Nat) (words : List Nat) (s : State) : Bool :=
  words.isEmpty || (hostCaps p s).any fun c => words.all fun a => capFault c a 1 perm == none

/-- A read through BAR2 (R387, R388). -/
def bar2Read (p byte size : Nat) (s : State) : State :=
  let ks := touched 4 byte size
  let zero (t : State) : State := respond ((List.range size).map fun _ => 0) t
  if hostCovers p permRD (ks.filterMap fun k => bar2Addr p k s) s then
    match bar2Reads p s ks with
    | none => s
    | some (_, false, t) => zero (hostDenied p t)
    | some (us, true, t) => respond (bytesOf byte size (byte / 4) us) t
  else zero (hostDenied p s)

/-- A write through BAR2 (R387, R388); a partial word is handled as in R386. An access of which a word is refused changes
nothing. -/
def bar2Write (p byte : Nat) (data : List HByte) (s : State) : State :=
  let ks := touched 4 byte data.length
  let ws := ks.filterMap fun k => (bar2Addr p k s).map fun a => (a, unitWord (unitBytes byte data k))
  if ws.any (fun w => w.2.isNone) then cxlErr p 4 s
  else
    let full := ws.filterMap fun w => w.2.map fun v => (w.1, v)
    if !hostMayWrite p full s then full.foldl (fun t w => hostRefuse w.1 w.2 t) (hostDenied p s)
    else match full.find? (hostRefused p s) with
    | some w => hostDenied p (hostWrite1 p w.1 w.2 s).2
    | none => ((bar2Writes p s full).map (wrote (full.map (·.1)))).getD s

/-- BAR2_ACCESS (R388). -/
def execBar2Access (p : CxlPort) (byte : BitVec 28) (acc : HostAcc) (s : State) : Out := awake s <|
  .next (if !portTakes p.val s || servicePause s then s
    else match acc with
    | .read size => bar2Read p.val byte.toNat size s
    | .write data => bar2Write p.val byte.toNat data s)

end Sys2Proof.Machine
end

