-- ==== Sys2Proof/Machine/Operands.lean ====
section
/-!
DEFINITION. Machine/Operands.lean: the operands of a sequencer's words: its registers and when a result becomes
visible (spec/07_sequencer_isa.md R210–R212, R225–R227), D-space and the store buffer (R175–R177, R220, R221,
R228, R229).
The model's own choices and readings (DEDUCED, DESIGN CHOICE, PRESUMED) are log entries 6, 33 and 36.
-/
namespace Sys2Proof.Machine

/-! ## Registers -/

/-- Whether the fast level is active, SEQ_STATUS.FAST (R265). -/
def fastLevel (c : Cluster) : Bool := ioBit 0x10 22 c

/-- The current window, SEQ_STATUS.CWP (R211). -/
def cwp (c : Cluster) : Nat := ioFld 0x10 18 16 c

/-- The resident windows, SEQ_STATUS.WRES (R268). -/
def wres (c : Cluster) : Nat := ioFld 0x10 15 12 c

/-- The register that x-number `r` names now (R211). -/
def xName (c : Cluster) (r : Nat) : RegName :=
  if fastLevel c then .fast r else if r < 8 then .win (cwp c) r else .com r

/-- The value that a register of an x bank holds. -/
def xBank (c : Cluster) : RegName → Word
  | .win w r => smAt 0 c.win (8 * w + r)
  | .com r => smAt 0 c.com r
  | .fast r => smAt 0 c.fastBank r
  | _ => 0

/-- x register `r` as a word reads it in RR. -/
def xGet (c : Cluster) (r : Nat) : Word := xBank c (xName c r)

/-- f register `r`. -/
def fGet (c : Cluster) (r : Nat) : DWord := smAt 0 c.fregs r

/-- Lane `i` of short vector `k` (R212). -/
def vLane (c : Cluster) (k i : Nat) : Word := (fGet c (2 * k + i / 2)).extractLsb' (24 * (i % 2)) 24

/-- Descriptor register `r`. -/
def dGet (c : Cluster) (r : Nat) : Desc := smAt Desc.zero c.dregs r

/-- Capability slot `r`. -/
def cGet (c : Cluster) (r : Nat) : CapV := smAt CapV.null c.cregs r

/-- CC: U, C, V, N, Z in bits 4 to 0 (R217). -/
def ccGet (c : Cluster) : BitVec 5 := (ioGet 0x2 c).setWidth 5

/-- A result reaches its register. -/
def landReg (c : Cluster) (w : RegWrite) : Cluster :=
  match w.reg, w.val with
  | .win k r, .w v => { c with win := smPut 0 c.win (8 * k + r) v }
  | .com r, .w v => { c with com := smPut 0 c.com r v }
  | .fast r, .w v => { c with fastBank := smPut 0 c.fastBank r v }
  | .f r, .f v => { c with fregs := smPut 0 c.fregs r v }
  | .fLow r, .w v => { c with fregs := smPut 0 c.fregs r (setFld 23 0 v.toNat (fGet c r)) }
  | .fHigh r, .w v => { c with fregs := smPut 0 c.fregs r (setFld 47 24 v.toNat (fGet c r)) }
  | .dWord r k, .w v => { c with dregs := smPut Desc.zero c.dregs r (descPut (dGet c r) k v) }
  | .c r, .c v => { c with cregs := smPut CapV.null c.cregs r v }
  | .special k, .c v => { c with special := smPut CapV.null c.special k v }
  | .cc, .cc v => ioPut 0x2 (v.setWidth 24) c
  | .carry, .cc v => ioSetBit 0x2 3 (bitOf 3 v) c
  | .flags, .cc v => ioPut 0x1 (ioGet 0x1 c ||| v.setWidth 24) c
  | _, _ => c

/-- A result takes its place behind those that become visible no later (R226). -/
def dueInsert (w : RegWrite) : List RegWrite → List RegWrite
  | [] => [w]
  | a :: t => if w.due < a.due then w :: a :: t else a :: dueInsert w t

/-- A word's results, visible `k` advancing cycles after it (R225). -/
def dueAdd (k : Nat) (ws : List (RegName × RegVal)) (c : Cluster) : Cluster :=
  { c with due := ws.foldl (fun q w => dueInsert ⟨w.1, w.2, c.cyc + k⟩ q) c.due }

/-- The results whose visibility instant has come reach their registers, in the order of those instants (R225,
R226). -/
def landDue (c : Cluster) : Cluster :=
  (c.due.takeWhile (fun w => decide (w.due ≤ c.cyc))).foldl landReg
    { c with due := c.due.dropWhile (fun w => decide (w.due ≤ c.cyc)) }

/-- Every result reaches its register: what the first word of a handler finds (R225). -/
def landAll (c : Cluster) : Cluster := c.due.foldl landReg { c with due := [] }

/-! ## D-space (R175, R176, R221) -/

/-- The region of R175 that a D-space address lies in. -/
def dRegion (d : Nat) : Option Nat :=
  if d < 0x40000 then some 0
  else if d < 0x44000 then some 1
  else if d < 0x800000 then none
  else some (2 + (d - 0x800000) / 0x100000)

/-- The global address of a D-space address (R175, R176). -/
def dGlobal (n : Cl) (c : Cluster) (d : Nat) : Option Nat :=
  if d < 0x44000 then some (lsAddr n d)
  else if d < 0x800000 then none
  else
    let w := (d - 0x800000) / 0x100000
    let hi := ioGet (0x41 + 2 * w) c
    let a := (ioGet (0x40 + 2 * w) c).toNat + fld 15 0 hi * 2 ^ 24 + (d - 0x800000) % 0x100000
    if bitOf 23 hi ∧ a < 2 ^ 40 then some a else none

/-- Whether a D-space address lies in the windows (R176). -/
def dWindow (a : Word) : Bool := decide (0x800000 ≤ a.toNat)

/-- The D-space addresses of `k` words from `a` on. -/
def dWords (a : Word) (k : Nat) : List Nat := (List.range k).map fun i => (a.toNat + i) % 2 ^ 24

/-- The global addresses of an access, or the DETAIL of its data-access fault: an unmapped address, or words in
more than one region (R221, R261). -/
def dTranslate (n : Cl) (c : Cluster) (a : Word) (k : Nat) : Except Nat (List Nat) :=
  let ds := dWords a k
  if ds.any (fun d => (dRegion d).isNone) then .error 0x04
  else if ds.any (fun d => dRegion d != dRegion a.toNat) then .error 0x05
  else match ds.mapM (dGlobal n c) with
  | none => .error 0x04
  | some gs => .ok gs

/-- An access checked against a capability (R221, R244): its global addresses, or the DETAIL. -/
def dCheck (n : Cl) (c : Cluster) (cap : CapV) (a : Word) (k perm : Nat) : Except Nat (List Nat) :=
  match dTranslate n c a k with
  | .error e => .error e
  | .ok gs =>
    match capFault cap (gs.headD 0) k perm with
    | some e => .error e
    | none => .ok gs

/-- How a read of words ends: with the words, held until a port has its owner, at a fault with its DETAIL, or at an
uncorrectable word. -/
inductive ReadRes where
  | ok (ws : List Word) (s : State)
  | held
  | fault (detail : Nat) (s : State)
  | ue (s : State)

/-- The agent that a sequencer's access is (R177): through a window, or through its own paths. -/
def seqAgent (n : Cl) (win : Bool) : Agent := if win then .window n else .seq n

/-- Read words at global addresses in order, through a window or not. -/
def seqReads (n : Cl) (win : Bool) : List Nat → State → ReadRes
  | [], s => .ok [] s
  | a :: r, s =>
    match wordRead (.cluster n) (seqAgent n win) a s with
    | (.ok v, t) =>
      (match seqReads n win r t with
       | .ok ws u => .ok (v :: ws) u
       | x => x)
    | (.held, _) => .held
    | (.refused, t) => .fault 0x06 t
    | (.unmapped, t) => .fault 0x04 t
    | (.error, t) => .fault 0x0C t
    | (.ue, t) => .ue t

/-- What the store buffer has for a load (R228): the youngest store of the same words, a reason to wait, or
nothing. -/
inductive Forward where
  | words (ws : List Word)
  | wait
  | memory

/-- How a load's words meet the store buffer (R228). -/
def forward (gs : List Nat) (sbuf : List SEntry) : Forward :=
  let touches := sbuf.filter fun e => e.words.any (fun w => gs.contains w.1)
  match touches.getLast? with
  | none => .memory
  | some e => if touches.all (fun x => x.words.map (·.1) == gs) then .words (e.words.map (·.2)) else .wait

/-- Load `k` words at D-space address `a` under a capability (R221, R228). -/
def dLoad (n : Cl) (cap : CapV) (a : Word) (k : Nat) (s : State) : ReadRes :=
  match dCheck n (s.cl n) cap a k permRD with
  | .error e => .fault e s
  | .ok gs =>
    match forward gs (s.cl n).sbuf with
    | .words ws => .ok ws s
    | .wait => .held
    | .memory => if dWindow a && servicePause s then .held else seqReads n (dWindow a) gs s

/-- How a store enters the store buffer: with the entry in place, held, or at a fault with its DETAIL. -/
inductive StoreRes where
  | ok (s : State)
  | held
  | fault (detail : Nat) (s : State)

/-- The fault of a store to a global address, found when it issues (R187, R28, R393), with the refusal recorded. -/
def storeFault (n : Cl) (win : Bool) (a : Nat) (s : State) : Option (Nat × State) :=
  let own (m : Cl) (o : Nat) : Option (Nat × State) :=
    match ownCheck m o (seqAgent n win) s with
    | some .refused => some (0x06, refuse m (plotOf o).1 (plotOf o).2 (seqAgent n win) true s)
    | _ => none
  match regionOf a with
  | .ls m o => own m o
  | .xchg m o => own m (0x40000 + o)
  | .istore m _ => if isolated m s && m != n then some (0x06, s) else none
  | .host w =>
    (match hostPort s with
     | none => some (0x0C, s)
     | some p => if (hubPair (cxlBlk p + 0x4B) s).toNat ≤ 4 * w then some (0x0C, s) else none)
  | .unmapped => some (0x04, s)
  | _ => none

/-- Store words at D-space address `a` under the capability in a slot (R221, R228): checked as it issues, then one entry of the
store buffer, which holds four. -/
def dStore (n : Cl) (slot : Nat) (a : Word) (ws : List Word) (s : State) : StoreRes :=
  let cap := cGet (s.cl n) slot
  match dCheck n (s.cl n) cap a ws.length permWR with
  | .error e => .fault e s
  | .ok gs =>
    match gs.findSome? (fun g => storeFault n (dWindow a) g s) with
    | some f => .fault f.1 f.2
    | none =>
      if 4 ≤ (s.cl n).sbuf.length then .held
      else .ok (s.modCl n fun c => { c with sbuf := c.sbuf ++ [⟨gs.zip ws, slot, cap, dWindow a, a, 0⟩] })

/-- How the words of a buffered store drained: how many, the first fault among them with its DETAIL and its place in the
store, and the state. -/
structure DrainRes where
  done  : Nat
  fault : Option (Nat × Nat)
  s     : State

/-- The DETAIL of an access that ends without its word (R28, R187, R261, R393). -/
def accDetail : Acc → Nat
  | .refused => 0x06
  | .unmapped => 0x04
  | _ => 0x0C

/-- Write the words of a store in order, from its word `k` on, up to one that is held. A word that its store refuses now is
discarded, and so is a register write that the capability does not authorise. -/
def seqWrites (n : Cl) (cap : CapV) (win : Bool) : List (Nat × Word) → Nat → Option (Nat × Nat) → State → DrainRes
  | [], k, f, s => ⟨k, f, s⟩
  | (a, v) :: r, k, f, s =>
    match wordWrite (.cluster n) (seqAgent n win) cap a v s with
    | (.held, t) => ⟨k, f, t⟩
    | (.ok _, t) => seqWrites n cap win r (k + 1) f t
    | (x, t) => seqWrites n cap win r (k + 1) (f.or (some (accDetail x, k))) t

/-- The words of a buffered store that reach their stores now. -/
def landing (n : Cl) (e : SEntry) (s : State) : List Nat :=
  (e.words.filter fun w => (storeFault n e.win w.1 s).isNone).map (·.1)

/-- The oldest buffered store drains to memory (R228, R229); a word refused as it drains raises a data-access fault then
(R187, log entry 36). A window access is held while the service-path pause holds (R481). -/
def sbufDrain (n : Cl) (s : State) : State :=
  match (s.cl n).sbuf with
  | [] => s
  | e :: r =>
    if e.win && servicePause s then s
    else
      let d := seqWrites n e.cap e.win (e.words.drop e.done) e.done none s
      let u := d.s.modCl n fun c => { c with
        lateFault := c.lateFault.or (d.fault.map fun f => (e.slot, f.1, e.dAddr + BitVec.ofNat 24 f.2)) }
      if d.done < e.words.length then u.modCl n fun c => { c with sbuf := { e with done := d.done } :: r }
      else (wrote (landing n e s) u).modCl n fun c => { c with
        sbuf := r, groups := c.groups.map fun (g : Group) => { g with stores := g.stores - 1 } }

/-- STORE_BUFFER_DRAIN (R228). -/
def execStoreBufferDrain (n : Cl) (s : State) : Out := onIsland n s <| .next (sbufDrain n s)

end Sys2Proof.Machine
end

