-- ==== Sys2Proof/Machine/Flags.lean ====
section
/-!
DEFINITION. Machine/Flags.lean: the condition flags and the floating-point flags of the sequencer
(spec/07_sequencer_isa.md R217, R219, R240).
-/
namespace Sys2Proof.Machine

/-- CC from its five flags: U, C, V, N, Z in bits 4 to 0 (R217). -/
def ccBits (u c v n z : Bool) : BitVec 5 :=
  BitVec.ofNat 5 (u.toNat * 16 + c.toNat * 8 + v.toNat * 4 + n.toNat * 2 + z.toNat)

/-- CC of a comparison of two integers (R217). -/
def ccCmp (a b : Word) : BitVec 5 :=
  let d := a.toInt - b.toInt
  ccBits false (decide (b.toNat ≤ a.toNat)) (decide (d < -2 ^ 23 ∨ 2 ^ 23 ≤ d)) (a - b).msb (decide (a = b))

/-- CC of a floating-point comparison, with its flags: `sig` raises NV on any NaN (R217, R218). -/
def ccFcmp (f : Fmt) (sig : Bool) (a b : DWord) : BitVec 5 × Fl :=
  let un := isNan f a || isNan f b
  let lt := !un && fLt f false a b
  let gt := !un && fLt f false b a
  (ccBits un gt false lt (!un && !lt && !gt), (fRel f (if sig then 2 else 0) a b).2)

/-- Whether a condition holds (R217). -/
def condHolds (cond : Cond) (cc : BitVec 5) : Bool :=
  let z := bitOf 0 cc
  let n := bitOf 1 cc
  let v := bitOf 2 cc
  let c := bitOf 3 cc
  let u := bitOf 4 cc
  match cond.toNat with
  | 0x0 => z
  | 0x1 => !z
  | 0x2 => n != v
  | 0x3 => n == v
  | 0x4 => z || n != v
  | 0x5 => !z && n == v
  | 0x6 => !c
  | 0x7 => c
  | 0x8 => !c || z
  | 0x9 => c && !z
  | 0xA => u
  | 0xB => !u
  | 0xC => c
  | 0xD => c || z
  | 0xE => !u && !z
  | _ => true

/-- A sum with carry in, and its carry out (R219, ADDS and ADDX). -/
def addCarry (a b : Word) (cin : Bool) : Word × Bool :=
  (BitVec.ofNat 24 (a.toNat + b.toNat + cin.toNat), decide (2 ^ 24 ≤ a.toNat + b.toNat + cin.toNat))

/-- A difference with carry in, and whether there was no borrow (R219, SUBS and SUBX). -/
def subCarry (a b : Word) (cin : Bool) : Word × Bool :=
  (a - b - BitVec.ofNat 24 (1 - cin.toNat), decide (b.toNat + (1 - cin.toNat) ≤ a.toNat))

/-- The rounding mode SEQ_FCSR.RND (R240). -/
def fcsrRnd (c : Cluster) : Nat := ioFld 0x1 17 16 c

/-- The flags of a floating-point instruction, which accrue into SEQ_FCSR.FLAGS when it completes (R240). -/
def fpAccrue (fl : Fl) : List (RegName × RegVal) := if fl.setWidth 5 = 0 then [] else [(.flags, .cc (fl.setWidth 5))]

/-- Flags under way whose instructions have completed by advancing cycle `t` accrue: those that an OUT of SEQ_FCSR comes
after, and all that an IN waits for (R240). -/
def flagsBy (t : Option Nat) (c : Cluster) : Cluster :=
  let mine (w : RegWrite) : Bool := w.reg == .flags && t.all (fun k => decide (w.due ≤ k))
  (c.due.filter mine).foldl landReg { c with due := c.due.filter fun w => !mine w }

/-- The DETAIL of the floating-point trap that a result takes, or none (R240, R261): a flag enabled in TE, or a tiny
result while TE.UF is 1. -/
def fpTrap (fl : Fl) (c : Cluster) : Option Nat :=
  let te := ioFld 0x1 12 8 c
  let hit := (List.range 5).any fun i => bitOf i fl && decide (te / 2 ^ i % 2 = 1)
  if hit || ((bitOf 1 fl || bitOf 5 fl) && decide (te / 2 % 2 = 1)) then some (fl.toNat % 32) else none

end Sys2Proof.Machine
end

