-- ==== Sys2Proof/Machine/Issue.lean ====
section
/-!
DEFINITION. Machine/Issue.lean: how a sequencer issues a word: trap entry (spec/08_sequencer_traps_capabilities.md
R254–R266), fault-stop, loop-back and transfers (spec/07_sequencer_isa.md R231–R236), skips, pairs, the lazy
floating-point state (R272), and the result every word's meaning gives. A word that the pipeline holds does not
issue: the state stays as it is, but for the mark of the stall, and the word issues when its command comes again.
The model's own choices and readings (DEDUCED, DESIGN CHOICE, PRESUMED) are log entries 6, 31, 32, 34 and 36.
-/
namespace Sys2Proof.Machine

/-! ## Trap entry -/

/-- The status word (R261). -/
def statusWord (c : Cluster) : Word :=
  BitVec.ofNat 24 ((ioBit 0x10 23 c).toNat * 2 ^ 23 + cwp c * 2 ^ 16 + (ccGet c).toNat)

/-- The cause word (R261). -/
def causeWord (vec slot detail : Nat) : Word := BitVec.ofNat 24 (slot * 2 ^ 16 + detail * 2 ^ 8 + vec)

/-- Put SEQ_STATUS.IE; the watchdog sees that it was 1 (R264). -/
def setIe (b : Bool) (c : Cluster) : Cluster := { ioSetBit 0x10 23 b c with ieSeen := c.ieSeen || b }

/-- The cluster stops whatever it waited for and continues at an I-space address. -/
def goTo (pc : Word) (c : Cluster) : Cluster :=
  { c with pc := pc, slotA := none, skipNext := false, skipSlotA := false, waiting := false, vsync := none, stepping := false,
           loopLag := [] }

/-- The cluster enters fault-stop (R263, R110): the sequencer issues nothing, its groups and those of its sets are
abandoned, the spare manager learns the cause. -/
def faultStop (n : Cl) (cause : Nat) (s : State) : State :=
  s.modCl n fun c0 =>
    let c := goTo c0.pc (landAll c0)
    let d := (List.range 8).foldl (fun d k => setAbandon k d) c
    ioPut 0x1E (BitVec.ofNat 24 cause) { d with groups := [], forming := [], failCause := true }

/-- Entry at the fast level (R265). -/
def fastEntry (n : Cl) (vec : Nat) (cause info rpc : Word) (s : State) : State :=
  s.modCl n fun c0 =>
    let c := landAll c0
    let d := ioPut 0x13 info (ioPut 0x12 cause (ioPut 0x15 (statusWord c) (ioPut 0x14 rpc c)))
    let e := ioSetBit 0x10 22 true (setIe false d)
    { goTo (BitVec.ofNat 24 (8 * vec)) e with cyc := c.cyc + 3 }

/-- Whether the handler of a vector is one that a vector exception's groups wait for (R106). -/
def vecHandler (vec : Nat) (c : Cluster) : Bool := vec == 8 || (vec == 1 && c.mcVec)

/-- Entry at the normal level (R260): the frame is pushed under c15 as one store-buffer entry, or the cluster enters
fault-stop; none while the store buffer has no room. -/
def normalEntry (n : Cl) (vec : Nat) (cause info rpc : Word) (s : State) : Option State :=
  let c := landAll (s.cl n)
  let a := xBank c (.com 15) - 4
  match dCheck n c (cGet c 15) a 4 permWR, capFault (cGet c 15) (capBase (cGet c 15).bits) 0 permSTK with
  | .ok gs, none =>
    if 4 ≤ c.sbuf.length then none
    else
      let frame := [rpc, statusWord c, cause, info]
      let d := ioPut 0x13 info (ioPut 0x12 cause { c with
        com := smPut 0 c.com 15 a
        sbuf := c.sbuf ++ [⟨gs.zip frame, 15, cGet c 15, dWindow a, a, 0⟩]
        tdepth := c.tdepth + 1
        vhand := if vecHandler vec c then some (c.vhand.getD (c.tdepth + 1)) else c.vhand
        excSets := if vecHandler vec c then c.excSets.map (fun p => (p.1, some (p.2.getD (c.tdepth + 1)))) else c.excSets })
      some (s.putCl n { goTo (BitVec.ofNat 24 (8 * vec)) (setIe false d) with cyc := c.cyc + 4 })
  | _, _ => some (faultStop n 1 s)

/-- A trap or an asynchronous event enters its handler (R254, R260, R265). -/
def enterVector (n : Cl) (vec : Nat) (cause info rpc : Word) (s : State) : Option State :=
  if vec = 9 ∨ vec = 10 then some (fastEntry n vec cause info rpc s) else normalEntry n vec cause info rpc s

/-- A synchronous trap (R263): at the fast level it is a fault-stop. -/
def syncTrap (n : Cl) (vec slot detail : Nat) (info rpc : Word) (s : State) : Option State :=
  if fastLevel (s.cl n) then some (faultStop n 2 s) else enterVector n vec (causeWord vec slot detail) info rpc s

/-! ## What a word's meaning gives -/

/-- Where a transfer goes; whether it ends an active loop that its target lies outside of (R236). -/
structure Jump where
  target : Word
  leaves : Bool

/-- How a word ends: held in the pipeline; a synchronous trap, with the state its D stage left; complete, with its
transfer, its bubbles, and the DETAIL of a floating-point trap; or with a state that needs nothing more. -/
inductive SeqRes where
  | hold
  | trap (vec slot detail : Nat) (info : Word) (s : State)
  | done (s : State) (jump : Option Jump) (bubbles : Nat) (fp : Option Nat)
  | whole (s : State)

/-- A word that completes and goes on to the next. -/
def SeqRes.go (s : State) : SeqRes := .done s none 0 none

/-! ## Sequence -/

/-- The first entry of a loop register that still governs. -/
def lagFind (r cyc : Nat) (l : List LoopLag) : Option LoopLag := l.find? fun e => e.reg == r && decide (cyc < e.upTo)

/-- That entry with another value. -/
def lagPut (r cyc : Nat) (v : Word) : List LoopLag → List LoopLag
  | [] => []
  | e :: l => if e.reg == r && decide (cyc < e.upTo) then { e with old := v } :: l else e :: lagPut r cyc v l

/-- A loop register (IO offset 4, 5 or 6) as it governs the word that issues now: an OUT to it governs the words fetched
after it completed (R236). -/
def loopGet (r : Nat) (c : Cluster) : Word := ((lagFind r c.cyc c.loopLag).map (·.old)).getD (ioGet r c)

/-- Put a loop register as the word that issues now changes it. -/
def loopPut (r : Nat) (v : Word) (c : Cluster) : Cluster :=
  if (lagFind r c.cyc c.loopLag).isSome then { c with loopLag := lagPut r c.cyc v c.loopLag } else ioPut r v c

/-- An OUT to a loop register (R236): the words up to the one in F1, which reaches RR seven advancing cycles after the
OUT, still see what it held. -/
def loopOut (r : Nat) (c : Cluster) : Cluster :=
  { c with loopLag := c.loopLag.filter (fun e => decide (c.cyc < e.upTo)) ++ [⟨r, ioGet r c, c.cyc + 7⟩] }

/-- Whether the word at `a` is the END of the active loop (R235). -/
def atLoopEnd (a : Word) (c : Cluster) : Bool :=
  bitOf 23 (loopGet 0x6 c) && decide (fld 13 0 (loopGet 0x6 c) = a.toNat) && decide (1 ≤ (loopGet 0x4 c).toNat)

/-- The next word in execution order after the word at `a`, with loop-back (R235). -/
def nextPc (a : Word) (c : Cluster) : Word :=
  if atLoopEnd a c ∧ 1 < (loopGet 0x4 c).toNat then loopGet 0x5 c else a + 1

/-- The word at END issues: the count goes down, and with the last pass the loop ends (R235). -/
def loopBack (a : Word) (c : Cluster) : Cluster :=
  if atLoopEnd a c then
    let k := (loopGet 0x4 c).toNat
    let d := loopPut 0x4 (BitVec.ofNat 24 (k - 1)) c
    if k = 1 then loopPut 0x6 (setBit 23 false (loopGet 0x6 d)) d else d
  else c

/-- A taken transfer to a target outside START to END ends the loop (R236). -/
def leaveLoop (t : Word) (c : Cluster) : Cluster :=
  if (loopGet 0x5 c).toNat ≤ t.toNat ∧ t.toNat ≤ fld 13 0 (loopGet 0x6 c) then c
  else loopPut 0x6 (setBit 23 false (loopGet 0x6 c)) c

/-- The pipeline goes past a word of `k` issue cycles: the pc, the loop, the advancing cycles, the results now visible (R225,
R231). `pc` is the word's address. -/
def wordPass (n : Cl) (k : Nat) (jump : Option Jump) (bubbles : Nat) (s : State) : State :=
  s.modCl n fun c =>
    let a := c.pc + BitVec.ofNat 24 (k - 1)
    let d := match jump with
      | some j => { (if j.leaves then leaveLoop j.target c else c) with pc := j.target }
      | none => { loopBack a c with pc := nextPc a c }
    evcEvent 0x04 bubbles (landDue { d with cyc := d.cyc + k + bubbles, stepping := false })

/-- A word of `k` issue cycles completes, having reached RR (R494). A cancelled word passes RR as a bubble (R234). -/
def wordDone (n : Cl) (k : Nat) (jump : Option Jump) (bubbles : Nat) (s : State) : State :=
  (wordPass n k jump bubbles s).modCl n (evcEvent 0x02 k)

/-! ## Whether a word can issue -/

/-- Whether the cluster's sequencer is powered and not held apart. -/
def seqOn (n : Cl) (s : State) : Bool :=
  !isolated n s && clocked n s

/-- Whether the sequencer issues words: not in fault-stop, not halted, not in WAIT (R263, R493). -/
def seqReady (n : Cl) (s : State) : Bool :=
  let c := s.cl n
  seqOn n s && !faultStopped c && !seqHalted c && !c.waiting

/-! ## The return stack (R224, R232, R233) -/

/-- What a word does to the return stack in D. -/
inductive DAct where
  | plain
  | push
  | pop

/-- Push an entry; a full stack loses its oldest. -/
def rsPush (v : Word) (c : Cluster) : Cluster :=
  { c with rstack := (if 8 ≤ c.rstack.length then c.rstack.drop 1 else c.rstack) ++ [v] }

/-- The return stack as a word in D in cycle `d` finds it: an OUT of RSFLUSH empties it in its own M stage (R224, R232),
after the word that is in D in that cycle has acted. -/
def rsSettle (d : Nat) (c : Cluster) : Cluster :=
  if c.flushAt.any (· < d) then { c with rstack := [], flushAt := c.flushAt.filter (d ≤ ·) } else c

/-- The D-stage action of the word at `a`, which is in D in cycle `d` (R224). -/
def dActAt (d : Nat) (x : DAct) (a : Word) (c : Cluster) : Cluster :=
  match x with
  | .plain => c
  | .push => rsPush (a + 1) (rsSettle d c)
  | .pop => { rsSettle d c with rstack := (rsSettle d c).rstack.dropLast }

/-- The D-stage action of the word at `a` that is in RR: it was in D one cycle before. -/
def dAct (x : DAct) (a : Word) (c : Cluster) : Cluster := dActAt (c.cyc - 1) x a c

/-- The entry that the word in RR finds on top of the return stack in D. -/
def rsTop (c : Cluster) : Option Word := (rsSettle (c.cyc - 1) c).rstack.getLast?

/-- The D-stage action that an instruction-store word calls for. -/
def dClass (w : Word) : DAct :=
  if bitOf 23 w then .plain
  else match fld 22 17 w with
  | 0x1B => .push
  | 0x1E => .push
  | 0x1D =>
    (match fld 8 4 w with
     | 1 => .push
     | 2 => .push
     | 3 => .pop
     | 4 => .pop
     | _ => .plain)
  | _ => .plain

/-- Whether the fetch stage predicts a transfer at an instruction-store word (R224, R231, R232). -/
def predictsTaken (w : Word) (c : Cluster) : Bool :=
  if bitOf 23 w then bitOf 0 w && decide (fld 11 8 w = 0xE)
  else match fld 22 17 w with
  | 0x1A => true
  | 0x1B => true
  | 0x1C => bitOf 12 w
  | 0x1D => (fld 8 4 w == 3 || fld 8 4 w == 4) && (rsTop c).isSome
  | 0x1E => true
  | _ => false

/-- The words in the `k` stages before RR that were fetched from `b` on (R233): a predicted transfer leaves a bubble behind it
(R231). -/
def wrongWords (n : Cl) (s : State) : Nat → Word → Nat
  | 0, _ => 0
  | 1, _ => 1
  | k + 2, b =>
    if predictsTaken (memGet (istoreAddr n b.toNat) s) (s.cl n) then 1 + k else 1 + wrongWords n s (k + 1) (nextPc b (s.cl n))

/-- The words fetched from `b` on are cancelled before RR (R233, R494). -/
def cancelled (n : Cl) (k : Nat) (b : Word) (s : State) : State := s.modCl n (evcEvent 0x03 (wrongWords n s k b))

/-- The words that a transfer at `a`, predicted to fall through, leaves on the wrong path are cancelled; the one in D has acted
on the return stack (R233). -/
def wrongPath (n : Cl) (a : Word) (s : State) : State :=
  let b := nextPc a (s.cl n)
  let t := cancelled n 3 b s
  if b.toNat < 0x4000 then t.modCl n (fun c => dActAt c.cyc (dClass (memGet (istoreAddr n b.toNat) s)) b c) else t

/-! ## Pairs (R213, R215) -/

/-- A skipped pair is cancelled (R234). -/
def pairPass (n : Cl) (bubbles : Nat) (s : State) : State :=
  wordPass n 1 none bubbles (s.modCl n fun c => { c with slotA := none, skipSlotA := false, skipNext := false })

/-- Both slots commit: slot B's value remains where both write one register. -/
def pairDone (n : Cl) (a b : List (RegName × RegVal)) (skip : Bool) (jump : Option Jump) (bubbles : Nat) (s : State) : State :=
  wordDone n 1 jump bubbles (s.modCl n fun c => { dueAdd 1 (a ++ b) c with slotA := none, skipSlotA := false, skipNext := skip })

/-- The results that slot A latched. -/
def slotWrites (c : Cluster) : List (RegName × RegVal) := (c.slotA.getD []).map fun w => (w.reg, w.val)

/-- A pair whose slot B brings nothing more completes, as with NOP. -/
def closePair (n : Cl) (s : State) : State :=
  let c := s.cl n
  match c.slotA with
  | none => s
  | some _ => if c.skipNext then pairPass n 0 s else pairDone n (slotWrites c) [] c.skipSlotA none 0 s

/-! ## Before a word issues -/

/-- Whether the word before this one is SET IE (R255). -/
def afterSetIe (c : Cluster) : Bool := c.ieAt == some c.cyc

/-- Whether a word stalls in the pipeline (R230). -/
def stalled (c : Cluster) : Bool := c.stallAt == some c.cyc

/-- Whether input `k` is pending and enabled (R256). -/
def irqActive (c : Cluster) (k : Nat) : Bool := ioBit (0x30 + k / 24) (k % 24) c && ioBit (0x33 + k / 24) (k % 24) c

/-- Whether input `k` enters the fast level (R254). -/
def irqFast (c : Cluster) (k : Nat) : Bool := ioBit (0x36 + k / 24) (k % 24) c

/-- The asynchronous event that is taken first: its vector, cause and information (R257). -/
def asyncNext (c : Cluster) : Option (Nat × Word × Word) :=
  match c.mcheck with
  | some m => some (1, m.1, m.2)
  | none =>
    if c.vexc then some (8, causeWord 8 0 0, 0)
    else if (List.range 64).any (fun k => irqActive c k && irqFast c k) then some (10, causeWord 10 0 0, 0)
    else
      match (List.range 16).find? (fun i => (List.range 4).any fun j =>
          irqActive c (4 * (15 - i) + j) && !irqFast c (4 * (15 - i) + j)) with
      | some i => some (31 - i, causeWord (31 - i) 0 0, 0)
      | none => none

/-- Whether the boundary permits an asynchronous event (R255, R257, R266); the results before it that are under way
after SET IE become visible first (log entry 32). -/
def asyncPermitted (c : Cluster) : Bool :=
  ioBit 0x10 23 c && !fastLevel c && (c.waiting || c.vsync.isSome || (!stalled c && (afterSetIe c || seqBoundary c)))

/-- The fetch fault of a word beyond the instruction store (R220). -/
def fetchFault (n : Cl) (s : State) : State :=
  (syncTrap n 3 0 0 (s.cl n).pc (s.cl n).pc s).getD s

/-- The trap of a buffered store that was refused as it drained (R187, log entry 36). -/
def lateTrap (n : Cl) (s : State) : Option State :=
  (s.cl n).lateFault.map fun f =>
    (syncTrap n 4 f.1 f.2.1 f.2.2 (s.cl n).pc (s.modCl n fun c => { c with lateFault := none })).getD s

/-- A machine check of a read (R193, R202) or a fetch (R259): pending until a boundary takes it; the DETAIL is free. -/
def loadCheck (n : Cl) (slot : Nat) (addr : Word) (s : State) : State :=
  let cause := causeWord 1 slot (fld 7 0 (Config.freeWord s.fresh))
  drawn (s.modCl n fun c => { c with mcheck := some (c.mcheck.getD (cause, addr)) })

/-- Fetch `k` words of the instruction store; false at an uncorrectable one (R197). -/
def fetchWords (n : Cl) : Nat → Nat → State → Bool × State
  | _, 0, s => (true, s)
  | a, k + 1, s =>
    let r := istoreRead n a s
    if r.1 then fetchWords n (a + 1) k r.2 else r

/-- The advancing cycles after which every result is visible (R225). -/
def longestResult : Nat := 6

/-- Whether the word at the pc, of `k` words, goes ahead, and the state it finds: after the trap of a late store; not past the
instruction store (R220); not before an event that waits since SET IE (R255); not where its fetch is a machine check,
at which issue stops while the cycles go on and what is under way becomes visible (R259). -/
def issueGate (n : Cl) (k : Nat) (s : State) : Bool × State :=
  let c := s.cl n
  match lateTrap n s with
  | some t => (false, t)
  | none =>
    if 0x4000 ≤ c.pc.toNat then (false, fetchFault n s)
    else if afterSetIe c && asyncPermitted c && (asyncNext c).isSome then (false, s)
    else if c.slotA.isSome || stalled c then (true, s)
    else
      let f := fetchWords n c.pc.toNat k s
      if f.1 then f
      else (false, (if c.mcheck.isSome then s else loadCheck n 0 c.pc f.2).modCl n fun d =>
        landAll { d with cyc := d.cyc + longestResult })

/-- A short operation in a slot (R213–R216, R234): `f` gives from the registers as they stood the results, whether
the next word is skipped, the transfer and its bubbles. -/
def slotWord (n : Cl) (sl : Slot) (f : Cluster → List (RegName × RegVal) × Bool) (s : State) : State :=
  if !seqReady n s ∨ (s.cl n).vsync.isSome then s
  else match sl with
  | .a =>
    let t := closePair n s
    let c := t.cl n
    if !seqReady n t then t
    else if c.skipNext then t.putCl n { c with slotA := some [] }
    else
      let g := issueGate n 1 t
      if !g.1 then g.2
      else
        let d := g.2.cl n
        let r := f d
        g.2.putCl n { d with slotA := some (r.1.map fun w => ⟨w.1, w.2, 0⟩), skipSlotA := r.2 }
  | .b =>
    if (s.cl n).skipNext then pairPass n 0 s
    else
      let g := issueGate n 1 s
      if !g.1 then g.2
      else
        let c := g.2.cl n
        let r := f c
        pairDone n (slotWrites c) r.1 (c.skipSlotA || r.2) none 0 g.2

/-! ## The lazy floating-point state (R272) -/

/-- How the steps of R272 end. -/
inductive LazyRes where
  | ok (s : State)
  | held
  | fault (slot : Nat) (info : Word) (s : State)

/-- The words of the FP area: f0–f15 low word first, SEQ_FCSR, the marker 1 (R270). -/
def fpArea (c : Cluster) : List Word :=
  ((List.range 16).flatMap fun k => DWord.words (fGet c k)) ++ [ioGet 0x1 c, 1]

/-- The FP state from the words of an area. -/
def fpLoad (ws : List Word) (c : Cluster) : Cluster :=
  ioPut 0x1 (ws.getD 32 0 &&& 0x831F1F) { c with
    fregs := (List.range 16).foldl (fun m k => smPut 0 m k (DWord.ofWords (ws.getD (2 * k) 0) (ws.getD (2 * k + 1) 0))) [] }

/-- Store words at a D-space address without the store buffer, under a capability. -/
def directStore (n : Cl) (cap : CapV) (a : Word) (ws : List Word) (s : State) : StoreRes :=
  match dCheck n (s.cl n) cap a ws.length permWR with
  | .error d => .fault d s
  | .ok gs =>
    match gs.findSome? (fun g => storeFault n (dWindow a) g s) with
    | some f => .fault f.1 f.2
    | none =>
      if dWindow a && servicePause s then .held
      else
        let d := seqWrites n cap (dWindow a) (gs.zip ws) 0 none s
        if d.done < ws.length then .held
        else match d.fault with
        | some f => .fault f.1 d.s
        | none => .ok (wrote gs d.s)

/-- Load words at a D-space address past the store buffer under a capability. -/
def directLoad (n : Cl) (cap : CapV) (a : Word) (k : Nat) (s : State) : ReadRes :=
  match dCheck n (s.cl n) cap a k permRD with
  | .error e => .fault e s
  | .ok gs => if dWindow a && servicePause s then .held else seqReads n (dWindow a) gs s

/-- Step 1 of R272: the suspended context's state is saved. -/
def lazySave (n : Cl) (s : State) : LazyRes :=
  let c := s.cl n
  if !ioBit 0x10 19 c then .ok s
  else match directStore n (smAt CapV.null c.special 2) (ioGet 0x1C c) (fpArea c) s with
  | .fault _ t => .fault 0 (ioGet 0x1C c) t
  | .held => .held
  | .ok t => .ok (t.modCl n (ioSetBit 0x10 19 false))

/-- Steps 2 and 3 of R272: the current context's state is loaded, or starts at +0 and the reset value. -/
def lazyLoad (n : Cl) (s : State) : LazyRes :=
  let c := s.cl n
  let fpa := ioGet 0x1B c
  let own (t : State) : LazyRes := .ok (t.modCl n (ioSetBit 0x10 20 true))
  let fresh (t : State) : LazyRes := own (t.modCl n fun d => ioPut 0x1 0 { d with fregs := [] })
  if fpa = 0xFFFFFF then fresh s
  else match directLoad n (cGet c 15) (fpa + 33) 1 s with
  | .ok [w] t =>
    if w ≠ 1 then fresh t
    else (match directLoad n (cGet c 15) fpa 33 t with
      | .ok ws u => own (u.modCl n (fpLoad ws))
      | .held => .held
      | .fault _ u => .fault 15 fpa u
      | .ue u => .fault 15 fpa u)
  | .ok _ t => fresh t
  | .held => .held
  | .fault _ t => .fault 15 fpa t
  | .ue t => .fault 15 fpa t

/-- The steps of R272 before a word that uses the floating-point state; older stores drain first. -/
def lazyFp (n : Cl) (s : State) : LazyRes :=
  if ioBit 0x10 20 (s.cl n) then .ok s
  else if !(s.cl n).sbuf.isEmpty then .held
  else match lazySave n s with
  | .ok t => lazyLoad n t
  | r => r

/-! ## Issue of a long operation -/

/-- What the issue stage needs to know of a word: its issue cycles, its D-stage action, whether it uses the FP
state, the bubbles it costs when it is skipped after D predicted it taken (R234). -/
structure WordInfo where
  cycles : Nat := 1
  act    : DAct := .plain
  fp     : Bool := false
  skip   : Nat := 0

/-- The word in RR, X or M stalls the pipeline (R230). -/
def stall (n : Cl) (s : State) : State := s.modCl n fun c => { c with stallAt := some c.cyc }

/-- A synchronous trap of a word that is issuing; it waits for room in the store buffer. -/
def wordTrap (n : Cl) (vec slot detail : Nat) (info a : Word) (s t : State) : State :=
  (syncTrap n vec slot detail info a t).getD (stall n s)

/-- A meaning's result becomes the state: `s` is the state before the word, `a` its address. A floating-point trap at END
leaves the loop as it is and returns to that word (R274), elsewhere to the next (R258). -/
def wordEnd (n : Cl) (k : Nat) (a : Word) (s : State) : SeqRes → State
  | .hold => stall n s
  | .trap vec slot detail info t => wordTrap n vec slot detail info a s (t.modCl n (evcEvent 0x02 k))
  | .done t jump bubbles none => wordDone n k jump bubbles t
  | .done t jump bubbles (some detail) =>
    let u := if atLoopEnd a (t.cl n) then t.modCl n (evcEvent 0x02 k) else wordDone n k jump bubbles t
    wordTrap n 7 0 detail 0 (u.cl n).pc s u
  | .whole t => t

/-- Issue a long operation (R213, R214, R220, R234, R272): a waiting pair completes first; a skipped word is
cancelled; else what precedes its issue, the D-stage action, the lazy FP state and the meaning, in that order. `f` gets
the address that the return stack predicts. -/
def issueWord (n : Cl) (w : WordInfo) (f : Word → State → SeqRes) (s0 : State) : State :=
  if !seqReady n s0 then s0
  else
    let s := closePair n s0
    if !seqReady n s then s
    else if (s.cl n).skipNext then
      wordPass n w.cycles none w.skip (s.modCl n fun d => { (dAct w.act d.pc d) with skipNext := false })
    else
      let g := issueGate n w.cycles s
      if !g.1 then g.2
      else
        let c := g.2.cl n
        let a := c.pc
        let predicted := (rsTop c).getD (nextPc a c)
        let t := g.2.modCl n (dAct w.act a)
        if w.fp && !ioBit 0x10 20 c then
          match lazyFp n t with
          | .held => stall n g.2
          | .fault slot info u => wordTrap n 4 slot 0x0B info a g.2 (u.modCl n (evcEvent 0x02 w.cycles))
          | .ok u => wordEnd n w.cycles a g.2 (f predicted u)
        else wordEnd n w.cycles a g.2 (f predicted t)

/-- Issue a word that waits while a VSYNC stalls. -/
def issue (n : Cl) (w : WordInfo) (f : Word → State → SeqRes) (s : State) : State :=
  if (s.cl n).vsync.isSome then s else issueWord n w f s

/-- An illegal instruction (R214): the information word is the instruction. -/
def illegal (w : Nat) (s : State) : SeqRes := .trap 2 0 0 (BitVec.ofNat 24 w) s

/-- A long operation's word from its fields (R213). -/
def longWord (op rd rs rest : Nat) : Nat := op * 2 ^ 17 + rd * 2 ^ 13 + rs * 2 ^ 9 + rest

/-- ILLEGAL_INSTRUCTION (R214): a word with a reserved opcode or function code, or with a field that must be 0; another
word is no such command and changes nothing. -/
def execIllegalInstruction (n : Cl) (w : Word) (s : State) : Out :=
  .next (if wordIllegal w then issue n {} (fun _ t => illegal w.toNat t) s else s)

end Sys2Proof.Machine
end

