-- ==== Sys2Proof/Machine/Mon.lean ====
section
/-!
DEFINITION. Machine/Mon.lean: the Cloip monitor (spec/19_monitor_counters.md R487–R493), the self-test of R470, locked
sequences (spec/01_architecture.md R24) and the test access port (spec/20_electrical_package.md R510).
The model's own choices and readings (DEDUCED, DESIGN CHOICE, PRESUMED) are log entries 64 to 66.
-/
namespace Sys2Proof.Machine

/-! ## The line (R487–R489) -/

/-- A line's characters have arrived: a new rate applies from the first of them (R487). -/
def monLine (s : State) : State :=
  { s with mon := { s.mon with baud := s.mon.nextBaud.getD s.mon.baud, nextBaud := none } }

/-- The answer OK with a result (R488). -/
def monOk (ws : List Word) (s : State) : State := { s with mon := { s.mon with resp := ws, ok := true, code := 0 } }

/-- The answer ERR with a code (R488, R489). -/
def monErr (code : Nat) (s : State) : State := { s with mon := { s.mon with resp := [], ok := false, code := code } }

/-- The modes CONFIGURE, ARMED, REPLAY, the service modes and SERVICE (R490). -/
def monLive : List Nat := [4, 5, 6, 7, 8, 9, 0xA, 0xB]

/-- Whether a line waits in the monitor's buffer: the OD request before it has no answer yet (R488). -/
def monWaits (s : State) : Bool := s.od.waiting.any fun (w : Waiting) => w.path == .monitor

/-- A command in the modes marked; ERR 03 in every other (R490). A device without power, or one that TJ_TRIP holds in reset,
answers nothing. -/
def monIn (modes : List Nat) (f : State → State) (s : State) : State :=
  if !powered s || monWaits s then s
  else if modes.contains (mode s) then f (monLine s)
  else monErr 0x03 (monLine s)

/-- MON_ID (R490): device name, stepping, serial number, mode code, baud rate. -/
def execMonId (s : State) : Out :=
  .next (monIn (2 :: 3 :: monLive) (fun t =>
    monOk (strWords [0x5A, 0x56, 0x2D, 0x38, 0x32, 0x34] ++ [0x0000A1] ++ DWord.words Config.serial
      ++ [BitVec.ofNat 24 (mode t), BitVec.ofNat 24 t.mon.baud]) t) s)

/-- The rates of R487. -/
def monRates : List Nat := [115200, 230400, 460800, 921600, 1000000, 1500000, 2000000, 3000000]

/-- MON_BAUD (R487): the new rate applies from the next character received. -/
def execMonBaud (rate : Nat) (s : State) : Out :=
  .next (monIn (2 :: 3 :: monLive) (fun t =>
    if monRates.contains rate then monOk [] { t with mon := { t.mon with nextBaud := some rate } } else monErr 0x06 t) s)

/-- MONITOR_BREAK (R487): back to 115,200 baud. -/
def execMonitorBreak (s : State) : Out :=
  .next (if !powered s then s else { s with mon := { s.mon with baud := 115200, nextBaud := none } })

/-- The tokens of a line, which spaces separate (R488). -/
def monTokens (line : List HByte) : List (List HByte) := (line.splitOn 0x20).filter (!·.isEmpty)

/-- Whether a token is a number: hexadecimal digits, with any 0x prefix and underscores ignored (R488). -/
def monNumber (t : List HByte) : Bool :=
  let body := match t with
    | 0x30 :: 0x78 :: r => r
    | 0x30 :: 0x58 :: r => r
    | r => r
  let digits := body.filter (· != 0x5F)
  let hex (c : HByte) : Bool :=
    let v := c.toNat
    (decide (0x30 ≤ v) && decide (v ≤ 0x39)) || (decide (0x41 ≤ v) && decide (v ≤ 0x46)) || (decide (0x61 ≤ v) && decide (v ≤ 0x66))
  !digits.isEmpty && digits.all hex

/-- The commands' names in ASCII with the least and the greatest number of their arguments (R490). -/
def monCommands : List (List HByte × Nat × Nat) :=
  [([0x49, 0x44], 0, 0), ([0x42, 0x41, 0x55, 0x44], 1, 1), ([0x52, 0x44], 1, 2), ([0x43, 0x4E, 0x54], 1, 1),
   ([0x4F, 0x44], 1, 1024), ([0x49, 0x4D, 0x47], 2, 2), ([0x50, 0x55, 0x42], 0, 0), ([0x57, 0x52], 2, 65),
   ([0x52, 0x4D, 0x57], 3, 3), ([0x48, 0x41, 0x4C, 0x54], 1, 1), ([0x53, 0x54, 0x45, 0x50], 1, 1),
   ([0x47, 0x4F], 1, 1), ([0x42, 0x49, 0x53, 0x54], 1, 1)]

/-- What is wrong with a line (R488, R489): 01 for one of more than 1,024 characters or whose arguments are not its command's,
02 for one that names no command; none for an empty line, which is ignored, and for a command, which is another row's. -/
def monFault (line : List HByte) : Option Nat :=
  match monTokens line with
  | [] => if 1024 < line.length then some 0x01 else none
  | name :: args =>
    if 1024 < line.length then some 0x01
    else match monCommands.find? fun c => c.1 == name with
      | none => some 0x02
      | some c => if c.2.1 ≤ args.length ∧ args.length ≤ c.2.2 ∧ args.all monNumber then none else some 0x01

/-- MON_UNKNOWN_COMMAND (R488, R489): in any mode. -/
def execMonUnknownCommand (line : List HByte) (s : State) : Out :=
  .next (match monFault line with
    | none => s
    | some code => if !powered s || monWaits s then s else monErr code (monLine s))

/-! ## Accesses (R491) -/

/-- The part of the monitor's range that a global address lies in (R491). -/
def monPart (a : Nat) : Option Nat :=
  match regionOf a with
  | .hub off => if off < 0x800000 then some 1 else if 0x800000 + secBlockSize ≤ off then some 2 else none
  | .deep off => if a < sealedBase then some (3 + off / 2 ^ 31) else none
  | .host _ => none
  | _ => if a < 2 ^ 30 then some 0 else none

/-- Whether a command's words cross from one part into another (R491). -/
def monCrosses (a len : Nat) : Bool :=
  match monPart a with
  | none => false
  | some p => (List.range len).any fun i => match monPart (a + i) with | some q => q != p | none => false

/-- Read one word as the monitor. -/
def monRead1 (a : Nat) (s : State) : Acc × State :=
  if (monPart a).isNone then (.error, s) else wordRead .monitor .hubM a s

/-- Write one word as the monitor in SERVICE; the security-core block answers it an error (R20, R446). -/
def monWrite1 (a : Nat) (v : Word) (s : State) : Acc × State :=
  if (monPart a).isNone then (.error, s)
  else if lockedFor .monitor a s then (.held, s)
  else match regionOf a with
  | .hub off => if reservedReg off then (.error, s) else (.ok 0, masterWrite .monitor off v s)
  | _ => memWrite .monitor .hubM a v s

/-- How the monitor's access of several words ends: with the words, at an error, or at a word that waits for its owner or
for a lock (R24, R181). -/
inductive MonEnd where
  | ok (ws : List Word)
  | error
  | held
deriving DecidableEq, Repr

/-- Read words in order. -/
def monReads : Nat → Nat → State → MonEnd × State
  | _, 0, s => (.ok [], s)
  | a, k + 1, s =>
    match monRead1 a s with
    | (.ok v, t) =>
      (match monReads (a + 1) k t with
       | (.ok ws, u) => (.ok (v :: ws), u)
       | x => x)
    | (.held, t) => (.held, t)
    | (_, t) => (.error, t)

/-- Write words in order; one access, whose written words are listed in `as` (R166, R202). -/
def monWrites : Nat → List Word → List Nat → State → MonEnd × State
  | _, [], as, s => (.ok [], wrote as s)
  | a, v :: r, as, s =>
    match monWrite1 a v s with
    | (.ok _, t) => monWrites (a + 1) r (as ++ [a]) t
    | (.held, t) => (.held, t)
    | (_, t) => (.error, wrote as t)

/-- The response line of an access; a command that waits leaves the state `s` as it was. -/
def monAnswer (s : State) (r : MonEnd × State) : State :=
  match r.1 with
  | .ok ws => monOk ws r.2
  | .error => monErr 0x04 r.2
  | .held => s

/-- MON_RD (R490, R491). -/
def execMonRd (a : BitVec 40) (len : Nat) (s : State) : Out :=
  .next (monIn monLive (fun t =>
    if len < 1 ∨ 64 < len ∨ monCrosses a.toNat len then monErr 0x06 t
    else monAnswer s (monReads a.toNat len t)) s)

/-- MON_WR (R490, R491). -/
def execMonWr (a : BitVec 40) (ws : List Word) (s : State) : Out :=
  .next (monIn [0xB] (fun t =>
    if ws.length < 1 ∨ 64 < ws.length ∨ monCrosses a.toNat ws.length then monErr 0x06 t
    else monAnswer s (monWrites a.toNat ws [] t)) s)

/-! ## Locked sequences (R24) -/

/-- The lock of a target ends. -/
def unlock (t : Nat) (s : State) : State := { s with locks := s.locks.filter fun k => k.target != t }

/-- The monitor locks a target; a lock that it holds there already goes on. -/
def monLock (t : Nat) (s : State) : State :=
  if s.locks.any fun k => k.target == t then s else { s with locks := s.locks ++ [⟨t, .monitor, s.ticks⟩] }

/-- A locked read-modify-write (R490): word = (word AND NOT mask) OR (v AND mask). An access that waits for a plot's
owner leaves the lock held; the sequence waits while another master holds the target (R24). -/
def monRmw (a : Nat) (mask v : Word) (s : State) : State :=
  if lockedFor .monitor a s then s
  else match monRead1 a (monLock (targetOf a) s) with
  | (.ok w, t) =>
    (match monWrite1 a ((w &&& ~~~mask) ||| (v &&& mask)) t with
     | (.ok _, u) => monOk [] (unlock (targetOf a) (wrote [a] u))
     | (.held, _) => monLock (targetOf a) s
     | (_, u) => monErr 0x04 (unlock (targetOf a) u))
  | (.held, _) => monLock (targetOf a) s
  | (_, t) => monErr 0x04 (unlock (targetOf a) t)

/-- MON_RMW (R490). -/
def execMonRmw (a : BitVec 40) (mask v : Word) (s : State) : Out :=
  .next (monIn [0xB] (monRmw a.toNat mask v) s)

/-- LOCK_TIMEOUT (R24): a lock held for more than 1 µs is broken and counted; the transactions left in the monitor's
sequence get an error response. A lock that the model does not hold is a service sequencer's. -/
def execLockTimeout (t : Fin 16) (s : State) : Out := awake s <|
  match s.locks.find? fun k => k.target == t.val with
  | none => .next (odCount 0xC010 0 s)
  | some k =>
    .next (if (s.ticks - k.since).toNat ≤ 1000 then s else monErr 0x04 (odCount 0xC010 0 (unlock t.val s)))

/-! ## Results of other units -/

/-- MON_CNT (R490): the eight snapshot counts and the snapshot frame of a cluster. -/
def execMonCnt (n : Nat) (s : State) : Out :=
  .next (monIn monLive (fun t =>
    if 256 ≤ n then monErr 0x06 t
    else
      let c := t.cl (clOf n)
      monOk ((List.range 16).map (fun i => ioGet (0x1120 + i) c) ++ [ioGet 0x1101 c, ioGet 0x1102 c]) t) s)

/-- MON_OD (R415, R490): the response line holds the server's response when it comes. While no server runs the line waits. -/
def execMonOd (ws : List Word) (s : State) : Out := .next (monIn monLive (nfpMessage .monitor ws) s)

/-- An image submitted through the monitor (R490): ERR 05 while Hardpan serves another request or is fenced. -/
def monImage (kind : Nat) (ws : List Word) (s : State) : State :=
  if !([1, 2, 3, 4, 5, 11].contains kind) then monErr 0x06 s
  else if secBusy s || unitFenced 6 s then monErr 0x05 s
  else
    let t := if kind = 11 then secOwnerImage ws.length ws true s else secImage kind ws.length ws s
    if t.sec.job.isNone then s else monOk [jobCode t] t

/-- MON_IMG (R490, R454): in BOOT only after a boot failure. -/
def execMonImg (kind : BitVec 4) (ws : List Word) (s : State) : Out :=
  .next (monIn (if hubFld 0x800009 20 18 s ≠ 0 then 2 :: monLive else monLive) (monImage kind.toNat ws) s)

/-- MON_PUB (R460, R490): the identity public key, 22 words, in PROVISION. -/
def execMonPub (s : State) : Out := .next (monIn [3] (fun t => monOk (identityWords t) t) s)

/-! ## Sequencer control (R493) -/

/-- A control command on cluster `n` in SERVICE; what was under way when the sequencer halted has come to its end. -/
def monSeq (n : Nat) (f : Cluster → Cluster) (s : State) : State :=
  monIn [0xB] (fun t =>
    if 256 ≤ n then monErr 0x06 t else monOk [] (t.modCl (clOf n) fun c => f (if seqHalted c then landAll c else c))) s

/-- MON_HALT (R493). -/
def execMonHalt (n : Nat) (s : State) : Out :=
  .next (monSeq n (fun c => { c with halted := true, stepping := false, haltDue := true }) s)

/-- MON_STEP (R493): one word issues, then the sequencer halts again. -/
def execMonStep (n : Nat) (s : State) : Out := .next (monSeq n (fun c => { c with halted := true, stepping := true, haltDue := false }) s)

/-- MON_GO (R493). -/
def execMonGo (n : Nat) (s : State) : Out := .next (monSeq n (fun c => { c with halted := false, stepping := false, haltDue := false }) s)

/-! ## Self-test (R470) -/

/-- A cluster after its self-test: its registers and stores are those of `u`, bits that are no fields as ever; what the hub, the
spare manager and the time base keep for it stays. -/
def bistCluster (u c : Cluster) : Cluster :=
  { u with
    io := (List.range 0x2000).foldl (fun m i => smSet ioReset m i (ioFields i (ioGet i u))) []
    dregs := (List.range 16).foldl (fun m i => smPut Desc.zero m i 
      { smAt Desc.zero u.dregs i with attr := (smAt Desc.zero u.dregs i).attr &&& attrMask }) []
    halted := c.halted, stepping := c.stepping, haltDue := c.haltDue, localNs := c.localNs, tickAt := c.tickAt
    pq := c.pq, pqCap := c.pqCap, dlf := c.dlf, failCause := c.failCause, failover := c.failover, mirror := c.mirror, lastB := c.lastB
    mirrorAt := c.mirrorAt, ringPos := c.ringPos, ringRecs := c.ringRecs, ringDrop := c.ringDrop, jFills := c.jFills
    jParams := c.jParams, heldFor := c.heldFor, lastCommit := c.lastCommit, ran := c.ran }

/-- Words of memory take free values. -/
def freeMem (as : List Nat) (s : State) : State :=
  as.zipIdx.foldl (fun t p => memPut p.1 (Config.freeWord (s.fresh + p.2)) t) s

/-- The fields of the hub registers of a range take free values. -/
def freeRegs (lo hi : Nat) (s : State) : State :=
  (List.range (hi - lo)).foldl (fun t i => hubPut (lo + i) (hubFields (lo + i) (Config.freeWord (s.fresh + i))) t) s

/-- The stores and registers of a cluster after its self-test. -/
def bistCl (n : Cl) (s : State) : State :=
  freeMem ((List.range 0x44000).map (lsAddr n) ++ (List.range 0x4000).map (istoreAddr n))
    (s.modCl n (bistCluster ((Config.freeUnits s.fresh).cl n)))

/-- The entries of a map whose keys a test takes come from another map. -/
def mapFrom (k : Nat → Bool) (m u : SMap α) : SMap α := m.filter (fun p => !k p.1) ++ u.filter (fun p => k p.1)

/-- What the self-test of a power domain leaves (R470, R475): the contents of the unit's stores and registers are free
values, those of `u`. What a carrier board, a host and the OTP hold stays, and so do time and the operating mode: only a warm
reset leaves SERVICE. A tile fabric has no store or register of its own. -/
def bist (d : Nat) (s : State) : State :=
  let u := Config.freeUnits s.fresh
  let t :=
    if d < 272 then (match allCl.find? fun n => decide (physDom n s = d) with | some n => bistCl n s | none => s)
    else if d < 280 then s
    else if d < 284 then
      { freeMem (((List.range (2 ^ 35)).filter fun o => decide (o / 32 % 4 = d - 280)).map (0x1000000000 + ·)) s with
        hbm := { s.hbm with
          poisoned := s.hbm.poisoned.filter (fun l => decide (lineStack l ≠ d - 280)) ++ u.hbm.poisoned.filter (fun l => decide (lineStack l = d - 280)) } }
    else if d = 284 then freeRegs 0x40000 0x50000 { s with cxl := { u.cxl with host := s.cxl.host } }
    else if d = 285 then freeRegs 0x30000 0x40000 { s with net := u.net, cmac := u.cmac }
    else if d < 288 then
      freeRegs (0x8100 + 0x400 * (d - 286)) (0x8500 + 0x400 * (d - 286)) { s with
        links := mapFrom (fun l => decide (l / 8 = d - 286)) s.links u.links }
    else if d = 288 then
      freeRegs 0x10000 0x20000 { s with tmc := { u.tmc with
        bankMv := s.tmc.bankMv
        pins := (List.range 160).map fun p => (p, { smAt PinSt.reset u.tmc.pins p with land := (pinGet p s).land }) } }
    else if d = 289 then
      freeRegs 0x800000 (0x800000 + secBlockSize) { s with sec := { u.sec with
        otp := s.sec.otp, flash := s.sec.flash, topA := s.sec.topA, topB := s.sec.topB, topRuns := s.sec.topRuns, svcCaps := s.sec.svcCaps } }
    else if d = 290 then
      { s with
        sec := { s.sec with topA := u.sec.topA, topB := u.sec.topB, topRuns := u.sec.topRuns, svcCaps := u.sec.svcCaps }
        od := { u.od with ctrs := s.od.ctrs, out := s.od.out } }
    else if d = 291 then freeRegs 0x20000 0x30000 (freeRegs 0x4000 0x8000 { s with ev := u.ev, movers := u.movers })
    else freeRegs 0x60001 0x61000 (freeRegs 0x1000 0x4000 { s with pwr := { u.pwr with trip := s.pwr.trip, standbyAt := s.pwr.standbyAt } })
  { t with fresh := t.fresh + 1 }

/-- MON_BIST (R470, R490): the self-test, with a free pass or fail word. -/
def execMonBist (d : Nat) (s : State) : Out :=
  .next (monIn [0xB] (fun t =>
    if 293 ≤ d then monErr 0x06 t else monOk [Config.freeWord t.fresh] (bist d t)) s)

/-! ## The test access port (R510) -/

/-- What IDCODE shifts out (R510). -/
def idcode : BitVec 32 := 0x1082409F

/-- What the boundary-scan chain captures (R510): the levels at the timing pins, then those at the other single-ended lands. -/
def landLevels (others : List Bool) (s : State) : List Bool := (List.range 256).map (landLevel · s) ++ others

/-- JTAG_INSTRUCTION (R510): `others` the levels at the lands besides the timing pins, `shifted` what is shifted in, `low`
whether SYS_RST_N is low. EXTEST drives the lands from the chain's latch and captures, CLAMP drives them behind the bypass
register, HIGHZ drives none; while SYS_RST_N is high they act as BYPASS. -/
def execJtagInstruction (i : JtagInstr) (others shifted : List Bool) (low : Bool) (s : State) : Out :=
  let j := s.jtag
  let bypass : Jtag := { j with instr := .bypass, out := 0 }
  .next (if mode s = 0 then s else { s with jtag := match i with
    | .bypass => bypass
    | .idcode => { j with instr := .idcode, out := idcode }
    | .samplePreload => { j with instr := .samplePreload, lands := landLevels others s, latch := shifted }
    | .extest => if low then { j with instr := .extest, lands := landLevels others s, latch := shifted } else bypass
    | .clamp => if low then { j with instr := .clamp, out := 0 } else bypass
    | .highz => if low then { j with instr := .highz, out := 0 } else bypass })

end Sys2Proof.Machine
end

