-- ==== Sys2Proof/Machine/SeqInt.lean ====
section
/-!
DEFINITION. Machine/SeqInt.lean: the sequencer's short operations (spec/07_sequencer_isa.md R215, R216, R234), its
integer words (R217–R219), the words that reach D-space and I-space (R220, R221, R228), the descriptor words and
the orders it issues (R97, R99, R237).
The model's own choices and readings (DEDUCED, DESIGN CHOICE, PRESUMED) are log entries 31, 32, 34 and 36.
-/
namespace Sys2Proof.Machine

/-! ## Short operations (R216) -/

/-- A short operation that writes x[rd], from rd and xs as they stand before the word (R215, R216). -/
def shortRes (n : Cl) (sl : Slot) (rd : Reg) (sf : Fin 8) (f : Word → Word → Word) (s : State) : Out :=
  .next (slotWord n sl (fun c => ([(xName c rd, .w (f (xGet c rd) (xGet c (8 + sf.val))))], false)) s)

/-- SHORT_MOV (R216): rd = xs. -/
def execShortMov (n : Cl) (sl : Slot) (rd : Reg) (sf : Fin 8) (s : State) : Out := shortRes n sl rd sf (fun _ x => x) s

/-- SHORT_ADD (R216): rd = rd + xs. -/
def execShortAdd (n : Cl) (sl : Slot) (rd : Reg) (sf : Fin 8) (s : State) : Out := shortRes n sl rd sf (fun r x => r + x) s

/-- SHORT_SUB (R216): rd = rd − xs. -/
def execShortSub (n : Cl) (sl : Slot) (rd : Reg) (sf : Fin 8) (s : State) : Out := shortRes n sl rd sf (fun r x => r - x) s

/-- SHORT_AND (R216): rd = rd AND xs. -/
def execShortAnd (n : Cl) (sl : Slot) (rd : Reg) (sf : Fin 8) (s : State) : Out := shortRes n sl rd sf (fun r x => r &&& x) s

/-- SHORT_OR (R216): rd = rd OR xs. -/
def execShortOr (n : Cl) (sl : Slot) (rd : Reg) (sf : Fin 8) (s : State) : Out := shortRes n sl rd sf (fun r x => r ||| x) s

/-- SHORT_XOR (R216): rd = rd XOR xs. -/
def execShortXor (n : Cl) (sl : Slot) (rd : Reg) (sf : Fin 8) (s : State) : Out := shortRes n sl rd sf (fun r x => r ^^^ x) s

/-- SHORT_ADDI (R216): rd = rd + (s + 1). -/
def execShortAddi (n : Cl) (sl : Slot) (rd : Reg) (sf : Fin 8) (s : State) : Out := shortRes n sl rd sf (fun r _ => r + BitVec.ofNat 24 (sf.val + 1)) s

/-- SHORT_SUBI (R216): rd = rd − (s + 1). -/
def execShortSubi (n : Cl) (sl : Slot) (rd : Reg) (sf : Fin 8) (s : State) : Out := shortRes n sl rd sf (fun r _ => r - BitVec.ofNat 24 (sf.val + 1)) s

/-- SHORT_SHLI (R216): rd = rd shifted left by s + 1. -/
def execShortShli (n : Cl) (sl : Slot) (rd : Reg) (sf : Fin 8) (s : State) : Out := shortRes n sl rd sf (fun r _ => r <<< (sf.val + 1)) s

/-- SHORT_SHRI (R216): rd = rd shifted right by s + 1, zero fill. -/
def execShortShri (n : Cl) (sl : Slot) (rd : Reg) (sf : Fin 8) (s : State) : Out := shortRes n sl rd sf (fun r _ => r >>> (sf.val + 1)) s

/-- SHORT_SARI (R216): rd = rd shifted right by s + 1, sign fill. -/
def execShortSari (n : Cl) (sl : Slot) (rd : Reg) (sf : Fin 8) (s : State) : Out := shortRes n sl rd sf (fun r _ => r.sshiftRight (sf.val + 1)) s

/-- SHORT_MOVI (R216): rd = s. -/
def execShortMovi (n : Cl) (sl : Slot) (rd : Reg) (sf : Fin 8) (s : State) : Out := shortRes n sl rd sf (fun _ _ => BitVec.ofNat 24 sf.val) s

/-- SHORT_CMP (R216, R217): CC from rd − xs. -/
def execShortCmp (n : Cl) (sl : Slot) (rd : Reg) (sf : Fin 8) (s : State) : Out :=
  .next (slotWord n sl (fun c => ([(.cc, .cc (ccCmp (xGet c rd) (xGet c (8 + sf.val))))], false)) s)

/-- SHORT_SKIP (R216, R234): skip the next word if the condition holds. -/
def execShortSkip (n : Cl) (sl : Slot) (cond : Cond) (s : State) : Out :=
  .next (slotWord n sl (fun c => ([], condHolds cond (ccGet c))) s)

/-- NOP (R216). -/
def execNop (n : Cl) (sl : Slot) (s : State) : Out := .next (slotWord n sl (fun _ => ([], false)) s)

/-- The bubbles of a branch (R231). -/
def branchBubbles (taken hint : Bool) : Nat := if taken != hint then 3 else if taken then 1 else 0

/-- A branch's direction: a misprediction counts, with the words fetched on the wrong path; one predicted to fall through leaves
the wrong-path word's D-stage action, one predicted taken a bubble in D (R231, R233, R494). -/
def branchPath (n : Cl) (a target : Word) (taken hint : Bool) (s : State) : State :=
  if taken == hint then s
  else
    let t := s.modCl n (evcEvent 0x05 1)
    if hint then cancelled n 2 target t else wrongPath n a t

/-- BRS (R216, R231): in slot B; if the condition holds, branch to the word address + 2 + s. -/
def brsWord (n : Cl) (cond : Cond) (sf : Fin 8) (hint : Bool) (s : State) : State :=
  let c := s.cl n
  if !seqReady n s ∨ c.vsync.isSome then s
  else if c.skipNext then pairPass n (if hint then 2 else 0) s
  else
    let g := issueGate n 1 s
    if !g.1 then g.2
    else
      let d := g.2.cl n
      let taken := condHolds cond (ccGet d)
      let jump : Option Jump := if taken then some ⟨d.pc + 2 + BitVec.ofNat 24 sf.val, true⟩ else none
      pairDone n (slotWrites d) [] d.skipSlotA jump (branchBubbles taken hint) (branchPath n d.pc (d.pc + 2 + BitVec.ofNat 24 sf.val) taken hint g.2)

/-- BRS (R216). -/
def execBrs (n : Cl) (cond : Cond) (sf : Fin 8) (hint : Bool) (s : State) : Out := .next (brsWord n cond sf hint s)

/-! ## Integer words (R217–R219) -/

/-- A word that completes with results visible `k` advancing cycles later, from the registers as they stand (R225). -/
def regWord (n : Cl) (k : Nat) (w : WordInfo) (f : Cluster → List (RegName × RegVal)) (s : State) : Out :=
  .next (issue n w (fun _ t => .go (t.modCl n fun c => dueAdd k (f c) c)) s)

/-- A word that writes x[rd] with n = 1. -/
def xWord (n : Cl) (rd : Reg) (f : Cluster → Word) (s : State) : Out :=
  regWord n 1 {} (fun c => [(xName c rd, .w (f c))]) s

/-- A word that writes x[rd] and the C flag with n = 1. -/
def xcWord (n : Cl) (rd : Reg) (f : Cluster → Word × Bool) (s : State) : Out :=
  regWord n 1 {} (fun c => [(xName c rd, .w (f c).1), (.carry, .cc (ccBits false (f c).2 false false false))]) s

/-- A word that writes CC with n = 1. -/
def ccWord (n : Cl) (f : Cluster → BitVec 5) (s : State) : Out := regWord n 1 {} (fun c => [(.cc, .cc (f c))]) s

/-- A function of rs and rt (R219). -/
def aluRes (n : Cl) (rd rs rt : Reg) (f : Word → Word → Word) (s : State) : Out :=
  xWord n rd (fun c => f (xGet c rs) (xGet c rt)) s

/-- The count of a shift by a register (R219). -/
def shCount (w : Word) : Nat := fld 4 0 w

/-- CC.C as a word reads it. -/
def ccCarry (c : Cluster) : Bool := bitOf 3 (ccGet c)

/-- Leading zeros of a word (R219). -/
def clzW (w : Word) : Nat := ((List.range 24).takeWhile (fun i => !bitOf (23 - i) w)).length

/-- 1 bits of a word (R219). -/
def popW (w : Word) : Nat := ((List.range 24).filter (fun i => bitOf i w)).length

/-- ALU_ADD (R219): rd = rs + rt. -/
def execAluAdd (n : Cl) (rd rs rt : Reg) (s : State) : Out := aluRes n rd rs rt (fun a b => a + b) s

/-- ALU_SUB (R219): rd = rs − rt. -/
def execAluSub (n : Cl) (rd rs rt : Reg) (s : State) : Out := aluRes n rd rs rt (fun a b => a - b) s

/-- ALU_AND (R219): rd = rs AND rt. -/
def execAluAnd (n : Cl) (rd rs rt : Reg) (s : State) : Out := aluRes n rd rs rt (fun a b => a &&& b) s

/-- ALU_OR (R219): rd = rs OR rt. -/
def execAluOr (n : Cl) (rd rs rt : Reg) (s : State) : Out := aluRes n rd rs rt (fun a b => a ||| b) s

/-- ALU_XOR (R219): rd = rs XOR rt. -/
def execAluXor (n : Cl) (rd rs rt : Reg) (s : State) : Out := aluRes n rd rs rt (fun a b => a ^^^ b) s

/-- ALU_ANDN (R219): rd = rs AND NOT rt. -/
def execAluAndn (n : Cl) (rd rs rt : Reg) (s : State) : Out := aluRes n rd rs rt (fun a b => a &&& ~~~b) s

/-- ALU_SHL (R219): rd = rs shifted left by rt[4:0]. -/
def execAluShl (n : Cl) (rd rs rt : Reg) (s : State) : Out := aluRes n rd rs rt (fun a b => a <<< shCount b) s

/-- ALU_SHR (R219): rd = rs shifted right by rt[4:0], zero fill. -/
def execAluShr (n : Cl) (rd rs rt : Reg) (s : State) : Out := aluRes n rd rs rt (fun a b => a >>> shCount b) s

/-- ALU_SAR (R219): rd = rs shifted right by rt[4:0], sign fill. -/
def execAluSar (n : Cl) (rd rs rt : Reg) (s : State) : Out := aluRes n rd rs rt (fun a b => a.sshiftRight (shCount b)) s

/-- ALU_ROL (R219): rd = rs rotated left by rt[4:0] mod 24. -/
def execAluRol (n : Cl) (rd rs rt : Reg) (s : State) : Out := aluRes n rd rs rt (fun a b => a.rotateLeft (shCount b % 24)) s

/-- ALU_MIN (R219): rd = signed minimum. -/
def execAluMin (n : Cl) (rd rs rt : Reg) (s : State) : Out := aluRes n rd rs rt (fun a b => if a.toInt ≤ b.toInt then a else b) s

/-- ALU_MAX (R219): rd = signed maximum. -/
def execAluMax (n : Cl) (rd rs rt : Reg) (s : State) : Out := aluRes n rd rs rt (fun a b => if a.toInt ≤ b.toInt then b else a) s

/-- ALU_MINU (R219): rd = unsigned minimum. -/
def execAluMinu (n : Cl) (rd rs rt : Reg) (s : State) : Out := aluRes n rd rs rt (fun a b => if a.toNat ≤ b.toNat then a else b) s

/-- ALU_MAXU (R219): rd = unsigned maximum. -/
def execAluMaxu (n : Cl) (rd rs rt : Reg) (s : State) : Out := aluRes n rd rs rt (fun a b => if a.toNat ≤ b.toNat then b else a) s

/-- ALU_SLT (R219): rd = 1 if rs < rt signed, else 0. -/
def execAluSlt (n : Cl) (rd rs rt : Reg) (s : State) : Out := aluRes n rd rs rt (fun a b => if a.toInt < b.toInt then 1 else 0) s

/-- ALU_SLTU (R219): rd = 1 if rs < rt unsigned, else 0. -/
def execAluSltu (n : Cl) (rd rs rt : Reg) (s : State) : Out := aluRes n rd rs rt (fun a b => if a.toNat < b.toNat then 1 else 0) s

/-- ALU_ADDS (R219): rs + rt; C = carry out. -/
def execAluAdds (n : Cl) (rd rs rt : Reg) (s : State) : Out := xcWord n rd (fun c => addCarry (xGet c rs) (xGet c rt) false) s

/-- ALU_ADDX (R219): rs + rt + C; C = carry out. -/
def execAluAddx (n : Cl) (rd rs rt : Reg) (s : State) : Out := xcWord n rd (fun c => addCarry (xGet c rs) (xGet c rt) (ccCarry c)) s

/-- ALU_SUBS (R219): rs − rt; C = 1 when no borrow. -/
def execAluSubs (n : Cl) (rd rs rt : Reg) (s : State) : Out := xcWord n rd (fun c => subCarry (xGet c rs) (xGet c rt) true) s

/-- ALU_SUBX (R219): rs − rt − (1 − C); C = 1 when no borrow. -/
def execAluSubx (n : Cl) (rd rs rt : Reg) (s : State) : Out := xcWord n rd (fun c => subCarry (xGet c rs) (xGet c rt) (ccCarry c)) s

/-- ALU_CLZ (R219): leading zeros of rs. -/
def execAluClz (n : Cl) (rd rs : Reg) (s : State) : Out := xWord n rd (fun c => BitVec.ofNat 24 (clzW (xGet c rs))) s

/-- ALU_POPC (R219): 1 bits in rs. -/
def execAluPopc (n : Cl) (rd rs : Reg) (s : State) : Out := xWord n rd (fun c => BitVec.ofNat 24 (popW (xGet c rs))) s

/-- ADDI (R218): rd = rs + simm9. -/
def execAddi (n : Cl) (rd rs : Reg) (imm : BitVec 9) (s : State) : Out :=
  xWord n rd (fun c => xGet c rs + imm.signExtend 24) s

/-- ANDI (R218): rd = rs AND uimm9. -/
def execAndi (n : Cl) (rd rs : Reg) (imm : BitVec 9) (s : State) : Out :=
  xWord n rd (fun c => xGet c rs &&& imm.setWidth 24) s

/-- ORI (R218): rd = rs OR uimm9. -/
def execOri (n : Cl) (rd rs : Reg) (imm : BitVec 9) (s : State) : Out :=
  xWord n rd (fun c => xGet c rs ||| imm.setWidth 24) s

/-- XORI (R218): rd = rs XOR uimm9. -/
def execXori (n : Cl) (rd rs : Reg) (imm : BitVec 9) (s : State) : Out :=
  xWord n rd (fun c => xGet c rs ^^^ imm.setWidth 24) s

/-- SHI_SHL (R218, R219): rd = rs shifted left by count. -/
def execShiShl (n : Cl) (rd rs : Reg) (count : BitVec 5) (s : State) : Out :=
  xWord n rd (fun c => xGet c rs <<< count.toNat) s

/-- SHI_SHR (R218, R219): rd = rs shifted right by count, zero fill. -/
def execShiShr (n : Cl) (rd rs : Reg) (count : BitVec 5) (s : State) : Out :=
  xWord n rd (fun c => xGet c rs >>> count.toNat) s

/-- SHI_SAR (R218, R219): rd = rs shifted right by count, sign fill. -/
def execShiSar (n : Cl) (rd rs : Reg) (count : BitVec 5) (s : State) : Out :=
  xWord n rd (fun c => (xGet c rs).sshiftRight count.toNat) s

/-- SHI_ROL (R218, R219): rd = rs rotated left by count mod 24. -/
def execShiRol (n : Cl) (rd rs : Reg) (count : BitVec 5) (s : State) : Out :=
  xWord n rd (fun c => (xGet c rs).rotateLeft (count.toNat % 24)) s

/-- CMP (R217): CC from rs − rt. -/
def execCmp (n : Cl) (rs rt : Reg) (s : State) : Out := ccWord n (fun c => ccCmp (xGet c rs) (xGet c rt)) s

/-- CMPI (R217): CC from rs − simm9. -/
def execCmpi (n : Cl) (rs : Reg) (imm : BitVec 9) (s : State) : Out :=
  ccWord n (fun c => ccCmp (xGet c rs) (imm.signExtend 24)) s

/-- LIL (R218): rd = uimm13. -/
def execLil (n : Cl) (rd : Reg) (imm : BitVec 13) (s : State) : Out := xWord n rd (fun _ => imm.setWidth 24) s

/-- LIS (R218): rd = simm13. -/
def execLis (n : Cl) (rd : Reg) (imm : BitVec 13) (s : State) : Out := xWord n rd (fun _ => imm.signExtend 24) s

/-- LIH (R218): rd[23:11] = imm13; rd[10:0] unchanged. -/
def execLih (n : Cl) (rd : Reg) (imm : BitVec 13) (s : State) : Out :=
  xWord n rd (fun c => setFld 23 11 imm.toNat (xGet c rd)) s

/-! ## D-space and I-space (R220, R221, R228) -/

/-- The address that a base register and a 9-bit offset form (R221). -/
def baseAddr (c : Cluster) (rs : Reg) (imm : BitVec 9) : Word := xGet c rs + imm.signExtend 24

/-- A load of `k` words under c[rs] (R221): a failed check is a data-access fault, and an uncorrectable word a
machine check that leaves the destination as it is (R193). -/
def loadRes (n : Cl) (rs : Reg) (imm : BitVec 9) (k : Nat) (out : Cluster → List Word → List (RegName × RegVal)) (s : State) : SeqRes :=
  let c := s.cl n
  let a := baseAddr c rs imm
  match dLoad n (cGet c rs) a k s with
  | .held => .hold
  | .fault d t => .trap 4 rs d a t
  | .ue t => .go (loadCheck n rs a t)
  | .ok ws t => .go (t.modCl n fun d => dueAdd 3 (out d ws) (readTo n ((out d ws).map (·.1)) s d))

/-- A store of words under c[rs] (R221, R228). -/
def storeRes (n : Cl) (rs : Reg) (imm : BitVec 9) (ws : Cluster → List Word) (s : State) : SeqRes :=
  let c := s.cl n
  let a := baseAddr c rs imm
  match dStore n rs a (ws c) s with
  | .held => .hold
  | .fault d t => .trap 4 rs d a t
  | .ok t => .go t

/-- LD (R218, R221): x[rd] = the word at [rs + simm9]. -/
def execLd (n : Cl) (rd rs : Reg) (imm : BitVec 9) (s : State) : Out :=
  .next (issue n {} (fun _ t => loadRes n rs imm 1 (fun c ws => [(xName c rd, .w (ws.headD 0))]) t) s)

/-- LDD (R218, R221): two words into rd and rd + 1, with rd even (R214). -/
def execLdd (n : Cl) (rd rs : Reg) (imm : BitVec 9) (s : State) : Out :=
  .next (issue n {} (fun _ t =>
    if rd.val % 2 = 1 then illegal (longWord 0x0D rd rs imm.toNat) t
    else loadRes n rs imm 2 (fun c ws => [(xName c rd, .w (ws.getD 0 0)), (xName c (rd.val + 1), .w (ws.getD 1 0))]) t) s)

/-- ST (R218, R228): one word. -/
def execSt (n : Cl) (rd rs : Reg) (imm : BitVec 9) (s : State) : Out :=
  .next (issue n {} (fun _ t => storeRes n rs imm (fun c => [xGet c rd]) t) s)

/-- STD (R218, R228): two words from rd and rd + 1, with rd even (R214). -/
def execStd (n : Cl) (rd rs : Reg) (imm : BitVec 9) (s : State) : Out :=
  .next (issue n {} (fun _ t =>
    if rd.val % 2 = 1 then illegal (longWord 0x0F rd rs imm.toNat) t
    else storeRes n rs imm (fun c => [xGet c rd, xGet c (rd.val + 1)]) t) s)

/-- LDF (R218, R212): two words into fd, the low word first. -/
def execLdf (n : Cl) (fd rs : Reg) (imm : BitVec 9) (s : State) : Out :=
  .next (issue n { fp := true } (fun _ t =>
    loadRes n rs imm 2 (fun _ ws => [(.f fd, .f (DWord.ofWords (ws.getD 0 0) (ws.getD 1 0)))]) t) s)

/-- STF (R218, R212). -/
def execStf (n : Cl) (fd rs : Reg) (imm : BitVec 9) (s : State) : Out :=
  .next (issue n { fp := true } (fun _ t => storeRes n rs imm (fun c => DWord.words (fGet c fd)) t) s)

/-- A short vector's register writes from its four lanes (R212). -/
def vRes (vd : VReg) (ws : List Word) : List (RegName × RegVal) :=
  [(.f (2 * vd.val), .f (DWord.ofWords (ws.getD 0 0) (ws.getD 1 0))),
   (.f (2 * vd.val + 1), .f (DWord.ofWords (ws.getD 2 0) (ws.getD 3 0)))]

/-- LDV (R218, R212): four words, lane 0 at the lowest address. -/
def execLdv (n : Cl) (vd : VReg) (rs : Reg) (imm : BitVec 9) (s : State) : Out :=
  .next (issue n { fp := true } (fun _ t => loadRes n rs imm 4 (fun _ ws => vRes vd ws) t) s)

/-- STV (R218, R212). -/
def execStv (n : Cl) (vd : VReg) (rs : Reg) (imm : BitVec 9) (s : State) : Out :=
  .next (issue n { fp := true } (fun _ t => storeRes n rs imm (fun c => (List.range 4).map (vLane c vd)) t) s)

/-- TRD (R220): x[rd] = the I-space word at rs + simm9, under c[rs] over its global address; an
uncorrectable word is a machine check (R197). -/
def trdRes (n : Cl) (rd rs : Reg) (imm : BitVec 9) (s : State) : SeqRes :=
  let c := s.cl n
  let a := baseAddr c rs imm
  if 0x4000 ≤ a.toNat then .trap 4 rs 0x04 a s
  else match capFault (cGet c rs) (istoreAddr n a.toNat) 1 permRD with
  | some d => .trap 4 rs d a s
  | none =>
    let r := istoreRead n a.toNat s
    if r.1 then .go (r.2.modCl n fun d => dueAdd 3 [(xName d rd, .w (memGet (istoreAddr n a.toNat) s))] d)
    else .go (loadCheck n rs a r.2)

/-- TRD (R220). -/
def execTrd (n : Cl) (rd rs : Reg) (imm : BitVec 9) (s : State) : Out :=
  .next (issue n {} (fun _ t => trdRes n rd rs imm t) s)

/-- SYNC (R218, R230): stall until the store buffer is empty. -/
def execSync (n : Cl) (s : State) : Out :=
  .next (issue n {} (fun _ t => if (t.cl n).sbuf.isEmpty then .go t else .hold) s)

/-! ## Descriptors (R75, R218) -/

/-- DRD (R218): x[rd] = word w of dN; w of 5–7 is illegal (R214). -/
def execDrd (n : Cl) (rd d : Reg) (w : BitVec 3) (s : State) : Out :=
  .next (issue n {} (fun _ t =>
    if 5 ≤ w.toNat then illegal (longWord 0x25 rd d w.toNat) t
    else .go (t.modCl n fun c => dueAdd 1 [(xName c rd, .w (descGet (dGet c d) w.toNat))] c)) s)

/-- DWR (R218): word w of dN = x[rs]. -/
def execDwr (n : Cl) (d rs : Reg) (w : BitVec 3) (s : State) : Out :=
  .next (issue n {} (fun _ t =>
    if 5 ≤ w.toNat then illegal (longWord 0x26 d rs w.toNat) t
    else .go (t.modCl n fun c => dueAdd 1 [(.dWord d w.toNat, .w (xGet c rs))] c)) s)

/-- DADD (R218): dN.BASE = (dN.BASE + sign-extended x[rs]) mod 2^40. -/
def execDadd (n : Cl) (d rs : Reg) (s : State) : Out :=
  regWord n 1 {} (fun c =>
    let b := (dGet c d).base + (xGet c rs).signExtend 40
    [(.dWord d 0, .w (b.extractLsb' 0 24)), (.dWord d 1, .w ((b.extractLsb' 24 16).setWidth 24))]) s

/-- DLD (R218): the five words of dN in word order. -/
def execDld (n : Cl) (d rs : Reg) (imm : BitVec 9) (s : State) : Out :=
  .next (issue n {} (fun _ t =>
    loadRes n rs imm 5 (fun _ ws => ws.zipIdx.map fun p => (RegName.dWord d p.2, RegVal.w p.1)) t) s)

/-- DSTO (R218). -/
def execDsto (n : Cl) (d rs : Reg) (imm : BitVec 9) (s : State) : Out :=
  .next (issue n {} (fun _ t => storeRes n rs imm (fun c => (List.range 5).map (descGet (dGet c d))) t) s)

/-! ## Orders (R97, R99, R237, R238) -/

/-- A vector order: a word of four issue cycles, one that names an f register by SCAL included among the users of the
FP state (R237, R272). -/
def orderWord (n : Cl) (o : Order96) (f : State → SeqRes) (s : State) : State :=
  issue n { cycles := 4, fp := decide (oScal o < 16) } (fun _ t =>
    if 0x4000 < (t.cl n).pc.toNat + 4 then .trap 3 0 0 0x004000 t else f t) s

/-- The registers as the RR stage of an order's fourth issue cycle finds them (R237). -/
def orderRegs (c : Cluster) : Cluster := landDue { c with cyc := c.cyc + 3 }

/-- An order enters the order queue, or waits while the queue is full (R237, R238). -/
def orderQueue (n : Cl) (o : Order96) (s : State) : SeqRes :=
  let c := s.cl n
  let r := orderRegs c
  if 16 ≤ queueOrders c then .hold
  else .go (orderEnter n ⟨o, c.pc, orderK r o, copyDescs (regDesc r) o⟩ s)

/-- ORDER_ISSUE_QUEUE (R97). -/
def execOrderIssueQueue (n : Cl) (ord : Order96) (s : State) : Out :=
  .next (orderWord n (withIss 0 ord) (orderQueue n (withIss 0 ord)) s)

/-- ORDER_ISSUE_FENCE (R97). -/
def execOrderIssueFence (n : Cl) (ord : Order96) (s : State) : Out :=
  .next (orderWord n (withIss 1 ord) (orderQueue n (withIss 1 ord)) s)

/-- ORDER_APPEND (R99): the order reaches the order store. -/
def execOrderAppend (n : Cl) (ord : Order96) (s : State) : Out :=
  .next (orderWord n (withIss 2 ord) (fun t => .go (orderAppend n (withIss 2 ord) t)) s)

/-- ORDER_ISSUE_NOTIFY (R97). -/
def execOrderIssueNotify (n : Cl) (ord : Order96) (s : State) : Out :=
  .next (orderWord n (withIss 3 ord) (orderQueue n (withIss 3 ord)) s)

end Sys2Proof.Machine
end

