-- ==== Sys2Proof/Machine/SeqIo.lean ====
section
/-!
DEFINITION. Machine/SeqIo.lean: the sequencer's IO-space (spec/07_sequencer_isa.md R222, R223, R229) and the words
IN, OUT, INR and OUTR. An IO access completes in M, three advancing cycles after RR, so its result is visible to words
whose RR falls four or more advancing cycles after its own (R225, R230, R267).
The model's own choices and readings (DEDUCED, DESIGN CHOICE, PRESUMED) are log entries 31 to 33.
-/
namespace Sys2Proof.Machine

/-- The advancing cycles from the RR stage of an access that stalls in M to the first RR stage after its stall. -/
def ioVis : Nat := 4

/-- The registers as the M stage of an access finds them. -/
def inM (c : Cluster) : Cluster := landDue { c with cyc := c.cyc + 3 }

/-- The register that SEQ_WREG_k names under SEQ_WINSEL (R267). -/
def wregName (c : Cluster) (k : Nat) : Option RegName :=
  match ioFld 0x11 5 4 c with
  | 0 => if k < 8 then some (.win (ioFld 0x11 2 0 c) k) else none
  | 1 => if 8 ≤ k then some (.com k) else none
  | 2 => some (.fast k)
  | _ => none

/-- Whether a queued or running group names a mask register (R223). -/
def maskNamed (c : Cluster) (m : Nat) : Bool :=
  (newGroup 0 none c.forming false false 0 :: c.groups).any fun g => (masksRead g ++ masksWritten g).contains m

/-- Word `w` of a mask register (R223). -/
def maskWordGet (b : BitVec 4096) (w : Nat) : Word := b.extractLsb' (24 * w) 24

/-- A mask register with its word `w` replaced (R223). -/
def maskWordPut (b : BitVec 4096) (w : Nat) (v : Word) : BitVec 4096 :=
  if w < 170 then setFld (24 * w + 23) (24 * w) v.toNat b
  else if w = 170 then setFld 4095 4080 (fld 15 0 v) b
  else b

/-- SEQ_OQ (R238): the orders in the queue, and whether it is empty with no sequencer-issued group running. -/
def oqWord (c : Cluster) : Word :=
  BitVec.ofNat 24 (queueOrders c * 2 ^ 8 + (decide (queueOrders c = 0) && c.groups.all (fun g => g.set.isSome)).toNat)

/-- A read in IO-space below 0x2000 (R222): the value, and the state with the snapshots and counts that it takes. -/
def ioRead (n : Cl) (off : Nat) (s : State) : Word × State :=
  let c := s.cl n
  let snap (base : Nat) : DWord := snapGet (ioSnapReg n base) (bankReader c) s
  if off = 0x0 then (setFld 11 8 (rsSettle (c.cyc + 3) c).rstack.length (ioGet 0x0 c), s)
  else if off = 0x1 then (regRead (ioRow 0x1) (ioGet 0x1 (flagsBy none c)), s.modCl n (flagsBy none))
  else if off = 0x2 then (ioGet 0x2 (inM c), s)
  else if off = 0x3 then (oqWord c, s)
  else if 0x20 ≤ off ∧ off < 0x30 then (((wregName c (off - 0x20)).map (xBank (landAll c))).getD 0, s)
  else if off = 0x100 then asRead (execTbLocalW0Read n s) s
  else if off = 0x101 then ((snap 0x100).extractLsb' 0 24, s)
  else if off = 0x102 then ((snap 0x100).extractLsb' 24 24, s)
  else if (0x1E0 ≤ off ∧ off < 0x1F8) ∨ off = 0x1FA ∨ off = 0x1FB then
    if off % 2 = 0 then asRead (.next (ioPairRead n off s)) s else ((snap (off - 1)).extractLsb' 0 24, s)
  else if 0x800 ≤ off ∧ off < 0x1000 then
    (if (off - 0x800) % 0x100 ≤ 170 then maskWordGet (smAt 0 c.masks ((off - 0x800) / 0x100)) ((off - 0x800) % 0x100) else 0, s)
  else if 0x1100 ≤ off ∧ off < 0x1130 then evcRead n (off - 0x1100) (bankReader c) s
  else (regRead (ioRow off) (ioGet off c), s)

/-- A write in IO-space below 0x2000 (R222). -/
def ioWrite (n : Cl) (off : Nat) (v : Word) (s : State) : State :=
  let code (c : Cluster) : Cluster := ioCodeWrite off v c
  if off = 0x0 then s.modCl n fun c => if bitOf 23 v then { code c with flushAt := c.flushAt ++ [c.cyc + 3] } else code c
  else if off = 0x1 then s.modCl n fun c => ioCodeWrite off v (flagsBy (some (c.cyc + 3)) c)
  else if 0x4 ≤ off ∧ off ≤ 0x6 then s.modCl n fun c => ioCodeWrite off v (loopOut off c)
  else if off = 0x2 then s.modCl n (dueAdd ioVis [(.cc, .cc (v.setWidth 5))])
  else if off = 0x1D then (if fld 7 0 v = 0 then s else s.modCl n code)
  else if 0x20 ≤ off ∧ off < 0x30 then
    s.modCl n fun c => match wregName c (off - 0x20) with
      | none => c
      | some r => dueAdd ioVis [(r, .w v)] c
  else if 0x190 ≤ off ∧ off < 0x198 then setCtlWrite n ⟨(off - 0x190) % 8, Nat.mod_lt _ (by decide)⟩ v s
  else if 0x198 ≤ off ∧ off < 0x1A0 then setEvtWrite n ⟨(off - 0x198) % 8, Nat.mod_lt _ (by decide)⟩ v s
  else if off = 0x1A8 then (if fld 3 0 v = 0 then s else s.modCl n (setErr 0))
  else if off = 0x1B5 then sdescCmd n (fld 6 4 v) (fld 3 0 v) s
  else if off = 0x1F8 then confCtlWrite n v s
  else if 0x300 ≤ off ∧ off < 0x400 then plotRegWrite n off v .sequencer s
  else if 0x800 ≤ off ∧ off < 0x1000 then
    s.modCl n fun c => { c with
      masks := smPut 0 c.masks ((off - 0x800) / 0x100)
        (maskWordPut (smAt 0 c.masks ((off - 0x800) / 0x100)) ((off - 0x800) % 0x100) v) }
  else if 0x1008 ≤ off ∧ off < 0x1040 then irqbWrite n (off - 0x1000) v s
  else if off = 0x1040 then (if bitOf 0 v then asWrite (execEvfSwevFire n s) s else s)
  else if 0x1100 ≤ off ∧ off < 0x1130 then evcWrite n (off - 0x1100) v s
  else s.modCl n code

/-- The DETAIL of an IO-access fault, or none (R222, R223, R245, R261). -/
def ioCheck (cap : CapV) (a perm : Nat) : Option Nat := if 0x2000 ≤ a then some 0x04 else ioFault cap a perm

/-- Whether an IO access waits: for the store buffer (R229), or for the groups that name a mask register (R223). -/
def ioWaits (a : Nat) (c : Cluster) : Bool :=
  !c.sbuf.isEmpty || (decide (0x800 ≤ a) && decide (a < 0x1000) && maskNamed c ((a - 0x800) / 0x100))

/-- The lazy FP steps before an access to SEQ_FCSR (R272). -/
def withFp (n : Cl) (need : Bool) (f : State → SeqRes) (s : State) : SeqRes :=
  if need && !ioBit 0x10 20 (s.cl n) then
    match lazyFp n s with
    | .held => .hold
    | .fault slot info t => .trap 4 slot 0x0B info t
    | .ok t => f t
  else f s

/-- An IO access at address `a`, authorised by the capability in `slot` (R223). -/
def ioAccess (n : Cl) (slot : Nat) (a : Word) (perm : Nat) (f : State → SeqRes) (s : State) : SeqRes :=
  let c := s.cl n
  match ioCheck (cGet c slot) a.toNat perm with
  | some d => .trap 5 slot d a s
  | none => if ioWaits a.toNat c then .hold else withFp n (decide (a = 1)) f s

/-- An IO read into x[rd]. -/
def ioInRes (n : Cl) (slot : Nat) (a : Word) (rd : Reg) (s : State) : SeqRes :=
  ioAccess n slot a permRD (fun t =>
    let p := ioRead n a.toNat t
    .go (p.2.modCl n fun d => dueAdd ioVis [(xName d rd, .w p.1)] d)) s

/-- An IO write of x[rd]. -/
def ioOutRes (n : Cl) (slot : Nat) (a : Word) (rd : Reg) (s : State) : SeqRes :=
  ioAccess n slot a permWR (fun t => .go (ioWrite n a.toNat (xGet (t.cl n) rd) t)) s

/-- The slot that authorises IN and OUT, SEQ_CTL.IOCAP (R223). -/
def ioCapSlot (c : Cluster) : Nat := ioFld 0x0 3 0 c

/-- IN (R218, R223): x[rd] = the IO register at io13. -/
def execIoIn (n : Cl) (rd : Reg) (io : BitVec 13) (s : State) : Out :=
  .next (issue n {} (fun _ t => ioInRes n (ioCapSlot (t.cl n)) (io.setWidth 24) rd t) s)

/-- OUT (R218, R223): the IO register at io13 = x[rd]. -/
def execIoOut (n : Cl) (rd : Reg) (io : BitVec 13) (s : State) : Out :=
  .next (issue n {} (fun _ t => ioOutRes n (ioCapSlot (t.cl n)) (io.setWidth 24) rd t) s)

/-- INR (R218, R223): IO read at x[rs] + uimm9 under c[rs]. -/
def execIoInr (n : Cl) (rd rs : Reg) (imm : BitVec 9) (s : State) : Out :=
  .next (issue n {} (fun _ t => ioInRes n rs (xGet (t.cl n) rs + imm.setWidth 24) rd t) s)

/-- OUTR (R218, R223): IO write at x[rs] + uimm9 under c[rs]. -/
def execIoOutr (n : Cl) (rd rs : Reg) (imm : BitVec 9) (s : State) : Out :=
  .next (issue n {} (fun _ t => ioOutRes n rs (xGet (t.cl n) rs + imm.setWidth 24) rd t) s)

end Sys2Proof.Machine
end

