-- ==== Sys2Proof/Machine/SeqCap.lean ====
section
/-!
DEFINITION. Machine/SeqCap.lean: the capability instructions (spec/08_sequencer_traps_capabilities.md R248–R251).
The model's own choices and readings (DEDUCED, DESIGN CHOICE, PRESUMED) are log entries 31 and 34.
-/
namespace Sys2Proof.Machine

/-- The four words of a capability in order (R242). -/
def capWords (c : Cap) : List Word := (List.range 4).map (capWord c)

/-- A capability from a list of four words. -/
def capOfList (ws : List Word) : Cap := capOfWords (ws.getD 0 0) (ws.getD 1 0) (ws.getD 2 0) (ws.getD 3 0)

/-- A capability fault (R254): vector 6, with the slot concerned. -/
def capTrap (slot detail : Nat) (info : Word) (s : State) : SeqRes := .trap 6 slot detail info s

/-- CLD (R248): four words into cd, with their TAG checked. -/
def cldRes (n : Cl) (cd rs : Reg) (imm : BitVec 9) (s : State) : SeqRes :=
  let c := s.cl n
  let a := baseAddr c rs imm
  match dLoad n (cGet c rs) a 4 s with
  | .held => .hold
  | .fault d t => .trap 4 rs d a t
  | .ue t => .go (loadCheck n rs a t)
  | .ok ws t =>
    match loadCap t (capOfList ws) with
    | none => capTrap cd 0x07 a (tagFailed t)
    | some v => .go (t.modCl n fun d => dueAdd 3 [(.c cd, .c v)] (readTo n [.c cd] s d))

/-- CLD (R248). -/
def execCld (n : Cl) (cd rs : Reg) (imm : BitVec 9) (s : State) : Out :=
  .next (issue n {} (fun _ t => cldRes n cd rs imm t) s)

/-- CST (R248): the four words of cd; a valid one needs GLB. -/
def cstRes (n : Cl) (cd rs : Reg) (imm : BitVec 9) (s : State) : SeqRes :=
  let c := s.cl n
  let a := baseAddr c rs imm
  let v := cGet c cd
  match dCheck n c (cGet c rs) a 4 permWR with
  | .error d => .trap 4 rs d a s
  | .ok _ =>
    if v.valid && !capHas v.bits permGLB then capTrap cd 0x09 a s
    else storeRes n rs imm (fun _ => capWords v.bits) s

/-- CST (R248). -/
def execCst (n : Cl) (cd rs : Reg) (imm : BitVec 9) (s : State) : Out :=
  .next (issue n {} (fun _ t => cstRes n cd rs imm t) s)

/-- CBND (R248, R249): cd = cs with BASE + x[rt] × 2^S and LEN = x[rt+1] × 2^S. -/
def cbndRes (n : Cl) (cd cs rt : Reg) (sc : Nat) (s : State) : SeqRes :=
  let c := s.cl n
  let v := cGet c cs
  let b := (xGet c rt).toNat * 2 ^ sc
  let l := (xGet c (rt.val + 1)).toNat * 2 ^ sc
  if rt.val % 2 = 1 ∨ 8 < sc then illegal (longWord 0x2C cd cs (16 * sc + rt)) s
  else if !v.valid then capTrap cs 0x01 0 s
  else if capLen v.bits < b + l then capTrap cs 0x08 0 s
  else .go (s.modCl n (dueAdd 1 [(.c cd, .c ⟨mintCap s (capBase v.bits + b) l (capPerm v.bits), true⟩)]))

/-- CBND (R248). -/
def execCbnd (n : Cl) (cd cs rt : Reg) (sc : BitVec 4) (s : State) : Out :=
  .next (issue n {} (fun _ t => cbndRes n cd cs rt sc.toNat t) s)

/-- CPERM (R248, R249): cd = cs with PERM AND x[rt][11:0]. -/
def cpermRes (n : Cl) (cd cs rt : Reg) (s : State) : SeqRes :=
  let c := s.cl n
  let v := cGet c cs
  if !v.valid then capTrap cs 0x01 0 s
  else .go (s.modCl n (dueAdd 1 [(.c cd,
    .c ⟨mintCap s (capBase v.bits) (capLen v.bits) (capPerm v.bits &&& fld 11 0 (xGet c rt)), true⟩)]))

/-- CPERM (R248). -/
def execCperm (n : Cl) (cd cs rt : Reg) (s : State) : Out := .next (issue n {} (fun _ t => cpermRes n cd cs rt t) s)

/-- CMOV (R248): cd = cs. -/
def execCmov (n : Cl) (cd cs : Reg) (s : State) : Out := regWord n 1 {} (fun c => [(.c cd, .c (cGet c cs))]) s

/-- CCLR (R248): cd = null. -/
def execCclr (n : Cl) (cd : Reg) (s : State) : Out := regWord n 1 {} (fun _ => [(.c cd, .c CapV.null)]) s

/-- CRD (R248): x[rd] = word w of cs, or its validity for w = 4; w of 5–15 is illegal. -/
def execCrd (n : Cl) (rd cs : Reg) (w : BitVec 4) (s : State) : Out :=
  .next (issue n {} (fun _ t =>
    if 5 ≤ w.toNat then illegal (longWord 0x2D rd cs (0x30 + w.toNat)) t
    else .go (t.modCl n fun c =>
      let v := cGet c cs
      dueAdd 3 [(xName c rd, .w (if w.toNat = 4 then BitVec.ofNat 24 v.valid.toNat else capWord v.bits w.toNat))] c)) s)

/-- The access of CSPR and CSPW to special capability `k` (R250, R251): authorised by slot IOCAP over IO address
0x3C + k, in M like IN and OUT. -/
def specialAccess (n : Cl) (k perm : Nat) (f : State → SeqRes) (s : State) : SeqRes :=
  ioAccess n (ioCapSlot (s.cl n)) (BitVec.ofNat 24 (0x3C + k)) perm f s

/-- CSPR (R251): cd = special capability k; k of 3–15 is illegal. -/
def execCspr (n : Cl) (cd : Reg) (k : BitVec 4) (s : State) : Out :=
  .next (issue n {} (fun _ t =>
    if 3 ≤ k.toNat then illegal (longWord 0x2D cd 0 (0x40 + k.toNat)) t
    else specialAccess n k.toNat permRD (fun u =>
      .go (u.modCl n fun c => dueAdd ioVis [(.c cd, .c (smAt CapV.null c.special k.toNat))] c)) t) s)

/-- The permission that installation as special capability `k` needs (R243, R251). -/
def specialPerm (k : Nat) : Option Nat := if k = 0 then some permENT else if k = 1 then some permWS else none

/-- CSPW (R251): special capability k = cs, which needs ENT or WS for k = 0 or 1. -/
def execCspw (n : Cl) (cs : Reg) (k : BitVec 4) (s : State) : Out :=
  .next (issue n {} (fun _ t =>
    if 3 ≤ k.toNat then illegal (longWord 0x2D 0 cs (0x50 + k.toNat)) t
    else specialAccess n k.toNat permWR (fun u =>
      let v := cGet (u.cl n) cs
      if (specialPerm k.toNat).any (fun p => !capHas v.bits p) then capTrap cs 0x0A 0 u
      else .go (u.modCl n (dueAdd ioVis [(.special k.toNat, .c v)]))) t) s)

end Sys2Proof.Machine
end

