-- ==== Sys2Proof/Machine/SeqFp.lean ====
section
/-!
DEFINITION. Machine/SeqFp.lean: the scalar floating-point and short-vector words (spec/07_sequencer_isa.md R212,
R218, R219, R240; results and flags by spec/04_numerics.md).
The model's own choices and readings (DEDUCED, DESIGN CHOICE, PRESUMED) are log entries 31 and 32.
-/
namespace Sys2Proof.Machine

/-- The format of a width. -/
def fwFmt : FWidth → Fmt
  | .f24 => f24
  | .f48 => f48

/-- f register `r` as an operand of a width (R212). -/
def fArg (w : FWidth) (c : Cluster) (r : Nat) : DWord :=
  match w with
  | .f24 => (fGet c r).setWidth 24 |>.setWidth 48
  | .f48 => fGet c r

/-- When the result of FOP, FMA becomes visible (R225). -/
def fopVis : FWidth → Nat
  | .f24 => 3
  | .f48 => 4

/-- When the result of FMA becomes visible (R225). -/
def fmaVis : FWidth → Nat
  | .f24 => 5
  | .f48 => 6

/-- A floating-point word (R240): its results visible and its flags accrued `k` advancing cycles later, when it completes,
and the floating-point trap that an enabled flag takes. -/
def fpWord (n : Cl) (k : Nat) (f : Cluster → List (RegName × RegVal) × Fl) (s : State) : Out :=
  .next (issue n { fp := true } (fun _ t =>
    let c := t.cl n
    .done (t.modCl n (dueAdd k ((f c).1 ++ fpAccrue (f c).2))) none 0 (fpTrap (f c).2 c)) s)

/-- A scalar operation on fs and ft (R240), as the vector order `v`. -/
def fopRes (n : Cl) (v : VOp) (k : Nat) (w : FWidth) (fd fs ft : Reg) (s : State) : Out :=
  fpWord n k (fun c =>
    let r := fElem v (fwFmt w) (fcsrRnd c) (fArg w c fs) (fArg w c ft) 0 0
    ([(.f fd, .f r.1)], r.2)) s

/-- FOP_ADD (R219, R240): fd = fs + ft. -/
def execFopAdd (n : Cl) (w : FWidth) (fd fs ft : Reg) (s : State) : Out :=
  fopRes n .vadd (fopVis w) w fd fs ft s

/-- FOP_SUB (R219, R240): fd = fs − ft. -/
def execFopSub (n : Cl) (w : FWidth) (fd fs ft : Reg) (s : State) : Out :=
  fopRes n .vsub (fopVis w) w fd fs ft s

/-- FOP_MUL (R219, R240): fd = fs × ft. -/
def execFopMul (n : Cl) (w : FWidth) (fd fs ft : Reg) (s : State) : Out :=
  fopRes n .vmul (fopVis w) w fd fs ft s

/-- FOP_MIN (R219, R240): fd = the minimum. -/
def execFopMin (n : Cl) (w : FWidth) (fd fs ft : Reg) (s : State) : Out :=
  fopRes n .vmin (fopVis w) w fd fs ft s

/-- FOP_MAX (R219, R240): fd = the maximum. -/
def execFopMax (n : Cl) (w : FWidth) (fd fs ft : Reg) (s : State) : Out :=
  fopRes n .vmax (fopVis w) w fd fs ft s

/-- FOP_ABS (R219, R240): fd = |fs|. -/
def execFopAbs (n : Cl) (w : FWidth) (fd fs : Reg) (s : State) : Out :=
  fopRes n .vabs (fopVis w) w fd fs fs s

/-- FOP_NEG (R219, R240): fd = −fs. -/
def execFopNeg (n : Cl) (w : FWidth) (fd fs : Reg) (s : State) : Out :=
  fopRes n .vneg (fopVis w) w fd fs fs s

/-- FOP_MOV (R219, R240): fd = fs. -/
def execFopMov (n : Cl) (w : FWidth) (fd fs : Reg) (s : State) : Out :=
  fopRes n .vmov (fopVis w) w fd fs fs s

/-- A fused operation with fd as s1 (R218, R240). -/
def fmaRes (n : Cl) (v : VOp) (w : FWidth) (fd fs ft : Reg) (s : State) : Out :=
  fpWord n (fmaVis w) (fun c =>
    let r := fElem v (fwFmt w) (fcsrRnd c) (fArg w c fd) (fArg w c fs) (fArg w c ft) 0
    ([(.f fd, .f r.1)], r.2)) s

/-- FMA_ADD (R218): fd = fd + fs × ft. -/
def execFmaAdd (n : Cl) (w : FWidth) (fd fs ft : Reg) (s : State) : Out :=
  fmaRes n .vfma w fd fs ft s

/-- FMA_SUB (R218): fd = fd − fs × ft. -/
def execFmaSub (n : Cl) (w : FWidth) (fd fs ft : Reg) (s : State) : Out :=
  fmaRes n .vfms w fd fs ft s

/-- FCMP (R217, R218): CC; `sig` raises NV on any NaN. -/
def execFcmp (n : Cl) (w : FWidth) (sig : Bool) (fs ft : Reg) (s : State) : Out :=
  fpWord n 3 (fun c =>
    let r := ccFcmp (fwFmt w) sig (fArg w c fs) (fArg w c ft)
    ([(.cc, .cc r.1)], r.2)) s

/-- A conversion into an f register (R219, R240). -/
def fcvtRes (n : Cl) (fd : Reg) (f : Cluster → DWord × Fl) (s : State) : Out :=
  fpWord n 3 (fun c => ([(.f fd, .f (f c).1)], (f c).2)) s

/-- A conversion into an x register (R219, R240). -/
def fcvtXRes (n : Cl) (rd : Reg) (f : Cluster → DWord × Fl) (s : State) : Out :=
  fpWord n 3 (fun c => ([(xName c rd, .w ((f c).1.setWidth 24))], (f c).2)) s

/-- FCVT_F24_TO_F48 (R219). -/
def execFcvtF24ToF48 (n : Cl) (fd fs : Reg) (s : State) : Out :=
  fcvtRes n fd (fun c => fConv f24 f48 (fcsrRnd c) (fArg .f24 c fs)) s

/-- FCVT_F48_TO_F24 (R219). -/
def execFcvtF48ToF24 (n : Cl) (fd fs : Reg) (s : State) : Out :=
  fcvtRes n fd (fun c => fConv f48 f24 (fcsrRnd c) (fArg .f48 c fs)) s

/-- FCVT_I24_TO_F24 (R219). -/
def execFcvtI24ToF24 (n : Cl) (fd rs : Reg) (s : State) : Out :=
  fcvtRes n fd (fun c => intToF f24 (fcsrRnd c) 0 (xGet c rs).toInt) s

/-- FCVT_I24_TO_F48 (R219). -/
def execFcvtI24ToF48 (n : Cl) (fd rs : Reg) (s : State) : Out :=
  fcvtRes n fd (fun c => intToF f48 (fcsrRnd c) 0 (xGet c rs).toInt) s

/-- FCVT_F24_TO_I24 (R219), saturating (R240). -/
def execFcvtF24ToI24 (n : Cl) (rd fs : Reg) (s : State) : Out :=
  fcvtXRes n rd (fun c => fToInt f24 (fcsrRnd c) 24 false true 0 (fArg .f24 c fs)) s

/-- FCVT_F48_TO_I24 (R219), saturating (R240). -/
def execFcvtF48ToI24 (n : Cl) (rd fs : Reg) (s : State) : Out :=
  fcvtXRes n rd (fun c => fToInt f48 (fcsrRnd c) 24 false true 0 (fArg .f48 c fs)) s

/-- FMX_X_TO_F_LOW (R219): fd[23:0] = x[rs]; other bits unchanged, no flag. -/
def execFmxXToFLow (n : Cl) (fd rs : Reg) (s : State) : Out :=
  regWord n 1 { fp := true } (fun c => [(.fLow fd, .w (xGet c rs))]) s

/-- FMX_X_TO_F_HIGH (R219): fd[47:24] = x[rs]. -/
def execFmxXToFHigh (n : Cl) (fd rs : Reg) (s : State) : Out :=
  regWord n 1 { fp := true } (fun c => [(.fHigh fd, .w (xGet c rs))]) s

/-- FMX_F_LOW_TO_X (R219): x[rd] = fs[23:0]. -/
def execFmxFLowToX (n : Cl) (rd fs : Reg) (s : State) : Out :=
  regWord n 1 { fp := true } (fun c => [(xName c rd, .w ((fGet c fs).extractLsb' 0 24))]) s

/-- FMX_F_HIGH_TO_X (R219): x[rd] = fs[47:24]. -/
def execFmxFHighToX (n : Cl) (rd fs : Reg) (s : State) : Out :=
  regWord n 1 { fp := true } (fun c => [(xName c rd, .w ((fGet c fs).extractLsb' 24 24))]) s

/-- FDIV_DIV (R147, R219): fd = fs ÷ ft. -/
def execFdivDiv (n : Cl) (w : FWidth) (fd fs ft : Reg) (s : State) : Out :=
  fopRes n .vdiv 1 w fd fs ft s

/-- FDIV_RCP (R147, R219): fd = 1 ÷ fs. -/
def execFdivRcp (n : Cl) (w : FWidth) (fd fs : Reg) (s : State) : Out :=
  fopRes n .vrcp 1 w fd fs fs s

/-- FDIV_SQRT (R147, R219): fd = √fs. -/
def execFdivSqrt (n : Cl) (w : FWidth) (fd fs : Reg) (s : State) : Out :=
  fopRes n .vsqrt 1 w fd fs fs s

/-- FDIV_RSQRT (R147, R219): fd = 1 ÷ √fs. -/
def execFdivRsqrt (n : Cl) (w : FWidth) (fd fs : Reg) (s : State) : Out :=
  fopRes n .vrsqrt 1 w fd fs fs s

/-! ## Short vectors (R212) -/

/-- Lane `i` of a short vector as an F24 operand. -/
def vArg (c : Cluster) (v : VReg) (i : Nat) : DWord := (vLane c v i).setWidth 48

/-- A four-lane operation (R219, R240): its flags are the OR of its lanes'. -/
def vop4Res (n : Cl) (v : VOp) (k : Nat) (vd : VReg) (a b d : Cluster → Nat → DWord) (s : State) : Out :=
  fpWord n k (fun c =>
    let r := (List.range 4).map fun i => fElem v f24 (fcsrRnd c) (a c i) (b c i) (d c i) 0
    (vRes vd (r.map fun x => x.1.setWidth 24), (r.map (·.2)).foldl (· ||| ·) 0)) s

/-- A four-lane operation on va and vb. -/
def vop4 (n : Cl) (v : VOp) (k : Nat) (vd va vb : VReg) (s : State) : Out :=
  vop4Res n v k vd (fun c i => vArg c va i) (fun c i => vArg c vb i) (fun _ _ => 0) s

/-- VOP4_ADD (R219). -/
def execVop4Add (n : Cl) (vd va vb : VReg) (s : State) : Out :=
  vop4 n .vadd 3 vd va vb s

/-- VOP4_SUB (R219). -/
def execVop4Sub (n : Cl) (vd va vb : VReg) (s : State) : Out :=
  vop4 n .vsub 3 vd va vb s

/-- VOP4_MUL (R219). -/
def execVop4Mul (n : Cl) (vd va vb : VReg) (s : State) : Out :=
  vop4 n .vmul 3 vd va vb s

/-- VOP4_MIN (R219). -/
def execVop4Min (n : Cl) (vd va vb : VReg) (s : State) : Out :=
  vop4 n .vmin 3 vd va vb s

/-- VOP4_MAX (R219). -/
def execVop4Max (n : Cl) (vd va vb : VReg) (s : State) : Out :=
  vop4 n .vmax 3 vd va vb s

/-- VOP4_ABS (R219). -/
def execVop4Abs (n : Cl) (vd va : VReg) (s : State) : Out :=
  vop4 n .vabs 3 vd va va s

/-- VOP4_NEG (R219). -/
def execVop4Neg (n : Cl) (vd va : VReg) (s : State) : Out :=
  vop4 n .vneg 3 vd va va s

/-- VOP4_MOV (R219). -/
def execVop4Mov (n : Cl) (vd va : VReg) (s : State) : Out :=
  vop4 n .vmov 3 vd va va s

/-- VFMA4_ADD (R218): vd = vd + va × vb. -/
def execVfma4Add (n : Cl) (vd va vb : VReg) (s : State) : Out :=
  vop4Res n .vfma 5 vd (fun c i => vArg c vd i) (fun c i => vArg c va i) (fun c i => vArg c vb i) s

/-- VFMA4_SUB (R218): vd = vd − va × vb. -/
def execVfma4Sub (n : Cl) (vd va vb : VReg) (s : State) : Out :=
  vop4Res n .vfms 5 vd (fun c i => vArg c vd i) (fun c i => vArg c va i) (fun c i => vArg c vb i) s

/-- VDIV4_DIV (R147, R219). -/
def execVdiv4Div (n : Cl) (vd va vb : VReg) (s : State) : Out :=
  vop4 n .vdiv 1 vd va vb s

/-- VDIV4_RCP (R147, R219). -/
def execVdiv4Rcp (n : Cl) (vd va : VReg) (s : State) : Out :=
  vop4 n .vrcp 1 vd va va s

/-- VDIV4_SQRT (R147, R219). -/
def execVdiv4Sqrt (n : Cl) (vd va : VReg) (s : State) : Out :=
  vop4 n .vsqrt 1 vd va va s

/-- VDIV4_RSQRT (R147, R219). -/
def execVdiv4Rsqrt (n : Cl) (vd va : VReg) (s : State) : Out :=
  vop4 n .vrsqrt 1 vd va va s

/-- The half of an f register that lane `lane` of a short vector is (R212). -/
def laneName (v : VReg) (lane : Fin 4) : RegName :=
  if lane.val % 2 = 0 then .fLow (2 * v.val + lane.val / 2) else .fHigh (2 * v.val + lane.val / 2)

/-- VLANE_WRITE (R219): lane L of vd = x[rs]. -/
def execVlaneWrite (n : Cl) (vd : VReg) (lane : Fin 4) (rs : Reg) (s : State) : Out :=
  regWord n 1 { fp := true } (fun c => [(laneName vd lane, .w (xGet c rs))]) s

/-- VLANE_READ (R219): x[rd] = lane L of vs. -/
def execVlaneRead (n : Cl) (rd : Reg) (lane : Fin 4) (vs : VReg) (s : State) : Out :=
  regWord n 1 { fp := true } (fun c => [(xName c rd, .w (vLane c vs lane))]) s

end Sys2Proof.Machine
end

