-- ==== Sys2Proof/Machine/SeqFlow.lean ====
section
/-!
DEFINITION. Machine/SeqFlow.lean: control transfers, skips and loops (spec/07_sequencer_isa.md R211, R231–R236),
waits (R230, R238), system calls and returns, interrupts, the watchdog, the window engine and SWITCH
(spec/08_sequencer_traps_capabilities.md R252–R272).
The model's own choices and readings (DEDUCED, DESIGN CHOICE, PRESUMED) are log entries 31 to 35.
-/
namespace Sys2Proof.Machine

/-! ## Branches (R231) -/

/-- BRA (R218, R231). -/
def execBra (n : Cl) (off : BitVec 17) (s : State) : Out :=
  .next (issue n { skip := 2 } (fun _ t => .done t (some ⟨(t.cl n).pc + off.signExtend 24, true⟩) 1 none) s)

/-- BC (R218, R231). -/
def bcRes (n : Cl) (cond : Cond) (hint : Bool) (off : BitVec 12) (s : State) : SeqRes :=
  let c := s.cl n
  let taken := condHolds cond (ccGet c)
  let jump : Option Jump := if taken then some ⟨c.pc + off.signExtend 24, true⟩ else none
  .done (branchPath n c.pc (c.pc + off.signExtend 24) taken hint s) jump (branchBubbles taken hint) none

/-- BC (R218, R231). -/
def execBc (n : Cl) (cond : Cond) (hint : Bool) (off : BitVec 12) (s : State) : Out :=
  .next (issue n { skip := if hint then 2 else 0 } (fun _ t => bcRes n cond hint off t) s)

/-- JR (R218, R231): PC = x[rs]; the word after it was fetched on the wrong path (R233). -/
def execJr (n : Cl) (rs : Reg) (s : State) : Out :=
  .next (issue n {} (fun _ t =>
    .done (wrongPath n (t.cl n).pc t) (some ⟨xGet (t.cl n) rs, true⟩) 3 none) s)

/-! ## Calls and returns (R211, R232, R269) -/

/-- The link register takes the address of the following word (R210). -/
def linkTo (c : Cluster) : Cluster := dueAdd 1 [(xName c 14, .w (c.pc + 1))] c

/-- A call's move to the next window (R211, R269): at the fast level WRES stays (R266). -/
def windowUp (c : Cluster) : Cluster :=
  let d := ioSetFld 0x10 18 16 ((cwp c + 1) % 8) c
  if fastLevel c then d else ioSetFld 0x10 15 12 (wres c + 1) d

/-- A return's move to the window before (R211, R269). -/
def windowDown (c : Cluster) : Cluster :=
  let d := ioSetFld 0x10 18 16 ((cwp c + 7) % 8) c
  if fastLevel c then d else ioSetFld 0x10 15 12 (wres c - 1) d

/-- SEQ_STATUS.WERR (R269). -/
def windowErr (c : Cluster) : Bool := ioBit 0x10 11 c

/-- A window fault (R254, R269). -/
def windowTrap (s : State) : SeqRes := .trap 9 0 0 0 s

/-- A call with a window (R211, R269): with eight windows resident it holds until a spill completes, and faults when
the spill failed. -/
def callRes (n : Cl) (target : Word) (bubbles : Nat) (s : State) : SeqRes :=
  let c := s.cl n
  if !fastLevel c && decide (8 ≤ wres c) then (if windowErr c then windowTrap s else .hold)
  else .done (s.modCl n fun d => windowUp (linkTo d)) (some ⟨target, false⟩) bubbles none

/-- CALL (R211, R231). -/
def execCall (n : Cl) (off : BitVec 17) (s : State) : Out :=
  .next (issue n { act := .push, skip := 2 } (fun _ t => callRes n ((t.cl n).pc + off.signExtend 24) 1 t) s)

/-- A register call, once it goes ahead, leaves its wrong path behind. -/
def afterWrongPath (n : Cl) (a : Word) : SeqRes → SeqRes
  | .done t j b f => .done (wrongPath n a t) j b f
  | r => r

/-- CALLR (R218, R231). -/
def execCallr (n : Cl) (rs : Reg) (s : State) : Out :=
  .next (issue n { act := .push } (fun _ t =>
    afterWrongPath n (t.cl n).pc (callRes n (xGet (t.cl n) rs) 3 t)) s)

/-- LINK (R211, R231). -/
def execLink (n : Cl) (off : BitVec 17) (s : State) : Out :=
  .next (issue n { act := .push, skip := 2 } (fun _ t =>
    .done (t.modCl n linkTo) (some ⟨(t.cl n).pc + off.signExtend 24, false⟩) 1 none) s)

/-- LINKR (R218, R231). -/
def execLinkr (n : Cl) (rs : Reg) (s : State) : Out :=
  .next (issue n { act := .push } (fun _ t =>
    .done (wrongPath n (t.cl n).pc (t.modCl n linkTo)) (some ⟨xGet (t.cl n) rs, false⟩) 3 none) s)

/-- A return to x14 (R232): `predicted` is what the return stack gave, `popped` whether it held an entry. A
misprediction counts, and one of an empty stack leaves the wrong-path word's D-stage action. -/
def returnTo (n : Cl) (predicted : Word) (popped : Bool) (f : Cluster → Cluster) (s : State) : SeqRes :=
  let c := s.cl n
  let x14 := xGet c 14
  let right := decide (predicted = x14)
  let t := if right then s else s.modCl n (evcEvent 0x06 1)
  let u := if right then t else if popped then cancelled n 2 predicted t else wrongPath n c.pc t
  .done (u.modCl n f) (some ⟨x14, true⟩) (if right then 1 else 3) none

/-- Whether WSAVE_CAP covers SEQ_WSP − 8 (R269); the rest of its check is made by the fill. -/
def fillCovered (n : Cl) (c : Cluster) : Bool :=
  let cap := smAt CapV.null c.special 1
  match dGlobal n c (ioGet 0x19 c - 8).toNat with
  | some g => !capHas cap.bits permIO && covers cap g 1
  | none => false

/-- RET (R211, R232, R269): with one window resident it holds until a fill completes, and faults when the fill
fails. -/
def retRes (n : Cl) (predicted : Word) (popped : Bool) (s : State) : SeqRes :=
  let c := s.cl n
  if !fastLevel c && decide (wres c ≤ 1) then
    (if windowErr c then windowTrap s
     else if fillCovered n c then .hold
     else windowTrap (s.modCl n (ioSetBit 0x10 11 true)))
  else returnTo n predicted popped windowDown s

/-- Whether the return stack holds an entry for the next pop. -/
def rsFull (n : Cl) (s : State) : Bool := (rsTop (s.cl n)).isSome

/-- RET (R218, R232). -/
def execRet (n : Cl) (s : State) : Out :=
  .next (issue n { act := .pop, skip := if rsFull n s then 2 else 0 } (fun p t => retRes n p (rsFull n s) t) s)

/-- RETL (R218, R232). -/
def execRetl (n : Cl) (s : State) : Out :=
  .next (issue n { act := .pop, skip := if rsFull n s then 2 else 0 } (fun p t => returnTo n p (rsFull n s) id t) s)

/-! ## Skips and loops (R234–R236) -/

/-- SKIP (R234). -/
def execSkip (n : Cl) (cond : Cond) (s : State) : Out :=
  .next (issue n {} (fun _ t => .go (t.modCl n fun c => { c with skipNext := condHolds cond (ccGet c) })) s)

/-- SKB (R218, R234): a bit number of 24–31 is illegal. -/
def execSkb (n : Cl) (rs : Reg) (sense : Bool) (bit : BitVec 5) (s : State) : Out :=
  .next (issue n {} (fun _ t =>
    if 24 ≤ bit.toNat then illegal (longWord 0x20 sense.toNat rs bit.toNat) t
    else .go (t.modCl n fun c => { c with skipNext := bitOf bit.toNat (xGet c rs) == sense })) s)

/-- A loop of `count` passes over the `len` words that follow (R235). -/
def loopRes (n : Cl) (count : Word) (len : Nat) (word : Nat) (s : State) : SeqRes :=
  let a := (s.cl n).pc
  let put (active : Bool) (c : Cluster) : Cluster :=
    { ioPut 0x4 count (ioPut 0x5 (setFld 13 0 (a.toNat + 1) 0) (ioPut 0x6 (setBit 23 active (setFld 13 0 (a.toNat + len) 0)) c)) with
      loopLag := [] }
  if len = 0 then illegal word s
  else if count = 0 then .done (s.modCl n (put false)) (some ⟨a + BitVec.ofNat 24 (len + 1), false⟩) 1 none
  else .go (s.modCl n (put true))

/-- LOOP (R235). -/
def execLoop (n : Cl) (rs : Reg) (len : BitVec 9) (s : State) : Out :=
  .next (issue n {} (fun _ t => loopRes n (xGet (t.cl n) rs) len.toNat (longWord 0x21 0 rs len.toNat) t) s)

/-- LOOPI (R235). -/
def execLoopi (n : Cl) (count : BitVec 8) (len : BitVec 9) (s : State) : Out :=
  .next (issue n {} (fun _ t =>
    loopRes n (count.setWidth 24) len.toNat (longWord 0x22 0 0 (count.toNat * 2 ^ 9 + len.toNat)) t) s)

/-! ## Waits (R230, R238) -/

/-- WAIT (R230): the sequencer stalls until an interrupt is taken. -/
def execWait (n : Cl) (s : State) : Out :=
  .next (issue n {} (fun _ t => .go (t.modCl n fun c => { c with waiting := true })) s)

/-- Whether a group that the sequencer issued before `gid` has not completed (R238). -/
def vsyncWaits (c : Cluster) (gid : Nat) : Bool := c.groups.any fun g => g.set.isNone && decide (g.gid < gid)

/-- VSYNC (R238): it stalls until every group that the sequencer issued before it has completed. -/
def vsyncWord (n : Cl) (s : State) : State :=
  match (s.cl n).vsync with
  | some k =>
    if !seqReady n s || vsyncWaits (s.cl n) k then s
    else issueWord n {} (fun _ t => .go t) (s.modCl n fun c => { c with vsync := none })
  | none =>
    let t := closePair n s
    let c := t.cl n
    if seqReady n s && seqReady n t && !c.skipNext && decide (c.pc.toNat < 0x4000) && vsyncWaits c c.nextGid then
      t.putCl n { c with vsync := some c.nextGid }
    else issueWord n {} (fun _ u => .go u) s

/-- VSYNC (R238). -/
def execVsync (n : Cl) (s : State) : Out := .next (vsyncWord n s)

/-! ## System calls (R252, R253) -/

/-- c13 and ENTRY_CAP exchange values. -/
def entrySwap (c : Cluster) : Cluster :=
  dueAdd 1 [(.c 13, .c (smAt CapV.null c.special 0)), (.special 0, .c (cGet c 13))] c

/-- SYS (R252). -/
def sysRes (n : Cl) (service : BitVec 9) (s : State) : SeqRes :=
  let c := s.cl n
  if ioBit 0x10 21 c then illegal (longWord 0x23 0 0 service.toNat) s
  else if !(smAt CapV.null c.special 0).valid then capTrap 0 0x01 0 s
  else
    .done (s.modCl n fun d =>
      ioSetBit 0x10 21 true (entrySwap (ioPut 0x18 (service.setWidth 24) (ioPut 0x17 (d.pc + 1) d))))
      (some ⟨ioGet 0x16 c, false⟩) 3 none

/-- SYS (R252). -/
def execSys (n : Cl) (service : BitVec 9) (s : State) : Out := .next (issue n {} (fun _ t => sysRes n service t) s)

/-- SRET (R253). -/
def sretRes (n : Cl) (s : State) : SeqRes :=
  let c := s.cl n
  if !ioBit 0x10 21 c then illegal (longWord 0x24 0 0 0x30) s
  else .done (s.modCl n fun d => ioSetBit 0x10 21 false (entrySwap d)) (some ⟨ioGet 0x17 c, false⟩) 3 none

/-- SRET (R253). -/
def execSret (n : Cl) (s : State) : Out := .next (issue n {} (fun _ t => sretRes n t) s)

/-! ## Interrupt enable and return (R255, R262, R266) -/

/-- CLR_IE (R255). -/
def execClrIe (n : Cl) (s : State) : Out := .next (issue n {} (fun _ t => .go (t.modCl n (setIe false))) s)

/-- SET_IE (R255): an event that is pending comes before the following word. -/
def execSetIe (n : Cl) (s : State) : Out :=
  .next (issue n {} (fun _ t => .go (t.modCl n fun c => { setIe true c with ieAt := some (c.cyc + 1) })) s)

/-- IE and CC return from a status word (R261). -/
def statusBack (w : Word) (c : Cluster) : Cluster := setIe (bitOf 23 w) (dueAdd 1 [(.cc, .cc (w.setWidth 5))] c)

/-- RETI at the fast level (R266). -/
def retiFast (n : Cl) (s : State) : SeqRes :=
  let c := s.cl n
  let w := ioGet 0x15 c
  .done (s.modCl n fun d => statusBack w (ioSetBit 0x10 22 false (ioSetFld 0x10 18 16 (fld 18 16 w) d)))
    (some ⟨ioGet 0x14 c, false⟩) 3 none

/-- RETI at the normal level (R262, R263): the frame is popped under c15, or the cluster enters fault-stop. The first
returned word reaches RR six advancing cycles after RETI. -/
def retiNormal (n : Cl) (s : State) : SeqRes :=
  let c := s.cl n
  let sp := xGet c 15
  if (capFault (cGet c 15) (capBase (cGet c 15).bits) 0 permSTK).isSome then .whole (faultStop n 3 s)
  else match dLoad n (cGet c 15) sp 4 s with
  | .held => .hold
  | .fault _ t => .whole (faultStop n 3 t)
  | .ue t => .whole (faultStop n 3 t)
  | .ok ws t =>
    .done (t.modCl n fun d =>
        let e := statusBack (ws.getD 1 0) (dueAdd 1 [(.com 15, .w (sp + 4))] d)
        { e with
          cyc := e.cyc + 5, tdepth := e.tdepth - 1, vhand := if e.vhand = some e.tdepth then none else e.vhand
          excSets := e.excSets.filter (fun p => p.2 ≠ some e.tdepth) })
      (some ⟨ws.getD 0 0, false⟩) 0 none

/-- RETI (R262, R266). -/
def execReti (n : Cl) (s : State) : Out :=
  .next (issue n {} (fun _ t => if fastLevel (t.cl n) then retiFast n t else retiNormal n t) s)

/-! ## Asynchronous events (R255–R258) -/

/-- INTERRUPT_INPUT_EVENT (R256): an event that waits at an interrupt input sets its bit in SEQ_IRQ_PEND. -/
def execInterruptInputEvent (n : Cl) (k : Fin 64) (s : State) : Out := onIsland n s <|
  .next (if s.ev.taskIn.contains (taskIrq n k) then (takeTask (taskIrq n k) s).modCl n (irqRaise k) else s)

/-- What a taken event leaves behind: its own pending mark is gone. -/
def asyncTaken (vec : Nat) (c : Cluster) : Cluster :=
  evcEvent 0x11 1 (if vec = 1 then { c with mcheck := none, mcVec := false } else if vec = 8 then { c with vexc := false } else c)

/-- INTERRUPT_TAKEN (R257, R258): a synchronous trap that the next word is known to take comes first. -/
def interruptTaken (n : Cl) (s0 : State) : State :=
  let s := closePair n s0
  let c := s.cl n
  if !seqOn n s ∨ faultStopped c ∨ seqHalted c then s0
  else if c.lateFault.isSome then (lateTrap n s).getD s0
  else if !asyncPermitted c then s0
  else match asyncNext c with
  | none => s0
  | some e =>
    if 0x4000 ≤ c.pc.toNat ∧ !c.waiting ∧ c.vsync.isNone then fetchFault n s
    else match enterVector n e.1 e.2.1 e.2.2 c.pc s with
    | none => s0
    | some t => t.modCl n fun d => { asyncTaken e.1 d with stepping := c.stepping }

/-- INTERRUPT_TAKEN (R257). -/
def execInterruptTaken (n : Cl) (s : State) : Out := .next (interruptTaken n s)

/-- WATCHDOG_EXPIRY (R263, R264): COUNT has reached LIMIT. -/
def execWatchdogExpiry (n : Cl) (s : State) : Out :=
  let c := s.cl n
  .next (if !faultStopped c && decide (ioFld 0x1D 7 0 c ≤ ioFld 0x1D 15 8 c) then faultStop n 4 s else s)

/-! ## The window engine (R268, R269) -/

/-- WSAVE_CAP (R251). -/
def wsaveCap (c : Cluster) : CapV := smAt CapV.null c.special 1

/-- Results under way to a window reach it. -/
def landWin (k : Nat) (c : Cluster) : Cluster :=
  let mine (w : RegWrite) : Bool := match w.reg with | .win j _ => j == k | _ => false
  (c.due.filter mine).foldl landReg { c with due := c.due.filter fun w => !mine w }

/-- The registers x0–x7 of a window. -/
def winWords (k : Nat) (c : Cluster) : List Word := (List.range 8).map fun r => xBank c (.win k r)

/-- Store a window at SEQ_WSP under WSAVE_CAP and move SEQ_WSP (R268). -/
def spillStore (n : Cl) (k : Nat) (s0 : State) : StoreRes :=
  let s := s0.modCl n (landWin k)
  let c := s.cl n
  let cap := wsaveCap c
  if !cap.valid then .fault 0x01 s
  else if !capHas cap.bits permWS then .fault 0x03 s
  else match directStore n cap (ioGet 0x19 c) (winWords k c) s with
  | .ok t => .ok (t.modCl n fun d => evcEvent 0x12 1 (ioPut 0x19 (ioGet 0x19 d + 8) d))
  | r => r

/-- Load a window from below SEQ_WSP under WSAVE_CAP and move SEQ_WSP (R268). -/
def fillLoad (n : Cl) (k : Nat) (s0 : State) : StoreRes :=
  let s := s0.modCl n (landWin k)
  let c := s.cl n
  let cap := wsaveCap c
  let a := ioGet 0x19 c - 8
  if !cap.valid then .fault 0x01 s
  else if !capHas cap.bits permWS then .fault 0x03 s
  else match directLoad n cap a 8 s with
  | .held => .held
  | .fault d t => .fault d t
  | .ue t => .fault 0x0C t
  | .ok ws t => .ok (t.modCl n fun d =>
      evcEvent 0x12 1 (ioPut 0x19 a { d with
        win := ws.zipIdx.foldl (fun m p => smPut 0 m (8 * k + p.2) p.1) d.win }))

/-- The oldest resident window (R268). -/
def oldestWin (c : Cluster) : Nat := (cwp c + 8 - (wres c - 1)) % 8

/-- Whether the window engine runs: not in error, not at the fast level, the sequencer not in fault-stop (R266,
R269). -/
def windowsRun (n : Cl) (s : State) : Bool :=
  let c := s.cl n
  seqOn n s && !faultStopped c && !fastLevel c && !windowErr c

/-- WINDOW_SPILL (R268, R269). -/
def windowSpill (n : Cl) (s : State) : State :=
  let c := s.cl n
  if !windowsRun n s ∨ wres c ≤ 6 then s
  else match spillStore n (oldestWin c) s with
  | .ok t => t.modCl n fun d => ioSetFld 0x10 15 12 (wres c - 1) d
  | .held => s
  | .fault _ t => t.modCl n (ioSetBit 0x10 11 true)

/-- WINDOW_SPILL (R268). -/
def execWindowSpill (n : Cl) (s : State) : Out := .next (windowSpill n s)

/-- WINDOW_FILL (R268, R269). -/
def windowFill (n : Cl) (s : State) : State :=
  let c := s.cl n
  if !windowsRun n s ∨ 2 ≤ wres c ∨ !fillCovered n c then s
  else match fillLoad n ((cwp c + 8 - wres c) % 8) s with
  | .ok t => t.modCl n fun d => ioSetFld 0x10 15 12 (wres c + 1) d
  | .held => s
  | .fault _ t => t.modCl n (ioSetBit 0x10 11 true)

/-- WINDOW_FILL (R268). -/
def execWindowFill (n : Cl) (s : State) : Out := .next (windowFill n s)

/-! ## SWITCH (R270, R271) -/

/-- How the steps of SWITCH end: with the state, held, or at a trap of the SWITCH with its vector, slot, DETAIL and
information word. -/
inductive SwStep where
  | ok (s : State)
  | held
  | fail (vec slot detail : Nat) (info : Word) (s : State)

/-- The next step runs where the one before ended well. -/
def SwStep.andThen (r : SwStep) (f : State → SwStep) : SwStep :=
  match r with
  | .ok s => f s
  | x => x

/-- A store as a step of SWITCH. -/
def swStore (slot : Nat) (info : Word) : StoreRes → SwStep
  | .ok t => .ok t
  | .held => .held
  | .fault d t => .fail 4 slot d info t

/-- A capability of a switch record, with the permission it must hold (R271). -/
def recordCap (ws : List Word) (k perm : Nat) (s : State) : Except Nat CapV :=
  match loadCap s (capOfList (ws.drop k)) with
  | none => .error 0x07
  | some v => if !v.valid then .error 0x01 else if capHas v.bits perm then .ok v else .error 0x03

/-- Step 3 of R271: `k` resident windows spill, the oldest first, the current one last; windows already spilled before a
failure stay in the save area. -/
def swSpill (n : Cl) : Nat → State → SwStep
  | 0, s => .ok s
  | k + 1, s =>
    let c := s.cl n
    match spillStore n (oldestWin c) s with
    | .ok t => swSpill n k (t.modCl n fun d => if k = 0 then d else ioSetFld 0x10 15 12 (wres c - 1) d)
    | .held => .held
    | .fault d t => .fail 4 0 d (ioGet 0x19 c) t

/-- A failure after step 3: the current window, whose registers keep their values, counts as resident again. -/
def swUnspill (n : Cl) : SwStep → SwStep
  | .fail v sl d i t => .fail v sl d i (t.modCl n fun c => ioPut 0x19 (ioGet 0x19 c - 8) c)
  | r => r

/-- Whether the outgoing context has no FP area yet. -/
def swReserves (c : Cluster) : Bool := ioGet 0x1B c == 0xFFFFFF

/-- x15 as the outgoing record holds it: below the FP area that the SWITCH reserves. -/
def swOutSp (c : Cluster) : Word := if swReserves c then xBank c (.com 15) - 34 else xBank c (.com 15)

/-- The outgoing FPA (R271). -/
def swOutFpa (c : Cluster) : Word := if swReserves c then xBank c (.com 15) - 34 else ioGet 0x1B c

/-- Step 4 of R271: the FP area is reserved, with marker 0. -/
def swReserve (n : Cl) (s : State) : SwStep :=
  let c := s.cl n
  let a := swOutFpa c
  if !swReserves c then .ok s
  else
    match dCheck n c (cGet c 15) a 34 permWR, capFault (cGet c 15) (capBase (cGet c 15).bits) 0 permSTK with
    | .error d, _ => .fail 4 15 d a s
    | _, some d => .fail 4 15 d a s
    | .ok _, none => swStore 15 a (directStore n (cGet c 15) (a + 33) [0] s)

/-- The outgoing record (R270). -/
def swRecord (resume : Word) (c : Cluster) : List Word :=
  [resume, statusWord c, swOutSp c, ioGet 0x19 c] ++ capWords (cGet c 15).bits ++ capWords (wsaveCap c).bits
    ++ [swOutFpa c, ioGet 0x4 c, ioGet 0x5 c, ioGet 0x6 c]

/-- Step 6 of R271: the incoming context's state in place of the outgoing one's. -/
def swCommit (ws : List Word) (recAddr : Word) (c15 wsave : CapV) (c : Cluster) : Cluster :=
  let w (i : Nat) : Word := ws.getD i 0
  let c1 := if ioBit 0x10 20 c then
      ioSetBit 0x10 19 true (ioPut 0x1C (swOutFpa c) { c with special := smPut CapV.null c.special 2 (cGet c 15) })
    else c
  let mine := ioBit 0x10 19 c1 && ioGet 0x1C c1 == w 12
  let c2 := ioSetBit 0x10 20 mine (if mine then ioSetBit 0x10 19 false c1 else c1)
  let c3 := ioPut 0x6 (w 15 &&& 0x803FFF) (ioPut 0x5 (w 14 &&& 0x003FFF) (ioPut 0x4 (w 13) c2))
  let c4 := ioPut 0x1A recAddr (ioPut 0x1B (w 12) (ioPut 0x19 (w 3) c3))
  let c5 := { c4 with
    loopLag := []
    com := smPut 0 c4.com 15 (w 2)
    cregs := smPut CapV.null c4.cregs 15 c15
    special := smPut CapV.null c4.special 1 wsave
    pc := w 0 }
  setIe (bitOf 23 (w 1)) (ioPut 0x2 ((w 1) &&& 0x1F) (ioSetFld 0x10 18 16 (fld 18 16 (w 1)) (ioSetFld 0x10 15 12 1 c5)))

/-- Step 7 of R271: window CWP fills, and the incoming context goes on at its resume PC; a failure of the fill raises
the window fault there. -/
def swFill (n : Cl) (s : State) : SeqRes :=
  let pc := (s.cl n).pc
  let jump : Option Jump := some ⟨pc, false⟩
  match fillLoad n (cwp (s.cl n)) s with
  | .ok t => .done t jump 0 none
  | .held => .hold
  | .fault _ t =>
    let u := wordDone n 1 jump 0 (t.modCl n (ioSetBit 0x10 11 true))
    .whole ((syncTrap n 9 0 0 0 pc u).getD u)

/-- Steps 2 to 6 of R271. -/
def swSteps (n : Cl) (rs : Reg) (s0 : State) : SwStep :=
  let a := xGet (s0.cl n) rs
  let cap := cGet (s0.cl n) rs
  let s := s0.modCl n landAll
  match directLoad n cap a 16 s with
  | .held => .held
  | .fault d t => .fail 4 rs d a t
  | .ue t => .fail 4 rs 0x0C a (loadCheck n rs a t)
  | .ok ws t =>
    match recordCap ws 4 permSTK t, recordCap ws 8 permWS t with
    | .error d, _ => .fail 6 15 d a (if d = 0x07 then tagFailed t else t)
    | _, .error d => .fail 6 0 d a (if d = 0x07 then tagFailed t else t)
    | .ok c15, .ok wsave =>
      (swSpill n (wres (t.cl n)) t).andThen fun u =>
        (swUnspill n ((swReserve n u).andThen fun v =>
          let c := v.cl n
          swStore rs (ioGet 0x1A c) (directStore n cap (ioGet 0x1A c) (swRecord (c.pc + 1) c) v))).andThen fun v =>
          .ok (v.modCl n (swCommit ws a c15 wsave))

/-- SWITCH (R271): rs odd, or ACT = 1, is illegal. -/
def switchRes (n : Cl) (rs : Reg) (s : State) : SeqRes :=
  let c := s.cl n
  if rs.val % 2 = 1 ∨ ioBit 0x10 21 c then illegal (longWord 0x24 0 rs 0x40) s
  else if !c.sbuf.isEmpty then .hold
  else match swSteps n rs s with
  | .held => .hold
  | .fail vec slot d info t => .trap vec slot d info t
  | .ok t => swFill n t

/-- SWITCH (R271). -/
def execSwitch (n : Cl) (rs : Reg) (s : State) : Out := .next (issue n {} (fun _ t => switchRes n rs t) s)

end Sys2Proof.Machine
end

