-- ==== Sys2Proof/Machine/Transfers.lean ====
section
/-!
DEFINITION. Machine/Transfers.lean: the words that the 32 hub movers copy, their linked descriptors, and how a
transfer ends or is aborted (spec/06_store_and_ownership.md R204–R208).
The model's own choices and readings (DEDUCED, DESIGN CHOICE, PRESUMED) are log entries 3, 39 to 41.
-/
namespace Sys2Proof.Machine

/-- The hub-matrix master of a channel (R20, R204). -/
def mvMaster (c : Mover) : Master := if c.val < 16 then .moverLo else .moverHi

/-- The address of word `w` of row `r` of an extent (R204). -/
def mvAddr (a : GAddr) (str : Word) (r w : Nat) : Nat := ((a.toNat : Int) + r * str.toInt + w).toNat

/-- The words of a descriptor as pairs of source and destination, in the order they are copied (R204). -/
def mvWords (d : MoverSt) : List (Nat × Nat) :=
  (List.range d.rows.toNat).flatMap fun r =>
    (List.range d.len.toNat).map fun w => (mvAddr d.src d.sstr r w, mvAddr d.dst d.dstr r w)

/-- The stop code of an access that does not deliver its word (R187, R202, R205, R393). -/
def mvCode : Acc → BitVec 4
  | .refused => 3
  | .ue => 5
  | _ => 4

/-- How copying words ends: all copied, at an error, or at a word that waits for its owner (R181). -/
inductive TransferEnd where
  | copied
  | stop (code : BitVec 4)
  | held
deriving DecidableEq, Repr

/-- Whether an address is one of memory: a word there reads as it was written. -/
def plainWord (a : Nat) : Bool :=
  match regionOf a with
  | .hub _ => false
  | .host _ => false
  | .unmapped => false
  | _ => true

/-- The word that the transfer is still going to write at an address, found through at most `k` copies (R204). -/
def futureWord (rest : List (Nat × Nat)) (s : State) : Nat → Nat → Word
  | 0, a => memGet a s
  | k + 1, a =>
    match rest.find? (fun p => p.2 == a) with
    | some p => if plainWord p.1 then futureWord rest s k p.1 else memGet a s
    | none => memGet a s

/-- A source word that the transfer also writes is read as it was before or as it is after that write, which of the
two is free (R204): `old` the words written so far with what they held before. -/
def overlapWord (old : SMap (Option Word)) (rest : List (Nat × Nat)) (a : Nat) (v : Word) (s : State) : Word × State :=
  match smAt none old a with
  | some w => ((if Config.freeBit s.fresh then w else v), drawn s)
  | none =>
    if plainWord a && rest.any (fun p => p.2 == a) then
      ((if Config.freeBit s.fresh then v else futureWord rest s (Config.freeNat (s.fresh + 1)) a), drawn (drawn s))
    else (v, s)

/-- A run of copies (R204, R205): how it ends, the words written, what they held before, a word read that still waits to be
written, and the state. -/
structure MvRes where
  stop  : TransferEnd
  moved : Nat
  old   : SMap (Option Word)
  got   : Option Word
  s     : State

/-- Read a source word of a transfer (R204, R205). -/
def mvRead (m : Master) (old : SMap (Option Word)) (rest : List (Nat × Nat)) (a : Nat) (s : State) : Acc × State :=
  match wordRead m .mover a s with
  | (.ok v, t) => (.ok (overlapWord old rest a v t).1, (overlapWord old rest a v t).2)
  | x => x

/-- Copy words in order, from a word on that was read before where there is one (R204, R205). -/
def mvCopy (m : Master) (cap : CapV) :
    List (Nat × Nat) → SMap (Option Word) → Option Word → Nat → State → MvRes
  | [], old, got, k, s => ⟨.copied, k, old, got, s⟩
  | (a, b) :: rest, old, got, k, s =>
    match (match got with | some v => (Acc.ok v, s) | none => mvRead m old rest a s) with
    | (.ok v, t) =>
      let old1 := if plainWord b && (smAt none old b).isNone then smPut none old b (some (memGet b t)) else old
      (match wordWrite m .mover cap b v t with
       | (.ok _, u) => mvCopy m cap rest old1 none (k + 1) u
       | (.held, u) => ⟨.held, k, old, some v, u⟩
       | (x, u) => ⟨.stop (mvCode x), k, old, none, u⟩)
    | (.held, t) => ⟨.held, k, old, none, t⟩
    | (x, t) => ⟨.stop (mvCode x), k, old, none, t⟩

/-- The first `k` words of a descriptor were written, each of its rows in one go (R193, R202). -/
def mvWhole (d : MoverSt) (k : Nat) (s : State) : State :=
  (List.range d.rows.toNat).foldl (fun t r =>
    wrote ((List.range (min d.len.toNat (k - r * d.len.toNat))).map (mvAddr d.dst d.dstr r ·)) t) s

/-- Go on with the descriptor in hand: with all its words, or with as many as the bound says. -/
def mvRun (c : Mover) (d : MoverSt) (bound : Option Nat) (s : State) : MvRes :=
  let cap := mvCap c.val 0x10 s
  let ws := (mvWords d).drop d.moved
  let r := mvCopy (mvMaster c) cap.1 (match bound with | none => ws | some k => ws.take k) d.old d.got d.moved cap.2
  { r with s := if r.stop = .held then r.s else mvWhole d r.moved r.s }

/-- The channel waits with what it has done so far (R181, R358). -/
def mvWait (c : Mover) (d : MoverSt) (r : MvRes) : State :=
  mvPut c.val (some { d with moved := r.moved, old := r.old, got := r.got }) r.s

/-- DONE: the words written by the last transfer. -/
def mvSetDone (c k : Nat) (s : State) : State := hubPutPair (mvReg c + 0x14) (BitVec.ofNat 48 k) s

/-- The words of the linked descriptor at an address, or the stop code (R207). -/
def linkWords (m : Master) : Nat → Nat → State → Except (Option (BitVec 4)) (List Word) × State
  | _, 0, s => (.ok [], s)
  | a, k + 1, s =>
    match wordRead m .mover a s with
    | (.ok v, t) =>
      (match linkWords m (a + 1) k t with
       | (.ok ws, u) => (.ok (v :: ws), u)
       | x => x)
    | (.held, t) => (.error none, t)
    | (.refused, t) => (.error (some 6), t)
    | (x, t) => (.error (some (mvCode x)), t)

/-- A linked descriptor out of its 11 words; none with reserved bits in its flag word (R207). -/
def linkDesc (ws : List Word) : Option MoverSt :=
  let a (i : Nat) : GAddr := (ws.getD (i + 1) 0).extractLsb' 0 16 ++ ws.getD i 0
  let f := ws.getD 8 0
  if f.toNat / 4 ≠ 0 then none
  else some ⟨a 0, a 2, ws.getD 4 0, ws.getD 5 0, ws.getD 6 0, ws.getD 7 0, bitOf 1 f, bitOf 0 f, a 9, none, 0, [], none⟩

/-- The channel reads the descriptor at NEXT, which must lie within SCAP's extent, and starts it (R205, R207);
unchanged while a word waits for its owner. -/
def mvLink (c : Mover) (d : MoverSt) (s : State) : State :=
  let cap := mvCap c.val 0xC s
  if !extentOk cap.1 (d.nxt.toNat, d.nxt.toNat + 11) permRD then mvStop c.val 6 cap.2
  else match linkWords (mvMaster c) d.nxt.toNat 11 cap.2 with
  | (.error none, _) => s
  | (.error (some code), t) => mvStop c.val code t
  | (.ok ws, t) =>
    match linkDesc ws with
    | none => mvStop c.val 6 t
    | some e =>
      let r := mvCheck c.val e t
      match r.1 with
      | some code => mvStop c.val code (mvSetDone c.val 0 r.2)
      | none => mvPut c.val (some e) r.2

/-- An aborted transfer has copied a free number of its words, up to the word in flight where one waits, and stops with CODE
0x7 (R206). The service-path pause lets no further word go (R481). -/
def mvAborted (c : Mover) (d : MoverSt) (s : State) : State :=
  let r := mvRun c d (some (if d.got.isSome then 1 else if servicePause s then 0 else Config.freeNat s.fresh)) (drawn s)
  match r.stop with
  | .stop code => mvStop c.val code (mvSetDone c.val r.moved r.s)
  | .held => mvWait c { d with stop := some 7 } r
  | .copied => mvStop c.val 7 (mvSetDone c.val r.moved r.s)

/-- The descriptor in hand of channel `c` completes (R204–R208): its words are copied, and the channel stops with an
error, goes on to its next descriptor, or is done. It waits where the service-path pause holds, a word waits for its owner
(R181, R481), or a packet queue holds its write (R358). -/
def mvTransfer (c : Mover) (s : State) : State :=
  match mvHand c.val s with
  | none => s
  | some d =>
    if d.stop.isSome then mvAborted c d s
    else if servicePause s then s
    else
      let r := mvRun c d none s
      match r.stop with
      | .held => mvWait c d r
      | .stop code => mvStop c.val code (mvSetDone c.val r.moved r.s)
      | .copied =>
        if d.link then mvLink c d (mvSetDone c.val r.moved (mvWait c d r))
        else mvDone c.val d.irq (mvSetDone c.val r.moved r.s)

/-- MOVER_TRANSFER_DONE (R204–R208): a list takes one command for each of its descriptors. -/
def execMoverTransferDone (c : Mover) (s : State) : Out := awake s <| .next (mvTransfer c s)

/-- MOVER_ABORT (R206): a running transfer stops with CODE 0x7, an armed channel is disarmed. -/
def execMoverAbort (c : Mover) (s : State) : Out := awake s <|
  match mvHand c.val s with
  | some d => .next (mvAborted c d s)
  | none => .next (mvAbortMark c.val s)

end Sys2Proof.Machine
end

