-- ==== Sys2Proof/Machine/Supplies.lean ====
section
/-!
DEFINITION. Machine/Supplies.lean: the supplies, the service-path pause as it begins, and the temperature
(spec/18_modes_power_startup.md R478–R484).
The model's own choices and readings (DEDUCED, DESIGN CHOICE, PRESUMED) are log entries 41, 61 and 68.
-/
namespace Sys2Proof.Machine

/-! ## Supplies (R478–R481) -/

/-- The warning level of a rail in mV (R478). -/
def railWarn (r : Nat) : Nat :=
  if r < 8 then 700 else [750, 750, 1050, 380, 850, 1140, 1700].getD (r - 8) 0

/-- The reset level of a rail in mV (R478). -/
def railReset (r : Nat) : Nat :=
  if r < 8 then 660 else [710, 710, 1000, 360, 800, 1080, 1620].getD (r - 8) 0

/-- The service-path pause begins (R481): a hub mover with a descriptor in hand has issued a free number of its words so far. -/
def pauseBegins (s : State) : State :=
  if servicePause s then s
  else (List.finRange 32).foldl (fun t c =>
    match mvHand c.val t with
    | none => t
    | some d =>
      if d.stop.isSome ∨ d.got.isSome then t
      else
        let r := mvRun c d (some (Config.freeNat t.fresh)) (drawn t)
        match r.stop with
        | .stop code => mvStop c.val code (mvSetDone c.val r.moved r.s)
        | _ => mvWait c d r) s

/-- RAIL_WARNING (R479): the rail has been below its warning level for 20 ns. -/
def execRailWarning (r : Rail) (mv : BitVec 16) (s : State) : Out :=
  if railWarn r.val ≤ mv.toNat ∨ !powered s then .next s
  else
    let t := hubSetFld (railReg r.val) 15 0 mv.toNat (pauseBegins s)
    .next (if hubBit (railReg r.val) 23 s then t
      else fire (0xC40 + r.val) (odCount 0xC0D0 0 (hubSetBit (railReg r.val) 22 true (hubSetBit (railReg r.val) 23 true t))))

/-- RAIL_WARNING_END (R478, R479): the rail has been above its warning level for 10 µs. -/
def execRailWarningEnd (r : Rail) (mv : BitVec 16) (s : State) : Out :=
  if mv.toNat ≤ railWarn r.val ∨ !powered s then .next s
  else
    let t := hubSetFld (railReg r.val) 15 0 mv.toNat s
    .next (if hubBit (railReg r.val) 23 s then fire 0xC65 (hubSetBit (railReg r.val) 23 false t) else t)

/-- RAIL_RESET_LEVEL (R480): below the reset level for 100 ns; the source fires, then the device is cold reset. A rail at 0 mV
is power removed (R464; DESIGN CHOICE, log entry 61). -/
def execRailResetLevel (r : Rail) (mv : BitVec 16) (strap : Bool) (flash : Flash) (s : State) : Out :=
  if mode s = 0 ∨ railReset r.val ≤ mv.toNat then .next s
  else if mv = 0 then .next (powerOff s)
  else if s.pwr.trip then .next s
  else .next (coldReset strap flash (fire (0xC50 + r.val) s))

/-! ## Temperature (R482–R484) -/

/-- At 115 °C the device is held in cold reset, THERMTRIP_N low (R483). -/
def tjTrip (s : State) : State :=
  let t := deviceReset s
  { t with pwr := { t.pwr with trip := true }, jtag := { t.jtag with thermtrip := true } }

/-- The samples as PWR_TEMPs holds them: an invalid sensor keeps its value (R482; DESIGN CHOICE, log entry 61). -/
def putTemps (ts : List (Option Word)) (s : State) : State :=
  let t := hubPuts 0x60030 ((List.range ts.length).map fun i => (ts.getD i none).getD (hubGet (0x60030 + i) s)) s
  { t with pwr := { t.pwr with tempBad := (List.range ts.length).filter fun i => (ts.getD i none).isNone } }

/-- THERMAL_SAMPLE (R482–R484): a sample for each sensor that is valid, from sensor 0 on. -/
def execThermalSample (temps : List (Option Word)) (s : State) : Out := awake s <|
  let ts := temps.take 40
  match hottest (ts.filterMap id) with
  | none => .next (putTemps ts s)
  | some x =>
    if 115 * 16 ≤ x then .next (tjTrip s)
    else
      let s1 := putTemps ts s
      let w : Int := (hubFld 0x60058 23 16 s1 : Nat)
      let warn := hubBit 0x60058 14 s1
      let high := hubBit 0x60058 15 s1
      let s2 :=
        if !warn && decide (w * 16 ≤ x) then
          fire 0xC60 (odCount 0xC0D1 0 (hubSetBit 0x60058 0 true (hubSetBit 0x60058 14 true (pauseBegins s1))))
        else if warn && decide (x < (w - 3) * 16) then fire 0xC62 (hubSetBit 0x60058 14 false s1)
        else s1
      .next (
        if !high && decide (105 * 16 ≤ x) then
          requestSafe (fire 0xC61 (hubSetBit 0x60058 1 true (hubSetBit 0x60058 15 true s2)))
        else if high && decide (x < 102 * 16) then hubSetBit 0x60058 15 false s2
        else s2)

end Sys2Proof.Machine
end

