-- ==== Sys2Proof/Machine/Ticks.lean ====
section
/-!
DEFINITION. Machine/Ticks.lean: base ticks, the grid actions that take effect at a tick, base frame ticks, and what a
cluster island does at its tick edge (spec/02_time_and_frames.md R32–R69, spec/01_architecture.md R30,
spec/16_availability.md R425–R443, spec/18_modes_power_startup.md R464–R467).
The model's own choices and readings (DEDUCED, DESIGN CHOICE, PRESUMED) are log entries 5 and 20 to 24.
-/
namespace Sys2Proof.Machine

/-! ## Base ticks (R32, R38, R69, R467) -/

/-- Device time one base tick later (R32), moved by what aligns it to SYNC_IN while the grid is stopped (R65, log
entry 18). -/
def nextNs (s : State) : State :=
  let k := if gridRun s then 0 else s.tb.align
  { s with ns := s.ns + 1 + k, ticks := s.ticks + 1, tb := { s.tb with stepBeacon := decide (k ≠ 0), align := 0 } }

/-- Device time at the base tick (R32, R69): the value of a waiting STEP, else one ns more. A STEP that waits while the
grid runs is refused. -/
def advance (s : State) : State :=
  if !hubBit 0x100A 0 s then nextNs s
  else
    let t := hubSetBit 0x100A 0 false s
    if gridRun s then nextNs (tbFlag 5 t)
    else
      { t with ns := (hubTime 0x1004 s).extractLsb' 8 64, ticks := t.ticks + 1, tmc := dropCaptures t.tmc,
               tb := { t.tb with stepBeacon := true, align := 0 } }

/-- Entry to SAFE_OUTPUT at the first base tick after its trigger (R464, R467). -/
def safeEntry (s : State) : State :=
  if !s.pwr.safeDue then s
  else
    let t := { s with pwr := { s.pwr with safeDue := false } }
    let u := if modePend t = 9 then setModePend 0xF t else t
    if runsModels u then changeMode 9 u else u

/-- The level of the sync clock `x` grains after a mark (R64): a period of 10 ns, high for 5 ns, after a mark for
7 ns. -/
def syncClock (x : Nat) : Bool := decide (x % 2560 < if x < 2560 then 1792 else 1280)

/-- The repeat delay of SYNC_OUT in grains (R66): 2 ns ± 0.1 ns, fixed for one part. -/
def repeatDelay : Nat := 487 + Config.repeatDeviation % 51

/-- The level that SYNC_OUT drives: in master role the clock with its marks at multiples of 10 µs (R64); in follower
role with REPEAT the clock of SYNC_IN after the repeat delay, while SYNC_IN is present (R66); else low. -/
def syncOutLevel (s : State) : Bool :=
  decide (4 ≤ mode s) &&
    match hubFld 0x100D 1 0 s with
    | 1 => syncClock (s.ns.toNat % 10000 * 256)
    | 2 =>
      match s.tb.repeatMark with
      | some m =>
        let x : Nat := (s.ticks ++ (0#8)).toNat
        hubBit 0x100D 2 s && smAt false s.tb.refPresent 0 && decide (m.toNat + repeatDelay ≤ x)
          && syncClock (x - (m.toNat + repeatDelay))
      | none => false
    | _ => false

/-- A base tick. -/
def baseTick (s : State) : State :=
  if timeRuns s then
    let t := loopMonitor (safeEntry (syncFrame (firesDue (advance s))))
    { t with syncOut := syncOutLevel t }
  else s

/-- BASE_TICK (R32). -/
def execBaseTick (s : State) : Out := .next (baseTick s)

/-- TB_STEP_LOAD (R69): the base tick at which a waiting STEP loads TB_SET. -/
def execTbStepLoad (s : State) : Out := awake s <| .next (if hubBit 0x100A 0 s then baseTick s else s)

/-! ## Grid actions (R46–R49, R60–R63, R464) -/

/-- Whether the pending grid action is of this kind and takes effect at the current base tick. -/
def gridDueOf (k : GridKind) (s : State) : Bool :=
  gridDue s && (match s.tb.action with | some a => a.kind == k | none => false)

/-- RUN is entered, or RUN_DEGRADED while a degrade reason holds (R439). -/
def toRun (s : State) : State :=
  let t := changeMode (runMode s) s
  if runMode s = 7 then fire 0xC86 t else t

/-- No frame of a cluster awaits its commit point. -/
def noFrame (c : Cluster) : Cluster := { c with ran := false, lastCommit := none }

/-- What pre-open holds for the sets of a cluster is discarded. -/
def dropPreopen (c : Cluster) : Cluster :=
  (List.range 8).foldl (fun d k => putSet k { setOf k d with pre := none } d) c

/-- Apply a change to every cluster. -/
def eachCl (f : Cl → State → State) (s : State) : State := allCl.foldl (fun t n => f n t) s

/-- GRID_START_TICK (R48, R60, R182, R464): the grid runs, simulation time and PLOT_PHASE are 0, the device enters RUN; a
START without a waiting RUN request is cancelled. -/
def execGridStartTick (s : State) : Out := awake s <|
  if !gridDueOf .start s then .next s
  else
    let t := clearAction s
    if modePend t ≠ 6 then .next (tbFlag 8 t)
    else
      let u := hubPutPair 0x101A 0 (hubSetBit 0x100A 11 true { t with tb := { t.tb with startAt := some t.ticks } })
      .next (toRun (setModePend 0xF (eachCl (fun n v => (plotStart n v).modCl n noFrame) u)))

/-- The standing sets of a cluster that still run are abandoned; this is no missed deadline (R49, R110). -/
def stopSets (c : Cluster) : Cluster :=
  (List.range 8).foldl (fun d k => if setRunning k d then setAbandon k d else d) (dropPreopen (noFrame c))

/-- GRID_STOP_TICK (R49, R464): ARMED with safe outputs, running sets abandoned, GRID_RUN and HOLD_ACTIVE 0. -/
def execGridStopTick (s : State) : Out := awake s <|
  if !gridDueOf .stop s then .next s
  else
    let t := hubSetBit 0x100A 10 false (hubSetBit 0x100A 11 false (clearAction (clashFrame s)))
    let u := setModePend 0xF { t with pwr := { t.pwr with safeDue := false }, tb := { t.tb with slots := false } }
    .next (changeMode 5 (eachCl (fun n v => v.modCl n fun c => edgeRemap (stopSets c)) u))

/-- GRID_HOLD_TICK (R61, R62, R464): in SAFE_OUTPUT the mode stays. -/
def execGridHoldTick (s : State) : Out := awake s <|
  if !gridDueOf .hold s then .next s
  else
    let t := hubSetBit 0x100A 10 true (clearAction s)
    .next (if mode t = 6 ∨ mode t = 7 then changeMode 8 t else t)

/-- GRID_RESUME_TICK (R61, R63, R438, R464): in SAFE_OUTPUT the mode stays. -/
def execGridResumeTick (s : State) : Out := awake s <|
  if !gridDueOf .resume s then .next s
  else
    let t := pairRejoin (hubSetBit 0x100A 10 false (clearAction s))
    .next (if mode t = 8 then toRun t else t)

/-! ## Base frame ticks (R44, R60, R171, R439, R464, R465, R498) -/

/-- The return from SAFE_OUTPUT at a base frame tick (R464). -/
def safeReturn (s : State) : State :=
  if mode s = 9 ∧ (modePend s = 6 ∨ modePend s = 7 ∨ modePend s = 8) then
    let t := setModePend 0xF s
    if holdActive t then changeMode 8 t else toRun t
  else s

/-- The DEGR rule (R439). -/
def degrRule (s : State) : State :=
  if mode s = 6 ∧ runMode s = 7 then toRun s
  else if mode s = 7 ∧ runMode s = 6 then fire 0xC87 (changeMode 6 s)
  else s

/-- Simulation time advances at a base frame tick after the START tick, but not in a hold (R60). -/
def simTick (s : State) : State := if s.tb.startAt = some s.ticks ∨ holdActive s then s else hubCount 0x101A s

/-- The slot entries written since the last base frame tick take effect (R171). -/
def takeSlots (c : Cluster) : Cluster :=
  { c with fslot := (List.range 128).foldl (fun m x => smPut 0 m x (ioGet (0x200 + x) c)) [], clashTo := 0 }

/-- The frame tick reaches the island of a cluster and the event fabric (R44). An island that has not acknowledged its
last frame tick is a cause of failure (R425). -/
def tickCluster (k : Nat) (n : Cl) (s : State) : State :=
  if isFrameTick n k s then
    fire n.val (s.modCl n fun c => { c with tickAt := some k, failCause := c.failCause || (c.tickAt.isSome && !isolated n s) })
  else s

/-- A base frame tick. The clashes of the frame that ends are counted with the slots it had (R173); no slot of the next one is
reserved in a hold (R170). -/
def baseFrameTick (s : State) : State :=
  let r := clashFrame s
  let t := degrRule (safeReturn (simTick { r with tb := { r.tb with tickedAt := some s.ticks, slots := slotsReserved s } }))
  let u := eachCl (fun n v => v.modCl n takeSlots) (gcntSnap t)
  eachCl (tickCluster (frameOfTime s)) (fire 0x100 u)

/-- BASE_FRAME_TICK (R44): at a base frame tick of a running grid, after the grid action of the tick, once. -/
def execBaseFrameTick (s : State) : Out := awake s <|
  .next (if gridRun s && onGrid s && !gridDue s && s.tb.tickedAt != some s.ticks then baseFrameTick s else s)

/-! ## Deadlines (R54–R57, R425, R426) -/

/-- The exchange plots that the sets still running at their commit point write, with whether their policy holds the
plot (R56, R516). -/
def missedPlots (c : Cluster) : List (Nat × Bool) :=
  (List.range 8).flatMap fun k =>
    if setRunning k c then (setOf k c).plots.map fun p => (p, decide (ioFld (0x180 + k) 1 0 c ≠ 1)) else []

/-- The deadline of one set at its cluster's frame tick (R54–R56): true when RAISE_FAULT was raised. -/
def setDeadline (n : Cl) (r : Bool × State) (k : Nat) : Bool × State :=
  let c := r.2.cl n
  if !setRunning k c then r
  else
    let pol := ioFld (0x180 + k) 1 0 c
    let d := evcEvent 0x0F 1 (ioSetBit 0x188 k true (putSet k { setOf k c with missed := some (BitVec.ofNat 2 pol) } (setAbandon k c)))
    let t := odCount 0xC021 0 (r.2.putCl n d)
    if pol < 2 then (r.1, t)
    else
      let u := fire (0x600 + n.val) (t.modCl n (irqRaise 1))
      (true, if ioBit (0x180 + k) 2 c then requestSafe u else u)

/-- The deadlines of a cluster at its frame tick. DLF consecutive commit points with a deadline fault are a cause of
failure; faults do not count while another cluster's failover is open (R425, R426). -/
def deadlines (n : Cl) (s : State) : State :=
  let r := (List.range 8).foldl (setDeadline n) (false, s)
  if !r.1 then r.2.modCl n fun c => { c with dlf := 0 }
  else if allCl.any (fun m => decide (m ≠ n) && foOpen m r.2) then r.2
  else r.2.modCl n fun c =>
    { c with dlf := c.dlf + 1, failCause := c.failCause || decide (hubFld 0x50000 1 0 s ≤ c.dlf + 1) }

/-! ## Commit points (R50, R437, R516) -/

/-- The plots that missing sets hold or release in part at the commit point of VCn's frame; none where no frame's outputs
are released: no frame was executed, in a hold, in a failed cluster. -/
def commitOf (n : Cl) (s : State) : Option (List (Nat × Bool)) :=
  let c := s.cl n
  if c.ran && !holdActive s && !isolated n s && !c.failCause then some (missedPlots c) else none

/-- The same for the other member of a pair, whose tick edge may come before or after. -/
def partnerCommit (m : Cl) (s : State) : Option (List (Nat × Bool)) :=
  if isolated m s then none
  else if (s.cl m).tickAt.isSome then commitOf m s
  else (s.cl m).lastCommit

/-- How a member stands at a plot: it released nothing, met its deadlines (`none`), or missed one, with whether the plot
is held. -/
def plotMiss (x : Option (List (Nat × Bool))) (p : Nat) : Option (Option Bool) :=
  x.map fun ms => if ms.contains (p, true) then some true else if ms.contains (p, false) then some false else none

/-- Where the output readers of VCn take exchange plot `q` from (R437, R516). -/
def commitSrc (n : Cl) (own : Option (List (Nat × Bool))) (pair : Option (Cl × Option (List (Nat × Bool)))) : FillSrc :=
  fun q =>
    match plotMiss own (16 + q), pair with
    | some none, some (m, b) => if plotMiss b (16 + q) = some none then some (n, some m) else some (n, none)
    | some none, none => some (n, none)
    | a, some (m, b) =>
      match a, plotMiss b (16 + q) with
      | _, some none => some (m, none)
      | some (some false), _ => some (n, none)
      | none, some (some false) => some (m, none)
      | _, _ => none
    | some (some false), none => some (n, none)
    | _, none => none

/-- The output readers of VCn read their fills at a commit point; not in a mode with safe outputs (R50, R466). -/
def commitReads (n : Cl) (own : Option (List (Nat × Bool))) (pair : Option (Cl × Option (List (Nat × Bool)))) (s : State) : State :=
  if runsModels s && !holdActive s && (own.isSome || (pair.any fun p => p.2.isSome)) then
    let src := commitSrc n own pair
    netCommit n src (edgeCommit n src (linkCommit n src s))
  else s

/-! ## The tick edge (R30, R40, R185, R292, R419, R427) -/

/-- The frame watchdog at a frame tick (R264, R493). -/
def watchdogTick (c : Cluster) : Cluster :=
  let ie := ioBit 0x10 23 c
  let k := if (ie && !ioBit 0x10 22 c) || c.ieSeen then 0 else min 255 (ioFld 0x1D 15 8 c + 1)
  if seqHalted c then { c with ieSeen := ie } else { ioSetFld 0x1D 15 8 k c with ieSeen := ie }

/-- The sets that the tick fires, in ascending number (R101, R102); a set that does not fire drops what pre-open held. -/
def fireSets (n : Cl) (s : State) : State :=
  if setsStopped (s.cl n) then s.modCl n dropPreopen
  else (List.range 8).foldl (fun t k => if firesAtTick n k t (t.cl n) then setFire n k t
      else t.modCl n fun c => putSet k { setOf k c with pre := none } c) s

/-- The handovers of a tick with the fills that wait for them (R182, R185, R304). -/
def edgeHandover (n : Cl) (s : State) : State :=
  ingressOpen n (ingressBind n false (plotHandover n (ingressBind n true s)))

/-- A tick in a hold passes no plot; the fill windows go on (R62, R305). -/
def holdWindow (n : Cl) (s : State) : State := ingressOpen n (ingressBind n false (ingressBind n true s))

/-- Whether a commit point releases outputs whole: a member of the pair, or the cluster alone, executed its frame and met its
deadlines (R437). -/
def commitGood (own : Option (List (Nat × Bool))) (pair : Option (Cl × Option (List (Nat × Bool)))) : Bool :=
  own == some [] || pair.any fun p => p.2 == some []

/-- The tick of a failed cluster: the I/O side goes on, its fills reach the journal (R427, R430). -/
def failedEdge (n : Cl) (pair : Option (Cl × Option (List (Nat × Bool)))) (s : State) : State :=
  let t :=
    if holdActive s then holdWindow n s
    else
      let a := (ingressBind n true s).modCl n fun c =>
        { c with failover := c.failover.map fun f => { f with phase := (f.phase + 1) % 2 ^ 24 } }
      journalAppend n (ingressOpen n (ingressBind n false a))
  let u := commitReads n none pair t
  u.modCl n fun c => { c with
    tickAt := none, heldFor := if holdActive s || commitGood none pair then c.heldFor else c.heldFor + 1 }

/-- The tick edge of a cluster that works, behind its deadlines: `own` says what its commit point releases. -/
def liveEdge (n : Cl) (own : Option (List (Nat × Bool))) (pair : Option (Cl × Option (List (Nat × Bool)))) (s : State) : State :=
  let s2 := mirrorStart n (ucAtTick n (baseFrame s) s)
  if holdActive s then
    (holdWindow n s2).modCl n fun c => edgeRemap { watchdogTick (dropPreopen (noFrame c)) with tickAt := none }
  else
    let s3 := journalAppend n (paramApply n (edgeHandover n s2))
    let s4 := commitReads n own pair s3
    let s5 := if own.isSome then firstRelease n s4 else s4
    let s6 := fireSets n (swapAtTick n s5)
    s6.modCl n fun c => edgeRemap { watchdogTick (irqRaise 0 c) with
      tickAt := none, ran := true, lastCommit := own,
      heldFor := if commitGood own pair then 0 else if c.ran || c.failover.isSome then c.heldFor + 1 else c.heldFor }

/-- The tick of a lost cluster whose swap is due: the new model's sets fire (R443). -/
def swapLost (n : Cl) (s : State) : State :=
  let t := swapAtTick n s
  if isolated n t then t else (fireSets n t).modCl n fun c => { irqRaise 0 c with ran := true }

/-- CLUSTER_TICK_EDGE (R30, R40): the tick edge of an island that its frame tick has reached. A failure whose cause was
reported before, or with the deadlines of this tick, is declared (R425). -/
def execClusterTickEdge (n : Cl) (s : State) : Out :=
  let c := s.cl n
  let pair := (pairSecond n s).map fun m => (m, partnerCommit m s)
  if c.tickAt.isNone then .next s
  else if isolated n s then .next (swapLost n (failedEdge n pair s))
  else if !clocked n s then .next (s.putCl n { c with tickAt := none })
  else if c.failCause then .next (failedEdge n pair (declareFailed n s))
  else
    let t := deadlines n (evcSnap n s)
    .next (if (t.cl n).failCause then failedEdge n pair (declareFailed n t) else liveEdge n (commitOf n s) pair t)

end Sys2Proof.Machine
end

