-- ==== Sys2Proof/Machine/Dispatch.lean ====
section
/-!
DEFINITION. Machine/Dispatch.lean: the meaning of every command, one arm per row of
spec/opcode_table.json.
-/
namespace Sys2Proof.Machine

/-- A command's effect on everything but the queue. -/
def exec (i : Instr) (s : State) : Host.Outcome State Fault Refusal :=
  match i with
  | .coldReset cause strap flash => Sys2Proof.Machine.execColdReset cause strap flash s
  | .warmReset flash => Sys2Proof.Machine.execWarmReset flash s
  | .wake cause elapsed strap flash => Sys2Proof.Machine.execWake cause elapsed strap flash s
  | .baseTick => Sys2Proof.Machine.execBaseTick s
  | .localBaseTick n => Sys2Proof.Machine.execLocalBaseTick n s
  | .baseFrameTick => Sys2Proof.Machine.execBaseFrameTick s
  | .clusterTickEdge n => Sys2Proof.Machine.execClusterTickEdge n s
  | .preOpen n k => Sys2Proof.Machine.execPreOpen n k s
  | .gridStart => Sys2Proof.Machine.execGridStart s
  | .gridStop => Sys2Proof.Machine.execGridStop s
  | .gridHold => Sys2Proof.Machine.execGridHold s
  | .gridResume => Sys2Proof.Machine.execGridResume s
  | .gridStartTick => Sys2Proof.Machine.execGridStartTick s
  | .gridStopTick => Sys2Proof.Machine.execGridStopTick s
  | .gridHoldTick => Sys2Proof.Machine.execGridHoldTick s
  | .gridResumeTick => Sys2Proof.Machine.execGridResumeTick s
  | .tbStep => Sys2Proof.Machine.execTbStep s
  | .tbStepLoad => Sys2Proof.Machine.execTbStepLoad s
  | .tbSlewWrite v => Sys2Proof.Machine.execTbSlewWrite v s
  | .tbTimeW0Read m => Sys2Proof.Machine.execTbTimeW0Read m s
  | .tbLocalW0Read n => Sys2Proof.Machine.execTbLocalW0Read n s
  | .tbFrameW0Read m => Sys2Proof.Machine.execTbFrameW0Read m s
  | .tbSimW0Read m => Sys2Proof.Machine.execTbSimW0Read m s
  | .syncInMark arrival => Sys2Proof.Machine.execSyncInMark arrival s
  | .referenceLoss r => Sys2Proof.Machine.execReferenceLoss r s
  | .referenceRevert => Sys2Proof.Machine.execReferenceRevert s
  | .sysrefPulse o => Sys2Proof.Machine.execSysrefPulse o s
  | .sysrefGo => Sys2Proof.Machine.execSysrefGo s
  | .orderIssueQueue n ord => Sys2Proof.Machine.execOrderIssueQueue n ord s
  | .orderIssueFence n ord => Sys2Proof.Machine.execOrderIssueFence n ord s
  | .orderAppend n ord => Sys2Proof.Machine.execOrderAppend n ord s
  | .orderIssueNotify n ord => Sys2Proof.Machine.execOrderIssueNotify n ord s
  | .groupStart n g => Sys2Proof.Machine.execGroupStart n g s
  | .groupComplete n g => Sys2Proof.Machine.execGroupComplete n g s
  | .groupRestart n g => Sys2Proof.Machine.execGroupRestart n g s
  | .heldExceptionRecord n => Sys2Proof.Machine.execHeldExceptionRecord n s
  | .writeBufferDrain n g => Sys2Proof.Machine.execWriteBufferDrain n g s
  | .vadd n g => Sys2Proof.Machine.execVadd n g s
  | .vsub n g => Sys2Proof.Machine.execVsub n g s
  | .vrsub n g => Sys2Proof.Machine.execVrsub n g s
  | .vadds n g => Sys2Proof.Machine.execVadds n g s
  | .vabs n g => Sys2Proof.Machine.execVabs n g s
  | .vneg n g => Sys2Proof.Machine.execVneg n g s
  | .vmin n g => Sys2Proof.Machine.execVmin n g s
  | .vmax n g => Sys2Proof.Machine.execVmax n g s
  | .vcmp n g => Sys2Proof.Machine.execVcmp n g s
  | .vsel n g => Sys2Proof.Machine.execVsel n g s
  | .vclmp n g => Sys2Proof.Machine.execVclmp n g s
  | .vmul n g => Sys2Proof.Machine.execVmul n g s
  | .vmuls n g => Sys2Proof.Machine.execVmuls n g s
  | .vfma n g => Sys2Proof.Machine.execVfma n g s
  | .vfms n g => Sys2Proof.Machine.execVfms n g s
  | .vaxpy n g => Sys2Proof.Machine.execVaxpy n g s
  | .vrcp n g => Sys2Proof.Machine.execVrcp n g s
  | .vdiv n g => Sys2Proof.Machine.execVdiv n g s
  | .vsqrt n g => Sys2Proof.Machine.execVsqrt n g s
  | .vrsqrt n g => Sys2Proof.Machine.execVrsqrt n g s
  | .vand n g => Sys2Proof.Machine.execVand n g s
  | .vor n g => Sys2Proof.Machine.execVor n g s
  | .vxor n g => Sys2Proof.Machine.execVxor n g s
  | .vnot n g => Sys2Proof.Machine.execVnot n g s
  | .vshl n g => Sys2Proof.Machine.execVshl n g s
  | .vshr n g => Sys2Proof.Machine.execVshr n g s
  | .vsar n g => Sys2Proof.Machine.execVsar n g s
  | .vcvt n g => Sys2Proof.Machine.execVcvt n g s
  | .vmov n g => Sys2Proof.Machine.execVmov n g s
  | .vfill n g => Sys2Proof.Machine.execVfill n g s
  | .mld n g => Sys2Proof.Machine.execMld n g s
  | .mst n g => Sys2Proof.Machine.execMst n g s
  | .mcnt n g => Sys2Proof.Machine.execMcnt n g s
  | .rsum n g => Sys2Proof.Machine.execRsum n g s
  | .rdot n g => Sys2Proof.Machine.execRdot n g s
  | .rsumsq n g => Sys2Proof.Machine.execRsumsq n g s
  | .rmax n g => Sys2Proof.Machine.execRmax n g s
  | .rmin n g => Sys2Proof.Machine.execRmin n g s
  | .rimax n g => Sys2Proof.Machine.execRimax n g s
  | .rsegdot n g => Sys2Proof.Machine.execRsegdot n g s
  | .rsegsum n g => Sys2Proof.Machine.execRsegsum n g s
  | .viota n g => Sys2Proof.Machine.execViota n g s
  | .vcmpr n g => Sys2Proof.Machine.execVcmpr n g s
  | .vexpd n g => Sys2Proof.Machine.execVexpd n g s
  | .vintp n g => Sys2Proof.Machine.execVintp n g s
  | .setBuildOpen n k start preopen => Sys2Proof.Machine.execSetBuildOpen n k start preopen s
  | .setBuildClose n k => Sys2Proof.Machine.execSetBuildClose n k s
  | .setArm n k => Sys2Proof.Machine.execSetArm n k s
  | .setDisarm n k => Sys2Proof.Machine.execSetDisarm n k s
  | .sdescCmd n k d => Sys2Proof.Machine.execSdescCmd n k d s
  | .setFireEvent n k => Sys2Proof.Machine.execSetFireEvent n k s
  | .vuConfClear n => Sys2Proof.Machine.execVuConfClear n s
  | .vuConfW0Read n k1 => Sys2Proof.Machine.execVuConfW0Read n k1 s
  | .vuFslotClashW0Read n => Sys2Proof.Machine.execVuFslotClashW0Read n s
  | .shortMov n sl rd sf => Sys2Proof.Machine.execShortMov n sl rd sf s
  | .shortAdd n sl rd sf => Sys2Proof.Machine.execShortAdd n sl rd sf s
  | .shortSub n sl rd sf => Sys2Proof.Machine.execShortSub n sl rd sf s
  | .shortAnd n sl rd sf => Sys2Proof.Machine.execShortAnd n sl rd sf s
  | .shortOr n sl rd sf => Sys2Proof.Machine.execShortOr n sl rd sf s
  | .shortXor n sl rd sf => Sys2Proof.Machine.execShortXor n sl rd sf s
  | .shortAddi n sl rd sf => Sys2Proof.Machine.execShortAddi n sl rd sf s
  | .shortSubi n sl rd sf => Sys2Proof.Machine.execShortSubi n sl rd sf s
  | .shortShli n sl rd sf => Sys2Proof.Machine.execShortShli n sl rd sf s
  | .shortShri n sl rd sf => Sys2Proof.Machine.execShortShri n sl rd sf s
  | .shortSari n sl rd sf => Sys2Proof.Machine.execShortSari n sl rd sf s
  | .shortMovi n sl rd sf => Sys2Proof.Machine.execShortMovi n sl rd sf s
  | .shortCmp n sl rd sf => Sys2Proof.Machine.execShortCmp n sl rd sf s
  | .shortSkip n sl cond => Sys2Proof.Machine.execShortSkip n sl cond s
  | .brs n cond sf hint => Sys2Proof.Machine.execBrs n cond sf hint s
  | .nop n sl => Sys2Proof.Machine.execNop n sl s
  | .aluAdd n rd rs rt => Sys2Proof.Machine.execAluAdd n rd rs rt s
  | .aluSub n rd rs rt => Sys2Proof.Machine.execAluSub n rd rs rt s
  | .aluAnd n rd rs rt => Sys2Proof.Machine.execAluAnd n rd rs rt s
  | .aluOr n rd rs rt => Sys2Proof.Machine.execAluOr n rd rs rt s
  | .aluXor n rd rs rt => Sys2Proof.Machine.execAluXor n rd rs rt s
  | .aluAndn n rd rs rt => Sys2Proof.Machine.execAluAndn n rd rs rt s
  | .aluShl n rd rs rt => Sys2Proof.Machine.execAluShl n rd rs rt s
  | .aluShr n rd rs rt => Sys2Proof.Machine.execAluShr n rd rs rt s
  | .aluSar n rd rs rt => Sys2Proof.Machine.execAluSar n rd rs rt s
  | .aluRol n rd rs rt => Sys2Proof.Machine.execAluRol n rd rs rt s
  | .aluMin n rd rs rt => Sys2Proof.Machine.execAluMin n rd rs rt s
  | .aluMax n rd rs rt => Sys2Proof.Machine.execAluMax n rd rs rt s
  | .aluMinu n rd rs rt => Sys2Proof.Machine.execAluMinu n rd rs rt s
  | .aluMaxu n rd rs rt => Sys2Proof.Machine.execAluMaxu n rd rs rt s
  | .aluSlt n rd rs rt => Sys2Proof.Machine.execAluSlt n rd rs rt s
  | .aluSltu n rd rs rt => Sys2Proof.Machine.execAluSltu n rd rs rt s
  | .aluAdds n rd rs rt => Sys2Proof.Machine.execAluAdds n rd rs rt s
  | .aluAddx n rd rs rt => Sys2Proof.Machine.execAluAddx n rd rs rt s
  | .aluSubs n rd rs rt => Sys2Proof.Machine.execAluSubs n rd rs rt s
  | .aluSubx n rd rs rt => Sys2Proof.Machine.execAluSubx n rd rs rt s
  | .aluClz n rd rs => Sys2Proof.Machine.execAluClz n rd rs s
  | .aluPopc n rd rs => Sys2Proof.Machine.execAluPopc n rd rs s
  | .addi n rd rs imm => Sys2Proof.Machine.execAddi n rd rs imm s
  | .andi n rd rs imm => Sys2Proof.Machine.execAndi n rd rs imm s
  | .ori n rd rs imm => Sys2Proof.Machine.execOri n rd rs imm s
  | .xori n rd rs imm => Sys2Proof.Machine.execXori n rd rs imm s
  | .shiShl n rd rs count => Sys2Proof.Machine.execShiShl n rd rs count s
  | .shiShr n rd rs count => Sys2Proof.Machine.execShiShr n rd rs count s
  | .shiSar n rd rs count => Sys2Proof.Machine.execShiSar n rd rs count s
  | .shiRol n rd rs count => Sys2Proof.Machine.execShiRol n rd rs count s
  | .cmp n rs rt => Sys2Proof.Machine.execCmp n rs rt s
  | .cmpi n rs imm => Sys2Proof.Machine.execCmpi n rs imm s
  | .lil n rd imm => Sys2Proof.Machine.execLil n rd imm s
  | .lis n rd imm => Sys2Proof.Machine.execLis n rd imm s
  | .lih n rd imm => Sys2Proof.Machine.execLih n rd imm s
  | .ld n rd rs imm => Sys2Proof.Machine.execLd n rd rs imm s
  | .ldd n rd rs imm => Sys2Proof.Machine.execLdd n rd rs imm s
  | .st n rd rs imm => Sys2Proof.Machine.execSt n rd rs imm s
  | .std n rd rs imm => Sys2Proof.Machine.execStd n rd rs imm s
  | .ldf n fd rs imm => Sys2Proof.Machine.execLdf n fd rs imm s
  | .stf n fd rs imm => Sys2Proof.Machine.execStf n fd rs imm s
  | .ldv n vd rs imm => Sys2Proof.Machine.execLdv n vd rs imm s
  | .stv n vd rs imm => Sys2Proof.Machine.execStv n vd rs imm s
  | .trd n rd rs imm => Sys2Proof.Machine.execTrd n rd rs imm s
  | .sync n => Sys2Proof.Machine.execSync n s
  | .ioIn n rd io => Sys2Proof.Machine.execIoIn n rd io s
  | .ioOut n rd io => Sys2Proof.Machine.execIoOut n rd io s
  | .ioInr n rd rs imm => Sys2Proof.Machine.execIoInr n rd rs imm s
  | .ioOutr n rd rs imm => Sys2Proof.Machine.execIoOutr n rd rs imm s
  | .storeBufferDrain n => Sys2Proof.Machine.execStoreBufferDrain n s
  | .bra n off => Sys2Proof.Machine.execBra n off s
  | .call n off => Sys2Proof.Machine.execCall n off s
  | .bc n cond hint off => Sys2Proof.Machine.execBc n cond hint off s
  | .link n off => Sys2Proof.Machine.execLink n off s
  | .jr n rs => Sys2Proof.Machine.execJr n rs s
  | .callr n rs => Sys2Proof.Machine.execCallr n rs s
  | .linkr n rs => Sys2Proof.Machine.execLinkr n rs s
  | .ret n => Sys2Proof.Machine.execRet n s
  | .retl n => Sys2Proof.Machine.execRetl n s
  | .skip n cond => Sys2Proof.Machine.execSkip n cond s
  | .skb n rs sense bit => Sys2Proof.Machine.execSkb n rs sense bit s
  | .loop n rs len => Sys2Proof.Machine.execLoop n rs len s
  | .loopi n count len => Sys2Proof.Machine.execLoopi n count len s
  | .sys n service => Sys2Proof.Machine.execSys n service s
  | .clrIe n => Sys2Proof.Machine.execClrIe n s
  | .setIe n => Sys2Proof.Machine.execSetIe n s
  | .reti n => Sys2Proof.Machine.execReti n s
  | .sret n => Sys2Proof.Machine.execSret n s
  | .switch n rs => Sys2Proof.Machine.execSwitch n rs s
  | .wait n => Sys2Proof.Machine.execWait n s
  | .vsync n => Sys2Proof.Machine.execVsync n s
  | .drd n rd d w => Sys2Proof.Machine.execDrd n rd d w s
  | .dwr n d rs w => Sys2Proof.Machine.execDwr n d rs w s
  | .dadd n d rs => Sys2Proof.Machine.execDadd n d rs s
  | .dld n d rs imm => Sys2Proof.Machine.execDld n d rs imm s
  | .dsto n d rs imm => Sys2Proof.Machine.execDsto n d rs imm s
  | .cld n cd rs imm => Sys2Proof.Machine.execCld n cd rs imm s
  | .cst n cd rs imm => Sys2Proof.Machine.execCst n cd rs imm s
  | .cbnd n cd cs rt sc => Sys2Proof.Machine.execCbnd n cd cs rt sc s
  | .cperm n cd cs rt => Sys2Proof.Machine.execCperm n cd cs rt s
  | .cmov n cd cs => Sys2Proof.Machine.execCmov n cd cs s
  | .cclr n cd => Sys2Proof.Machine.execCclr n cd s
  | .crd n rd cs w => Sys2Proof.Machine.execCrd n rd cs w s
  | .cspr n cd k => Sys2Proof.Machine.execCspr n cd k s
  | .cspw n cs k => Sys2Proof.Machine.execCspw n cs k s
  | .fopAdd n w fd fs ft => Sys2Proof.Machine.execFopAdd n w fd fs ft s
  | .fopSub n w fd fs ft => Sys2Proof.Machine.execFopSub n w fd fs ft s
  | .fopMul n w fd fs ft => Sys2Proof.Machine.execFopMul n w fd fs ft s
  | .fopMin n w fd fs ft => Sys2Proof.Machine.execFopMin n w fd fs ft s
  | .fopMax n w fd fs ft => Sys2Proof.Machine.execFopMax n w fd fs ft s
  | .fopAbs n w fd fs => Sys2Proof.Machine.execFopAbs n w fd fs s
  | .fopNeg n w fd fs => Sys2Proof.Machine.execFopNeg n w fd fs s
  | .fopMov n w fd fs => Sys2Proof.Machine.execFopMov n w fd fs s
  | .fmaAdd n w fd fs ft => Sys2Proof.Machine.execFmaAdd n w fd fs ft s
  | .fmaSub n w fd fs ft => Sys2Proof.Machine.execFmaSub n w fd fs ft s
  | .fcmp n w sig fs ft => Sys2Proof.Machine.execFcmp n w sig fs ft s
  | .fcvtF24ToF48 n fd fs => Sys2Proof.Machine.execFcvtF24ToF48 n fd fs s
  | .fcvtF48ToF24 n fd fs => Sys2Proof.Machine.execFcvtF48ToF24 n fd fs s
  | .fcvtI24ToF24 n fd rs => Sys2Proof.Machine.execFcvtI24ToF24 n fd rs s
  | .fcvtI24ToF48 n fd rs => Sys2Proof.Machine.execFcvtI24ToF48 n fd rs s
  | .fcvtF24ToI24 n rd fs => Sys2Proof.Machine.execFcvtF24ToI24 n rd fs s
  | .fcvtF48ToI24 n rd fs => Sys2Proof.Machine.execFcvtF48ToI24 n rd fs s
  | .fmxXToFLow n fd rs => Sys2Proof.Machine.execFmxXToFLow n fd rs s
  | .fmxXToFHigh n fd rs => Sys2Proof.Machine.execFmxXToFHigh n fd rs s
  | .fmxFLowToX n rd fs => Sys2Proof.Machine.execFmxFLowToX n rd fs s
  | .fmxFHighToX n rd fs => Sys2Proof.Machine.execFmxFHighToX n rd fs s
  | .fdivDiv n w fd fs ft => Sys2Proof.Machine.execFdivDiv n w fd fs ft s
  | .fdivRcp n w fd fs => Sys2Proof.Machine.execFdivRcp n w fd fs s
  | .fdivSqrt n w fd fs => Sys2Proof.Machine.execFdivSqrt n w fd fs s
  | .fdivRsqrt n w fd fs => Sys2Proof.Machine.execFdivRsqrt n w fd fs s
  | .vop4Add n vd va vb => Sys2Proof.Machine.execVop4Add n vd va vb s
  | .vop4Sub n vd va vb => Sys2Proof.Machine.execVop4Sub n vd va vb s
  | .vop4Mul n vd va vb => Sys2Proof.Machine.execVop4Mul n vd va vb s
  | .vop4Min n vd va vb => Sys2Proof.Machine.execVop4Min n vd va vb s
  | .vop4Max n vd va vb => Sys2Proof.Machine.execVop4Max n vd va vb s
  | .vop4Abs n vd va => Sys2Proof.Machine.execVop4Abs n vd va s
  | .vop4Neg n vd va => Sys2Proof.Machine.execVop4Neg n vd va s
  | .vop4Mov n vd va => Sys2Proof.Machine.execVop4Mov n vd va s
  | .vfma4Add n vd va vb => Sys2Proof.Machine.execVfma4Add n vd va vb s
  | .vfma4Sub n vd va vb => Sys2Proof.Machine.execVfma4Sub n vd va vb s
  | .vdiv4Div n vd va vb => Sys2Proof.Machine.execVdiv4Div n vd va vb s
  | .vdiv4Rcp n vd va => Sys2Proof.Machine.execVdiv4Rcp n vd va s
  | .vdiv4Sqrt n vd va => Sys2Proof.Machine.execVdiv4Sqrt n vd va s
  | .vdiv4Rsqrt n vd va => Sys2Proof.Machine.execVdiv4Rsqrt n vd va s
  | .vlaneWrite n vd lane rs => Sys2Proof.Machine.execVlaneWrite n vd lane rs s
  | .vlaneRead n rd lane vs => Sys2Proof.Machine.execVlaneRead n rd lane vs s
  | .interruptInputEvent n k => Sys2Proof.Machine.execInterruptInputEvent n k s
  | .interruptTaken n => Sys2Proof.Machine.execInterruptTaken n s
  | .watchdogExpiry n => Sys2Proof.Machine.execWatchdogExpiry n s
  | .windowSpill n => Sys2Proof.Machine.execWindowSpill n s
  | .windowFill n => Sys2Proof.Machine.execWindowFill n s
  | .ucodeSwitch n => Sys2Proof.Machine.execUcodeSwitch n s
  | .ucodeCancel n => Sys2Proof.Machine.execUcodeCancel n s
  | .ucodeOpen n => Sys2Proof.Machine.execUcodeOpen n s
  | .ucodeSeal n => Sys2Proof.Machine.execUcodeSeal n s
  | .ucodeLdDataW5Write n v => Sys2Proof.Machine.execUcodeLdDataW5Write n v s
  | .plotCfgWrite n k1 v who => Sys2Proof.Machine.execPlotCfgWrite n k1 v who s
  | .plotHoWrite n j v who => Sys2Proof.Machine.execPlotHoWrite n j v who s
  | .plotPortAAck n q => Sys2Proof.Machine.execPlotPortAAck n q s
  | .moverGo c ctl => Sys2Proof.Machine.execMoverGo c ctl s
  | .moverAbort c => Sys2Proof.Machine.execMoverAbort c s
  | .moverTrigger c => Sys2Proof.Machine.execMoverTrigger c s
  | .moverTransferDone c => Sys2Proof.Machine.execMoverTransferDone c s
  | .plotMvDoneW0Read c m => Sys2Proof.Machine.execPlotMvDoneW0Read c m s
  | .lsPatrolScrub n row errs => Sys2Proof.Machine.execLsPatrolScrub n row errs s
  | .bankSpareCopyComplete n bank => Sys2Proof.Machine.execBankSpareCopyComplete n bank s
  | .hbmScrub st line err => Sys2Proof.Machine.execHbmScrub st line err s
  | .pseudoChannelCopyComplete st => Sys2Proof.Machine.execPseudoChannelCopyComplete st s
  | .linkEnable l => Sys2Proof.Machine.execLinkEnable l s
  | .linkDisable l => Sys2Proof.Machine.execLinkDisable l s
  | .linkUp l => Sys2Proof.Machine.execLinkUp l s
  | .converterFrameReceive l data crcOk => Sys2Proof.Machine.execConverterFrameReceive l data crcOk s
  | .ingressBufferWrite l => Sys2Proof.Machine.execIngressBufferWrite l s
  | .laneLockLoss lane kind => Sys2Proof.Machine.execLaneLockLoss lane kind s
  | .linkResume l => Sys2Proof.Machine.execLinkResume l s
  | .linkDownTimeout l => Sys2Proof.Machine.execLinkDownTimeout l s
  | .egressRelease l => Sys2Proof.Machine.execEgressRelease l s
  | .jlCntW0Read l k1 m => Sys2Proof.Machine.execJlCntW0Read l k1 m s
  | .bankSupplyChange b mv => Sys2Proof.Machine.execBankSupplyChange b mv s
  | .bankCfgWrite b v => Sys2Proof.Machine.execBankCfgWrite b v s
  | .pinEdge p level frac => Sys2Proof.Machine.execPinEdge p level frac s
  | .capW0Read c m => Sys2Proof.Machine.execCapW0Read c m s
  | .captureGroupEnable g v => Sys2Proof.Machine.execCaptureGroupEnable g v s
  | .captureFillWrite g => Sys2Proof.Machine.execCaptureFillWrite g s
  | .edgeGroupEnable g v => Sys2Proof.Machine.execEdgeGroupEnable g v s
  | .scheduledEdge p => Sys2Proof.Machine.execScheduledEdge p s
  | .counterStep k1 => Sys2Proof.Machine.execCounterStep k1 s
  | .counterLoad k1 => Sys2Proof.Machine.execCounterLoad k1 s
  | .tmcCntValRead k1 m => Sys2Proof.Machine.execTmcCntValRead k1 m s
  | .cmpWrite c v => Sys2Proof.Machine.execCmpWrite c v s
  | .generatorStep g => Sys2Proof.Machine.execGeneratorStep g s
  | .globalStartGo => Sys2Proof.Machine.execGlobalStartGo s
  | .globalStart => Sys2Proof.Machine.execGlobalStart s
  | .generatorStopAll => Sys2Proof.Machine.execGeneratorStopAll s
  | .generatorArm g => Sys2Proof.Machine.execGeneratorArm g s
  | .generatorDisarm g => Sys2Proof.Machine.execGeneratorDisarm g s
  | .tmcCntW0Read k1 m => Sys2Proof.Machine.execTmcCntW0Read k1 m s
  | .eventDelivery c => Sys2Proof.Machine.execEventDelivery c s
  | .channelSwtrig c => Sys2Proof.Machine.execChannelSwtrig c s
  | .hubSwtrig idx => Sys2Proof.Machine.execHubSwtrig idx s
  | .evfSwevFire n => Sys2Proof.Machine.execEvfSwevFire n s
  | .taskBindingWrite t v => Sys2Proof.Machine.execTaskBindingWrite t v s
  | .forkenFall => Sys2Proof.Machine.execForkenFall s
  | .logicCellOutput x => Sys2Proof.Machine.execLogicCellOutput x s
  | .pqEnable f v => Sys2Proof.Machine.execPqEnable f v s
  | .pqDisable f => Sys2Proof.Machine.execPqDisable f s
  | .pqWr f v => Sys2Proof.Machine.execPqWr f v s
  | .pqWrLast f v => Sys2Proof.Machine.execPqWrLast f v s
  | .pqHeldWriteComplete f => Sys2Proof.Machine.execPqHeldWriteComplete f s
  | .pqRd f => Sys2Proof.Machine.execPqRd f s
  | .pqRewind f => Sys2Proof.Machine.execPqRewind f s
  | .pqFlush f => Sys2Proof.Machine.execPqFlush f s
  | .pqStaleTimeout f => Sys2Proof.Machine.execPqStaleTimeout f s
  | .netFrameReceive p fr => Sys2Proof.Machine.execNetFrameReceive p fr s
  | .netFrameLaunch p => Sys2Proof.Machine.execNetFrameLaunch p s
  | .txqSend p => Sys2Proof.Machine.execTxqSend p s
  | .txqTrigger p => Sys2Proof.Machine.execTxqTrigger p s
  | .canBusError p => Sys2Proof.Machine.execCanBusError p s
  | .canBusOff p => Sys2Proof.Machine.execCanBusOff p s
  | .canBusOffRecovery p => Sys2Proof.Machine.execCanBusOffRecovery p s
  | .netLinkChange mac up => Sys2Proof.Machine.execNetLinkChange mac up s
  | .gateEntryChange mac => Sys2Proof.Machine.execGateEntryChange mac s
  | .gclSwap mac => Sys2Proof.Machine.execGclSwap mac s
  | .gclSwapTakeover mac => Sys2Proof.Machine.execGclSwapTakeover mac s
  | .gclEnable mac en => Sys2Proof.Machine.execGclEnable mac en s
  | .mdioAccess mac v => Sys2Proof.Machine.execMdioAccess mac v s
  | .cmacKeyW0Write q slot v cap => Sys2Proof.Machine.execCmacKeyW0Write q slot v cap s
  | .cmacKeyW5Write q slot v cap => Sys2Proof.Machine.execCmacKeyW5Write q slot v cap s
  | .cmacMsgWrite q v => Sys2Proof.Machine.execCmacMsgWrite q v s
  | .cmacGen q job cap => Sys2Proof.Machine.execCmacGen q job cap s
  | .cmacVerify q job cap => Sys2Proof.Machine.execCmacVerify q job cap s
  | .cmacJobDone q => Sys2Proof.Machine.execCmacJobDone q s
  | .netCntW0Read p k1 m => Sys2Proof.Machine.execNetCntW0Read p k1 m s
  | .netCmFvW0Read q c m => Sys2Proof.Machine.execNetCmFvW0Read q c m s
  | .bar0Read p byte size => Sys2Proof.Machine.execBar0Read p byte size s
  | .bar0Write p byte data => Sys2Proof.Machine.execBar0Write p byte data s
  | .bar2Access p byte acc => Sys2Proof.Machine.execBar2Access p byte acc s
  | .hdmAccess p offset acc => Sys2Proof.Machine.execHdmAccess p offset acc s
  | .backInvalidate p line => Sys2Proof.Machine.execBackInvalidate p line s
  | .hostMemoryAccess m w wr => Sys2Proof.Machine.execHostMemoryAccess m w wr s
  | .cxlSyncRead m => Sys2Proof.Machine.execCxlSyncRead m s
  | .msixRaise v => Sys2Proof.Machine.execMsixRaise v s
  | .msixUnmask p v => Sys2Proof.Machine.execMsixUnmask p v s
  | .mailboxDoorbell mb => Sys2Proof.Machine.execMailboxDoorbell mb s
  | .mailboxResponse mb status rsp => Sys2Proof.Machine.execMailboxResponse mb status rsp s
  | .mailboxTimeout mb => Sys2Proof.Machine.execMailboxTimeout mb s
  | .cxlLaneDegrade p width => Sys2Proof.Machine.execCxlLaneDegrade p width s
  | .cxlWidthRestoreTry p width => Sys2Proof.Machine.execCxlWidthRestoreTry p width s
  | .cxlPortDown p => Sys2Proof.Machine.execCxlPortDown p s
  | .cxlFailoverTimeout p => Sys2Proof.Machine.execCxlFailoverTimeout p s
  | .cxlFoNow p => Sys2Proof.Machine.execCxlFoNow p s
  | .cxlFoBack p => Sys2Proof.Machine.execCxlFoBack p s
  | .nfpRead via => Sys2Proof.Machine.execNfpRead via s
  | .nfpWrite via => Sys2Proof.Machine.execNfpWrite via s
  | .nfpReadSeg via => Sys2Proof.Machine.execNfpReadSeg via s
  | .nfpWriteSeg via => Sys2Proof.Machine.execNfpWriteSeg via s
  | .nfpDescribe via => Sys2Proof.Machine.execNfpDescribe via s
  | .nfpWriteMulti via => Sys2Proof.Machine.execNfpWriteMulti via s
  | .paramBacklogPush n => Sys2Proof.Machine.execParamBacklogPush n s
  | .paramQueueApplyStopped n => Sys2Proof.Machine.execParamQueueApplyStopped n s
  | .odPqPush n => Sys2Proof.Machine.execOdPqPush n s
  | .odPqCapW3Write n v => Sys2Proof.Machine.execOdPqCapW3Write n v s
  | .odPqLastF0Read n m => Sys2Proof.Machine.execOdPqLastF0Read n m s
  | .odPqAppliedW0Read n m => Sys2Proof.Machine.execOdPqAppliedW0Read n m s
  | .restoreComplete n => Sys2Proof.Machine.execRestoreComplete n s
  | .replayFrame n => Sys2Proof.Machine.execReplayFrame n s
  | .firstLiveFrame n => Sys2Proof.Machine.execFirstLiveFrame n s
  | .mirrorPassComplete n => Sys2Proof.Machine.execMirrorPassComplete n s
  | .mirrorPassAbandon n => Sys2Proof.Machine.execMirrorPassAbandon n s
  | .fence u => Sys2Proof.Machine.execFence u s
  | .unfence u => Sys2Proof.Machine.execUnfence u s
  | .unitInternalError u => Sys2Proof.Machine.execUnitInternalError u s
  | .topsoilQuiesceTimeout => Sys2Proof.Machine.execTopsoilQuiesceTimeout s
  | .topsoilReplacement => Sys2Proof.Machine.execTopsoilReplacement s
  | .swapGo vc => Sys2Proof.Machine.execSwapGo vc s
  | .secLoadHardpanExtension => Sys2Proof.Machine.execSecLoadHardpanExtension s
  | .secLoadTopsoil => Sys2Proof.Machine.execSecLoadTopsoil s
  | .secLoadMicrocodePatch => Sys2Proof.Machine.execSecLoadMicrocodePatch s
  | .secLoadLoamImage => Sys2Proof.Machine.execSecLoadLoamImage s
  | .secLoadHostPolicy => Sys2Proof.Machine.execSecLoadHostPolicy s
  | .secRekey => Sys2Proof.Machine.execSecRekey s
  | .secCommit => Sys2Proof.Machine.execSecCommit s
  | .secLogExtend => Sys2Proof.Machine.execSecLogExtend s
  | .secRelease => Sys2Proof.Machine.execSecRelease s
  | .secOwner viaMonitor => Sys2Proof.Machine.execSecOwner viaMonitor s
  | .secRequestDone => Sys2Proof.Machine.execSecRequestDone s
  | .modeRequestStandby => Sys2Proof.Machine.execModeRequestStandby s
  | .standbyEntry => Sys2Proof.Machine.execStandbyEntry s
  | .modeRequestConfigure flash => Sys2Proof.Machine.execModeRequestConfigure flash s
  | .modeRequestArmed => Sys2Proof.Machine.execModeRequestArmed s
  | .modeRequestRun => Sys2Proof.Machine.execModeRequestRun s
  | .modeRequestSafeOutput => Sys2Proof.Machine.execModeRequestSafeOutput s
  | .modeRequestReplay => Sys2Proof.Machine.execModeRequestReplay s
  | .modeRequestService => Sys2Proof.Machine.execModeRequestService s
  | .replayGo vc => Sys2Proof.Machine.execReplayGo vc s
  | .replayDone => Sys2Proof.Machine.execReplayDone s
  | .domainRequest d v => Sys2Proof.Machine.execDomainRequest d v s
  | .domainSwitchComplete d => Sys2Proof.Machine.execDomainSwitchComplete d s
  | .railWarning r mv => Sys2Proof.Machine.execRailWarning r mv s
  | .railWarningEnd r mv => Sys2Proof.Machine.execRailWarningEnd r mv s
  | .railResetLevel r mv strap flash => Sys2Proof.Machine.execRailResetLevel r mv strap flash s
  | .thermalSample temps => Sys2Proof.Machine.execThermalSample temps s
  | .monId => Sys2Proof.Machine.execMonId s
  | .monBaud rate => Sys2Proof.Machine.execMonBaud rate s
  | .monRd a len => Sys2Proof.Machine.execMonRd a len s
  | .monCnt n => Sys2Proof.Machine.execMonCnt n s
  | .monOd ws => Sys2Proof.Machine.execMonOd ws s
  | .monImg kind ws => Sys2Proof.Machine.execMonImg kind ws s
  | .monPub => Sys2Proof.Machine.execMonPub s
  | .monWr a ws => Sys2Proof.Machine.execMonWr a ws s
  | .monRmw a mask v => Sys2Proof.Machine.execMonRmw a mask v s
  | .monHalt n => Sys2Proof.Machine.execMonHalt n s
  | .monStep n => Sys2Proof.Machine.execMonStep n s
  | .monGo n => Sys2Proof.Machine.execMonGo n s
  | .monBist d => Sys2Proof.Machine.execMonBist d s
  | .monitorBreak => Sys2Proof.Machine.execMonitorBreak s
  | .lockTimeout t => Sys2Proof.Machine.execLockTimeout t s
  | .seqEvcClear n => Sys2Proof.Machine.execSeqEvcClear n s
  | .seqEvcW0Read n k m => Sys2Proof.Machine.execSeqEvcW0Read n k m s
  | .seqEvcSnapfW0Read n m => Sys2Proof.Machine.execSeqEvcSnapfW0Read n m s
  | .evfGcntClear => Sys2Proof.Machine.execEvfGcntClear s
  | .evfGcntW0Read g m => Sys2Proof.Machine.execEvfGcntW0Read g m s
  | .registerWrite m a v => Sys2Proof.Machine.execRegisterWrite m a v s
  | .illegalInstruction n w => Sys2Proof.Machine.execIllegalInstruction n w s
  | .cxlPortUp p flit256 width rate ide => Sys2Proof.Machine.execCxlPortUp p flit256 width rate ide s
  | .referenceReturn r => Sys2Proof.Machine.execReferenceReturn r s
  | .mdioAccessComplete mac data => Sys2Proof.Machine.execMdioAccessComplete mac data s
  | .spdmRequest k nonce => Sys2Proof.Machine.execSpdmRequest k nonce s
  | .hostSnoop p line kind => Sys2Proof.Machine.execHostSnoop p line kind s
  | .factoryCommand c => Sys2Proof.Machine.execFactoryCommand c s
  | .jtagInstruction k1 others shifted low => Sys2Proof.Machine.execJtagInstruction k1 others shifted low s
  | .monUnknownCommand line => Sys2Proof.Machine.execMonUnknownCommand line s
  | .nfpUnlistedOperation via => Sys2Proof.Machine.execNfpUnlistedOperation via s
  | .modeRequestUnacceptedCode code => Sys2Proof.Machine.execModeRequestUnacceptedCode code s
  | .secRequestUnlistedKind kind => Sys2Proof.Machine.execSecRequestUnlistedKind kind s

end Sys2Proof.Machine
end

