-- ==== Sys2Proof/WellFormed.lean ====
section
/-!
DEFINITION. WellFormed.lean: which operands a command can have, by the sizes that the spec gives images, frames, accesses
and messages. Operands whose type is exact, and operands that the block itself checks and refuses, are always
well-formed.
-/
namespace Sys2Proof

/-- Whether runs of bytes lie in rising order from `lo` on and end at `hi` at the latest. -/
def runsFit : List (Nat × List HByte) → Nat → Nat → Bool
  | [], _, _ => true
  | r :: rs, lo, hi =>
    decide (lo ≤ r.1) && !r.2.isEmpty && decide (r.1 + r.2.length ≤ hi) && runsFit rs (r.1 + r.2.length) hi

/-- The bytes of the boot flash lie in one device in rising order (R473). -/
def Flash.wf (f : Flash) : Bool := runsFit f.runs 0 (2 ^ 32)

/-- The operands of a factory command fit their items (R447). -/
def FactoryCmd.fits : FactoryCmd → Bool
  | .identityCert _ der => certFits der
  | .deviceCaCert der => certFits der
  | .vendorHash .. => true
  | .finish => true

/-- A frame of a port: its KIND is one of the port's, its length one that the KIND has, and LEN is its length (R363–R365). -/
def NetFrame.wf (p : Port) (fr : NetFrame) : Bool :=
  let kind := fr.h0.toNat / 2 ^ 21
  let limit := if kind = 0 then 8 else if kind = 1 then 64 else if kind = 2 then 2048 else 9212
  let least := if kind = 2 then 1 else if kind = 3 then 60 else 0
  (if p.val < 32 then decide (kind ≤ 2) else decide (kind = 3))
    && decide (least ≤ fr.data.length) && decide (fr.data.length ≤ limit) && decide (fr.h0.toNat % 2 ^ 14 = fr.data.length)

/-- The bytes of a host access. -/
def HostAcc.size : HostAcc → Nat
  | .read k => k
  | .write data => data.length

/-- A host access of at least one byte lies in its range (R385, R388, R389). -/
def byteRange (total byte size : Nat) : Bool := decide (1 ≤ size) && decide (byte + size ≤ total)

/-- A datagram's payload has at most 1,452 bytes, a frame's at most 1,500 (R411). -/
def NfpVia.fits : NfpVia → Bool
  | .udp _ _ _ _ _ _ msg => decide (msg.length ≤ 1452)
  | .ether _ _ _ msg => decide (msg.length ≤ 1500)
  | .mailbox _ => true

/-- The fewest hexadecimal digits that write a word's value: a line of the monitor has at most 1,024 characters (R488). -/
def hexDigits (v : Nat) : Nat :=
  if v < 2 ^ 4 then 1 else if v < 2 ^ 8 then 2 else if v < 2 ^ 12 then 3 else if v < 2 ^ 16 then 4 else if v < 2 ^ 20 then 5 else 6

/-- The nonce that a request for a report carries: 11 words (R381, R461). -/
def spdmNonce (k : SpdmKind) (nonce : List Word) : Bool :=
  match k with
  | .getCertificate => nonce.isEmpty
  | .challenge => decide (nonce.length = 11)
  | .getMeasurements => decide (nonce.length = 11)

/-- Whether a command's operands can be. -/
def Instr.wellFormed (i : Instr) : Bool :=
  match i with
  | .coldReset _ _ flash => flash.wf
  | .warmReset flash => flash.wf
  | .wake _ elapsed _ flash => decide (elapsed < 2 ^ 64) && flash.wf
  | .lsPatrolScrub _ _ errs => decide ((errs.map (·.bank)).Nodup)
  | .hbmScrub _ line _ => decide (line < 2 ^ 28)
  | .converterFrameReceive _ data _ => decide (1 ≤ data.length) && decide (data.length ≤ 512)
  | .bankSupplyChange _ mv => decide (mv < 2 ^ 16)
  | .netFrameReceive p fr => fr.wf p
  | .bar0Read _ byte size => byteRange (2 ^ 26) byte.toNat size
  | .bar0Write _ byte data => byteRange (2 ^ 26) byte.toNat data.length
  | .bar2Access _ byte acc => byteRange (2 ^ 28) byte.toNat acc.size
  | .hdmAccess _ offset acc => byteRange (2 ^ 41) offset acc.size
  | .backInvalidate _ line => decide (line < 2 ^ 30)
  | .mailboxResponse _ _ rsp => decide (rsp.length ≤ 256)
  | .nfpRead via => via.fits
  | .nfpWrite via => via.fits
  | .nfpReadSeg via => via.fits
  | .nfpWriteSeg via => via.fits
  | .nfpDescribe via => via.fits
  | .nfpWriteMulti via => via.fits
  | .nfpUnlistedOperation via => via.fits
  | .monOd ws => decide (2 + (ws.map fun w => 1 + hexDigits w.toNat).sum ≤ 1024)
  | .monWr _ ws => decide (ws.length ≤ 512)
  | .modeRequestConfigure flash => flash.wf
  | .railResetLevel _ _ _ flash => flash.wf
  | .thermalSample temps => decide (temps.length = 40)
  | .factoryCommand c => c.fits
  | .lockTimeout t => decide (t.val < 15)
  | .spdmRequest k nonce => spdmNonce k nonce
  | .baseTick | .localBaseTick .. | .baseFrameTick | .clusterTickEdge .. | .preOpen .. | .gridStart | .gridStop
  | .gridHold | .gridResume | .gridStartTick | .gridStopTick | .gridHoldTick | .gridResumeTick | .tbStep
  | .tbStepLoad | .tbSlewWrite .. | .tbTimeW0Read .. | .tbLocalW0Read .. | .tbFrameW0Read .. | .tbSimW0Read ..
  | .syncInMark .. | .referenceLoss .. | .referenceRevert | .sysrefPulse .. | .sysrefGo | .orderIssueQueue ..
  | .orderIssueFence .. | .orderAppend .. | .orderIssueNotify .. | .groupStart .. | .groupComplete ..
  | .groupRestart .. | .heldExceptionRecord .. | .writeBufferDrain .. | .vadd .. | .vsub .. | .vrsub ..
  | .vadds .. | .vabs .. | .vneg .. | .vmin .. | .vmax .. | .vcmp .. | .vsel .. | .vclmp .. | .vmul ..
  | .vmuls .. | .vfma .. | .vfms .. | .vaxpy .. | .vrcp .. | .vdiv .. | .vsqrt .. | .vrsqrt .. | .vand ..
  | .vor .. | .vxor .. | .vnot .. | .vshl .. | .vshr .. | .vsar .. | .vcvt .. | .vmov .. | .vfill .. | .mld ..
  | .mst .. | .mcnt .. | .rsum .. | .rdot .. | .rsumsq .. | .rmax .. | .rmin .. | .rimax .. | .rsegdot ..
  | .rsegsum .. | .viota .. | .vcmpr .. | .vexpd .. | .vintp .. | .setBuildOpen .. | .setBuildClose ..
  | .setArm .. | .setDisarm .. | .sdescCmd .. | .setFireEvent .. | .vuConfClear .. | .vuConfW0Read ..
  | .vuFslotClashW0Read .. | .shortMov .. | .shortAdd .. | .shortSub .. | .shortAnd .. | .shortOr ..
  | .shortXor .. | .shortAddi .. | .shortSubi .. | .shortShli .. | .shortShri .. | .shortSari ..
  | .shortMovi .. | .shortCmp .. | .shortSkip .. | .brs .. | .nop .. | .aluAdd .. | .aluSub .. | .aluAnd ..
  | .aluOr .. | .aluXor .. | .aluAndn .. | .aluShl .. | .aluShr .. | .aluSar .. | .aluRol .. | .aluMin ..
  | .aluMax .. | .aluMinu .. | .aluMaxu .. | .aluSlt .. | .aluSltu .. | .aluAdds .. | .aluAddx .. | .aluSubs ..
  | .aluSubx .. | .aluClz .. | .aluPopc .. | .addi .. | .andi .. | .ori .. | .xori .. | .shiShl .. | .shiShr ..
  | .shiSar .. | .shiRol .. | .cmp .. | .cmpi .. | .lil .. | .lis .. | .lih .. | .ld .. | .ldd .. | .st ..
  | .std .. | .ldf .. | .stf .. | .ldv .. | .stv .. | .trd .. | .sync .. | .ioIn .. | .ioOut .. | .ioInr ..
  | .ioOutr .. | .storeBufferDrain .. | .bra .. | .call .. | .bc .. | .link .. | .jr .. | .callr .. | .linkr ..
  | .ret .. | .retl .. | .skip .. | .skb .. | .loop .. | .loopi .. | .sys .. | .clrIe .. | .setIe .. | .reti ..
  | .sret .. | .switch .. | .wait .. | .vsync .. | .drd .. | .dwr .. | .dadd .. | .dld .. | .dsto .. | .cld ..
  | .cst .. | .cbnd .. | .cperm .. | .cmov .. | .cclr .. | .crd .. | .cspr .. | .cspw .. | .fopAdd ..
  | .fopSub .. | .fopMul .. | .fopMin .. | .fopMax .. | .fopAbs .. | .fopNeg .. | .fopMov .. | .fmaAdd ..
  | .fmaSub .. | .fcmp .. | .fcvtF24ToF48 .. | .fcvtF48ToF24 .. | .fcvtI24ToF24 .. | .fcvtI24ToF48 ..
  | .fcvtF24ToI24 .. | .fcvtF48ToI24 .. | .fmxXToFLow .. | .fmxXToFHigh .. | .fmxFLowToX .. | .fmxFHighToX ..
  | .fdivDiv .. | .fdivRcp .. | .fdivSqrt .. | .fdivRsqrt .. | .vop4Add .. | .vop4Sub .. | .vop4Mul ..
  | .vop4Min .. | .vop4Max .. | .vop4Abs .. | .vop4Neg .. | .vop4Mov .. | .vfma4Add .. | .vfma4Sub ..
  | .vdiv4Div .. | .vdiv4Rcp .. | .vdiv4Sqrt .. | .vdiv4Rsqrt .. | .vlaneWrite .. | .vlaneRead ..
  | .interruptInputEvent .. | .interruptTaken .. | .watchdogExpiry .. | .windowSpill .. | .windowFill ..
  | .ucodeSwitch .. | .ucodeCancel .. | .ucodeOpen .. | .ucodeSeal .. | .ucodeLdDataW5Write ..
  | .plotCfgWrite .. | .plotHoWrite .. | .plotPortAAck .. | .moverGo .. | .moverAbort .. | .moverTrigger ..
  | .moverTransferDone .. | .plotMvDoneW0Read .. | .bankSpareCopyComplete .. | .pseudoChannelCopyComplete ..
  | .linkEnable .. | .linkDisable .. | .linkUp .. | .ingressBufferWrite .. | .laneLockLoss .. | .linkResume ..
  | .linkDownTimeout .. | .egressRelease .. | .jlCntW0Read .. | .bankCfgWrite .. | .pinEdge .. | .capW0Read ..
  | .captureGroupEnable .. | .captureFillWrite .. | .edgeGroupEnable .. | .scheduledEdge .. | .counterStep ..
  | .counterLoad .. | .tmcCntValRead .. | .cmpWrite .. | .generatorStep .. | .globalStartGo | .globalStart
  | .generatorStopAll | .generatorArm .. | .generatorDisarm .. | .tmcCntW0Read .. | .eventDelivery ..
  | .channelSwtrig .. | .hubSwtrig .. | .evfSwevFire .. | .taskBindingWrite .. | .forkenFall
  | .logicCellOutput .. | .pqEnable .. | .pqDisable .. | .pqWr .. | .pqWrLast .. | .pqHeldWriteComplete ..
  | .pqRd .. | .pqRewind .. | .pqFlush .. | .pqStaleTimeout .. | .netFrameLaunch .. | .txqSend ..
  | .txqTrigger .. | .canBusError .. | .canBusOff .. | .canBusOffRecovery .. | .netLinkChange ..
  | .gateEntryChange .. | .gclSwap .. | .gclSwapTakeover .. | .gclEnable .. | .mdioAccess ..
  | .cmacKeyW0Write .. | .cmacKeyW5Write .. | .cmacMsgWrite .. | .cmacGen .. | .cmacVerify .. | .cmacJobDone ..
  | .netCntW0Read .. | .netCmFvW0Read .. | .hostMemoryAccess .. | .cxlSyncRead .. | .msixRaise ..
  | .msixUnmask .. | .mailboxDoorbell .. | .mailboxTimeout .. | .cxlLaneDegrade .. | .cxlWidthRestoreTry ..
  | .cxlPortDown .. | .cxlFailoverTimeout .. | .cxlFoNow .. | .cxlFoBack ..
  | .paramBacklogPush .. | .paramQueueApplyStopped .. | .odPqPush .. | .odPqCapW3Write .. | .odPqLastF0Read ..
  | .odPqAppliedW0Read .. | .restoreComplete .. | .replayFrame .. | .firstLiveFrame .. | .mirrorPassComplete ..
  | .mirrorPassAbandon .. | .fence .. | .unfence .. | .unitInternalError .. | .topsoilQuiesceTimeout
  | .topsoilReplacement | .swapGo .. | .secLoadHardpanExtension | .secLoadTopsoil | .secLoadMicrocodePatch
  | .secLoadLoamImage | .secLoadHostPolicy | .secRekey | .secCommit | .secLogExtend | .secRelease
  | .secOwner .. | .secRequestDone | .modeRequestStandby | .standbyEntry | .modeRequestArmed | .modeRequestRun
  | .modeRequestSafeOutput | .modeRequestReplay | .modeRequestService | .replayGo .. | .replayDone
  | .domainRequest .. | .domainSwitchComplete .. | .railWarning .. | .railWarningEnd .. | .monId | .monBaud ..
  | .monRd .. | .monCnt .. | .monImg .. | .monPub | .monRmw .. | .monHalt ..
  | .monStep .. | .monGo .. | .monBist .. | .monitorBreak | .seqEvcClear .. | .seqEvcW0Read ..
  | .seqEvcSnapfW0Read .. | .evfGcntClear | .evfGcntW0Read .. | .registerWrite .. | .illegalInstruction ..
  | .cxlPortUp .. | .referenceReturn .. | .mdioAccessComplete .. | .hostSnoop ..
  | .jtagInstruction .. | .monUnknownCommand .. | .modeRequestUnacceptedCode ..
  | .secRequestUnlistedKind .. => true

end Sys2Proof
end

