-- ==== Sys2Proof/Safety.lean ====
section
/-!
DEFINITION. Safety.lean: what a safe step and a safe run of the block are. A run ends at the first fault or refusal; no
command of this block is meant to bring one about.
-/
namespace Sys2Proof

/-- A step that goes on. -/
def Safe (s : Machine.State) : Prop := ∃ t, Machine.step s = .next t

/-- A run of `k` steps that goes on. -/
def SafeRun (k : Nat) (s : Machine.State) : Prop := ∃ t, core.run k s = .next t

/-- Every waiting command is well-formed. -/
def queueWellFormed (s : Machine.State) : Bool := s.pending.all Instr.wellFormed

/-- What every step keeps: memory stands in its canonical form (log entry 14). -/
def Inv (s : Machine.State) : Prop := Machine.Memory.wf s.mem = true

end Sys2Proof
end

