-- ==== Sys2Proof/Certificates/Slice0/Claims.lean ====
section
/-!
DEFINITION. Certificates/Slice0/Claims.lean: the words that the statements of Obligations.lean are said in: when a
sequencer issues a word at once, what a word leaves in its cluster, and the like for the other engines. Each is said
from the rules that its comment names, and none is used by the model.
-/
namespace Sys2Proof.Claims

open Sys2Proof.Machine

/-! ## Words of a sequencer (R210–R240) -/

/-- VCn's sequencer issues the next long operation at once: it runs, no VSYNC stalls, no pair waits for its slot B,
the word is not skipped, it lies in the instruction store, whose cells show no error, no earlier result is still under way,
no loop is active or was just written, no late store trap waits, and the word before is not SET IE (R187, R197, R213, R220,
R225, R234, R235, R236, R238, R255). -/
structure Issues (n : Cl) (s : State) : Prop where
  ready : seqReady n s = true
  vsync : (s.cl n).vsync = none
  pair  : (s.cl n).slotA = none
  skip  : (s.cl n).skipNext = false
  store : (s.cl n).pc.toNat < 0x4000
  calm  : (s.cl n).due = []
  loop  : ioBit 0x6 23 (s.cl n) = false
  lag   : (s.cl n).loopLag = []
  late  : (s.cl n).lateFault = none
  cells : (s.cl n).ibad = []
  ie    : afterSetIe (s.cl n) = false

/-- The pipeline goes past a word of one issue cycle, and the next word follows (R225, R231). -/
def passOver (c : Cluster) : Cluster := { c with pc := c.pc + 1, cyc := c.cyc + 1, stepping := false }

/-- A word of one issue cycle completes and the next word follows; the event counters that select words reaching RR count it
(R225, R231, R494). -/
def goOn (c : Cluster) : Cluster := evcEvent 0x02 1 (passOver c)

/-- x register `r` holds `v`: in the fast bank at the fast level, else in the current window or the common bank
(R211). -/
def xSet (r : Nat) (v : Word) (c : Cluster) : Cluster :=
  if ioBit 0x10 22 c then { c with fastBank := smPut 0 c.fastBank r v }
  else if r < 8 then { c with win := smPut 0 c.win (8 * ioFld 0x10 18 16 c + r) v }
  else { c with com := smPut 0 c.com r v }

/-- A result is under way to register `r`, visible to words whose RR stage falls `k` advancing cycles later (R225). -/
def later (k : Nat) (r : RegName) (v : RegVal) (c : Cluster) : Cluster := { c with due := [⟨r, v, c.cyc + k⟩] }

/-- CC from its flags (R217). -/
def flags (u c v n z : Bool) : Word :=
  BitVec.ofNat 24 (16 * u.toNat + 8 * c.toNat + 4 * v.toNat + 2 * n.toNat + z.toNat)

/-- CC after a comparison of `a` with `b`: from a − b (R217). -/
def cmpFlags (a b : Word) : Word :=
  flags false (decide (b.toNat ≤ a.toNat)) (decide (a.toInt - b.toInt < -(2 ^ 23) ∨ 2 ^ 23 ≤ a.toInt - b.toInt))
    (a - b).msb (decide (a = b))

/-- A taken transfer whose target lies outside START to END ends the loop (R236). -/
def endLoop (target : Word) (c : Cluster) : Cluster :=
  if (ioGet 0x5 c).toNat ≤ target.toNat ∧ target.toNat ≤ ioFld 0x6 13 0 c then c else ioSetBit 0x6 23 false c

/-- A control transfer completes: the pc, the advancing cycles with `bubbles` of them lost; the event counters that select
bubbles or words reaching RR count them (R231, R494). -/
def jumpTo (target : Word) (bubbles : Nat) (c : Cluster) : Cluster :=
  evcEvent 0x02 1 (evcEvent 0x04 bubbles { c with pc := target, cyc := c.cyc + (1 + bubbles), stepping := false })

/-- The return stack takes an entry; a full one loses its oldest (R232). -/
def pushReturn (v : Word) (c : Cluster) : Cluster :=
  { c with rstack := (if c.rstack.length < 8 then c.rstack else c.rstack.tail) ++ [v] }

/-- CWP moves to the next window, and one more window is resident, but for WRES at the fast level (R211, R266, R269). -/
def windowIn (c : Cluster) : Cluster :=
  let d := ioSetFld 0x10 18 16 ((ioFld 0x10 18 16 c + 1) % 8) c
  if ioBit 0x10 22 c then d else ioSetFld 0x10 15 12 (ioFld 0x10 15 12 c + 1) d

/-- CWP moves back to the window before, and one window fewer is resident, but for WRES at the fast level. -/
def windowOut (c : Cluster) : Cluster :=
  let d := ioSetFld 0x10 18 16 ((ioFld 0x10 18 16 c + 7) % 8) c
  if ioBit 0x10 22 c then d else ioSetFld 0x10 15 12 (ioFld 0x10 15 12 c - 1) d

/-- SEQ_STATUS.IE takes a value; the watchdog keeps that it was 1 (R255, R264). -/
def putIe (b : Bool) (c : Cluster) : Cluster := { ioSetBit 0x10 23 b c with ieSeen := c.ieSeen || b }

/-- c13 and ENTRY_CAP exchange values (R252). -/
def swapEntry (c : Cluster) : Cluster :=
  { c with
    cregs := smPut CapV.null c.cregs 13 (smAt CapV.null c.special 0)
    special := smPut CapV.null c.special 0 (smAt CapV.null c.cregs 13) }

/-- `k` words from offset `off` of VCn's own local store: its sequencer reads and writes them, for they lie inside the
store, their plots are its own and no row among them is bad (R175, R178, R187, R193). -/
structure OwnWords (n : Cl) (off k : Nat) (s : State) : Prop where
  inside : off + k ≤ 0x40000
  owner  : ∀ i < k, ownCode ((off + i) / 0x4000) (s.cl n) = 0 ∧ portHeld ((off + i) / 0x4000) (s.cl n) = false
  good   : ∀ i < k, badRow? (s.cl n) (off + i) = none

/-- What a read of `k` words of VCn's local store finds. -/
def ownWords (n : Cl) (off k : Nat) (s : State) : List Word :=
  (List.range k).map fun i => memGet (lsAddr n (off + i)) s

/-- The short operations with a result: the value of R216 from x[rd] and x[8 + s]. -/
def shortWords (n : Cl) (sl : Slot) (rd : Reg) (sf : Fin 8) (c : Cluster) : List (Instr × Word) :=
  let r := xGet c rd
  let x := xGet c (8 + sf.val)
  [(.shortMov n sl rd sf, x), (.shortAdd n sl rd sf, r + x), (.shortSub n sl rd sf, r - x),
   (.shortAnd n sl rd sf, r &&& x), (.shortOr n sl rd sf, r ||| x), (.shortXor n sl rd sf, r ^^^ x),
   (.shortAddi n sl rd sf, BitVec.ofNat 24 (r.toNat + (sf.val + 1))),
   (.shortSubi n sl rd sf, BitVec.ofInt 24 (r.toInt - (sf.val + 1))),
   (.shortShli n sl rd sf, BitVec.ofNat 24 (r.toNat * 2 ^ (sf.val + 1))),
   (.shortShri n sl rd sf, BitVec.ofNat 24 (r.toNat / 2 ^ (sf.val + 1))),
   (.shortSari n sl rd sf, BitVec.ofInt 24 (r.toInt / 2 ^ (sf.val + 1))),
   (.shortMovi n sl rd sf, BitVec.ofNat 24 sf.val)]

/-! ## Registers (R6, R8) -/

/-- What a write of `v` leaves in a register that held `old`: its RW fields take the value, a 1 clears an RW1C field, every other
bit stays (R8). -/
def written (rw w1c old v : Word) : Word := (old &&& ~~~rw &&& ~~~(v &&& w1c)) ||| (v &&& rw)

/-- Registers of the IO-space without write-only fields whose writes do nothing besides, with their RW and RW1C bits: SEQ_STATUS
to SEQ_LZ_PTR, the interrupt registers, SEQ_WIN, and of the vector unit VU_SETn_DL, VU_SET_MISS, VU_SETn_STAT, VU_SDESC, VU_EXC,
VU_FLAGS and VU_TRAPEN (07, 08, 03). -/
def plainIo : List (Nat × Word × Word) :=
  [(0x10, 0, 0x800), (0x11, 0x37, 0), (0x12, 0, 0), (0x13, 0, 0), (0x14, 0xFFFFFF, 0), (0x15, 0xFFFFFF, 0), (0x16, 0x3FFF, 0),
   (0x17, 0xFFFFFF, 0), (0x18, 0, 0), (0x19, 0xFFFFFF, 0), (0x1A, 0xFFFFFF, 0), (0x1B, 0xFFFFFF, 0), (0x1C, 0xFFFFFF, 0),
   (0x30, 0, 0xFFFFFF), (0x31, 0, 0xFFFFFF), (0x32, 0, 0xFFFF), (0x33, 0xFFFFFF, 0), (0x34, 0xFFFFFF, 0), (0x35, 0xFFFF, 0),
   (0x36, 0xFFFFFF, 0), (0x37, 0xFFFFFF, 0), (0x38, 0xFFFF, 0), (0x188, 0, 0xFF), (0x1B0, 0xFFFFFF, 0), (0x1B1, 0xFFFF, 0),
   (0x1B2, 0xFFFFFF, 0), (0x1B3, 0xFFFFFF, 0), (0x1B4, 0xFFFC00, 0), (0x1C0, 0, 0x800000), (0x1C1, 0, 0), (0x1C2, 0, 0),
   (0x1C3, 0, 0), (0x1C4, 0, 0), (0x1C5, 0, 0), (0x1D0, 0, 0x1F), (0x1D1, 0x11F, 0)]
  ++ (List.range 8).flatMap fun k => [(0x40 + 2 * k, 0xFFFFFF, 0), (0x41 + 2 * k, 0x80FFFF, 0), (0x180 + k, 7, 0), (0x1A0 + k, 0, 1)]

/-- Hub registers without write-only fields whose writes do nothing besides, with their RW and RW1C bits: SPM_SWAP, PWR_WAKE,
PWR_RAILr, PWR_TEMPs, PWR_REPLAY, UCODE_SW, UCODE_LD_ADDR, UCODE_LD_VER and the parameter queues' ADDR and V (16, 18, 09, 15). -/
def plainHub : List (Nat × Word × Word) :=
  [(0x50031, 0xFFFFFF, 0), (0x50032, 0xFFFFFF, 0), (0x50033, 0xFFFFFF, 0), (0x50034, 0xFFFF, 0), (0x60002, 0xC00000, 0),
   (0x60003, 0xFFFF00, 0), (0x60004, 0xFFFFFF, 0), (0x60005, 0xFFFFFF, 0), (0x60061, 0xFFFFFF, 0), (0x60062, 0xFFFFFF, 0),
   (0x60063, 0xFFFFFF, 0)]
  ++ (List.range 15).map (fun r => (0x60010 + r, 0, 0x400000)) ++ (List.range 40).map (fun k => (0x60030 + k, 0, 0))
  ++ (List.range 256).flatMap fun n => [(0x200003 + 32 * n, 0xFFFFFF, 0), (0x200004 + 32 * n, 0xFFFFFF, 0),
    (0x200005 + 32 * n, 0x8001FF, 0), (0x200006 + 32 * n, 0xFFFFFF, 0), (0x300000 + 16 * n, 0xC3FFFF, 0),
    (0x300001 + 16 * n, 0xFFFFFF, 0), (0x300002 + 16 * n, 0xFFFFFF, 0), (0x300003 + 16 * n, 0xFFFFFF, 0)]

/-! ## Floating-point words of a sequencer (R212, R219, R240) -/

/-- The sequencer holds the floating-point state, and no flag traps. -/
structure FpReady (n : Cl) (s : State) : Prop where
  own  : ioBit 0x10 20 (s.cl n) = true
  calm : ioFld 0x1 12 8 (s.cl n) = 0

/-- f register `r` as an operand of a width: F24 in bits 23 to 0 (R212). -/
def fOperand (w : FWidth) (c : Cluster) (r : Nat) : DWord :=
  match w with
  | .f24 => (smAt 0 c.fregs r) &&& 0xFFFFFF
  | .f48 => smAt 0 c.fregs r

/-- Flags accrue into SEQ_FCSR.FLAGS (R240). -/
def accrue (fl : Fl) (c : Cluster) : Cluster :=
  if fl.toNat % 32 = 0 then c else ioPut 0x1 (ioGet 0x1 c ||| BitVec.ofNat 24 (fl.toNat % 32)) c

/-- The flags that a word raises, under way to SEQ_FCSR.FLAGS, where they accrue when it completes (R240). -/
def flagsDue (fl : Fl) : List (RegName × RegVal) :=
  if fl.toNat % 32 = 0 then [] else [(.flags, .cc (BitVec.ofNat 5 (fl.toNat % 32)))]

/-- f register `r` holds `v`. -/
def fSet (r : Nat) (v : DWord) (c : Cluster) : Cluster := { c with fregs := smPut 0 c.fregs r v }

/-- The scalar operations of R219 on fs and ft, each with the vector order that gives its result and flags (R240). -/
def scalarOps (n : Cl) (w : FWidth) (fd fs ft : Reg) : List (Instr × VOp) :=
  [(.fopAdd n w fd fs ft, .vadd), (.fopSub n w fd fs ft, .vsub), (.fopMul n w fd fs ft, .vmul), (.fopMin n w fd fs ft, .vmin),
   (.fopMax n w fd fs ft, .vmax)]

/-- The four-lane operations on va and vb (R219). -/
def laneOps (n : Cl) (vd va vb : VReg) : List (Instr × VOp) :=
  [(.vop4Add n vd va vb, .vadd), (.vop4Sub n vd va vb, .vsub), (.vop4Mul n vd va vb, .vmul), (.vop4Min n vd va vb, .vmin),
   (.vop4Max n vd va vb, .vmax), (.vop4Abs n vd va, .vabs), (.vop4Neg n vd va, .vneg), (.vop4Mov n vd va, .vmov)]

/-- The results of four lanes as register writes, and the OR of their flags (R212, R240). -/
def fourLanes (vd : VReg) (e : Nat → DWord × Fl) : List (RegName × RegVal) × Fl :=
  ([(.f (2 * vd.val), .f (DWord.ofWords ((e 0).1.setWidth 24) ((e 1).1.setWidth 24))),
    (.f (2 * vd.val + 1), .f (DWord.ofWords ((e 2).1.setWidth 24) ((e 3).1.setWidth 24)))],
   (e 0).2 ||| (e 1).2 ||| (e 2).2 ||| (e 3).2)

/-- A word's results are under way, visible `k` advancing cycles later. -/
def laterAll (k : Nat) (d : List (RegName × RegVal)) (c : Cluster) : Cluster :=
  { c with due := d.map fun p => ⟨p.1, p.2, c.cyc + k⟩ }

/-! ## Vector orders (R88–R98) -/

/-- VCn's island is powered and clocked; group `gid` of VCn runs, `q` is its next order, nothing pauses it, its routine has nothing more to do than its orders,
no exception of it is noted and no flag traps (R98, R106, R131, R278). `g` is the group with the set of words that it
writes, known from its first order on (R109). -/
structure Runs (n : Cl) (gid : Nat) (g : Group) (q : QOrder) (s : State) : Prop where
  on     : clocked n s = true
  found  : ∃ h, group? n gid s = some h ∧ g = if h.pos = 0 then { h with wset := writeSet n h s } else h
  next   : g.orders[g.pos]? = some q
  phase  : g.phase = .running
  free   : pausedGroup n g s = false
  rom    : microDone n g s = true
  calm   : g.exc = none
  quiet  : g.trapen = 0
  some'  : 0 < g.n

/-- What an order that has run leaves in its group: the next order is due, the values it passes on, its flags, the words it
adds to the write buffers, among those of other streams by element. -/
def leaves (n : Cl) (g : Group) (out : List DWord) (fl : BitVec 5) (ws : List WWord) (s : State) : State :=
  putGroup n { g with pos := g.pos + 1, chain := out, flags := g.flags ||| fl, wbuf := mergeWords g.wbuf ws } s

/-- The OR of the flags of `k` elements (R131). -/
def orFlags (k : Nat) (e : Nat → Fl) : BitVec 5 := (List.range k).foldl (fun m i => m ||| (e i).setWidth 5) 0

/-- The words of an element at address `a`, for element `i` of the group (R75). -/
def elemWords (x : Strm) (a : Int) (i : Nat) (v : DWord) : List WWord :=
  (List.range x.w).map fun (k : Nat) => ⟨x.pos, i, (a + (k : Int)).toNat, v.extractLsb' (24 * k) 24⟩

/-- The words that an order adds to its destination: the elements `rs`, each with its place in the stream, the element of
the group and its value, element `j` standing at `at' j`; a packed destination takes `bits` (R77, R81, R92). -/
def dstWords (dst : Option Strm) (at' : Nat → Int) (rs : List (Nat × Nat × DWord)) (bits : List Bool) : List WWord :=
  match dst with
  | none => []
  | some x => if x.d.mode = 2 then packBits x bits.length bits else rs.flatMap fun p => elemWords x (at' p.1) p.2.1 p.2.2

/-- The orders that give each element a result of its own from the elements of their operands (R88), with their
commands. -/
def elementOps : List (VOp × (Cl → Nat → Instr)) :=
  [(.vadd, .vadd), (.vsub, .vsub), (.vrsub, .vrsub), (.vadds, .vadds), (.vabs, .vabs), (.vneg, .vneg), (.vmin, .vmin),
   (.vmax, .vmax), (.vclmp, .vclmp), (.vmul, .vmul), (.vmuls, .vmuls), (.vfma, .vfma), (.vfms, .vfms), (.vaxpy, .vaxpy),
   (.vrcp, .vrcp), (.vdiv, .vdiv), (.vsqrt, .vsqrt), (.vrsqrt, .vrsqrt), (.vand, .vand), (.vor, .vor), (.vxor, .vxor),
   (.vnot, .vnot), (.vshl, .vshl), (.vshr, .vshr), (.vsar, .vsar), (.vcvt, .vcvt), (.vmov, .vmov), (.vfill, .vfill),
   (.viota, .viota)]

/-- The reductions (R88, R136–R144), with their commands. -/
def reduceOps : List (VOp × (Cl → Nat → Instr)) :=
  [(.rsum, .rsum), (.rdot, .rdot), (.rsumsq, .rsumsq), (.rmax, .rmax), (.rmin, .rmin), (.rimax, .rimax), (.rsegdot, .rsegdot),
   (.rsegsum, .rsegsum)]

/-- The packed word that a run read last is the word `W` gives for its stream and place. -/
def Packed (W : Nat × Nat × Nat → Word) (r : Run) : Prop := ∀ k w, r.pk = some (k, w) → w = W k

/-- Operand `j` of an order reads as `v` from state `s`, with nothing else changed by the read but which packed word was
read last. -/
def Reads (n : Cl) (g : Group) (q : QOrder) (j : Nat) (v : Nat → DWord) (W : Nat × Nat × Nat → Word) (s : State) : Prop :=
  ∀ i r, i < g.n → r.s = s → Packed W r →
    ∃ pk, Packed W { r with pk := pk } ∧ operand n g (orderStreams g.n g.pos q) q j i r = (v i, { r with pk := pk })

/-- The active elements of an order are those of `m` (R90). -/
def Mask (n : Cl) (g : Group) (q : QOrder) (m : Nat → Bool) (W : Nat × Nat × Nat → Word) (s : State) : Prop :=
  ∀ i r, i < g.n → r.s = s → Packed W r →
    ∃ pk, Packed W { r with pk := pk } ∧ maskBit n g (orderStreams g.n g.pos q) q i r = (m i, { r with pk := pk })

/-- The words of a packed stream of `k` elements are those of `W` (R81). -/
def ReadsBits (n : Cl) (g : Group) (x : Strm) (k : Nat) (W : Nat × Nat × Nat → Word) (s : State) : Prop :=
  x.d.mode = 2 ∧ ∀ c i r, 24 * c < k → r.s = s →
    readWord n g x (firstWords c 1) (x.d.base.toNat + c) i r = (W (x.pos, x.role, c), true, r)

/-- Element `j` of the order's destination, where it is strided or indexed, stands at `at' j` (R77, R92). -/
def Lands (n : Cl) (g : Group) (q : QOrder) (at' : Nat → Int) (W : Nat × Nat × Nat → Word) (s : State) : Prop :=
  ∀ x, roleOf (orderStreams g.n g.pos q) 0 = some x →
    if x.indexed then
      ∀ j i r, j < x.cnt → i < g.n → r.s = s → Packed W r →
        ∃ pk, Packed W { r with pk := pk } ∧ indexAddr n g x j i r = (some (at' j), { r with pk := pk })
    else ∀ j : Nat, at' j = (x.d.base.toNat : Int) + j * x.d.stride.toInt

/-- How many of the elements before `i` are active: the place of element `i` among the active ones (R91). -/
def rankOf (m : Nat → Bool) (i : Nat) : Nat := ((List.range i).filter m).length

/-- What a masked order passes on for element `i`, from its operand and its result (R90, R95). -/
def passed (q : QOrder) (m : Bool) (a e : DWord) : DWord :=
  if m then e else if oMz q.bits || decide (vopSrcs q.op = 0) then 0 else a

/-- The elements that an order writes: the active ones, and with MZ = 1 the others as 0 (R90). -/
def maskedElems (q : QOrder) (m : Nat → Bool) (k : Nat) (v : Nat → DWord) : List (Nat × Nat × DWord) :=
  (List.range k).flatMap fun i => if m i then [(i, i, v i)] else if oMz q.bits then [(i, i, 0)] else []

/-- What a masked order adds to its destination; the bit of an inactive element of a packed one is 0 (R90). -/
def maskedWords (q : QOrder) (m : Nat → Bool) (dst : Option Strm) (at' : Nat → Int) (k : Nat) (v : Nat → DWord) : List WWord :=
  dstWords dst at' (maskedElems q m k v) ((List.range k).map fun i => m i && bitOf 0 (v i))

/-- The four issue cycles of an order are over (R237, R494). -/
def goOn4 (c : Cluster) : Cluster := evcEvent 0x02 4 { c with pc := c.pc + 4, cyc := c.cyc + 4, stepping := false }

/-! ## The dictionary server (R406–R424) -/

/-- The words of a request (R408, R409): VER 1, OP, SEQ, INDEX, SUBINDEX, TYPE, LEN, word 3, the data. -/
def request (op seq idx sub ty len : Nat) (w3 : Word) (data : List Word) : List Word :=
  [BitVec.ofNat 24 (2 ^ 20 + op * 2 ^ 16 + seq), BitVec.ofNat 24 (idx * 256 + sub), BitVec.ofNat 24 (ty * 2 ^ 12 + len), w3] ++ data

/-- The words of an item of a WRITE_MULTI (R409). -/
def itemWords (it : NfpItem) : List Word :=
  [BitVec.ofNat 24 (it.idx.toNat * 256 + it.sub.toNat), BitVec.ofNat 24 (it.ty.toNat * 2 ^ 12 + it.data.length)] ++ it.data

/-- A request of these words comes this way by a path; behind it a field port may bring more words, which count for nothing
(R411, R414, R416). -/
def Comes (via : NfpVia) (path : NfpPath) (ws : List Word) (s : State) : Prop :=
  viaPath via s = some path ∧ ∃ more, viaWords via s = ws ++ more ∧ (more = [] ∨ ∃ port peer mac, path = .field port peer mac)

/-- The server takes a request that comes this way, with these words, for the first time (R408, R411, R412, R414–R416). -/
structure Serves (via : NfpVia) (path : NfpPath) (ws : List Word) (s : State) : Prop where
  on    : dark s = false
  comes : Comes via path ws s
  up    : nfpUp path s = true
  kept  : ∀ port peer mac, path = .field port peer mac → ∀ k ∈ keptOf peer s, k.seq ≠ nfpSeq ws
  first : ∀ w ∈ s.od.waiting, samePeer w.path path = true → nfpSeq w.hdr ≠ nfpSeq ws

/-- A response has left on its path: counted, with memory and every cluster as before (R411, R424). -/
def Sent (path : NfpPath) (ws : List Word) (s t : State) : Prop :=
  t.resp = ws ∧ t.od.out = s.od.out ++ [(path, ws)] ∧ odCtr 0xC0A0 0 t = odCtr 0xC0A0 0 s + 1 ∧ t.mem = s.mem ∧ t.cls = s.cls

/-- Cluster n's parameter queue takes each of these entries at once, with none of the server's own waiting (R418, R423,
R437). -/
def QueueTakes (n : Cl) (es : List PEntry) (s : State) : Prop :=
  backlogOf n s = [] ∧ pairSecond n s = none ∧ (s.cl n).pq.length + es.length ≤ 16 ∧
    ∀ e ∈ es, (pqRefusals n e s).2 = (false, false)

/-! ## Fenced units (R441) -/

/-- The hub registers of a unit that hold nothing but what is written to them: the links and lanes of a half, the timing pins
but the banks' registers, the network group, the CXL block but its strap, the security core but its OTP's bit. -/
def unitRegs (u o : Nat) : Prop :=
  match u with
  | 0 => 0x8040 ≤ o ∧ o < 0x8060 ∨ 0x8080 ≤ o ∧ o < 0x80A0 ∨ 0x8100 ≤ o ∧ o < 0x8500
  | 1 => 0x8060 ≤ o ∧ o < 0x8080 ∨ 0x80A0 ≤ o ∧ o < 0x80C0 ∨ 0x8500 ≤ o ∧ o < 0x8900
  | 2 => 0x10008 ≤ o ∧ o < 0x20000
  | 3 => 0x30000 ≤ o ∧ o < 0x40000
  | 4 => 0x40001 ≤ o ∧ o < 0x50000
  | 6 => 0x800000 ≤ o ∧ o < 0x800020 ∧ o ≠ 0x800009
  | _ => False

/-! ## The security core (R450) -/

/-- Hardpan's reads of the source that the request registers name give these words and leave the machine at `u`. -/
def Sourced (ws : List Word) (u s : State) : Prop :=
  let a := hubAddr 0x800001 s
  let len := (hubPair 0x800003 s).toNat
  srcCovered a len s = true ∧ secWords a len s = (false, some ws, u)

end Sys2Proof.Claims
end

