-- ==== Sys2Proof/Certificates/Slice0/Obligations.lean ====
section
/-!
DEFINITION. Certificates/Slice0/Obligations.lean: the statements about the machine, family by family. OBLIGATIONS.json
lists each with its rules.
-/
open Sys2Proof Sys2Proof.Machine Sys2Proof.Claims

/-! ## The queue, and what holds always -/

/-- The command at the front of the queue takes effect on the state with the queue's rest, and an empty queue idles
(log entry 1). -/
def Obligations.StepRunsTheFrontCommand : Prop :=
  (∀ (c : Instr) (rest : List Instr) (s : State), s.pending = c :: rest → step s = exec c { s with pending := rest }) ∧
  (∀ s : State, s.pending = [] → step s = .next s)

/-- After reset memory stands in its canonical form, which is the model's choice (log entry 14). -/
def Obligations.ResetMemoryIsCanonical : Prop := Inv State.reset

/-- Every step keeps memory in its canonical form, which is the model's choice (log entry 14). -/
def Obligations.EveryStepKeepsMemoryCanonical : Prop :=
  ∀ s t : State, Inv s → step s = .next t → Inv t

/-- No command reorders, adds or drops a waiting command. -/
def Obligations.NoCommandTouchesTheQueue : Prop :=
  ∀ (c : Instr) (s t : State), exec c s = .next t → t.pending = s.pending

/-! ## The sequencer: integer words (R216–R219) -/

/-- Each ALU word of R219 that only writes x[rd] leaves the function of x[rs] and x[rt] that R219 gives in x[rd], goes on
to the next word, and changes nothing else in the machine. ADDS, ADDX, SUBS and SUBX write the wrapped sum or difference
to x[rd] and the carry out, or that there was no borrow, to C, and leave the other flags. The immediate words and the bit
counts write the value of R218 and R219 to x[rd]. CMP and CMPI set CC from the difference of their operands as R217 says,
and write nothing else. The model's own choices here are those of log entry 31. -/
def Obligations.IntegerWordsWriteTheirResults : Prop :=
  (∀ (n : Cl) (rd rs rt : Reg) (s : State), Issues n s →
     let c := s.cl n
     let a := xGet c rs
     let b := xGet c rt
     let k := b.toNat % 32
     ∀ p ∈ [(Instr.aluAdd n rd rs rt, BitVec.ofNat 24 (a.toNat + b.toNat)),
         (.aluSub n rd rs rt, BitVec.ofInt 24 (a.toInt - b.toInt)),
         (.aluAnd n rd rs rt, a &&& b), (.aluOr n rd rs rt, a ||| b), (.aluXor n rd rs rt, a ^^^ b),
         (.aluAndn n rd rs rt, a &&& ~~~b),
         (.aluShl n rd rs rt, BitVec.ofNat 24 (a.toNat * 2 ^ k)),
         (.aluShr n rd rs rt, BitVec.ofNat 24 (a.toNat / 2 ^ k)),
         (.aluSar n rd rs rt, BitVec.ofInt 24 (a.toInt / 2 ^ k)),
         (.aluRol n rd rs rt, BitVec.ofNat 24 (a.toNat * 2 ^ (k % 24) + a.toNat / 2 ^ (24 - k % 24))),
         (.aluMin n rd rs rt, BitVec.ofInt 24 (min a.toInt b.toInt)),
         (.aluMax n rd rs rt, BitVec.ofInt 24 (max a.toInt b.toInt)),
         (.aluMinu n rd rs rt, BitVec.ofNat 24 (min a.toNat b.toNat)),
         (.aluMaxu n rd rs rt, BitVec.ofNat 24 (max a.toNat b.toNat)),
         (.aluSlt n rd rs rt, if a.toInt < b.toInt then 1 else 0),
         (.aluSltu n rd rs rt, if a.toNat < b.toNat then 1 else 0)],
       exec p.1 s = .next (s.putCl n (goOn (xSet rd p.2 c)))) ∧
  (∀ (n : Cl) (rd rs rt : Reg) (s : State), Issues n s →
     let c := s.cl n
     let a := (xGet c rs).toNat
     let b := (xGet c rt).toNat
     let cin := (bitOf 3 (ioGet 0x2 c)).toNat
     ∀ p ∈ [(Instr.aluAdds n rd rs rt, BitVec.ofNat 24 (a + b), decide (2 ^ 24 ≤ a + b)),
         (.aluAddx n rd rs rt, BitVec.ofNat 24 (a + b + cin), decide (2 ^ 24 ≤ a + b + cin)),
         (.aluSubs n rd rs rt, BitVec.ofInt 24 (a - b : Int), decide (b ≤ a)),
         (.aluSubx n rd rs rt, BitVec.ofInt 24 (a - b - (1 - cin : Int)), decide ((b : Int) + (1 - cin) ≤ a))],
       exec p.1 s = .next (s.putCl n (goOn (ioSetBit 0x2 3 p.2.2 (xSet rd p.2.1 c))))) ∧
  (∀ (n : Cl) (rd rs : Reg) (imm : BitVec 9) (wide : BitVec 13) (count : BitVec 5) (s : State), Issues n s →
     let c := s.cl n
     let a := xGet c rs
     let k := count.toNat
     ∀ p ∈ [(Instr.addi n rd rs imm, BitVec.ofInt 24 (a.toInt + imm.toInt)),
         (.andi n rd rs imm, BitVec.ofNat 24 (a.toNat &&& imm.toNat)),
         (.ori n rd rs imm, BitVec.ofNat 24 (a.toNat ||| imm.toNat)),
         (.xori n rd rs imm, BitVec.ofNat 24 (a.toNat ^^^ imm.toNat)),
         (.shiShl n rd rs count, BitVec.ofNat 24 (a.toNat * 2 ^ k)),
         (.shiShr n rd rs count, BitVec.ofNat 24 (a.toNat / 2 ^ k)),
         (.shiSar n rd rs count, BitVec.ofInt 24 (a.toInt / 2 ^ k)),
         (.shiRol n rd rs count, BitVec.ofNat 24 (a.toNat * 2 ^ (k % 24) + a.toNat / 2 ^ (24 - k % 24))),
         (.lil n rd wide, BitVec.ofNat 24 wide.toNat),
         (.lis n rd wide, BitVec.ofInt 24 wide.toInt),
         (.lih n rd wide, BitVec.ofNat 24 (wide.toNat * 2 ^ 11 + (xGet c rd).toNat % 2 ^ 11)),
         (.aluClz n rd rs, if a = 0 then 24 else BitVec.ofNat 24 (23 - Nat.log2 a.toNat)),
         (.aluPopc n rd rs, BitVec.ofNat 24 ((List.range 24).map fun i => a.toNat / 2 ^ i % 2).sum)],
       exec p.1 s = .next (s.putCl n (goOn (xSet rd p.2 c)))) ∧
  (∀ (n : Cl) (rs rt : Reg) (imm : BitVec 9) (s : State), Issues n s →
     let c := s.cl n
     exec (.cmp n rs rt) s = .next (s.putCl n (goOn (ioPut 0x2 (cmpFlags (xGet c rs) (xGet c rt)) c))) ∧
     exec (.cmpi n rs imm) s = .next (s.putCl n (goOn (ioPut 0x2 (cmpFlags (xGet c rs) (imm.signExtend 24)) c))))

/-- A short operation in slot A takes its operands and waits for its slot B; one in slot B completes the pair, with the
slot A's result first, both from the registers as they stood before the word, so that slot B's value remains where both
write one register (R215, R216). The other short operations: NOP brings nothing, CMP sets CC, SKIP has the next word
cancelled if its condition holds, BRS branches to the word's address + 2 + s if its condition holds, at the cost of R231.
-/
def Obligations.ShortWordsPairUpAndControl : Prop :=
  (∀ (n : Cl) (rd rd' : Reg) (sf sf' : Fin 8) (s : State), Issues n s → (s.cl n).skipSlotA = false →
     let c := s.cl n
     ∀ p ∈ shortWords n .a rd sf c,
       let t := s.putCl n { c with slotA := some [⟨xName c rd, .w p.2, 0⟩] }
       exec p.1 s = .next t ∧
       ∀ q ∈ shortWords n .b rd' sf' c,
         exec q.1 t = .next (s.putCl n (goOn (xSet rd' q.2 (xSet rd p.2 c))))) ∧
  (∀ (n : Cl) (rd : Reg) (sf : Fin 8) (cond : Cond) (hint : Bool) (s : State), Issues n s → (s.cl n).skipSlotA = false →
     let c := s.cl n
     let holds := condHolds cond (ccGet c)
     exec (.nop n .a) s = .next (s.putCl n { c with slotA := some [] }) ∧
     exec (.nop n .b) (s.putCl n { c with slotA := some [] }) = .next (s.putCl n (goOn c)) ∧
     exec (.shortCmp n .b rd sf) s = .next (s.putCl n (goOn (ioPut 0x2 (cmpFlags (xGet c rd) (xGet c (8 + sf.val))) c))) ∧
     exec (.shortSkip n .b cond) s = .next (s.putCl n (goOn { c with skipNext := holds })) ∧
     (holds = false → hint = false → exec (.brs n cond sf hint) s = .next (s.putCl n (goOn c))) ∧
     (holds = true → hint = true → exec (.brs n cond sf hint) s =
       let target := c.pc + 2 + BitVec.ofNat 24 sf.val
       .next (s.putCl n (jumpTo target 1 (endLoop target c)))))

/-- Of the words below, one that the sequencer issues touches its own cluster and nothing else in the machine, whatever it
finds there: memory, every hub register, every other cluster and the queue stay as they are. No cell of its instruction
store shows an error here: such an error is also counted for the whole chip (R197). -/
def Obligations.PlainWordsStayInTheirCluster : Prop :=
  ∀ (n : Cl) (sl : Slot) (rd rs rt : Reg) (sf : Fin 8) (cond : Cond) (h : Bool) (imm : BitVec 9) (b5 : BitVec 5)
    (w : BitVec 3) (w4 : BitVec 4) (off : BitVec 17) (o12 : BitVec 12) (b8 : BitVec 8) (s : State), (s.cl n).ibad = [] →
    ∀ i ∈ [Instr.shortAdd n sl rd sf, .shortMovi n sl rd sf, .shortCmp n sl rd sf, .shortSkip n sl cond, .nop n sl,
        .brs n cond sf h, .aluAdd n rd rs rt, .aluSar n rd rs rt, .aluSubx n rd rs rt, .addi n rd rs imm, .shiRol n rd rs b5,
        .cmp n rs rt, .bra n off, .bc n cond h o12, .call n off, .link n off, .jr n rs, .callr n rs, .linkr n rs, .ret n,
        .retl n, .skip n cond, .skb n rs h b5, .loop n rs imm, .loopi n b8 imm, .sys n imm, .sret n, .clrIe n, .setIe n,
        .wait n, .vsync n, .sync n, .trd n rd rs imm, .drd n rd rs w, .dwr n rd rs w, .dadd n rd rs, .cmov n rd rs, .cclr n rd,
        .cperm n rd rs rt, .cbnd n rd rs rt w4, .crd n rd rs w4],
      ∃ c, exec i s = .next (s.putCl n c)

/-! ## The sequencer: memory, IO and descriptors (R220–R229, R248) -/

/-- A load of words of the cluster's own local store under a capability that covers them with RD has them under way to its
destination, visible three advancing cycles later, counts as a request of the sequencer's access path to the banks (R169),
and changes nothing else (R221, R225, R228). The model's own choices here are those of log entry 6. The model's own
choices here are those of log entry 6. -/
def Obligations.LoadsOfOwnWords : Prop :=
  ∀ (n : Cl) (rd : Reg) (vd : VReg) (rs : Reg) (imm : BitVec 9) (s : State), Issues n s → (s.cl n).sbuf = [] →
    let c := s.cl n
    let a := (xGet c rs + imm.signExtend 24).toNat
    let may (k : Nat) : Prop := OwnWords n a k s ∧ capFault (cGet c rs) (lsAddr n a) k permRD = none
    let w (i : Nat) : Word := memGet (lsAddr n (a + i)) s
    let ends (asked : List Nat) (d : List (RegName × RegVal)) : Out :=
      .next (s.putCl n (goOn { ask asked c with due := d.map fun p => ⟨p.1, p.2, c.cyc + 3⟩ }))
    (may 1 → exec (.ld n rd rs imm) s = ends [9] [(xName c rd, .w (w 0))]) ∧
    (may 2 → rd.val % 2 = 0 → exec (.ldd n rd rs imm) s = ends [9] [(xName c rd, .w (w 0)), (xName c (rd.val + 1), .w (w 1))]) ∧
    (may 2 → ioBit 0x10 20 c = true → exec (.ldf n rd rs imm) s = ends [9] [(.f rd, .f (DWord.ofWords (w 0) (w 1)))]) ∧
    (may 4 → ioBit 0x10 20 c = true → exec (.ldv n vd rs imm) s =
      ends [9] [(.f (2 * vd.val), .f (DWord.ofWords (w 0) (w 1))), (.f (2 * vd.val + 1), .f (DWord.ofWords (w 2) (w 3)))]) ∧
    (may 5 → exec (.dld n rd rs imm) s =
      ends [9] [(.dWord rd 0, .w (w 0)), (.dWord rd 1, .w (w 1)), (.dWord rd 2, .w (w 2)), (.dWord rd 3, .w (w 3)), (.dWord rd 4, .w (w 4))]) ∧
    (may 4 → ∀ v, loadCap s (capOfWords (w 0) (w 1) (w 2) (w 3)) = some v → exec (.cld n rd rs imm) s = ends [9] [(.c rd, .c v)]) ∧
    (a < 0x4000 → capFault (cGet c rs) (istoreAddr n a) 1 permRD = none →
      exec (.trd n rd rs imm) s = ends [] [(xName c rd, .w (memGet (istoreAddr n a) s))])

/-- A store to the cluster's own local store under a capability that covers the words with WR enters the store buffer as
one entry while it holds fewer than four; memory does not change until the entry drains (R221, R228). The oldest entry of
the store buffer drains: each of its words, in the cluster's own local store, reads as stored, in the order of the entry,
and every other word of memory is as it was; the entry leaves the buffer (R228, R229). The model's own choices here are
those of log entry 36. -/
def Obligations.StoresWaitAndDrainInOrder : Prop :=
  (∀ (n : Cl) (rd : Reg) (vd : VReg) (rs : Reg) (imm : BitVec 9) (s : State), Issues n s → (s.cl n).sbuf.length < 4 →
     let c := s.cl n
     let a := (xGet c rs + imm.signExtend 24).toNat
     let may (k : Nat) : Prop := OwnWords n a k s ∧ capFault (cGet c rs) (lsAddr n a) k permWR = none
     let ends (ws : List Word) : Out :=
       .next (s.putCl n (goOn { c with
         sbuf := c.sbuf ++ [⟨((List.range ws.length).map fun i => lsAddr n (a + i)).zip ws, rs, cGet c rs, false,
           xGet c rs + imm.signExtend 24, 0⟩] }))
     (may 1 → exec (.st n rd rs imm) s = ends [xGet c rd]) ∧
     (may 2 → rd.val % 2 = 0 → exec (.std n rd rs imm) s = ends [xGet c rd, xGet c (rd.val + 1)]) ∧
     (may 2 → ioBit 0x10 20 c = true → exec (.stf n rd rs imm) s =
       ends [(fGet c rd).extractLsb' 0 24, (fGet c rd).extractLsb' 24 24]) ∧
     (may 4 → ioBit 0x10 20 c = true → exec (.stv n vd rs imm) s = ends [vLane c vd 0, vLane c vd 1, vLane c vd 2, vLane c vd 3]) ∧
     (may 5 → exec (.dsto n rd rs imm) s = ends ((List.range 5).map (descGet (dGet c rd)))) ∧
     (may 4 → ((cGet c rd).valid = true → capHas (cGet c rd).bits permGLB = true) →
       exec (.cst n rd rs imm) s = ends ((List.range 4).map (capWord (cGet c rd).bits)))) ∧
  (∀ (n : Cl) (off : Nat) (ws : List Word) (slot : Nat) (cap : CapV) (a0 : Word) (rest : List SEntry) (s : State),
     (s.cl n).sbuf = ⟨((List.range ws.length).map fun i => lsAddr n (off + i)).zip ws, slot, cap, false, a0, 0⟩ :: rest →
     clocked n s = true → OwnWords n off ws.length s →
     ∃ t, exec (.storeBufferDrain n) s = .next t ∧ (t.cl n).sbuf = rest ∧
       (∀ i, i < ws.length → memGet (lsAddr n (off + i)) t = ws.getD i 0) ∧
       (∀ a, a < lsAddr n off ∨ lsAddr n off + ws.length ≤ a → memGet a t = memGet a s) ∧
       t.hub = s.hub)

/-- IN, OUT, INR and OUTR at an address that their capability covers with IO and the permission read and write the IO
register as soon as the store buffer is empty; what is read is visible from the end of the stall. Here the register is one of
`plainIo`: a write sets its RW fields, a 1 clears its RW1C bits, and its RO and reserved bits stay (R8, R176, R223). DRD, DWR and DADD read a word of a
descriptor register, write one, and add a signed word to its BASE modulo 2^40 (R218). -/
def Obligations.IoAndDescriptorWords : Prop :=
  (∀ (n : Cl) (rd rs : Reg) (io : BitVec 13) (imm : BitVec 9) (s : State), Issues n s → (s.cl n).sbuf = [] →
     let c := s.cl n
     let slot := ioFld 0x0 3 0 c
     let far := (xGet c rs + imm.setWidth 24).toNat
     (∀ off rw w1c, off = io.toNat → (off, rw, w1c) ∈ plainIo →
       (ioFault (cGet c slot) off permRD = none → exec (.ioIn n rd io) s =
         .next (s.putCl n (goOn (later 4 (xName c rd) (.w (ioGet off c)) c)))) ∧
       (ioFault (cGet c slot) off permWR = none → exec (.ioOut n rd io) s =
         .next (s.putCl n (goOn (ioPut off (written rw w1c (ioGet off c) (xGet c rd)) c))))) ∧
     (∀ rw w1c, (far, rw, w1c) ∈ plainIo →
       (ioFault (cGet c rs) far permRD = none → exec (.ioInr n rd rs imm) s =
         .next (s.putCl n (goOn (later 4 (xName c rd) (.w (ioGet far c)) c)))) ∧
       (ioFault (cGet c rs) far permWR = none → exec (.ioOutr n rd rs imm) s =
         .next (s.putCl n (goOn (ioPut far (written rw w1c (ioGet far c) (xGet c rd)) c)))))) ∧
  (∀ (n : Cl) (rd d rs : Reg) (w : BitVec 3) (s : State), Issues n s → w.toNat < 5 →
     let c := s.cl n
     let g := dGet c d
     let put (e : Desc) : Cluster := { c with dregs := smPut Desc.zero c.dregs d e }
     exec (.drd n rd d w) s = .next (s.putCl n (goOn (xSet rd (descGet g w.toNat) c))) ∧
     exec (.dwr n d rs w) s = .next (s.putCl n (goOn (put (descPut g w.toNat (xGet c rs))))) ∧
     exec (.dadd n d rs) s =
       .next (s.putCl n (goOn (put { g with base := BitVec.ofInt 40 (g.base.toNat + (xGet c rs).toInt) }))))

/-! ## The sequencer: transfers, skips and loops (R231–R236) -/

/-- BRA, JR, LINK, LINKR, CALL and CALLR go to their target at the cost of R231; a link register takes the address of the
following word, which the return stack takes too; a call moves to the next window, and a transfer that is no call ends a
loop that its target lies outside of (R211, R218, R231, R232, R236); no OUT of RSFLUSH is under way. RET and RETL continue at x14, at a cost of one bubble
where the return stack predicts it and of three, with the misprediction and the words cancelled counted, where its entry is
another address; RET
moves back to the window before (R211, R231, R232). -/
def Obligations.TransfersAndReturns : Prop :=
  (∀ (n : Cl) (rs : Reg) (off : BitVec 17) (s : State), Issues n s → (s.cl n).flushAt = [] →
     let c := s.cl n
     let near := c.pc + off.signExtend 24
     let far := xGet c rs
     let linked := xSet 14 (c.pc + 1) (pushReturn (c.pc + 1) c)
     exec (.bra n off) s = .next (s.putCl n (jumpTo near 1 (endLoop near c))) ∧
     exec (.link n off) s = .next (s.putCl n (jumpTo near 1 linked)) ∧
     exec (.jr n rs) s = .next ((wrongPath n c.pc s).modCl n fun d => jumpTo far 3 (endLoop far d)) ∧
     exec (.linkr n rs) s = .next ((wrongPath n c.pc (s.putCl n linked)).modCl n (jumpTo far 3)) ∧
     (fastLevel c = true ∨ wres c < 8 →
       exec (.call n off) s = .next (s.putCl n (jumpTo near 1 (windowIn linked))) ∧
       exec (.callr n rs) s = .next ((wrongPath n c.pc (s.putCl n (windowIn linked))).modCl n (jumpTo far 3)))) ∧
  (∀ (n : Cl) (top : Word) (below : List Word) (s : State), Issues n s → (s.cl n).flushAt = [] →
     (s.cl n).rstack = below ++ [top] →
     let c := s.cl n
     let d := { c with rstack := below }
     let x14 := xGet c 14
     let ends (f : Cluster → Cluster) : Out :=
       .next (if top = x14 then s.putCl n (jumpTo x14 1 (endLoop x14 (f d)))
         else (cancelled n 2 top (s.putCl n (evcEvent 0x06 1 d))).modCl n fun e => jumpTo x14 3 (endLoop x14 (f e)))
     exec (.retl n) s = ends id ∧
     (fastLevel c = true ∨ 2 ≤ wres c → exec (.ret n) s = ends windowOut))

/-- BC goes to its target if its condition holds and to the following word if not; where the outcome differs from the hint
it costs three bubbles, the misprediction and the words cancelled count, and a branch that was predicted to fall through leaves the D-stage action of the word
after it (R218, R231, R233). SKIP and SKB have the next word cancelled exactly when their condition holds, and the next
word, whatever ALU word it is, then has no effect but to pass (R234). -/
def Obligations.BranchesAndSkips : Prop :=
  (∀ (n : Cl) (cond : Cond) (hint : Bool) (off : BitVec 12) (s : State), Issues n s →
     let c := s.cl n
     let target := c.pc + off.signExtend 24
     let missed := evcEvent 0x05 1 c
     exec (.bc n cond hint off) s = .next (match condHolds cond (ccGet c), hint with
       | false, false => s.putCl n (goOn c)
       | true, true => s.putCl n (jumpTo target 1 (endLoop target c))
       | false, true => (cancelled n 2 target (s.putCl n missed)).modCl n (jumpTo (c.pc + 1) 3)
       | true, false => (wrongPath n c.pc (s.putCl n missed)).modCl n fun d => jumpTo target 3 (endLoop target d))) ∧
  (∀ (n : Cl) (rd rs rt : Reg) (cond : Cond) (sense : Bool) (bit : BitVec 5) (s : State), Issues n s →
     let c := s.cl n
     exec (.skip n cond) s = .next (s.putCl n (goOn { c with skipNext := condHolds cond (ccGet c) })) ∧
     (bit.toNat < 24 → exec (.skb n rs sense bit) s =
       .next (s.putCl n (goOn { c with skipNext := bitOf bit.toNat (xGet c rs) == sense }))) ∧
     (let t := s.putCl n { c with skipNext := true }
      exec (.aluAdd n rd rs rt) t = .next (s.putCl n (passOver c))))

/-- LOOP and LOOPI with a count set the loop registers and ACTIVE and go on into the body; with a count of 0 they continue
after the word at END with ACTIVE 0, at a cost of one bubble (R231, R235). The word at END of an active loop: with a count
above 1 the count goes down and the next word is START; with a count of 1 the count becomes 0, ACTIVE 0, and the following
word is next (R235). The word here is an ALU word, with its own effect. -/
def Obligations.LoopsRunTheirWords : Prop :=
  (∀ (n : Cl) (rs : Reg) (count : BitVec 8) (len : BitVec 9) (s : State), Issues n s → len ≠ 0 →
     let c := s.cl n
     let put (k : Word) (active : Bool) : Cluster :=
       ioPut 0x4 k (ioPut 0x5 (BitVec.ofNat 24 ((c.pc.toNat + 1) % 2 ^ 14))
         (ioPut 0x6 (BitVec.ofNat 24 (active.toNat * 2 ^ 23 + (c.pc.toNat + len.toNat) % 2 ^ 14)) c))
     let ends (k : Word) : Out :=
       .next (s.putCl n (if k = 0 then jumpTo (c.pc + BitVec.ofNat 24 (len.toNat + 1)) 1 (put k false) else goOn (put k true)))
     exec (.loop n rs len) s = ends (xGet c rs) ∧ exec (.loopi n count len) s = ends (BitVec.ofNat 24 count.toNat)) ∧
  (∀ (n : Cl) (rd rs rt : Reg) (s : State),
     let c := s.cl n
     seqReady n s = true → c.vsync = none → c.slotA = none → c.skipNext = false → c.pc.toNat < 0x4000 → c.due = [] →
     c.loopLag = [] → c.lateFault = none → c.ibad = [] → afterSetIe c = false →
     ioBit 0x6 23 c = true → ioFld 0x6 13 0 c = c.pc.toNat →
     let k := (ioGet 0x4 c).toNat
     let d := xSet rd (xGet c rs + xGet c rt) (ioPut 0x4 (BitVec.ofNat 24 (k - 1)) c)
     (2 ≤ k → exec (.aluAdd n rd rs rt) s = .next (s.putCl n { goOn d with pc := ioGet 0x5 c })) ∧
     (k = 1 → exec (.aluAdd n rd rs rt) s = .next (s.putCl n (goOn (ioSetBit 0x6 23 false d)))))

/-! ## The sequencer: system calls, traps and interrupts (R252–R266) -/

/-- SYS in its one issue cycle (R252): SEQ_SYS_RPC takes PC + 1, SEQ_SYS_NUM the service, c13 and ENTRY_CAP exchange values, ACT
becomes 1, the PC becomes SEQ_ENTRY_PC, at a cost of three bubbles; memory and the return stack stay as they are. With ACT = 1 it
is an illegal instruction, with ENTRY_CAP null capability fault 0x01, and the word then changes nothing before the trap but the
event counters that select words reaching RR (R494). -/
def Obligations.SysEntersTheService : Prop :=
  ∀ (n : Cl) (service : BitVec 9) (s : State), Issues n s →
    let c := s.cl n
    let act := ioBit 0x10 21 c
    let entry := smAt CapV.null c.special 0
    let u := s.modCl n (evcEvent 0x02 1)
    (act = false → entry.valid = true → exec (.sys n service) s = .next (s.putCl n (jumpTo (ioGet 0x16 c) 3
      (ioSetBit 0x10 21 true (swapEntry (ioPut 0x18 (service.setWidth 24) (ioPut 0x17 (c.pc + 1) c))))))) ∧
    (∀ t, act = true → syncTrap n 2 0 0 (BitVec.ofNat 24 (0x23 * 2 ^ 17 + service.toNat)) c.pc u = some t →
      exec (.sys n service) s = .next t) ∧
    (∀ t, act = false → entry.valid = false → syncTrap n 6 0 0x01 0 c.pc u = some t → exec (.sys n service) s = .next t)

/-- SRET exchanges c13 and ENTRY_CAP back, sets ACT = 0 and continues at SEQ_SYS_RPC at a cost of three bubbles; with ACT = 0 it is
an illegal instruction; a trap's entry leaves ACT, SEQ_SYS_RPC and ENTRY_CAP as they are (R253). -/
def Obligations.SretReturnsFromTheService : Prop :=
  ∀ (n : Cl) (s : State), Issues n s →
    let c := s.cl n
    let act := ioBit 0x10 21 c
    (act = true → exec (.sret n) s = .next (s.putCl n (jumpTo (ioGet 0x17 c) 3 (ioSetBit 0x10 21 false (swapEntry c))))) ∧
    (∀ t, act = false → syncTrap n 2 0 0 (BitVec.ofNat 24 (0x24 * 2 ^ 17 + 3 * 2 ^ 4)) c.pc (s.modCl n (evcEvent 0x02 1)) = some t →
      exec (.sret n) s = .next t) ∧
    (∀ vec cause info rpc t, enterVector n vec cause info rpc s = some t →
      ioBit 0x10 21 (t.cl n) = act ∧ ioGet 0x17 (t.cl n) = ioGet 0x17 c ∧
      smAt CapV.null (t.cl n).special 0 = smAt CapV.null c.special 0)

/-- CLR_IE and SET_IE put IE, and the machine keeps that the word before is SET_IE; WAIT begins to wait, SYNC with an empty
store buffer goes on, and VSYNC goes on when no group that the sequencer issued before it is left, or stalls with nothing else
changed (R218, R230, R238, R255). An event
that waits at an interrupt input sets its bit in SEQ_IRQ_PEND, enabled or not, and no longer waits; nothing else of the
cluster changes (R256). When the watchdog's COUNT has reached its LIMIT the cluster enters fault-stop with its cause 4:
its groups are gone, the spare manager learns the cause, and its sequencer issues nothing more, whatever word comes (R263,
R264). -/
def Obligations.ControlWordsInterruptInputsAndWatchdog : Prop :=
  (∀ (n : Cl) (s : State), Issues n s →
     let c := s.cl n
     let waits := c.groups.any fun g => g.set.isNone && decide (g.gid < c.nextGid)
     exec (.clrIe n) s = .next (s.putCl n (goOn (putIe false c))) ∧
     exec (.setIe n) s = .next (s.putCl n (goOn { putIe true c with ieAt := some (c.cyc + 1) })) ∧
     exec (.wait n) s = .next (s.putCl n (goOn { c with waiting := true })) ∧
     (c.sbuf = [] → exec (.sync n) s = .next (s.putCl n (goOn c))) ∧
     exec (.vsync n) s = .next (s.putCl n (if waits then { c with vsync := some c.nextGid } else goOn c))) ∧
  (∀ (n : Cl) (k : Fin 64) (s : State), clocked n s = true → taskIrq n k ∈ s.ev.taskIn →
     exec (.interruptInputEvent n k) s = .next { s with
       ev := { s.ev with taskIn := s.ev.taskIn.erase (taskIrq n k) }
       cls := s.cls.set n (ioSetBit (0x30 + k / 24) (k % 24) true (s.cl n)) }) ∧
  (∀ (n : Cl) (rd rs rt : Reg) (s : State), ioGet 0x1E (s.cl n) = 0 → ioFld 0x1D 7 0 (s.cl n) ≤ ioFld 0x1D 15 8 (s.cl n) →
     ∃ d, exec (.watchdogExpiry n) s = .next (s.putCl n d) ∧ ioGet 0x1E d = 4 ∧ d.groups = [] ∧ d.forming = [] ∧
       d.failCause = true ∧
       exec (.aluAdd n rd rs rt) (s.putCl n d) = .next (s.putCl n d) ∧ exec (.bra n 0) (s.putCl n d) = .next (s.putCl n d))

/-- An illegal instruction at the normal level pushes its frame (R260, R261): the four words enter the store buffer as one
entry below x15, under c15, which covers them with STK and WR; x15 goes down by 4, the cause and information words are
kept, IE becomes 0, and handler 2 goes on four advancing cycles later. RETI at the normal level pops the frame at x15 that
c15 covers with STK and RD: it restores IE and CC, moves x15 up by 4, leaves CWP, and its first returned word reaches RR
six advancing cycles after it (R262). The model's own choices here are those of log entry 34. -/
def Obligations.NormalFramesAndTheirReturn : Prop :=
  (∀ (n : Cl) (w : Word) (s : State), Issues n s →
     let c := s.cl n
     let sp := xBank c (.com 15)
     let cap := cGet c 15
     let status := BitVec.ofNat 24 ((ioBit 0x10 23 c).toNat * 2 ^ 23 + cwp c * 2 ^ 16 + (ccGet c).toNat)
     wordIllegal w = true → fastLevel c = false → c.sbuf.length < 4 → 4 ≤ sp.toNat → sp.toNat ≤ 0x40000 →
     capFault cap (lsAddr n (sp.toNat - 4)) 4 permWR = none → capFault cap (capBase cap.bits) 0 permSTK = none →
     exec (.illegalInstruction n w) s = .next (s.putCl n (putIe false (ioPut 0x13 w (ioPut 0x12 2 { evcEvent 0x02 1 c with
       com := smPut 0 c.com 15 (sp - 4)
       sbuf := c.sbuf ++ [⟨((List.range 4).map fun i => lsAddr n (sp.toNat - 4 + i)).zip [c.pc, status, 2, w], 15, cap, false,
         sp - 4, 0⟩]
       tdepth := c.tdepth + 1
       pc := 16
       cyc := c.cyc + 4
       skipSlotA := false
       waiting := false
       stepping := false }))))) ∧
  (∀ (n : Cl) (s : State), Issues n s → fastLevel (s.cl n) = false → (s.cl n).sbuf = [] →
     let c := s.cl n
     let sp := xBank c (.com 15)
     let cap := cGet c 15
     let w (i : Nat) : Word := memGet (lsAddr n (sp.toNat + i)) s
     OwnWords n sp.toNat 4 s → capFault cap (lsAddr n sp.toNat) 4 permRD = none →
     capFault cap (capBase cap.bits) 0 permSTK = none →
     exec (.reti n) s = .next (s.putCl n (evcEvent 0x02 1 (ioPut 0x2 (w 1 &&& 0x1F) (putIe (bitOf 23 (w 1)) { ask [9] c with
       com := smPut 0 c.com 15 (sp + 4)
       pc := w 0
       cyc := c.cyc + 6
       tdepth := c.tdepth - 1
       vhand := if c.vhand = some c.tdepth then none else c.vhand
       excSets := c.excSets.filter fun p => p.2 ≠ some c.tdepth
       stepping := false })))))

/-- A fast interrupt that is pending, enabled and permitted is taken (R257, R265): SEQ_FPC and SEQ_FSTAT take the return
PC and the status word, the cause is 10, IE becomes 0 and FAST 1, the fast bank replaces the x registers, and handler 10
goes on three advancing cycles later; no other cluster and no memory changes. RETI at the fast level continues at SEQ_FPC,
restores IE, CWP and CC from SEQ_FSTAT, sets FAST = 0, makes no memory access and costs three bubbles (R266). -/
def Obligations.FastInterruptsAndTheirReturn : Prop :=
  (∀ (n : Cl) (k : Fin 64) (s : State), seqOn n s = true →
     let c := s.cl n
     ioGet 0x1E c = 0 → c.pc.toNat < 0x4000 → c.lateFault = none → stalled c = false → c.halted = false → c.due = [] →
     c.slotA = none → c.skipNext = false → c.mcheck = none → c.vexc = false →
     ioBit 0x10 23 c = true → fastLevel c = false →
     ioBit (0x30 + k / 24) (k % 24) c = true → ioBit (0x33 + k / 24) (k % 24) c = true → ioBit (0x36 + k / 24) (k % 24) c = true →
     ∃ d, exec (.interruptTaken n) s = .next (s.putCl n d) ∧
       d.pc = 80 ∧ d.cyc = c.cyc + 3 ∧ ioGet 0x14 d = c.pc ∧ ioGet 0x15 d = statusWord c ∧ ioGet 0x12 d = 10 ∧ ioGet 0x13 d = 0 ∧
       ioBit 0x10 23 d = false ∧ ioBit 0x10 22 d = true ∧ d.waiting = false ∧ d.vsync = none ∧
       (∀ r : Reg, xName d r = .fast r) ∧ d.win = c.win ∧ d.com = c.com ∧ d.fastBank = c.fastBank ∧ d.sbuf = c.sbuf) ∧
  (∀ (n : Cl) (s : State), Issues n s → fastLevel (s.cl n) = true →
     let c := s.cl n
     let w := ioGet 0x15 c
     exec (.reti n) s = .next (s.putCl n (jumpTo (ioGet 0x14 c) 3 (ioPut 0x2 (w &&& 0x1F)
       (putIe (bitOf 23 w) (ioSetBit 0x10 22 false (ioSetFld 0x10 18 16 (fld 18 16 w) c)))))))

/-- The window engine (R268, R269): with seven or eight windows resident a spill stores the oldest window's eight
registers at SEQ_WSP and moves SEQ_WSP up by 8 and WRES down by 1; with one resident a fill loads the window before it
from below SEQ_WSP and moves them back. The save area lies here in the cluster's own local store, under WSAVE_CAP with WS
and RD or WR. SWITCH (R270, R271) whose steps go ahead: after step 6 stands the incoming context of the record at x[rs],
and the sequencer continues at its resume PC once its window has filled. What step 6 put there: CWP, IE and CC of the
status word, one resident window, x15, SEQ_WSP and the loop registers of the record, SEQ_CTX at the record, c15 and
WSAVE_CAP; with one window resident, an FP area of its own, and record, save areas and outgoing record in own words that
their capabilities cover, all the steps go ahead. The model's own choices here are those of log entry 35. -/
def Obligations.WindowsAndContextSwitches : Prop :=
  (∀ (n : Cl) (s : State), seqOn n s = true →
     let c := s.cl n
     let wsp := (ioGet 0x19 c).toNat
     let cap := smAt CapV.null c.special 1
     ioGet 0x1E c = 0 → fastLevel c = false → ioBit 0x10 11 c = false → c.due = [] → capHas cap.bits permWS = true →
     (7 ≤ wres c → wres c ≤ 8 → OwnWords n wsp 8 s → capFault cap (lsAddr n wsp) 8 permWR = none →
       ∃ t, exec (.windowSpill n) s = .next t ∧ wres (t.cl n) = wres c - 1 ∧ cwp (t.cl n) = cwp c ∧
         ioGet 0x19 (t.cl n) = ioGet 0x19 c + 8 ∧
         (∀ r, r < 8 → memGet (lsAddr n (wsp + r)) t = xBank c (.win ((cwp c + 9 - wres c) % 8) r)) ∧
         (∀ a, a < lsAddr n wsp ∨ lsAddr n wsp + 8 ≤ a → memGet a t = memGet a s)) ∧
     (wres c = 1 → 8 ≤ wsp → OwnWords n (wsp - 8) 8 s → capFault cap (lsAddr n (wsp - 8)) 8 permRD = none →
       ∃ t, exec (.windowFill n) s = .next t ∧ wres (t.cl n) = 2 ∧ cwp (t.cl n) = cwp c ∧
         ioGet 0x19 (t.cl n) = ioGet 0x19 c - 8 ∧ t.mem = s.mem ∧
         (∀ r, r < 8 → xBank (t.cl n) (.win ((cwp c + 7) % 8) r) = memGet (lsAddr n (wsp - 8 + r)) s))) ∧
  (∀ (n : Cl) (rs : Reg) (c15 wsave : CapV) (ws : List Word) (s r t u v : State), Issues n s → rs.val % 2 = 0 →
     ioBit 0x10 21 (s.cl n) = false → (s.cl n).sbuf = [] →
     let a := xGet (s.cl n) rs
     directLoad n (cGet (s.cl n) rs) a 16 s = .ok ws r →
     recordCap ws 4 permSTK r = .ok c15 → recordCap ws 8 permWS r = .ok wsave →
     swSpill n (wres (r.cl n)) r = .ok t → swReserve n t = .ok u →
     directStore n (cGet (s.cl n) rs) (ioGet 0x1A (u.cl n)) (swRecord ((u.cl n).pc + 1) (u.cl n)) u = .ok v →
     ∀ w, fillLoad n (fld 18 16 (ws.getD 1 0)) (v.modCl n (swCommit ws a c15 wsave)) = .ok w →
     ∃ d, exec (.switch n rs) s = .next (w.putCl n d) ∧ d.pc = ws.getD 0 0 ∧ wres d = 1 ∧ cwp d = fld 18 16 (ws.getD 1 0) ∧
       ioBit 0x10 23 d = bitOf 23 (ws.getD 1 0) ∧ ccGet d = (ws.getD 1 0).setWidth 5 ∧ xBank d (.com 15) = ws.getD 2 0 ∧
       ioGet 0x19 d = ws.getD 3 0 - 8 ∧ ioGet 0x1A d = a ∧ ioGet 0x1B d = ws.getD 12 0 ∧ ioGet 0x4 d = ws.getD 13 0 ∧
       cGet d 15 = c15 ∧ smAt CapV.null d.special 1 = wsave) ∧
  (∀ (n : Cl) (rs : Reg) (c15 wsave : CapV) (s : State), Issues n s → rs.val % 2 = 0 → ioBit 0x10 21 (s.cl n) = false →
     (s.cl n).sbuf = [] → wres (s.cl n) = 1 → ioGet 0x1B (s.cl n) ≠ 0xFFFFFF →
     let c := s.cl n
     let a := (xGet c rs).toNat
     let record (i : Nat) : Word := memGet (lsAddr n (a + i)) s
     let wsp := (ioGet 0x19 c).toNat
     let out := (ioGet 0x1A c).toNat
     let save := smAt CapV.null c.special 1
     let back := (record 3).toNat - 8
     OwnWords n a 16 s → capFault (cGet c rs) (lsAddr n a) 16 permRD = none →
     loadCap s (capOfWords (record 4) (record 5) (record 6) (record 7)) = some c15 → c15.valid = true → capHas c15.bits permSTK = true →
     loadCap s (capOfWords (record 8) (record 9) (record 10) (record 11)) = some wsave → wsave.valid = true → capHas wsave.bits permWS = true →
     OwnWords n wsp 8 s → capHas save.bits permWS = true → capFault save (lsAddr n wsp) 8 permWR = none →
     OwnWords n out 16 s → capFault (cGet c rs) (lsAddr n out) 16 permWR = none →
     8 ≤ (record 3).toNat → OwnWords n back 8 s → capFault wsave (lsAddr n back) 8 permRD = none →
     ∃ t, exec (.switch n rs) s = .next t ∧ (t.cl n).pc = record 0 ∧ wres (t.cl n) = 1 ∧ cwp (t.cl n) = fld 18 16 (record 1) ∧
       ioBit 0x10 23 (t.cl n) = bitOf 23 (record 1) ∧ ccGet (t.cl n) = (record 1).setWidth 5 ∧ xBank (t.cl n) (.com 15) = record 2 ∧
       ioGet 0x19 (t.cl n) = record 3 - 8 ∧ ioGet 0x1A (t.cl n) = xGet c rs ∧ cGet (t.cl n) 15 = c15 ∧
       smAt CapV.null (t.cl n).special 1 = wsave ∧ t.hub = s.hub)

/-! ## The sequencer: capabilities (R242–R251) -/

/-- The capability words with n = 1 or 3 and the special capabilities (R248, R250, R251): CMOV copies, CCLR clears, CBND
narrows the range, CPERM the permissions, with a tag of their own, CRD reads a word or the validity, CSPR and CSPW, which slot IOCAP
must authorise, read and write special capability k. -/
def Obligations.CapabilityWords : Prop :=
  ∀ (n : Cl) (cd cs rt : Reg) (w : BitVec 4) (s : State), Issues n s →
    let c := s.cl n
    let v := cGet c cs
    let put (x : CapV) : Out := .next (s.putCl n (goOn { c with cregs := smPut CapV.null c.cregs cd x }))
    let b := (xGet c rt).toNat * 2 ^ w.toNat
    let l := (xGet c (rt.val + 1)).toNat * 2 ^ w.toNat
    let io := cGet c (ioFld 0x0 3 0 c)
    exec (.cmov n cd cs) s = put v ∧
    exec (.cclr n cd) s = put CapV.null ∧
    (v.valid = true → rt.val % 2 = 0 → w.toNat ≤ 8 → b + l ≤ capLen v.bits →
      exec (.cbnd n cd cs rt w) s = put ⟨mintCap s (capBase v.bits + b) l (capPerm v.bits), true⟩) ∧
    (v.valid = true → exec (.cperm n cd cs rt) s =
      put ⟨mintCap s (capBase v.bits) (capLen v.bits) (capPerm v.bits &&& (xGet c rt).toNat % 2 ^ 12), true⟩) ∧
    (w.toNat < 5 → exec (.crd n cd cs w) s = .next (s.putCl n (goOn (later 3 (xName c cd)
      (.w (if w.toNat = 4 then BitVec.ofNat 24 v.valid.toNat else capWord v.bits w.toNat)) c)))) ∧
    (w.toNat < 3 → c.sbuf = [] → ioFault io (0x3C + w.toNat) permRD = none → exec (.cspr n cd w) s =
      .next (s.putCl n (goOn (later 4 (.c cd) (.c (smAt CapV.null c.special w.toNat)) c)))) ∧
    (w.toNat < 3 → c.sbuf = [] → ioFault io (0x3C + w.toNat) permWR = none →
      (w.toNat = 0 → capHas v.bits permENT = true) → (w.toNat = 1 → capHas v.bits permWS = true) →
      exec (.cspw n cs w) s = .next (s.putCl n (goOn (later 4 (.special w.toNat) (.c v) c))))

/-- CBND and CPERM leave cd as it is (where they trap) or put a valid capability into it that reaches no word and holds no
permission that its source, itself valid, does not: no instruction widens a range, adds a permission or turns a null into a
valid capability (R249). The source's range ends within the 40-bit address space. -/
def Obligations.DerivedCapabilitiesLieWithinTheirSource : Prop :=
  ∀ (n : Cl) (cd cs rt : Reg) (sc : BitVec 4) (s : State), Issues n s →
    let v := cGet (s.cl n) cs
    capBase v.bits + capLen v.bits ≤ 2 ^ 40 →
    ∀ i ∈ [Instr.cbnd n cd cs rt sc, .cperm n cd cs rt], ∃ t, exec i s = .next t ∧
      let d := cGet (t.cl n) cd
      (d = cGet (s.cl n) cd ∨
        (v.valid = true ∧ d.valid = true ∧ (∀ a k, 0 < k → covers d a k = true → covers v a k = true) ∧
          ∀ k, k < 12 → capHas d.bits (2 ^ k) = true → capHas v.bits (2 ^ k) = true))

/-! ## The sequencer: floating point and short vectors (R212, R219, R240) -/

/-- FOP, FMA and FDIV deliver to fd the result that the vector order of the same name gives for their operands under
SEQ_FCSR.RND, and its flags into SEQ_FCSR.FLAGS; ABS, NEG and MOV take fs alone, an FMA takes fd as its addend. A FOP is
visible after 3 advancing cycles for F24 and 4 for F48, an FMA after 5 and 6, an FDIV at the end of its stall (R212, R219,
R225, R240). A floating-point word that raises a flag enabled in SEQ_FCSR.TE takes the floating-point trap at that word:
its result and its flags are written, and the trap's return address is the word after it (R240, R258). The word here is
FDIV_DIV. The model's own choices here are those of log entry 6. -/
def Obligations.ScalarFpWordsAndTheirTraps : Prop :=
  (∀ (n : Cl) (w : FWidth) (fd fs ft : Reg) (s : State), Issues n s → FpReady n s →
     let c := s.cl n
     let f := if w = .f24 then f24 else f48
     let rnd := ioFld 0x1 17 16 c
     let a := fOperand w c fs
     let b := fOperand w c ft
     let d := fOperand w c fd
     let slow := if w = .f24 then 0 else 1
     let ends (k : Nat) (r : DWord × Fl) : Out := .next (s.putCl n (goOn (laterAll k ((.f fd, .f r.1) :: flagsDue r.2) c)))
     let stalls (r : DWord × Fl) : Out := .next (s.putCl n (goOn (accrue r.2 (fSet fd r.1 c))))
     (∀ p ∈ scalarOps n w fd fs ft, exec p.1 s = ends (3 + slow) (fElem p.2 f rnd a b 0 0)) ∧
     exec (.fopAbs n w fd fs) s = ends (3 + slow) (fAbs f a, 0) ∧
     exec (.fopNeg n w fd fs) s = ends (3 + slow) (fNeg f a, 0) ∧
     exec (.fopMov n w fd fs) s = ends (3 + slow) (a, 0) ∧
     exec (.fmaAdd n w fd fs ft) s = ends (5 + slow) (fElem .vfma f rnd d a b 0) ∧
     exec (.fmaSub n w fd fs ft) s = ends (5 + slow) (fElem .vfms f rnd d a b 0) ∧
     exec (.fdivDiv n w fd fs ft) s = stalls (fElem .vdiv f rnd a b 0 0) ∧
     exec (.fdivRcp n w fd fs) s = stalls (fElem .vrcp f rnd a a 0 0) ∧
     exec (.fdivSqrt n w fd fs) s = stalls (fElem .vsqrt f rnd a a 0 0) ∧
     exec (.fdivRsqrt n w fd fs) s = stalls (fElem .vrsqrt f rnd a a 0 0)) ∧
  (∀ (n : Cl) (w : FWidth) (fd fs ft : Reg) (s : State), Issues n s → ioBit 0x10 20 (s.cl n) = true →
     let c := s.cl n
     let f := if w = .f24 then f24 else f48
     let r := fElem .vdiv f (ioFld 0x1 17 16 c) (fOperand w c fs) (fOperand w c ft) 0 0
     ∀ i < 5, bitOf i r.2 = true → bitOf (8 + i) (ioGet 0x1 c) = true →
       let t := s.putCl n (goOn (accrue r.2 (fSet fd r.1 c)))
       ∀ u, syncTrap n 7 0 (r.2.toNat % 32) 0 (c.pc + 1) t = some u → exec (.fdivDiv n w fd fs ft) s = .next u)

/-- FCMP sets Z for equal, N for less, C for greater, U for unordered and V to 0; the conversions deliver their results to
the f or x register; FMX and VLANE move words between x registers and halves of f registers, with no flag and nothing else
changed (R212, R217, R219, R225). The four-lane words deliver to each lane of vd the F24 result that the vector order
gives for that lane of their operands, and the OR of the four lanes' flags (R212, R219, R225, R240). The model's own
choices here are those of log entry 6. The model's own choices here are those of log entry 6. -/
def Obligations.FpConversionsMovesAndLanes : Prop :=
  (∀ (n : Cl) (w : FWidth) (sig : Bool) (rd rs : Reg) (vv : VReg) (lane : Fin 4) (s : State), Issues n s → FpReady n s →
     let c := s.cl n
     let f := if w = .f24 then f24 else f48
     let rnd := ioFld 0x1 17 16 c
     let a := fOperand w c rd
     let b := fOperand w c rs
     let un := isNan f a || isNan f b
     let lt := !un && fLt f false a b
     let gt := !un && fLt f false b a
     let low := (smAt 0 c.fregs rs).extractLsb' 0 24
     let high := (smAt 0 c.fregs rs).extractLsb' 24 24
     let half (r : Nat) (h : Bool) (v : Word) : Cluster :=
       let old := smAt 0 c.fregs r
       fSet r (if h then v ++ old.extractLsb' 0 24 else old.extractLsb' 24 24 ++ v) c
     let conv (p : RegName × RegVal) (fl : Fl) : Out := .next (s.putCl n (goOn (laterAll 3 (p :: flagsDue fl) c)))
     let toF (r : DWord × Fl) : Out := conv (.f rd, .f r.1) r.2
     let toX (r : DWord × Fl) : Out := conv (xName c rd, .w (r.1.setWidth 24)) r.2
     exec (.fcmp n w sig rd rs) s =
       conv (.cc, .cc ((flags un gt false lt (!un && !lt && !gt)).setWidth 5)) (fRel f (if sig then 2 else 0) a b).2 ∧
     exec (.fcvtF24ToF48 n rd rs) s = toF (fConv f24 f48 rnd (fOperand .f24 c rs)) ∧
     exec (.fcvtF48ToF24 n rd rs) s = toF (fConv f48 f24 rnd (fOperand .f48 c rs)) ∧
     exec (.fcvtI24ToF24 n rd rs) s = toF (intToF f24 rnd 0 (xGet c rs).toInt) ∧
     exec (.fcvtI24ToF48 n rd rs) s = toF (intToF f48 rnd 0 (xGet c rs).toInt) ∧
     exec (.fcvtF24ToI24 n rd rs) s = toX (fToInt f24 rnd 24 false true 0 (fOperand .f24 c rs)) ∧
     exec (.fcvtF48ToI24 n rd rs) s = toX (fToInt f48 rnd 24 false true 0 (fOperand .f48 c rs)) ∧
     exec (.fmxXToFLow n rd rs) s = .next (s.putCl n (goOn (half rd false (xGet c rs)))) ∧
     exec (.fmxXToFHigh n rd rs) s = .next (s.putCl n (goOn (half rd true (xGet c rs)))) ∧
     exec (.fmxFLowToX n rd rs) s = .next (s.putCl n (goOn (xSet rd low c))) ∧
     exec (.fmxFHighToX n rd rs) s = .next (s.putCl n (goOn (xSet rd high c))) ∧
     exec (.vlaneWrite n vv lane rs) s =
       .next (s.putCl n (goOn (half (2 * vv.val + lane.val / 2) (decide (lane.val % 2 = 1)) (xGet c rs)))) ∧
     exec (.vlaneRead n rd lane vv) s = .next (s.putCl n (goOn (xSet rd
       ((smAt 0 c.fregs (2 * vv.val + lane.val / 2)).extractLsb' (24 * (lane.val % 2)) 24) c)))) ∧
  (∀ (n : Cl) (vd va vb : VReg) (s : State), Issues n s → FpReady n s →
     let c := s.cl n
     let rnd := ioFld 0x1 17 16 c
     let lane (v : VReg) (i : Nat) : DWord := (vLane c v i).setWidth 48
     let ends (k : Nat) (e : Nat → DWord × Fl) : Out :=
       .next (s.putCl n (goOn (laterAll k ((fourLanes vd e).1 ++ flagsDue (fourLanes vd e).2) c)))
     let stalls (e : Nat → DWord × Fl) : Out :=
       .next (s.putCl n (goOn (accrue (fourLanes vd e).2
         (fSet (2 * vd.val + 1) (DWord.ofWords ((e 2).1.setWidth 24) ((e 3).1.setWidth 24))
           (fSet (2 * vd.val) (DWord.ofWords ((e 0).1.setWidth 24) ((e 1).1.setWidth 24)) c)))))
     (∀ p ∈ laneOps n vd va vb, exec p.1 s = ends 3 fun i => fElem p.2 f24 rnd (lane va i)
       (if p.2 ∈ [VOp.vabs, .vneg, .vmov] then lane va i else lane vb i) 0 0) ∧
     exec (.vfma4Add n vd va vb) s = ends 5 (fun i => fElem .vfma f24 rnd (lane vd i) (lane va i) (lane vb i) 0) ∧
     exec (.vfma4Sub n vd va vb) s = ends 5 (fun i => fElem .vfms f24 rnd (lane vd i) (lane va i) (lane vb i) 0) ∧
     exec (.vdiv4Div n vd va vb) s = stalls (fun i => fElem .vdiv f24 rnd (lane va i) (lane vb i) 0 0) ∧
     exec (.vdiv4Rcp n vd va) s = stalls (fun i => fElem .vrcp f24 rnd (lane va i) (lane va i) 0 0) ∧
     exec (.vdiv4Sqrt n vd va) s = stalls (fun i => fElem .vsqrt f24 rnd (lane va i) (lane va i) 0 0) ∧
     exec (.vdiv4Rsqrt n vd va) s = stalls (fun i => fElem .vrsqrt f24 rnd (lane va i) (lane va i) 0 0))

/-! ## Orders and groups (R82–R110, R156, R237) -/

/-- An order of the queue that finds room enters it, with the registers as its last issue cycle finds them: its group goes
on forming, or with CG = 1 and no order fault waits to start; ISS names the kind of issue (R94, R97, R98, R237, R238). An
APPEND order goes to the next slot of the set in build, whose COUNT goes up (R99). -/
def Obligations.OrdersReachTheQueueAndTheStore : Prop :=
  (∀ (n : Cl) (ord : Order96) (s : State), Issues n s → (s.cl n).pc.toNat + 4 ≤ 0x4000 →
     (oScal ord < 16 → ioBit 0x10 20 (s.cl n) = true) → queueOrders (s.cl n) < 16 → (s.cl n).forming.length < 6 →
     let c := s.cl n
     let d := evcEvent 0x0B 1 c
     ∀ p ∈ [((0 : Nat), Instr.orderIssueQueue n ord), (1, .orderIssueFence n ord), (3, .orderIssueNotify n ord)],
       let o := withIss p.1 ord
       let q : QOrder := ⟨o, c.pc, orderK c o, copyDescs (regDesc c) o⟩
       let all := c.forming ++ [q]
       (oCg o = false → exec p.2 s = .next (s.putCl n (goOn4 { d with forming := all }))) ∧
       (oCg o = true → groupFault all = none → exec p.2 s = .next (s.putCl n (goOn4 { d with
         forming := []
         groups := c.groups ++ [newGroup c.nextGid none all (decide (p.1 = 1)) (decide (p.1 = 3)) c.sbuf.length]
         nextGid := c.nextGid + 1 })))) ∧
  (∀ (n : Cl) (k : Set8) (ord : Order96) (s : State), Issues n s → (s.cl n).pc.toNat + 4 ≤ 0x4000 →
     (oScal ord < 16 → ioBit 0x10 20 (s.cl n) = true) →
     let c := s.cl n
     let slot := setStart k c + setCount k c
     setBuild k c = true → (∀ j : Set8, j < k → setBuild j c = false) → setCount k c < 16 → slot < 128 →
     (∀ j : Set8, j ≠ k → setBuilt j c = true → slot < setStart j c ∨ setStart j c + setCount j c ≤ slot) →
     exec (.orderAppend n ord) s = .next (s.putCl n (goOn4 (ioSetFld (0x190 + k) 9 5 (setCount k c + 1)
       { c with ostore := smPut 0 c.ostore slot (withIss 2 ord) }))))

/-- A group that may start opens its streams and runs: it has its element count, the traps sampled, and the words its
streams fetch at their open; memory stays as it is. The first start is GROUP_START, a later one, from element 0,
GROUP_RESTART (R78, R98, R106, R132, R156). No patch and no error of the control store bears on its routine. The words
that the write buffer of a running group's first stream holds for one row reach their bank: memory there holds them, every
other word of memory is as it was, and the words leave the buffer (R107, R166). Here the row lies in the cluster's own
local store, the words are distinct, and no other stream of the group wrote there. A running group whose orders have all
run, whose routine has ended and whose buffers are empty completes: it is gone, its flags have accrued into VU_FLAGS, the
masks it wrote are in their registers, and with NOTIFY interrupt input 2 is pending (R97, R135, R163). The oldest held
exception takes the VU_EXC registers once VALID is 0, and raises the vector-exception trap (R106). The model's own choices
here are those of log entries 7 and 30. The model's own choices here are those of log entries 7 and 30. -/
def Obligations.GroupsRunToTheirEnd : Prop :=
  (∀ (n : Cl) (gid : Nat) (g : Group) (red : Bool) (s : State), clocked n s = true →
     group? n gid s = some g → mayStart (stuckGroup n s) g (s.cl n) = some red →
     groupN g.orders ≠ 0 → groupN g.orders ≤ 4096 → groupFault g.orders = none → openFault n g (groupN g.orders) s = none →
     pausedGroup n g s = false → microQuiet (activeHalf n s) (s.cl n) = true →
     let opened : Group := { g with
       phase := .running
       n := groupN g.orders
       trapen := ioGet 0x1D1 (s.cl n)
       redAdd := red
       patchB := activeHalf n s
       micro := some (microStart 0 (g.orders.map fun q => oOpc q.bits)) }
     ∀ filled, openReads n opened ⟨s, false, none, 0, none⟩ = (⟨s, false, none, 0, none⟩, filled) →
       ∀ i ∈ [(GPhase.waiting, Instr.groupStart n gid), (.abandoned, .groupRestart n gid), (.displaced, .groupRestart n gid)],
         g.phase = i.1 →
         ∃ t, exec i.2 s = .next t ∧ t.mem = s.mem ∧ t.hub = s.hub ∧ group? n gid t = some { opened with filled := filled, seed := s.fresh }) ∧
  (∀ (n : Cl) (gid off : Nat) (g : Group) (s : State), clocked n s = true → group? n gid s = some g →
     g.phase = .running → pausedGroup n g s = false → microDone n g s = true →
     (∀ w, g.wbuf.head? = some w → w.addr = lsAddr n off) → OwnWords n (off / 4 * 4) 4 s →
     ((drainRow g).map (·.addr)).Nodup → (∀ w ∈ drainRow g, smAt 0 g.wby w.addr ∈ [0, w.pos + 1]) →
     ∃ t, exec (.writeBufferDrain n gid) s = .next t ∧ (∀ w ∈ drainRow g, memGet w.addr t = w.word) ∧
       (∀ a, (∀ w ∈ drainRow g, a ≠ w.addr) → memGet a t = memGet a s) ∧ t.hub = s.hub ∧
       ∃ g', group? n gid t = some g' ∧ g'.wbuf = (drainRow g).foldl (fun l w => l.erase w) g.wbuf ∧ g'.pos = g.pos ∧
         g'.phase = .running) ∧
  (∀ (n : Cl) (gid : Nat) (g : Group) (s : State), clocked n s = true → group? n gid s = some g → g.phase = .running →
     g.pos = g.orders.length → g.wbuf = [] → g.exc = none → microDone n g s = true →
     ∃ t, exec (.groupComplete n gid) s = .next t ∧ t.mem = s.mem ∧ t.hub = s.hub ∧ group? n gid t = none ∧
       ioGet 0x1D0 (t.cl n) = ioGet 0x1D0 (s.cl n) ||| g.flags.setWidth 24 ∧
       (g.notify = true → ioBit 0x30 2 (t.cl n) = true) ∧
       (∀ m b, g.masks = [(m, some b)] → smAt 0 (t.cl n).masks m = b)) ∧
  (∀ (n : Cl) (e : ExcRec) (rest : List ExcRec) (s : State), clocked n s = true → (s.cl n).heldExc = e :: rest → ioBit 0x1C0 23 (s.cl n) = false →
     e.cause ≠ 6 →
     ∃ d, exec (.heldExceptionRecord n) s = .next (s.putCl n d) ∧ d.heldExc = rest ∧ d.vexc = true ∧
       ioBit 0x1C0 23 d = true ∧ ioFld 0x1C0 3 0 d = e.cause.toNat ∧ ioGet 0x1C1 d = e.pc ∧
       ioGet 0x1C2 d = BitVec.ofNat 24 e.elem ∧ ioPair 0x1C3 d = e.addr.setWidth 48 ∧ ioGet 0x1C5 d = e.flags.setWidth 24)

/-! ## The orders of R88 -/

/-- An elementwise order of a running group gives every active element the result and the flags that R88 gives for its
operands and the scalar k; an inactive one keeps its destination, or with MZ = 1 takes 0; the order passes the values on,
adds the words of its destination to the write buffer, and changes nothing else. VSEL selects by the mask, VINTP gives
what the table interpolation of R89 gives. The integer orders on I24 compute exactly and then wrap, or with SAT = 1 keep
to the range of I24 and raise OF when the exact result lies outside (R128, R129). The model's own choices here are those
of log entries 25, 26 and 28. -/
def Obligations.ElementOrdersAndTheirRange : Prop :=
  (∀ (n : Cl) (gid : Nat) (g : Group) (q : QOrder) (m : Nat → Bool) (a b c : Nat → DWord) (at' : Nat → Int)
     (W : Nat × Nat × Nat → Word) (s : State), Runs n gid g q s →
     Mask n g q m W s → Reads n g q 1 a W s → Reads n g q 3 c W s → Lands n g q at' W s →
     let ss := orderStreams g.n g.pos q
     let k := (scalarK q.bits q.k).getD 0
     let gives (i : Instr) (e : Nat → DWord × Fl) : Prop :=
       exec i s = .next (leaves n g ((List.range g.n).map fun i => passed q (m i) (a i) (e i).1)
         (orFlags g.n fun i => if m i then (e i).2 else 0) (maskedWords q m (roleOf ss 0) at' g.n fun i => (e i).1) s)
     (Reads n g q 2 b W s →
       (∀ p ∈ elementOps, q.op = p.1 → gives (p.2 n gid) fun i => elemOf p.1 q.bits (a i) (b i) (c i) k i) ∧
       (q.op = .vsel → exec (.vsel n gid) s = .next (leaves n g ((List.range g.n).map fun i => if m i then a i else b i) 0
         (maskedWords q (fun _ => true) (roleOf ss 0) at' g.n fun i => if m i then a i else b i) s))) ∧
     (∀ e : Nat → DWord × Fl, q.op = .vintp → (∀ i r, i < g.n → r.s = s → runIntp n g ss q i (a i) r = (e i, r)) →
       gives (.vintp n gid) e)) ∧
  (∀ (o : Order96) (a b c k : DWord) (i : Nat), oTy o = 2 →
     let x := (a.setWidth 24).toInt
     let y := (b.setWidth 24).toInt
     let kv := (k.setWidth 24).toInt
     ∀ p ∈ [(VOp.vadd, x + y), (.vsub, x - y), (.vrsub, y - x), (.vadds, x + kv), (.vneg, -x), (.vabs, |x|), (.vmin, min x y),
         (.vmax, max x y), (.viota, kv + i)],
       let out := p.2 < -(2 ^ 23) ∨ 2 ^ 23 ≤ p.2
       (oSat o = false → elemOf p.1 o a b c k i = ((BitVec.ofInt 24 p.2).setWidth 48, 0)) ∧
       (oSat o = true → elemOf p.1 o a b c k i =
         ((BitVec.ofInt 24 (max (-(2 ^ 23)) (min p.2 (2 ^ 23 - 1)))).setWidth 48, if out then flOF else 0)))

/-- A reduction adds one result to its destination: what R136 to R144 give for its active terms in their order, with the
flags it raises. A segmented one whose segment bits are 0 has one segment. VCMP and MLD leave the bits of their active
elements for mask register MD, whose other bits stay, an inactive one as it was or with MZ = 1 as 0; MST stores the bits
of mask register MD packed, MCNT counts the 1 bits of the first N (R88, R90). VCMPR stores the active elements of its
source one behind the other, VEXPD spreads its source's elements over the active ones, in ascending order (R91). The
model's own choices here are those of log entries 28 and 30. The model's own choices here are those of log entries 28 and
30. -/
def Obligations.ReductionsMasksAndSelection : Prop :=
  (∀ (n : Cl) (gid : Nat) (g : Group) (q : QOrder) (m : Nat → Bool) (a b : Nat → DWord) (x : Strm) (at' : Nat → Int)
     (W : Nat × Nat × Nat → Word) (s : State), Runs n gid g q s →
     Mask n g q m W s → Reads n g q 1 a W s → Reads n g q 2 b W s → Lands n g q at' W s →
     let ss := orderStreams g.n g.pos q
     roleOf ss 0 = some x → 0 < x.cnt →
     (∀ y, vopSeg q.op = true → roleOf ss 3 = some y → ReadsBits n g y g.n W s ∧ ∀ c, W (y.pos, y.role, c) = 0) →
     let second (v : VOp) (i : Nat) : Option DWord :=
       if v ∈ [VOp.rdot, .rsegdot] then some (b i) else if v = .rsumsq then some (a i) else none
     ∀ p ∈ reduceOps, q.op = p.1 →
       let r := reduceOf p.1 q.bits ((scalarK q.bits q.k).getD 0) 0 (g.n - 1)
         (((List.range g.n).filter m).map fun i => ⟨i, a i, second p.1 i⟩)
       exec (p.2 n gid) s = .next (leaves n g [] (r.flags.foldl (fun m f => m ||| f.2.setWidth 5) 0)
         (dstWords (some x) at' [(0, g.n - 1, r.val)] [bitOf 0 r.val]) s)) ∧
  (∀ (n : Cl) (gid : Nat) (g : Group) (q : QOrder) (m : Nat → Bool) (a b : Nat → DWord) (at' : Nat → Int)
     (W : Nat × Nat × Nat → Word) (s : State), Runs n gid g q s → Mask n g q m W s → Lands n g q at' W s →
     let ss := orderStreams g.n g.pos q
     let md := oMd q.bits
     let old := smAt 0 (s.cl n).masks md
     let fills (i : Instr) (e : Nat → Bool × Fl) : Prop :=
       exec i s = .next (putGroup n { g with
         pos := g.pos + 1
         chain := []
         flags := g.flags ||| orFlags g.n fun i => if m i then (e i).2 else 0
         masks := smPut none g.masks md (some (maskWith old g.n ((List.range g.n).map fun i =>
           if m i then (e i).1 else !oMz q.bits && old.getLsbD i))) } s)
     (q.op = .vcmp → Reads n g q 1 a W s → Reads n g q 2 b W s →
       (md < 8 → fills (.vcmp n gid) fun i => vcmpElem q.bits (a i) (b i)) ∧
       (∀ x, md = 15 → roleOf ss 0 = some x → x.d.mode = 2 → exec (.vcmp n gid) s =
         .next (leaves n g [] (orFlags g.n fun i => if m i then (vcmpElem q.bits (a i) (b i)).2 else 0)
           (packBits x g.n ((List.range g.n).map fun i => m i && (vcmpElem q.bits (a i) (b i)).1)) s))) ∧
     (∀ y, q.op = .mld → md < 8 → roleOf ss 1 = some y → ReadsBits n g y g.n W s → oCi q.bits = false →
       fills (.mld n gid) fun i => (bitOf (i % 24) (W (y.pos, y.role, i / 24)), 0)) ∧
     (∀ x, q.op = .mst → roleOf ss 0 = some x → x.d.mode = 2 → exec (.mst n gid) s =
       .next (leaves n g [] 0 (packBits x g.n ((List.range g.n).map fun i => m i && old.getLsbD i)) s)) ∧
     (q.op = .mcnt → exec (.mcnt n gid) s =
       let k := (List.range g.n).countP fun i => old.getLsbD i
       .next (leaves n g [] 0 (dstWords (roleOf ss 0) at' [(0, g.n - 1, BitVec.ofNat 48 k)] [decide (k % 2 = 1)]) s))) ∧
  (∀ (n : Cl) (gid : Nat) (g : Group) (q : QOrder) (m : Nat → Bool) (a : Nat → DWord) (at' : Nat → Int)
     (W : Nat × Nat × Nat → Word) (s : State), Runs n gid g q s → Mask n g q m W s → Lands n g q at' W s →
     let ss := orderStreams g.n g.pos q
     let active := (List.range g.n).filter m
     (∀ x, q.op = .vcmpr → Reads n g q 1 a W s → roleOf ss 0 = some x → rankOf m g.n ≤ x.cnt →
       exec (.vcmpr n gid) s = .next (leaves n g [] 0
         (dstWords (some x) at' (active.map fun i => (rankOf m i, i, a i)) (active.map fun i => bitOf 0 (a i))) s)) ∧
     (q.op = .vexpd →
       (oCi q.bits = true → ∀ j, a j = g.chain.getD j 0) →
       (oCi q.bits = false → ∃ y, roleOf ss 1 = some y ∧ rankOf m g.n ≤ y.cnt ∧
         ∀ j i r, j < y.cnt → i < g.n → r.s = s → Packed W r →
           ∃ pk, Packed W { r with pk := pk } ∧ readElem n g y j i r = (a j, { r with pk := pk })) →
       exec (.vexpd n gid) s = .next (leaves n g ((List.range g.n).map fun i => if m i then a (rankOf m i) else 0) 0
         (maskedWords q m (roleOf ss 0) at' g.n fun i => a (rankOf m i)) s)))

/-! ## Standing sets and conflict counters (R99–R104, R158, R169, R173) -/

/-- The life of a standing set: a build opens with nothing in it, closes with the descriptors and capabilities as they are
then, arms with the instant kept, disarms; a descriptor change is staged with the capability its slot holds and the
instant of its command (R99–R101, R103). An event at an armed set fires it while the grid runs: it is running, its groups
go ahead of those of the sequencer that have not passed their commit points, of which those that run are displaced, while
the request meets those behind them (R280), and the event no longer waits; a running set drops the event with OVR and interrupt input 3 (R101, R102, R104). Pre-open of a
set that is armed to the frame tick in time, at its instant: its staged changes have taken effect, what pre-open found is
held for the tick, and no group and no word of memory changes; a set without a read stream holds nothing (R101, R103,
R158). No patch and no error of the control store bears on the routines here. The model's own choices here are those of
log entry 7. -/
def Obligations.StandingSets : Prop :=
  (∀ (n : Cl) (k : Set8) (start : BitVec 7) (preopen : Bool) (d : Reg) (s : State),
     let c := s.cl n
     let attr := ioGet 0x1B4 c &&& 0xFFFC00
     clocked n s = true →
     (setArm k c = false → setBuild k c = false → (∀ j : Set8, setBuild j c = false) →
       ∃ t, exec (.setBuildOpen n k start preopen) s = .next t ∧ setBuild k (t.cl n) = true ∧ setBuilt k (t.cl n) = false ∧
         setStart k (t.cl n) = start.toNat ∧ setCount k (t.cl n) = 0 ∧ ioBit (0x190 + k) 4 (t.cl n) = preopen ∧
         (setOf k (t.cl n)).staged = [] ∧ t.mem = s.mem) ∧
     (setArm k c = false → setBuild k c = true → closeFault (setOrders (regDesc c) k c) = none →
       ∃ t, exec (.setBuildClose n k) s = .next t ∧ setBuild k (t.cl n) = false ∧ setBuilt k (t.cl n) = true ∧
         (∀ j, j < 16 → smAt (Desc.zero, CapV.null) (setOf k (t.cl n)).table j = regDesc c j)) ∧
     (setArm k c = false → setBuild k c = false → setBuilt k c = true →
       ∃ t, exec (.setArm n k) s = .next t ∧ setArm k (t.cl n) = true ∧ (setOf k (t.cl n)).armedAt = s.ticks) ∧
     (setArm k c = true → setBuild k c = false → ∃ t, exec (.setDisarm n k) s = .next t ∧ setArm k (t.cl n) = false) ∧
     (setBuilt k c = true → microQuiet (activeHalf n s) c = true →
       ∃ t, exec (.sdescCmd n k d) s = .next t ∧ ioBit (0x1A0 + k) 1 (t.cl n) = true ∧
         (setOf k (t.cl n)).staged = (setOf k c).staged.filter (fun e => e.1 ≠ d.val) ++
           [(d.val, ⟨(ioGet 0x1B1 c ++ ioGet 0x1B0 c).setWidth 40, ioGet 0x1B2 c, ioGet 0x1B3 c, attr⟩,
             smAt CapV.null c.cregs (fld 23 20 attr), s.ticks)])) ∧
  (∀ (n : Cl) (k : Set8) (s : State), clocked n s = true → taskSet n k ∈ s.ev.taskIn → gridRun s = true → holdActive s = false →
     isolated n s = false → setsStopped (s.cl n) = false → setArm k (s.cl n) = true → setTick k (s.cl n) = false → (setOf k (s.cl n)).pre = none →
     microQuiet (activeHalf n s) (s.cl n) = true →
     let gs := (s.cl n).groups
     let mine := (setGroups k (takeStaged (fun _ => true) k (s.cl n))).map (·.2)
     let ahead (g : Group) : Bool := g.set.isSome || (g.phase == .running && g.committed)
     ∃ t, exec (.setFireEvent n k) s = .next t ∧ t.ev.taskIn = s.ev.taskIn.erase (taskSet n k) ∧ setRunning k (t.cl n) = true ∧
       t.mem = s.mem ∧
       (setRunning k (s.cl n) = true → ioBit (0x1A0 + k) 0 (t.cl n) = true ∧ ioBit 0x30 3 (t.cl n) = true ∧
         (t.cl n).groups = gs) ∧
       (setRunning k (s.cl n) = false → (t.cl n).groups =
         ((gs.filter ahead).map fun g => if g.set.isNone then { g with asked := true } else g) ++ mine ++
         (gs.filter fun g => !ahead g).map fun g => if g.phase = .running then stopGroup .displaced g else g)) ∧
  (∀ (n : Cl) (k : Set8) (s : State), clocked n s = true → setArm k (s.cl n) = true → setPreopens k (s.cl n) = true →
     (s.cl n).aux.any (fun x => x.kind == 1 && x.set == k.val) = false → (setOf k (s.cl n)).pre = none → gridRun s = true → setsStopped (s.cl n) = false → preopenTime n s = true →
     tickSet n k (preopenEdge s) (s.cl n) = true → microQuiet (activeHalf n s) (s.cl n) = true →
     let c1 := takeStaged (fun _ => true) k (s.cl n)
     ∃ t, exec (.preOpen n k) s = .next t ∧ t.mem = s.mem ∧ (t.cl n).groups = (s.cl n).groups ∧
       (setOf k (t.cl n)).pre.isSome = true ∧ (setOf k (t.cl n)).staged = [] ∧ (setOf k (t.cl n)).table = (setOf k c1).table ∧
       ((∀ g ∈ setGroups k c1, ∀ x ∈ groupStreams (groupN g.2.orders) g.2.orders, x.wr = true) →
         (setOf k (t.cl n)).pre = some ⟨[], [], []⟩))

/-! ## Time base and frame grid (R32–R73) -/

/-- A base tick moves device time on by one ns, and while the grid is stopped by what aligns it to SYNC_IN besides, and
TB_FRAME with it; at the next base tick a waiting STEP loads TB_SET instead while the grid is stopped, and is refused with
its flag while it runs (R32, R42, R69). The replica of a cluster's island goes on by one ns; the beacon of a STEP sets it
to device time; a replica that differs from device time at a beacon is set to it, with BEACON_ERR and 0xC022:00 (R39,
R69). A read of TB_LOCAL answers the replica (R37). The model's own choices here are those of log entries 18 and 20. -/
def Obligations.BaseTicksAndLocalTime : Prop :=
  (∀ s : State, mode s ≠ 0 → mode s ≠ 1 → s.pwr.trip = false → s.pwr.safeDue = false →
     let step := hubBit 0x100A 0 s
     let next := s.ns + 1 + (if gridRun s then 0 else s.tb.align)
     let frame (t : State) : Nat :=
       let o := (hubTime 0x1011 s).toNat
       if 256 * t.ns.toNat < o then 0 else (256 * t.ns.toNat - o) / (256 * hubFld 0x1010 19 0 s) % 2 ^ 48
     let ticks (i : Instr) (ns : BitVec 64) : Prop := ∃ t, exec i s = .next t ∧ t.ns = ns ∧ t.ticks = s.ticks + 1 ∧ baseFrame t = frame t ∧
       hubBit 0x100A 0 t = false ∧ t.mem = s.mem ∧ t.cls = s.cls ∧ (step = true → gridRun s = true → hubBit 0x100B 5 t = true)
     (step = false → ticks .baseTick next) ∧
     (step = true → gridRun s = true → ∀ i ∈ [Instr.baseTick, .tbStepLoad], ticks i next) ∧
     (step = true → gridRun s = false → ∀ i ∈ [Instr.baseTick, .tbStepLoad], ticks i ((hubTime 0x1004 s).extractLsb' 8 64))) ∧
  (∀ (n : Cl) (s : State), clocked n s = true → (s.cl n).aux = [] →
     let c := s.cl n
     let at' (t : BitVec 64) : State := s.putCl n { c with localNs := t }
     let wrong := s.ns.toNat % 1000 = 0 ∧ c.localNs + 1 ≠ s.ns
     (s.tb.stepBeacon = true → exec (.localBaseTick n) s = .next (at' s.ns)) ∧
     (s.tb.stepBeacon = false → ¬ wrong → exec (.localBaseTick n) s = .next (at' (c.localNs + 1))) ∧
     (s.tb.stepBeacon = false → wrong → ∃ t, exec (.localBaseTick n) s = .next t ∧ (t.cl n).localNs = s.ns ∧
       hubBit 0x100B 7 t = true ∧ odCtr 0xC022 0 t = odCtr 0xC022 0 s + 1) ∧
     (∃ t, exec (.tbLocalW0Read n) s = .next t ∧ t.resp = [BitVec.ofNat 24 (256 * c.localNs.toNat)] ∧ t.cls = s.cls ∧
       snapGet (ioSnapReg n 0x100) (bankReader c) t = BitVec.ofNat 48 (256 * c.localNs.toNat / 2 ^ 24)))

/-- TB_STEP waits while the grid is stopped and is refused while it runs; TB_SLEW clamps to 100,000 either way; a read of
W0 of the hub's time registers answers the low word and keeps the upper words for its reader (R35, R42, R60, R68, R69).
References come and go: a lost one is absent, and where it was the active one the next available takes over; one that
returns is present from then; REVERT goes back to a better one present for 1 ms; a follower measures each SYNC_IN mark
against 10 µs and locks after 1,000 good ones in a row, and loses SYNC_IN at two marks in a row that are missing or out of
their place; SYSREF pulses leave at their instants, once for each, and in gapped mode up to the last of the next COUNT
instants of a GO (R65, R66, R70–R73, R300). The model's own choices here are those of log entries 18 and 19. The model's
own choices here are those of log entries 18 and 19. -/
def Obligations.TimeBaseRegistersAndReferences : Prop :=
  (∀ (m : Master) (v : Word) (s : State), dark s = false →
     (gridRun s = false → exec .tbStep s = .next (hubSetBit 0x100A 0 true s)) ∧
     (gridRun s = true → exec .tbStep s = .next (fire 0x106 (hubSetBit 0x100B 5 true s))) ∧
     (∃ t, exec (.tbSlewWrite v) s = .next t ∧ (hubGet 0x1009 t).toInt = max (-100000) (min v.toInt 100000) ∧
       (hubGet 0x1009 t ≠ v → hubBit 0x100B 4 t = true) ∧ t.ns = s.ns ∧ t.mem = s.mem ∧ t.cls = s.cls) ∧
     (∃ t, exec (.tbTimeW0Read m) s = .next t ∧ t.resp = [BitVec.ofNat 24 (256 * s.ns.toNat)] ∧ t.hub = s.hub ∧
       snapGet 0x1000 (masterNum m) t = BitVec.ofNat 48 (256 * s.ns.toNat / 2 ^ 24)) ∧
     ∀ p ∈ [(Instr.tbFrameW0Read m, 0x1018), (.tbSimW0Read m, 0x101A)],
       ∃ t, exec p.1 s = .next t ∧ t.resp = [hubGet p.2 s] ∧ t.hub = s.hub ∧ t.mem = s.mem ∧ t.cls = s.cls ∧
         snapGet p.2 (masterNum m) t = (hubGet (p.2 + 1) s).setWidth 48) ∧
  (∀ (r : TimeRef) (best : Nat) (arrival : Time72) (o : Fin 4) (s : State), dark s = false →
     (∃ t, exec (.referenceLoss r) s = .next t ∧ smAt false t.tb.refPresent (refNum r) = false ∧
       hubBit 0x100A (refBit (refNum r)) t = false ∧ hubFld 0x100A 7 6 t ≠ refNum r ∧
       (hubFld 0x100A 7 6 s ≠ refNum r → hubFld 0x100A 7 6 t = hubFld 0x100A 7 6 s)) ∧
     (smAt false s.tb.refPresent (refNum r) = false → ∃ t, exec (.referenceReturn r) s = .next t ∧
       smAt false t.tb.refPresent (refNum r) = true ∧ smAt 0 t.tb.refSince (refNum r) = s.ticks ∧
       hubBit 0x100A (refBit (refNum r)) t = true) ∧
     (hubBit 0x100C 7 s = true → (refOrder s).find? (fun r => refAvail r s && refPrecedes r s &&
         (r == 3 || decide (10 ^ 6 ≤ (s.ticks - smAt 0 s.tb.refSince r).toNat))) = some best →
       ∃ t, exec .referenceRevert s = .next t ∧ hubFld 0x100A 7 6 t = best ∧ hubBit 0x100B 1 t = true) ∧
     (hubFld 0x100D 1 0 s = 2 → timeRuns s = true →
       let row := (markCheck (tickInstant arrival s) s).row
       let p : Int := (arrival.toNat : Int) - (hubGet 0x100E s).toNat
       ∃ e : Int, (∃ k : Int, p = e + 2560000 * k) ∧ -1280000 ≤ e ∧ e < 1280000 ∧
       ∃ t, exec (.syncInMark arrival) s = .next t ∧ hubGet 0x100F t = BitVec.ofInt 24 e ∧
         t.tb.lockCount = (if row < 2 ∧ -256 ≤ e ∧ e ≤ 256 then min 1000 (s.tb.lockCount + 1) else 0) ∧
         (hubBit 0x100A 5 t = true ↔ t.tb.lockCount = 1000) ∧ smAt false t.tb.refPresent 0 = decide (row < 2) ∧
         t.ns = s.ns ∧ t.mem = s.mem ∧ t.cls = s.cls) ∧
     (∀ edge, sysrefEdge o s = some edge → hubBit 0x8000 o s = true → 4 ≤ mode s → smAt none s.sysrefAt o ≠ some (tickInstant edge s) →
       (hubBit 0x8000 22 s = true → smAt 0 s.sysref o < (tickInstant edge s).toNat → exec (.sysrefPulse o) s = .next s) ∧
       (hubBit 0x8000 22 s = false ∨ (tickInstant edge s).toNat ≤ smAt 0 s.sysref o → ∃ t, exec (.sysrefPulse o) s = .next t ∧
         smAt none t.sysrefAt o = some (tickInstant edge s) ∧ t.sysref = s.sysref)) ∧
     (hubBit 0x8000 22 s = true → hubGet 0x8001 s ≠ 0 → 0 < hubFld 0x8000 21 16 s → ∃ t, exec .sysrefGo s = .next t ∧
       ∀ o : Fin 4,
         let per := (hubGet 0x8001 s).toNat * 256
         let d := hubFld (0x8004 + o.val) 11 0 s * 16
         let next := (s.ns.toNat * 256 - d + per - 1) / per
         smAt 0 t.sysref o = max (tickInt (((next + (hubFld 0x8000 21 16 s - 1)) * per + d : Nat) : Int) s).toNat (smAt 0 s.sysref o)))

/-- A grid action is scheduled at TB_GRID_AT in place of a pending one, late with its flag where that lies behind; START
wants ARMED and a stopped grid, the others a running one, HOLD one that is not held, RESUME one that is (R46, R47, R61). A
grid action takes effect at its tick: START starts the grid and simulation time and enters RUN, or RUN_DEGRADED while a
degrade reason holds; STOP stops it and enters ARMED; HOLD holds RUN and RESUME ends it (R48, R49, R60–R63, R182, R439,
R464). The model's own choices here are those of log entry 21. -/
def Obligations.GridActions : Prop :=
  (∀ s : State, dark s = false →
     let due := hubTime 0x1014 s
     let late := decide (due.toNat ≤ 256 * s.ns.toNat)
     let sched (i : Instr) (k : GridKind) : Prop := ∃ t, exec i s = .next t ∧ t.tb = { s.tb with action := some ⟨k, due, if late then some s.ticks else none⟩ } ∧
       hubBit 0x100A 9 t = true ∧ (late = true → hubBit 0x100B 6 t = true) ∧ t.mem = s.mem ∧ t.cls = s.cls
     let refused (i : Instr) : Prop := exec i s = .next (fire 0x109 (hubSetBit 0x100B 8 true s))
     let run := gridRun s
     let held := holdActive s
     (run = false → mode s = 5 → sched .gridStart .start) ∧ (run = false → mode s ≠ 5 → refused .gridStart) ∧
     (run = true → sched .gridStop .stop) ∧ (run = false → refused .gridHold ∧ refused .gridResume) ∧
     (run = true → held = false → sched .gridHold .hold) ∧ (run = true → held = true → sched .gridResume .resume)) ∧
  (∀ s : State, dark s = false →
     let due (k : GridKind) : Prop := gridDue s = true ∧ ∃ a, s.tb.action = some a ∧ a.kind = k
     let runs (t : State) : Prop := mode t = (if hubFld 0x50001 6 0 t = 0 then 6 else 7)
     (due .start → modePend s = 6 → ∃ t, exec .gridStartTick s = .next t ∧ t.tb.action = none ∧ gridRun t = true ∧
       hubPair 0x101A t = 0 ∧ (∀ n : Cl, ioGet 0x341 (t.cl n) = 0) ∧ runs t) ∧
     (due .stop → ∃ t, exec .gridStopTick s = .next t ∧ t.tb.action = none ∧ gridRun t = false ∧ holdActive t = false ∧
       mode t = 5 ∧ (∀ n k, k < 8 → setRunning k (t.cl n) = false)) ∧
     (due .hold → ∃ t, exec .gridHoldTick s = .next t ∧ t.tb.action = none ∧ holdActive t = true ∧
       (mode s = 6 ∨ mode s = 7 → mode t = 8) ∧ t.cls = s.cls ∧ t.mem = s.mem) ∧
     (due .resume → (∀ n : Cl, hubFld (0x50100 + 8 * n.val) 23 21 s ≠ 2) → ∃ t, exec .gridResumeTick s = .next t ∧
       t.tb.action = none ∧ holdActive t = false ∧ (mode s = 8 → runs t) ∧ t.cls = s.cls ∧ t.mem = s.mem))

/-- A base frame tick advances simulation time but at the START tick and in a hold, and reaches exactly the islands whose
frame tick it is (R43, R44, R60); an island that its frame tick has reached answers it with its own tick edge: a live one
begins its next frame with interrupt input 0, but in a hold, which executes no frame (R30, R40, R62, R256). The model's
own choices here are those of log entries 21 and 22. The model's own choices here are those of log entries 21 and 22. -/
def Obligations.FrameTicksReachTheirClusters : Prop :=
  ∀ s : State,
    (dark s = false → gridRun s = true → onGrid s = true → gridDue s = false → s.tb.tickedAt ≠ some s.ticks →
      ∃ t, exec .baseFrameTick s = .next t ∧ t.tb.tickedAt = some s.ticks ∧ t.mem = s.mem ∧
        hubPair 0x101A t = hubPair 0x101A s + (if s.tb.startAt = some s.ticks ∨ holdActive s = true then 0 else 1) ∧
        ∀ n, (t.cl n).tickAt = if frameOfTime s % 2 ^ hubFld (0x1100 + n.val) 13 10 s = hubFld (0x1100 + n.val) 9 0 s
          then some (frameOfTime s) else (s.cl n).tickAt) ∧
    ∀ n : Cl, clocked n s = true → (s.cl n).tickAt.isSome = true → isolated n s = false → (s.cl n).failCause = false →
      ((deadlines n (evcSnap n s)).cl n).failCause = false →
      (∃ t, exec (.clusterTickEdge n) s = .next t ∧ (t.cl n).tickAt = none ∧
        (holdActive s = true → (t.cl n).ran = false ∧ (t.cl n).lastCommit = none) ∧
        (holdActive s = false → (t.cl n).ran = true ∧ ioBit 0x30 0 (t.cl n) = true))

/-! ## Microcode, plots, movers, scrubbing (R164–R208, R290–R294) -/

/-- The patch RAM of a cluster: OPEN empties the inactive half's table, a write of W5 stores the microword or match entry
that UCODE_LD_ADDR names, SEAL gives the half its version and VALID; SWITCH takes the inactive half at once while the grid
is stopped, else at the scheduled frame, and CANCEL takes a scheduled switch back (R290–R294). The model's own choices
here are those of log entry 37. The model's own choices here are those of log entry 37. -/
def Obligations.PatchHalvesLoadAndSwitch : Prop :=
  ∀ (n : Cl) (v : Word) (s : State), dark s = false →
    let r := 0x200000 + 0x20 * n.val
    let b := ucInactive n s
    let stat (i : Nat) : Bool := hubBit (r + 2) i s
    let valid := stat (if b then 2 else 1)
    let h := ucHalf b (s.cl n)
    let due := (hubPair (r + 3) s).toNat
    let a := hubFld (r + 5) 8 0 s
    let w : BitVec 144 := v ++ hubGet (r + 12) s ++ hubGet (r + 11) s ++ hubGet (r + 10) s ++ hubGet (r + 9) s ++ hubGet (r + 8) s
    let live := 4 ≤ mode s ∧ mode s < 8
    (valid = true → live → gridRun s = false → ∃ t, exec (.ucodeSwitch n) s = .next t ∧ hubBit (r + 2) 0 t = b ∧ hubBit (r + 2) 3 t = false ∧
      hubBit (r + 2) 4 t = false ∧ hubGet r t = h.ver ∧ (t.cl n).ucSwitch = none) ∧
    (valid = true → live → gridRun s = true → ∃ t, exec (.ucodeSwitch n) s = .next t ∧ hubBit (r + 2) 4 t = true ∧
      (t.cl n).ucSwitch = some (due, decide (due ≤ baseFrame s)) ∧ hubBit (r + 2) 0 t = stat 0) ∧
    (valid = false ∨ ¬ live → exec (.ucodeSwitch n) s = .next (hubSetBit (r + 2) 8 true s)) ∧
    (∃ t, exec (.ucodeCancel n) s = .next t ∧ hubBit (r + 2) 4 t = false ∧ (t.cl n).ucSwitch = none ∧ t.mem = s.mem) ∧
    (stat 4 = false → ucOldBusy n s = false → ∃ t, exec (.ucodeOpen n) s = .next t ∧
      hubBit (r + 2) (if b then 2 else 1) t = false ∧ ucHalf b (t.cl n) = { h with table := [] }) ∧
    (hubBit (0x50101 + 8 * n.val) 23 s = false → ∃ t, exec (.ucodeSeal n) s = .next t ∧
      hubBit (r + 2) (if b then 2 else 1) t = true ∧ ucHalf b (t.cl n) = { h with ver := hubGet (r + 6) s } ∧ t.mem = s.mem) ∧
    (valid = false → hubBit (r + 5) 23 s = true → a ≤ 15 → w.toNat < 2 ^ 24 → ∃ t, exec (.ucodeLdDataW5Write n v) s = .next t ∧
      smAt none (ucHalf b (t.cl n)).table a = some (w.extractLsb' 0 24) ∧ (ucHalf b (t.cl n)).words = h.words) ∧
    (valid = false → hubBit (r + 5) 23 s = false → ucParityOk w = true → ∃ t, exec (.ucodeLdDataW5Write n v) s = .next t ∧
      smAt 0 (ucHalf b (t.cl n)).words a = w ∧ (ucHalf b (t.cl n)).table = h.table)

/-- A write of PLOT_CFG_i that is refused leaves its code in PLOT_ERR and changes nothing else; an accepted one with ALT =
0 hands the plot over at once, one with ALT = 1 waits while the grid runs; an accepted PLOT_HO entry is VALID, LATE where
its frame is not ahead; port A's acknowledgment ends the wait for it (R179–R184, R186). Memory stays but for a change of
SKEW. The model's own choices here are those of log entry 38. -/
def Obligations.PlotsChangeOwners : Prop :=
  ∀ (n : Cl) (i : Plot) (j : Fin 8) (q : Fin 4) (v : Word) (who : Handler) (s : State), dark s = false →
    let c := s.cl n
    let cap := handlerCap n who s
    let err (code : Nat) : State := s.putCl n (ioSetFld 0x342 3 0 code c)
    let late := decide ((ioPair (0x349 + 4 * j) c).toNat ≤ baseFrame s)
    (∀ code, cfgRefusal n i v cap c = some code → exec (.plotCfgWrite n i v who) s = .next (err code)) ∧
    (cfgRefusal n i v cap c = none → bitOf 22 v = false → ∃ t, exec (.plotCfgWrite n i v who) s = .next t ∧
      ownCode i (t.cl n) = fld 11 10 v ∧ ownRem i (t.cl n) = (if fld 11 10 v = 1 then fld 7 0 v else 0) ∧
      smAt none (t.cl n).plotWait i = none ∧ (bitOf 23 v = bitOf 23 (govCfg i c) → t.mem = s.mem) ∧ t.hub = s.hub) ∧
    (cfgRefusal n i v cap c = none → bitOf 22 v = true → gridRun s = true → ∃ t, exec (.plotCfgWrite n i v who) s = .next t ∧
      ownCode i (t.cl n) = ownCode i c ∧ ioBit (0x320 + i) 23 (t.cl n) = true ∧ t.mem = s.mem ∧ t.hub = s.hub) ∧
    (bitOf 23 v = true → ∀ code, hoRefusal n v cap c = some code → exec (.plotHoWrite n j v who) s = .next (err code)) ∧
    (bitOf 23 v = true → hoRefusal n v cap c = none → ∃ t, exec (.plotHoWrite n j v who) s = .next t ∧
      ioBit (0x348 + 4 * j) 23 (t.cl n) = true ∧ ioBit (0x348 + 4 * j) 22 (t.cl n) = late ∧
      ioFld (0x348 + 4 * j) 20 16 (t.cl n) = fld 20 16 v ∧ t.mem = s.mem ∧ t.hub = s.hub) ∧
    (clocked n s = true → ∃ t, exec (.plotPortAAck n q) s = .next t ∧ portHeld (16 + q) (t.cl n) = false ∧
      ioBit (0x320 + (16 + q)) 23 (t.cl n) = (smAt none c.plotWait (16 + q)).isSome ∧ t.mem = s.mem ∧ t.hub = s.hub)

/-- A mover: GO takes the descriptor of its registers in hand once SCAP and DCAP admit its extents, or with TRIG_EN = 1 arms
the channel and binds it to the event channel it selects; a trigger starts an armed channel and is dropped with OVR by a
busy one; a transfer that copies all its words ends with DONE and their number, no word in hand, and re-armed with TRIG_EN =
1; where its sources and destinations are words of memory apart from each other, each destination then holds its source word
and every other word of memory is as before; ABORT ends a running one with ERR, unless the word in flight still waits, and disarms an armed one
(R204–R208). The model's own choices here are those of log entries 39 and 40. -/
def Obligations.MoversCopyTheirWords : Prop :=
  ∀ (c : Mover) (ctl : Word) (m : Master) (scap dcap : CapV) (d : MoverSt) (s : State), dark s = false →
    let r := 0x4000 + 0x20 * c.val
    let word (o : Nat) : Word := hubGet (r + o) s
    let busy := hubBit (r + 9) 23 s
    let reg := mvHead c s
    let may : Prop := loadCap s (capOfWords (word 0xC) (word 0xD) (word 0xE) (word 0xF)) = some scap ∧
      loadCap s (capOfWords (word 0x10) (word 0x11) (word 0x12) (word 0x13)) = some dcap ∧
      extentOk scap (extentOf reg.src reg.sstr reg) permRD = true ∧ extentOk dcap (extentOf reg.dst reg.dstr reg) permWR = true ∧
      0 < reg.len.toNat ∧ 0 < reg.rows.toNat
    (busy = false → may → bitOf 22 ctl = false → bitOf 21 ctl = false → ∃ t, exec (.moverGo c ctl) s = .next t ∧
      hubBit (r + 9) 23 t = true ∧ mvHand c t = some { reg with link := bitOf 20 ctl, irq := bitOf 19 ctl } ∧ t.mem = s.mem) ∧
    (busy = false → bitOf 22 ctl = false → bitOf 21 ctl = true → ∃ t, exec (.moverGo c ctl) s = .next t ∧
      hubBit (r + 9) 20 t = true ∧ hubBit (r + 9) 23 t = false ∧ hubFld (r + 8) 9 0 t = fld 9 0 ctl ∧ t.movers = s.movers ∧ t.mem = s.mem ∧
      (bindsOf (fld 9 0 ctl) s = [] → bindsOf (fld 9 0 ctl) t = [taskMover c])) ∧
    (taskMover c ∈ s.ev.taskIn → busy = true → ∃ t, exec (.moverTrigger c) s = .next t ∧ hubBit (r + 9) 19 t = true ∧
      t.ev.taskIn = s.ev.taskIn.erase (taskMover c) ∧ t.mem = s.mem ∧ t.movers = s.movers) ∧
    (taskMover c ∈ s.ev.taskIn → busy = false → hubBit (r + 9) 20 s = true → may → ∃ t, exec (.moverTrigger c) s = .next t ∧
      hubBit (r + 9) 23 t = true ∧ hubBit (r + 9) 20 t = false ∧ mvHand c t = some reg ∧
      t.ev.taskIn = s.ev.taskIn.erase (taskMover c) ∧ t.mem = s.mem) ∧
    (mvHand c s = some d → d.stop = none → d.link = false → servicePause s = false → d.moved ≤ d.rows.toNat * d.len.toNat →
      (mvRun c d none s).stop = .copied →
      ∃ t, exec (.moverTransferDone c) s = .next t ∧ t.mem = (mvRun c d none s).s.mem ∧ hubBit (r + 9) 20 t = hubBit (r + 8) 21 t ∧
        (d.moved = 0 → d.got = none → d.old = [] → ((mvWords d).map (·.2)).Nodup →
          (∀ p ∈ mvWords d, plainWord p.1 = true ∧ plainWord p.2 = true ∧ ∀ q ∈ mvWords d, p.1 ≠ q.2) →
          (∀ p ∈ mvWords d, memGet p.2 t = memGet p.1 s) ∧ ∀ a, (∀ p ∈ mvWords d, p.2 ≠ a) → memGet a t = memGet a s) ∧
        hubPair (r + 0x14) t = BitVec.ofNat 48 (d.rows.toNat * d.len.toNat) ∧ hubBit (r + 9) 23 t = false ∧ hubBit (r + 9) 22 t = true ∧ mvHand c t = none) ∧
    (mvHand c s = some d → (∀ k, (mvRun c d (some k) (drawn s)).stop ≠ .held) →
      ∃ t, exec (.moverAbort c) s = .next t ∧ hubBit (r + 9) 23 t = false ∧ hubBit (r + 9) 21 t = true ∧
      mvHand c t = none) ∧
    (mvHand c s = none → exec (.moverAbort c) s = .next (hubSetBit (r + 9) 20 false s)) ∧
    (∃ t, exec (.plotMvDoneW0Read c m) s = .next t ∧ t.resp = [word 0x14] ∧
      snapGet (r + 0x14) (masterNum m) t = (word 0x15).setWidth 48 ∧ t.hub = s.hub ∧ t.mem = s.mem)

/-- A patrol read of a local-store row records a corrected error in VU_LS_ECC and counts it in 0xC030:00, an uncorrectable
one, new or of a row that is known so, in 0xC031:00, and finds nothing in a good row; a finished bank copy has the bank
map to its spare, at once while the grid is stopped; a deep-store scrub counts a corrected line in 0xC035:00, and an
uncorrectable one, which is then poisoned, in 0xC036:00, and copies its pseudo-channel; a finished copy has the spare
pseudo-channel take over (R192, R193, R196, R202, R203). No word of memory changes. The model's own choices here are those
of log entry 38. -/
def Obligations.ErrorsAreRecordedAndRepaired : Prop :=
  ∀ (n : Cl) (row : Fin 512) (bank : Fin 128) (bit : Fin 104) (spare : Nat) (st : Fin 4) (line pc : Nat) (s : State), dark s = false →
    let ecc (t : State) (i : Nat) : Prop := ioBit 0x3A0 i (t.cl n) = true ∧ ioFld 0x3A0 6 0 (t.cl n) = bank ∧
      ioFld 0x3A0 15 7 (t.cl n) = row ∧ t.mem = s.mem
    let l := line % 2 ^ 28 * 4 + st
    let known := (s.cl n).bad.filter fun b => b.row == row.val && b.ue
    (clocked n s = true → known = [] → exec (.lsPatrolScrub n row []) s = .next s) ∧
    (clocked n s = true → ∀ b, known = [b] → b.bank = bank.val → ∃ t, exec (.lsPatrolScrub n row []) s = .next t ∧ ecc t 23 ∧
      odCtr 0xC031 0 t = odCtr 0xC031 0 s + 1) ∧
    (clocked n s = true → known = [] → ∃ t, exec (.lsPatrolScrub n row [⟨bank, bit, false⟩]) s = .next t ∧ ecc t 22 ∧
      odCtr 0xC030 0 t = odCtr 0xC030 0 s + 1) ∧
    (clocked n s = true → known = [] → ∃ t, exec (.lsPatrolScrub n row [⟨bank, bit, true⟩]) s = .next t ∧ ecc t 23 ∧
      odCtr 0xC031 0 t = odCtr 0xC031 0 s + 1) ∧
    ((s.cl n).copies = [(bank.val, spare)] → spare < 2 → gridRun s = false →
      ∃ t, exec (.bankSpareCopyComplete n bank) s = .next t ∧ (t.cl n).copies = [] ∧ t.mem = s.mem ∧
        (if spare = 0 then ioBit 0x3A1 23 (t.cl n) = true ∧ ioFld 0x3A1 22 16 (t.cl n) = bank
         else ioBit 0x3A1 15 (t.cl n) = true ∧ ioFld 0x3A1 14 8 (t.cl n) = bank)) ∧
    (exec (.hbmScrub st line .none) s = .next (if l ∈ s.hbm.poisoned then deepUe l s else s)) ∧
    (l ∉ s.hbm.poisoned → ∃ t, exec (.hbmScrub st line .corrected) s = .next t ∧ odCtr 0xC035 0 t = odCtr 0xC035 0 s + 1 ∧ t.mem = s.mem ∧
      t.hbm.poisoned = s.hbm.poisoned) ∧
    (∃ t, exec (.hbmScrub st line .uncorrectable) s = .next t ∧ odCtr 0xC036 0 t = odCtr 0xC036 0 s + 1 ∧ t.mem = s.mem ∧
      l ∈ t.hbm.poisoned ∧ (smAt none s.hbm.copying st = none → smAt none s.hbm.spareUsed st = none →
        smAt none t.hbm.copying st = some (line % 2 ^ 28 % 32))) ∧
    (smAt none s.hbm.copying st = some pc → ∃ t, exec (.pseudoChannelCopyComplete st) s = .next t ∧
      smAt none t.hbm.copying st = none ∧ smAt none t.hbm.spareUsed st = some pc ∧ t.mem = s.mem)

/-! ## Converter links (R297–R316) -/

/-- The life of a link: an enable that passes its checks sets EN with F − 1 shown, one that fails them sets its error; a
receive link rises at an extended-multiblock boundary, goes down with an error, a count and its event when a lane loses
lock, rises again with its event, and after 1 ms down is the LINK degrade reason; a disable takes EN and UP (R298, R299,
R301, R312, R313, R315). A converter frame of an UP receive link leaves the converted samples as its last good ones, and
joins the fill of its window: the fill of the tick holds one frame more. Held words leave the ingress buffer once their
plot has passed. The oldest output fill of a transmit link leaves at its release instant, late with an error and a count;
a converter without a sample of its own repeats its last (R303, R304, R306–R308, R310–R312). The model's own choices here
are those of log entries 42 to 44. The model's own choices here are those of log entries 42 to 44. -/
def Obligations.ConverterLinks : Prop :=
  (∀ (l : Link16) (lane : Fin 64) (kind : LockKind) (k : Fin 5) (m : Master) (since : BitVec 64) (s : State), dark s = false →
     let r := 0x8100 + 0x80 * l.val
     let en := hubBit r 23 s
     let up := hubBit (r + 0xB) 23 s
     let fenced := hubBit 0x50021 (l / 8) s
     let edge := inTick (lkTe l s) (lkRate l s) s
     (en = false → fenced = false → lkEnableOk l s = true → ∃ t, exec (.linkEnable l) s = .next t ∧
       hubBit r 23 t = true ∧ hubFld (r + 2) 7 0 t = lkF l s - 1 ∧ lkGet l t = Link.reset ∧ t.mem = s.mem ∧ t.cls = s.cls) ∧
     (en = false → fenced = false → lkEnableOk l s = false →
       exec (.linkEnable l) s = .next (hubSetBit (r + 0xC) 3 true s)) ∧
     (en = true → ∃ t, exec (.linkDisable l) s = .next t ∧ hubBit r 23 t = false ∧ hubBit (r + 0xB) 23 t = false ∧
       lkGet l t = Link.reset ∧ t.mem = s.mem ∧ t.cls = s.cls) ∧
     (en = true → up = false → fenced = false → edge = true → (lkGet l s).downAt = none → ∃ t, exec (.linkUp l) s = .next t ∧
       hubBit (r + 0xB) 23 t = true ∧ t.mem = s.mem ∧ t.cls = s.cls) ∧
     (en = true → up = false → fenced = false → edge = true → (lkGet l s).downAt = some since → ∃ t, exec (.linkResume l) s = .next t ∧
       hubBit (r + 0xB) 23 t = true ∧ (lkGet l t).downAt = none ∧ (lkGet l t).long = false ∧ t.mem = s.mem ∧ t.cls = s.cls) ∧
     (en = true → up = true → hubBit r 22 s = false → lkLb l s ≤ lane → lane < lkLb l s + lkL l s →
       ∃ t, exec (.laneLockLoss lane kind) s = .next t ∧ hubBit (r + 0xB) 23 t = false ∧ hubBit (r + 0xC) 1 t = true ∧
         (lkGet l t).downAt = some s.ticks ∧ hubPair (r + 0x18) t = hubPair (r + 0x18) s + 1 ∧
         hubBit (0x8080 + lane) (match kind with | .block => 23 | .emb => 22) t = false ∧ t.mem = s.mem ∧ t.cls = s.cls) ∧
     ((lkGet l s).downAt = some since → 10 ^ 6 ≤ (s.ticks - since).toNat → ∃ t, exec (.linkDownTimeout l) s = .next t ∧
       (lkGet l t).long = true ∧ hubBit 0x50001 3 t = true ∧ t.mem = s.mem ∧ t.cls = s.cls) ∧
     (∃ t, exec (.jlCntW0Read l k m) s = .next t ∧ t.resp = [hubGet (r + 0x10 + 2 * k) s] ∧
       snapGet (r + 0x10 + 2 * k) (masterNum m) t = (hubGet (r + 0x10 + 2 * k + 1) s).setWidth 48 ∧ t.hub = s.hub ∧ t.mem = s.mem)) ∧
  (∀ (l : Link16) (data : List Word) (q u : Nat) (e : EgressFill) (rest : List EgressFill) (s : State), dark s = false →
     let r := 0x8100 + 0x80 * l.val
     let k := lkGet l s
     let frames (t : State) : Nat := match (lkGet l t).fill with | some f => if f.tick = u then f.count else 0 | none => 0
     let x := e.release.toNat * lkRate l s
     let bound := (x + lkTf l s - 1) / lkTf l s * lkTf l s
     (hubBit r 23 s = true → hubBit r 22 s = false → lkFenced l s = false → lkUp l s = true →
       data.length = lkM l s * lkS l s → rxFrame l (rxFrom l s) s = some q →
       ∃ t, exec (.converterFrameReceive l data true) s = .next t ∧ (lkGet l t).rxAt = some (s.ticks, q) ∧
         (∀ c, c < lkM l s → smAt none (lkGet l t).lastGood c =
           some (ingressOf l c (data.getD (c * lkS l s + lkS l s - 1) 0) s)) ∧
         (rxTick l (rxInstant l q s) s = some u → fillLive u s = true → (frames s + 1) * lkS l s ≤ lkCap l s →
           frames t = frames s + 1)) ∧
     ((∀ m ∈ fillHomes (lkDest l s) s, ∀ i, portHeld i (s.cl m) = false) → ∃ t, exec (.ingressBufferWrite l) s = .next t ∧
       (lkGet l t).buf = k.buf.filter (fun w => w.plot.isNone && !fillPassed (lkDest l s) w.tick s)) ∧
     (k.egress = e :: rest → 256 * s.ns.toNat * lkRate l s ≤ bound → bound < (256 * s.ns.toNat + 256) * lkRate l s → ∃ t, exec (.egressRelease l) s = .next t ∧
       (lkGet l t).egress = rest ∧ t.mem = s.mem ∧ t.cls = s.cls ∧
       (bound ≠ x → hubBit (r + 0xC) 2 t = true ∧ odCtr 0xC020 0 t = odCtr 0xC020 0 s + 1) ∧
       (lkUp l s = true → ∀ m, m < lkM l s → (lkGet l t).sending.getD m [] =
         if e.words.getD m [] = [] then [lastReleased l m s] else e.words.getD m [])))

/-! ## Timing channels (R317–R341) -/

/-- A bank is good while its supply lies in one of its two ranges, and keeps a mismatch with V33; V33 is written unless a
pin of the bank drives, when the write is refused as a whole. A level that reaches an input pin shows in its register, and
on a pin with no edge before and no counter is captured within 32 grains, as a multiple of 16, by each channel that
selects it (R320, R505); a read of W0 of a timestamp empties it and keeps the upper words (R35, R317, R318, R320, R321). A
group is enabled where its checks pass, and refused where not; the fill of a capture group reaches the exchange RAM of its
cluster word for word, once per window; the actions that wait for a pin's earliest instant leave its queue and act
together (R322–R326, R331). The model's own choices here are those of log entries 45 and 46. The model's own choices here
are those of log entries 45 and 46. -/
def Obligations.PinsCapturesAndEdgeGroups : Prop :=
  (∀ (b : Fin 8) (mv : Nat) (v : Word) (p : Pin) (level : Bool) (frac : BitVec 8) (c : Chan) (m : Master) (s : State), dark s = false →
     let dir := (List.range 32).any fun k => hubBit (0x10100 + 32 * b + k) 23 s
     let good := (1710 ≤ mv ∧ mv ≤ 1890) ∨ (3135 ≤ mv ∧ mv ≤ 3465)
     let wrong := (1710 ≤ mv ∧ mv ≤ 1890 ∧ hubBit (0x10000 + b) 0 s = true) ∨ (3135 ≤ mv ∧ mv ≤ 3465 ∧ hubBit (0x10000 + b) 0 s = false)
     let seen := level != hubBit (0x10100 + p) 20 s
     let now := 256 * s.ns.toNat + frac.toNat
     (∃ t, exec (.bankSupplyChange b mv) s = .next t ∧ (hubBit (0x10000 + b) 23 t = true ↔ good) ∧
       (hubBit (0x10000 + b) 22 t = true ↔ hubBit (0x10000 + b) 22 s = true ∨ wrong) ∧ t.mem = s.mem ∧ t.cls = s.cls) ∧
     (dir = false ∨ bitOf 0 v = hubBit (0x10000 + b) 0 s → ∃ t, exec (.bankCfgWrite b v) s = .next t ∧
       hubBit (0x10000 + b) 0 t = bitOf 0 v ∧ t.mem = s.mem ∧ t.cls = s.cls) ∧
     (dir = true → bitOf 0 v ≠ hubBit (0x10000 + b) 0 s → exec (.bankCfgWrite b v) s = .next (hubSetBit 0x10014 0 true s)) ∧
     (hubBit (0x10100 + p) 23 s = false → bankDown (p / 32) s = false → tmcFenced s = false → (pinGet p s).lvl ≠ seen →
       (pinGet p s).hist = [] → now + 32 < 2 ^ 72 → pinCounters p seen s = [] → ∃ t, exec (.pinEdge p level frac) s = .next t ∧
         (pinGet p t).land = level ∧ (pinGet p t).lvl = seen ∧ hubBit (0x10100 + p) 19 t = seen ∧
         ∀ k ∈ captureChans p seen s, let ts := (hubTime (0x11000 + 8 * k + 3) t).toNat
           ts % 16 = 0 ∧ ts ≤ now + 32 ∧ now ≤ ts + 32 ∧ hubBit (0x11000 + 8 * k + 6) 23 t = true) ∧
     ((smAt ⟨0, 0⟩ s.tmc.capOld c).stamp ≠ s.ticks + 1 → ∃ t, exec (.capW0Read c m) s = .next t ∧
       t.resp = [hubGet (0x11000 + 8 * c + 3) s] ∧ hubBit (0x11000 + 8 * c + 6) 23 t = false ∧
       snapGet (0x11000 + 8 * c + 3) (masterNum m) t = DWord.ofWords (hubGet (0x11000 + 8 * c + 4) s) (hubGet (0x11000 + 8 * c + 5) s))) ∧
  (∀ (g : Fin 32) (v : Word) (p : Pin) (x : PinAction) (rest : List PinAction) (u : Nat) (s : State), dark s = false →
     let refused := hubSetBit 0x10014 0 true s
     let cr := 0x10300 + 4 * g.val
     let er := 0x10380 + 4 * g.val
     let max := fld 9 0 v
     let n := clOf (hubFld (cr + 1) 23 16 s)
     let cut := 256 * (hubGet (cr + 2) s).toNat
     let fp := hubFld 0x1010 19 0 s * 256 * 2 ^ hubFld (0x1100 + n.val) 13 10 s
     let plot := dstPlot (hubGet (cr + 1) s) s
     let ofs := hubFld (cr + 1) 11 0 s
     let ws := captureFill g ((u : Int) - (fp + cut : Nat)) ((u : Int) - cut) s
     (∀ i ∈ [(Instr.captureGroupEnable g v, cr, cgOk g (setBit 23 true v) s),
         (.edgeGroupEnable g v, er, decide (0 < max) && decide (hubFld (er + 1) 11 0 s + 4 * max ≤ 4095))],
       (i.2.2 = true → ∃ t, exec i.1 s = .next t ∧ hubBit i.2.1 23 t = true ∧ hubFld i.2.1 9 0 t = fld 9 0 v ∧ t.mem = s.mem) ∧
       (i.2.2 = false → exec i.1 s = .next refused)) ∧
     (fillTick n (256 * s.ns.toNat) 1 s = some u → u + 5120 ≤ 256 * s.ns.toNat + cut → hubBit cr 23 s = true →
       tmcFenced s = false → fillLive u s = true → fillPassed n u s = true → smAt none s.tmc.filled g ≠ some u →
       portHeld (16 + plot) (s.cl n) = false → isolated n s = false → pairSecond n s = none → ownCode (16 + plot) (s.cl n) = 3 →
       ofs + ws.length ≤ 0x1000 →
       ∃ t, exec (.captureFillWrite g) s = .next t ∧ smAt none t.tmc.filled g = some u ∧
         (∀ i, i < ws.length → memGet (xchgAddr n (plot * 0x1000 + ofs + i)) t = ws.getD i 0) ∧
         (∀ a, a < xchgAddr n (plot * 0x1000 + ofs) ∨ xchgAddr n (plot * 0x1000 + ofs) + ws.length ≤ a → memGet a t = memGet a s)) ∧
     ((pinGet p s).queue = x :: rest → (∀ y ∈ rest, y.at' ≠ x.at') → x.at'.toNat / 256 = s.ns.toNat →
       let t := pinPut p { pinGet p s with queue := rest } s
       exec (.scheduledEdge p) s = .next (if x.cmp = true ∧ mode s ≠ 6 ∧ mode s ≠ 7 then t else pinAct p x.at' [(x.chan, x.act)] t)))

/-- A TIME counter counts one up at a multiple of its prescaler; a written value is loaded at a later base tick; a read
answers the count, and with an even counter's count the count of its CARRY partner is kept, which that then answers; a
write of CMP arms its channel (R328–R331, R341, R35). Frame generators: GO schedules the global start, late where its time
is not ahead; at that tick every armed generator starts from INIT; a running one counts its COUNT down at its steps; STOP
stops every running one from the next base tick on; a generator is armed and disarmed (R333, R335–R337). The model's own
choices here are those of log entry 46. The model's own choices here are those of log entry 46. -/
def Obligations.TimingCountersAndGenerators : Prop :=
  (∀ (k : Fin 32) (c : Chan) (i : Fin 3) (v : Word) (at' : BitVec 64) (m : Master) (s : State), dark s = false →
     let r := 0x10200 + 2 * k.val
     let w := hubGet r s
     let n := hubGet (r + 1) s
     let carry (j : Nat) : Bool := decide (hubFld (0x10200 + 2 * j) 22 21 s = 2)
     (bitOf 23 w = true → fld 22 21 w = 0 → s.ns.toNat % 2 ^ fld 10 7 w = 0 → smAt 0 s.tmc.stepAt k ≠ s.ticks + 1 →
       n + 1 ≠ 0 → cmpChans k s = [] → ∃ t, exec (.counterStep k) s = .next t ∧ hubGet (r + 1) t = n + 1 ∧
         smAt 0 t.tmc.stepAt k = s.ticks + 1 ∧ t.mem = s.mem ∧ t.cls = s.cls ∧ t.ev = s.ev) ∧
     (smAt none s.tmc.loads k = some (v, at') → s.ticks ≠ at' → ∃ t, exec (.counterLoad k) s = .next t ∧ hubGet (r + 1) t = v ∧
       smAt none t.tmc.loads k = none ∧ t.mem = s.mem ∧ t.cls = s.cls ∧ t.ev = s.ev) ∧
     (k.val % 2 = 0 → ∃ t, exec (.tmcCntValRead k m) s = .next t ∧ t.resp = [n] ∧ t.hub = s.hub ∧
       (carry (k + 1) = true → snapGet (r + 1) (masterNum m) t = (hubGet (r + 3) s).setWidth 48)) ∧
     (k.val % 2 = 1 → ∃ t, exec (.tmcCntValRead k m) s = .next t ∧ t.hub = s.hub ∧ t.snap = s.snap ∧
       t.resp = [if carry k then (snapGet (r - 1) (masterNum m) s).setWidth 24 else n]) ∧
     (∃ t, exec (.cmpWrite c v) s = .next t ∧ hubGet (0x11000 + 8 * c + 1) t = v ∧ t.mem = s.mem ∧ t.cls = s.cls ∧
       (hubFld (0x11000 + 8 * c) 23 21 s = 2 → hubBit (0x11000 + 8 * c + 6) 19 t = true ∧ hubBit (0x11000 + 8 * c + 6) 18 t = false)) ∧
     (∃ t, exec (.tmcCntW0Read i m) s = .next t ∧ t.resp = [hubGet (0x13000 + 2 * i) s] ∧ t.hub = s.hub ∧ t.mem = s.mem ∧
       snapGet (0x13000 + 2 * i) (masterNum m) t = (hubGet (0x13001 + 2 * i) s).setWidth 48)) ∧
  (∀ (g : Fin 64) (due : Time72) (s : State), dark s = false →
     let r := 0x10400 + 0x10 * g.val
     let x := genGet g s
     let start := hubTime 0x10011 s
     let late := decide (start.toNat ≤ 256 * s.ns.toNat)
     (∃ t, exec .globalStartGo s = .next t ∧ hubBit 0x10014 22 t = true ∧ (late = true → hubBit 0x10014 1 t = true) ∧
       t.tmc.startAt = some (if late then BitVec.ofNat 72 (256 * (s.ns.toNat + 1)) else start) ∧ t.mem = s.mem ∧ t.cls = s.cls) ∧
     (s.tmc.startAt = some due → due.toNat ≤ 256 * s.ns.toNat → ∃ t, exec .globalStart s = .next t ∧ t.tmc.startAt = none ∧
       hubBit 0x10014 22 t = false ∧ (hubBit r 23 s = true → hubBit r 21 s && holdActive s = false → (genGet g t).running = true ∧ (genGet g t).stopAt = none ∧
         hubGet (r + 0xB) t = hubGet (r + 4) s)) ∧
     (x.startAt = none → tmcFenced s = false → genRuns g s = true → hubBit r 23 s = true →
       (hubBit r 20 s = false ∨ g.val = 0) → hubBit r 21 s && holdActive s = false → x.lastAt < s.ticks →
       (s.ticks - x.lastAt).toNat % 2 ^ hubFld r 18 15 s = 0 → hubGet (r + 0xB) s ≠ 0 →
       ∃ t, exec (.generatorStep g) s = .next t ∧ hubGet (r + 0xB) t = hubGet (r + 0xB) s - 1 ∧ (genGet g t).lastAt = s.ticks) ∧
     (smWf (fun _ => GenSt.reset) s.tmc.gens = true → ∃ t, exec .generatorStopAll s = .next t ∧ t.hub = s.hub ∧ t.mem = s.mem ∧
       ((genGet g s).running = true → (genGet g s).stopAt = none → (genGet g t).stopAt = some s.ticks)) ∧
     (∃ t, exec (.generatorArm g) s = .next t ∧ hubBit r 23 t = true ∧ t.mem = s.mem ∧ t.cls = s.cls) ∧
     (∃ t, exec (.generatorDisarm g) s = .next t ∧ hubBit r 23 t = false ∧ (genGet g t).startAt = none ∧ t.mem = s.mem ∧ t.cls = s.cls))

/-! ## Events and packet queues (R342–R361) -/

/-- A source that fires reaches every enabled channel that watches it; an event of an enabled channel and group is
delivered in a later cycle: it sets the channel's flag and reaches the task inputs that the channel serves; a disabled
group drops it and counts. SWTRIG triggers an enabled channel (R342, R344, R345, R348). A write of a selector binds its
task input to the channel it names, where the channel has none yet; when FORKEN falls every channel keeps the task input
that bound first; a logic cell registers what its LUT gives (R349–R352). The model's own choices here are those of log
entry 47. -/
def Obligations.EventsTasksAndLogicCells : Prop :=
  (∀ (c : Chan) (idx : Fin 64) (n : Cl) (e : Inbox) (s : State), dark s = false →
     let r := 0x21000 + 4 * c.val
     let fires (i : Instr) (src : Nat) : Prop := hubBit r 23 s = true → hubFld r 11 0 s = src → s.ticks ∉ smAt [] s.ev.fired src →
       ∃ t, exec i s = .next t ∧ (⟨c, s.ticks, 0, 0⟩ : Inbox) ∈ t.ev.inbox ∧ t.mem = s.mem ∧ t.cls = s.cls
     (hubBit r 23 s = true → exec (.channelSwtrig c) s = .next { s with ev := { s.ev with inbox := s.ev.inbox ++ [⟨c, s.ticks, 2, 0⟩] } }) ∧
     fires (.hubSwtrig idx) (0xC00 + idx) ∧ fires (.evfSwevFire n) (0x700 + n) ∧
     (s.ev.inbox.filter (fun x => x.chan = c.val) = [e] → e.cyc < s.ticks → hubBit r 23 s = true →
       (groupEn (hubFld r 22 17 s) s = true → ∃ t, exec (.eventDelivery c) s = .next t ∧ hubBit (r + 3) 23 t = true ∧
         t.ev.taskIn = s.ev.taskIn ++ served c s ∧ (∀ x ∈ t.ev.inbox, x.chan ≠ c.val) ∧ t.mem = s.mem ∧ t.cls = s.cls) ∧
       (groupEn (hubFld r 22 17 s) s = false → ∃ t, exec (.eventDelivery c) s = .next t ∧ t.ev.taskIn = s.ev.taskIn ∧
         odCtr 0xC072 0 t = odCtr 0xC072 0 s + 1 ∧ (∀ x ∈ t.ev.inbox, x.chan ≠ c.val) ∧ t.mem = s.mem ∧ t.cls = s.cls))) ∧
  (∀ (n : Cl) (k : Fin 64) (p : Port) (v : Word) (c : Nat) (x : Fin 512) (s : State), dark s = false →
     let chan := fld 9 0 v
     let r := 0x22000 + 4 * x.val
     (smWf (fun _ => []) s.ev.binds = true → bitOf 23 v = true → bindsOf chan s = [] →
       (8 ≤ k.val → ∃ t, exec (.taskBindingWrite (.irq n k) v) s = .next t ∧ bindsOf chan t = [taskIrq n k] ∧
         ioFld (0x1000 + k) 9 0 (t.cl n) = chan ∧ t.mem = s.mem) ∧
       (∃ t, exec (.taskBindingWrite (.port p) v) s = .next t ∧ bindsOf chan t = [taskPort p] ∧ t.mem = s.mem ∧ t.cls = s.cls)) ∧
     (smWf (fun _ => []) s.ev.binds = true → forken s = false → s.ev.binds.any (fun b => decide (1 < b.2.length)) = true →
       ∃ t, exec .forkenFall s = .next t ∧ bindsOf c t = (bindsOf c s).take 1 ∧ t.mem = s.mem ∧ t.cls = s.cls) ∧
     (hubFld r 23 22 s = 1 → cellDone x s = false → ∃ t, exec (.logicCellOutput x) s = .next t ∧
       hubBit (r + 1) 23 t = (cellLut x s).1 ∧ t.mem = s.mem ∧ t.cls = s.cls))

/-- A packet queue takes words in their order, commits a packet with its last word, holds a write that finds no room and
completes it once there is room; a read answers the oldest word of the packets committed before this cycle, and repeats
the last one with an underrun where there is none (R356, R358, R360). A queue is enabled over the words of the pool that
are free, and refused elsewhere; a rewind drops the open packet and is counted, by the processor or after STALE µs without
a word; a flush and a disable drop everything (R355, R357, R359, R361). The model's own choices here are those of log
entry 48. -/
def Obligations.PointToPointQueues : Prop :=
  (∀ (f : Pq) (v w : Word) (h : HeldWrite) (hs : List HeldWrite) (cyc : BitVec 64) (ws : List Word) (more : List (BitVec 64 × List Word))
      (s : State), dark s = false →
     let r := 0x24000 + 0x10 * f.val
     let q := pqGet f s
     let took (i : Instr) (v : Word) (last : Bool) (q : PqSt) : Prop := ∃ t, exec i s = .next t ∧ t.mem = s.mem ∧ t.cls = s.cls ∧
       pqGet f t = { q with
         done := if last then q.done ++ [(s.ticks, q.opn ++ [v])] else q.done
         opn := if last then [] else q.opn ++ [v]
         lastAt := s.ticks }
     (hubBit r 23 s = true → q.flushAt ≠ some s.ticks → hubBit (r + 7) 21 s = false → q.held = [] → q.opn.length < pqDepth f s →
       (0 < pqRoom f s → took (.pqWr f v) v false q ∧ took (.pqWrLast f v) v true q) ∧
       (pqRoom f s = 0 → exec (.pqWr f v) s = .next (pqPut f { q with held := [⟨none, v, false⟩], freed := false } s) ∧
         exec (.pqWrLast f v) s = .next (pqPut f { q with held := [⟨none, v, true⟩], freed := false } s))) ∧
     (hubBit r 23 s = true → q.flushAt ≠ some s.ticks → hubBit (r + 7) 21 s = true →
       (∃ t, exec (.pqWr f v) s = .next t ∧ pqGet f t = q ∧ hubBit (r + 7) 21 t = true) ∧
       (∃ t, exec (.pqWrLast f v) s = .next t ∧ pqGet f t = q ∧ hubBit (r + 7) 21 t = false)) ∧
     (q.held = h :: hs → q.freed = true → 0 < pqRoom f s → took (.pqHeldWriteComplete f) h.word h.last
       { q with held := hs, acked := q.acked ++ (if h.who.isSome then [h] else []), freed := decide (1 < pqRoom f s) }) ∧
     (q.done = (cyc, w :: ws) :: more → cyc ≠ s.ticks → ∃ t, exec (.pqRd f) s = .next t ∧ t.resp = [w] ∧ t.hub = s.hub ∧ t.mem = s.mem ∧
       pqGet f t = { q with done := if ws = [] then more else (cyc, ws) :: more, lastRd := w, freed := true }) ∧
     (q.done = [] → ∃ t, exec (.pqRd f) s = .next t ∧ t.resp = [q.lastRd] ∧ hubBit (r + 7) 20 t = true ∧
       odCtr 0xC074 0 t = odCtr 0xC074 0 s + 1 ∧ pqGet f t = q)) ∧
  (∀ (f : Pq) (v : Word) (s : State), dark s = false →
     let r := 0x24000 + 0x10 * f.val
     let q := pqGet f s
     let lo := 16 * fld 11 0 v
     let hi := lo + 2 ^ fld 22 19 v
     let taken := ∃ g : Pq, g ≠ f ∧ hubBit (0x24000 + 0x10 * g) 23 s = true ∧
       16 * hubFld (0x24000 + 0x10 * g) 11 0 s < hi ∧ lo < 16 * hubFld (0x24000 + 0x10 * g) 11 0 s + pqDepth g s
     let fits := hi ≤ 0x10000 ∧ 4 ≤ fld 22 19 v ∧ fld 22 19 v ≤ 12 ∧ ¬ taken
     let us := hubFld (r + 2) 19 0 s
     let rewound (i : Instr) (bit : Nat) : Prop := ∃ t, exec i s = .next t ∧ pqGet f t = { q with opn := [] } ∧
       hubBit (r + 7) bit t = true ∧ odCtr 0xC073 0 t = odCtr 0xC073 0 s + 1 ∧ t.mem = s.mem ∧ t.cls = s.cls
     (hubBit r 23 s = false → fits → ∃ t, exec (.pqEnable f v) s = .next t ∧ hubBit r 23 t = true ∧ hubFld r 11 0 t = fld 11 0 v ∧
       hubFld r 22 19 t = fld 22 19 v ∧ t.mem = s.mem ∧ t.cls = s.cls) ∧
     (hubBit r 23 s = false → ¬ fits → exec (.pqEnable f v) s = .next (hubSetBit 0x20000 0 true s)) ∧
     (∀ i ∈ [Instr.pqFlush f, .pqDisable f], ∃ t, exec i s = .next t ∧ pqGet f t =
         { PqSt.reset with lastAt := q.lastAt, acked := q.acked ++ q.held.filter (·.who.isSome), flushAt := some s.ticks } ∧
       (i = .pqDisable f → hubBit r 23 t = false) ∧ t.mem = s.mem ∧ t.cls = s.cls) ∧
     rewound (.pqRewind f) 17 ∧
     (0 < us → q.opn ≠ [] → q.held = [] → hubBit (r + 7) 21 s = false → us * 1000 < (s.ticks - q.lastAt).toNat →
       rewound (.pqStaleTimeout f) 19))

/-! ## Vehicle networks (R363–R380) -/

/-- A port that accepts a received frame adds its packet to its RXQ where that has room, and counts a drop where not; one
that accepts none counts the error. The frame of the scheduled queue whose instant is reached leaves; the head of the TXQ
leaves in a mode that sends, at a trigger where TRIG.EN asks for one; a bus error repeats the frame up to RETRY times;
bus-off empties the port until it recovers; a link change raises its event (R366, R367, R369–R373, R380). The model's own
choices here are those of log entries 49 and 50. The model's own choices here are those of log entries 49 and 50. -/
def Obligations.FramesArriveAndLeave : Prop :=
  ∀ (p : Port) (fr : NetFrame) (idx : Nat) (f : SFrame) (rest : List SFrame) (cyc : BitVec 64) (ws : List Word) (mac : Fin 8) (up : Bool)
    (i : Fin 4) (m : Master) (s : State), dark s = false →
    let r := 0x30000 + 0x40 * p.val
    let rxq := hubFld (r + 1) 21 16 s
    let txq := hubFld (r + 1) 13 8 s
    let pkt := rxPacket p idx fr
    let room := hubBit (r + 1) 23 s = true ∧ hubBit (0x24000 + 0x10 * rxq) 23 s = true ∧ pkt.length ≤ pqRoom rxq s
    let x := netPort p s
    let link := 0x30000 + 0x40 * (32 + mac.val) + 0xC
    let sends (c : Instr) : Prop := ∃ t, exec c s = .next t ∧ (netPort p t).sent = some ⟨pktTime ws, ws⟩ ∧
      (pqGet txq t).done = (pqGet txq s).done.drop 1 ∧ t.mem = s.mem ∧ t.cls = s.cls
    let ready := netUp p s = true ∧ txqMode p s = true ∧ txqHead p s = some (cyc, ws) ∧ txqBad p ws = false ∧ pktTs ws = false ∧
      txqFree p ws s = true ∧ hubBit r 21 s = false
    (hubBit r 23 s = true → netFenced s = false →
      (rxAccept p fr s = some idx → room → (pqGet rxq s).flushAt ≠ some s.ticks → hubBit (0x24007 + 0x10 * rxq) 21 s = false →
        ∃ t, exec (.netFrameReceive p fr) s = .next t ∧ t.mem = s.mem ∧ t.cls = s.cls ∧
        (pqGet rxq t).done = (pqGet rxq s).done ++ [(s.ticks, (pqGet rxq s).opn ++ pkt)]) ∧
      (rxAccept p fr s = some idx → ¬ room → exec (.netFrameReceive p fr) s = .next (odCount 0xC080 0 s)) ∧
      (rxAccept p fr s = none → ∃ t, exec (.netFrameReceive p fr) s = .next t ∧ hubPair (r + 0x10) t = hubPair (r + 0x10) s + 1 ∧
        odCtr 0xC081 0 t = odCtr 0xC081 0 s + 1 ∧ t.ev = s.ev)) ∧
    (netUp p s = true → lineFree p s = true → x.sched = f :: rest → f.at'.toNat / 256 ≤ s.ns.toNat → txqHead p s = none → ∃ t,
      exec (.netFrameLaunch p) s = .next t ∧ (netPort p t).sched = rest ∧ (netPort p t).sent = some f ∧ t.mem = s.mem ∧ t.cls = s.cls) ∧
    (ready → hubBit (r + 2) 23 s = false → sends (.txqSend p)) ∧
    (ready → taskPort p ∈ s.ev.taskIn → x.trigs < txqUntimed p s → sends (.txqTrigger p)) ∧
    (p.val < 32 → netUp p s = true → x.sent = some f →
      (x.retries < hubFld r 19 16 s → ∃ t, exec (.canBusError p) s = .next t ∧ (netPort p t).sent = some f ∧
        (netPort p t).retries = x.retries + 1 ∧ (netPort p t).sched = x.sched ∧ t.hub = s.hub ∧ t.mem = s.mem) ∧
      (hubFld r 19 16 s ≤ x.retries → ∃ t, exec (.canBusError p) s = .next t ∧ (netPort p t).sent = none ∧
        hubPair (r + 0x12) t = hubPair (r + 0x12) s + 1)) ∧
    (p.val < 32 → netUp p s = true → ∃ t, exec (.canBusOff p) s = .next t ∧ (netPort p t).sched = [] ∧ (netPort p t).sent = none ∧
      hubBit (r + 0xC) 23 t = false ∧ hubBit (r + 0xC) 22 t = true) ∧
    (p.val < 32 → hubBit r 23 s = true → hubBit r 20 s = true → hubBit (r + 0xC) 22 s = true → ∃ t,
      exec (.canBusOffRecovery p) s = .next t ∧ hubBit (r + 0xC) 23 t = true ∧ hubBit (r + 0xC) 22 t = false) ∧
    (hubBit link 23 s ≠ up → (up = true → netFenced s = false) → exec (.netLinkChange mac up) s = .next (fire (0x8F8 + mac) (hubSetBit link 23 up s))) ∧
    (∃ t, exec (.netCntW0Read p i m) s = .next t ∧ t.resp = [hubGet (r + 0x10 + 2 * i) s] ∧ t.hub = s.hub ∧
      snapGet (r + 0x10 + 2 * i) (masterNum m) t = (hubGet (r + 0x11 + 2 * i) s).setWidth 48)

/-- An MDIO access runs from GO to its end, a read's data in their register. A gate list that may become active does so
with EN, or at its own first cycle start after SWAP; the gates follow the entry in force, and are open while EN = 0 (R364,
R374, R375). The model's own choices here are those of log entry 51. -/
def Obligations.GateListsAndMdio : Prop :=
  ∀ (mac : Fin 8) (v : Word) (data : BitVec 16) (s : State), dark s = false →
    let r := 0x30000 + 0x40 * (32 + mac.val)
    let go := hubBit (r + 0xA) 23 s
    let g := r + 0x20
    let x := netPort (32 + mac) s
    let other := 1 - gclActive mac s
    (go = false → ∃ t, exec (.mdioAccess mac v) s = .next t ∧ hubBit (r + 0xA) 23 t = true ∧ hubBit (r + 0xA) 22 t = bitOf 22 v ∧
      t.mem = s.mem ∧ t.cls = s.cls) ∧
    (go = true → ∃ t, exec (.mdioAccessComplete mac data) s = .next t ∧ hubBit (r + 0xA) 23 t = false ∧
      hubGet (r + 0xB) t = (if hubBit (r + 0xA) 22 s then hubGet (r + 0xB) s else data.setWidth 24) ∧ t.mem = s.mem ∧ t.cls = s.cls) ∧
    (hubBit g 23 s = false → gclOk mac (gclActive mac s) s = true → ∃ t, exec (.gclEnable mac true) s = .next t ∧
      hubBit g 23 t = true ∧ (netPort (32 + mac) t).listAt = s.ns) ∧
    (hubBit g 23 s = true → ∃ t, exec (.gclEnable mac false) s = .next t ∧ hubBit g 23 t = false ∧
      (netPort (32 + mac) t).gates = 0xFF) ∧
    (hubBit g 21 s = false → gclOk mac other s = true → ∃ t, exec (.gclSwap mac) s = .next t ∧ hubBit g 21 t = true ∧
      (netPort (32 + mac) t).swapAt = gclFirst mac other s.ns.toNat s ∧ gclActive mac t = gclActive mac s) ∧
    (hubBit g 21 s = true → x.swapAt ≤ s.ns.toNat → ∃ t, exec (.gclSwapTakeover mac) s = .next t ∧ hubBit g 21 t = false ∧
      gclActive mac t = other) ∧
    (exec (.gateEntryChange mac) s = .next (netPut (32 + mac) { x with gates := (gateNow mac s).1, entry := (gateNow mac s).2 } s))

/-- CMAC engines: under a KEY capability that covers the slot a write of W0 invalidates its key and one of W5 completes
it, else the write is refused; a message word joins the buffer; a job takes the MAC of the message with its freshness
value in hand, and at its end GEN leaves the MAC's first bits and the counter one higher, VERIFY whether the MAC matched
(R376–R379). The model's own choices here are those of log entries 11 and 52. -/
def Obligations.CmacEnginesGenerateAndVerify : Prop :=
  ∀ (q : Fin 4) (slot : Fin 64) (v job : Word) (cap : Cap) (j : CmacJob) (c : Fin 256) (m : Master) (s : State),
    dark s = false →
    let r := 0x31000 + 0x400 * q.val
    let e := cmGet q s
    let key := smAt 0 e.keys slot
    let len := hubFld (r + 1) 11 0 s
    let sl := fld 7 2 job
    let fv (job : Word) : Nat := 0x33000 + 0x200 * q.val + 2 * fld 15 8 job
    let msg := (wordsBytes ((List.range 704).map fun i => smAt 0 e.buf i)).take len
    let runs (i : Instr) (n : DWord) : Prop := ∃ t, exec i s = .next t ∧ hubBit (r + 2) 23 t = true ∧ t.mem = s.mem ∧ t.cls = s.cls ∧
      ∃ j, (cmGet q t).job = some j ∧ j.fv = some n ∧
        j.mac = cmac (slotKey (smAt 0 e.keys sl)) (msg ++ beBytes (hubFld (r + 1) 23 16 s) n.toNat)
    let ready := keyAuth q sl permRD cap s = true ∧ hubBit (r + 2) 23 s = false ∧ smAt false e.valid sl = true ∧ 7 ≤ fld 22 16 job ∧
      len ≤ 2112 ∧ netFenced s = false
    let ended := s.ticks.toNat ≥ j.endAt.toNat
    let bits := fld 22 16 j.job + 1
    (keyAuth q slot permWR cap s = true →
      (∃ t, exec (.cmacKeyW0Write q slot v cap) s = .next t ∧ smAt false (cmGet q t).valid slot = false ∧
        smAt 0 (cmGet q t).keys slot = key.extractLsb' 24 120 ++ v) ∧
      (∃ t, exec (.cmacKeyW5Write q slot v cap) s = .next t ∧ smAt false (cmGet q t).valid slot = true ∧
        smAt 0 (cmGet q t).keys slot = (v &&& 0xFF) ++ key.extractLsb' 0 120)) ∧
    (keyAuth q slot permWR cap s = false → ∀ i ∈ [Instr.cmacKeyW0Write q slot v cap, .cmacKeyW5Write q slot v cap],
      exec i s = .next (hubSetBit (r + 2) 20 true s)) ∧
    (e.fill < 704 → exec (.cmacMsgWrite q v) s = .next (cmPut q { e with buf := smPut 0 e.buf e.fill v, fill := e.fill + 1 } s)) ∧
    (ready → runs (.cmacGen q job cap) (hubPair (fv job) s + 1)) ∧
    (∀ n, ready → verifyFv (hubPair (fv job) s) (hubPair (r + 3) s) (8 * (fld 1 0 job + 1)) = some n → runs (.cmacVerify q job cap) n) ∧
    (e.job = some j → ended → bitOf 23 j.job = true → ∃ t, exec (.cmacJobDone q) s = .next t ∧ hubBit (r + 2) 23 t = false ∧
      (cmGet q t).job = none ∧ hubPair (fv j.job) t = j.fv.getD 0 ∧ ∀ i, i < 6 → hubGet (r + 5 + i) t = (macWords j.mac bits).getD i 0) ∧
    (e.job = some j → ended → bitOf 23 j.job = false → ∃ t, exec (.cmacJobDone q) s = .next t ∧ hubBit (r + 2) 23 t = false ∧
      (cmGet q t).job = none ∧ hubBit (r + 2) 22 t = (j.fv.isSome && macMatches j.mac j.expect bits)) ∧
    (∃ t, exec (.netCmFvW0Read q c m) s = .next t ∧ t.resp = [hubGet (0x33000 + 0x200 * q + 2 * c) s] ∧ t.hub = s.hub ∧
      snapGet (0x33000 + 0x200 * q + 2 * c) (masterNum m) t = (hubGet (0x33001 + 0x200 * q + 2 * c) s).setWidth 48)

/-! ## Host ports (R381–R402) -/

/-- A port comes up with its width, goes down with its cache and snoop filter emptied, narrows and widens with a count and
its vector; a port that is down hands its role to its partner at once or after FO_HOLD, and takes it back when it is up
again (R382, R383, R399–R401). The model's own choices here are those of log entry 54. -/
def Obligations.HostPortsComeAndGo : Prop :=
  ∀ (p : CxlPort) (width : Fin 5) (rate : Fin 4) (ide : Bool) (s : State), dark s = false →
    let stat (q : Nat) (i : Nat) (t : State) : Bool := hubBit (0x40010 + q) i t
    let up (q : Nat) : Bool := stat q 23 s
    let w (t : State) : Nat := hubFld (0x40010 + p) 21 19 t
    let full := if hubBit 0x40000 23 s then 3 else 4
    let changed (i : Instr) (k : Nat) : Prop := ∃ t, exec i s = .next t ∧ w t = k ∧ odCtr 0xC090 0 t = odCtr 0xC090 0 s + 1 ∧
      t.cxl.raised = s.cxl.raised ++ [41 + 2048 * (p.val + 1)] ∧ t.mem = s.mem ∧ t.cls = s.cls
    let lost := hubBit 0x40000 23 s = true ∧ up p = false ∧ up (1 - p) = true ∧ stat (1 - p) 22 s = false
    let takes (i : Instr) : Prop := ∃ t, exec i s = .next t ∧ stat (1 - p) 22 t = true ∧
      t.cxl.raised = s.cxl.raised ++ [42 + 2048 * (2 - p.val)] ∧ t.mem = s.mem ∧ t.cls = s.cls
    (up p = false → hubBit 0x50021 4 s = false → p = 0 ∨ hubBit 0x40000 23 s = true →
      (∃ t, exec (.cxlPortUp p true width rate ide) s = .next t ∧ stat p 23 t = true ∧ w t = min width full ∧ stat p 16 t = ide ∧
        hubFld (0x40010 + p) 18 17 t = rate ∧ t.cxl.raised = s.cxl.raised ++ [40 + 2048 * (p.val + 1)]) ∧
      exec (.cxlPortUp p false width rate ide) s = .next (hubSetBit (0x40012 + p) 5 true s)) ∧
    (up p = true → ∃ t, exec (.cxlPortDown p) s = .next t ∧ stat p 23 t = false ∧ w t = 0 ∧ (cxlPort p t).cache = [] ∧
      (cxlPort p t).filter = [] ∧ (cxlPort p t).downAt = s.ticks ∧ t.mem = s.mem ∧ t.cls = s.cls) ∧
    (up p = true → width < w s → changed (.cxlLaneDegrade p width) width) ∧
    (up p = true → w s < min width full → changed (.cxlWidthRestoreTry p width) (min width full)) ∧
    (lost → takes (.cxlFoNow p)) ∧
    (lost → hubBit 0x40000 22 s = true → hubFld 0x40000 7 0 s * 10 ^ 6 ≤ (s.ticks - (cxlPort p s).downAt).toNat →
      takes (.cxlFailoverTimeout p)) ∧
    (stat (1 - p) 22 s = true → up p = true → ∃ t, exec (.cxlFoBack p) s = .next t ∧ stat (1 - p) 22 t = false ∧ t.mem = s.mem)

/-- A device write of host memory is what the next device read finds; SYNC leaves no line modified in the device caches; a
snoop answers a cached line's words, and an invalidating one drops it; BACK_INVALIDATE leaves the host no line that
overlaps; host bytes written through HDM read back from the deep store, whose other bytes stay (R390, R391, R393, R394).
The model's own choices here are those of log entries 8 and 13. -/
def Obligations.HostAndDeviceMemoryStayCoherent : Prop :=
  ∀ (p : CxlPort) (q : Nat) (m : Master) (w : BitVec 39) (v : Word) (line : Nat) (x : CLine) (kind : SnoopKind) (o b : Nat)
    (data : List HByte) (s : State), dark s = false →
    let hdm := cxlUp p s = true ∧ servicePause s = false ∧ o < 2 ^ 40 ∧ failedOver (1 - p) s = false
    (hostPort s = some q → 4 * w.toNat < (hubPair (0x40000 + 0x100 * (q + 1) + 0x4B) s).toNat →
      ∃ t u, exec (.hostMemoryAccess m w (some v)) s = .next t ∧ t.resp = [] ∧ t.mem = s.mem ∧ t.hub = s.hub ∧
        exec (.hostMemoryAccess m w none) t = .next u ∧ u.resp = [v]) ∧
    (hostPort s = none → ∃ t, exec (.hostMemoryAccess m w none) s = .next t ∧ t.resp = [] ∧ t.cxl = s.cxl) ∧
    (∃ t, exec (.cxlSyncRead m) s = .next t ∧ t.resp = [0] ∧ t.mem = s.mem ∧ t.hub = s.hub ∧
      ∀ r : CxlPort, ∀ x ∈ (cxlPort r t).cache, x.modified = false) ∧
    (cacheLine? p (p * 2 ^ 68 + line) s = some x → ∃ t, exec (.hostSnoop p line kind) s = .next t ∧
      t.resp = (List.range 16).map (fun i => smAt 0 x.words i) ∧ t.mem = s.mem ∧ t.hub = s.hub ∧
      (kind = .invalidate → cacheLine? p (p * 2 ^ 68 + line) t = none)) ∧
    (∃ t, exec (.backInvalidate p line) s = .next t ∧ t.mem = s.mem ∧ t.hub = s.hub ∧
      ∀ e ∈ (cxlPort p t).filter, ¬ (64 * e.line < 96 * line + 96 ∧ 96 * line < 64 * e.line + 64)) ∧
    (hdm → hdmByte p o data.length s = some b → ∃ t, exec (.hdmAccess p o (.write data)) s = .next t ∧
      (∀ i, i < data.length → deepByte (b + i) t = data.getD i 0) ∧
      (∀ i, i < b ∨ b + data.length ≤ i → deepByte i t = deepByte i s)) ∧
    (hdm → ∀ k, hdmByte p o k s = some b → (∀ l ∈ touched 96 b k, l ∉ s.hbm.poisoned) →
      ∃ t, exec (.hdmAccess p o (.read k)) s = .next t ∧ t.resp = (List.range k).map (fun i => (deepByte (b + i) s).setWidth 24) ∧
        t.mem = s.mem)

/-- A raised vector is sent by its port, or pends while masked, or is dropped and counted while the port is down;
unmasking sends a pending one. A mailbox is busy from its doorbell, outside BOOT, until its response, whose words it then holds,
or its time-out, and raises its vector; a doorbell of a busy one sets its error (R395–R398). The model's own choices here are
those of log entry 9. -/
def Obligations.VectorsAndMailboxes : Prop :=
  ∀ (p : CxlPort) (v : BitVec 11) (e : Nat) (mb : Fin 8) (status : BitVec 16) (rsp : List Word) (s : State),
    dark s = false →
    let t := { s with cxl := { s.cxl with raised := s.cxl.raised.erase e } }
    let dest := vecPort e s
    let r := 0x41000 + 0x400 * mb.val
    let busy := hubBit r 22 s
    let ends (i : Instr) (code : Nat) (u : State) : Prop := exec i s = .next u ∧ hubBit r 22 u = false ∧ hubFld r 15 0 u = code ∧
      u.cxl.raised = s.cxl.raised ++ [32 + mb.val] ∧ u.mem = s.mem ∧ u.cls = s.cls
    (s.cxl.raised.find? (fun e => e % 2048 == v.toNat) = some e → exec (.msixRaise v) s = .next (
      if cxlUp dest s = false then odCount 0xC093 0 t
      else if msixMasked dest v.toNat s then cxlPutPort dest { cxlPort dest t with pba := smPut false (cxlPort dest t).pba v.toNat true } t
      else { t with cxl := { t.cxl with sent := t.cxl.sent ++ [(dest, v.toNat)] } })) ∧
    (∃ u, exec (.msixUnmask p v) s = .next u ∧ msixMasked p v.toNat u = false ∧ smAt false (cxlPort p u).pba v.toNat = false ∧
      u.cxl.sent = s.cxl.sent ++ (if smAt false (cxlPort p s).pba v.toNat then [(p.val, v.toNat)] else []) ∧ u.hub = s.hub) ∧
    (busy = false → mode s ≠ 2 → ∃ u, exec (.mailboxDoorbell mb) s = .next u ∧ hubBit r 22 u = true ∧ (smAt ⟨0⟩ u.cxl.mbs mb).rungAt = s.ticks ∧
      u.mem = s.mem ∧ u.cls = s.cls) ∧
    (busy = true → mode s ≠ 2 → exec (.mailboxDoorbell mb) s = .next (hubSetBit r 21 true s)) ∧
    (busy = true → rsp.length ≤ 256 → hubBit 0x50021 5 s = false → ∃ u, ends (.mailboxResponse mb status rsp) status.toNat u ∧ hubFld (r + 2) 8 0 u = rsp.length ∧
      ∀ i, i < rsp.length → hubGet (r + 0x200 + i) u = rsp.getD i 0) ∧
    (busy = true → hubFld (r + 3) 15 0 s ≠ 0 →
      hubFld (r + 3) 15 0 s * 10 ^ 6 ≤ (s.ticks - (smAt ⟨0⟩ s.cxl.mbs mb).rungAt).toNat → ∃ u, ends (.mailboxTimeout mb) 0xFFFE u)

/-- A host reads and writes a hub register through BAR0 where one of its entries covers the register, as the port's
master, and memory through an enabled window of BAR2; an access that no entry covers changes no register but sets DENY, is
counted, and reads 0; a handover write without its entry is recorded in PLOT_ERR too. Through a disabled window a read
answers 0 and a write is dropped; a word of the deep store is read and written where it lies (R180, R384–R388). Here each access is of one 32-bit unit. The model's own choices here are those of log
entry 53. -/
def Obligations.HostAccessesNeedTheirEntry : Prop :=
  ∀ (p : CxlPort) (k : Nat) (a b c d : HByte) (ad : Nat) (v : Word) (h : Cl × Nat) (u s : State), dark s = false →
    let master : Master := if p = 0 then .hostA else .hostB
    let w : Word := c ++ b ++ a
    let bytes (v : Word) : List Word := [v &&& 0xFF, v >>> 8 &&& 0xFF, v >>> 16, 0]
    let denied := odCount 0xC091 0 (hubSetBit (0x40012 + p) 3 true s)
    let rd := hostReads p [0x4000000000 + k] s
    (portTakes p s = true → 4 * k < 0x3F00000 → lockedFor master (0x4000000000 + k) s = false →
      (rd = true → exec (.bar0Read p (BitVec.ofNat 26 (4 * k)) 4) s =
        .next (respond (bytes (hubRead master k s).1) (hubRead master k s).2)) ∧
      (rd = false → exec (.bar0Read p (BitVec.ofNat 26 (4 * k)) 4) s = .next (respond [0, 0, 0, 0] denied)) ∧
      (hostWritesOk p [(k, w)] s = true → exec (.bar0Write p (BitVec.ofNat 26 (4 * k)) [a, b, c, d]) s =
        .next (hubWrite master (hostCaps p s) k (maskReserved k w) s)) ∧
      (hostWritesOk p [(k, w)] s = false → keyReg k = false → handoverOf k w = none →
        exec (.bar0Write p (BitVec.ofNat 26 (4 * k)) [a, b, c, d]) s = .next denied) ∧
      (hostWritesOk p [(k, w)] s = false → keyReg k = false → handoverOf k w = some h →
        ∃ t, exec (.bar0Write p (BitVec.ofNat 26 (4 * k)) [a, b, c, d]) s = .next t ∧ ioFld 0x342 3 0 (t.cl h.1) = 1 ∧
          t.hub = denied.hub ∧ t.od = denied.od ∧ t.mem = s.mem ∧ ∀ n : Cl, n ≠ h.1 → t.cl n = s.cl n)) ∧
    (portTakes p s = true → servicePause s = false → k < 2 ^ 26 → bar2Addr p k s = none →
      exec (.bar2Access p (BitVec.ofNat 28 (4 * k)) (.read 4)) s = .next (respond [0, 0, 0, 0] s) ∧
      exec (.bar2Access p (BitVec.ofNat 28 (4 * k)) (.write [a, b, c, d])) s = .next s) ∧
    (portTakes p s = true → servicePause s = false → k < 2 ^ 26 → bar2Addr p k s = some ad →
      (hostCovers p permRD [ad] s = false →
        exec (.bar2Access p (BitVec.ofNat 28 (4 * k)) (.read 4)) s = .next (respond [0, 0, 0, 0] denied)) ∧
      (hostCovers p permRD [ad] s = true → wordRead master .hubM ad s = (.ok v, u) →
        exec (.bar2Access p (BitVec.ofNat 28 (4 * k)) (.read 4)) s = .next (respond (bytes v) u)) ∧
      (hostMayWrite p [(ad, w)] s = true → hostWrite1 p ad w s = (.ok v, u) →
        exec (.bar2Access p (BitVec.ofNat 28 (4 * k)) (.write [a, b, c, d])) s = .next (wrote [ad] u)) ∧
      (∀ off, regionOf ad = .deep off → lockedFor master ad s = false →
        (hostCovers p permRD [ad] s = true → deepBad off s = false →
          ∃ t, exec (.bar2Access p (BitVec.ofNat 28 (4 * k)) (.read 4)) s = .next t ∧ t.resp = bytes (memGet ad s) ∧ t.mem = s.mem ∧
            t.hub = s.hub ∧ t.cls = s.cls) ∧
        (hostMayWrite p [(ad, w)] s = true →
          ∃ t, exec (.bar2Access p (BitVec.ofNat 28 (4 * k)) (.write [a, b, c, d])) s = .next t ∧ memGet ad t = w ∧
            (∀ x, x ≠ ad → memGet x t = memGet x s) ∧ t.hub = s.hub ∧ t.cls = s.cls)) ∧
      (hostMayWrite p [(ad, w)] s = false → (∀ off, regionOf ad ≠ .hub off) →
        exec (.bar2Access p (BitVec.ofNat 28 (4 * k)) (.write [a, b, c, d])) s = .next denied))

/-! ## The object dictionary and the parameter queues (R403–R424) -/

/-- READ answers an entry's TYPE and value, READ_SEG a part of a DOMAIN, DESCRIBE its TYPE, access, size, default and
limits, each an entry that does not exist with its STATUS and no data; an OP that is not listed is answered with STATUS
0x0B and OP 0xF, another VER with STATUS 0x0C; a repeated request gets its kept response again (R403, R407–R409, R411,
R412). The model's own choices here are those of log entries 55 and 56. -/
def Obligations.DictionaryReadsAreAnswered : Prop :=
  ∀ (via : NfpVia) (path : NfpPath) (seq idx : BitVec 16) (sub : BitVec 8) (ofs : Word) (len : BitVec 12) (op ver : BitVec 4)
    (e : OdEntry) (st : Nat) (s : State),
    let i := idx.toNat
    let j := sub.toNat
    let asks (o : Nat) (l : Nat) (w3 : Word) : List Word := request o seq.toNat i j 0 l w3 []
    let serves := Serves via path
    let answers (c : Instr) (o status ty : Nat) (data : List Word) (w3 : Word) : Prop :=
      ∃ t, exec c s = .next t ∧ Sent path (nfpWords o seq.toNat i j status ty data w3) s t
    let three (ws : List Word) : List Word := if e.ty = 9 ∨ e.ty = 10 then [0, 0, 0] else padTo 3 ws
    let may := peerRefused path false s = false
    let found := may ∧ odFind i j s = .ok e
    (serves (asks 1 0 0) s →
      (found → e.acc ≠ 4 → answers (.nfpRead via) 9 0 e.ty (odValue i j e s) 0) ∧
      (may → odFind i j s = .error st → answers (.nfpRead via) 9 st 0 [] 0)) ∧
    (serves (asks 3 len.toNat ofs) s → len.toNat ≤ 480 →
      (found → e.acc ≠ 4 → e.ty = 10 → ofs.toNat + len.toNat ≤ e.size →
        answers (.nfpReadSeg via) 11 0 10 (((padTo e.size (odValue i j e s)).drop ofs.toNat).take len.toNat) ofs) ∧
      (may → odFind i j s = .error st → answers (.nfpReadSeg via) 11 st 0 [] ofs)) ∧
    (serves (asks 5 0 0) s →
      (found → i ≠ 0x1019 → answers (.nfpDescribe via) 13 0 0
        (BitVec.ofNat 24 (e.ty * 2 ^ 20 + e.acc * 2 ^ 16 + e.size) :: (three e.dflt ++ three e.lo ++ three e.hi)) 0) ∧
      (may → odFind i j s = .error st → answers (.nfpDescribe via) 13 st 0 [] 0)) ∧
    (serves (asks op.toNat 0 0) s → op.toNat = 0 ∨ 6 < op.toNat → answers (.nfpUnlistedOperation via) 15 0xB 0 [] 0) ∧
    (∀ w rest, asks 1 0 0 = w :: rest → ver ≠ 1 →
      serves ((w &&& 0xFFFFF ||| (ver.setWidth 24 <<< (20 : Nat))) :: rest) s → answers (.nfpRead via) 9 0xC 0 [] 0) ∧
    (∀ port peer mac k, dark s = false → Comes via (.field port peer mac) (asks 1 0 0) s →
      nfpUp (.field port peer mac) s = true →
      (keptOf peer s).find? (fun (x : Kept) => x.seq.toNat == seq.toNat % 2 ^ 16) = some k →
      ∃ t, exec (.nfpRead via) s = .next t ∧ Sent (.field port peer mac) k.resp s t ∧ odCtr 0xC0A2 0 t = odCtr 0xC0A2 0 s + 1)

/-- A WRITE that R405 accepts puts its value into an entry that the server keeps, a WRITE_SEG its words into their place
in a DOMAIN, and answers STATUS 0; one that R405 refuses answers its STATUS and changes no value. A write of model
parameters, one or several together, puts its entries in order into the cluster's queue, and its answer waits for the last
(R405, R409, R418, R422). The model's own choices here are those of log entries 55 and 56. -/
def Obligations.DictionaryWritesTakeEffect : Prop :=
  ∀ (via : NfpVia) (path : NfpPath) (seq idx : BitVec 16) (sub : BitVec 8) (ofs : Word) (ty : BitVec 4) (data : List Word)
    (items : List NfpItem) (e : OdEntry) (p : Param) (n : Cl) (ps : List (Param × List Word)) (st : Nat) (s : State),
    let i := idx.toNat
    let j := sub.toNat
    let key := odKey i j
    let found := peerRefused path true s = false ∧ odFind i j s = .ok e
    let kept := odParam key s = none ∧ i ≠ 0x2000 ∧ i ≠ 0x1030 ∧ i ≠ 0x2040
    let hdr (op a b : Nat) (w3 : Word) : List Word := nfpWords op seq.toNat a b 0 0 [] w3
    let queued (c : Instr) (op a b : Nat) (w3 : Word) (all : List (Param × List Word)) (m : Cl) : Prop :=
      let es := all.mapIdx fun k q => paramPush q.1 q.2 s.od.nextReq (decide (k + 1 = all.length))
      QueueTakes m es s → ∃ t, exec c s = .next t ∧ (t.cl m).pq = (s.cl m).pq ++ es ∧
        t.od.waiting = s.od.waiting ++ [⟨s.od.nextReq, path, hdr op a b w3⟩] ∧ t.od.out = s.od.out ∧ t.mem = s.mem ∧
        (∀ k : Cl, k ≠ m → t.cl k = s.cl k)
    (Serves via path (request 2 seq.toNat i j ty.toNat data.length 0 data) s → data.length ≤ 480 → found →
      (odCheck e ty.toNat data s ≠ 0 → ∃ t, exec (.nfpWrite via) s = .next t ∧
        Sent path (nfpWords 10 seq.toNat i j (odCheck e ty.toNat data s) 0 [] 0) s t ∧ t.od.vals = s.od.vals) ∧
      (odCheck e ty.toNat data s = 0 → kept → e.ty ≠ 10 → ∃ t, exec (.nfpWrite via) s = .next t ∧
        Sent path (hdr 10 i j 0) s t ∧ smGet odDefault t.od.vals key = data ∧
        ∀ k, k ≠ key → smGet odDefault t.od.vals k = smGet odDefault s.od.vals k) ∧
      (odCheck e ty.toNat data s = 0 → odParam key s = some p → backlogOver (descCl p.desc) 1 s = false →
        queued (.nfpWrite via) 10 i j 0 [(p, data)] (descCl p.desc))) ∧
    (Serves via path (request 4 seq.toNat i j ty.toNat data.length ofs data) s → ty = 0 ∨ ty = 10 → data.length ≤ 480 → found →
      odWritable e.acc s = true → kept → e.ty = 10 → ofs.toNat + data.length ≤ e.size → ∃ t,
        exec (.nfpWriteSeg via) s = .next t ∧ Sent path (hdr 12 i j ofs) s t ∧
        ∀ k, k < e.size → (smGet odDefault t.od.vals key).getD k 0 =
          if ofs.toNat ≤ k ∧ k < ofs.toNat + data.length then data.getD (k - ofs.toNat) 0 else (padTo e.size (odValue i j e s)).getD k 0) ∧
    (Serves via path (request 6 seq.toNat 0 0 0 0 (BitVec.ofNat 24 items.length) (items.flatMap itemWords)) s →
      (items.flatMap itemWords).length ≤ 480 → (∀ it ∈ items, it.data.length < 2 ^ 12) → peerRefused path true s = false →
      let checks := (items.mapIdx fun k it => itemCheck (itemsCl items s) k it s).mapM id
      let all := ps ++ generationWrites ps s
      (checks = .error st → ∃ t, exec (.nfpWriteMulti via) s = .next t ∧
        Sent path (nfpWords 14 seq.toNat 0 0 st 0 [] (BitVec.ofNat 24 items.length)) s t) ∧
      (checks = .ok ps → itemsCl items s = some n → backlogOver n all.length s = false →
        queued (.nfpWriteMulti via) 14 0 0 (BitVec.ofNat 24 items.length) all n))

/-- PUSH queues the entry of OD_PQ_ADDR and OD_PQ_V0–V2 or sets the bit of why it does not; the server's oldest waiting
entry follows when there is room; the oldest queued entry is applied while the grid is stopped: its words are in its home,
APPLIED counts, LAST is the base frame, and a request whose last entry it is gets its answer. A capability is installed
when its tag verifies; the counters' W0 reads take their W1 along (R418–R421, R423, R35). The model's own choices here are
those of log entry 57. -/
def Obligations.ParameterQueuesApplyInOrder : Prop :=
  ∀ (n : Cl) (e : PEntry) (rest : List PEntry) (w : Waiting) (v : Word) (c : CapV) (m : Master) (s : State), dark s = false →
    let o := 0x300000 + 0x10 * n.val
    let q := (s.cl n).pq
    let a := hubGet o s
    let given : PEntry := ⟨fld 17 0 a, (List.range (fld 23 22 a)).map (fun i => hubGet (o + 1 + i) s), none, 0, false⟩
    let k := given.words.length
    let full := decide (16 ≤ q.length)
    let far := decide (k = 0) || decide (0x3FFFF < given.offset + k - 1)
    let denied := (capFault (s.cl n).pqCap (lsAddr n given.offset) k permWR).isSome
    (∃ t, exec (.odPqPush n) s = .next t ∧ (t.cl n).pq = (if full || far || denied then q else q ++ [given]) ∧ t.mem = s.mem ∧
      (full || far || denied = true → hubBit (o + 5) 21 t = (full || hubBit (o + 5) 21 s) ∧
        hubBit (o + 5) 20 t = (far || hubBit (o + 5) 20 s) ∧ hubBit (o + 5) 19 t = (denied || hubBit (o + 5) 19 s))) ∧
    (backlogOf n s = e :: rest → serverUp s = true → pqRefusals n e s = (false, false, false) → ∃ t, exec (.paramBacklogPush n) s = .next t ∧
      (t.cl n).pq = q ++ [e] ∧ backlogOf n t = rest ∧ t.mem = s.mem) ∧
    (clocked n s = true → isolated n s = false → gridRun s = false → (s.cl n).failover = none → q = e :: rest → ∃ t,
      exec (.paramQueueApplyStopped n) s = .next t ∧
      (t.cl n).pq = rest ∧ hubPair (o + 8) t = hubPair (o + 8) s + 1 ∧ hubPair (o + 6) t = hubPair 0x1018 s ∧
      (∀ i, i < e.words.length → memGet (lsAddr n (e.offset + i)) t = e.words.getD i 0) ∧
      (∀ b, b < lsAddr n e.offset ∨ lsAddr n e.offset + e.words.length ≤ b → memGet b t = memGet b s) ∧
      (∀ p ∈ t.od.params, some p.key = e.key → p.applied = e.words) ∧
      (e.last = true → serverUp s = true → s.od.waiting.find? (fun (x : Waiting) => x.req == e.req) = some w → w.path ≠ .lost →
        t.od.out = s.od.out ++ [(w.path, [w.hdr.getD 0 0, w.hdr.getD 1 0, 0x4002, w.hdr.getD 3 0] ++ DWord.words (hubPair 0x1018 s))])) ∧
    (loadCap s (capOfWords (hubGet (o + 12) s) (hubGet (o + 13) s) (hubGet (o + 14) s) v) = some c →
      ∃ t, exec (.odPqCapW3Write n v) s = .next t ∧ (t.cl n).pqCap = c ∧ t.hub = s.hub ∧ t.mem = s.mem) ∧
    (∀ p ∈ [(Instr.odPqLastF0Read n m, o + 6), (.odPqAppliedW0Read n m, o + 8)],
      ∃ t, exec p.1 s = .next t ∧ t.resp = [hubGet p.2 s] ∧ t.hub = s.hub ∧
        snapGet p.2 (masterNum m) t = (hubGet (p.2 + 1) s).setWidth 48)

/-! ## Sparing and fencing (R425–R445) -/

/-- A restore gives the spare the code, the static plots and the last complete mirror of the cluster's region; replay
writes each recorded frame's fills and goes on to the next record; when none is left the spare runs live at the frame
tick. A swap takes the lowest free spare of the tile and keeps what its GO found; a GO without one, while a failover of the
tile is open or a swap waits, or in another mode sets CFGERR (R428–R431, R443, R464). A mirror pass that completes
leaves the plots as they stood at its start in the mirror that is not the last one, and makes it the last one; one that
has taken PASS frames is abandoned and counted. A fence isolates a unit and switches its domain, an internal error does
the same; switched on again, the registers of each unit that has some hold their reset values, but for what the supplies, the
strap and the OTP say (R317, R435, R441). The model's own choices here are those of
log entries 58 and 59. -/
def Obligations.SparesMirrorsAndFences : Prop :=
  (∀ (n : Cl) (k : Nat) (b : Bool) (f : Failover) (r : RingRec) (s : State), dark s = false →
     let tile := homeTile n
     let c := s.cl n
     let base := regionBase n s
     let ring := base + ringOfs n s
     let v := hubSetFld 0x50030 7 0 n.val s
     let from' (i : Nat) : Word := deepGet (base + i) s
     (Inv s → smAt none s.spm.engine tile = some n.val → spmState n s = 1 → spmProt n s = true → c.lastB = some b →
       (∀ p ∈ mPlots n s, p ∉ sPlots n s) → ∃ t, exec (.restoreComplete n) s = .next t ∧ spmState n t = 2 ∧
         (t.cl n).pc = 0 ∧ (∀ i, i < 16384 → memGet (istoreAddr n i) t = from' i) ∧
         (∀ j o, o < 16384 → (∀ p ∈ (sPlots n s)[j]?, memGet (lsAddr n (p * 16384 + o)) t = from' (codeWords + j * 16384 + o)) ∧
           (∀ p ∈ (mPlots n s)[j]?, memGet (lsAddr n (p * 16384 + o)) t = from' (mirrorOfs n b s + j * 16384 + o)))) ∧
     (c.groups = [] → spmState n s = 2 → c.failover = some f → replayRec f.next c = some r →
       ∃ t, exec (.replayFrame n) s = .next t ∧ (t.cl n).failover = some { f with next := r.frame + 1 } ∧
         (r.params = 0 → r.fills.Nodup → (∀ x ∈ r.fills, x < 0x4000) → ∀ p ∈ r.fills.zipIdx,
           memGet (xchgAddr n p.1) t = deepGet (ring + (r.pos + 4 + p.2) % ringSize n s) s)) ∧
     (c.groups = [] → spmState n s = 2 → c.failover = some f → replayRec f.next c = none → c.tickAt.isSome = true →
       rejoinsAtHold n s = false → holdActive s = false → ∃ t, exec (.firstLiveFrame n) s = .next t ∧ spmState n t = 0 ∧
         hubBit (spmCl n 0) 20 t = true ∧ (t.cl n).failover = some { f with live := true } ∧ t.mem = s.mem) ∧
     (lowestSpare tile s = some k → (∀ m : Cl, homeTile m = tile → foOpen m s = false) → hubBit 0x50030 22 s = false →
       mode s ∈ [4, 5, 6, 7, 8] → ∃ t, exec (.swapGo n) s = .next t ∧ hubBit 0x50030 22 t = true ∧ spareFree tile k t = false ∧
         t.spm.swap = some ⟨n.val, (hubPair 0x50031 s).toNat, hubAddr 0x50033 s⟩ ∧ t.spm.swapSlot = some k ∧
         smAt none t.spm.engine tile = some n.val ∧ domState (34 * tile + spareSlot tile k s) t = 3 ∧ t.mem = s.mem ∧ t.cls = s.cls) ∧
     (lowestSpare tile s = none ∨ (∃ m : Cl, homeTile m = tile ∧ foOpen m s = true) ∨ hubBit 0x50030 22 s = true ∨ mode s ∉ [4, 5, 6, 7, 8] →
       exec (.swapGo n) s = .next (hubSetBit 0x50001 22 true v))) ∧
  (∀ (n : Cl) (p : MirrorPass) (u : Unit7) (s : State), dark s = false →
     let b := (s.cl n).lastB == some false
     let a := regionBase n s + mirrorOfs n b s
     let frames := (baseFrame s - p.start) / divisor n s + 1
     let fenced (i : Instr) : Prop := ∃ t, exec i s = .next t ∧ hubBit 0x50021 u t = true ∧ hubBit 0x50001 5 t = true ∧
       domState (unitDom u) t = 3 ∧ odCtr 0xC0B4 0 t = odCtr 0xC0B4 0 s + 1 ∧ t.mem = s.mem
     ((s.cl n).mirror = some p → smWf (fun _ => 0) p.image = true → mirrorWords n s ≤ mirrorBudget n s * frames →
       mirrorLate n p s = false → isolated n s = false → ∃ t, exec (.mirrorPassComplete n) s = .next t ∧ (t.cl n).mirror = none ∧ (t.cl n).lastB = some b ∧
         (t.cl n).mirrorAt = p.start ∧
         ∀ j o, o < 16384 → inDeep (a + (j * 16384 + o)) = true → ∀ q ∈ (mPlots n s)[j]?,
           memGet (a + (j * 16384 + o)) t = smAt 0 p.image (q * 16384 + o)) ∧
     ((s.cl n).mirror = some p → p.start + hubFld (spmCl n 2) 23 16 s * divisor n s ≤ baseFrame s →
       ∃ t, exec (.mirrorPassAbandon n) s = .next t ∧ (t.cl n).mirror = none ∧ odCtr 0xC0B2 0 t = odCtr 0xC0B2 0 s + 1 ∧ t.mem = s.mem) ∧
     (hubBit 0x50021 u s = false → fenced (.fence u) ∧ fenced (.unitInternalError u)) ∧
     (hubBit 0x50021 u s = true → ∃ t, exec (.unfence u) s = .next t ∧ hubBit 0x50021 u t = false ∧ domState (unitDom u) t = 3 ∧
       t.mem = s.mem ∧ (∀ o, unitRegs u o → hubGet o t = hubReset o) ∧
       (u = 0 ∨ u = 1 → ∀ l, 8 * u.val ≤ l → l < 8 * u.val + 8 → lkGet l t = Link.reset) ∧
       (u = 2 → ∀ b, b < 8 → hubBit (0x10000 + b) 0 t = false ∧ hubBit (0x10000 + b) 23 t = (bankRange (smAt 0 s.tmc.bankMv b)).isSome ∧
         hubBit (0x10000 + b) 22 t = (bankRange (smAt 0 s.tmc.bankMv b) == some 1)) ∧
       (u = 3 → t.net = [] ∧ t.cmac = []) ∧
       (u = 4 → hubGet 0x40000 t = setBit 23 (hubBit 0x40000 23 s) (hubReset 0x40000) ∧ t.cxl.ports = []) ∧
       (u = 6 → hubGet 0x800009 t = setBit 23 s.sec.otp.provisioned (hubReset 0x800009))))

/-! ## The security core (R446–R462) -/

/-- A request whose image passes every check of its kind installs it: the extension for the next restart, Topsoil into the
other half, a patch into the inactive half, a Loam image or a host policy into the sealed area; one that fails ends with
the code of its first failure, installs nothing and leaves its destination invalid; one in a mode that does not allow it ends with
0x08, one whose source no request capability covers with 0x09 (R289, R449–R453, R464). The model's own choices here are those of
log entries 11, 16 and 60. -/
def Obligations.ImagesAreCheckedAndInstalled : Prop :=
  ∀ (ws : List Word) (kind code a : Nat) (i : Instr) (u s : State),
    (kind, i) ∈ [(1, Instr.secLoadHardpanExtension), (2, .secLoadTopsoil), (3, .secLoadMicrocodePatch), (4, .secLoadLoamImage),
      (5, .secLoadHostPolicy)] →
    dark s = false → unitFenced 6 s = false → secBusy s = false →
    let job (code : Nat) (a : Option Nat) (d : Option (BitVec 256)) : SecJob := ⟨BitVec.ofNat 4 kind, BitVec.ofNat 8 code, a, d, true⟩
    (srcCovered (hubAddr 0x800001 s) (hubPair 0x800003 s).toNat s = false → ∃ t, exec i s = .next t ∧ secBusy t = true ∧
      t.sec = { s.sec with job := some (job 9 none none) } ∧ t.mem = s.mem ∧ t.cls = s.cls) ∧
    (Claims.Sourced ws u s →
      let len := (hubPair 0x800003 u).toNat
      let n := clOf (hubGet 0x800005 u).toNat
      let d := if kind = 3 then patchDigest ws else envDigest ws
      let check := if kind = 3 then patchCheck len ws u else envCheck kind len ws u
      let may := if kind = 3 then mode u ∈ [4, 5, 6, 7] else if kind = 2 then mode u ∈ [2, 4, 5, 6, 7] else mode u ≠ 3
      let other (t : State) : Option Img := if u.sec.halfB then t.sec.topA else t.sec.topB
      let extended (m : Nat) (t : State) : Prop := measOf m t = sha256 (beBytes 32 (measOf m u).toNat ++ beBytes 32 d.toNat)
      (¬ may → ∃ t, exec i s = .next t ∧ secBusy t = true ∧ t.sec = { u.sec with job := some (job 8 none none) } ∧
        t.mem = u.mem ∧ t.cls = u.cls) ∧
      (may → check = code → code ≠ 0 → ∃ t, exec i s = .next t ∧ secBusy t = true ∧ t.sec.job = some (job code none none) ∧
        t.sec.sealedCps = u.sec.sealedCps ∧ t.sec.meas = u.sec.meas ∧ t.mem = u.mem ∧ t.cls = u.cls ∧
        (kind = 1 → t.sec.extNext = none ∧ t.sec.ext = u.sec.ext) ∧ (kind = 2 → other t = none ∧ topsoil t = topsoil u)) ∧
      (may → check = 0 → (kind = 3 → ucOpenBusy n u = false) → (4 ≤ kind → sealedRoom len u = some a) →
        (kind = 4 → u.locks = [] ∧ ∀ (m : Cl) (k : Nat), portHeld k (u.cl m) = false) →
        ∃ t, exec i s = .next t ∧ secBusy t = true ∧ t.sec.job = some (job 0 (if 4 ≤ kind then some a else none) (some d)) ∧
          (kind = 1 → t.sec.extNext = some (envImg ws) ∧ t.sec.ext = u.sec.ext ∧ t.mem = u.mem) ∧
          (kind = 2 → t.sec.quiesceAt = some u.ticks ∧ t.mem = u.mem ∧ other t = some (envImg ws) ∧ topsoil t = topsoil u) ∧
          (kind = 3 → extended 2 t ∧ ucValid n (ucInactive n u) t = true ∧
            ∀ k, k < (ws.getD 5 0).toNat → smAt 0 (ucHalf (ucInactive n u) (t.cl n)).words k = patchWord ws k) ∧
          (4 ≤ kind → extended 3 t ∧ t.sec.sealedCps = u.sec.sealedCps ++ [⟨a, len, (ws.getD 4 0).toNat, decide (kind = 4)⟩]) ∧
          (kind = 5 → ∀ k, k < ws.length → memGet (a + k) t = ws.getD k 0)))

/-- REKEY takes a new tag secret and tags the host's and the request registers' capabilities anew, and Topsoil's when it
is done; COMMIT raises a rollback counter to what runs; LOG EXTEND extends M5–M7 with a digest of 11 words, and answers
0x0A for another length, 0x01 for one of more than 256 bits; RELEASE frees a sealed copy; OWNER programs an owner slot or
revokes one; a KIND not listed ends with 0x01; a request while BUSY sets REQERR alone; DONE reports the code, the address
and the digest of an image. A certificate or a report is answered to its requester (R448, R450–R453, R456–R458, R460,
R461). The model's own choices here are those of log entries 15 and 60. The model's own choices here are those of log
entries 15 and 60. -/
def Obligations.SecurityRequestsTakeEffect : Prop :=
  ∀ (kind : BitVec 4) (ws nonce : List Word) (cp : Sealed) (j : SecJob) (via : Bool) (u s : State), dark s = false →
    let arg := (hubGet 0x800005 s).toNat
    let idle := unitFenced 6 s = false ∧ secBusy s = false
    let job (k code : Nat) : SecJob := ⟨BitVec.ofNat 4 k, BitVec.ofNat 8 code, none, none, false⟩
    let ends (i : Instr) (k code : Nat) (P : State → Prop) : Prop :=
      ∃ t, exec i s = .next t ∧ secBusy t = true ∧ t.sec.job = some (job k code) ∧ P t
    let svn := match arg with
      | 0 => (s.sec.ext.map (·.svn)).getD 0
      | 1 => ((topsoil s).map (·.svn)).getD 0
      | 2 => (commonUcode s).toNat % 256
      | _ => (s.sec.sealedCps.filter (·.loam)).foldl (fun m c => max m c.svn) 0
    let p := ws.drop 38
    let slot := 2 + (p.getD 0 0).toNat % 4
    let tagged (t : State) (c : CapV) : CapV := { c with bits := retag t c.bits }
    let whole := (p.getD 12 0).toNat < 2 ^ 16
    (idle → mode s = 4 ∨ mode s = 5 → ∃ t b, exec .secRekey s = .next t ∧ secBusy t = true ∧
      t.sec.job = some { job 7 0 with addr := some b } ∧ t.sec.tagSecret = (Config.random s.fresh).setWidth 128 ∧
      t.sec.reqCaps = s.sec.reqCaps.map (tagged t) ∧ t.mem = s.mem ∧ t.cls = s.cls ∧
      ∀ q : CxlPort, (cxlPort q t).caps = (cxlPort q s).caps.map fun e => (e.1, tagged t e.2)) ∧
    (idle → mode s ≠ 4 → mode s ≠ 5 → ends .secRekey 7 8 fun t => t.sec.tagSecret = s.sec.tagSecret ∧ t.mem = s.mem) ∧
    (idle → arg ≤ 3 → mode s ≠ 3 → (arg = 2 → commonUcode s ≠ 0xFFFFFF) → ends .secCommit 8 0 fun t =>
      rollback arg t = max (rollback arg s) svn ∧ ∀ k, k ≠ arg → rollback k t = rollback k s) ∧
    (idle → Claims.Sourced ws u s → let k := (hubGet 0x800005 u).toNat
      5 ≤ k → k ≤ 7 →
      (ws.length = 11 → (ws.getD 10 0).toNat < 2 ^ 16 → ends .secLogExtend 9 0 fun t =>
        measOf k t = sha256 (beBytes 32 (measOf k u).toNat ++ beBytes 32 (wordsInt256 ws).toNat) ∧
        ∀ i, i ≠ k → measOf i t = measOf i u) ∧
      (ws.length ≠ 11 → ends .secLogExtend 9 0xA fun t => t.sec.meas = u.sec.meas) ∧
      (ws.length = 11 → 2 ^ 16 ≤ (ws.getD 10 0).toNat → ends .secLogExtend 9 1 fun t => t.sec.meas = u.sec.meas)) ∧
    (idle → s.sec.sealedCps.find? (fun c => c.addr == 0x17C0000000 + 64 * arg) = some cp → ends .secRelease 10 0 fun t =>
      t.sec.sealedCps = s.sec.sealedCps.filter (fun x => x.addr != cp.addr) ∧
      ∀ o, o < cp.len → memGet (cp.addr + o) t = 0) ∧
    (idle → Claims.Sourced ws u s →
      (if u.sec.otp.programmed.toNat / 4 = 0 ∧ via = true then envFormat 11 ws = true ∧ envWords ws = 13 ∧ (hubPair 0x800003 u).toNat = 73
       else envCheck 11 (hubPair 0x800003 u).toNat ws u = 0 ∧ (ws.getD 5 0).toNat ≠ slot) → whole →
      (bitOf 0 (p.getD 1 0) = false → u.sec.otp.programmed.getLsbD slot = false →
        ends (.secOwner via) 11 0 fun t => slotHash slot t.sec.otp = wordsInt256 ((p.drop 2).take 11) ∧
          slotValid slot t.sec.otp = (!u.sec.otp.revoked.getLsbD slot)) ∧
      (bitOf 0 (p.getD 1 0) = true → u.sec.otp.programmed.getLsbD slot = true →
        ends (.secOwner via) 11 0 fun t => slotValid slot t.sec.otp = false ∧
          ∀ k, k ≠ slot → slotValid k t.sec.otp = slotValid k u.sec.otp)) ∧
    (idle → kind.toNat ∉ [1, 2, 3, 4, 5, 7, 8, 9, 10, 11] → ends (.secRequestUnlistedKind kind) kind.toNat 1 fun t => t.mem = s.mem) ∧
    (unitFenced 6 s = false → secBusy s = true →
      ∀ i ∈ [Instr.secLoadHardpanExtension, .secLoadTopsoil, .secLoadMicrocodePatch, .secLoadLoamImage, .secLoadHostPolicy,
        .secRekey, .secCommit, .secLogExtend, .secRelease, .secOwner via], exec i s = .next (hubSetBit 0x800009 22 true s)) ∧
    (s.sec.job = some j → mode s ≠ 2 → ∃ t, exec .secRequestDone s = .next t ∧ secBusy t = false ∧ t.sec.job = none ∧
      hubBit 0x800006 23 t = true ∧ hubFld 0x800006 7 0 t = j.code.toNat ∧
      (∀ b, j.addr = some b → hubPair 0x800007 t = BitVec.ofNat 48 b) ∧
      (∀ d, j.digest = some d → ∀ k, k < 11 → hubGet (0x800010 + k) t = (int256Words d).getD k 0) ∧
      t.sec.svcCaps = (if j.kind = 7 ∧ j.code = 0 then s.sec.svcCaps.map (tagged s) else s.sec.svcCaps) ∧ t.mem = s.mem ∧
      odCtr 0xC0C1 0 t = odCtr 0xC0C1 0 s + (if j.image = true ∧ j.code ≠ 0 then 1 else 0)) ∧
    (unitFenced 6 s = false → hubBit 0x50021 4 s = false →
      exec (.spdmRequest .getCertificate nonce) s = .next (respond (s.sec.otp.idCert ++ s.sec.otp.caCert) s) ∧
      ∀ k ∈ [SpdmKind.challenge, .getMeasurements], exec (.spdmRequest k nonce) s = .next (respond (attestation nonce s) (drawn s)))

/-- After 100 ms without a report of quiescence Topsoil is stopped; its replacement starts in the other half, measured
into M1, and a device in BOOT goes to CONFIGURE. In PROVISION the factory's commands program the part, a certificate of at most
640 bytes among them, whose end leads to BOOT (R442, R447, R454, R460). The model's own choices here are those of log entries 10
and 60. -/
def Obligations.TopsoilIsReplacedAndPartsProvisioned : Prop :=
  ∀ (at' : BitVec 64) (x : Img) (k : Fin 2) (h : BitVec 256) (der : List Word) (s : State), dark s = false →
    let half := s.sec.halfB
    let o := s.sec.otp
    let otp (c : FactoryCmd) (P : Otp → Prop) : Prop := ∃ t, exec (.factoryCommand c) s = .next t ∧ P t.sec.otp ∧ mode t = 3 ∧ t.mem = s.mem
    (s.sec.quiesceAt = some at' → at'.toNat + 10 ^ 8 ≤ s.ticks.toNat → s.sec.topRuns = true → ∃ t,
      exec .topsoilQuiesceTimeout s = .next t ∧ t.sec.topRuns = false ∧ t.sec.svcCaps = [] ∧ t.mem = s.mem ∧ t.hub = s.hub) ∧
    (s.sec.quiesceAt = some at' → unitFenced 5 s = false → unitFenced 6 s = false →
      (if half then s.sec.topA else s.sec.topB) = some x → ∃ t, exec .topsoilReplacement s = .next t ∧ topsoil t = some x ∧
        t.sec.halfB = !half ∧ hubBit 0x800009 21 t = !half ∧ t.sec.quiesceAt = none ∧
        measOf 1 t = sha256 (beBytes 32 (measOf 1 s).toNat ++ beBytes 32 x.digest.toNat) ∧ mode t = (if mode s = 2 then 4 else mode s)) ∧
    (mode s = 3 → (otp (.vendorHash k h) fun q => slotHash k q = slotHash k o ||| h ∧ q.programmed.getLsbD k = true) ∧
      (der.length ≤ 214 → (der.getD 213 0).toNat < 2 ^ 8 →
        (otp (.identityCert (identityWords s) der) fun q => q.idCert = otpWords o.idCert der) ∧
        (otp (.deviceCaCert der) fun q => q.caCert = otpWords o.caCert der)) ∧
      (214 < der.length → exec (.factoryCommand (.identityCert (identityWords s) der)) s = .next s ∧
        exec (.factoryCommand (.deviceCaCert der)) s = .next s) ∧
      (o.idCert ≠ [] → o.caCert ≠ [] → o.programmed.toNat % 4 = 3 → ∃ t, exec (.factoryCommand .finish) s = .next t ∧
        t.sec.otp.provisioned = true ∧ hubBit 0x800009 23 t = true ∧ mode t ≠ 3))

/-! ## Modes, power and resets (R463–R486) -/

/-- A mode request that R464 allows from the present mode is taken: CONFIGURE, ARMED, REPLAY and SERVICE at once, STANDBY
when its domains have switched, RUN and SAFE_OUTPUT at their tick; any other sets REFUSED and is counted; a request taken while
STANDBY waits ends that wait, and CONFIGURE in SERVICE is a warm reset. In REPLAY a GO brings the last mirror back, one that R469
does not allow is refused, and its end clears BUSY (R463, R464, R468, R469). The model's own choices here are those of log entry
61. -/
def Obligations.ModeRequestsFollowTheirTable : Prop :=
  ∀ (n : Cl) (b : Bool) (flash : Flash) (code : BitVec 4) (s : State), dark s = false →
    let m := mode s
    let refused (i : Instr) : Prop := exec i s = .next (hubSetBit 0x60000 15 true (odCount 0xC0D2 0 s))
    let at' (i : Instr) (k : Nat) : Prop := ∃ t, exec i s = .next t ∧ mode t = k ∧ t.mem = s.mem
    let from4 (i : Instr) (k : Nat) : Prop := ∃ t, exec i s = .next t ∧ mode t = k ∧ modePend t ≠ 1 ∧ t.mem = s.mem
    let waits (i : Instr) (k : Nat) (P : State → Prop) : Prop := ∃ t, exec i s = .next t ∧ modePend t = k ∧ mode t = m ∧ P t ∧ t.mem = s.mem
    let idle := secBusy s = false
    let replays := hubBit 0x60060 22 s
    let grid := hubBit 0x100A 1 s = true ∧ (hubFld 0x100D 1 0 s ≠ 2 ∨ hubBit 0x100A 5 s = true)
    let replayed := s.cl (clOf s.pwr.replayVc)
    let goes := m = 0xA ∧ replays = false ∧ spmProt n s = true ∧ hubBit (spmCl n 0) 19 s = false
    (if m = 4 ∧ idle then
       (if modePend s = 1 then exec .modeRequestStandby s = .next s
        else waits .modeRequestStandby 1 fun t => ∀ d < 292, domState d t = 3)
     else refused .modeRequestStandby) ∧
    (if (m = 5 ∧ s.tb.action = none) ∨ (m = 0xA ∧ replays = false) then at' (.modeRequestConfigure flash) 4
     else if m = 0xB then exec (.modeRequestConfigure flash) s = exec (.warmReset flash) s
     else refused (.modeRequestConfigure flash)) ∧
    (if m = 4 ∧ idle ∧ grid then from4 .modeRequestArmed 5 else refused .modeRequestArmed) ∧
    (if m = 5 ∧ startPending s = true then waits .modeRequestRun 6 fun _ => True
     else if m = 9 ∧ hubBit 0x60058 15 s = false then
       waits .modeRequestRun (if holdActive s then 8 else if hubFld 0x50001 6 0 s = 0 then 6 else 7) fun _ => True
     else refused .modeRequestRun) ∧
    (if m = 6 ∨ m = 7 ∨ m = 8 then waits .modeRequestSafeOutput 9 fun t => t.pwr.safeDue = true else refused .modeRequestSafeOutput) ∧
    (if m = 4 then from4 .modeRequestReplay 0xA ∧ from4 .modeRequestService 0xB
     else refused .modeRequestReplay ∧ refused .modeRequestService) ∧
    (code.toNat ∈ [2, 3, 7, 8, 12, 13, 14, 15] → refused (.modeRequestUnacceptedCode code)) ∧
    (m = 4 → modePend s = 1 → ∃ t, exec .standbyEntry s = .next t ∧ mode t = 1 ∧ t.pwr.standbyAt = s.ns ∧ t.syncOut = false ∧
      t.mem = s.mem ∧ ∀ d < 292, domState d t = if d = 288 then 1 else 0) ∧
    (goes → (s.cl n).lastB = some b → Inv s →
      ∃ t, exec (.replayGo n) s = .next t ∧ hubBit 0x60060 22 t = true ∧ t.pwr.replayAt = (hubPair 0x60061 s).toNat ∧
        t.pwr.replayLeft = (hubGet 0x60063 s).toNat ∧ t.pwr.replayVc = n.val ∧ ∀ j o, o < 16384 → ∀ q ∈ (mPlots n s)[j]?,
          memGet (lsAddr n (q * 16384 + o)) t = deepGet (regionBase n s + (mirrorOfs n b s + j * 16384 + o)) s) ∧
    (¬ goes → exec (.replayGo n) s = .next (hubSetBit 0x60000 15 true (hubSetFld 0x60060 7 0 n.val s))) ∧
    (replays = true → replayed.groups = [] → s.pwr.replayLeft = 0 ∨ replayRec s.pwr.replayAt replayed = none →
      exec .replayDone s = .next (hubSetBit 0x60060 22 false s))

/-- A domain that Topsoil may switch begins to, one that it may not sets its ERR; a switch completes in the state asked
for, and an island that loses its power loses its stores. A rail below its warning level warns once until it is above it again; the
samples of the valid sensors show as they are, TJ_WARN and TJ_HIGH hold with 3 °C of hysteresis, and at 115 °C the device is held
in reset (R476, R478, R479, R482–R484). The model's own choices here are those of log entry 61. -/
def Obligations.DomainsSuppliesAndTemperature : Prop :=
  ∀ (d : Dom) (v : Word) (target : BitVec 2) (n : Cl) (r : Rail) (mv : BitVec 16) (temps : List (Option Word)) (x : Int) (s : State),
    let rd := 0x60100 + d.val
    let s' := hubSetBit rd 19 (hubBit rd 19 s && !bitOf 19 v) s
    let want := fld 1 0 v
    let rr := 0x60010 + r.val
    let w : Int := (hubFld 0x60058 23 16 s : Nat)
    let still := servicePause s = true ∨ s.movers = []
    let shown (t : State) : Prop := ∀ i, i < 40 → hubGet (0x60030 + i) t = (temps.getD i none).getD (hubGet (0x60030 + i) s)
    (dark s = false →
      (want < 3 → domOpen d s' = true → domState d s ≠ want → ∃ t, exec (.domainRequest d v) s = .next t ∧ domState d t = 3 ∧
        hubFld rd 21 20 t = 2 ∧ smAt none t.pwr.switching d = some (BitVec.ofNat 2 want) ∧ t.mem = s.mem ∧ t.cls = s.cls) ∧
      (want < 3 → domOpen d s' = false → exec (.domainRequest d v) s = .next (hubSetBit rd 19 true s'))) ∧
    (dark s = false → smAt none s.pwr.switching d = some target → ∃ t, exec (.domainSwitchComplete d) s = .next t ∧ domState d t = target.toNat ∧
      smAt none t.pwr.switching d = none ∧ (target ≠ 0 → t.mem = s.mem ∧ t.cls = s.cls) ∧
      (target = 0 → logicalOn d s = some n → d.val < 272 → (∀ o, o < 2 ^ 22 → memGet (lsAddr n o) t = 0) ∧ (t.cl n).pc = 0)) ∧
    (powered s = true →
      (mv.toNat < railWarn r → ∃ t, exec (.railWarning r mv) s = .next t ∧ hubFld rr 15 0 t = mv.toNat ∧ hubBit rr 23 t = true ∧
        (still → t.mem = s.mem) ∧ odCtr 0xC0D0 0 t = odCtr 0xC0D0 0 s + (if hubBit rr 23 s then 0 else 1)) ∧
      (railWarn r < mv.toNat → ∃ t, exec (.railWarningEnd r mv) s = .next t ∧ hubFld rr 15 0 t = mv.toNat ∧ hubBit rr 23 t = false ∧
        t.mem = s.mem) ∧
      (mv.toNat ≤ railWarn r → exec (.railWarningEnd r mv) s = .next s)) ∧
    (dark s = false → temps.length = 40 →
      (hottest (temps.filterMap id) = none → ∃ t, exec (.thermalSample temps) s = .next t ∧ shown t ∧ t.mem = s.mem ∧ t.cls = s.cls) ∧
      (hottest (temps.filterMap id) = some x → 115 * 16 ≤ x → ∃ t, exec (.thermalSample temps) s = .next t ∧ t.pwr.trip = true ∧
        t.jtag.thermtrip = true ∧ t.mem = []) ∧
      (hottest (temps.filterMap id) = some x → x < 115 * 16 → ∃ t, exec (.thermalSample temps) s = .next t ∧ shown t ∧
        hubBit 0x60058 14 t = (if hubBit 0x60058 14 s then decide ((w - 3) * 16 ≤ x) else decide (w * 16 ≤ x)) ∧
        hubBit 0x60058 15 t = (if hubBit 0x60058 15 s then decide (102 * 16 ≤ x) else decide (105 * 16 ≤ x)) ∧
        (still → t.mem = s.mem)))

/-- A cold reset, a rail below its reset level too, leaves every store empty, the grid stopped and the device in BOOT,
PROVISION or CONFIGURE, with the bifurcation strap latched; a warm reset keeps device time, the wake registers and the deep store
outside the sealed area; a wake from STANDBY lets device time go on; a rail without voltage leaves the device OFF, where power-on
alone resets it (R464, R468, R471, R472, R480). The model's own choices here are those of log entries 10, 61 and 68. -/
def Obligations.ResetsLeaveTheirState : Prop :=
  ∀ (cause : ResetCause) (strap : Bool) (flash : Flash) (r : Rail) (mv : BitVec 16) (wakes : WakeCause) (e : Nat) (s : State),
    let booted (t : State) : Prop := mode t ∈ [2, 3, 4] ∧ gridRun t = false ∧ t.pending = s.pending ∧
      (∀ n : Cl, (t.cl n).pc = 0 ∧ (t.cl n).groups = []) ∧ t.sec.flash = flash
    let kept (t : State) : Prop := ∀ i, i < 4 → hubGet (0x60002 + i) t = hubGet (0x60002 + i) s
    let held := s.pwr.trip = true ∨ mode s = 0
    let now := s.pwr.standbyAt + BitVec.ofNat 64 e
    (∀ i ∈ [Instr.coldReset cause strap flash, .railResetLevel r mv strap flash],
      (i = .coldReset cause strap flash → held → cause = .powerOn) →
      (i = .railResetLevel r mv strap flash → ¬ held ∧ mv ≠ 0 ∧ mv.toNat < railReset r) →
      ∃ t, exec i s = .next t ∧ booted t ∧ t.mem = [] ∧ hubBit 0x40000 23 t = strap ∧ t.ns = 0) ∧
    (held → cause ≠ .powerOn → exec (.coldReset cause strap flash) s = .next s) ∧
    (mode s ≠ 0 → ∃ t, exec (.railResetLevel r 0 strap flash) s = .next t ∧ mode t = 0 ∧ t.mem = [] ∧ t.pending = s.pending) ∧
    (dark s = false → ∃ t, exec (.warmReset flash) s = .next t ∧ booted t ∧ t.ns = s.ns ∧ kept t ∧
      (∀ a, 0x1000000000 ≤ a → a < 0x17C0000000 → memGet a t = memGet a s) ∧
      ∀ a, a < 0x1000000000 ∨ 0x17C0000000 ≤ a → memGet a t = 0) ∧
    (mode s = 1 → s.pwr.trip = false → (match wakes with
        | .pin => hubBit 0x60002 23 s = true
        | .alarm => hubBit 0x60002 22 s = true ∧ (hubTime 0x60003 s).toNat ≤ 256 * now.toNat) →
      ∃ t, exec (.wake wakes e strap flash) s = .next t ∧ booted t ∧ t.ns = now ∧ kept t ∧ t.mem = [] ∧ hubBit 0x40000 23 t = strap)

/-! ## The monitor, the counters and the registers (R487–R498) -/

/-- In the modes that R490 marks a monitor command answers OK with its result, in every other mode ERR 03; a bad argument is
answered ERR 06, an access that fails ERR 04, a line that is no command ERR 01 or 02; a word of the deep store is read, written
and changed under its mask where it lies; a line waits while an OD request has no
answer. A new rate applies from the next line on, BREAK goes back to 115,200 baud; control commands stop, step and start a
cluster's sequencer; a self-test draws free values (R408, R415, R470, R487–R493). The model's own choices here are those of log
entries 64 and 65. -/
def Obligations.MonitorCommandsAnswer : Prop :=
  ∀ (a : BitVec 40) (len : Nat) (v mask w : Word) (ws : List Word) (n : Cl) (k rate d : Nat) (seq idx : BitVec 16) (sub : BitVec 8)
    (kind : BitVec 4) (e : OdEntry) (st : Nat) (line name : List HByte) (args : List (List HByte)) (t u s : State),
    let m := mode s
    let live := m ∈ [4, 5, 6, 7, 8, 9, 10, 11]
    let l := { s with mon := { s.mon with baud := s.mon.nextBaud.getD s.mon.baud, nextBaud := none } }
    let ok (ws : List Word) (t : State) : State := { t with mon := { t.mon with resp := ws, ok := true, code := 0 } }
    let err (k : Nat) (t : State) : State := { t with mon := { t.mon with resp := [], ok := false, code := k } }
    let seq' (f : Cluster → Cluster) : Out := .next (ok [] (l.modCl n fun c => f (if seqHalted c then landAll c else c)))
    let target := targetOf a.toNat
    let asks := request 1 seq.toNat idx.toNat sub.toNat 0 0 0 []
    let od (st ty : Nat) (data : List Word) : Prop :=
      let ws := nfpWords 9 seq.toNat idx.toNat sub.toNat st ty data 0
      ∃ t, exec (.monOd asks) s = .next t ∧ Sent .monitor ws l t ∧ t.mon = { l.mon with resp := ws, ok := true, code := 0 }
    let image := secImage kind.toNat ws.length ws l
    let long := len < 1 ∨ 64 < len ∨ monCrosses a.toNat len = true
    powered s = true →
    (exec .monitorBreak s = .next { s with mon := { s.mon with baud := 115200, nextBaud := none } }) ∧
    (monWaits s = true → ∀ i ∈ [Instr.monId, .monBaud rate, .monRd a len, .monCnt k, .monOd ws, .monImg kind ws, .monPub, .monWr a ws,
      .monRmw a mask v, .monHalt k, .monStep k, .monGo k, .monBist d], exec i s = .next s) ∧
    (monWaits s = false →
      (live ∨ m = 2 ∨ m = 3 → exec .monId s = .next (ok ([0x2D565A, 0x343238, 0xA1] ++ DWord.words Config.serial ++
          [BitVec.ofNat 24 m, BitVec.ofNat 24 l.mon.baud]) l) ∧
        exec (.monBaud rate) s = .next (
          if rate ∈ [115200, 230400, 460800, 921600, 1000000, 1500000, 2000000, 3000000] then
            ok [] { l with mon := { l.mon with nextBaud := some rate } }
          else err 6 l)) ∧
      (1024 < line.length → exec (.monUnknownCommand line) s = .next (err 1 l)) ∧
      (monTokens line = name :: args → line.length ≤ 1024 →
        ((∀ c ∈ monCommands, c.1 ≠ name) → exec (.monUnknownCommand line) s = .next (err 2 l)) ∧
        (∀ c ∈ monCommands, c.1 = name → args.length < c.2.1 ∨ c.2.2 < args.length ∨ args.all monNumber = false →
          exec (.monUnknownCommand line) s = .next (err 1 l))) ∧
      (live →
        (long → exec (.monRd a len) s = .next (err 6 l)) ∧
        (¬ long → monReads a.toNat len l = (.ok ws, t) → exec (.monRd a len) s = .next (ok ws t)) ∧
        (¬ long → monReads a.toNat len l = (.error, t) → exec (.monRd a len) s = .next (err 4 t)) ∧
        (∀ off, regionOf a.toNat = .deep off → a.toNat < sealedBase → lockedFor .monitor a.toNat s = false → deepBad off s = false →
          ∃ t, exec (.monRd a 1) s = .next t ∧ t.mon = (ok [memGet a.toNat s] l).mon ∧ t.mem = s.mem ∧ t.hub = s.hub ∧ t.cls = s.cls) ∧
        (exec (.monCnt n) s = .next (ok ((List.range 16).map (fun i => ioGet (0x1120 + i) (s.cl n)) ++
          [ioGet 0x1101 (s.cl n), ioGet 0x1102 (s.cl n)]) l)) ∧
        (256 ≤ k → exec (.monCnt k) s = .next (err 6 l)) ∧
        (serverUp l = true → (odFind idx.toNat sub.toNat l = .ok e → e.acc ≠ 4 → od 0 e.ty (odValue idx.toNat sub.toNat e l)) ∧
          (odFind idx.toNat sub.toNat l = .error st → od st 0 []))) ∧
      (live ∨ (m = 2 ∧ hubFld 0x800009 20 18 s ≠ 0) →
        (kind.toNat ∈ [1, 2, 3, 4, 5] → secBusy s = false → unitFenced 6 s = false → image.sec.job.isSome = true →
          exec (.monImg kind ws) s = .next (ok [jobCode image] image)) ∧
        (kind.toNat ∈ [1, 2, 3, 4, 5, 11] → secBusy s = true → exec (.monImg kind ws) s = .next (err 5 l)) ∧
        (kind.toNat ∉ [1, 2, 3, 4, 5, 11] → exec (.monImg kind ws) s = .next (err 6 l))) ∧
      (m = 3 → exec .monPub s = .next (ok (identityWords s) l)) ∧
      (m = 11 → (1 ≤ ws.length → ws.length ≤ 64 → monCrosses a.toNat ws.length = false → monWrites a.toNat ws [] l = (.ok [], t) →
          exec (.monWr a ws) s = .next (ok [] t)) ∧
        (lockedFor .monitor a.toNat l = false → monRead1 a.toNat (monLock target l) = (.ok w, t) →
          monWrite1 a.toNat ((w &&& ~~~mask) ||| (v &&& mask)) t = (.ok 0, u) →
          exec (.monRmw a mask v) s = .next (ok [] { wrote [a.toNat] u with
            locks := (wrote [a.toNat] u).locks.filter fun k => k.target != target })) ∧
        (∀ off, regionOf a.toNat = .deep off → a.toNat < sealedBase → lockedFor .monitor a.toNat s = false → deepBad off s = false →
          let puts (i : Instr) (x : Word) : Prop := ∃ t, exec i s = .next t ∧ t.mon = (ok [] l).mon ∧ memGet a.toNat t = x ∧
            (∀ b, b ≠ a.toNat → memGet b t = memGet b s) ∧ t.hub = s.hub ∧ t.cls = s.cls
          puts (.monWr a [v]) v ∧ puts (.monRmw a mask v) ((memGet a.toNat s &&& ~~~mask) ||| (v &&& mask))) ∧
        (exec (.monHalt n) s = seq' fun c => { c with halted := true, stepping := false, haltDue := true }) ∧
        (exec (.monStep n) s = seq' fun c => { c with halted := true, stepping := true, haltDue := false }) ∧
        (exec (.monGo n) s = seq' fun c => { c with halted := false, stepping := false, haltDue := false }) ∧
        (d < 293 → ∃ t, exec (.monBist d) s = .next t ∧ t.mon.resp = [Config.freeWord s.fresh] ∧ t.mon.ok = true ∧ mode t = m ∧
          (272 ≤ d → t.cls = s.cls)) ∧
        (293 ≤ d → exec (.monBist d) s = .next (err 6 l))) ∧
      (¬ live → m ≠ 2 → m ≠ 3 → ∀ i ∈ [Instr.monId, .monBaud rate], exec i s = .next (err 3 l)) ∧
      (¬ live → ∀ i ∈ [Instr.monRd a len, .monCnt k, .monOd ws], exec i s = .next (err 3 l)) ∧
      (¬ live → ¬ (m = 2 ∧ hubFld 0x800009 20 18 s ≠ 0) → exec (.monImg kind ws) s = .next (err 3 l)) ∧
      (m ≠ 3 → exec .monPub s = .next (err 3 l)) ∧
      (m ≠ 11 → ∀ i ∈ [Instr.monWr a ws, .monRmw a mask v, .monHalt k, .monStep k, .monGo k, .monBist d], exec i s = .next (err 3 l)))

/-- Event counts clear together; a read of a W0 takes its W1 along for its reader (R35, R495, R496, R498). A lock held for
more than 1 µs ends, is counted, and its monitor gets an error (R24). A write by Hardpan reaches its register and no
other: RW fields take the value, a 1 clears an RW1C field, RO and reserved bits stay as they are; one that a cluster's
capabilities do not cover changes nothing (R6, R8, R446). IDCODE shifts out the device's code; EXTEST, CLAMP and HIGHZ act while
SYS_RST_N is low and else as BYPASS; SAMPLE/PRELOAD captures the lands (R510). VU_CONF_CLEAR sets the twelve conflict counters to
0; a read of W0 of one, or of the slot-clash counter, answers its low word and keeps its high word for the reader's bank; the
waits since its last read, a free number, join a counter that is not frozen and whose master has made a request (log entry 3), and
nothing else changes (R37, R169, R173). The model's own choices here are those of log entries 62, 63 and 66. -/
def Obligations.CountersLocksRegistersAndJtag : Prop :=
  (∀ (n : Cl) (k : Fin 8) (rd : EvcReader) (g : Fin 16) (m : Master) (tg : Fin 16) (lk : Lock) (a : BitVec 40) (o : Nat) (v : Word)
     (s : State), dark s = false →
     let evc (i off : Nat) (j : Instr) : Prop := ∃ t, exec j s = .next t ∧ t.resp = [ioGet off (t.cl n)] ∧
       snapGet (2 ^ 24 + n.val * 2 ^ 13 + off) (evcReader rd) t = (ioGet (off + 1) (t.cl n)).setWidth 48 ∧
       (evcTimed i = false → ioPair off (t.cl n) = ioPair off (s.cl n)) ∧ t.mem = s.mem ∧ t.hub = s.hub
     (∃ t, exec (.seqEvcClear n) s = .next t ∧ (∀ i < 8, ioPair (0x1110 + 2 * i) (t.cl n) = 0) ∧ t.mem = s.mem ∧ t.hub = s.hub ∧
       ∀ r, r < 0x1110 ∨ 0x1120 ≤ r → ioGet r (t.cl n) = ioGet r (s.cl n)) ∧
     evc (ioFld (0x1108 + k.val) 5 0 (s.cl n)) (0x1110 + 2 * k.val) (.seqEvcW0Read n k rd) ∧
     evc 0 0x1101 (.seqEvcSnapfW0Read n rd) ∧
     (∃ t, exec .evfGcntClear s = .next t ∧ (∀ i < 16, hubPair (0x25001 + 8 * i) t = 0) ∧ t.mem = s.mem ∧ t.cls = s.cls) ∧
     (∃ t, exec (.evfGcntW0Read g m) s = .next t ∧ t.resp = [hubGet (0x25001 + 8 * g.val) s] ∧ t.hub = s.hub ∧
       snapGet (0x25001 + 8 * g.val) (masterNum m) t = (hubGet (0x25002 + 8 * g.val) s).setWidth 48) ∧
     (s.locks.find? (fun x => x.target == tg.val) = some lk → 1000 < (s.ticks - lk.since).toNat → ∃ t, exec (.lockTimeout tg) s = .next t ∧
       t.locks = s.locks.filter (fun x => x.target != tg.val) ∧ odCtr 0xC010 0 t = odCtr 0xC010 0 s + 1 ∧ t.mon.ok = false ∧
       t.mon.code = 4 ∧ t.mem = s.mem ∧ t.hub = s.hub) ∧
     (a.toNat = 0x4000000000 + o →
       (∀ rw w1c, (o, rw, w1c) ∈ plainHub → lockedFor .security a.toNat s = false → ∃ t, exec (.registerWrite .security a v) s = .next t ∧
         hubGet o t = written rw w1c (hubGet o s) v ∧ t.mem = s.mem ∧ t.cls = s.cls ∧ ∀ r, r ≠ o → hubGet r t = hubGet r s) ∧
       (o < 0x10000 → anyWrites (slotCaps n s) o v = false → exec (.registerWrite (.cluster n) a v) s = .next s))) ∧
  (∀ (others shifted : List Bool) (low : Bool) (s : State), mode s ≠ 0 →
     let acts (i : JtagInstr) (j : Jtag) : Prop := exec (.jtagInstruction i others shifted low) s = .next { s with jtag := j }
     let passes : Jtag := { s.jtag with instr := .bypass, out := 0 }
     let lands := (List.range 256).map (landLevel · s) ++ others
     acts .idcode { s.jtag with instr := .idcode, out := 0x1082409F } ∧
     acts .bypass passes ∧
     acts .samplePreload { s.jtag with instr := .samplePreload, lands := lands, latch := shifted } ∧
     (if low then acts .extest { s.jtag with instr := .extest, lands := lands, latch := shifted } ∧
        acts .clamp { s.jtag with instr := .clamp, out := 0 } ∧ acts .highz { s.jtag with instr := .highz, out := 0 }
      else acts .extest passes ∧ acts .clamp passes ∧ acts .highz passes)) ∧
  (∀ (n : Cl) (i : Fin 12) (s : State), clocked n s = true →
     (∃ d, exec (.vuConfClear n) s = .next (s.putCl n d) ∧ (∀ j, j < 12 → ioPair (0x1E0 + 2 * j) d = 0) ∧
       (∀ o, o < 0x1E0 ∨ 0x1F8 ≤ o → ioGet o d = ioGet o (s.cl n))) ∧
     (let off := 0x1E0 + 2 * i.val
      ∃ t, exec (.vuConfW0Read n i) s = .next t ∧ t.resp = [ioGet off (t.cl n)] ∧ t.hub = s.hub ∧ t.mem = s.mem ∧
        snapGet (ioSnapReg n off) (bankReader (s.cl n)) t = (ioGet (off + 1) (t.cl n)).setWidth 48 ∧
        (∀ o, o ≠ off → o ≠ off + 1 → ioGet o (t.cl n) = ioGet o (s.cl n)) ∧
        (ioBit 0x1F8 1 (s.cl n) = true ∨ i.val ∉ (s.cl n).conf → t.cls = s.cls)) ∧
     ∃ t, exec (.vuFslotClashW0Read n) s = .next t ∧ t.resp = [ioGet 0x1FA (t.cl n)] ∧ t.hub = s.hub ∧ t.mem = s.mem ∧
       snapGet (ioSnapReg n 0x1FA) (bankReader (s.cl n)) t = (ioGet 0x1FB (t.cl n)).setWidth 48 ∧
       (∀ o, o ≠ 0x1FA → o ≠ 0x1FB → ioGet o (t.cl n) = ioGet o (s.cl n)) ∧
       (s.tb.slots = false → t.cls = s.cls))
end

