-- ==== Sys2Proof/Laws/Maps.lean ====
section
/-!
SUPPORT. Laws/Maps.lean: a sparse map reads back what was put, leaves every other key alone, and stays in its
canonical form.
-/
namespace Sys2Proof.Machine

variable {α : Type} {d : Nat → α}

theorem smGet_smErase_self (m : SMap α) (k : Nat) : smGet d (smErase m k) k = d k := by
  induction m with
  | nil => rfl
  | cons p t ih =>
    obtain ⟨a, b⟩ := p
    by_cases h : a = k
    · subst h; simpa [smErase] using ih
    · simpa [smErase, smGet, h] using ih

theorem smGet_smErase_ne (m : SMap α) {j k : Nat} (h : j ≠ k) : smGet d (smErase m k) j = smGet d m j := by
  induction m with
  | nil => rfl
  | cons p t ih =>
    obtain ⟨a, b⟩ := p
    by_cases hk : a = k
    · subst hk; simp [smErase, smGet, Ne.symm h, ih]
    · simp only [smErase, hk, ↓reduceIte, smGet, ih]

theorem smGet_smInsert (m : SMap α) (k j : Nat) (v : α) (hk : ∀ p ∈ m, p.1 ≠ k) :
    smGet d (smInsert k v m) j = if k = j then v else smGet d m j := by
  induction m with
  | nil => simp [smInsert, smGet]
  | cons p t ih =>
    obtain ⟨a, b⟩ := p
    have ha : a ≠ k := hk (a, b) (by simp)
    have ih' := ih (fun q hq => hk q (by simp [hq]))
    by_cases hlt : k < a
    · simp [smInsert, hlt, smGet]
    · simp only [smInsert, hlt, ↓reduceIte, smGet, ih']
      by_cases haj : a = j
      · subst haj; simp [Ne.symm ha]
      · simp [haj]

theorem smErase_keys (m : SMap α) (k : Nat) : ∀ p ∈ smErase m k, p.1 ≠ k := by
  induction m with
  | nil => simp [smErase]
  | cons p t ih =>
    obtain ⟨a, b⟩ := p
    by_cases h : a = k
    · simpa [smErase, h] using ih
    · simpa [smErase, h] using ih

/-- Read after put, for every pair of keys. -/
theorem smGet_smSet [DecidableEq α] (m : SMap α) (k j : Nat) (v : α) :
    smGet d (smSet d m k v) j = if k = j then v else smGet d m j := by
  by_cases h : k = j
  · subst h
    by_cases hv : v = d k
    · simp [smSet, hv, smGet_smErase_self]
    · simp [smSet, hv, smGet_smInsert _ _ _ _ (smErase_keys m k)]
  · by_cases hv : v = d k
    · simp [smSet, hv, h, smGet_smErase_ne m (Ne.symm h)]
    · simp [smSet, hv, h, smGet_smInsert _ _ _ _ (smErase_keys m k), smGet_smErase_ne m (Ne.symm h)]

theorem smGet_smSet_self [DecidableEq α] (m : SMap α) (k : Nat) (v : α) : smGet d (smSet d m k v) k = v := by
  simp [smGet_smSet]

theorem smGet_smSet_ne [DecidableEq α] (m : SMap α) {k j : Nat} (v : α) (h : k ≠ j) :
    smGet d (smSet d m k v) j = smGet d m j := by simp [smGet_smSet, h]

/-- The canonical form as a chain and a condition on the entries. -/
theorem smWf_head_lt [DecidableEq α] (a : Nat) (b : α) (t : SMap α) (h : smWf d ((a, b) :: t) = true) :
    ∀ p ∈ t, a < p.1 := by
  induction t generalizing a b with
  | nil => simp
  | cons q t ih =>
    obtain ⟨c, e⟩ := q
    simp only [smWf, Bool.and_eq_true, decide_eq_true_eq] at h
    intro p hp
    rcases List.mem_cons.mp hp with rfl | hp
    · exact h.1.2
    · exact Nat.lt_trans h.1.2 (ih c e (by simp [smWf, h.2]) p hp)

theorem smWf_cons_of [DecidableEq α] (a : Nat) (b : α) (t : SMap α) (hb : b ≠ d a) (hlt : ∀ p ∈ t, a < p.1) (ht : smWf d t = true) :
    smWf d ((a, b) :: t) = true := by
  cases t with
  | nil => simp [smWf, hb]
  | cons q t =>
    obtain ⟨c, e⟩ := q
    have := hlt (c, e) (by simp)
    simp only [smWf, Bool.and_eq_true, decide_eq_true_eq] at ht ⊢
    exact ⟨⟨hb, this⟩, ht⟩

theorem smWf_tail [DecidableEq α] {a : Nat} {b : α} {t : SMap α} (h : smWf d ((a, b) :: t) = true) : smWf d t = true := by
  simp only [smWf, Bool.and_eq_true] at h; exact h.2

theorem smWf_head [DecidableEq α] {a : Nat} {b : α} {t : SMap α} (h : smWf d ((a, b) :: t) = true) : b ≠ d a := by
  simp only [smWf, Bool.and_eq_true, decide_eq_true_eq] at h; exact h.1.1

/-- A part of a canonical map in its order is canonical. -/
theorem smWf_filter [DecidableEq α] (m : SMap α) (q : Nat × α → Bool) (h : smWf d m = true) : smWf d (m.filter q) = true := by
  induction m with
  | nil => rfl
  | cons p t ih =>
    obtain ⟨a, b⟩ := p
    have it := ih (smWf_tail h)
    by_cases hq : q (a, b) = true
    · rw [List.filter_cons_of_pos hq]
      exact smWf_cons_of a b _ (smWf_head h)
        (fun p hp => smWf_head_lt a b t h p (List.mem_filter.mp hp).1) it
    · rw [List.filter_cons_of_neg hq]; exact it

theorem smErase_eq_filter (m : SMap α) (k : Nat) : smErase m k = m.filter (fun p => !decide (p.1 = k)) := by
  induction m with
  | nil => rfl
  | cons p t ih =>
    obtain ⟨a, b⟩ := p
    by_cases h : a = k <;> simp [smErase, h, ih]

theorem smWf_smErase [DecidableEq α] (m : SMap α) (k : Nat) (h : smWf d m = true) : smWf d (smErase m k) = true := by
  rw [smErase_eq_filter]; exact smWf_filter m _ h

theorem smInsert_mem (m : SMap α) (k : Nat) (v : α) : ∀ p ∈ smInsert k v m, p = (k, v) ∨ p ∈ m := by
  induction m with
  | nil => simp [smInsert]
  | cons p t ih =>
    obtain ⟨a, b⟩ := p
    intro q hq
    by_cases h : k < a
    · simp only [smInsert, h, ↓reduceIte, List.mem_cons] at hq
      simpa using hq
    · simp only [smInsert, h, ↓reduceIte, List.mem_cons] at hq
      rcases hq with rfl | hq
      · simp
      · rcases ih q hq with h1 | h1 <;> simp [h1]

theorem smWf_smInsert [DecidableEq α] (m : SMap α) (k : Nat) (v : α) (hv : v ≠ d k) (hk : ∀ p ∈ m, p.1 ≠ k) (h : smWf d m = true) :
    smWf d (smInsert k v m) = true := by
  induction m with
  | nil => simp [smInsert, smWf, hv]
  | cons p t ih =>
    obtain ⟨a, b⟩ := p
    have ha : a ≠ k := hk (a, b) (by simp)
    by_cases hlt : k < a
    · simp only [smInsert, hlt, ↓reduceIte]
      refine smWf_cons_of k v _ hv (fun p hp => ?_) h
      rcases List.mem_cons.mp hp with rfl | hp
      · exact hlt
      · exact Nat.lt_trans hlt (smWf_head_lt a b t h p hp)
    · simp only [smInsert, hlt, ↓reduceIte]
      refine smWf_cons_of a b _ (smWf_head h) (fun p hp => ?_) (ih (fun q hq => hk q (by simp [hq])) (smWf_tail h))
      rcases smInsert_mem t k v p hp with rfl | hp
      · simp only; omega
      · exact smWf_head_lt a b t h p hp

/-- A put keeps the canonical form. -/
theorem smWf_smSet [DecidableEq α] (m : SMap α) (k : Nat) (v : α) (h : smWf d m = true) : smWf d (smSet d m k v) = true := by
  by_cases hv : v = d k
  · simpa [smSet, hv] using smWf_smErase m k h
  · simpa [smSet, hv] using smWf_smInsert _ k v hv (smErase_keys m k) (smWf_smErase m k h)

theorem smAt_smPut [DecidableEq α] (e : α) (m : SMap α) (k j : Nat) (v : α) :
    smAt e (smPut e m k v) j = if k = j then v else smAt e m j := smGet_smSet m k j v

end Sys2Proof.Machine
end

