-- ==== Sys2Proof/Laws/State.lean ====
section
/-!
SUPPORT. Laws/State.lean: what each named update of the state, and of a cluster, leaves in each field. The fields that
an update does not name are the same by rfl.
-/
namespace Sys2Proof.Machine

/-! ## putCl -/

@[simp] theorem putCl_pending (n : Cl) (c : Cluster) (s : State) : (s.putCl n c).pending = s.pending := rfl
@[simp] theorem putCl_resp (n : Cl) (c : Cluster) (s : State) : (s.putCl n c).resp = s.resp := rfl
@[simp] theorem putCl_fresh (n : Cl) (c : Cluster) (s : State) : (s.putCl n c).fresh = s.fresh := rfl
@[simp] theorem putCl_ns (n : Cl) (c : Cluster) (s : State) : (s.putCl n c).ns = s.ns := rfl
@[simp] theorem putCl_ticks (n : Cl) (c : Cluster) (s : State) : (s.putCl n c).ticks = s.ticks := rfl
@[simp] theorem putCl_hub (n : Cl) (c : Cluster) (s : State) : (s.putCl n c).hub = s.hub := rfl
@[simp] theorem putCl_mem (n : Cl) (c : Cluster) (s : State) : (s.putCl n c).mem = s.mem := rfl
@[simp] theorem putCl_snap (n : Cl) (c : Cluster) (s : State) : (s.putCl n c).snap = s.snap := rfl
@[simp] theorem putCl_tb (n : Cl) (c : Cluster) (s : State) : (s.putCl n c).tb = s.tb := rfl
@[simp] theorem putCl_links (n : Cl) (c : Cluster) (s : State) : (s.putCl n c).links = s.links := rfl
@[simp] theorem putCl_sysref (n : Cl) (c : Cluster) (s : State) : (s.putCl n c).sysref = s.sysref := rfl
@[simp] theorem putCl_sysrefAt (n : Cl) (c : Cluster) (s : State) : (s.putCl n c).sysrefAt = s.sysrefAt := rfl
@[simp] theorem putCl_tmc (n : Cl) (c : Cluster) (s : State) : (s.putCl n c).tmc = s.tmc := rfl
@[simp] theorem putCl_ev (n : Cl) (c : Cluster) (s : State) : (s.putCl n c).ev = s.ev := rfl
@[simp] theorem putCl_net (n : Cl) (c : Cluster) (s : State) : (s.putCl n c).net = s.net := rfl
@[simp] theorem putCl_cmac (n : Cl) (c : Cluster) (s : State) : (s.putCl n c).cmac = s.cmac := rfl
@[simp] theorem putCl_cxl (n : Cl) (c : Cluster) (s : State) : (s.putCl n c).cxl = s.cxl := rfl
@[simp] theorem putCl_od (n : Cl) (c : Cluster) (s : State) : (s.putCl n c).od = s.od := rfl
@[simp] theorem putCl_spm (n : Cl) (c : Cluster) (s : State) : (s.putCl n c).spm = s.spm := rfl
@[simp] theorem putCl_sec (n : Cl) (c : Cluster) (s : State) : (s.putCl n c).sec = s.sec := rfl
@[simp] theorem putCl_pwr (n : Cl) (c : Cluster) (s : State) : (s.putCl n c).pwr = s.pwr := rfl
@[simp] theorem putCl_mon (n : Cl) (c : Cluster) (s : State) : (s.putCl n c).mon = s.mon := rfl
@[simp] theorem putCl_locks (n : Cl) (c : Cluster) (s : State) : (s.putCl n c).locks = s.locks := rfl
@[simp] theorem putCl_jtag (n : Cl) (c : Cluster) (s : State) : (s.putCl n c).jtag = s.jtag := rfl
@[simp] theorem putCl_hbm (n : Cl) (c : Cluster) (s : State) : (s.putCl n c).hbm = s.hbm := rfl
@[simp] theorem putCl_movers (n : Cl) (c : Cluster) (s : State) : (s.putCl n c).movers = s.movers := rfl
@[simp] theorem putCl_syncOut (n : Cl) (c : Cluster) (s : State) : (s.putCl n c).syncOut = s.syncOut := rfl

/-! ## modCl -/

@[simp] theorem modCl_pending (n : Cl) (f : Cluster → Cluster) (s : State) : (s.modCl n f).pending = s.pending := rfl
@[simp] theorem modCl_resp (n : Cl) (f : Cluster → Cluster) (s : State) : (s.modCl n f).resp = s.resp := rfl
@[simp] theorem modCl_fresh (n : Cl) (f : Cluster → Cluster) (s : State) : (s.modCl n f).fresh = s.fresh := rfl
@[simp] theorem modCl_ns (n : Cl) (f : Cluster → Cluster) (s : State) : (s.modCl n f).ns = s.ns := rfl
@[simp] theorem modCl_ticks (n : Cl) (f : Cluster → Cluster) (s : State) : (s.modCl n f).ticks = s.ticks := rfl
@[simp] theorem modCl_hub (n : Cl) (f : Cluster → Cluster) (s : State) : (s.modCl n f).hub = s.hub := rfl
@[simp] theorem modCl_mem (n : Cl) (f : Cluster → Cluster) (s : State) : (s.modCl n f).mem = s.mem := rfl
@[simp] theorem modCl_snap (n : Cl) (f : Cluster → Cluster) (s : State) : (s.modCl n f).snap = s.snap := rfl
@[simp] theorem modCl_tb (n : Cl) (f : Cluster → Cluster) (s : State) : (s.modCl n f).tb = s.tb := rfl
@[simp] theorem modCl_links (n : Cl) (f : Cluster → Cluster) (s : State) : (s.modCl n f).links = s.links := rfl
@[simp] theorem modCl_sysref (n : Cl) (f : Cluster → Cluster) (s : State) : (s.modCl n f).sysref = s.sysref := rfl
@[simp] theorem modCl_sysrefAt (n : Cl) (f : Cluster → Cluster) (s : State) : (s.modCl n f).sysrefAt = s.sysrefAt := rfl
@[simp] theorem modCl_tmc (n : Cl) (f : Cluster → Cluster) (s : State) : (s.modCl n f).tmc = s.tmc := rfl
@[simp] theorem modCl_ev (n : Cl) (f : Cluster → Cluster) (s : State) : (s.modCl n f).ev = s.ev := rfl
@[simp] theorem modCl_net (n : Cl) (f : Cluster → Cluster) (s : State) : (s.modCl n f).net = s.net := rfl
@[simp] theorem modCl_cmac (n : Cl) (f : Cluster → Cluster) (s : State) : (s.modCl n f).cmac = s.cmac := rfl
@[simp] theorem modCl_cxl (n : Cl) (f : Cluster → Cluster) (s : State) : (s.modCl n f).cxl = s.cxl := rfl
@[simp] theorem modCl_od (n : Cl) (f : Cluster → Cluster) (s : State) : (s.modCl n f).od = s.od := rfl
@[simp] theorem modCl_spm (n : Cl) (f : Cluster → Cluster) (s : State) : (s.modCl n f).spm = s.spm := rfl
@[simp] theorem modCl_sec (n : Cl) (f : Cluster → Cluster) (s : State) : (s.modCl n f).sec = s.sec := rfl
@[simp] theorem modCl_pwr (n : Cl) (f : Cluster → Cluster) (s : State) : (s.modCl n f).pwr = s.pwr := rfl
@[simp] theorem modCl_mon (n : Cl) (f : Cluster → Cluster) (s : State) : (s.modCl n f).mon = s.mon := rfl
@[simp] theorem modCl_locks (n : Cl) (f : Cluster → Cluster) (s : State) : (s.modCl n f).locks = s.locks := rfl
@[simp] theorem modCl_jtag (n : Cl) (f : Cluster → Cluster) (s : State) : (s.modCl n f).jtag = s.jtag := rfl
@[simp] theorem modCl_hbm (n : Cl) (f : Cluster → Cluster) (s : State) : (s.modCl n f).hbm = s.hbm := rfl
@[simp] theorem modCl_movers (n : Cl) (f : Cluster → Cluster) (s : State) : (s.modCl n f).movers = s.movers := rfl
@[simp] theorem modCl_syncOut (n : Cl) (f : Cluster → Cluster) (s : State) : (s.modCl n f).syncOut = s.syncOut := rfl

/-! ## hubPut -/

@[simp] theorem hubPut_pending (o : Nat) (v : Word) (s : State) : (hubPut o v s).pending = s.pending := rfl
@[simp] theorem hubPut_resp (o : Nat) (v : Word) (s : State) : (hubPut o v s).resp = s.resp := rfl
@[simp] theorem hubPut_fresh (o : Nat) (v : Word) (s : State) : (hubPut o v s).fresh = s.fresh := rfl
@[simp] theorem hubPut_ns (o : Nat) (v : Word) (s : State) : (hubPut o v s).ns = s.ns := rfl
@[simp] theorem hubPut_ticks (o : Nat) (v : Word) (s : State) : (hubPut o v s).ticks = s.ticks := rfl
@[simp] theorem hubPut_mem (o : Nat) (v : Word) (s : State) : (hubPut o v s).mem = s.mem := rfl
@[simp] theorem hubPut_snap (o : Nat) (v : Word) (s : State) : (hubPut o v s).snap = s.snap := rfl
@[simp] theorem hubPut_cls (o : Nat) (v : Word) (s : State) : (hubPut o v s).cls = s.cls := rfl
@[simp] theorem hubPut_tb (o : Nat) (v : Word) (s : State) : (hubPut o v s).tb = s.tb := rfl
@[simp] theorem hubPut_links (o : Nat) (v : Word) (s : State) : (hubPut o v s).links = s.links := rfl
@[simp] theorem hubPut_sysref (o : Nat) (v : Word) (s : State) : (hubPut o v s).sysref = s.sysref := rfl
@[simp] theorem hubPut_sysrefAt (o : Nat) (v : Word) (s : State) : (hubPut o v s).sysrefAt = s.sysrefAt := rfl
@[simp] theorem hubPut_tmc (o : Nat) (v : Word) (s : State) : (hubPut o v s).tmc = s.tmc := rfl
@[simp] theorem hubPut_ev (o : Nat) (v : Word) (s : State) : (hubPut o v s).ev = s.ev := rfl
@[simp] theorem hubPut_net (o : Nat) (v : Word) (s : State) : (hubPut o v s).net = s.net := rfl
@[simp] theorem hubPut_cmac (o : Nat) (v : Word) (s : State) : (hubPut o v s).cmac = s.cmac := rfl
@[simp] theorem hubPut_cxl (o : Nat) (v : Word) (s : State) : (hubPut o v s).cxl = s.cxl := rfl
@[simp] theorem hubPut_od (o : Nat) (v : Word) (s : State) : (hubPut o v s).od = s.od := rfl
@[simp] theorem hubPut_spm (o : Nat) (v : Word) (s : State) : (hubPut o v s).spm = s.spm := rfl
@[simp] theorem hubPut_sec (o : Nat) (v : Word) (s : State) : (hubPut o v s).sec = s.sec := rfl
@[simp] theorem hubPut_pwr (o : Nat) (v : Word) (s : State) : (hubPut o v s).pwr = s.pwr := rfl
@[simp] theorem hubPut_mon (o : Nat) (v : Word) (s : State) : (hubPut o v s).mon = s.mon := rfl
@[simp] theorem hubPut_locks (o : Nat) (v : Word) (s : State) : (hubPut o v s).locks = s.locks := rfl
@[simp] theorem hubPut_jtag (o : Nat) (v : Word) (s : State) : (hubPut o v s).jtag = s.jtag := rfl
@[simp] theorem hubPut_hbm (o : Nat) (v : Word) (s : State) : (hubPut o v s).hbm = s.hbm := rfl
@[simp] theorem hubPut_movers (o : Nat) (v : Word) (s : State) : (hubPut o v s).movers = s.movers := rfl
@[simp] theorem hubPut_syncOut (o : Nat) (v : Word) (s : State) : (hubPut o v s).syncOut = s.syncOut := rfl

/-! ## hubSetBit -/

@[simp] theorem hubSetBit_pending (o i : Nat) (b : Bool) (s : State) : (hubSetBit o i b s).pending = s.pending := rfl
@[simp] theorem hubSetBit_resp (o i : Nat) (b : Bool) (s : State) : (hubSetBit o i b s).resp = s.resp := rfl
@[simp] theorem hubSetBit_fresh (o i : Nat) (b : Bool) (s : State) : (hubSetBit o i b s).fresh = s.fresh := rfl
@[simp] theorem hubSetBit_ns (o i : Nat) (b : Bool) (s : State) : (hubSetBit o i b s).ns = s.ns := rfl
@[simp] theorem hubSetBit_ticks (o i : Nat) (b : Bool) (s : State) : (hubSetBit o i b s).ticks = s.ticks := rfl
@[simp] theorem hubSetBit_mem (o i : Nat) (b : Bool) (s : State) : (hubSetBit o i b s).mem = s.mem := rfl
@[simp] theorem hubSetBit_snap (o i : Nat) (b : Bool) (s : State) : (hubSetBit o i b s).snap = s.snap := rfl
@[simp] theorem hubSetBit_cls (o i : Nat) (b : Bool) (s : State) : (hubSetBit o i b s).cls = s.cls := rfl
@[simp] theorem hubSetBit_tb (o i : Nat) (b : Bool) (s : State) : (hubSetBit o i b s).tb = s.tb := rfl
@[simp] theorem hubSetBit_links (o i : Nat) (b : Bool) (s : State) : (hubSetBit o i b s).links = s.links := rfl
@[simp] theorem hubSetBit_sysref (o i : Nat) (b : Bool) (s : State) : (hubSetBit o i b s).sysref = s.sysref := rfl
@[simp] theorem hubSetBit_sysrefAt (o i : Nat) (b : Bool) (s : State) : (hubSetBit o i b s).sysrefAt = s.sysrefAt := rfl
@[simp] theorem hubSetBit_tmc (o i : Nat) (b : Bool) (s : State) : (hubSetBit o i b s).tmc = s.tmc := rfl
@[simp] theorem hubSetBit_ev (o i : Nat) (b : Bool) (s : State) : (hubSetBit o i b s).ev = s.ev := rfl
@[simp] theorem hubSetBit_net (o i : Nat) (b : Bool) (s : State) : (hubSetBit o i b s).net = s.net := rfl
@[simp] theorem hubSetBit_cmac (o i : Nat) (b : Bool) (s : State) : (hubSetBit o i b s).cmac = s.cmac := rfl
@[simp] theorem hubSetBit_cxl (o i : Nat) (b : Bool) (s : State) : (hubSetBit o i b s).cxl = s.cxl := rfl
@[simp] theorem hubSetBit_od (o i : Nat) (b : Bool) (s : State) : (hubSetBit o i b s).od = s.od := rfl
@[simp] theorem hubSetBit_spm (o i : Nat) (b : Bool) (s : State) : (hubSetBit o i b s).spm = s.spm := rfl
@[simp] theorem hubSetBit_sec (o i : Nat) (b : Bool) (s : State) : (hubSetBit o i b s).sec = s.sec := rfl
@[simp] theorem hubSetBit_pwr (o i : Nat) (b : Bool) (s : State) : (hubSetBit o i b s).pwr = s.pwr := rfl
@[simp] theorem hubSetBit_mon (o i : Nat) (b : Bool) (s : State) : (hubSetBit o i b s).mon = s.mon := rfl
@[simp] theorem hubSetBit_locks (o i : Nat) (b : Bool) (s : State) : (hubSetBit o i b s).locks = s.locks := rfl
@[simp] theorem hubSetBit_jtag (o i : Nat) (b : Bool) (s : State) : (hubSetBit o i b s).jtag = s.jtag := rfl
@[simp] theorem hubSetBit_hbm (o i : Nat) (b : Bool) (s : State) : (hubSetBit o i b s).hbm = s.hbm := rfl
@[simp] theorem hubSetBit_movers (o i : Nat) (b : Bool) (s : State) : (hubSetBit o i b s).movers = s.movers := rfl
@[simp] theorem hubSetBit_syncOut (o i : Nat) (b : Bool) (s : State) : (hubSetBit o i b s).syncOut = s.syncOut := rfl

/-! ## hubSetFld -/

@[simp] theorem hubSetFld_pending (o hi lo v : Nat) (s : State) : (hubSetFld o hi lo v s).pending = s.pending := rfl
@[simp] theorem hubSetFld_resp (o hi lo v : Nat) (s : State) : (hubSetFld o hi lo v s).resp = s.resp := rfl
@[simp] theorem hubSetFld_fresh (o hi lo v : Nat) (s : State) : (hubSetFld o hi lo v s).fresh = s.fresh := rfl
@[simp] theorem hubSetFld_ns (o hi lo v : Nat) (s : State) : (hubSetFld o hi lo v s).ns = s.ns := rfl
@[simp] theorem hubSetFld_ticks (o hi lo v : Nat) (s : State) : (hubSetFld o hi lo v s).ticks = s.ticks := rfl
@[simp] theorem hubSetFld_mem (o hi lo v : Nat) (s : State) : (hubSetFld o hi lo v s).mem = s.mem := rfl
@[simp] theorem hubSetFld_snap (o hi lo v : Nat) (s : State) : (hubSetFld o hi lo v s).snap = s.snap := rfl
@[simp] theorem hubSetFld_cls (o hi lo v : Nat) (s : State) : (hubSetFld o hi lo v s).cls = s.cls := rfl
@[simp] theorem hubSetFld_tb (o hi lo v : Nat) (s : State) : (hubSetFld o hi lo v s).tb = s.tb := rfl
@[simp] theorem hubSetFld_links (o hi lo v : Nat) (s : State) : (hubSetFld o hi lo v s).links = s.links := rfl
@[simp] theorem hubSetFld_sysref (o hi lo v : Nat) (s : State) : (hubSetFld o hi lo v s).sysref = s.sysref := rfl
@[simp] theorem hubSetFld_sysrefAt (o hi lo v : Nat) (s : State) : (hubSetFld o hi lo v s).sysrefAt = s.sysrefAt := rfl
@[simp] theorem hubSetFld_tmc (o hi lo v : Nat) (s : State) : (hubSetFld o hi lo v s).tmc = s.tmc := rfl
@[simp] theorem hubSetFld_ev (o hi lo v : Nat) (s : State) : (hubSetFld o hi lo v s).ev = s.ev := rfl
@[simp] theorem hubSetFld_net (o hi lo v : Nat) (s : State) : (hubSetFld o hi lo v s).net = s.net := rfl
@[simp] theorem hubSetFld_cmac (o hi lo v : Nat) (s : State) : (hubSetFld o hi lo v s).cmac = s.cmac := rfl
@[simp] theorem hubSetFld_cxl (o hi lo v : Nat) (s : State) : (hubSetFld o hi lo v s).cxl = s.cxl := rfl
@[simp] theorem hubSetFld_od (o hi lo v : Nat) (s : State) : (hubSetFld o hi lo v s).od = s.od := rfl
@[simp] theorem hubSetFld_spm (o hi lo v : Nat) (s : State) : (hubSetFld o hi lo v s).spm = s.spm := rfl
@[simp] theorem hubSetFld_sec (o hi lo v : Nat) (s : State) : (hubSetFld o hi lo v s).sec = s.sec := rfl
@[simp] theorem hubSetFld_pwr (o hi lo v : Nat) (s : State) : (hubSetFld o hi lo v s).pwr = s.pwr := rfl
@[simp] theorem hubSetFld_mon (o hi lo v : Nat) (s : State) : (hubSetFld o hi lo v s).mon = s.mon := rfl
@[simp] theorem hubSetFld_locks (o hi lo v : Nat) (s : State) : (hubSetFld o hi lo v s).locks = s.locks := rfl
@[simp] theorem hubSetFld_jtag (o hi lo v : Nat) (s : State) : (hubSetFld o hi lo v s).jtag = s.jtag := rfl
@[simp] theorem hubSetFld_hbm (o hi lo v : Nat) (s : State) : (hubSetFld o hi lo v s).hbm = s.hbm := rfl
@[simp] theorem hubSetFld_movers (o hi lo v : Nat) (s : State) : (hubSetFld o hi lo v s).movers = s.movers := rfl
@[simp] theorem hubSetFld_syncOut (o hi lo v : Nat) (s : State) : (hubSetFld o hi lo v s).syncOut = s.syncOut := rfl

/-! ## hubPutPair -/

@[simp] theorem hubPutPair_pending (o : Nat) (v : DWord) (s : State) : (hubPutPair o v s).pending = s.pending := rfl
@[simp] theorem hubPutPair_resp (o : Nat) (v : DWord) (s : State) : (hubPutPair o v s).resp = s.resp := rfl
@[simp] theorem hubPutPair_fresh (o : Nat) (v : DWord) (s : State) : (hubPutPair o v s).fresh = s.fresh := rfl
@[simp] theorem hubPutPair_ns (o : Nat) (v : DWord) (s : State) : (hubPutPair o v s).ns = s.ns := rfl
@[simp] theorem hubPutPair_ticks (o : Nat) (v : DWord) (s : State) : (hubPutPair o v s).ticks = s.ticks := rfl
@[simp] theorem hubPutPair_mem (o : Nat) (v : DWord) (s : State) : (hubPutPair o v s).mem = s.mem := rfl
@[simp] theorem hubPutPair_snap (o : Nat) (v : DWord) (s : State) : (hubPutPair o v s).snap = s.snap := rfl
@[simp] theorem hubPutPair_cls (o : Nat) (v : DWord) (s : State) : (hubPutPair o v s).cls = s.cls := rfl
@[simp] theorem hubPutPair_tb (o : Nat) (v : DWord) (s : State) : (hubPutPair o v s).tb = s.tb := rfl
@[simp] theorem hubPutPair_links (o : Nat) (v : DWord) (s : State) : (hubPutPair o v s).links = s.links := rfl
@[simp] theorem hubPutPair_sysref (o : Nat) (v : DWord) (s : State) : (hubPutPair o v s).sysref = s.sysref := rfl
@[simp] theorem hubPutPair_sysrefAt (o : Nat) (v : DWord) (s : State) : (hubPutPair o v s).sysrefAt = s.sysrefAt := rfl
@[simp] theorem hubPutPair_tmc (o : Nat) (v : DWord) (s : State) : (hubPutPair o v s).tmc = s.tmc := rfl
@[simp] theorem hubPutPair_ev (o : Nat) (v : DWord) (s : State) : (hubPutPair o v s).ev = s.ev := rfl
@[simp] theorem hubPutPair_net (o : Nat) (v : DWord) (s : State) : (hubPutPair o v s).net = s.net := rfl
@[simp] theorem hubPutPair_cmac (o : Nat) (v : DWord) (s : State) : (hubPutPair o v s).cmac = s.cmac := rfl
@[simp] theorem hubPutPair_cxl (o : Nat) (v : DWord) (s : State) : (hubPutPair o v s).cxl = s.cxl := rfl
@[simp] theorem hubPutPair_od (o : Nat) (v : DWord) (s : State) : (hubPutPair o v s).od = s.od := rfl
@[simp] theorem hubPutPair_spm (o : Nat) (v : DWord) (s : State) : (hubPutPair o v s).spm = s.spm := rfl
@[simp] theorem hubPutPair_sec (o : Nat) (v : DWord) (s : State) : (hubPutPair o v s).sec = s.sec := rfl
@[simp] theorem hubPutPair_pwr (o : Nat) (v : DWord) (s : State) : (hubPutPair o v s).pwr = s.pwr := rfl
@[simp] theorem hubPutPair_mon (o : Nat) (v : DWord) (s : State) : (hubPutPair o v s).mon = s.mon := rfl
@[simp] theorem hubPutPair_locks (o : Nat) (v : DWord) (s : State) : (hubPutPair o v s).locks = s.locks := rfl
@[simp] theorem hubPutPair_jtag (o : Nat) (v : DWord) (s : State) : (hubPutPair o v s).jtag = s.jtag := rfl
@[simp] theorem hubPutPair_hbm (o : Nat) (v : DWord) (s : State) : (hubPutPair o v s).hbm = s.hbm := rfl
@[simp] theorem hubPutPair_movers (o : Nat) (v : DWord) (s : State) : (hubPutPair o v s).movers = s.movers := rfl
@[simp] theorem hubPutPair_syncOut (o : Nat) (v : DWord) (s : State) : (hubPutPair o v s).syncOut = s.syncOut := rfl

/-! ## respond -/

@[simp] theorem respond_pending (ws : List Word) (s : State) : (respond ws s).pending = s.pending := rfl
@[simp] theorem respond_fresh (ws : List Word) (s : State) : (respond ws s).fresh = s.fresh := rfl
@[simp] theorem respond_ns (ws : List Word) (s : State) : (respond ws s).ns = s.ns := rfl
@[simp] theorem respond_ticks (ws : List Word) (s : State) : (respond ws s).ticks = s.ticks := rfl
@[simp] theorem respond_hub (ws : List Word) (s : State) : (respond ws s).hub = s.hub := rfl
@[simp] theorem respond_mem (ws : List Word) (s : State) : (respond ws s).mem = s.mem := rfl
@[simp] theorem respond_snap (ws : List Word) (s : State) : (respond ws s).snap = s.snap := rfl
@[simp] theorem respond_cls (ws : List Word) (s : State) : (respond ws s).cls = s.cls := rfl
@[simp] theorem respond_tb (ws : List Word) (s : State) : (respond ws s).tb = s.tb := rfl
@[simp] theorem respond_links (ws : List Word) (s : State) : (respond ws s).links = s.links := rfl
@[simp] theorem respond_sysref (ws : List Word) (s : State) : (respond ws s).sysref = s.sysref := rfl
@[simp] theorem respond_sysrefAt (ws : List Word) (s : State) : (respond ws s).sysrefAt = s.sysrefAt := rfl
@[simp] theorem respond_tmc (ws : List Word) (s : State) : (respond ws s).tmc = s.tmc := rfl
@[simp] theorem respond_ev (ws : List Word) (s : State) : (respond ws s).ev = s.ev := rfl
@[simp] theorem respond_net (ws : List Word) (s : State) : (respond ws s).net = s.net := rfl
@[simp] theorem respond_cmac (ws : List Word) (s : State) : (respond ws s).cmac = s.cmac := rfl
@[simp] theorem respond_cxl (ws : List Word) (s : State) : (respond ws s).cxl = s.cxl := rfl
@[simp] theorem respond_od (ws : List Word) (s : State) : (respond ws s).od = s.od := rfl
@[simp] theorem respond_spm (ws : List Word) (s : State) : (respond ws s).spm = s.spm := rfl
@[simp] theorem respond_sec (ws : List Word) (s : State) : (respond ws s).sec = s.sec := rfl
@[simp] theorem respond_pwr (ws : List Word) (s : State) : (respond ws s).pwr = s.pwr := rfl
@[simp] theorem respond_mon (ws : List Word) (s : State) : (respond ws s).mon = s.mon := rfl
@[simp] theorem respond_locks (ws : List Word) (s : State) : (respond ws s).locks = s.locks := rfl
@[simp] theorem respond_jtag (ws : List Word) (s : State) : (respond ws s).jtag = s.jtag := rfl
@[simp] theorem respond_hbm (ws : List Word) (s : State) : (respond ws s).hbm = s.hbm := rfl
@[simp] theorem respond_movers (ws : List Word) (s : State) : (respond ws s).movers = s.movers := rfl
@[simp] theorem respond_syncOut (ws : List Word) (s : State) : (respond ws s).syncOut = s.syncOut := rfl

/-! ## drawn -/

@[simp] theorem drawn_pending (s : State) : (drawn s).pending = s.pending := rfl
@[simp] theorem drawn_resp (s : State) : (drawn s).resp = s.resp := rfl
@[simp] theorem drawn_ns (s : State) : (drawn s).ns = s.ns := rfl
@[simp] theorem drawn_ticks (s : State) : (drawn s).ticks = s.ticks := rfl
@[simp] theorem drawn_hub (s : State) : (drawn s).hub = s.hub := rfl
@[simp] theorem drawn_mem (s : State) : (drawn s).mem = s.mem := rfl
@[simp] theorem drawn_snap (s : State) : (drawn s).snap = s.snap := rfl
@[simp] theorem drawn_cls (s : State) : (drawn s).cls = s.cls := rfl
@[simp] theorem drawn_tb (s : State) : (drawn s).tb = s.tb := rfl
@[simp] theorem drawn_links (s : State) : (drawn s).links = s.links := rfl
@[simp] theorem drawn_sysref (s : State) : (drawn s).sysref = s.sysref := rfl
@[simp] theorem drawn_sysrefAt (s : State) : (drawn s).sysrefAt = s.sysrefAt := rfl
@[simp] theorem drawn_tmc (s : State) : (drawn s).tmc = s.tmc := rfl
@[simp] theorem drawn_ev (s : State) : (drawn s).ev = s.ev := rfl
@[simp] theorem drawn_net (s : State) : (drawn s).net = s.net := rfl
@[simp] theorem drawn_cmac (s : State) : (drawn s).cmac = s.cmac := rfl
@[simp] theorem drawn_cxl (s : State) : (drawn s).cxl = s.cxl := rfl
@[simp] theorem drawn_od (s : State) : (drawn s).od = s.od := rfl
@[simp] theorem drawn_spm (s : State) : (drawn s).spm = s.spm := rfl
@[simp] theorem drawn_sec (s : State) : (drawn s).sec = s.sec := rfl
@[simp] theorem drawn_pwr (s : State) : (drawn s).pwr = s.pwr := rfl
@[simp] theorem drawn_mon (s : State) : (drawn s).mon = s.mon := rfl
@[simp] theorem drawn_locks (s : State) : (drawn s).locks = s.locks := rfl
@[simp] theorem drawn_jtag (s : State) : (drawn s).jtag = s.jtag := rfl
@[simp] theorem drawn_hbm (s : State) : (drawn s).hbm = s.hbm := rfl
@[simp] theorem drawn_movers (s : State) : (drawn s).movers = s.movers := rfl
@[simp] theorem drawn_syncOut (s : State) : (drawn s).syncOut = s.syncOut := rfl

/-! ## snapPut -/

@[simp] theorem snapPut_pending (r k : Nat) (v : DWord) (s : State) : (snapPut r k v s).pending = s.pending := rfl
@[simp] theorem snapPut_resp (r k : Nat) (v : DWord) (s : State) : (snapPut r k v s).resp = s.resp := rfl
@[simp] theorem snapPut_fresh (r k : Nat) (v : DWord) (s : State) : (snapPut r k v s).fresh = s.fresh := rfl
@[simp] theorem snapPut_ns (r k : Nat) (v : DWord) (s : State) : (snapPut r k v s).ns = s.ns := rfl
@[simp] theorem snapPut_ticks (r k : Nat) (v : DWord) (s : State) : (snapPut r k v s).ticks = s.ticks := rfl
@[simp] theorem snapPut_hub (r k : Nat) (v : DWord) (s : State) : (snapPut r k v s).hub = s.hub := rfl
@[simp] theorem snapPut_mem (r k : Nat) (v : DWord) (s : State) : (snapPut r k v s).mem = s.mem := rfl
@[simp] theorem snapPut_cls (r k : Nat) (v : DWord) (s : State) : (snapPut r k v s).cls = s.cls := rfl
@[simp] theorem snapPut_tb (r k : Nat) (v : DWord) (s : State) : (snapPut r k v s).tb = s.tb := rfl
@[simp] theorem snapPut_links (r k : Nat) (v : DWord) (s : State) : (snapPut r k v s).links = s.links := rfl
@[simp] theorem snapPut_sysref (r k : Nat) (v : DWord) (s : State) : (snapPut r k v s).sysref = s.sysref := rfl
@[simp] theorem snapPut_sysrefAt (r k : Nat) (v : DWord) (s : State) : (snapPut r k v s).sysrefAt = s.sysrefAt := rfl
@[simp] theorem snapPut_tmc (r k : Nat) (v : DWord) (s : State) : (snapPut r k v s).tmc = s.tmc := rfl
@[simp] theorem snapPut_ev (r k : Nat) (v : DWord) (s : State) : (snapPut r k v s).ev = s.ev := rfl
@[simp] theorem snapPut_net (r k : Nat) (v : DWord) (s : State) : (snapPut r k v s).net = s.net := rfl
@[simp] theorem snapPut_cmac (r k : Nat) (v : DWord) (s : State) : (snapPut r k v s).cmac = s.cmac := rfl
@[simp] theorem snapPut_cxl (r k : Nat) (v : DWord) (s : State) : (snapPut r k v s).cxl = s.cxl := rfl
@[simp] theorem snapPut_od (r k : Nat) (v : DWord) (s : State) : (snapPut r k v s).od = s.od := rfl
@[simp] theorem snapPut_spm (r k : Nat) (v : DWord) (s : State) : (snapPut r k v s).spm = s.spm := rfl
@[simp] theorem snapPut_sec (r k : Nat) (v : DWord) (s : State) : (snapPut r k v s).sec = s.sec := rfl
@[simp] theorem snapPut_pwr (r k : Nat) (v : DWord) (s : State) : (snapPut r k v s).pwr = s.pwr := rfl
@[simp] theorem snapPut_mon (r k : Nat) (v : DWord) (s : State) : (snapPut r k v s).mon = s.mon := rfl
@[simp] theorem snapPut_locks (r k : Nat) (v : DWord) (s : State) : (snapPut r k v s).locks = s.locks := rfl
@[simp] theorem snapPut_jtag (r k : Nat) (v : DWord) (s : State) : (snapPut r k v s).jtag = s.jtag := rfl
@[simp] theorem snapPut_hbm (r k : Nat) (v : DWord) (s : State) : (snapPut r k v s).hbm = s.hbm := rfl
@[simp] theorem snapPut_movers (r k : Nat) (v : DWord) (s : State) : (snapPut r k v s).movers = s.movers := rfl
@[simp] theorem snapPut_syncOut (r k : Nat) (v : DWord) (s : State) : (snapPut r k v s).syncOut = s.syncOut := rfl

/-! ## memPut -/

@[simp] theorem memPut_pending (a : Nat) (v : Word) (s : State) : (memPut a v s).pending = s.pending := rfl
@[simp] theorem memPut_resp (a : Nat) (v : Word) (s : State) : (memPut a v s).resp = s.resp := rfl
@[simp] theorem memPut_fresh (a : Nat) (v : Word) (s : State) : (memPut a v s).fresh = s.fresh := rfl
@[simp] theorem memPut_ns (a : Nat) (v : Word) (s : State) : (memPut a v s).ns = s.ns := rfl
@[simp] theorem memPut_ticks (a : Nat) (v : Word) (s : State) : (memPut a v s).ticks = s.ticks := rfl
@[simp] theorem memPut_hub (a : Nat) (v : Word) (s : State) : (memPut a v s).hub = s.hub := rfl
@[simp] theorem memPut_snap (a : Nat) (v : Word) (s : State) : (memPut a v s).snap = s.snap := rfl
@[simp] theorem memPut_cls (a : Nat) (v : Word) (s : State) : (memPut a v s).cls = s.cls := rfl
@[simp] theorem memPut_tb (a : Nat) (v : Word) (s : State) : (memPut a v s).tb = s.tb := rfl
@[simp] theorem memPut_links (a : Nat) (v : Word) (s : State) : (memPut a v s).links = s.links := rfl
@[simp] theorem memPut_sysref (a : Nat) (v : Word) (s : State) : (memPut a v s).sysref = s.sysref := rfl
@[simp] theorem memPut_sysrefAt (a : Nat) (v : Word) (s : State) : (memPut a v s).sysrefAt = s.sysrefAt := rfl
@[simp] theorem memPut_tmc (a : Nat) (v : Word) (s : State) : (memPut a v s).tmc = s.tmc := rfl
@[simp] theorem memPut_ev (a : Nat) (v : Word) (s : State) : (memPut a v s).ev = s.ev := rfl
@[simp] theorem memPut_net (a : Nat) (v : Word) (s : State) : (memPut a v s).net = s.net := rfl
@[simp] theorem memPut_cmac (a : Nat) (v : Word) (s : State) : (memPut a v s).cmac = s.cmac := rfl
@[simp] theorem memPut_cxl (a : Nat) (v : Word) (s : State) : (memPut a v s).cxl = s.cxl := rfl
@[simp] theorem memPut_od (a : Nat) (v : Word) (s : State) : (memPut a v s).od = s.od := rfl
@[simp] theorem memPut_spm (a : Nat) (v : Word) (s : State) : (memPut a v s).spm = s.spm := rfl
@[simp] theorem memPut_sec (a : Nat) (v : Word) (s : State) : (memPut a v s).sec = s.sec := rfl
@[simp] theorem memPut_pwr (a : Nat) (v : Word) (s : State) : (memPut a v s).pwr = s.pwr := rfl
@[simp] theorem memPut_mon (a : Nat) (v : Word) (s : State) : (memPut a v s).mon = s.mon := rfl
@[simp] theorem memPut_locks (a : Nat) (v : Word) (s : State) : (memPut a v s).locks = s.locks := rfl
@[simp] theorem memPut_jtag (a : Nat) (v : Word) (s : State) : (memPut a v s).jtag = s.jtag := rfl
@[simp] theorem memPut_hbm (a : Nat) (v : Word) (s : State) : (memPut a v s).hbm = s.hbm := rfl
@[simp] theorem memPut_movers (a : Nat) (v : Word) (s : State) : (memPut a v s).movers = s.movers := rfl
@[simp] theorem memPut_syncOut (a : Nat) (v : Word) (s : State) : (memPut a v s).syncOut = s.syncOut := rfl

/-! ## hostPut -/

@[simp] theorem hostPut_pending (w : Nat) (v : Word) (s : State) : (hostPut w v s).pending = s.pending := rfl
@[simp] theorem hostPut_resp (w : Nat) (v : Word) (s : State) : (hostPut w v s).resp = s.resp := rfl
@[simp] theorem hostPut_fresh (w : Nat) (v : Word) (s : State) : (hostPut w v s).fresh = s.fresh := rfl
@[simp] theorem hostPut_ns (w : Nat) (v : Word) (s : State) : (hostPut w v s).ns = s.ns := rfl
@[simp] theorem hostPut_ticks (w : Nat) (v : Word) (s : State) : (hostPut w v s).ticks = s.ticks := rfl
@[simp] theorem hostPut_hub (w : Nat) (v : Word) (s : State) : (hostPut w v s).hub = s.hub := rfl
@[simp] theorem hostPut_mem (w : Nat) (v : Word) (s : State) : (hostPut w v s).mem = s.mem := rfl
@[simp] theorem hostPut_snap (w : Nat) (v : Word) (s : State) : (hostPut w v s).snap = s.snap := rfl
@[simp] theorem hostPut_cls (w : Nat) (v : Word) (s : State) : (hostPut w v s).cls = s.cls := rfl
@[simp] theorem hostPut_tb (w : Nat) (v : Word) (s : State) : (hostPut w v s).tb = s.tb := rfl
@[simp] theorem hostPut_links (w : Nat) (v : Word) (s : State) : (hostPut w v s).links = s.links := rfl
@[simp] theorem hostPut_sysref (w : Nat) (v : Word) (s : State) : (hostPut w v s).sysref = s.sysref := rfl
@[simp] theorem hostPut_sysrefAt (w : Nat) (v : Word) (s : State) : (hostPut w v s).sysrefAt = s.sysrefAt := rfl
@[simp] theorem hostPut_tmc (w : Nat) (v : Word) (s : State) : (hostPut w v s).tmc = s.tmc := rfl
@[simp] theorem hostPut_ev (w : Nat) (v : Word) (s : State) : (hostPut w v s).ev = s.ev := rfl
@[simp] theorem hostPut_net (w : Nat) (v : Word) (s : State) : (hostPut w v s).net = s.net := rfl
@[simp] theorem hostPut_cmac (w : Nat) (v : Word) (s : State) : (hostPut w v s).cmac = s.cmac := rfl
@[simp] theorem hostPut_od (w : Nat) (v : Word) (s : State) : (hostPut w v s).od = s.od := rfl
@[simp] theorem hostPut_spm (w : Nat) (v : Word) (s : State) : (hostPut w v s).spm = s.spm := rfl
@[simp] theorem hostPut_sec (w : Nat) (v : Word) (s : State) : (hostPut w v s).sec = s.sec := rfl
@[simp] theorem hostPut_pwr (w : Nat) (v : Word) (s : State) : (hostPut w v s).pwr = s.pwr := rfl
@[simp] theorem hostPut_mon (w : Nat) (v : Word) (s : State) : (hostPut w v s).mon = s.mon := rfl
@[simp] theorem hostPut_locks (w : Nat) (v : Word) (s : State) : (hostPut w v s).locks = s.locks := rfl
@[simp] theorem hostPut_jtag (w : Nat) (v : Word) (s : State) : (hostPut w v s).jtag = s.jtag := rfl
@[simp] theorem hostPut_hbm (w : Nat) (v : Word) (s : State) : (hostPut w v s).hbm = s.hbm := rfl
@[simp] theorem hostPut_movers (w : Nat) (v : Word) (s : State) : (hostPut w v s).movers = s.movers := rfl
@[simp] theorem hostPut_syncOut (w : Nat) (v : Word) (s : State) : (hostPut w v s).syncOut = s.syncOut := rfl

/-! ## odAdd -/

@[simp] theorem odAdd_pending (i u k : Nat) (s : State) : (odAdd i u k s).pending = s.pending := rfl
@[simp] theorem odAdd_resp (i u k : Nat) (s : State) : (odAdd i u k s).resp = s.resp := rfl
@[simp] theorem odAdd_fresh (i u k : Nat) (s : State) : (odAdd i u k s).fresh = s.fresh := rfl
@[simp] theorem odAdd_ns (i u k : Nat) (s : State) : (odAdd i u k s).ns = s.ns := rfl
@[simp] theorem odAdd_ticks (i u k : Nat) (s : State) : (odAdd i u k s).ticks = s.ticks := rfl
@[simp] theorem odAdd_hub (i u k : Nat) (s : State) : (odAdd i u k s).hub = s.hub := rfl
@[simp] theorem odAdd_mem (i u k : Nat) (s : State) : (odAdd i u k s).mem = s.mem := rfl
@[simp] theorem odAdd_snap (i u k : Nat) (s : State) : (odAdd i u k s).snap = s.snap := rfl
@[simp] theorem odAdd_cls (i u k : Nat) (s : State) : (odAdd i u k s).cls = s.cls := rfl
@[simp] theorem odAdd_tb (i u k : Nat) (s : State) : (odAdd i u k s).tb = s.tb := rfl
@[simp] theorem odAdd_links (i u k : Nat) (s : State) : (odAdd i u k s).links = s.links := rfl
@[simp] theorem odAdd_sysref (i u k : Nat) (s : State) : (odAdd i u k s).sysref = s.sysref := rfl
@[simp] theorem odAdd_sysrefAt (i u k : Nat) (s : State) : (odAdd i u k s).sysrefAt = s.sysrefAt := rfl
@[simp] theorem odAdd_tmc (i u k : Nat) (s : State) : (odAdd i u k s).tmc = s.tmc := rfl
@[simp] theorem odAdd_ev (i u k : Nat) (s : State) : (odAdd i u k s).ev = s.ev := rfl
@[simp] theorem odAdd_net (i u k : Nat) (s : State) : (odAdd i u k s).net = s.net := rfl
@[simp] theorem odAdd_cmac (i u k : Nat) (s : State) : (odAdd i u k s).cmac = s.cmac := rfl
@[simp] theorem odAdd_cxl (i u k : Nat) (s : State) : (odAdd i u k s).cxl = s.cxl := rfl
@[simp] theorem odAdd_spm (i u k : Nat) (s : State) : (odAdd i u k s).spm = s.spm := rfl
@[simp] theorem odAdd_sec (i u k : Nat) (s : State) : (odAdd i u k s).sec = s.sec := rfl
@[simp] theorem odAdd_pwr (i u k : Nat) (s : State) : (odAdd i u k s).pwr = s.pwr := rfl
@[simp] theorem odAdd_mon (i u k : Nat) (s : State) : (odAdd i u k s).mon = s.mon := rfl
@[simp] theorem odAdd_locks (i u k : Nat) (s : State) : (odAdd i u k s).locks = s.locks := rfl
@[simp] theorem odAdd_jtag (i u k : Nat) (s : State) : (odAdd i u k s).jtag = s.jtag := rfl
@[simp] theorem odAdd_hbm (i u k : Nat) (s : State) : (odAdd i u k s).hbm = s.hbm := rfl
@[simp] theorem odAdd_movers (i u k : Nat) (s : State) : (odAdd i u k s).movers = s.movers := rfl
@[simp] theorem odAdd_syncOut (i u k : Nat) (s : State) : (odAdd i u k s).syncOut = s.syncOut := rfl

/-! ## ioPut -/

@[simp] theorem ioPut_win (o : Nat) (v : Word) (c : Cluster) : (ioPut o v c).win = c.win := rfl
@[simp] theorem ioPut_com (o : Nat) (v : Word) (c : Cluster) : (ioPut o v c).com = c.com := rfl
@[simp] theorem ioPut_fastBank (o : Nat) (v : Word) (c : Cluster) : (ioPut o v c).fastBank = c.fastBank := rfl
@[simp] theorem ioPut_fregs (o : Nat) (v : Word) (c : Cluster) : (ioPut o v c).fregs = c.fregs := rfl
@[simp] theorem ioPut_dregs (o : Nat) (v : Word) (c : Cluster) : (ioPut o v c).dregs = c.dregs := rfl
@[simp] theorem ioPut_cregs (o : Nat) (v : Word) (c : Cluster) : (ioPut o v c).cregs = c.cregs := rfl
@[simp] theorem ioPut_special (o : Nat) (v : Word) (c : Cluster) : (ioPut o v c).special = c.special := rfl
@[simp] theorem ioPut_masks (o : Nat) (v : Word) (c : Cluster) : (ioPut o v c).masks = c.masks := rfl
@[simp] theorem ioPut_pc (o : Nat) (v : Word) (c : Cluster) : (ioPut o v c).pc = c.pc := rfl
@[simp] theorem ioPut_cyc (o : Nat) (v : Word) (c : Cluster) : (ioPut o v c).cyc = c.cyc := rfl
@[simp] theorem ioPut_due (o : Nat) (v : Word) (c : Cluster) : (ioPut o v c).due = c.due := rfl
@[simp] theorem ioPut_slotA (o : Nat) (v : Word) (c : Cluster) : (ioPut o v c).slotA = c.slotA := rfl
@[simp] theorem ioPut_skipNext (o : Nat) (v : Word) (c : Cluster) : (ioPut o v c).skipNext = c.skipNext := rfl
@[simp] theorem ioPut_skipSlotA (o : Nat) (v : Word) (c : Cluster) : (ioPut o v c).skipSlotA = c.skipSlotA := rfl
@[simp] theorem ioPut_sbuf (o : Nat) (v : Word) (c : Cluster) : (ioPut o v c).sbuf = c.sbuf := rfl
@[simp] theorem ioPut_lateFault (o : Nat) (v : Word) (c : Cluster) : (ioPut o v c).lateFault = c.lateFault := rfl
@[simp] theorem ioPut_loopLag (o : Nat) (v : Word) (c : Cluster) : (ioPut o v c).loopLag = c.loopLag := rfl
@[simp] theorem ioPut_rstack (o : Nat) (v : Word) (c : Cluster) : (ioPut o v c).rstack = c.rstack := rfl
@[simp] theorem ioPut_flushAt (o : Nat) (v : Word) (c : Cluster) : (ioPut o v c).flushAt = c.flushAt := rfl
@[simp] theorem ioPut_waiting (o : Nat) (v : Word) (c : Cluster) : (ioPut o v c).waiting = c.waiting := rfl
@[simp] theorem ioPut_vsync (o : Nat) (v : Word) (c : Cluster) : (ioPut o v c).vsync = c.vsync := rfl
@[simp] theorem ioPut_halted (o : Nat) (v : Word) (c : Cluster) : (ioPut o v c).halted = c.halted := rfl
@[simp] theorem ioPut_stepping (o : Nat) (v : Word) (c : Cluster) : (ioPut o v c).stepping = c.stepping := rfl
@[simp] theorem ioPut_haltDue (o : Nat) (v : Word) (c : Cluster) : (ioPut o v c).haltDue = c.haltDue := rfl
@[simp] theorem ioPut_stallAt (o : Nat) (v : Word) (c : Cluster) : (ioPut o v c).stallAt = c.stallAt := rfl
@[simp] theorem ioPut_ieAt (o : Nat) (v : Word) (c : Cluster) : (ioPut o v c).ieAt = c.ieAt := rfl
@[simp] theorem ioPut_mcheck (o : Nat) (v : Word) (c : Cluster) : (ioPut o v c).mcheck = c.mcheck := rfl
@[simp] theorem ioPut_mcVec (o : Nat) (v : Word) (c : Cluster) : (ioPut o v c).mcVec = c.mcVec := rfl
@[simp] theorem ioPut_vexc (o : Nat) (v : Word) (c : Cluster) : (ioPut o v c).vexc = c.vexc := rfl
@[simp] theorem ioPut_tdepth (o : Nat) (v : Word) (c : Cluster) : (ioPut o v c).tdepth = c.tdepth := rfl
@[simp] theorem ioPut_vhand (o : Nat) (v : Word) (c : Cluster) : (ioPut o v c).vhand = c.vhand := rfl
@[simp] theorem ioPut_excSets (o : Nat) (v : Word) (c : Cluster) : (ioPut o v c).excSets = c.excSets := rfl
@[simp] theorem ioPut_ieSeen (o : Nat) (v : Word) (c : Cluster) : (ioPut o v c).ieSeen = c.ieSeen := rfl
@[simp] theorem ioPut_localNs (o : Nat) (v : Word) (c : Cluster) : (ioPut o v c).localNs = c.localNs := rfl
@[simp] theorem ioPut_forming (o : Nat) (v : Word) (c : Cluster) : (ioPut o v c).forming = c.forming := rfl
@[simp] theorem ioPut_groups (o : Nat) (v : Word) (c : Cluster) : (ioPut o v c).groups = c.groups := rfl
@[simp] theorem ioPut_nextGid (o : Nat) (v : Word) (c : Cluster) : (ioPut o v c).nextGid = c.nextGid := rfl
@[simp] theorem ioPut_ostore (o : Nat) (v : Word) (c : Cluster) : (ioPut o v c).ostore = c.ostore := rfl
@[simp] theorem ioPut_sets (o : Nat) (v : Word) (c : Cluster) : (ioPut o v c).sets = c.sets := rfl
@[simp] theorem ioPut_aux (o : Nat) (v : Word) (c : Cluster) : (ioPut o v c).aux = c.aux := rfl
@[simp] theorem ioPut_conf (o : Nat) (v : Word) (c : Cluster) : (ioPut o v c).conf = c.conf := rfl
@[simp] theorem ioPut_clashTo (o : Nat) (v : Word) (c : Cluster) : (ioPut o v c).clashTo = c.clashTo := rfl
@[simp] theorem ioPut_heldExc (o : Nat) (v : Word) (c : Cluster) : (ioPut o v c).heldExc = c.heldExc := rfl
@[simp] theorem ioPut_fslot (o : Nat) (v : Word) (c : Cluster) : (ioPut o v c).fslot = c.fslot := rfl
@[simp] theorem ioPut_plotWait (o : Nat) (v : Word) (c : Cluster) : (ioPut o v c).plotWait = c.plotWait := rfl
@[simp] theorem ioPut_portA (o : Nat) (v : Word) (c : Cluster) : (ioPut o v c).portA = c.portA := rfl
@[simp] theorem ioPut_xlast (o : Nat) (v : Word) (c : Cluster) : (ioPut o v c).xlast = c.xlast := rfl
@[simp] theorem ioPut_fillBy (o : Nat) (v : Word) (c : Cluster) : (ioPut o v c).fillBy = c.fillBy := rfl
@[simp] theorem ioPut_bad (o : Nat) (v : Word) (c : Cluster) : (ioPut o v c).bad = c.bad := rfl
@[simp] theorem ioPut_xbad (o : Nat) (v : Word) (c : Cluster) : (ioPut o v c).xbad = c.xbad := rfl
@[simp] theorem ioPut_xspares (o : Nat) (v : Word) (c : Cluster) : (ioPut o v c).xspares = c.xspares := rfl
@[simp] theorem ioPut_ibad (o : Nat) (v : Word) (c : Cluster) : (ioPut o v c).ibad = c.ibad := rfl
@[simp] theorem ioPut_copies (o : Nat) (v : Word) (c : Cluster) : (ioPut o v c).copies = c.copies := rfl
@[simp] theorem ioPut_corrected (o : Nat) (v : Word) (c : Cluster) : (ioPut o v c).corrected = c.corrected := rfl
@[simp] theorem ioPut_ueSeen (o : Nat) (v : Word) (c : Cluster) : (ioPut o v c).ueSeen = c.ueSeen := rfl
@[simp] theorem ioPut_patchA (o : Nat) (v : Word) (c : Cluster) : (ioPut o v c).patchA = c.patchA := rfl
@[simp] theorem ioPut_patchB (o : Nat) (v : Word) (c : Cluster) : (ioPut o v c).patchB = c.patchB := rfl
@[simp] theorem ioPut_ucSwitch (o : Nat) (v : Word) (c : Cluster) : (ioPut o v c).ucSwitch = c.ucSwitch := rfl
@[simp] theorem ioPut_uerr (o : Nat) (v : Word) (c : Cluster) : (ioPut o v c).uerr = c.uerr := rfl
@[simp] theorem ioPut_ubad (o : Nat) (v : Word) (c : Cluster) : (ioPut o v c).ubad = c.ubad := rfl
@[simp] theorem ioPut_pq (o : Nat) (v : Word) (c : Cluster) : (ioPut o v c).pq = c.pq := rfl
@[simp] theorem ioPut_pqCap (o : Nat) (v : Word) (c : Cluster) : (ioPut o v c).pqCap = c.pqCap := rfl
@[simp] theorem ioPut_dlf (o : Nat) (v : Word) (c : Cluster) : (ioPut o v c).dlf = c.dlf := rfl
@[simp] theorem ioPut_failCause (o : Nat) (v : Word) (c : Cluster) : (ioPut o v c).failCause = c.failCause := rfl
@[simp] theorem ioPut_failover (o : Nat) (v : Word) (c : Cluster) : (ioPut o v c).failover = c.failover := rfl
@[simp] theorem ioPut_mirror (o : Nat) (v : Word) (c : Cluster) : (ioPut o v c).mirror = c.mirror := rfl
@[simp] theorem ioPut_lastB (o : Nat) (v : Word) (c : Cluster) : (ioPut o v c).lastB = c.lastB := rfl
@[simp] theorem ioPut_mirrorAt (o : Nat) (v : Word) (c : Cluster) : (ioPut o v c).mirrorAt = c.mirrorAt := rfl
@[simp] theorem ioPut_ringPos (o : Nat) (v : Word) (c : Cluster) : (ioPut o v c).ringPos = c.ringPos := rfl
@[simp] theorem ioPut_ringRecs (o : Nat) (v : Word) (c : Cluster) : (ioPut o v c).ringRecs = c.ringRecs := rfl
@[simp] theorem ioPut_ringDrop (o : Nat) (v : Word) (c : Cluster) : (ioPut o v c).ringDrop = c.ringDrop := rfl
@[simp] theorem ioPut_jFills (o : Nat) (v : Word) (c : Cluster) : (ioPut o v c).jFills = c.jFills := rfl
@[simp] theorem ioPut_jParams (o : Nat) (v : Word) (c : Cluster) : (ioPut o v c).jParams = c.jParams := rfl
@[simp] theorem ioPut_tickAt (o : Nat) (v : Word) (c : Cluster) : (ioPut o v c).tickAt = c.tickAt := rfl
@[simp] theorem ioPut_heldFor (o : Nat) (v : Word) (c : Cluster) : (ioPut o v c).heldFor = c.heldFor := rfl
@[simp] theorem ioPut_lastCommit (o : Nat) (v : Word) (c : Cluster) : (ioPut o v c).lastCommit = c.lastCommit := rfl
@[simp] theorem ioPut_ran (o : Nat) (v : Word) (c : Cluster) : (ioPut o v c).ran = c.ran := rfl

/-! ## ioSetBit -/

@[simp] theorem ioSetBit_win (o i : Nat) (b : Bool) (c : Cluster) : (ioSetBit o i b c).win = c.win := rfl
@[simp] theorem ioSetBit_com (o i : Nat) (b : Bool) (c : Cluster) : (ioSetBit o i b c).com = c.com := rfl
@[simp] theorem ioSetBit_fastBank (o i : Nat) (b : Bool) (c : Cluster) : (ioSetBit o i b c).fastBank = c.fastBank := rfl
@[simp] theorem ioSetBit_fregs (o i : Nat) (b : Bool) (c : Cluster) : (ioSetBit o i b c).fregs = c.fregs := rfl
@[simp] theorem ioSetBit_dregs (o i : Nat) (b : Bool) (c : Cluster) : (ioSetBit o i b c).dregs = c.dregs := rfl
@[simp] theorem ioSetBit_cregs (o i : Nat) (b : Bool) (c : Cluster) : (ioSetBit o i b c).cregs = c.cregs := rfl
@[simp] theorem ioSetBit_special (o i : Nat) (b : Bool) (c : Cluster) : (ioSetBit o i b c).special = c.special := rfl
@[simp] theorem ioSetBit_masks (o i : Nat) (b : Bool) (c : Cluster) : (ioSetBit o i b c).masks = c.masks := rfl
@[simp] theorem ioSetBit_pc (o i : Nat) (b : Bool) (c : Cluster) : (ioSetBit o i b c).pc = c.pc := rfl
@[simp] theorem ioSetBit_cyc (o i : Nat) (b : Bool) (c : Cluster) : (ioSetBit o i b c).cyc = c.cyc := rfl
@[simp] theorem ioSetBit_due (o i : Nat) (b : Bool) (c : Cluster) : (ioSetBit o i b c).due = c.due := rfl
@[simp] theorem ioSetBit_slotA (o i : Nat) (b : Bool) (c : Cluster) : (ioSetBit o i b c).slotA = c.slotA := rfl
@[simp] theorem ioSetBit_skipNext (o i : Nat) (b : Bool) (c : Cluster) : (ioSetBit o i b c).skipNext = c.skipNext := rfl
@[simp] theorem ioSetBit_skipSlotA (o i : Nat) (b : Bool) (c : Cluster) : (ioSetBit o i b c).skipSlotA = c.skipSlotA := rfl
@[simp] theorem ioSetBit_sbuf (o i : Nat) (b : Bool) (c : Cluster) : (ioSetBit o i b c).sbuf = c.sbuf := rfl
@[simp] theorem ioSetBit_lateFault (o i : Nat) (b : Bool) (c : Cluster) : (ioSetBit o i b c).lateFault = c.lateFault := rfl
@[simp] theorem ioSetBit_loopLag (o i : Nat) (b : Bool) (c : Cluster) : (ioSetBit o i b c).loopLag = c.loopLag := rfl
@[simp] theorem ioSetBit_rstack (o i : Nat) (b : Bool) (c : Cluster) : (ioSetBit o i b c).rstack = c.rstack := rfl
@[simp] theorem ioSetBit_flushAt (o i : Nat) (b : Bool) (c : Cluster) : (ioSetBit o i b c).flushAt = c.flushAt := rfl
@[simp] theorem ioSetBit_waiting (o i : Nat) (b : Bool) (c : Cluster) : (ioSetBit o i b c).waiting = c.waiting := rfl
@[simp] theorem ioSetBit_vsync (o i : Nat) (b : Bool) (c : Cluster) : (ioSetBit o i b c).vsync = c.vsync := rfl
@[simp] theorem ioSetBit_halted (o i : Nat) (b : Bool) (c : Cluster) : (ioSetBit o i b c).halted = c.halted := rfl
@[simp] theorem ioSetBit_stepping (o i : Nat) (b : Bool) (c : Cluster) : (ioSetBit o i b c).stepping = c.stepping := rfl
@[simp] theorem ioSetBit_haltDue (o i : Nat) (b : Bool) (c : Cluster) : (ioSetBit o i b c).haltDue = c.haltDue := rfl
@[simp] theorem ioSetBit_stallAt (o i : Nat) (b : Bool) (c : Cluster) : (ioSetBit o i b c).stallAt = c.stallAt := rfl
@[simp] theorem ioSetBit_ieAt (o i : Nat) (b : Bool) (c : Cluster) : (ioSetBit o i b c).ieAt = c.ieAt := rfl
@[simp] theorem ioSetBit_mcheck (o i : Nat) (b : Bool) (c : Cluster) : (ioSetBit o i b c).mcheck = c.mcheck := rfl
@[simp] theorem ioSetBit_mcVec (o i : Nat) (b : Bool) (c : Cluster) : (ioSetBit o i b c).mcVec = c.mcVec := rfl
@[simp] theorem ioSetBit_vexc (o i : Nat) (b : Bool) (c : Cluster) : (ioSetBit o i b c).vexc = c.vexc := rfl
@[simp] theorem ioSetBit_tdepth (o i : Nat) (b : Bool) (c : Cluster) : (ioSetBit o i b c).tdepth = c.tdepth := rfl
@[simp] theorem ioSetBit_vhand (o i : Nat) (b : Bool) (c : Cluster) : (ioSetBit o i b c).vhand = c.vhand := rfl
@[simp] theorem ioSetBit_excSets (o i : Nat) (b : Bool) (c : Cluster) : (ioSetBit o i b c).excSets = c.excSets := rfl
@[simp] theorem ioSetBit_ieSeen (o i : Nat) (b : Bool) (c : Cluster) : (ioSetBit o i b c).ieSeen = c.ieSeen := rfl
@[simp] theorem ioSetBit_localNs (o i : Nat) (b : Bool) (c : Cluster) : (ioSetBit o i b c).localNs = c.localNs := rfl
@[simp] theorem ioSetBit_forming (o i : Nat) (b : Bool) (c : Cluster) : (ioSetBit o i b c).forming = c.forming := rfl
@[simp] theorem ioSetBit_groups (o i : Nat) (b : Bool) (c : Cluster) : (ioSetBit o i b c).groups = c.groups := rfl
@[simp] theorem ioSetBit_nextGid (o i : Nat) (b : Bool) (c : Cluster) : (ioSetBit o i b c).nextGid = c.nextGid := rfl
@[simp] theorem ioSetBit_ostore (o i : Nat) (b : Bool) (c : Cluster) : (ioSetBit o i b c).ostore = c.ostore := rfl
@[simp] theorem ioSetBit_sets (o i : Nat) (b : Bool) (c : Cluster) : (ioSetBit o i b c).sets = c.sets := rfl
@[simp] theorem ioSetBit_aux (o i : Nat) (b : Bool) (c : Cluster) : (ioSetBit o i b c).aux = c.aux := rfl
@[simp] theorem ioSetBit_conf (o i : Nat) (b : Bool) (c : Cluster) : (ioSetBit o i b c).conf = c.conf := rfl
@[simp] theorem ioSetBit_clashTo (o i : Nat) (b : Bool) (c : Cluster) : (ioSetBit o i b c).clashTo = c.clashTo := rfl
@[simp] theorem ioSetBit_heldExc (o i : Nat) (b : Bool) (c : Cluster) : (ioSetBit o i b c).heldExc = c.heldExc := rfl
@[simp] theorem ioSetBit_fslot (o i : Nat) (b : Bool) (c : Cluster) : (ioSetBit o i b c).fslot = c.fslot := rfl
@[simp] theorem ioSetBit_plotWait (o i : Nat) (b : Bool) (c : Cluster) : (ioSetBit o i b c).plotWait = c.plotWait := rfl
@[simp] theorem ioSetBit_portA (o i : Nat) (b : Bool) (c : Cluster) : (ioSetBit o i b c).portA = c.portA := rfl
@[simp] theorem ioSetBit_xlast (o i : Nat) (b : Bool) (c : Cluster) : (ioSetBit o i b c).xlast = c.xlast := rfl
@[simp] theorem ioSetBit_fillBy (o i : Nat) (b : Bool) (c : Cluster) : (ioSetBit o i b c).fillBy = c.fillBy := rfl
@[simp] theorem ioSetBit_bad (o i : Nat) (b : Bool) (c : Cluster) : (ioSetBit o i b c).bad = c.bad := rfl
@[simp] theorem ioSetBit_xbad (o i : Nat) (b : Bool) (c : Cluster) : (ioSetBit o i b c).xbad = c.xbad := rfl
@[simp] theorem ioSetBit_xspares (o i : Nat) (b : Bool) (c : Cluster) : (ioSetBit o i b c).xspares = c.xspares := rfl
@[simp] theorem ioSetBit_ibad (o i : Nat) (b : Bool) (c : Cluster) : (ioSetBit o i b c).ibad = c.ibad := rfl
@[simp] theorem ioSetBit_copies (o i : Nat) (b : Bool) (c : Cluster) : (ioSetBit o i b c).copies = c.copies := rfl
@[simp] theorem ioSetBit_corrected (o i : Nat) (b : Bool) (c : Cluster) : (ioSetBit o i b c).corrected = c.corrected := rfl
@[simp] theorem ioSetBit_ueSeen (o i : Nat) (b : Bool) (c : Cluster) : (ioSetBit o i b c).ueSeen = c.ueSeen := rfl
@[simp] theorem ioSetBit_patchA (o i : Nat) (b : Bool) (c : Cluster) : (ioSetBit o i b c).patchA = c.patchA := rfl
@[simp] theorem ioSetBit_patchB (o i : Nat) (b : Bool) (c : Cluster) : (ioSetBit o i b c).patchB = c.patchB := rfl
@[simp] theorem ioSetBit_ucSwitch (o i : Nat) (b : Bool) (c : Cluster) : (ioSetBit o i b c).ucSwitch = c.ucSwitch := rfl
@[simp] theorem ioSetBit_uerr (o i : Nat) (b : Bool) (c : Cluster) : (ioSetBit o i b c).uerr = c.uerr := rfl
@[simp] theorem ioSetBit_ubad (o i : Nat) (b : Bool) (c : Cluster) : (ioSetBit o i b c).ubad = c.ubad := rfl
@[simp] theorem ioSetBit_pq (o i : Nat) (b : Bool) (c : Cluster) : (ioSetBit o i b c).pq = c.pq := rfl
@[simp] theorem ioSetBit_pqCap (o i : Nat) (b : Bool) (c : Cluster) : (ioSetBit o i b c).pqCap = c.pqCap := rfl
@[simp] theorem ioSetBit_dlf (o i : Nat) (b : Bool) (c : Cluster) : (ioSetBit o i b c).dlf = c.dlf := rfl
@[simp] theorem ioSetBit_failCause (o i : Nat) (b : Bool) (c : Cluster) : (ioSetBit o i b c).failCause = c.failCause := rfl
@[simp] theorem ioSetBit_failover (o i : Nat) (b : Bool) (c : Cluster) : (ioSetBit o i b c).failover = c.failover := rfl
@[simp] theorem ioSetBit_mirror (o i : Nat) (b : Bool) (c : Cluster) : (ioSetBit o i b c).mirror = c.mirror := rfl
@[simp] theorem ioSetBit_lastB (o i : Nat) (b : Bool) (c : Cluster) : (ioSetBit o i b c).lastB = c.lastB := rfl
@[simp] theorem ioSetBit_mirrorAt (o i : Nat) (b : Bool) (c : Cluster) : (ioSetBit o i b c).mirrorAt = c.mirrorAt := rfl
@[simp] theorem ioSetBit_ringPos (o i : Nat) (b : Bool) (c : Cluster) : (ioSetBit o i b c).ringPos = c.ringPos := rfl
@[simp] theorem ioSetBit_ringRecs (o i : Nat) (b : Bool) (c : Cluster) : (ioSetBit o i b c).ringRecs = c.ringRecs := rfl
@[simp] theorem ioSetBit_ringDrop (o i : Nat) (b : Bool) (c : Cluster) : (ioSetBit o i b c).ringDrop = c.ringDrop := rfl
@[simp] theorem ioSetBit_jFills (o i : Nat) (b : Bool) (c : Cluster) : (ioSetBit o i b c).jFills = c.jFills := rfl
@[simp] theorem ioSetBit_jParams (o i : Nat) (b : Bool) (c : Cluster) : (ioSetBit o i b c).jParams = c.jParams := rfl
@[simp] theorem ioSetBit_tickAt (o i : Nat) (b : Bool) (c : Cluster) : (ioSetBit o i b c).tickAt = c.tickAt := rfl
@[simp] theorem ioSetBit_heldFor (o i : Nat) (b : Bool) (c : Cluster) : (ioSetBit o i b c).heldFor = c.heldFor := rfl
@[simp] theorem ioSetBit_lastCommit (o i : Nat) (b : Bool) (c : Cluster) : (ioSetBit o i b c).lastCommit = c.lastCommit := rfl
@[simp] theorem ioSetBit_ran (o i : Nat) (b : Bool) (c : Cluster) : (ioSetBit o i b c).ran = c.ran := rfl

/-! ## ioSetFld -/

@[simp] theorem ioSetFld_win (o hi lo v : Nat) (c : Cluster) : (ioSetFld o hi lo v c).win = c.win := rfl
@[simp] theorem ioSetFld_com (o hi lo v : Nat) (c : Cluster) : (ioSetFld o hi lo v c).com = c.com := rfl
@[simp] theorem ioSetFld_fastBank (o hi lo v : Nat) (c : Cluster) : (ioSetFld o hi lo v c).fastBank = c.fastBank := rfl
@[simp] theorem ioSetFld_fregs (o hi lo v : Nat) (c : Cluster) : (ioSetFld o hi lo v c).fregs = c.fregs := rfl
@[simp] theorem ioSetFld_dregs (o hi lo v : Nat) (c : Cluster) : (ioSetFld o hi lo v c).dregs = c.dregs := rfl
@[simp] theorem ioSetFld_cregs (o hi lo v : Nat) (c : Cluster) : (ioSetFld o hi lo v c).cregs = c.cregs := rfl
@[simp] theorem ioSetFld_special (o hi lo v : Nat) (c : Cluster) : (ioSetFld o hi lo v c).special = c.special := rfl
@[simp] theorem ioSetFld_masks (o hi lo v : Nat) (c : Cluster) : (ioSetFld o hi lo v c).masks = c.masks := rfl
@[simp] theorem ioSetFld_pc (o hi lo v : Nat) (c : Cluster) : (ioSetFld o hi lo v c).pc = c.pc := rfl
@[simp] theorem ioSetFld_cyc (o hi lo v : Nat) (c : Cluster) : (ioSetFld o hi lo v c).cyc = c.cyc := rfl
@[simp] theorem ioSetFld_due (o hi lo v : Nat) (c : Cluster) : (ioSetFld o hi lo v c).due = c.due := rfl
@[simp] theorem ioSetFld_slotA (o hi lo v : Nat) (c : Cluster) : (ioSetFld o hi lo v c).slotA = c.slotA := rfl
@[simp] theorem ioSetFld_skipNext (o hi lo v : Nat) (c : Cluster) : (ioSetFld o hi lo v c).skipNext = c.skipNext := rfl
@[simp] theorem ioSetFld_skipSlotA (o hi lo v : Nat) (c : Cluster) : (ioSetFld o hi lo v c).skipSlotA = c.skipSlotA := rfl
@[simp] theorem ioSetFld_sbuf (o hi lo v : Nat) (c : Cluster) : (ioSetFld o hi lo v c).sbuf = c.sbuf := rfl
@[simp] theorem ioSetFld_lateFault (o hi lo v : Nat) (c : Cluster) : (ioSetFld o hi lo v c).lateFault = c.lateFault := rfl
@[simp] theorem ioSetFld_loopLag (o hi lo v : Nat) (c : Cluster) : (ioSetFld o hi lo v c).loopLag = c.loopLag := rfl
@[simp] theorem ioSetFld_rstack (o hi lo v : Nat) (c : Cluster) : (ioSetFld o hi lo v c).rstack = c.rstack := rfl
@[simp] theorem ioSetFld_flushAt (o hi lo v : Nat) (c : Cluster) : (ioSetFld o hi lo v c).flushAt = c.flushAt := rfl
@[simp] theorem ioSetFld_waiting (o hi lo v : Nat) (c : Cluster) : (ioSetFld o hi lo v c).waiting = c.waiting := rfl
@[simp] theorem ioSetFld_vsync (o hi lo v : Nat) (c : Cluster) : (ioSetFld o hi lo v c).vsync = c.vsync := rfl
@[simp] theorem ioSetFld_halted (o hi lo v : Nat) (c : Cluster) : (ioSetFld o hi lo v c).halted = c.halted := rfl
@[simp] theorem ioSetFld_stepping (o hi lo v : Nat) (c : Cluster) : (ioSetFld o hi lo v c).stepping = c.stepping := rfl
@[simp] theorem ioSetFld_haltDue (o hi lo v : Nat) (c : Cluster) : (ioSetFld o hi lo v c).haltDue = c.haltDue := rfl
@[simp] theorem ioSetFld_stallAt (o hi lo v : Nat) (c : Cluster) : (ioSetFld o hi lo v c).stallAt = c.stallAt := rfl
@[simp] theorem ioSetFld_ieAt (o hi lo v : Nat) (c : Cluster) : (ioSetFld o hi lo v c).ieAt = c.ieAt := rfl
@[simp] theorem ioSetFld_mcheck (o hi lo v : Nat) (c : Cluster) : (ioSetFld o hi lo v c).mcheck = c.mcheck := rfl
@[simp] theorem ioSetFld_mcVec (o hi lo v : Nat) (c : Cluster) : (ioSetFld o hi lo v c).mcVec = c.mcVec := rfl
@[simp] theorem ioSetFld_vexc (o hi lo v : Nat) (c : Cluster) : (ioSetFld o hi lo v c).vexc = c.vexc := rfl
@[simp] theorem ioSetFld_tdepth (o hi lo v : Nat) (c : Cluster) : (ioSetFld o hi lo v c).tdepth = c.tdepth := rfl
@[simp] theorem ioSetFld_vhand (o hi lo v : Nat) (c : Cluster) : (ioSetFld o hi lo v c).vhand = c.vhand := rfl
@[simp] theorem ioSetFld_excSets (o hi lo v : Nat) (c : Cluster) : (ioSetFld o hi lo v c).excSets = c.excSets := rfl
@[simp] theorem ioSetFld_ieSeen (o hi lo v : Nat) (c : Cluster) : (ioSetFld o hi lo v c).ieSeen = c.ieSeen := rfl
@[simp] theorem ioSetFld_localNs (o hi lo v : Nat) (c : Cluster) : (ioSetFld o hi lo v c).localNs = c.localNs := rfl
@[simp] theorem ioSetFld_forming (o hi lo v : Nat) (c : Cluster) : (ioSetFld o hi lo v c).forming = c.forming := rfl
@[simp] theorem ioSetFld_groups (o hi lo v : Nat) (c : Cluster) : (ioSetFld o hi lo v c).groups = c.groups := rfl
@[simp] theorem ioSetFld_nextGid (o hi lo v : Nat) (c : Cluster) : (ioSetFld o hi lo v c).nextGid = c.nextGid := rfl
@[simp] theorem ioSetFld_ostore (o hi lo v : Nat) (c : Cluster) : (ioSetFld o hi lo v c).ostore = c.ostore := rfl
@[simp] theorem ioSetFld_sets (o hi lo v : Nat) (c : Cluster) : (ioSetFld o hi lo v c).sets = c.sets := rfl
@[simp] theorem ioSetFld_aux (o hi lo v : Nat) (c : Cluster) : (ioSetFld o hi lo v c).aux = c.aux := rfl
@[simp] theorem ioSetFld_conf (o hi lo v : Nat) (c : Cluster) : (ioSetFld o hi lo v c).conf = c.conf := rfl
@[simp] theorem ioSetFld_clashTo (o hi lo v : Nat) (c : Cluster) : (ioSetFld o hi lo v c).clashTo = c.clashTo := rfl
@[simp] theorem ioSetFld_heldExc (o hi lo v : Nat) (c : Cluster) : (ioSetFld o hi lo v c).heldExc = c.heldExc := rfl
@[simp] theorem ioSetFld_fslot (o hi lo v : Nat) (c : Cluster) : (ioSetFld o hi lo v c).fslot = c.fslot := rfl
@[simp] theorem ioSetFld_plotWait (o hi lo v : Nat) (c : Cluster) : (ioSetFld o hi lo v c).plotWait = c.plotWait := rfl
@[simp] theorem ioSetFld_portA (o hi lo v : Nat) (c : Cluster) : (ioSetFld o hi lo v c).portA = c.portA := rfl
@[simp] theorem ioSetFld_xlast (o hi lo v : Nat) (c : Cluster) : (ioSetFld o hi lo v c).xlast = c.xlast := rfl
@[simp] theorem ioSetFld_fillBy (o hi lo v : Nat) (c : Cluster) : (ioSetFld o hi lo v c).fillBy = c.fillBy := rfl
@[simp] theorem ioSetFld_bad (o hi lo v : Nat) (c : Cluster) : (ioSetFld o hi lo v c).bad = c.bad := rfl
@[simp] theorem ioSetFld_xbad (o hi lo v : Nat) (c : Cluster) : (ioSetFld o hi lo v c).xbad = c.xbad := rfl
@[simp] theorem ioSetFld_xspares (o hi lo v : Nat) (c : Cluster) : (ioSetFld o hi lo v c).xspares = c.xspares := rfl
@[simp] theorem ioSetFld_ibad (o hi lo v : Nat) (c : Cluster) : (ioSetFld o hi lo v c).ibad = c.ibad := rfl
@[simp] theorem ioSetFld_copies (o hi lo v : Nat) (c : Cluster) : (ioSetFld o hi lo v c).copies = c.copies := rfl
@[simp] theorem ioSetFld_corrected (o hi lo v : Nat) (c : Cluster) : (ioSetFld o hi lo v c).corrected = c.corrected := rfl
@[simp] theorem ioSetFld_ueSeen (o hi lo v : Nat) (c : Cluster) : (ioSetFld o hi lo v c).ueSeen = c.ueSeen := rfl
@[simp] theorem ioSetFld_patchA (o hi lo v : Nat) (c : Cluster) : (ioSetFld o hi lo v c).patchA = c.patchA := rfl
@[simp] theorem ioSetFld_patchB (o hi lo v : Nat) (c : Cluster) : (ioSetFld o hi lo v c).patchB = c.patchB := rfl
@[simp] theorem ioSetFld_ucSwitch (o hi lo v : Nat) (c : Cluster) : (ioSetFld o hi lo v c).ucSwitch = c.ucSwitch := rfl
@[simp] theorem ioSetFld_uerr (o hi lo v : Nat) (c : Cluster) : (ioSetFld o hi lo v c).uerr = c.uerr := rfl
@[simp] theorem ioSetFld_ubad (o hi lo v : Nat) (c : Cluster) : (ioSetFld o hi lo v c).ubad = c.ubad := rfl
@[simp] theorem ioSetFld_pq (o hi lo v : Nat) (c : Cluster) : (ioSetFld o hi lo v c).pq = c.pq := rfl
@[simp] theorem ioSetFld_pqCap (o hi lo v : Nat) (c : Cluster) : (ioSetFld o hi lo v c).pqCap = c.pqCap := rfl
@[simp] theorem ioSetFld_dlf (o hi lo v : Nat) (c : Cluster) : (ioSetFld o hi lo v c).dlf = c.dlf := rfl
@[simp] theorem ioSetFld_failCause (o hi lo v : Nat) (c : Cluster) : (ioSetFld o hi lo v c).failCause = c.failCause := rfl
@[simp] theorem ioSetFld_failover (o hi lo v : Nat) (c : Cluster) : (ioSetFld o hi lo v c).failover = c.failover := rfl
@[simp] theorem ioSetFld_mirror (o hi lo v : Nat) (c : Cluster) : (ioSetFld o hi lo v c).mirror = c.mirror := rfl
@[simp] theorem ioSetFld_lastB (o hi lo v : Nat) (c : Cluster) : (ioSetFld o hi lo v c).lastB = c.lastB := rfl
@[simp] theorem ioSetFld_mirrorAt (o hi lo v : Nat) (c : Cluster) : (ioSetFld o hi lo v c).mirrorAt = c.mirrorAt := rfl
@[simp] theorem ioSetFld_ringPos (o hi lo v : Nat) (c : Cluster) : (ioSetFld o hi lo v c).ringPos = c.ringPos := rfl
@[simp] theorem ioSetFld_ringRecs (o hi lo v : Nat) (c : Cluster) : (ioSetFld o hi lo v c).ringRecs = c.ringRecs := rfl
@[simp] theorem ioSetFld_ringDrop (o hi lo v : Nat) (c : Cluster) : (ioSetFld o hi lo v c).ringDrop = c.ringDrop := rfl
@[simp] theorem ioSetFld_jFills (o hi lo v : Nat) (c : Cluster) : (ioSetFld o hi lo v c).jFills = c.jFills := rfl
@[simp] theorem ioSetFld_jParams (o hi lo v : Nat) (c : Cluster) : (ioSetFld o hi lo v c).jParams = c.jParams := rfl
@[simp] theorem ioSetFld_tickAt (o hi lo v : Nat) (c : Cluster) : (ioSetFld o hi lo v c).tickAt = c.tickAt := rfl
@[simp] theorem ioSetFld_heldFor (o hi lo v : Nat) (c : Cluster) : (ioSetFld o hi lo v c).heldFor = c.heldFor := rfl
@[simp] theorem ioSetFld_lastCommit (o hi lo v : Nat) (c : Cluster) : (ioSetFld o hi lo v c).lastCommit = c.lastCommit := rfl
@[simp] theorem ioSetFld_ran (o hi lo v : Nat) (c : Cluster) : (ioSetFld o hi lo v c).ran = c.ran := rfl

/-! ## Reading back -/

theorem putCl_cl (n m : Cl) (c : Cluster) (s : State) : (s.putCl n c).cl m = if n = m then c else s.cl m := by
  simp only [State.putCl, State.cl, Fin.getElem_fin, Vector.getElem_set, Fin.ext_iff]

@[simp] theorem putCl_cl_self (n : Cl) (c : Cluster) (s : State) : (s.putCl n c).cl n = c := by simp [putCl_cl]

theorem putCl_cl_ne {n m : Cl} (c : Cluster) (s : State) (h : n ≠ m) : (s.putCl n c).cl m = s.cl m := by simp [putCl_cl, h]

@[simp] theorem modCl_cl_self (n : Cl) (f : Cluster → Cluster) (s : State) : (s.modCl n f).cl n = f (s.cl n) := by
  simp [State.modCl]

theorem modCl_cl_ne {n m : Cl} (f : Cluster → Cluster) (s : State) (h : n ≠ m) : (s.modCl n f).cl m = s.cl m := by
  simp [State.modCl, putCl_cl, h]

@[simp] theorem putCl_putCl (n : Cl) (c d : Cluster) (s : State) : (s.putCl n c).putCl n d = s.putCl n d := by
  simp [State.putCl]

@[simp] theorem putCl_cl_same (n : Cl) (s : State) : s.putCl n (s.cl n) = s := by
  simp [State.putCl, State.cl]

theorem modCl_eq (n : Cl) (f : Cluster → Cluster) (s : State) : s.modCl n f = s.putCl n (f (s.cl n)) := rfl

@[simp] theorem hubPut_cl (o : Nat) (v : Word) (s : State) (n : Cl) : (hubPut o v s).cl n = s.cl n := rfl
@[simp] theorem hubSetBit_cl (o i : Nat) (b : Bool) (s : State) (n : Cl) : (hubSetBit o i b s).cl n = s.cl n := rfl
@[simp] theorem hubSetFld_cl (o hi lo v : Nat) (s : State) (n : Cl) : (hubSetFld o hi lo v s).cl n = s.cl n := rfl
@[simp] theorem respond_cl (ws : List Word) (s : State) (n : Cl) : (respond ws s).cl n = s.cl n := rfl
@[simp] theorem snapPut_cl (r k : Nat) (v : DWord) (s : State) (n : Cl) : (snapPut r k v s).cl n = s.cl n := rfl
@[simp] theorem drawn_cl (s : State) (n : Cl) : (drawn s).cl n = s.cl n := rfl
@[simp] theorem memPut_cl (a : Nat) (v : Word) (s : State) (n : Cl) : (memPut a v s).cl n = s.cl n := rfl

@[simp] theorem drawn_fresh (s : State) : (drawn s).fresh = s.fresh + 1 := rfl
@[simp] theorem respond_resp (ws : List Word) (s : State) : (respond ws s).resp = ws := rfl

theorem hubGet_hubPut (o p : Nat) (v : Word) (s : State) : hubGet p (hubPut o v s) = if o = p then v else hubGet p s :=
  smGet_smSet s.hub o p v

@[simp] theorem hubGet_hubPut_self (o : Nat) (v : Word) (s : State) : hubGet o (hubPut o v s) = v := by simp [hubGet_hubPut]

theorem hubGet_hubPut_ne {o p : Nat} (v : Word) (s : State) (h : o ≠ p) : hubGet p (hubPut o v s) = hubGet p s := by
  simp [hubGet_hubPut, h]

@[simp] theorem hubGet_putCl (n : Cl) (c : Cluster) (o : Nat) (s : State) : hubGet o (s.putCl n c) = hubGet o s := rfl
@[simp] theorem hubGet_modCl (n : Cl) (f : Cluster → Cluster) (o : Nat) (s : State) : hubGet o (s.modCl n f) = hubGet o s := rfl
@[simp] theorem hubGet_respond (ws : List Word) (o : Nat) (s : State) : hubGet o (respond ws s) = hubGet o s := rfl
@[simp] theorem hubGet_snapPut (r k : Nat) (v : DWord) (o : Nat) (s : State) : hubGet o (snapPut r k v s) = hubGet o s := rfl
@[simp] theorem hubGet_memPut (a : Nat) (v : Word) (o : Nat) (s : State) : hubGet o (memPut a v s) = hubGet o s := rfl

theorem ioGet_ioPut (o p : Nat) (v : Word) (c : Cluster) : ioGet p (ioPut o v c) = if o = p then v else ioGet p c :=
  smGet_smSet c.io o p v

@[simp] theorem ioGet_ioPut_self (o : Nat) (v : Word) (c : Cluster) : ioGet o (ioPut o v c) = v := by simp [ioGet_ioPut]

theorem ioGet_ioPut_ne {o p : Nat} (v : Word) (c : Cluster) (h : o ≠ p) : ioGet p (ioPut o v c) = ioGet p c := by
  simp [ioGet_ioPut, h]

/-- A read of memory after a write of memory. -/
theorem memGet_memPut (a b : Nat) (v : Word) (s : State) : memGet b (memPut a v s) = if a = b then v else memGet b s :=
  smAt_smPut 0 s.mem a b v

@[simp] theorem memGet_putCl (n : Cl) (c : Cluster) (a : Nat) (s : State) : memGet a (s.putCl n c) = memGet a s := rfl
@[simp] theorem memGet_hubPut (o : Nat) (v : Word) (a : Nat) (s : State) : memGet a (hubPut o v s) = memGet a s := rfl

/-! ## The canonical form of memory -/

theorem memPut_wf (a : Nat) (v : Word) (s : State) (h : Memory.wf s.mem = true) : Memory.wf (memPut a v s).mem = true :=
  smWf_smSet s.mem a v h

theorem memDrop_wf (lo hi : Nat) (s : State) (h : Memory.wf s.mem = true) : Memory.wf (memDrop lo hi s).mem = true :=
  smWf_filter s.mem _ h

theorem memPuts_wf (a : Nat) (ws : List Word) (s : State) (h : Memory.wf s.mem = true) :
    Memory.wf (memPuts a ws s).mem = true := by
  suffices H : ∀ (ws : List Word) (p : Nat × State), Memory.wf p.2.mem = true →
      Memory.wf (ws.foldl (fun (p : Nat × State) w => (p.1 + 1, memPut p.1 w p.2)) p).2.mem = true from H ws (a, s) h
  intro ws
  induction ws with
  | nil => exact fun p hp => hp
  | cons w t ih => exact fun p hp => ih _ (memPut_wf p.1 w p.2 hp)

theorem memLoad_wf (lo : Nat) (ws : SMap Word) (s : State) (h : Memory.wf s.mem = true) :
    Memory.wf (memLoad lo ws s).mem = true := by
  unfold memLoad
  induction ws generalizing s with
  | nil => exact h
  | cons w t ih => exact ih _ (memPut_wf _ _ _ h)

end Sys2Proof.Machine
end

