-- ==== Sys2Proof/Laws/Issue.lean ====
section
/-!
SUPPORT. Laws/Issue.lean: what the issue of a word does in a cluster whose sequencer issues it at once
(`Claims.Issues`): the shared operations of Machine/Issue.lean said once.
-/
namespace Sys2Proof.Machine

open Sys2Proof.Claims

theorem evcEvent_zero (sel : Nat) (c : Cluster) : evcEvent sel 0 c = c := by
  simp [evcEvent]

theorem landDue_nil {c : Cluster} (h : c.due = []) : landDue c = c := by
  cases c; simp only at h; subst h; rfl

theorem landDue_one {c : Cluster} {w : RegWrite} (h : c.due = [w]) (hw : w.due ≤ c.cyc) :
    landDue c = landReg { c with due := [] } w := by
  simp [landDue, h, hw]

theorem landDue_later {c : Cluster} {w : RegWrite} (h : c.due = [w]) (hw : c.cyc < w.due) : landDue c = c := by
  cases c; simp only at h hw; subst h; simp [landDue, Nat.not_le.mpr hw]

/-- Without the shadow of an OUT a loop register governs as it stands. -/
theorem loopGet_plain {r : Nat} {c : Cluster} (h : c.loopLag = []) : loopGet r c = ioGet r c := by
  simp [loopGet, lagFind, h]

theorem atLoopEnd_none {a : Word} {c : Cluster} (h : ioBit 0x6 23 c = false) (hl : c.loopLag = []) :
    atLoopEnd a c = false := by
  unfold ioBit at h; simp [atLoopEnd, loopGet_plain hl, h]

theorem loopBack_none {a : Word} {c : Cluster} (h : ioBit 0x6 23 c = false) (hl : c.loopLag = []) : loopBack a c = c := by
  simp [loopBack, atLoopEnd_none h hl]

theorem nextPc_none {a : Word} {c : Cluster} (h : ioBit 0x6 23 c = false) (hl : c.loopLag = []) : nextPc a c = a + 1 := by
  simp [nextPc, atLoopEnd_none h hl]

/-- With no bad cell in the instruction store a fetch changes nothing. -/
theorem fetchWords_clean {n : Cl} {s : State} (h : (s.cl n).ibad = []) (k a : Nat) : fetchWords n a k s = (true, s) := by
  induction k generalizing a with
  | zero => rfl
  | succ k ih => simp [fetchWords, istoreRead, h, ih]

theorem closePair_none {n : Cl} {s : State} (h : (s.cl n).slotA = none) : closePair n s = s := by
  simp [closePair, h]

/-- A word that issues at once passes what precedes its issue. -/
theorem issueGate_now {n : Cl} {s : State} (h : Issues n s) (k : Nat) : issueGate n k s = (true, s) := by
  have hp : ¬ 0x4000 ≤ (s.cl n).pc.toNat := by have := h.store; omega
  simp [issueGate, lateTrap, h.late, hp, h.ie, fetchWords_clean h.cells, h.pair]

/-- A word that needs no floating-point state, or has it, reaches its meaning. -/
theorem issue_now {n : Cl} {s : State} (h : Issues n s) (w : WordInfo) (f : Word → State → SeqRes)
    (hf : w.fp = false ∨ ioBit 0x10 20 (s.cl n) = true) :
    issue n w f s = wordEnd n w.cycles (s.cl n).pc s
      (f ((rsTop (s.cl n)).getD ((s.cl n).pc + 1)) (s.modCl n (dAct w.act (s.cl n).pc))) := by
  have hfp : (w.fp && !ioBit 0x10 20 (s.cl n)) = false := by
    rcases hf with h1 | h1 <;> simp [h1]
  unfold issue issueWord
  simp only [h.vsync, Option.isSome_none, Bool.false_eq_true, ↓reduceIte, h.ready, Bool.not_true, closePair_none h.pair,
    h.skip, issueGate_now h, hfp, nextPc_none h.loop h.lag]

/-- A word that completes with nothing to transfer: the cluster goes on. -/
theorem wordDone_go {n : Cl} {s : State} (hl : ioBit 0x6 23 (s.cl n) = false) (hg : (s.cl n).loopLag = []) :
    wordDone n 1 none 0 s = s.putCl n (evcEvent 0x02 1 (landDue (passOver (s.cl n)))) := by
  unfold wordDone wordPass State.modCl
  simp [loopBack_none hl hg, nextPc_none hl hg, evcEvent_zero, passOver]

@[simp] theorem dAct_plain (a : Word) (c : Cluster) : dAct .plain a c = c := rfl

/-- The results of a word with n = 1 are in their registers when it has completed. -/
theorem landX (_n : Cl) (rd : Nat) (v : Word) (c : Cluster) (h : c.due = []) :
    landDue (passOver (dueAdd 1 [(xName c rd, .w v)] c)) = passOver (xSet rd v c) := by
  rw [landDue_one (w := ⟨xName c rd, .w v, c.cyc + 1⟩) (by simp [passOver, dueAdd, h, dueInsert]) (by simp [passOver, dueAdd])]
  unfold xName xSet passOver fastLevel
  cases c
  simp only at h
  subst h
  simp only [dueAdd, List.foldl]
  split
  · rfl
  · split <;> rfl

/-- A word that writes x[rd] with n = 1 (R218, R225). -/
theorem xWord_now {n : Cl} {s : State} (h : Issues n s) (rd : Reg) (f : Cluster → Word) :
    xWord n rd f s = .next (s.putCl n (goOn (xSet rd (f (s.cl n)) (s.cl n)))) := by
  unfold xWord regWord
  rw [issue_now h _ _ (.inl rfl)]
  simp only [State.modCl, dAct_plain, putCl_cl_same, SeqRes.go, wordEnd]
  rw [wordDone_go (by simpa [dueAdd, ioBit, ioGet] using h.loop) (by simpa [dueAdd] using h.lag)]
  simp only [putCl_cl_self, putCl_putCl]
  rw [landX n rd (f (s.cl n)) (s.cl n) h.calm, goOn]

end Sys2Proof.Machine
end

