-- ==== Sys2Proof/Tests/Witness1.lean ====
section
/-!
SUPPORT. Tests/Witness1.lean: states and operands that meet the hypotheses of the statements about a sequencer
(Certificates/Slice0/Obligations.lean), clause by clause.
-/
namespace Sys2Proof.Tests

open Sys2Proof.Machine Sys2Proof.Claims

-- The kernel checks these theorems one after the other.
set_option Elab.async false

/-- A cluster at word 0x100 whose x[2] is 0x100, x[3] is 0x30, x[15] is 0x200, with capabilities over its own stores in
c2, c14 and c15, and one over its IO space in c0 and c12. -/
def wc : Cluster :=
  let data (p : Nat) : CapV := ⟨capOfWords 0 0 (BitVec.ofNat 24 (2 ^ 14)) (BitVec.ofNat 24 (p * 2 ^ 12)), true⟩
  let io : CapV := ⟨capOfWords 0 0 0x20 (BitVec.ofNat 24 (0xB * 2 ^ 12)), true⟩
  { Cluster.reset with
    pc := 0x100
    com := [(15, 0x200)]
    win := [(2, 0x100), (3, 0x30), (10, 0x100), (11, 0x30)]
    cregs := [(0, io), (2, data 3), (3, io), (12, io), (14, data 0x1FF), (15, data 0x1F7)]
    fregs := [(1, 5)]
    rstack := [7]
    special := [(0, data 0x1FF), (1, data 0x1F7)] }

/-- A state whose cluster 0 is `c`. -/
def wState (c : Cluster) : State := State.reset.putCl 0 c

/-- A state whose cluster 0 issues, with the floating-point state. -/
def ws : State := wState (ioSetBit 0x10 20 true wc)

theorem issues_ws : Issues 0 ws := by constructor <;> decide +kernel

/-! ## Integer words, short words, loads and stores -/

theorem witness_IntegerWords : Issues 0 ws := issues_ws

theorem witness_ShortWords : Issues 0 ws ∧ (ws.cl 0).skipSlotA = false ∧
    condHolds 0xF (ccGet (ws.cl 0)) = true ∧ condHolds 0 (ccGet (ws.cl 0)) = false := ⟨issues_ws, by decide +kernel, by decide +kernel, by decide +kernel⟩

theorem ownWords_ws : OwnWords 0 0x100 5 ws ∧ OwnWords 0 0x100 1 ws ∧ OwnWords 0 0x100 2 ws ∧ OwnWords 0 0x100 4 ws ∧
    OwnWords 0 0x3FFFB 5 ws :=
  ⟨⟨by decide +kernel, by decide +kernel, by decide +kernel⟩, ⟨by decide +kernel, by decide +kernel, by decide +kernel⟩, ⟨by decide +kernel, by decide +kernel, by decide +kernel⟩,
    ⟨by decide +kernel, by decide +kernel, by decide +kernel⟩, ⟨by decide +kernel, by decide +kernel, by decide +kernel⟩⟩

/-- The loads and stores of x[2] + 0 under c2. -/
theorem witness_Loads : Issues 0 ws ∧ (ws.cl 0).sbuf = [] ∧ (xGet (ws.cl 0) 2 + (0#9).signExtend 24).toNat = 0x100 ∧
    (∀ k ∈ [1, 2, 4, 5], capFault (cGet (ws.cl 0) 2) (lsAddr 0 0x100) k permRD = none ∧
      capFault (cGet (ws.cl 0) 2) (lsAddr 0 0x100) k permWR = none) ∧
    ioBit 0x10 20 (ws.cl 0) = true ∧ loadCap ws (capOfWords 0 0 0 0) = some CapV.null ∧
    capFault (cGet (ws.cl 0) 2) (istoreAddr 0 0x100) 1 permRD = none ∧ (cGet (ws.cl 0) 5).valid = false :=
  ⟨issues_ws, by decide +kernel, by decide +kernel, by decide +kernel, by decide +kernel, by decide +kernel, by decide +kernel, by decide +kernel⟩

/-- A buffered store of two words at 0x100. -/
def wDrain1 : State :=
  wState { wc with sbuf := [⟨((List.range [(5 : Word), 6].length).map fun i => lsAddr 0 (0x100 + i)).zip [5, 6], 2, CapV.null, false, 0x100, 0⟩] }

theorem witness_StoreDrains : (wDrain1.cl 0).sbuf =
      ⟨((List.range [(5 : Word), 6].length).map fun i => lsAddr 0 (0x100 + i)).zip [5, 6], 2, CapV.null, false, 0x100, 0⟩ :: [] ∧
    OwnWords 0 0x100 [(5 : Word), 6].length wDrain1 :=
  ⟨by decide +kernel, by decide +kernel, by decide +kernel, by decide +kernel⟩

/-- IO at 0x40 to 0x4F through c12 (IN, OUT) and through c3 from x[3] = 0x30 (INR, OUTR). -/
theorem witness_IoWords : Issues 0 ws ∧ (ws.cl 0).sbuf = [] ∧ ioFld 0x0 3 0 (ws.cl 0) = 12 ∧
    (∀ o ∈ [0x40, 0x4F], ioFault (cGet (ws.cl 0) 12) o permRD = none ∧ ioFault (cGet (ws.cl 0) 12) o permWR = none) ∧
    (xGet (ws.cl 0) 3 + (0x1F#9).setWidth 24).toNat = 0x4F ∧ ioFault (cGet (ws.cl 0) 3) 0x4F permRD = none ∧
    ioFault (cGet (ws.cl 0) 3) 0x4F permWR = none := ⟨issues_ws, by decide +kernel, by decide +kernel, by decide +kernel, by decide +kernel, by decide +kernel, by decide +kernel⟩

/-! ## Transfers, loops, traps -/

theorem witness_Transfers : Issues 0 ws ∧ wres (ws.cl 0) < 8 ∧ (ws.cl 0).rstack = [] ++ [7] ∧
    Issues 0 (wState (ioSetFld 0x10 15 12 2 wc)) ∧ 2 ≤ wres ((wState (ioSetFld 0x10 15 12 2 wc)).cl 0) ∧
    ((wState (ioSetFld 0x10 15 12 2 wc)).cl 0).rstack = [] ++ [7] :=
  ⟨issues_ws, by decide +kernel, by decide +kernel, by constructor <;> decide +kernel, by decide +kernel, by decide +kernel⟩

/-- An active loop whose END is the word at the pc, with two rounds left and with one. -/
def wLoop (k : Word) : State := wState (ioPut 0x4 k (ioPut 0x5 0xF0 (ioPut 0x6 0x800100 wc)))

theorem witness_Loops : Issues 0 ws ∧ (1#9) ≠ 0 ∧ Issues 0 (wState (ioPut 0x4 1 wc)) ∧
    (∀ s ∈ [wLoop 2, wLoop 1], seqReady 0 s = true ∧ (s.cl 0).vsync = none ∧ (s.cl 0).slotA = none ∧ (s.cl 0).skipNext = false ∧
      (s.cl 0).pc = 0x100 ∧ (s.cl 0).due = [] ∧ (s.cl 0).loopLag = [] ∧ (s.cl 0).lateFault = none ∧ (s.cl 0).ibad = [] ∧
      afterSetIe (s.cl 0) = false ∧ ioBit 0x6 23 (s.cl 0) = true ∧ ioFld 0x6 13 0 (s.cl 0) = 0x100) ∧
    ioGet 0x4 ((wLoop 2).cl 0) = 2 ∧ ioGet 0x4 ((wLoop 1).cl 0) = 1 :=
  ⟨issues_ws, by decide +kernel, by constructor <;> decide +kernel, by decide +kernel, by decide +kernel, by decide +kernel⟩

/-- SYS with ACT 0 and a valid ENTRY_CAP; with ACT 1; with a null ENTRY_CAP; SRET with ACT 0; each trap finds its frame. -/
theorem witness_Services : Issues 0 ws ∧ ioBit 0x10 21 (ws.cl 0) = false ∧ (smAt CapV.null (ws.cl 0).special 0).valid = true ∧
    Issues 0 (wState (ioSetBit 0x10 21 true wc)) ∧ ioBit 0x10 21 ((wState (ioSetBit 0x10 21 true wc)).cl 0) = true ∧
    Issues 0 (wState { wc with special := [] }) ∧ (smAt CapV.null ((wState { wc with special := [] }).cl 0).special 0).valid = false ∧
    (enterVector 0 2 2 0 0x100 ws).isSome = true :=
  ⟨issues_ws, by decide +kernel, by decide +kernel, by constructor <;> decide +kernel, by decide +kernel, by constructor <;> decide +kernel, by decide +kernel, by decide +kernel⟩

theorem witness_ServiceTraps :
    (syncTrap 0 2 0 0 (BitVec.ofNat 24 (0x23 * 2 ^ 17 + (1#9).toNat)) ((wState (ioSetBit 0x10 21 true wc)).cl 0).pc
      (wState (ioSetBit 0x10 21 true wc))).isSome = true ∧
    (syncTrap 0 6 0 0x01 0 ((wState { wc with special := [] }).cl 0).pc (wState { wc with special := [] })).isSome = true ∧
    (syncTrap 0 2 0 0 (BitVec.ofNat 24 (0x24 * 2 ^ 17 + 3 * 2 ^ 4)) (ws.cl 0).pc ws).isSome = true :=
  ⟨by decide +kernel, by decide +kernel, by decide +kernel⟩

def wIrq : State := { ws with ev := { ws.ev with taskIn := [taskIrq 0 3] } }

theorem witness_ControlWords : Issues 0 ws ∧ (ws.cl 0).sbuf = [] ∧ taskIrq 0 (3 : Fin 64) ∈ wIrq.ev.taskIn ∧
    ioGet 0x1E ((wState (ioPut 0x1D 0x0505 wc)).cl 0) = 0 ∧
    ioFld 0x1D 7 0 ((wState (ioPut 0x1D 0x0505 wc)).cl 0) ≤ ioFld 0x1D 15 8 ((wState (ioPut 0x1D 0x0505 wc)).cl 0) := ⟨issues_ws, by decide +kernel, by decide +kernel, by decide +kernel, by decide +kernel⟩

theorem witness_NormalFrames : Issues 0 ws ∧ (ws.cl 0).ibad = [] ∧ wordIllegal 0xFFFFFF = true ∧ fastLevel (ws.cl 0) = false ∧ (ws.cl 0).sbuf = [] ∧
    xBank (ws.cl 0) (.com 15) = 0x200 ∧
    capFault (cGet (ws.cl 0) 15) (lsAddr 0 0x1FC) 4 permWR = none ∧
    capFault (cGet (ws.cl 0) 15) (capBase (cGet (ws.cl 0) 15).bits) 0 permSTK = none ∧ OwnWords 0 0x200 4 ws ∧
    capFault (cGet (ws.cl 0) 15) (lsAddr 0 0x200) 4 permRD = none :=
  ⟨issues_ws, by decide +kernel, by decide +kernel, by decide +kernel, by decide +kernel, by decide +kernel, by decide +kernel, by decide +kernel, ⟨by decide +kernel, by decide +kernel, by decide +kernel⟩, by decide +kernel⟩

/-- Fast interrupt 3 pending, enabled and permitted; and a cluster at the fast level. -/
def wFast : State := wState (ioPut 0x30 8 (ioPut 0x33 8 (ioPut 0x36 8 (ioSetBit 0x10 23 true wc))))

theorem witness_FastInterrupts : seqOn 0 wFast = true ∧ ioGet 0x1E (wFast.cl 0) = 0 ∧ (wFast.cl 0).pc = 0x100 ∧
    (wFast.cl 0).lateFault = none ∧ stalled (wFast.cl 0) = false ∧ (wFast.cl 0).halted = false ∧ (wFast.cl 0).due = [] ∧
    (wFast.cl 0).slotA = none ∧ (wFast.cl 0).skipNext = false ∧ (wFast.cl 0).mcheck = none ∧ (wFast.cl 0).vexc = false ∧
    ioBit 0x10 23 (wFast.cl 0) = true ∧ fastLevel (wFast.cl 0) = false ∧ ioBit 0x30 3 (wFast.cl 0) = true ∧
    ioBit 0x33 3 (wFast.cl 0) = true ∧ ioBit 0x36 3 (wFast.cl 0) = true ∧
    Issues 0 (wState (ioSetBit 0x10 22 true wc)) ∧ fastLevel ((wState (ioSetBit 0x10 22 true wc)).cl 0) = true := by
  refine ⟨?_, ?_, ?_, ?_, ?_, ?_, ?_, ?_, ?_, ?_, ?_, ?_, ?_, ?_, ?_, ?_, ?_, ?_⟩ <;> first | decide +kernel | (constructor <;> decide +kernel)

/-- Seven and eight windows resident, and one, with the save area at 0x300. -/
def wWin (k : Nat) : State := wState (ioPut 0x19 0x300 (ioSetFld 0x10 15 12 k wc))

theorem witness_Windows : (∀ k ∈ [1, 7, 8], seqOn 0 (wWin k) = true ∧ ioGet 0x1E ((wWin k).cl 0) = 0 ∧
      fastLevel ((wWin k).cl 0) = false ∧ ioBit 0x10 11 ((wWin k).cl 0) = false ∧ ((wWin k).cl 0).due = [] ∧
      wres ((wWin k).cl 0) = k ∧ (ioGet 0x19 ((wWin k).cl 0)).toNat = 0x300) ∧
    capHas (smAt CapV.null (ws.cl 0).special 1).bits permWS = true ∧
    capFault (smAt CapV.null (ws.cl 0).special 1) (lsAddr 0 0x300) 8 permWR = none ∧
    capFault (smAt CapV.null (ws.cl 0).special 1) (lsAddr 0 0x2F8) 8 permRD = none ∧
    OwnWords 0 0x300 8 (wWin 7) ∧ OwnWords 0 0x2F8 8 (wWin 1) :=
  ⟨by decide +kernel, by decide +kernel, by decide +kernel, by decide +kernel, ⟨by decide +kernel, by decide +kernel, by decide +kernel⟩, ⟨by decide +kernel, by decide +kernel, by decide +kernel⟩⟩

end Sys2Proof.Tests
end

