-- ==== Sys2Proof/Tests/Witness3.lean ====
section
/-!
SUPPORT. Tests/Witness3.lean: groups that meet the hypotheses of the statements about vector orders
(Certificates/Slice0/Obligations.lean), clause by clause. Their operands lie among the words fetched beforehand, so that
reading them changes nothing.
-/
namespace Sys2Proof.Tests

open Sys2Proof.Machine Sys2Proof.Claims

-- The kernel checks these theorems one after the other.
set_option Elab.async false

/-! ## Operands that are there already -/

/-- Word `k` of a stream, where it has been fetched. -/
def haveWord (g : Group) (x : Strm) (k : Nat) : Bool := (smAt none g.filled (fillKey x.pos x.role k)).isSome

theorem readWord_have {g : Group} {x : Strm} {k : Nat} (h : haveWord g x k = true) :
    ∃ v, ∀ n a e r, readWord n g x (some k) a e r = (v, true, r) := by
  obtain ⟨v, hv⟩ := Option.isSome_iff_exists.1 h
  exact ⟨v, fun n a e r => by simp [readWord, hv]⟩

/-- Where element `i` of a plain stream starts among the fetched words. -/
def elemKey (x : Strm) (i : Nat) : Option Nat := if x.bcast then some 0 else firstWords (i * x.w) x.w

/-- Element `i` of a stream has been fetched. -/
def haveElem (g : Group) (x : Strm) (i : Nat) : Bool :=
  !x.indexed && decide (x.d.mode ≠ 2) && (elemKey x i).any fun k => haveWord g x k && haveWord g x (k + 1)

theorem readAt_have {g : Group} {x : Strm} {k : Nat} (h : haveWord g x k = true) (h' : haveWord g x (k + 1) = true) :
    ∃ v, ∀ n a e r, readAt n g x (some k) a e r = (v, r) := by
  obtain ⟨v, hv⟩ := readWord_have h
  obtain ⟨u, hu⟩ := readWord_have h'
  refine ⟨if x.w = 1 then v.setWidth 48 else DWord.ofWords v u, fun n a e r => ?_⟩
  by_cases hw : x.w = 1 <;> simp [readAt, hv, hu, hw]

theorem readElem_have {g : Group} {x : Strm} {i : Nat} (h : haveElem g x i = true) :
    ∃ v, ∀ n e r, readElem n g x i e r = (v, r) := by
  simp only [haveElem, Bool.and_eq_true, Bool.not_eq_true', decide_eq_true_eq, Option.any_eq_true] at h
  obtain ⟨⟨hx, hm⟩, k, hk, h1, h2⟩ := h
  obtain ⟨v, hv⟩ := readAt_have h1 h2
  refine ⟨v, fun n e r => ?_⟩
  by_cases hb : x.bcast = true
  · simp only [elemKey, hb, if_true, Option.some.injEq] at hk
    simp [readElem, readPlain, hx, hm, hb, hk, hv]
  · simp only [elemKey, hb, Bool.false_eq_true, if_false] at hk
    simp [readElem, readPlain, hx, hm, hb, hk, hv]

/-- Operand `j` of an order takes no word from memory for its elements. -/
def haveOperand (g : Group) (q : QOrder) (j : Nat) : Bool :=
  (List.range g.n).all fun i => (decide (j = 1) && oCi q.bits) || decide (vopSrcs q.op < j) ||
    (roleOf (orderStreams g.n g.pos q) j).all fun x => haveElem g x i

theorem reads_have {g : Group} {q : QOrder} {j : Nat} (n : Cl) (W : Nat × Nat × Nat → Word) (s : State)
    (h : haveOperand g q j = true) : ∃ v, Reads n g q j v W s := by
  have key : ∀ i, ∃ v, ∀ r, i < g.n → operand n g (orderStreams g.n g.pos q) q j i r = (v, r) := by
    intro i
    by_cases hi : i < g.n
    · have h0 := List.all_eq_true.1 h i (List.mem_range.2 hi)
      simp only [Bool.or_eq_true, Bool.and_eq_true, decide_eq_true_eq] at h0
      rcases h0 with (h1 | h2) | h3
      · exact ⟨_, fun r _ => if_pos h1⟩
      · by_cases h1 : j = 1 ∧ oCi q.bits = true
        · exact ⟨_, fun r _ => if_pos h1⟩
        · exact ⟨0, fun r _ => by simp [operand, h1, h2]⟩
      · by_cases h1 : j = 1 ∧ oCi q.bits = true
        · exact ⟨_, fun r _ => if_pos h1⟩
        · by_cases h2 : vopSrcs q.op < j
          · exact ⟨0, fun r _ => by simp [operand, h1, h2]⟩
          · cases hr : roleOf (orderStreams g.n g.pos q) j with
            | none => exact ⟨0, fun r _ => by simp [operand, h1, h2, hr]⟩
            | some x =>
              rw [hr] at h3
              obtain ⟨v, hv⟩ := readElem_have (Option.all_some ▸ h3)
              exact ⟨v, fun r _ => by simp [operand, h1, h2, hr, hv]⟩
    · exact ⟨0, fun r h => absurd h hi⟩
  choose v hv using key
  exact ⟨v, fun i r hi _ hp => ⟨r.pk, hp, hv i r hi⟩⟩

theorem mask_have {g : Group} {q : QOrder} (n : Cl) (W : Nat × Nat × Nat → Word) (s : State) (h : oMsel q.bits ≤ 8) :
    ∃ m, Mask n g q m W s := by
  by_cases h0 : (!vopMasked q.op) = true ∨ oMsel q.bits = 0
  · exact ⟨fun _ => true, fun i r _ _ hp => ⟨r.pk, hp, by simp only [maskBit, h0, if_true]⟩⟩
  · refine ⟨fun i => (smAt 0 (s.cl n).masks (oMsel q.bits - 1)).getLsbD i, fun i r _ hr hp => ⟨r.pk, hp, ?_⟩⟩
    subst hr
    simp only [maskBit, h0, h, if_true, if_false]

/-- A destination that is not indexed lands where its descriptor says. -/
theorem lands_have {g : Group} {q : QOrder} (n : Cl) (W : Nat × Nat × Nat → Word) (s : State)
    (h : (roleOf (orderStreams g.n g.pos q) 0).all (fun x => !x.indexed) = true) : ∃ at', Lands n g q at' W s := by
  cases hr : roleOf (orderStreams g.n g.pos q) 0 with
  | none => exact ⟨fun _ => 0, fun x hx => by simp [hr] at hx⟩
  | some x =>
    refine ⟨fun j => (x.d.base.toNat : Int) + j * x.d.stride.toInt, fun y hy => ?_⟩
    obtain rfl : x = y := by simpa [hr] using hy
    have hi : x.indexed = false := by simpa [hr] using h
    simp [hi]

theorem bits_have {g : Group} {x : Strm} {k : Nat} (n : Cl) (s : State) (hk : k ≤ 24) (hm : x.d.mode = 2)
    (h : haveWord g x 0 = true) : ∃ v : Word, ReadsBits n g x k (fun _ => v) s := by
  obtain ⟨v, hv⟩ := readWord_have h
  refine ⟨v, hm, fun c i r hc _ => ?_⟩
  obtain rfl : c = 0 := by omega
  exact hv n _ i r

/-! ## Groups of one order -/

/-- A descriptor of VC0's local store at `off` with a length and a mode. -/
def wDesc (off len mode : Nat) : Desc := ⟨BitVec.ofNat 40 (lsAddr 0 off), 1, BitVec.ofNat 24 len, BitVec.ofNat 24 (mode * 2 ^ 16)⟩

/-- The type codes that an operation takes: F24, I24 or bits. -/
def wTy (v : VOp) : Nat := ([0, 2, 6].find? fun t => vopClasses v / 2 ^ tyClass t % 2 = 1).getD 0

/-- An order of the operation `v` with a mask selector, on descriptors 1 to 3 and into 0, with MD and MZ; VEXPD takes the
values passed on, so that its CI is 1, with MD = 2. -/
def wOrder (v : VOp) (msel : Nat) (mz : Bool) (md : Nat := 1) : Order96 :=
  let opc := ((vopTable.find? fun p => p.2 == v).map (·.1)).getD 0
  BitVec.ofNat 96 (opc * 2 ^ 86 + wTy v * 2 ^ 82 + 1 * 2 ^ 74 + 2 * 2 ^ 70 + 3 * 2 ^ 66 + msel * 2 ^ 62 + 2 ^ 61 + md * 2 ^ 24 +
    mz.toNat * 2 ^ 43 + (if v = .vexpd ∧ md = 2 then 2 ^ 59 else 0))

/-- That order with copied descriptors: those of the first source and the destination in modes of their own. -/
def wQ (v : VOp) (msel : Nat) (mz : Bool) (m0 m1 m3 : Nat) (md : Nat := 1) : QOrder :=
  ⟨wOrder v msel mz md, 0x100, 0, [(0, wDesc 0x500 2 m0, CapV.null), (1, wDesc 0x200 2 m1, CapV.null),
    (2, wDesc 0x300 2 0, CapV.null), (3, wDesc 0x400 2 m3, CapV.null)]⟩

/-- The running group of that order, two elements long, whose words have all been fetched, before its first order runs. -/
def wG0 (v : VOp) (msel : Nat) (mz : Bool) (m0 m1 m3 : Nat) (seg : Word) (md : Nat := 1) : Group :=
  { newGroup 1 none [wQ v msel mz m0 m1 m3 md] false false 0 with
    phase := .running
    n := 2
    wset := []
    filled := ((List.range 8).map fun k => (fillKey 0 1 k, some (BitVec.ofNat 24 (5 + 7 * k)))) ++
      ((List.range 8).map fun k => (fillKey 0 2 k, some (if k = 1 then 0x7FFFFF else BitVec.ofNat 24 (9 + k)))) ++
      ((List.range 8).map fun k => (fillKey 0 3 k, some seg)) }

/-- The state in which that group is the only one, and mask register 1 holds 0x5A5. -/
def wV (v : VOp) (msel : Nat) (mz : Bool) (m0 m1 m3 : Nat) (seg : Word) (md : Nat := 1) : State :=
  wState { wc with groups := [wG0 v msel mz m0 m1 m3 seg md], masks := [(1, 0x5A5)] }

/-- The group as it runs its first order: with the words that it may write. -/
def wG (v : VOp) (msel : Nat) (mz : Bool) (m0 m1 m3 : Nat) (seg : Word) (md : Nat := 1) : Group :=
  let g := wG0 v msel mz m0 m1 m3 seg md
  { g with wset := writeSet 0 g (wV v msel mz m0 m1 m3 seg md) }

/-- A group `g` that stands for `h` of the state and runs, as the statements take it. -/
def wRuns (h g : Group) (q : QOrder) (s : State) : Bool :=
  decide (group? 0 1 s = some h) && decide (h.pos = 0) && clocked 0 s && microDone 0 g s && decide (g.orders[g.pos]? = some q) &&
    decide (g.phase = .running) && !pausedGroup 0 g s && decide (g.exc = none) && decide (g.trapen = 0) && decide (0 < g.n)

theorem wRuns_runs {h g : Group} {q : QOrder} {s : State} (hg : g = { h with wset := writeSet 0 h s }) (hw : wRuns h g q s = true) :
    Runs 0 1 g q s := by
  simp only [wRuns, Bool.and_eq_true, decide_eq_true_eq, Bool.not_eq_true'] at hw
  obtain ⟨⟨⟨⟨⟨⟨⟨⟨⟨h1, hp⟩, hc⟩, hm⟩, h2⟩, h3⟩, h4⟩, h5⟩, h6⟩, h7⟩ := hw
  exact ⟨hc, ⟨h, h1, by rw [if_pos hp]; exact hg⟩, h2, h3, h4, hm, h5, h6, h7⟩

/-- The checks on a group of one order: it runs, its operation is `v`, its first `k` operands are there. -/
def wReady (v : VOp) (js : List Nat) (msel : Nat) (mz : Bool) (m0 m1 m3 : Nat) (seg : Word) (md : Nat := 1) :
    Bool :=
  let g := wG v msel mz m0 m1 m3 seg md
  let q := wQ v msel mz m0 m1 m3 md
  wRuns (wG0 v msel mz m0 m1 m3 seg md) g q (wV v msel mz m0 m1 m3 seg md) && decide (q.op = v) && js.all (haveOperand g q) && decide (oMsel q.bits ≤ 8) &&
    (roleOf (orderStreams g.n g.pos q) 0).all fun x => !x.indexed

theorem wReady_runs {v : VOp} {js : List Nat} {msel : Nat} {mz : Bool} {m0 m1 m3 : Nat} {seg : Word} {md : Nat}
    (W : Nat × Nat × Nat → Word) (h : wReady v js msel mz m0 m1 m3 seg md = true) :
    let g := wG v msel mz m0 m1 m3 seg md
    let q := wQ v msel mz m0 m1 m3 md
    let s := wV v msel mz m0 m1 m3 seg md
    Runs 0 1 g q s ∧ q.op = v ∧ (∃ m, Mask 0 g q m W s) ∧ (∃ at', Lands 0 g q at' W s) ∧ ∀ j ∈ js, ∃ a, Reads 0 g q j a W s := by
  simp only [wReady, Bool.and_eq_true, decide_eq_true_eq] at h
  obtain ⟨⟨⟨⟨h1, h2⟩, h3⟩, h4⟩, h5⟩ := h
  exact ⟨wRuns_runs rfl h1, h2, mask_have _ _ _ h4, lands_have _ _ _ h5, fun j hj => reads_have _ _ _ (List.all_eq_true.1 h3 j hj)⟩

/-- Every elementwise order, VSEL too, masked by register 1 with MZ 0 and 1, has all its hypotheses met (wReady_runs). -/
theorem witness_ElementOrders : ∀ v ∈ VOp.vsel :: elementOps.map (·.1), ∀ mz : Bool,
    wReady v [1, 2, 3] 2 mz 0 0 0 0 = true ∧
    (roleOf (orderStreams 2 0 (wQ v 2 mz 0 0 0)) 0).all (fun x => decide (x.d.mode = 0)) = true := by decide +kernel

theorem readAt_word {g : Group} {x : Strm} {k : Nat} {v : Word} (h : smAt none g.filled (fillKey x.pos x.role k) = some v)
    (hw : x.w = 1) (n : Cl) (a : Int) (e : Nat) (r : Run) : readAt n g x (some k) a e r = (v.setWidth 48, r) := by
  simp [readAt, readWord, h, hw]

/-- A VINTP whose table has been fetched with an INVH that is no number takes every element from it alone (R89, R121). -/
theorem intp_have {g : Group} {q : QOrder} {x : Strm} {u v : DWord} (n : Cl) (a : Nat → DWord) (s : State)
    (hx : roleOf (orderStreams g.n g.pos q) 2 = some x) (hu : ∀ n b e r, readAt n g x (some 0) b e r = (u, r))
    (hv : ∀ n b e r, readAt n g x (some x.w) b e r = (v, r)) (hn : isNan (tyFmt (oTy q.bits)) v = true) :
    ∃ e : Nat → DWord × Fl, ∀ i r, i < g.n → r.s = s → runIntp n g (orderStreams g.n g.pos q) q i (a i) r = (e i, r) := by
  have hs : ∀ b : DWord, ∃ e : DWord × Fl, intpStep (tyFmt (oTy q.bits)) (oRnd q.bits) x.cnt b u v = .done e := by
    intro b
    have hf : ([b, u, v].find? (isNan (tyFmt (oTy q.bits)))).isSome = true := by simp [List.find?_isSome, hn]
    obtain ⟨y, hy⟩ := Option.isSome_iff_exists.1 hf
    refine ⟨?_, ?_⟩
    · exact (quiet (tyFmt (oTy q.bits)) y, if [b, u, v].any (isSnan (tyFmt (oTy q.bits))) = true then flNV else 0)
    · simp only [intpStep, nanOf, hy]
  choose e he using hs
  exact ⟨fun i => e (a i), fun i r _ _ => by simp only [runIntp, hx, hu, hv, he]⟩

theorem witness_Interpolation : ∃ (g : Group) (q : QOrder) (a c : Nat → DWord) (m : Nat → Bool) (at' : Nat → Int)
    (W : Nat × Nat × Nat → Word) (e : Nat → DWord × Fl) (s : State),
    Runs 0 1 g q s ∧ q.op = .vintp ∧ Mask 0 g q m W s ∧ Reads 0 g q 1 a W s ∧ Reads 0 g q 3 c W s ∧ Lands 0 g q at' W s ∧
    ∀ i r, i < g.n → r.s = s → runIntp 0 g (orderStreams g.n g.pos q) q i (a i) r = (e i, r) := by
  have hr := wReady_runs (v := .vintp) (js := [1, 3]) (msel := 2) (mz := false) (m0 := 0) (m1 := 0) (m3 := 0) (seg := 0)
    (md := 1) (fun _ => 0) (by decide +kernel)
  obtain ⟨h1, h2, ⟨m, hm⟩, ⟨at', hl⟩, h3⟩ := hr
  obtain ⟨a, ha⟩ := h3 1 (by simp)
  obtain ⟨c, hc⟩ := h3 3 (by simp)
  have hx : roleOf (orderStreams 2 0 (wQ .vintp 2 false 0 0 0)) 2 = some ⟨0, 2, wDesc 0x300 2 0, CapV.null, 1, false, false, 2,
    true, true, (wDesc 0x500 2 0, CapV.null)⟩ := by decide +kernel
  obtain ⟨e, he⟩ := intp_have (g := wG .vintp 2 false 0 0 0 0) (q := wQ .vintp 2 false 0 0 0) (u := (9 : Word).setWidth 48)
    (v := (0x7FFFFF : Word).setWidth 48) 0 a
    (wV .vintp 2 false 0 0 0 0) hx
    (readAt_word (by decide +kernel) rfl)
    (readAt_word (by decide +kernel) rfl)
    (by decide +kernel)
  exact ⟨_, _, a, c, m, at', _, e, _, h1, h2, hm, ha, hc, hl, he⟩

/-- Every reduction, with segment bits of 0. -/
theorem witness_Reductions : ∀ p ∈ reduceOps,
    wReady p.1 [1, 2] 2 false 0 0 2 0 = true ∧
    (roleOf (orderStreams 2 0 (wQ p.1 2 false 0 0 2)) 0).any (fun x => decide (x.d.mode = 0 ∧ 0 < x.cnt)) = true ∧
    (roleOf (orderStreams 2 0 (wQ p.1 2 false 0 0 2)) 3).all (fun x => decide (x.d.mode = 2) &&
      decide (smAt none (wG p.1 2 false 0 0 2 0).filled (fillKey x.pos x.role 0) = some 0)) = true := by decide +kernel

/-- VCMP, MLD from packed bits, MST into packed bits, MCNT, VCMPR and VEXPD. -/
theorem witness_MasksAndSelection :
    (∀ mz : Bool, wReady .vcmp [1, 2] 2 mz 0 0 0 0 = true ∧ oMd (wOrder .vcmp 2 mz) = 1) ∧
    (wReady .vcmp [1, 2] 2 false 2 0 0 0 15 = true ∧ oMd (wOrder .vcmp 2 false 15) = 15 ∧
      (roleOf (orderStreams 2 0 (wQ .vcmp 2 false 2 0 0 15)) 0).any (fun x => decide (x.d.mode = 2)) = true) ∧
    (wReady .mld [] 2 true 0 2 0 0 = true ∧ oMd (wOrder .mld 2 true) = 1 ∧ oCi (wOrder .mld 2 true) = false ∧
      (roleOf (orderStreams 2 0 (wQ .mld 2 true 0 2 0)) 1).any (fun x => decide (x.d.mode = 2) &&
        haveWord (wG .mld 2 true 0 2 0 0) x 0) = true) ∧
    (wReady .mst [] 0 false 2 0 0 0 = true ∧
      (roleOf (orderStreams 2 0 (wQ .mst 0 false 2 0 0)) 0).any (fun x => decide (x.d.mode = 2)) = true) ∧
    (wReady .mcnt [] 0 false 0 0 0 0 = true ∧
      (roleOf (orderStreams 2 0 (wQ .mcnt 0 false 0 0 0)) 0).any (fun x => decide (x.d.mode = 0)) = true) ∧
    (wReady .vcmpr [1] 2 false 0 0 0 0 = true ∧
      (roleOf (orderStreams 2 0 (wQ .vcmpr 2 false 0 0 0)) 0).any (fun x => decide (x.d.mode = 0 ∧ 2 ≤ x.cnt)) = true) ∧
    (∀ mz : Bool, wReady .vexpd [] 2 mz 0 0 0 0 = true ∧ oCi (wOrder .vexpd 2 mz) = false ∧
      (roleOf (orderStreams 2 0 (wQ .vexpd 2 mz 0 0 0)) 0).all (fun x => decide (x.d.mode = 0)) = true ∧
      (roleOf (orderStreams 2 0 (wQ .vexpd 2 mz 0 0 0)) 1).any (fun x => decide (2 ≤ x.cnt) &&
        (List.range x.cnt).all (haveElem (wG .vexpd 2 mz 0 0 0 0) x)) = true) ∧
    (wReady .vexpd [] 2 false 0 0 0 0 2 = true ∧ oCi (wOrder .vexpd 2 false 2) = true) := by decide +kernel

end Sys2Proof.Tests
end

