-- ==== Sys2Proof/Tests/Witness2.lean ====
section
/-!
SUPPORT. Tests/Witness2.lean: states and operands that meet the hypotheses of the statements about SWITCH, capabilities,
floating point, orders and groups (Certificates/Slice0/Obligations.lean), clause by clause.
-/
namespace Sys2Proof.Tests

open Sys2Proof.Machine Sys2Proof.Claims

-- The kernel checks these theorems one after the other.
set_option Elab.async false

/-! ## A context switch -/

/-- The capability over VCn's local store with all permissions but GLB and IO that Hardpan mints under tag secret 0. -/
def wCap : Cap := 9739054457072371441487314944#96

/-- The incoming record: PC 0x80, window 2, IE, CC 5, x15, SEQ_WSP 0x300, both capabilities, FPA, the loop registers. -/
def wRec : List Word :=
  [0x80, 0x820005, 0x2000, 0x300] ++ (List.range 4).map (capWord wCap) ++ (List.range 4).map (capWord wCap) ++ [0x1000, 3, 0, 0]

/-- The record stands at 0x100 (the sequencer and the window engine have made requests, R169), SEQ_CTX names 0x200 and SEQ_WSP 0x500, the outgoing context has an FP area. -/
def wSw : State :=
  (List.range 16).foldl (fun s i => memPut (lsAddr 0 (0x100 + i)) (wRec.getD i 0) s)
    (wState (ioPut 0x1A 0x200 (ioPut 0x19 0x500 (ioPut 0x1B 0x1800 (ioSetFld 0x10 15 12 2
      { wc with conf := [9, 10], special := [(0, ⟨wCap, true⟩), (1, ⟨wCap, true⟩)] })))))

/-- What a step of a SWITCH leaves where it goes ahead. -/
def stepState : SwStep → State
  | .ok t => t
  | _ => State.reset

def stepOk : SwStep → Bool
  | .ok _ => true
  | _ => false

theorem stepOk_ok (r : SwStep) (h : stepOk r = true) : r = .ok (stepState r) := by cases r <;> first | rfl | cases h

def storeState : StoreRes → State
  | .ok t => t
  | _ => State.reset

def storeOk : StoreRes → Bool
  | .ok _ => true
  | _ => false

theorem storeOk_ok (r : StoreRes) (h : storeOk r = true) : r = .ok (storeState r) := by cases r <;> first | rfl | cases h

def readIs (ws : List Word) (s : State) : ReadRes → Bool
  | .ok vs t => decide (vs = ws) && decide (t = s)
  | _ => false

theorem readIs_ok (ws : List Word) (s : State) (r : ReadRes) (h : readIs ws s r = true) : r = .ok ws s := by
  cases r <;> simp_all [readIs]

def swT : State := stepState (swSpill 0 (wres (wSw.cl 0)) wSw)
def swU : State := stepState (swReserve 0 swT)
def swSave : StoreRes :=
  directStore 0 (cGet (wSw.cl 0) 2) (ioGet 0x1A (swU.cl 0)) (swRecord ((swU.cl 0).pc + 1) (swU.cl 0)) swU
def swV : State := storeState swSave
def swLoad : StoreRes := fillLoad 0 (fld 18 16 (wRec.getD 1 0)) (swV.modCl 0 (swCommit wRec 0x100 ⟨wCap, true⟩ ⟨wCap, true⟩))

theorem switch_record : directLoad 0 (cGet (wSw.cl 0) 2) 0x100 16 wSw = .ok wRec wSw := readIs_ok _ _ _ (by decide +kernel)
theorem cap_ok : loadCap wSw wCap = some ⟨wCap, true⟩ := by decide +kernel
theorem switch_c15 : recordCap wRec 4 permSTK wSw = .ok ⟨wCap, true⟩ := by
  rw [recordCap, show capOfList (wRec.drop 4) = wCap by decide +kernel, cap_ok]
  simp [show capHas wCap permSTK = true by decide +kernel]
theorem switch_wsave : recordCap wRec 8 permWS wSw = .ok ⟨wCap, true⟩ := by
  rw [recordCap, show capOfList (wRec.drop 8) = wCap by decide +kernel, cap_ok]
  simp [show capHas wCap permWS = true by decide +kernel]
theorem switch_spill : swSpill 0 (wres (wSw.cl 0)) wSw = .ok swT := stepOk_ok _ (by decide +kernel)
theorem switch_reserve : swReserve 0 swT = .ok swU := stepOk_ok _ (by decide +kernel)
theorem switch_save :
    directStore 0 (cGet (wSw.cl 0) 2) (ioGet 0x1A (swU.cl 0)) (swRecord ((swU.cl 0).pc + 1) (swU.cl 0)) swU = .ok swV :=
  storeOk_ok swSave (by decide +kernel)
theorem switch_load :
    fillLoad 0 (fld 18 16 (wRec.getD 1 0)) (swV.modCl 0 (swCommit wRec 0x100 ⟨wCap, true⟩ ⟨wCap, true⟩)) = .ok (storeState swLoad) :=
  storeOk_ok swLoad (by decide +kernel)

/-- The steps of the SWITCH at this record go ahead: switch_record to switch_load. -/
theorem witness_Switch : Issues 0 wSw ∧ ioBit 0x10 21 (wSw.cl 0) = false ∧ (wSw.cl 0).sbuf = [] ∧ xGet (wSw.cl 0) 2 = 0x100 :=
  ⟨by constructor <;> decide +kernel, by decide +kernel, by decide +kernel, by decide +kernel⟩

/-- With one window resident the record, both save areas and the outgoing record are own words that their capabilities
cover: 0x100, SEQ_WSP 0x500, SEQ_CTX 0x200, and 0x2F8 below the record's SEQ_WSP. -/
def wSw1 : State := wSw.modCl 0 (ioSetFld 0x10 15 12 1)

theorem witness_SwitchGoesAhead : Issues 0 wSw1 ∧ ioBit 0x10 21 (wSw1.cl 0) = false ∧ (wSw1.cl 0).sbuf = [] ∧ wres (wSw1.cl 0) = 1 ∧
    ioGet 0x1B (wSw1.cl 0) ≠ 0xFFFFFF ∧ xGet (wSw1.cl 0) 2 = 0x100 ∧ ioGet 0x19 (wSw1.cl 0) = 0x500 ∧ ioGet 0x1A (wSw1.cl 0) = 0x200 ∧
    memGet (lsAddr 0 0x103) wSw1 = 0x300 ∧
    (∀ k ∈ [0x104, 0x108], capOfWords (memGet (lsAddr 0 k) wSw1) (memGet (lsAddr 0 (k + 1)) wSw1) (memGet (lsAddr 0 (k + 2)) wSw1)
      (memGet (lsAddr 0 (k + 3)) wSw1) = wCap) ∧
    loadCap wSw1 wCap = some ⟨wCap, true⟩ ∧ capHas wCap permSTK = true ∧ capHas wCap permWS = true ∧
    capHas (smAt CapV.null (wSw1.cl 0).special 1).bits permWS = true ∧
    capFault (cGet (wSw1.cl 0) 2) (lsAddr 0 0x100) 16 permRD = none ∧ capFault (smAt CapV.null (wSw1.cl 0).special 1) (lsAddr 0 0x500) 8 permWR = none ∧
    capFault (cGet (wSw1.cl 0) 2) (lsAddr 0 0x200) 16 permWR = none ∧ capFault ⟨wCap, true⟩ (lsAddr 0 0x2F8) 8 permRD = none := by
  refine ⟨?_, ?_, ?_, ?_, ?_, ?_, ?_, ?_, ?_, ?_, ?_, ?_, ?_, ?_, ?_, ?_, ?_, ?_⟩ <;> first | decide +kernel | (constructor <;> decide +kernel)

theorem witness_SwitchOwnWords : OwnWords 0 0x100 16 wSw1 ∧ OwnWords 0 0x500 8 wSw1 ∧ OwnWords 0 0x200 16 wSw1 ∧ OwnWords 0 0x2F8 8 wSw1 :=
  ⟨⟨by decide +kernel, by decide +kernel, by decide +kernel⟩, ⟨by decide +kernel, by decide +kernel, by decide +kernel⟩,
    ⟨by decide +kernel, by decide +kernel, by decide +kernel⟩, ⟨by decide +kernel, by decide +kernel, by decide +kernel⟩⟩

/-! ## Capability words, floating point -/

/-- The capability words from c14, which holds every permission, and CSPR and CSPW through c12. -/
theorem witness_CapabilityWords : Issues 0 ws ∧ (cGet (ws.cl 0) 14).valid = true ∧
    (∀ w ∈ [0, 8], (xGet (ws.cl 0) 2).toNat * 2 ^ w + (xGet (ws.cl 0) 3).toNat * 2 ^ w ≤ capLen (cGet (ws.cl 0) 14).bits) ∧
    (ws.cl 0).sbuf = [] ∧
    (∀ w ∈ [0, 1, 2], ioFault (cGet (ws.cl 0) (ioFld 0x0 3 0 (ws.cl 0))) (0x3C + w) permRD = none ∧
      ioFault (cGet (ws.cl 0) (ioFld 0x0 3 0 (ws.cl 0))) (0x3C + w) permWR = none) ∧
    capHas (cGet (ws.cl 0) 14).bits permENT = true ∧ capHas (cGet (ws.cl 0) 14).bits permWS = true :=
  ⟨issues_ws, by decide +kernel, by decide +kernel, by decide +kernel, by decide +kernel, by decide +kernel, by decide +kernel⟩

/-- CBND and CPERM derive here: the state above, whose c14 ends within the address space. -/
theorem witness_DerivedCapabilities : Issues 0 ws ∧
    capBase (cGet (ws.cl 0) 14).bits + capLen (cGet (ws.cl 0) 14).bits ≤ 2 ^ 40 := ⟨issues_ws, by decide +kernel⟩

theorem fpReady_ws : FpReady 0 ws := ⟨by decide +kernel, by decide +kernel⟩

/-- 1 / 0 in F48 with the trap of DZ enabled: flag 1 of the result. -/
def wDz : State := wState (ioPut 0x1 0x1F00 (ioSetBit 0x10 20 true { wc with fregs := [(1, 0x3FF000000000)] }))

theorem witness_ScalarFp : Issues 0 ws ∧ FpReady 0 ws ∧ Issues 0 wDz ∧ ioBit 0x10 20 (wDz.cl 0) = true ∧
    ∃ i < 5, bitOf i (fElem .vdiv f48 (ioFld 0x1 17 16 (wDz.cl 0)) (fOperand .f48 (wDz.cl 0) 1) (fOperand .f48 (wDz.cl 0) 0) 0 0).2 = true ∧
      bitOf (8 + i) (ioGet 0x1 (wDz.cl 0)) = true :=
  ⟨issues_ws, fpReady_ws, by constructor <;> decide +kernel, by decide +kernel, by decide +kernel⟩

theorem witness_FpConversions : Issues 0 ws ∧ FpReady 0 ws := ⟨issues_ws, fpReady_ws⟩

/-! ## Orders and groups -/

/-- VFILL of scalar 0 into the stream of descriptor 0, with CG = 1. -/
def wFill : Order96 := BitVec.ofNat 96 (((vopTable.find? fun p => p.2 == .vfill).map (·.1)).getD 0 * 2 ^ 86 + 2 ^ 61)

/-- Set 3 in build, from slot 5 of the order store, with no order in it yet, or with three. -/
def wBuild (k : Nat) : State := wState (ioSetBit 0x10 20 true (ioSetFld 0x193 9 5 k (ioPut 0x193 0xA0002 wc)))

theorem witness_Orders : Issues 0 ws ∧ (ws.cl 0).pc.toNat + 4 ≤ 0x4000 ∧ ioBit 0x10 20 (ws.cl 0) = true ∧
    queueOrders (ws.cl 0) < 16 ∧ (ws.cl 0).forming.length < 6 ∧
    oCg (wFill) = true ∧ oCg (wFill &&& ~~~(BitVec.ofNat 96 (2 ^ 61))) = false ∧
    (∀ k ∈ [0, 1, 3], groupFault [⟨withIss k (wFill), 0x100, orderK (ws.cl 0) (withIss k (wFill)),
      copyDescs (regDesc (ws.cl 0)) (withIss k (wFill))⟩] = none) :=
  ⟨issues_ws, by decide +kernel, by decide +kernel, by decide +kernel, by decide +kernel, by decide +kernel, by decide +kernel,
    by decide +kernel⟩

theorem witness_Append : ∀ k ∈ [0, 3], Issues 0 (wBuild k) ∧ setBuild 3 ((wBuild k).cl 0) = true ∧
    (∀ j : Set8, j < 3 → setBuild j ((wBuild k).cl 0) = false) ∧ setCount 3 ((wBuild k).cl 0) = k ∧
    (∀ j : Set8, j ≠ 3 → setBuilt j ((wBuild k).cl 0) = true →
      setStart 3 ((wBuild k).cl 0) + setCount 3 ((wBuild k).cl 0) < setStart j ((wBuild k).cl 0)) := by
  intro k hk
  simp only [List.mem_cons, List.not_mem_nil, or_false] at hk
  rcases hk with rfl | rfl <;> exact ⟨by constructor <;> decide +kernel, by decide +kernel, by decide +kernel, by decide +kernel, by decide +kernel⟩

/-- A group of one VFILL into VC0's local store that waits, was abandoned or was displaced. -/
def wStart (p : GPhase) : Group :=
  newGroup 1 none [⟨wFill, 0x100, 0, [(0, wDesc 0x500 2 0, ⟨capOfWords 0 0 (BitVec.ofNat 24 (2 ^ 10)) 0x3000, true⟩)]⟩]
    false false 0 |> fun g => { g with phase := p }

def wStartState (p : GPhase) : State := wState { wc with groups := [wStart p] }

theorem witness_GroupStarts : ∀ p ∈ [GPhase.waiting, .abandoned, .displaced],
    group? 0 1 (wStartState p) = some (wStart p) ∧ (mayStart (stuckGroup 0 (wStartState p)) (wStart p) ((wStartState p).cl 0)).isSome = true ∧
    groupN (wStart p).orders = 2 ∧ groupFault (wStart p).orders = none ∧ openFault 0 (wStart p) 2 (wStartState p) = none ∧
    pausedGroup 0 (wStart p) (wStartState p) = false ∧
    microQuiet (activeHalf 0 (wStartState p)) ((wStartState p).cl 0) = true ∧
    (groupStreams 2 (wStart p).orders).filter (fun x => x.bcast || x.tab) = [] := by decide +kernel

/-- With nothing to read at its open a group's streams leave the run as it is. -/
theorem openReads_nothing {n : Cl} {g : Group} {r : Run}
    (h : (groupStreams g.n g.orders).filter (fun x => x.bcast || x.tab) = []) :
    openReads n g r = (r, g.filled) := by rw [openReads, h]; rfl

/-- A running group with two buffered words of one row and one of the next, one whose orders are over, and a held exception. -/
def wDrainG : Group :=
  { wStart .running with
    n := 2
    pos := 1
    wbuf := [⟨0, 0, lsAddr 0 0x501, 7⟩, ⟨0, 0, lsAddr 0 0x502, 8⟩, ⟨0, 1, lsAddr 0 0x504, 9⟩] }

def wDrain : State := wState { wc with groups := [wDrainG] }

def wDoneG : Group := { wStart .running with n := 2, pos := 1, notify := true, masks := [(1, some 5)] }

def wDone : State := wState { wc with groups := [wDoneG] }

def wExc : ExcRec := excOf (wStart .running) 5 0 6 1 0 flDZ

theorem witness_GroupsRunAndEnd :
    (group? 0 1 wDrain = some wDrainG ∧ wDrainG.phase = .running ∧ pausedGroup 0 wDrainG wDrain = false ∧
      microDone 0 wDrainG wDrain = true ∧ wDrainG.wbuf.head?.map (·.addr) = some (lsAddr 0 0x501) ∧
      (drainRow wDrainG).map (·.addr) = [lsAddr 0 0x501, lsAddr 0 0x502] ∧
      ∀ w ∈ drainRow wDrainG, smAt 0 wDrainG.wby w.addr ∈ [0, w.pos + 1]) ∧
    OwnWords 0 (0x501 / 4 * 4) 4 wDrain ∧
    (group? 0 1 wDone = some wDoneG ∧ wDoneG.phase = .running ∧ wDoneG.pos = wDoneG.orders.length ∧ wDoneG.wbuf = [] ∧
      wDoneG.exc = none ∧ microDone 0 wDoneG wDone = true ∧ wDoneG.notify = true ∧ wDoneG.masks = [(1, some 5)]) ∧
    wExc.cause ≠ 6 ∧ ioBit 0x1C0 23 ((wState { wc with heldExc := [wExc] }).cl 0) = false :=
  ⟨by decide +kernel, ⟨by decide +kernel, by decide +kernel, by decide +kernel⟩, by decide +kernel, by decide +kernel,
    by decide +kernel⟩

end Sys2Proof.Tests
end

