-- ==== Sys2Proof/Tests/Witness4.lean ====
section
/-!
SUPPORT. Tests/Witness4.lean: states and operands that meet the hypotheses of the statements about standing sets, time, the
frame grid, microcode, plots, movers and scrubbing (Certificates/Slice0/Obligations.lean), clause by clause.
-/
namespace Sys2Proof.Tests

open Sys2Proof.Machine Sys2Proof.Claims

-- The kernel checks these theorems one after the other.
set_option Elab.async false

/-- The state that a command leaves. -/
def after (o : Out) : State :=
  match o with
  | .next t => t
  | _ => State.reset

/-! ## Standing sets -/

/-- Set 3 in build with one VFILL in slot 5. -/
def wSetB : State := wState { ioPut 0x193 0x1422 wc with ostore := [(5, wFill)] }

/-- That set built, armed, with its event waiting while the grid runs. -/
def wSetC : State := after (execSetBuildClose 0 3 wSetB)
def wSetA : State := after (execSetArm 0 3 wSetC)
def wSetF : State := hubSetBit 0x100A 11 true { wSetA.modCl 0 (ioSetBit 0x19B 10 false) with ev := { wSetA.ev with taskIn := [taskSet 0 3] } }
def wSetR : State := wSetF.modCl 0 (ioSetBit 0x1A3 2 true)

theorem witness_SetLife : setArm 3 ((wState wc).cl 0) = false ∧ setBuild 3 ((wState wc).cl 0) = false ∧
    (∀ j : Set8, setBuild j ((wState wc).cl 0) = false) ∧
    setArm 3 (wSetB.cl 0) = false ∧ setBuild 3 (wSetB.cl 0) = true ∧
    closeFault (setOrders (regDesc (wSetB.cl 0)) 3 (wSetB.cl 0)) = none ∧
    setArm 3 (wSetC.cl 0) = false ∧ setBuild 3 (wSetC.cl 0) = false ∧ setBuilt 3 (wSetC.cl 0) = true ∧
    setArm 3 (wSetA.cl 0) = true ∧ setBuild 3 (wSetA.cl 0) = false ∧
    setBuilt 3 (wSetA.cl 0) = true ∧ microQuiet (activeHalf 0 wSetA) (wSetA.cl 0) = true ∧
    (∀ s ∈ [wState wc, wSetB, wSetC, wSetA], clocked 0 s = true) := by decide +kernel

theorem witness_SetFires : ∀ s ∈ [wSetF, wSetR], clocked 0 s = true ∧ isolated 0 s = false ∧ taskSet 0 3 ∈ s.ev.taskIn ∧ gridRun s = true ∧ holdActive s = false ∧
    setsStopped (s.cl 0) = false ∧ setArm 3 (s.cl 0) = true ∧ setTick 3 (s.cl 0) = false ∧ (Machine.setOf 3 (s.cl 0)).pre = none ∧
    microQuiet (activeHalf 0 s) (s.cl 0) = true := by decide +kernel

theorem witness_SetRunningOrNot : setRunning 3 (wSetF.cl 0) = false ∧ setRunning 3 (wSetR.cl 0) = true := by decide +kernel

/-- That set armed to the frame tick with PREOPEN, one ns before a tick of a frame period of 500 ns. -/
def wSetP : State := hubPut 0x1010 500 { (wSetF.modCl 0 fun c => ioSetBit 0x193 4 true (ioSetBit 0x19B 10 true c)) with ns := 499, ticks := 100 }

/-- The pre-open instant lies 21 to 34 base ticks ahead of its edge. -/
theorem preopen_near (n : Cl) : 21 ≤ preopenNs n ∧ preopenNs n ≤ 34 := by
  have := (Config.preopenLead n.val).isLt
  unfold preopenNs
  omega

theorem witness_PreOpen : clocked 0 wSetP = true ∧ (wSetP.cl 0).aux = [] ∧ setArm 3 (wSetP.cl 0) = true ∧ setPreopens 3 (wSetP.cl 0) = true ∧ (Machine.setOf 3 (wSetP.cl 0)).pre = none ∧
    gridRun wSetP = true ∧ setsStopped (wSetP.cl 0) = false ∧ microQuiet (activeHalf 0 wSetP) (wSetP.cl 0) = true ∧
    (∀ g ∈ setGroups 3 (takeStaged (fun _ => true) 3 (wSetP.cl 0)), ∀ x ∈ groupStreams (groupN g.2.orders) g.2.orders, x.wr = true) := by
  decide +kernel

theorem witness_PreOpenTime : preopenTime 0 wSetP = true ∧ tickSet 0 3 (preopenEdge wSetP) (wSetP.cl 0) = true := by
  have h := preopen_near 0
  have h1 : isFrameTick 0 (frameOfTime wSetP + 1) wSetP = true ∧ nextTickNs wSetP = 500 ∧ wSetP.ns.toNat = 499 ∧
      (Machine.setOf 3 (wSetP.cl 0)).armedAt.toNat = 0 ∧ preopenEdge wSetP = 101 ∧ setArm 3 (wSetP.cl 0) = true ∧
      setTick 3 (wSetP.cl 0) = true ∧ setBuilt 3 (wSetP.cl 0) = true := by decide +kernel
  obtain ⟨a, b, c, d, e, f, g, k⟩ := h1
  refine ⟨?_, ?_⟩
  · rw [preopenTime, a, b, c]
    simp
    omega
  · rw [tickSet, d, e, f, g, k]
    simp
    right
    omega

/-! ## Time base and frame grid -/

/-- The device in ARMED at 12345 ns, and the same with a STEP waiting, the grid stopped or running. -/
def wT : State := setMode 5 { State.reset with ns := 12345 }
def wTStep : State := hubSetBit 0x100A 0 true wT
def wTRun : State := hubSetBit 0x100A 11 true wTStep

theorem witness_BaseTicks : (∀ s ∈ [wT, wTStep, wTRun], mode s ≠ 0 ∧ mode s ≠ 1 ∧ s.pwr.trip = false ∧ s.pwr.safeDue = false) ∧
    hubBit 0x100A 0 wT = false ∧ hubBit 0x100A 0 wTStep = true ∧ hubBit 0x100A 0 wTRun = true ∧ gridRun wTStep = false ∧
    gridRun wTRun = true := by decide +kernel

/-- A replica that is right, one that is wrong at a beacon, and one at the beacon of a STEP. -/
theorem witness_LocalTime : wT.tb.stepBeacon = false ∧ ¬ (wT.ns.toNat % 1000 = 0 ∧ (wT.cl 0).localNs + 1 ≠ wT.ns) ∧
    (let s : State := { wT with ns := 13000 }; s.tb.stepBeacon = false ∧ s.ns.toNat % 1000 = 0 ∧ (s.cl 0).localNs + 1 ≠ s.ns) ∧
    { wT with tb := { wT.tb with stepBeacon := true } }.tb.stepBeacon = true ∧ clocked 0 wT = true ∧ (wT.cl 0).aux = [] := by decide +kernel

def wRef : State := after (execReferenceReturn .trefA wT)

/-- TREF_A present for 1 ms with REVERT, and a follower of SYNC_IN. -/
def wRevert : State := hubSetBit 0x100C 7 true { wRef with ticks := 2000000 }

theorem witness_References : gridRun wT = false ∧ gridRun wTRun = true ∧ smAt false wT.tb.refPresent (refNum .trefA) = false ∧
    hubBit 0x100C 7 wRevert = true ∧
    ((refOrder wRevert).find? (fun r => refAvail r wRevert && refPrecedes r wRevert &&
      (r == 3 || decide (10 ^ 6 ≤ (wRevert.ticks - smAt 0 wRevert.tb.refSince r).toNat)))).isSome = true ∧
    hubFld 0x100D 1 0 (hubPut 0x100D 2 wT) = 2 ∧ timeRuns (hubPut 0x100D 2 wT) = true ∧
    (∀ s ∈ [wT, wTRun, wRef, wRevert], dark s = false) ∧
    (let s := hubSetBit 0x8000 22 true (hubPut 0x8001 1000 (hubPut 0x8000 0x420000 wT))
     hubBit 0x8000 22 s = true ∧ hubGet 0x8001 s ≠ 0 ∧ 0 < hubFld 0x8000 21 16 s) := by decide +kernel

/-- SYSREF output 1 at its instant, in gapped mode with two pulses left, or in steady mode. -/
def wSysref (gap : Bool) : State :=
  hubSetBit 0x8000 22 gap (hubPut 0x8001 1000 (hubPut 0x8000 0x820002 { wT with sysref := [(1, 2)], ns := 1000 }))

theorem witness_Sysref : ∀ g : Bool, hubBit 0x8000 1 (wSysref g) = true ∧ hubBit 0x8000 22 (wSysref g) = g ∧
    (sysrefEdge 1 (wSysref g)).isSome = true ∧ 4 ≤ mode (wSysref g) ∧ smAt none (wSysref g).sysrefAt 1 = none ∧
    0 < smAt 0 (wSysref g).sysref 1 := by decide +kernel

theorem witness_GridRequests : gridRun wT = false ∧ mode wT = 5 ∧ gridRun (setMode 4 wT) = false ∧ mode (setMode 4 wT) ≠ 5 ∧
    gridRun wTRun = true ∧ holdActive wTRun = false ∧
    (let s := hubSetBit 0x100A 10 true wTRun; gridRun s = true ∧ holdActive s = true) ∧ dark (setMode 4 wT) = false := by decide +kernel

/-- A grid action of a kind that is due now, at a frame tick of 500 ns. -/
def wAct (k : GridKind) (s : State) : State :=
  hubPut 0x1010 500 { s with ns := 1000, tb := { s.tb with action := some ⟨k, 0, none⟩ } }

theorem witness_GridTicks : (∀ k ∈ [GridKind.start, .stop, .hold, .resume], gridDue (wAct k (setModePend 6 wT)) = true ∧
      (wAct k (setModePend 6 wT)).tb.action.any (fun a => decide (a.kind = k)) = true) ∧
    modePend (wAct .start (setModePend 6 wT)) = 6 ∧
    (∀ n : Cl, hubFld (0x50100 + 8 * n.val) 23 21 (wAct .resume wT) ≠ 2) ∧
    (∀ k ∈ [GridKind.start, .stop, .hold, .resume], dark (wAct k (setModePend 6 wT)) = false) := by decide +kernel

/-- A frame tick of a running grid, and a cluster at its tick edge, in a hold too. -/
def wFrame : State := { hubPut 0x1010 500 wTRun with ns := 1000 }

theorem witness_FrameTicks : gridRun wFrame = true ∧ onGrid wFrame = true ∧ gridDue wFrame = false ∧ wFrame.tb.tickedAt ≠ some wFrame.ticks ∧
    (let s := wFrame.modCl 0 fun c => { c with tickAt := some 2 }
     clocked 0 s = true ∧ (s.cl 0).tickAt.isSome = true ∧ isolated 0 s = false ∧ (s.cl 0).failCause = false ∧ holdActive s = false ∧
       ((deadlines 0 (evcSnap 0 s)).cl 0).failCause = false ∧
       holdActive (hubSetBit 0x100A 10 true s) = true) := by decide +kernel

/-! ## Microcode, plots, movers, scrubbing -/

/-- The load registers of VC0's patch RAM with a microword of 0 and its parity, the inactive half valid or not. -/
def wUc (valid tbl run : Bool) (a : Word) : State :=
  let b := ucInactive 0 State.reset
  let s := hubPut 0x200005 (setBit 23 tbl a) (hubSetBit 0x200002 (if b then 2 else 1) valid State.reset)
  hubSetBit 0x100A 11 run s

theorem witness_PatchHalves : (∀ r : Bool, hubBit 0x200002 (if ucInactive 0 (wUc true false r 0) then 2 else 1) (wUc true false r 0) = true ∧
      gridRun (wUc true false r 0) = r) ∧
    (∀ t : Bool, hubBit 0x200002 (if ucInactive 0 (wUc false t false 15) then 2 else 1) (wUc false t false 15) = false ∧
      hubBit 0x200005 23 (wUc false t false 15) = t) ∧
    hubBit 0x200002 4 (wUc false false false 0) = false ∧ ucOldBusy 0 (wUc false false false 0) = false ∧
    hubBit 0x50101 23 (wUc false false false 0) = false ∧ (∀ m ∈ [4, 7], 4 ≤ mode (setMode m (wUc true false true 0)) ∧
      mode (setMode m (wUc true false true 0)) < 8) ∧ ¬ 4 ≤ mode (wUc true false true 0) ∧ hubFld 0x200005 8 0 (wUc false true false 15) ≤ 15 ∧
    ucParityOk ((0xFFFF00 : Word) ++ (0 : Word) ++ (0 : Word) ++ (0 : Word) ++ (0 : Word) ++ (0 : Word)) = true := by decide +kernel

/-- The sequencer as handler holds a capability with HO over the device in the slot that PLOT_CTL names. -/
def wPlot : State := wState { wc with cregs := [(0, ⟨capOfWords 0 0 0xFFFFFF 0x1F7000, true⟩)] }

theorem witness_Plots :
    (cfgRefusal 0 3 0x000C00 (handlerCap 0 .sequencer wPlot) (wPlot.cl 0)).isSome = true ∧
    cfgRefusal 0 17 0x000C00 (handlerCap 0 .sequencer wPlot) (wPlot.cl 0) = none ∧
    cfgRefusal 0 17 0x400C00 (handlerCap 0 .sequencer wPlot) (wPlot.cl 0) = none ∧
    gridRun (hubSetBit 0x100A 11 true wPlot) = true ∧
    (hoRefusal 0 0x940C00 (handlerCap 0 .sequencer wPlot) (wPlot.cl 0)).isSome = true ∧
    hoRefusal 0 0x910C00 (handlerCap 0 .sequencer wPlot) (wPlot.cl 0) = none ∧ dark wPlot = false ∧ clocked 0 wPlot = true := by decide +kernel

/-- Mover channel 2 with a descriptor of two words within the deep store and two capabilities over it. -/
def wMvCap : Cap := 67714013002371511066034176#96

def wMv : State :=
  let put (o : Nat) (v : Word) (s : State) : State := hubPut (0x4040 + o) v s
  let cap (o : Nat) (s : State) : State := (List.range 4).foldl (fun s i => put (o + i) (capWord wMvCap i) s) s
  cap 0xC (cap 0x10 (put 0 0 (put 1 0x1000 (put 2 100 (put 3 0x1000 (put 4 1 (put 5 1 (put 6 2 (put 7 2 State.reset)))))))))

/-- The channel with its transfer in hand, and as one that waits for its trigger, busy or armed. -/
def wMvHand : MoverSt := { mvHead 2 wMv with link := false }
def wMvRuns : State := mvPut 2 (some wMvHand) wMv
def wMvTrig (busy : Bool) : State :=
  hubSetBit 0x4049 23 busy (hubSetBit 0x4049 20 (!busy) { wMv with ev := { wMv.ev with taskIn := [taskMover 2] } })

theorem mvCap_ok : loadCap wMv wMvCap = some ⟨wMvCap, true⟩ := by decide +kernel

theorem witness_Movers : hubBit 0x4049 23 wMv = false ∧
    (∀ o ∈ [0xC, 0x10], capOfWords (hubGet (0x4040 + o) wMv) (hubGet (0x4041 + o) wMv) (hubGet (0x4042 + o) wMv)
      (hubGet (0x4043 + o) wMv) = wMvCap) ∧
    extentOk ⟨wMvCap, true⟩ (extentOf (mvHead 2 wMv).src (mvHead 2 wMv).sstr (mvHead 2 wMv)) permRD = true ∧
    extentOk ⟨wMvCap, true⟩ (extentOf (mvHead 2 wMv).dst (mvHead 2 wMv).dstr (mvHead 2 wMv)) permWR = true ∧
    0 < (mvHead 2 wMv).len.toNat ∧ 0 < (mvHead 2 wMv).rows.toNat ∧
    (∀ b : Bool, taskMover 2 ∈ (wMvTrig b).ev.taskIn ∧ hubBit 0x4049 23 (wMvTrig b) = b ∧ hubBit 0x4049 20 (wMvTrig b) = !b) ∧
    mvHand 2 wMvRuns = some wMvHand ∧ wMvHand.stop = none ∧ wMvHand.link = false ∧ servicePause wMvRuns = false ∧
    (mvRun 2 wMvHand none wMvRuns).stop = .copied ∧ wMvHand.moved ≤ wMvHand.rows.toNat * wMvHand.len.toNat ∧
    mvHand 2 wMv = none ∧ dark wMv = false ∧ wMvHand.moved = 0 ∧ wMvHand.got = none ∧ wMvHand.old = [] ∧
    ((mvWords wMvHand).map (·.2)).Nodup ∧
    (∀ p ∈ mvWords wMvHand, plainWord p.1 = true ∧ plainWord p.2 = true ∧ ∀ q ∈ mvWords wMvHand, p.1 ≠ q.2) := by decide +kernel

/-- However many of its words an abort finds copied, none waits. -/
theorem witness_MoverAbort : mvHand 2 wMvRuns = some wMvHand ∧
    ∀ k, (mvRun 2 wMvHand (some k) (drawn wMvRuns)).stop ≠ .held := by
  have h1 : ((mvWords wMvHand).drop wMvHand.moved).length = 1 := by decide +kernel
  have h2 : ∀ i ∈ [0, 1], (mvCopy (mvMaster 2) (mvCap 2 0x10 (drawn wMvRuns)).1 (((mvWords wMvHand).drop wMvHand.moved).take i)
      wMvHand.old wMvHand.got wMvHand.moved (mvCap 2 0x10 (drawn wMvRuns)).2).stop ≠ .held := by decide +kernel
  refine ⟨by decide +kernel, fun k => ?_⟩
  have h3 : ((mvWords wMvHand).drop wMvHand.moved).take k = ((mvWords wMvHand).drop wMvHand.moved).take (min k 1) := by
    rw [← List.take_take, List.take_of_length_le (i := 1) (le_of_eq h1)]
  simp only [mvRun, h3]
  rcases k with _ | k
  · exact h2 0 (by simp)
  · rw [show min (k + 1) 1 = 1 by omega]
    exact h2 1 (by simp)

/-- A cluster with a bank copy under way, one with a row known to be bad, and a stack copying a pseudo-channel. -/
theorem witness_Scrubs : ((wState { wc with copies := [(9, 0)] }).cl 0).copies = [(9, 0)] ∧ gridRun (wState wc) = false ∧
    ((wState wc).cl 0).bad = [] ∧
    ((wState { wc with bad := [⟨7, 5, true, false, [], false, 0⟩] }).cl 0).bad.filter (fun b => b.row == 5 && b.ue) =
      [⟨7, 5, true, false, [], false, 0⟩] ∧
    0 ∉ State.reset.hbm.poisoned ∧ smAt none State.reset.hbm.copying 2 = none ∧ smAt none State.reset.hbm.spareUsed 2 = none ∧
    smAt none { State.reset.hbm with copying := [(2, some 5)] }.copying 2 = some 5 ∧ dark State.reset = false ∧
    clocked 0 (wState wc) = true ∧ clocked 0 (wState { wc with bad := [⟨7, 5, true, false, [], false, 0⟩] }) = true := by
  decide +kernel

end Sys2Proof.Tests
end

