-- ==== Sys2Proof/Tests/Witness5.lean ====
section
/-!
SUPPORT. Tests/Witness5.lean: states and operands that meet the hypotheses of the statements about converter links, timing
channels, events, packet queues and vehicle networks (Certificates/Slice0/Obligations.lean), clause by clause.
-/
namespace Sys2Proof.Tests

open Sys2Proof.Machine Sys2Proof.Claims

-- The kernel checks these theorems one after the other.
set_option Elab.async false

/-! ## Converter links -/

/-- Link 3's registers at 0x8280, with settings that its checks pass: lanes 4 on, one lane, one converter of 16-bit samples. -/
def wLk (ns : BitVec 64) : State :=
  let put (o : Nat) (v : Nat) (s : State) : State := hubPut (0x8280 + o) (BitVec.ofNat 24 v) s
  put 0 (2 ^ 20) (put 1 (4 * 2 ^ 18) (put 2 (16 * 2 ^ 19 + 2 * 2 ^ 11) (put 3 16000 (put 4 (5 * 2 ^ 16 + 2 ^ 12)
    (put 5 100 (put 6 200 (hubPut 0x8001 396 (hubPut 0x1010 1000 (setMode 5 { State.reset with ns := ns })))))))))

/-- The link enabled, at a boundary; up while the grid runs, with its lane locked. -/
def wLkOn : State := after (execLinkEnable 3 (wLk 396000))
def wLkUp : State := hubSetBit 0x100A 11 true (setMode 6 (hubSetBit 0x828B 23 true (hubPut 0x8084 0xC00010 wLkOn)))

/-- The link down for 1 ms. -/
def wLkDown (ns : BitVec 64) : State := { lkPut 3 { Link.reset with downAt := some 0 } wLkOn with ns := ns, ticks := ns }

theorem witness_LinkLife : hubBit 0x8280 23 (wLk 0) = false ∧ dark (wLk 0) = false ∧ dark wLkOn = false ∧ dark (wLkDown 1980000) = false ∧ hubBit 0x50021 0 (wLk 0) = false ∧
    lkEnableOk 3 (wLk 0) = true ∧ lkEnableOk 3 (hubPut 0x8286 0 (wLk 0)) = false ∧
    hubBit 0x8280 23 wLkOn = true ∧ hubBit 0x828B 23 wLkOn = false ∧ inTick (lkTe 3 wLkOn) (lkRate 3 wLkOn) wLkOn = true ∧
    (lkGet 3 wLkOn).downAt = none ∧ hubBit 0x8280 22 wLkUp = false ∧ hubBit 0x828B 23 wLkUp = true ∧ lkLb 3 wLkUp ≤ 4 ∧
    4 < lkLb 3 wLkUp + lkL 3 wLkUp ∧
    (let s := wLkDown 1980000; (lkGet 3 s).downAt = some 0 ∧ inTick (lkTe 3 s) (lkRate 3 s) s = true ∧
      10 ^ 6 ≤ (s.ticks - 0).toNat ∧ hubBit 0x8280 23 s = true ∧ hubBit 0x828B 23 s = false) := by decide +kernel

/-- A frame of one sample for the up link, whose fill is live and has room. -/
theorem witness_FrameReceive : ([0x123456] : List Word).length = lkM 3 wLkUp * lkS 3 wLkUp ∧ lkFenced 3 wLkUp = false ∧ lkUp 3 wLkUp = true ∧
    (rxFrame 3 (rxFrom 3 wLkUp) wLkUp).any (fun q =>
      (rxTick 3 (rxInstant 3 q wLkUp) wLkUp).any fun u => fillLive u wLkUp) = true ∧ dark wLkUp = false ∧
    (lkGet 3 wLkUp).fill = none ∧ lkS 3 wLkUp ≤ lkCap 3 wLkUp ∧
    (fillHomes (lkDest 3 wLkUp) wLkUp).all (fun m => (List.range 20).all fun i => !portHeld i (wLkUp.cl m)) = true := by decide +kernel

/-- An output fill whose release is due: its frame boundary falls into this base tick, at its release or after it. -/
def wEgress (release : Time72) : State :=
  lkPut 3 { Link.reset with egress := [⟨release, [[5]]⟩] } (hubSetBit 0x8280 22 true wLkUp)

/-- The frame boundary of a release: the bound of R310. -/
def wBound (release : Nat) (s : State) : Nat := (release * lkRate 3 s + lkTf 3 s - 1) / lkTf 3 s * lkTf 3 s

theorem witness_Egress : (lkGet 3 (wEgress 0x60AE000)).egress = ⟨0x60AE000, [[5]]⟩ :: [] ∧ lkUp 3 (wEgress 0x60AE000) = true ∧
    256 * (wEgress 0x60AE000).ns.toNat * lkRate 3 (wEgress 0x60AE000) ≤ wBound 0x60AE000 (wEgress 0x60AE000) ∧
    wBound 0x60AE000 (wEgress 0x60AE000) < (256 * (wEgress 0x60AE000).ns.toNat + 256) * lkRate 3 (wEgress 0x60AE000) := by decide +kernel

theorem witness_EgressLate : (lkGet 3 (wEgress 0x60ADFFF)).egress = ⟨0x60ADFFF, [[5]]⟩ :: [] ∧ lkUp 3 (wEgress 0x60ADFFF) = true ∧
    256 * (wEgress 0x60ADFFF).ns.toNat * lkRate 3 (wEgress 0x60ADFFF) ≤ wBound 0x60ADFFF (wEgress 0x60ADFFF) ∧
    wBound 0x60ADFFF (wEgress 0x60ADFFF) < (256 * (wEgress 0x60ADFFF).ns.toNat + 256) * lkRate 3 (wEgress 0x60ADFFF) := by decide +kernel

/-! ## Timing channels -/

/-- Bank 3 good and not driving; channel 401 captures both edges of pin 100 for group 7, whose fill goes to VC0. -/
def wTm : State :=
  let base := hubPut 0x10003 0x800000 (setMode 6 { State.reset with ns := 3500 })
  { hubPut 0x1010 1000 (hubPut 0x1031E 600 (hubPut 0x11C88 (BitVec.ofNat 24 (2 ^ 21 + 3 * 2 ^ 19 + 7 * 2 ^ 5)) base)) with ticks := 3500 }

theorem witness_Pins : ((List.range 32).any fun k => hubBit (0x10160 + k) 23 wTm) = false ∧
    (let s := hubSetBit 0x10160 23 true wTm
     ((List.range 32).any fun k => hubBit (0x10160 + k) 23 s) = true ∧ bitOf 0 (1 : Word) ≠ hubBit 0x10003 0 s) ∧
    hubBit 0x10164 23 wTm = false ∧ bankDown 3 wTm = false ∧ tmcFenced wTm = false ∧
    (pinGet 100 wTm).lvl ≠ (true != hubBit 0x10164 20 wTm) ∧ (pinGet 100 wTm).hist = [] ∧ pinCounters 100 true wTm = [] ∧
    captureChans 100 true wTm = [401] ∧ (smAt ⟨0, 0⟩ wTm.tmc.capOld 401).stamp ≠ wTm.ticks + 1 ∧ dark wTm = false ∧
    256 * wTm.ns.toNat + 32 < 2 ^ 72 := by decide +kernel

/-- The word that enables capture group 7 over channel 401, and edge group 7 over channel 33. -/
def wCg : Word := BitVec.ofNat 24 (2 ^ 15 + 401)

/-- The capture group enabled while the grid runs, with exchange plot 0 of VC0 the I/O side's. -/
def wFill' : State :=
  (hubSetBit 0x100A 11 true (hubPut 0x1031C (setBit 23 true wCg) wTm)).modCl 0 (ioSetFld 0x330 9 8 3)

theorem witness_Groups : cgOk 7 (setBit 23 true wCg) wTm = true ∧ cgOk 8 (setBit 23 true wCg) wTm = false ∧
    0 < fld 9 0 (33 : Word) ∧ hubFld 0x1039D 11 0 wTm + 4 * fld 9 0 (33 : Word) ≤ 4095 ∧ fld 9 0 (0 : Word) = 0 := by decide +kernel

theorem witness_CaptureFill : fillTick 0 (256 * wFill'.ns.toNat) 1 wFill' = some 1024000 ∧ clOf (hubFld 0x1031D 23 16 wFill') = 0 ∧
    1024000 + 5120 ≤ 256 * wFill'.ns.toNat + 256 * (hubGet 0x1031E wFill').toNat ∧ hubBit 0x1031C 23 wFill' = true ∧
    tmcFenced wFill' = false ∧ fillLive 1024000 wFill' = true ∧ fillPassed 0 1024000 wFill' = true ∧
    smAt none wFill'.tmc.filled 7 ≠ some 1024000 ∧ dstPlot (hubGet 0x1031D wFill') wFill' = 0 ∧ portHeld 16 (wFill'.cl 0) = false ∧
    isolated 0 wFill' = false ∧ pairSecond 0 wFill' = none ∧ ownCode 16 (wFill'.cl 0) = 3 ∧ hubFld 0x1031D 11 0 wFill' = 0 ∧
    (captureFill 7 (1024000 - (256000 + 256 * 600)) (1024000 - 256 * 600) wFill').length ≤ 0x1000 ∧ dark wFill' = false := by
  decide +kernel

theorem witness_ScheduledEdge : (let s := pinPut 100 { pinGet 100 wTm with queue := [⟨5, 401, 1, false⟩] } { wTm with ns := 0 }
    (pinGet 100 s).queue = ⟨5, 401, 1, false⟩ :: [] ∧ (5 : Time72).toNat / 256 = s.ns.toNat ∧ dark s = false) := by decide +kernel

/-- TIME counter 3 at a multiple of its prescaler, and with a value to load; generator 9 armed and running. -/
def wCnt : State := hubPut 0x10206 0x800000 wTm

theorem witness_Counters : bitOf 23 (hubGet 0x10206 wCnt) = true ∧ fld 22 21 (hubGet 0x10206 wCnt) = 0 ∧
    wCnt.ns.toNat % 2 ^ fld 10 7 (hubGet 0x10206 wCnt) = 0 ∧ smAt 0 wCnt.tmc.stepAt 3 ≠ wCnt.ticks + 1 ∧ dark wCnt = false ∧
    hubGet 0x10207 wCnt + 1 ≠ 0 ∧ cmpChans 3 wCnt = [] ∧
    smAt none { wCnt.tmc with loads := [(3, some (7, 5))] }.loads 3 = some (7, 5) ∧ wCnt.ticks ≠ 5 := by decide +kernel

def wGen : State :=
  hubPut 0x10490 0x800000 (hubPut 0x1049B 77 { wTm with tmc := { wTm.tmc with startAt := some 5, gens := [(9, { GenSt.reset with running := true })] } })

theorem witness_Generators : wGen.tmc.startAt = some 5 ∧ (5 : Time72).toNat ≤ 256 * wGen.ns.toNat ∧ hubBit 0x10490 23 wGen = true ∧
    (genGet 9 wGen).startAt = none ∧ tmcFenced wGen = false ∧ dark wGen = false ∧ genRuns 9 wGen = true ∧
    hubBit 0x10490 20 wGen = false ∧ hubBit 0x10490 21 wGen = false ∧ (genGet 9 wGen).lastAt < wGen.ticks ∧
    (wGen.ticks - (genGet 9 wGen).lastAt).toNat % 2 ^ hubFld 0x10490 18 15 wGen = 0 ∧ hubGet 0x1049B wGen ≠ 0 ∧
    smWf (fun _ => GenSt.reset) wGen.tmc.gens = true ∧ (genGet 9 wGen).running = true ∧ (genGet 9 wGen).stopAt = none := by decide +kernel

/-! ## Events and packet queues -/

/-- Channel 300 watches a source and serves group `g`, which is enabled for group 0; an event waits at it. -/
def wEv (src g : Nat) : State :=
  let s := hubPut 0x214B0 (BitVec.ofNat 24 (2 ^ 23 + g * 2 ^ 17 + src)) { State.reset with ns := 1000, ticks := 1000 }
  { s with ev := { s.ev with inbox := [⟨300, 5, 0, 0⟩] } }

theorem witness_Events : (∀ src ∈ [0xC07, 0x705], hubBit 0x214B0 23 (wEv src 0) = true ∧ hubFld 0x214B0 11 0 (wEv src 0) = src ∧
      (wEv src 0).ticks ∉ smAt [] (wEv src 0).ev.fired src) ∧
    (wEv 5 0).ev.inbox.filter (fun x => x.chan = 300) = [⟨300, 5, 0, 0⟩] ∧ (5 : BitVec 64) < (wEv 5 0).ticks ∧
    groupEn (hubFld 0x214B0 22 17 (wEv 5 0)) (wEv 5 0) = true ∧ groupEn (hubFld 0x214B0 22 17 (wEv 5 9)) (wEv 5 9) = false ∧ dark (wEv 5 0) = false := by
  decide +kernel

theorem witness_Bindings : smWf (fun _ => []) State.reset.ev.binds = true ∧ bitOf 23 (0x80012C : Word) = true ∧
    bindsOf (fld 9 0 (0x80012C : Word)) State.reset = [] ∧
    (let s := setMode 5 { State.reset with ev := { State.reset.ev with binds := [(300, [9, 5])] } }
     smWf (fun _ => []) s.ev.binds = true ∧ forken s = false ∧ s.ev.binds.any (fun b => decide (1 < b.2.length)) = true) ∧
    hubFld 0x2201C 23 22 (hubPut 0x2201C 0x400000 State.reset) = 1 ∧ cellDone 7 (hubPut 0x2201C 0x400000 State.reset) = false := by
  decide +kernel

/-- Queue 3 of 16 words, holding what is given. -/
def wPq (q : PqSt) : State := pqPut 3 q (hubPut 0x24030 0xA00005 { State.reset with ticks := 10 ^ 7 })

/-- A write held for the processor, and one that a mover waits with. -/
def wHeld : List HeldWrite := [⟨none, 7, true⟩, ⟨some .moverLo, 8, false⟩]

theorem witness_QueueWords : hubBit 0x24030 23 (wPq PqSt.reset) = true ∧ hubBit 0x24037 21 (wPq PqSt.reset) = false ∧
    hubBit 0x24037 21 (hubPut 0x24037 0x200000 (wPq PqSt.reset)) = true ∧ hubBit 0x24030 23 (hubPut 0x24037 0x200000 (wPq PqSt.reset)) = true ∧
    (pqGet 3 (wPq PqSt.reset)).flushAt ≠ some (wPq PqSt.reset).ticks ∧ (pqGet 3 (wPq PqSt.reset)).opn.length < pqDepth 3 (wPq PqSt.reset) ∧
    0 < pqRoom 3 (wPq PqSt.reset) ∧ pqRoom 3 (wPq { PqSt.reset with done := [(5, List.replicate 16 0)] }) = 0 ∧
    (pqGet 3 (wPq { PqSt.reset with held := wHeld, freed := true })).held = wHeld ∧
    (pqGet 3 (wPq { PqSt.reset with held := wHeld, freed := true })).freed = true ∧
    0 < pqRoom 3 (wPq { PqSt.reset with held := wHeld, freed := true }) ∧
    (pqGet 3 (wPq { PqSt.reset with done := [(5, [1, 2])] })).done = (5, 1 :: [2]) :: [] ∧ (5 : BitVec 64) ≠ 10 ^ 7 ∧
    (pqGet 3 (wPq PqSt.reset)).held = [] ∧ (pqGet 3 (wPq PqSt.reset)).done = [] := by decide +kernel

theorem witness_QueueControl : hubBit 0x24040 23 (wPq PqSt.reset) = false ∧
    (∀ g : Pq, g ≠ 4 → hubBit (0x24000 + 0x10 * g) 23 (wPq PqSt.reset) = true → 16 * 0x10 + 2 ^ 4 ≤
      16 * hubFld (0x24000 + 0x10 * g) 11 0 (wPq PqSt.reset) ∨ 16 * hubFld (0x24000 + 0x10 * g) 11 0 (wPq PqSt.reset) + pqDepth g (wPq PqSt.reset) ≤ 16 * 0x10) ∧
    fld 11 0 (0x200010 : Word) = 0x10 ∧ fld 22 19 (0x200010 : Word) = 4 ∧ fld 22 19 (0x000010 : Word) < 4 ∧
    (let s := hubPut 0x24032 5 (wPq { PqSt.reset with opn := [1] })
     0 < hubFld 0x24032 19 0 s ∧ (pqGet 3 s).opn ≠ [] ∧ (pqGet 3 s).held = [] ∧ hubBit 0x24037 21 s = false ∧
       hubFld 0x24032 19 0 s * 1000 < (s.ticks - (pqGet 3 s).lastAt).toNat) := by decide +kernel

/-! ## Vehicle networks -/

/-- An untimed packet of a frame of 64 bytes. -/
def wFrmTx : List Word := [0x60003C, 0, 0, 0, 0, 0, 0, 0] ++ List.replicate 20 0x123456

/-- Port 33, Ethernet, with EN and its link, RXQ 5 and TXQ 6 of 16 words; TXQ holds a packet of 64 bytes. -/
def wNet : State :=
  let s := hubPut 0x30840 0xC00000 (hubPut 0x30841 0x858600 (hubPut 0x3084C 0x800000 (setMode 5 { State.reset with ns := 1000 })))
  pqPut 6 { PqSt.reset with done := [(5, wFrmTx)] } (hubPut 0x24060 0xA00010 (hubPut 0x24050 0xC00000 s))

/-- A broadcast frame, with a good or a bad FCS. -/
def wFrm (ok : Bool) : NetFrame := ⟨0, 0, 0, 0, 0, 0x100, List.replicate 6 0xFF ++ List.replicate 54 0, ok⟩

theorem witness_FramesArrive : hubBit 0x30840 23 wNet = true ∧ netFenced wNet = false ∧ rxAccept 33 (wFrm true) wNet = some 0xFF ∧
    rxAccept 33 (wFrm false) wNet = none ∧ hubBit 0x30841 23 wNet = true ∧ hubFld 0x30841 21 16 wNet = 5 ∧ hubBit 0x24050 23 wNet = true ∧
    (rxPacket 33 0xFF (wFrm true)).length ≤ pqRoom 5 wNet ∧ hubBit 0x24050 23 (hubPut 0x24050 0 wNet) = false ∧
    (pqGet 5 wNet).flushAt ≠ some wNet.ticks ∧ hubBit 0x24057 21 wNet = false ∧ (pqGet 5 wNet).held = [] := by decide +kernel

theorem witness_FramesLeave : netUp 33 wNet = true ∧ txqMode 33 wNet = true ∧ hubFld 0x30841 13 8 wNet = 6 ∧
    txqHead 33 wNet = some (5, wFrmTx) ∧
    txqBad 33 wFrmTx = false ∧ pktTs wFrmTx = false ∧
    txqFree 33 wFrmTx wNet = true ∧ hubBit 0x30840 21 wNet = false ∧ hubBit 0x30842 23 wNet = false ∧
    taskPort 33 ∈ { wNet.ev with taskIn := [taskPort 33] }.taskIn ∧ (netPort 33 wNet).trigs < txqUntimed 33 wNet ∧
    (let s := netPut 33 { PortSt.reset with sched := [⟨0x100, [1]⟩] } (hubPut 0x24060 0 wNet)
     (netPort 33 s).sched = ⟨0x100, [1]⟩ :: [] ∧ (0x100 : Time72).toNat / 256 ≤ s.ns.toNat ∧ txqHead 33 s = none ∧ netUp 33 s = true ∧ lineFree 33 s = true) ∧
    dark wNet = false := by
  decide +kernel

/-- Port 3, CAN, up with a frame on the bus, before and after its last retry; off the bus; and a MAC's link. -/
def wCan (retries : Nat) : State :=
  netPut 3 { PortSt.reset with sent := some ⟨0x100, [1]⟩, retries := retries } (hubPut 0x300C0 0x920000 (hubPut 0x300CC 0x800000 (setMode 5 State.reset)))

theorem witness_CanPorts : netUp 3 (wCan 0) = true ∧ (netPort 3 (wCan 0)).sent = some ⟨0x100, [1]⟩ ∧
    (netPort 3 (wCan 0)).retries < hubFld 0x300C0 19 16 (wCan 0) ∧ hubFld 0x300C0 19 16 (wCan 2) ≤ (netPort 3 (wCan 2)).retries ∧
    hubBit 0x300C0 23 (wCan 0) = true ∧ hubBit 0x300C0 20 (wCan 0) = true ∧ hubBit 0x300CC 22 (hubPut 0x300CC 0x400000 (wCan 0)) = true ∧
    hubBit 0x3084C 23 State.reset ≠ true ∧ dark (wCan 0) = false := by decide +kernel

/-- Gate lists of MAC 1 with one entry and a cycle of 1,000 ns, both; and an MDIO access under way. -/
def wGcl (ctl : Word) : State := hubPut 0x30860 ctl (hubPut 0x30862 1000 (hubPut 0x30866 1000 { State.reset with ns := 1000 }))

theorem witness_GateLists : hubBit 0x30860 23 (wGcl 0x81) = false ∧ gclOk 1 (gclActive 1 (wGcl 0x81)) (wGcl 0x81) = true ∧
    hubBit 0x30860 23 (wGcl 0x800081) = true ∧ hubBit 0x30860 21 (wGcl 0x800081) = false ∧
    gclOk 1 (1 - gclActive 1 (wGcl 0x800081)) (wGcl 0x800081) = true ∧ hubBit 0x30860 21 (wGcl 0xA00081) = true ∧
    (netPort 33 (wGcl 0xA00081)).swapAt ≤ (wGcl 0xA00081).ns.toNat ∧ hubBit 0x3084A 23 (wGcl 0x81) = false ∧
    hubBit 0x3084A 23 (hubPut 0x3084A 0xC00000 (wGcl 0x81)) = true := by decide +kernel

/-- A KEY capability over the hub registers under tag secret 0. -/
def wKey : Cap := 2542309626332032197606768640#96

/-- CMAC engine 1 with a valid key in slot 9 and a message of three bytes, idle; and with a job at its end. -/
def wCm : State :=
  cmPut 1 { CmacSt.reset with keys := [(9, 5)], valid := [(9, true)], buf := [(0, 7)], fill := 1 }
    (hubPut 0x31401 3 { State.reset with ticks := 1000 })

/-- Eight-bit MACs, of slot 9 with counter 4 and a one-byte freshness value, to generate or to verify. -/
def wJob (gen : Bool) : CmacJob := ⟨BitVec.ofNat 24 (gen.toNat * 2 ^ 23 + 7 * 2 ^ 16 + 4 * 2 ^ 8 + 9 * 4), some 5, 6, [6], 500⟩

theorem keyAuth_ok : keyAuth 1 9 permWR wKey wCm = true ∧ keyAuth 1 9 permRD wKey wCm = true := by decide +kernel

theorem witness_Cmac : keyAuth 1 9 permWR 0 wCm = false ∧ (cmGet 1 wCm).fill < 704 ∧ fld 7 2 (wJob true).job = 9 ∧
    hubBit 0x31402 23 wCm = false ∧ smAt false (cmGet 1 wCm).valid 9 = true ∧ 7 ≤ fld 22 16 (wJob true).job ∧
    hubFld 0x31401 11 0 wCm ≤ 2112 ∧ netFenced wCm = false ∧ (verifyFv (hubPair 0x33208 wCm) (hubPair 0x31403 (hubPut 0x31403 9 wCm)) 8).isSome = true ∧
    (∀ b : Bool, (cmGet 1 (cmPut 1 { CmacSt.reset with job := some (wJob b) } wCm)).job = some (wJob b) ∧
      wCm.ticks.toNat ≥ (wJob b).endAt.toNat ∧ bitOf 23 (wJob b).job = b) := by decide +kernel

/-- The domains of these states are switched on (R468). -/
theorem witness_SwitchedOn : ∀ s ∈ [wLk 0, wTm, wCnt, wGen, wEv 5 0, State.reset, wPq PqSt.reset, wNet, wCan 0, wGcl 0x81, wCm], dark s = false := by
  decide +kernel

end Sys2Proof.Tests
end

