-- ==== Sys2Proof/Tests/Witness6.lean ====
section
/-!
SUPPORT. Tests/Witness6.lean: states and operands that meet the hypotheses of the statements about host ports, the object
dictionary, parameter queues and sparing (Certificates/Slice0/Obligations.lean), clause by clause.
-/
namespace Sys2Proof.Tests

open Sys2Proof.Machine Sys2Proof.Claims

-- The kernel checks these theorems one after the other.
set_option Elab.async false

/-! ## Host ports -/

/-- A bifurcated device; its port 0 up at 16 lanes asked for, and narrowed. -/
def wCx0 : State := hubSetBit 0x40000 23 true (hubPut 0x4014B 0x100000 { State.reset with ticks := 1000 })
def wCx : State := after (execCxlPortUp 0 true 4 2 true wCx0)

theorem witness_Ports : dark wCx0 = false ∧ dark wCx = false ∧ hubBit 0x40010 23 wCx0 = false ∧ hubBit 0x50021 4 wCx0 = false ∧ hubBit 0x40000 23 wCx0 = true ∧
    hubBit 0x40010 23 wCx = true ∧ 1 < hubFld 0x40010 21 19 wCx ∧
    (let s := hubSetFld 0x40010 21 19 1 wCx; hubBit 0x40010 23 s = true ∧ hubFld 0x40010 21 19 s < min 4 3) ∧
    hubBit 0x40011 23 wCx = false ∧ hubBit 0x40010 22 wCx = false ∧
    (let s := hubSetBit 0x40000 22 true (hubSetFld 0x40000 7 0 0 wCx)
     hubBit 0x40000 22 s = true ∧ hubFld 0x40000 7 0 s * 10 ^ 6 ≤ (s.ticks - (cxlPort 1 s).downAt).toNat ∧ hubBit 0x40011 23 s = false ∧
       hubBit 0x40010 23 s = true ∧ hubBit 0x40010 22 s = false) ∧
    (let s := hubSetBit 0x40011 22 true wCx; hubBit 0x40011 22 s = true ∧ hubBit 0x40010 23 s = true) := by decide +kernel

/-- Port 0 with a cached host line, and its HDM window of two units from unit 1. -/
def wCache : State := hubPut 0x40141 2 (hubPut 0x40140 1 (cxlPutPort 0 { cxlPort 0 wCx with cache := [⟨7, [(3, 9)], true⟩] } wCx))

theorem witness_Coherence : hostPort wCx = some 0 ∧ 4 * (5 : BitVec 39).toNat < (hubPair 0x4014B wCx).toNat ∧ hostPort wCx0 = none ∧
    cacheLine? 0 (0 * 2 ^ 68 + 7) wCache = some ⟨7, [(3, 9)], true⟩ ∧ cxlUp 0 wCache = true ∧ servicePause wCache = false ∧
    failedOver 1 wCache = false ∧ hdmByte 0 100 5 wCache = some 268435556 ∧ wCache.hbm.poisoned = [] ∧ dark wCache = false := by decide +kernel

theorem witness_Vectors : ({ wCx.cxl with raised := [35] }.raised.find? (fun e => e % 2048 == 35)) = some 35 ∧
    (∀ b : Bool, hubBit 0x41C00 22 (hubSetBit 0x41C00 22 b wCx) = b) ∧ ([9, 8, 7] : List Word).length ≤ 256 ∧
    (let s := hubSetFld 0x41C03 15 0 1 (hubSetBit 0x41C00 22 true { wCx with ticks := 2000000 })
     hubFld 0x41C03 15 0 s ≠ 0 ∧ hubFld 0x41C03 15 0 s * 10 ^ 6 ≤ (s.ticks - (smAt ⟨0⟩ s.cxl.mbs 3).rungAt).toNat ∧ hubBit 0x41C00 22 s = true) ∧
    dark wCx = false ∧ mode (setMode 4 wCx) ≠ 2 ∧ hubBit 0x50021 5 wCx = false := by
  decide +kernel

/-- Port 0 with a host entry that covers the hub registers and the deep store, or none; BAR2 window 0 over the deep store. -/
def wHost (held : Bool) : State :=
  let cap : CapV := ⟨capOfWords 0 0x1000 0xFFFFFF 0x003000, true⟩
  let hub : CapV := ⟨capOfWords 0 0x4000 0x00FFFF 0x003000, true⟩
  hubPut 0x40121 0x801000 (hubPut 0x40120 0x100 (cxlPutPort 0 { cxlPort 0 wCx with caps := if held then [(0, cap), (1, hub)] else [] } wCx))

theorem witness_HostAccess : portTakes 0 (wHost true) = true ∧ 4 * 0x40120 < 0x3F00000 ∧ hostReads 0 [0x4000040120] (wHost true) = true ∧
    hostReads 0 [0x4000040120] (wHost false) = false ∧ hostWritesOk 0 [(0x40120, 1)] (wHost true) = true ∧
    hostWritesOk 0 [(0x40120, 1)] (wHost false) = false ∧ keyReg 0x40120 = false ∧
    lockedFor .hostA (0x4000000000 + 0x40120) (wHost true) = false ∧ servicePause (wHost true) = false ∧
    bar2Addr 0 5 (wHost true) = some 0x1000000105 ∧ hostCovers 0 permRD [0x1000000105] (wHost true) = true ∧
    hostCovers 0 permWR [0x1000000105] (wHost true) = true ∧ hostCovers 0 permWR [0x1000000105] (wHost false) = false ∧
    handoverOf 0x40120 1 = none ∧ (∀ b : Bool, hostMayWrite 0 [(0x1000000105, 7)] (wHost b) = b) ∧ bar2Addr 0 (2 ^ 25) (wHost true) = none ∧
    dark (wHost true) = false ∧ (∀ off, regionOf 0x1000000105 ≠ .hub off) := by
  refine ⟨?_, ?_, ?_, ?_, ?_, ?_, ?_, ?_, ?_, ?_, ?_, ?_, ?_, ?_, ?_, ?_, ?_, fun off h => ?_⟩ <;> first | decide +kernel | skip
  exact absurd h (by rw [show regionOf 0x1000000105 = .deep 0x105 by decide +kernel]; exact nofun)

/-- A write of VC5's PLOT_CFG_3 through its hub view, which no entry with HO covers. -/
theorem witness_HostHandover : handoverOf 0x100503 0x000C00 = some (5, 3) ∧ hostWritesOk 0 [(0x100503, 0x000C00)] (wHost true) = false ∧
    keyReg 0x100503 = false ∧ 4 * 0x100503 < 0x3F00000 ∧ lockedFor .hostA (0x4000000000 + 0x100503) (wHost true) = false := by decide +kernel

def accOk : Acc × State → Bool
  | (.ok _, _) => true
  | _ => false

theorem witness_HostWindow : accOk (wordRead .hostA .hubM 0x1000000105 (wHost true)) = true ∧
    accOk (hostWrite1 0 0x1000000105 7 (wHost true)) = true := by decide +kernel

/-! ## The object dictionary -/

def isOk {ε α : Type} : Except ε α → Bool
  | .ok _ => true
  | .error _ => false

/-- An entry as found has a property. -/
def foundIs (p : OdEntry → Bool) : Except Nat OdEntry → Bool
  | .ok e => p e
  | .error _ => false

/-- CONFIGURE with Topsoil running and a peer entry; one model parameter of VC5, whose queue capability covers its store. -/
def wOd : State :=
  let s := setMode 4 { State.reset with ticks := 1000 }
  let cap : CapV := ⟨capOfWords 0 0 0xFFFFFF 0x003000, true⟩
  let desc : List Word := [0x600001, 0x220001, 0, 5 * 2 ^ 16, 100, 0, 0, 0, 0, 0, 0, 0xFFFF, 0, 0]
  { s with
    sec := { s.sec with topRuns := true }
    od := { s.od with vals := smPut (odDefault (odKey 0x1400 1)) s.od.vals (odKey 0x1400 1) [0x123456, 0], params := [⟨odKey 0x6000 1, desc, [7], [7]⟩] }
  }.modCl 5 fun c => { c with pqCap := cap }

/-- A message of these words, 3 bytes to a word, low byte first (R411). -/
def wBytes (ws : List Word) : List HByte := ws.flatMap fun w => [w.extractLsb' 0 8, w.extractLsb' 8 8, w.extractLsb' 16 8]

/-- In an Ethernet frame of EtherType 0x88B5 from that peer at port 1. -/
def wVia (ws : List Word) : NfpVia := .ether 1 0x123456 0x88B5 (wBytes ws)

def wPath : NfpPath := .field 1 (.ether 0x123456) 0x123456

theorem serves_of {via : NfpVia} {path : NfpPath} {ws : List Word} {s : State} (h1 : dark s = false) (h2 : viaPath via s = some path)
    (h3 : viaWords via s = ws) (h4 : nfpUp path s = true) (h5 : s.od.kept = []) (h6 : s.od.waiting = []) : Serves via path ws s :=
  ⟨h1, ⟨h2, [], by simp [h3], .inl rfl⟩, h4, fun _ _ _ _ => by simp [keptOf, h5], by simp [h6]⟩

/-- One write of the parameter. -/
def wItem : NfpItem := ⟨0x6000, 1, 2, [0x55]⟩

/-- READ, READ_SEG, DESCRIBE, an OP and a VER that are not listed, WRITE of an entry and of the parameter, WRITE_SEG,
WRITE_MULTI. -/
def wAsks : List (List Word) :=
  [request 1 7 0x1018 2 0 0 0 [], request 1 7 0x1018 0xEE 0 0 0 [], request 3 7 0x1031 1 0 5 3 [], request 5 7 0x1018 2 0 0 0 [],
   request 9 7 0x1018 2 0 0 0 [], 0x210007 :: (request 1 7 0x1018 2 0 0 0 []).drop 1, request 2 7 0x1400 1 4 2 0 [1, 2],
   request 2 7 0x1400 1 5 2 0 [1, 2], request 2 7 0x6000 1 2 1 0 [0x55], request 4 7 0x1201 1 10 2 2 [8, 9],
   request 6 7 0 0 0 0 1 ([wItem].flatMap itemWords)]

theorem witness_Serves : ∀ ws ∈ wAsks, Serves (wVia ws) wPath ws wOd := fun ws h =>
  serves_of (by decide +kernel)
    ((by decide +kernel : ∀ ws ∈ wAsks, viaPath (wVia ws) wOd = some wPath) ws h)
    ((by decide +kernel : ∀ ws ∈ wAsks, viaWords (wVia ws) wOd = ws) ws h)
    (by decide +kernel) (by decide +kernel) (by decide +kernel)

/-- The same READ in a datagram to port 0xBAC4 at 0x1201:02, and in CXL mailbox 3. -/
def wOdMb : State :=
  let ws := request 1 7 0x1018 2 0 0 0 []
  ws.zipIdx.foldl (fun s p => hubPut (0x41D00 + p.2) p.1 s) (hubPut 0x41C01 4 (hubSetBit 0x41C00 22 true
    { wOd with od := { wOd.od with vals := smPut (odDefault (odKey 0x1201 2)) wOd.od.vals (odKey 0x1201 2) [9] } }))

theorem witness_OtherWays : Serves (.udp 1 0x123456 5 6 9 0xBAC4 (wBytes (request 1 7 0x1018 2 0 0 0 []))) (.field 1 (.udp 5 6) 0x123456)
      (request 1 7 0x1018 2 0 0 0 []) wOdMb ∧
    Serves (.mailbox 3) (.mailbox 3) (request 1 7 0x1018 2 0 0 0 []) wOdMb :=
  ⟨serves_of (by decide +kernel) (by decide +kernel) (by decide +kernel) (by decide +kernel) (by decide +kernel) (by decide +kernel),
    serves_of (by decide +kernel) (by decide +kernel) (by decide +kernel) (by decide +kernel) (by decide +kernel) (by decide +kernel)⟩

/-- The request with number 7 is there again while its response is kept. -/
def wOdKept : State := { wOd with od := { wOd.od with kept := [⟨.ether 0x123456, 7, [1], 900⟩] } }

theorem witness_DictionaryReads : peerRefused wPath false wOd = false ∧
    foundIs (fun e => decide (e.acc ≠ 4)) (odFind 0x1018 2 wOd) = true ∧
    foundIs (fun e => decide (e.acc ≠ 4 ∧ e.ty = 10 ∧ 3 + 5 ≤ e.size)) (odFind 0x1031 1 wOd) = true ∧
    isOk (odFind 0x1018 0xEE wOd) = false ∧ 6 < (9 : BitVec 4).toNat ∧
    (0x210007 : Word) = (request 1 7 0x1018 2 0 0 0 []).headD 0 &&& 0xFFFFF ||| ((2 : BitVec 4).setWidth 24 <<< (20 : Nat)) ∧
    nfpUp wPath wOdKept = true ∧ viaPath (wVia (request 1 7 0x1018 2 0 0 0 [])) wOdKept = some wPath ∧
    (keptOf (.ether 0x123456) wOdKept).find? (fun (x : Kept) => x.seq.toNat == (7 : BitVec 16).toNat % 2 ^ 16) =
      some ⟨.ether 0x123456, 7, [1], 900⟩ := by decide +kernel

theorem witness_DictionaryWrites : peerRefused wPath true wOd = false ∧
    foundIs (fun e => decide (odCheck e 4 [1, 2] wOd = 0 ∧ e.ty ≠ 10 ∧ odCheck e 5 [1, 2] wOd ≠ 0)) (odFind 0x1400 1 wOd) = true ∧
    odParam (odKey 0x1400 1) wOd = none ∧
    foundIs (fun e => odWritable e.acc wOd && decide (e.ty = 10 ∧ 2 + 2 ≤ e.size)) (odFind 0x1201 1 wOd) = true ∧
    odParam (odKey 0x1201 1) wOd = none ∧
    foundIs (fun e => decide (odCheck e 2 [0x55] wOd = 0)) (odFind 0x6000 1 wOd) = true ∧
    (odParam (odKey 0x6000 1) wOd).any (fun p => decide (descCl p.desc = 5) && decide (descHome p.desc = 100)) = true ∧
    backlogOver 5 1 wOd = false := by decide +kernel

theorem witness_MultiWrites :
    isOk (([wItem].mapIdx fun k it => itemCheck (itemsCl [wItem] wOd) k it wOd).mapM id) = true ∧
    itemsCl [wItem] wOd = some 5 ∧ backlogOver 5 1 wOd = false ∧
    isOk (([⟨0x1018, 0xEE, 2, [0]⟩].mapIdx fun k it => itemCheck (itemsCl [⟨0x1018, 0xEE, 2, [0]⟩] wOd) k it wOd).mapM id) = false := by
  decide +kernel

/-- VC5's queue takes an entry at the parameter's home, in a request and from the server's backlog. -/
def wEntry : PEntry := ⟨100, [0x55], some (odKey 0x6000 1), 3, true⟩

theorem witness_QueueTakes : QueueTakes 5 [wEntry] wOd := by
  refine ⟨by decide +kernel, by decide +kernel, by decide +kernel, fun e he => ?_⟩
  rw [List.mem_singleton.1 he]
  decide +kernel

theorem witness_ParameterQueues :
    (let s := putBacklog 5 [wEntry] wOd; backlogOf 5 s = wEntry :: [] ∧ pqRefusals 5 wEntry s = (false, false, false)) ∧
    (let s := { wOd with od := { wOd.od with waiting := [⟨3, .monitor, [1, 2, 3, 4]⟩] } }.modCl 5 fun c => { c with pq := [wEntry] }
     gridRun s = false ∧ (s.cl 5).failover = none ∧ (s.cl 5).pq = wEntry :: [] ∧
       s.od.waiting.find? (fun (x : Waiting) => x.req == wEntry.req) = some ⟨3, .monitor, [1, 2, 3, 4]⟩ ∧
       clocked 5 s = true ∧ isolated 5 s = false ∧ serverUp s = true) ∧ dark wOd = false ∧ serverUp wOd = true ∧
    loadCap wOd (capOfWords (hubGet 0x30005C wOd) (hubGet 0x30005D wOd) (hubGet 0x30005E wOd) 0) = some CapV.null := by decide +kernel

/-! ## Sparing -/

/-- VC5 protected with its region from 0x1000000000 on: one static and one mirrored plot. -/
def wSp : State :=
  hubPut (spmCl 5 4) 0 (hubPut (spmCl 5 5) 0x141000 (hubPut (spmCl 5 2) 0x200004 (hubPut (spmCl 5 3) 8
    (hubSetBit (spmCl 5 1) 23 true (setMode 5 { State.reset with ns := 1000 })))))

/-- Its restore with mirror B complete. -/
def wRestore : State :=
  (spmPutState 5 1 { wSp with spm := { wSp.spm with engine := [(homeTile 5, some 5)] } }).modCl 5 fun c => { c with lastB := some true }

theorem witness_Restore : dark wSp = false ∧ dark wRestore = false ∧ Memory.wf wRestore.mem = true ∧ smAt none wRestore.spm.engine (homeTile 5) = some 5 ∧ spmState 5 wRestore = 1 ∧
    spmProt 5 wRestore = true ∧ (wRestore.cl 5).lastB = some true ∧ (∀ p ∈ mPlots 5 wRestore, p ∉ sPlots 5 wRestore) ∧
    mPlots 5 wRestore ≠ [] ∧ sPlots 5 wRestore ≠ [] := by decide +kernel

/-- Its replay with one record left, and with none at its tick. -/
def wReplay (left : Bool) : State :=
  (spmPutState 5 2 wSp).modCl 5 fun c =>
    { c with failover := some ⟨some 32, 0, 3, false, 0⟩, ringRecs := if left then [⟨3, 10, 0, [5, 6], 0⟩] else [], tickAt := some 9 }

theorem witness_Replay : (∀ b : Bool, spmState 5 (wReplay b) = 2 ∧ ((wReplay b).cl 5).groups = [] ∧
      ((wReplay b).cl 5).failover = some ⟨some 32, 0, 3, false, 0⟩) ∧
    replayRec 3 ((wReplay true).cl 5) = some ⟨3, 10, 0, [5, 6], 0⟩ ∧ replayRec 3 ((wReplay false).cl 5) = none ∧
    (∀ b : Bool, dark (wReplay b) = false) ∧ ((wReplay false).cl 5).tickAt.isSome = true ∧ rejoinsAtHold 5 (wReplay false) = false ∧ holdActive (wReplay false) = false := by decide +kernel

theorem witness_Swap : mode wSp ∈ [4, 5, 6, 7, 8] ∧ mode State.reset ∉ [4, 5, 6, 7, 8] ∧ (lowestSpare (homeTile 5) wSp).isSome = true ∧ (∀ m : Cl, homeTile m = homeTile 5 → foOpen m wSp = false) ∧
    hubBit 0x50030 22 wSp = false ∧ spmState 5 wSp = 0 ∧
    lowestSpare (homeTile 5) (hubSetBit (tileReg (homeTile 5)) 23 false (hubSetBit (tileReg (homeTile 5)) 22 false wSp)) = none := by decide +kernel

/-- A mirror pass under way, with its words moved, and one that has taken its frames. -/
def wPass (frame : Word) : State := hubPut 0x1018 frame (mirrorStart 5 wSp)

theorem witness_Mirror : (((wPass 10).cl 5).mirror).any (fun p => smWf (fun _ => 0) p.image && !mirrorLate 5 p (wPass 10) &&
      decide (mirrorWords 5 (wPass 10) ≤ mirrorBudget 5 (wPass 10) * ((baseFrame (wPass 10) - p.start) / divisor 5 (wPass 10) + 1)) &&
      inDeep (regionBase 5 (wPass 10) + mirrorOfs 5 (((wPass 10).cl 5).lastB == some false) (wPass 10))) = true ∧
    isolated 5 (wPass 10) = false ∧
    (((wPass 4000).cl 5).mirror).any (fun p =>
      decide (p.start + hubFld (spmCl 5 2) 23 16 (wPass 4000) * divisor 5 (wPass 4000) ≤ baseFrame (wPass 4000))) = true ∧
    dark (wPass 10) = false ∧
    (∀ u : Unit7, hubBit 0x50021 u wSp = false ∧ hubBit 0x50021 u (hubSetBit 0x50021 u true wSp) = true) ∧
    (∀ u ∈ [(0, 0x8100), (1, 0x8500), (2, 0x10300), (3, 0x30000), (4, 0x40001), (6, 0x800000)], unitRegs u.1 u.2) := by
  refine ⟨?_, ?_, ?_, ?_, ?_, ?_⟩ <;> first | decide +kernel | (simp [unitRegs])

end Sys2Proof.Tests
end

