-- ==== Sys2Proof/Tests/Witness7.lean ====
section
/-!
SUPPORT. Tests/Witness7.lean: states and operands that meet the hypotheses of the statements about the security core, modes,
power, resets, the monitor, counters and registers (Certificates/Slice0/Obligations.lean), clause by clause.
-/
namespace Sys2Proof.Tests

open Sys2Proof.Machine Sys2Proof.Claims

-- The kernel checks these theorems one after the other.
set_option Elab.async false

/-! ## The security core -/

/-- The key G, whose private key is 1, and the r that nonce 2 gives in each signature below. -/
def wKeyWords : List Word := int256Words 48439561293906451759052585252797914202762949526041747995844080717082404635286#256 ++
  int256Words 36134250956749795798585127919587881956611106672985015071877198253568414405109#256
def wR : List Word := int256Words 56515219790691171413109057904011688695424810155802929973526481321309856242040#256

/-- A signed envelope of a kind: version 7, SVN 3, a slot, one payload word 0. -/
def wEnv (kind : Nat) (sig : BitVec 256) : List Word :=
  [BitVec.ofNat 24 (kindMagic kind), 1, 0xA1, 7, 3, if kind ≤ 2 then 0 else 2, 1, 0, 0, 0, 0, 0, 0, 0, 0, 0] ++ wKeyWords ++ [0] ++
    wR ++ int256Words sig

def wEnv1 : List Word := wEnv 1 66196304396211124527678096541769479274567045257395145826380833050304608609798
def wEnv2 : List Word := wEnv 2 79177824495343853321323969604420789467468674643999852699107457758901913391863
def wEnv4 : List Word := wEnv 4 9179982960612092071642328730516044899634981522627014348224104511459182759905
def wEnv5 : List Word := wEnv 5 50000971168423744060734013106620651692459400919680951966679947299841001932410

/-- A signed patch of one microword. -/
def wPatch : List Word :=
  [0x5A4D55, 1, 0xA1, 0x010001, 0x010000, 1, 0, 0, 0, 0, 0, 0, 0, 0, 0, 0, 0, 0, 0, 0, 0, 0xFFFF00] ++ wR ++
    int256Words 38555691362952975954708342741323851121793054146967163956097634328394179861724#256

/-- CONFIGURE with key G in vendor slot 0 and owner slot 2, an extension signed by G, and an image at 0x1000000000. -/
def wImg (ws : List Word) : State :=
  let s := hubPut 0x800002 0x1000 (hubPutPair 0x800003 (BitVec.ofNat 48 ws.length) (setMode 4 { State.reset with ns := 1000 }))
  let h : BitVec 256 := 97907811278191982235302962885333371635414970209241257599998103047552781061535
  { s with
    mem := (ws.zipIdx.map fun p => (0x1000000000 + p.2, p.1)).filter fun p => decide (p.2 ≠ 0)
    sec := { s.sec with
      otp := { s.sec.otp with vendor := [(0, h)], owner := [(0, h)], programmed := 5 }
      reqCaps := [⟨capOfWords 0 0x1000 0xFFFFFF 0x003000, true⟩]
      ext := some ⟨5, 3, 48439561293906451759052585252797914202762949526041747995844080717082404635286,
        36134250956749795798585127919587881956611106672985015071877198253568414405109, 77⟩ } }

theorem env1_ok : envCheck 1 61 wEnv1 (wImg wEnv1) = 0 := by decide +kernel
theorem env2_ok : envCheck 2 61 wEnv2 (wImg wEnv2) = 0 := by decide +kernel
theorem env4_ok : envCheck 4 61 wEnv4 (wImg wEnv4) = 0 := by decide +kernel
theorem env5_ok : envCheck 5 61 wEnv5 (wImg wEnv5) = 0 := by decide +kernel
theorem patch_ok : patchCheck 44 wPatch (wImg wPatch) = 0 := by decide +kernel

/-- Hardpan's reads find the words where the registers name them, and change nothing. -/
def sourced (ws : List Word) (s : State) : Bool :=
  let a := hubAddr 0x800001 s
  let len := (hubPair 0x800003 s).toNat
  srcCovered a len s && (match secWords a len s with
    | (false, some vs, t) => decide (vs = ws) && decide (t = s)
    | _ => false)

theorem sourced_ok {ws : List Word} {s : State} (h : sourced ws s = true) : Claims.Sourced ws s s := by
  simp only [sourced, Bool.and_eq_true] at h
  refine ⟨h.1, ?_⟩
  have h2 := h.2
  split at h2
  · rename_i vs t e
    simp only [Bool.and_eq_true, decide_eq_true_eq] at h2
    rw [e, h2.1, h2.2]
  · simp at h2

/-- The five images stand where the registers name them, with room in the sealed area. -/
theorem witness_Images : sourced wEnv1 (wImg wEnv1) = true ∧ sourced wEnv2 (wImg wEnv2) = true ∧
    sourced wEnv4 (wImg wEnv4) = true ∧ sourced wEnv5 (wImg wEnv5) = true ∧ sourced wPatch (wImg wPatch) = true ∧
    (hubPair 0x800003 (wImg wEnv1)).toNat = 61 ∧ (hubPair 0x800003 (wImg wPatch)).toNat = 44 ∧
    mode (wImg wEnv1) = 4 ∧ dark (wImg wEnv1) = false ∧ (wImg wEnv4).locks = [] ∧
    unitFenced 6 (wImg wEnv1) = false ∧ secBusy (wImg wEnv1) = false ∧
    (sealedRoom 61 (wImg wEnv4)).isSome = true ∧ ucOpenBusy 0 (wImg wPatch) = false ∧ (hubGet 0x800005 (wImg wPatch)).toNat = 0 := by
  decide +kernel

/-- No plot of any cluster waits for port A there. -/
theorem witness_NoneHeld (m : Cl) (k : Nat) : portHeld k ((wImg wEnv4).cl m) = false := by
  have h : (wImg wEnv4).cl m = Cluster.reset := by
    have : (wImg wEnv4).cls = State.reset.cls := rfl
    simp [State.cl, this, State.reset]
  rw [h]
  rfl

/-- Each kind of image with nothing in its words fails its first check; PROVISION loads no kind; without a request capability
nothing covers the source. -/
theorem witness_ImagesFail : (∀ k ∈ [1, 2, 4, 5], envCheck k 61 (List.replicate 61 0) (wImg (List.replicate 61 0)) = 1) ∧
    patchCheck 44 (List.replicate 44 0) (wImg (List.replicate 44 0)) = 1 ∧
    sourced (List.replicate 44 0) (wImg (List.replicate 44 0)) = true ∧
    mode (setMode 3 (wImg wEnv1)) = 3 ∧ sourced wEnv1 (setMode 3 (wImg wEnv1)) = true ∧
    (let s := { wImg wEnv1 with sec := { (wImg wEnv1).sec with reqCaps := [] } }
     srcCovered (hubAddr 0x800001 s) (hubPair 0x800003 s).toNat s = false) := by decide +kernel

/-- The device asked with an argument. -/
def wSec (m : Nat) (arg : Word) (ws : List Word) : State := hubPut 0x800005 arg (setMode m (wImg ws))

theorem witness_Requests : (let s := wSec 4 0 []; unitFenced 6 s = false ∧ secBusy s = false ∧ mode s = 4) ∧
    (∀ a ∈ [0, 1, 3], (hubGet 0x800005 (wSec 4 (BitVec.ofNat 24 a) [])).toNat = a ∧ mode (wSec 4 (BitVec.ofNat 24 a) []) ≠ 3) ∧
    commonUcode (wSec 4 2 []) ≠ 0xFFFFFF ∧
    (∀ a ∈ [5, 6, 7], (hubGet 0x800005 (wSec 4 (BitVec.ofNat 24 a) [1])).toNat = a) ∧ (∀ a ∈ [5, 7], sourced [1] (wSec 4 (BitVec.ofNat 24 a) [1]) = true) ∧
    (([(⟨0x17C0000080, 10, 1, true⟩ : Sealed)].find? fun c => c.addr == 0x17C0000000 + 64 * 2) =
      some ⟨0x17C0000080, 10, 1, true⟩) ∧
    (6 : BitVec 4).toNat ∉ [1, 2, 3, 4, 5, 7, 8, 9, 10, 11] ∧
    (let s := { wSec 4 0 [] with sec := { (wSec 4 0 []).sec with job := some ⟨1, 0, some 5, none, true⟩ } }
     s.sec.job = some ⟨1, 0, some 5, none, true⟩ ∧ mode s ≠ 2) ∧
    (let ws : List Word := List.replicate 11 5
     let s := wSec 4 6 ws
     sourced ws s = true ∧ ws.length = 11 ∧ (ws.getD 10 0).toNat < 2 ^ 16 ∧ 5 ≤ (hubGet 0x800005 s).toNat ∧ (hubGet 0x800005 s).toNat ≤ 7) ∧
    (let ws : List Word := List.replicate 11 0xFFFFFF
     sourced ws (wSec 4 6 ws) = true ∧ 2 ^ 16 ≤ (ws.getD 10 0).toNat) ∧ dark (wSec 4 0 []) = false ∧
    secBusy (hubSetBit 0x800000 22 true (wSec 4 0 [])) = true ∧ hubBit 0x50021 4 (wSec 4 0 []) = false := by decide +kernel

/-- The first OWNER request of a blank part, through the monitor: an envelope of 13 words without a signature. -/
def wOwner : List Word :=
  [BitVec.ofNat 24 (kindMagic 11), 1, 0xA1, 7, 3, 2, 13, 0, 0, 0, 0, 0, 0, 0, 0, 0] ++ wKeyWords ++ List.replicate 35 0

theorem witness_Owner : (let s := { wImg wOwner with sec := { (wImg wOwner).sec with otp := { (wImg wOwner).sec.otp with programmed := 1 } } }
    sourced wOwner s = true ∧ s.sec.otp.programmed.toNat / 4 = 0 ∧ envFormat 11 wOwner = true ∧ envWords wOwner = 13 ∧
      (hubPair 0x800003 s).toNat = 73 ∧ ((wOwner.drop 38).getD 12 0).toNat < 2 ^ 16 ∧ bitOf 0 ((wOwner.drop 38).getD 1 0) = false ∧
      s.sec.otp.programmed.getLsbD (2 + ((wOwner.drop 38).getD 0 0).toNat % 4) = false) := by decide +kernel

/-- Topsoil asked to come to rest 100 ms ago, with an image in the other half; and a part with both certificates and keys. -/
def wTop : State :=
  let s := setMode 2 { State.reset with ticks := 10 ^ 8 + 5 }
  { s with sec := { s.sec with topRuns := true, quiesceAt := some 3, topB := some ⟨5, 3, 0, 0, 77⟩ } }

theorem witness_Topsoil : dark wTop = false ∧ wTop.sec.quiesceAt = some 3 ∧ (3 : BitVec 64).toNat + 10 ^ 8 ≤ wTop.ticks.toNat ∧ wTop.sec.topRuns = true ∧
    unitFenced 5 wTop = false ∧ unitFenced 6 wTop = false ∧
    (if wTop.sec.halfB then wTop.sec.topA else wTop.sec.topB) = some ⟨5, 3, 0, 0, 77⟩ ∧
    (let s := setMode 3 { wTop with sec := { wTop.sec with otp := { wTop.sec.otp with idCert := [1], caCert := [1], programmed := 3 } } }
     mode s = 3 ∧ dark s = false ∧ s.sec.otp.idCert ≠ [] ∧ s.sec.otp.caCert ≠ [] ∧ s.sec.otp.programmed.toNat % 4 = 3) := by decide +kernel

/-! ## Modes, power, resets, the monitor and the counters -/

def wMode (m : Nat) : State := setMode m { State.reset with ns := 1000 }

theorem witness_Modes : (∀ m ∈ List.range 16, mode (wMode m) = m) ∧ secBusy (wMode 4) = false ∧ modePend (wMode 4) ≠ 1 ∧
    (wMode 5).tb.action = none ∧ hubBit 0x60060 22 (wMode 0xA) = false ∧
    (let s := hubSetBit 0x100A 1 true (wMode 4); hubBit 0x100A 1 s = true ∧ hubFld 0x100D 1 0 s ≠ 2) ∧
    (let s := wAct .start (wMode 5); mode s = 5 ∧ startPending s = true) ∧ hubBit 0x60058 15 (wMode 9) = false ∧
    (2 : BitVec 4).toNat ∈ [2, 3, 7, 8, 12, 13, 14, 15] ∧ mode (setModePend 1 (wMode 4)) = 4 ∧ modePend (setModePend 1 (wMode 4)) = 1 := by
  decide +kernel

/-- REPLAY with VC5 protected and a mirror complete, before GO, and after it with nothing to replay. -/
def wGo : State := (hubSetBit (spmCl 5 0) 19 false (setMode 0xA wSp)).modCl 5 fun c => { c with lastB := some true }

theorem witness_Replays : mode wGo = 0xA ∧ hubBit 0x60060 22 wGo = false ∧ spmProt 5 wGo = true ∧ hubBit (spmCl 5 0) 19 wGo = false ∧
    (wGo.cl 5).lastB = some true ∧ Memory.wf wGo.mem = true ∧ mPlots 5 wGo ≠ [] ∧
    (let s := hubSetBit 0x60060 22 true wGo; hubBit 0x60060 22 s = true ∧
      (s.cl (clOf s.pwr.replayVc)).groups = [] ∧ s.pwr.replayLeft = 0) ∧ dark wGo = false := by decide +kernel

/-- A domain that may switch to off, one that may not, and one that switches. -/
theorem witness_Domains : (let d := physDom 5 (wMode 4)
    d < 293 ∧ domOpen d (wMode 4) = true ∧ domState d (wMode 4) ≠ 0 ∧ logicalOn d (wMode 4) = some 5 ∧ d < 272) ∧
    domOpen (physDom 5 wSp) wSp = false ∧ domOpen (physDom 5 (wMode 4)) (hubSetBit (0x60100 + physDom 5 (wMode 4)) 19 false (wMode 4)) = true ∧
    domOpen (physDom 5 wSp) (hubSetBit (0x60100 + physDom 5 wSp) 19 false wSp) = false ∧ dark (wMode 4) = false ∧
    smAt none { (wMode 4).pwr with switching := [(5, some 0)] }.switching 5 = some 0 := by decide +kernel

/-- A rail below and above its warning level and at it; 40 samples, below and above the trip, without and with invalid sensors. -/
theorem witness_Supplies : (5 : BitVec 16).toNat < railWarn 3 ∧ railWarn 3 < (65535 : BitVec 16).toNat ∧
    (BitVec.ofNat 16 (railWarn 3)).toNat ≤ railWarn 3 ∧ powered (wMode 6) = true ∧ dark (wMode 6) = false ∧
    (hottest ((List.range 40).map fun i => BitVec.ofNat 24 (16 * (60 + i)))).any (fun x => decide (x < 115 * 16)) = true ∧
    (hottest ((List.range 40).map fun i => BitVec.ofNat 24 (16 * (80 + i)))).any (fun x => decide (115 * 16 ≤ x)) = true ∧
    hottest ((List.replicate 40 (none : Option Word)).filterMap id) = none ∧
    (hottest (((none : Option Word) :: List.replicate 39 (some 16)).filterMap id)).isSome = true ∧ (wMode 6).movers = [] := by
  decide +kernel

theorem witness_Resets : (wMode 6).pwr.trip = false ∧ mode (wMode 6) ≠ 0 ∧ (5 : BitVec 16) ≠ 0 ∧ (5 : BitVec 16).toNat < railReset 3 ∧
    mode (wMode 1) = 1 ∧ (wMode 1).pwr.trip = false ∧ mode (wMode 0) = 0 ∧ dark (wMode 6) = false ∧
    hubBit 0x60002 23 (hubSetBit 0x60002 23 true (wMode 1)) = true ∧
    (let s := hubSetBit 0x60002 22 true (wMode 1)
     hubBit 0x60002 22 s = true ∧ (hubTime 0x60003 s).toNat ≤ 256 * (s.pwr.standbyAt + BitVec.ofNat 64 777).toNat) := by decide +kernel

def monOkay : MonEnd × State → Bool
  | (.ok _, _) => true
  | _ => false

/-- The monitor reads and writes a mode register in SERVICE, and a word of the deep store; a line waits while an OD request
has no answer. -/
theorem witness_Monitor : powered (wMode 0xB) = true ∧ mode (wMode 0xB) = 11 ∧ mode (wMode 3) = 3 ∧ mode (wMode 1) = 1 ∧ powered (wMode 1) = true ∧
    monWaits (wMode 0xB) = false ∧ monCrosses 0x4000060004 1 = false ∧ monOkay (monReads 0x4000060004 1 (wMode 0xB)) = true ∧
    monOkay (monWrites 0x4000060004 [5] [] (wMode 0xB)) = true ∧ secBusy (wMode 0xB) = false ∧ unitFenced 6 (wMode 0xB) = false ∧
    monWaits { wMode 4 with od := { (wMode 4).od with waiting := [⟨3, .monitor, [1, 2, 3, 4]⟩] } } = true ∧
    serverUp wOd = true ∧ monWaits wOd = false ∧ (wMode 0xB).movers = [] ∧
    (regionOf 0x1000000105 = .deep 0x105 ∧ 0x1000000105 < sealedBase ∧ lockedFor .monitor 0x1000000105 (wMode 0xB) = false ∧
      deepBad 0x105 (wMode 0xB) = false) ∧
    mode (wMode 2) = 2 ∧ hubFld 0x800009 20 18 (hubPut 0x800009 0x040000 (wMode 2)) ≠ 0 ∧ hubFld 0x800009 20 18 (wMode 2) = 0 := by
  decide +kernel

/-- "ID 1" has an argument too many, "XY" names no command, "ID" is the command ID; an image that the monitor hands over has an end. -/
theorem witness_MonitorLines : monTokens [0x49, 0x44, 0x20, 0x31] = [0x49, 0x44] :: [[0x31]] ∧ ([0x49, 0x44], 0, 0) ∈ monCommands ∧
    (monTokens [0x58, 0x59] = [0x58, 0x59] :: [] ∧ ∀ c ∈ monCommands, c.1 ≠ [0x58, 0x59]) ∧
    (secImage 1 3 [1, 2, 3] (wMode 4)).sec.job.isSome = true ∧ secBusy (hubSetBit 0x800000 22 true (wMode 4)) = true := by decide +kernel

def accIs : Acc × State → Bool
  | (.ok _, _) => true
  | _ => false

theorem witness_MonitorRmw : lockedFor .monitor 0x4000060004 (wMode 0xB) = false ∧
    accIs (monRead1 0x4000060004 (monLock (targetOf 0x4000060004) (wMode 0xB))) = true ∧
    accIs (monWrite1 0x4000060004 5 (monRead1 0x4000060004 (monLock (targetOf 0x4000060004) (wMode 0xB))).2) = true := by decide +kernel

theorem witness_Counts : (let s := { wMode 5 with locks := [⟨3, .monitor, 0⟩], ticks := 2000 }
    s.locks.find? (fun x => x.target == 3) = some ⟨3, .monitor, 0⟩ ∧ 1000 < (s.ticks - 0).toNat ∧ dark s = false) ∧
    lockedFor .security 0x4000060004 (wMode 5) = false ∧ (0x60004, 0xFFFFFF, 0) ∈ plainHub ∧
    (0x4000060004 : BitVec 40).toNat = 0x4000000000 + 0x60004 ∧ anyWrites (slotCaps 0 (wMode 5)) 0x1000 0 = false ∧
    clocked 0 (wMode 5) = true ∧ ioBit 0x1F8 1 (ioSetBit 0x1F8 1 true ((wMode 5).cl 0)) = true ∧ (wMode 5).tb.slots = false := by decide +kernel

end Sys2Proof.Tests
end

