-- ==== Sys2Proof/Tests/Slice0.lean ====
section
/-!
SUPPORT. Tests/Slice0.lean: for each check of WellFormed.lean a command that it refuses; and single commands on small states
whose results follow from the rule that each test names.
-/
namespace Sys2Proof.Tests

open Sys2Proof.Machine Sys2Proof.Claims

-- The kernel checks these theorems one after the other.
set_option Elab.async false

/-! ## Commands that cannot be -/

/-- A flash two of whose runs overlap (R473). -/
def badFlash : Flash := ⟨[(0, [1, 2]), (1, [3])]⟩

theorem test_illFormed_coldReset (c : ResetCause) (b : Bool) : (Instr.coldReset c b badFlash).wellFormed = false := rfl
theorem test_illFormed_warmReset : (Instr.warmReset badFlash).wellFormed = false := by decide +kernel
theorem test_illFormed_wake : (Instr.wake .pin (2 ^ 64) false ⟨[]⟩).wellFormed = false := by decide +kernel
theorem test_illFormed_configure : (Instr.modeRequestConfigure badFlash).wellFormed = false := by decide +kernel
theorem test_illFormed_railReset : (Instr.railResetLevel 0 0 false badFlash).wellFormed = false := by decide +kernel
theorem test_illFormed_patrolScrub :
    (Instr.lsPatrolScrub 0 0 [⟨3, 1, false⟩, ⟨3, 2, true⟩]).wellFormed = false := by decide +kernel
theorem test_illFormed_hbmScrub : (Instr.hbmScrub 0 (2 ^ 28) .corrected).wellFormed = false := by decide +kernel
theorem test_illFormed_frameReceive : (Instr.converterFrameReceive 0 [] true).wellFormed = false := by decide +kernel
theorem test_illFormed_bankSupply : (Instr.bankSupplyChange 0 65536).wellFormed = false := by decide +kernel
theorem test_illFormed_netFrame : (Instr.netFrameReceive 0 ⟨0x600000, 0, 0, 0, 0, 0, [], true⟩).wellFormed = false := by decide +kernel
theorem test_illFormed_bar0Read : (Instr.bar0Read 0 0x3FFFFFF 2).wellFormed = false := by decide +kernel
theorem test_illFormed_bar0Write : (Instr.bar0Write 0 0 []).wellFormed = false := by decide +kernel
theorem test_illFormed_bar2 : (Instr.bar2Access 0 0xFFFFFFF (.read 2)).wellFormed = false := by decide +kernel
theorem test_illFormed_hdm : (Instr.hdmAccess 0 (2 ^ 41) (.write [1])).wellFormed = false := by decide +kernel
theorem test_illFormed_backInvalidate : (Instr.backInvalidate 0 (2 ^ 30)).wellFormed = false := by decide +kernel
theorem test_illFormed_mailbox : (Instr.mailboxResponse 0 0 (List.replicate 257 0)).wellFormed = false := by decide +kernel
theorem test_illFormed_datagram : (Instr.nfpRead (.udp 0 0 0 0 0 0 (List.replicate 1453 0))).wellFormed = false := by decide +kernel
theorem test_illFormed_odFrame : (Instr.nfpWrite (.ether 0 0 0 (List.replicate 1501 0))).wellFormed = false := by decide +kernel
theorem test_illFormed_monOd : (Instr.monOd (List.replicate 200 0xFFFFF)).wellFormed = false := by decide +kernel
theorem test_illFormed_monWr : (Instr.monWr 0 (List.replicate 513 0)).wellFormed = false := by decide +kernel
theorem test_illFormed_certificate : (Instr.factoryCommand (.deviceCaCert (List.replicate 215 0))).wellFormed = false := by decide +kernel
theorem test_illFormed_thermal : (Instr.thermalSample []).wellFormed = false := by decide +kernel
theorem test_illFormed_lock : (Instr.lockTimeout 15).wellFormed = false := by decide +kernel
theorem test_illFormed_spdm : (Instr.spdmRequest .challenge []).wellFormed = false := by decide +kernel

/-! ## The queue -/

/-- The state that a step leaves. -/
def stepped (s : State) : State := after (step s)

theorem test_step_takes_the_front : (stepped { ws with pending := [.setIe 0, .tbStep] }).pending = [.tbStep] := by decide +kernel
theorem test_step_idles : step State.reset = .next State.reset := rfl
theorem test_no_row_has_bits : decodeTableWord 24 0 = none := rfl

/-! ## Words of a sequencer -/

/-- R213, R216: pairs written out field by field: bit 23, op in [22:19], rd in [18:15], s in [14:12], then the other slot. -/
theorem test_decode_movi : decodeWord 3 0xDC0F00 = some [.shortMovi 3 .a 8 0, .nop 3 .b] := by decide +kernel
theorem test_decode_short_add : decodeWord 3 0x8C1F00 = some [.shortAdd 3 .a 8 1, .nop 3 .b] := by decide +kernel
theorem test_decode_shifts : decodeWord 3 0xC489A0 = some [.shortShli 3 .a 9 0, .shortShri 3 .b 10 0] := by decide +kernel

/-- R218, R248: the opcode in [22:17] and the fields of LOOPI, SKB, CBND and CPERM. -/
theorem test_decode_loopi : decodeWord 3 0x443003 = some [.loopi 3 24 3] := by decide +kernel
theorem test_decode_skb : decodeWord 3 0x401400 = some [.skb 3 10 false 0] := by decide +kernel
theorem test_decode_cbnd : decodeWord 3 0x58A408 = some [.cbnd 3 5 2 8 0] := by decide +kernel
theorem test_decode_cperm : decodeWord 3 0x5AAA0A = some [.cperm 3 5 5 10] := by decide +kernel

/-- R213, R214: opcode 0x0B is reserved, 0x3C begins an order. -/
theorem test_word_illegal : wordIllegal 0x160000 = true ∧ wordIllegal 0x780000 = false := by decide +kernel

/-- x[2] = 0x100 and x[3] = 0x30 (wc): what x[4] holds after a word. -/
def x4 (o : Out) : Word := xGet ((after o).cl 0) 4

/-- R219: ADD, SUB, SAR and ROL by hand. -/
theorem test_add : x4 (execAluAdd 0 4 2 3 ws) = 0x130 := by decide +kernel
theorem test_sub_wraps : x4 (execAluSub 0 4 3 2 ws) = 0xFFFF30 := by decide +kernel
theorem test_rol_wraps : x4 (execShiRol 0 4 2 20 ws) = 0x000010 := by decide +kernel
theorem test_lis : x4 (execLis 0 4 0x1FFF ws) = 0xFFFFFF := by decide +kernel
theorem test_clz : x4 (execAluClz 0 4 2 ws) = 15 := by decide +kernel

/-- R217: 0x30 − 0x100 borrows and is negative: C = 0, N = 1. -/
theorem test_cmp_flags : (ccGet ((after (execCmp 0 3 2 ws)).cl 0)) = 2 := by decide +kernel

/-- R218: BRA by −2 goes to the second word before its own. -/
theorem test_bra : ((after (execBra 0 0x1FFFE ws)).cl 0).pc = 0xFE := by decide +kernel

/-- R249: a capability that CPERM makes holds no permission that the mask leaves out. -/
theorem test_cclr : (cGet ((after (execCclr 0 2 ws)).cl 0) 2).valid = false := by decide +kernel

/-! ## Numbers and ciphers -/

/-- R115: 1 + 1 = 2 in F48, whose exponent bias is 1,023; 1 / 0 is +∞ with DZ. -/
theorem test_f48_add : fElem .vadd f48 0 0x3FF000000000 0x3FF000000000 0 0 = (0x400000000000, 0) := by decide +kernel
theorem test_f48_div_by_zero : fElem .vdiv f48 0 0x3FF000000000 0 0 0 = (0x7FF000000000, flDZ) := by decide +kernel

/-- SHA-256 of "abc" (FIPS 180-4). -/
theorem test_sha256 : sha256 [0x61, 0x62, 0x63] = 0xba7816bf8f01cfea414140de5dae2223b00361a396177a9cb410ff61f20015ad := by
  decide +kernel

/-- AES-128 of the example block (FIPS 197, appendix C.1). -/
theorem test_aes128 : aes128 0x000102030405060708090a0b0c0d0e0f 0x00112233445566778899aabbccddeeff = 0x69c4e0d86a7b0430d8cdb78070b4c55a := by
  decide +kernel

/-! ## Time, queues, reset -/

/-- R32: a base tick moves device time on by one ns. -/
theorem test_base_tick : (after (execBaseTick wT)).ns = 12346 := by decide +kernel

/-- R360: a read of an empty queue repeats the last word, 0 after reset. -/
theorem test_pq_rd_empty : (after (execPqRd 3 State.reset)).resp = [0] := by decide +kernel

/-- The bank map of the register file: TB_FRAME_PERIOD is 1,000 ns after reset, PWR_MODE.CUR is BOOT. -/
theorem test_reset_period : hubFld 0x1010 19 0 State.reset = 1000 := by decide +kernel
theorem test_reset_mode : mode State.reset = 2 := by decide +kernel

end Sys2Proof.Tests
end

section
/-!
PROOFS. The front of the queue (O1), and the words of a sequencer that reach IO registers and descriptor registers (O10).
-/
namespace Sys2Proof.Machine

open Sys2Proof.Claims

/-! ## Words that complete and go on -/

/-- A word that issues at once, leaves its cluster as `c` and completes: what `c` brings lands, and the next word follows. -/
theorem issue_go {n : Cl} {s : State} (h : Issues n s) {f : Word → State → SeqRes} {c : Cluster}
    (hf : ∀ w, f w s = .go (s.putCl n c)) (hl : ioBit 0x6 23 c = false) (hg : c.loopLag = []) :
    issue n {} f s = s.putCl n (evcEvent 0x02 1 (landDue (passOver c))) := by
  rw [issue_now h _ _ (.inl rfl)]
  simp only [modCl_eq, dAct_plain, putCl_cl_same, hf, SeqRes.go, wordEnd]
  rw [wordDone_go (by simpa using hl) (by simpa using hg)]
  simp only [putCl_cl_self, putCl_putCl]

/-- With nothing under way, results that come later than the next word stay under way. -/
theorem landDue_passOver_dueAdd_later {c : Cluster} (h : c.due = []) {k : Nat} (hk : 1 < k) (r : RegName) (v : RegVal) :
    landDue (passOver (dueAdd k [(r, v)] c)) = passOver (later k r v c) := by
  rw [landDue_later (w := ⟨r, v, c.cyc + k⟩) (by simp [passOver, dueAdd, h, dueInsert])
    (by simp only [passOver, dueAdd]; omega)]
  simp [passOver, dueAdd, later, h, dueInsert]

/-! ## Plain registers of the IO-space -/

/-- The rows of the registers of `plainIo`: their RW and RW1C bits, and no write-only field. -/
theorem ioRow_plainIo :
    ∀ p ∈ plainIo, (ioRow p.1).rw = p.2.1 ∧ (ioRow p.1).w1c = p.2.2 ∧ (ioRow p.1).wo = 0 := by decide +kernel

/-- No register of `plainIo` is one that an access treats in a way of its own. -/
theorem place_plainIo :
    ∀ p ∈ plainIo, 0x10 ≤ p.1 ∧ p.1 < 0x1E0 ∧ p.1 ≠ 0x1D ∧ (p.1 < 0x20 ∨ 0x30 ≤ p.1) ∧ (p.1 < 0x100 ∨ 0x103 ≤ p.1) ∧
      (p.1 < 0x190 ∨ 0x1A0 ≤ p.1) ∧ p.1 ≠ 0x1A8 ∧ p.1 ≠ 0x1B5 := by decide +kernel

/-- A register without write-only fields reads as it stands (R8). -/
theorem regRead_of_wo {r : RegRow} (h : r.wo = 0) (v : Word) : regRead r v = v := by
  rw [regRead, h]; exact BitVec.and_allOnes

theorem ioRead_plainIo {off : Nat} {rw w1c : Word} (h : (off, rw, w1c) ∈ plainIo) (n : Cl) (s : State) :
    ioRead n off s = (ioGet off (s.cl n), s) := by
  obtain ⟨-, -, hwo⟩ := ioRow_plainIo _ h
  obtain ⟨h1, h2, -, h4, h5, -⟩ := place_plainIo _ h
  simp only at hwo h1 h2 h4 h5
  unfold ioRead
  repeat rw [if_neg (by omega)]
  rw [regRead_of_wo hwo]

theorem ioCodeWrite_plainIo {off : Nat} {rw w1c : Word} (h : (off, rw, w1c) ∈ plainIo) (v : Word) (c : Cluster) :
    ioCodeWrite off v c = ioPut off (written rw w1c (ioGet off c) v) c := by
  obtain ⟨hrw, hw1c, hwo⟩ := ioRow_plainIo _ h
  simp only at hrw hw1c hwo
  simp [ioCodeWrite, regWrite, written, hrw, hw1c, hwo]

theorem ioWrite_plainIo {off : Nat} {rw w1c : Word} (h : (off, rw, w1c) ∈ plainIo) (n : Cl) (v : Word) (s : State) :
    ioWrite n off v s = s.putCl n (ioPut off (written rw w1c (ioGet off (s.cl n)) v) (s.cl n)) := by
  obtain ⟨h1, h2, h3, h4, h5, h6, h7, h8⟩ := place_plainIo _ h
  simp only at h1 h2 h3 h4 h5 h6 h7 h8
  unfold ioWrite
  repeat rw [if_neg (by omega)]
  simp only [modCl_eq, ioCodeWrite_plainIo h]

/-- An access to a register of `plainIo` that its capability allows takes place once the store buffer is empty. -/
theorem ioAccess_plainIo {n : Cl} {slot : Nat} {a : Word} {rw w1c : Word} (h : (a.toNat, rw, w1c) ∈ plainIo) {s : State}
    {perm : Nat} (hcap : ioFault (cGet (s.cl n) slot) a.toNat perm = none) (hb : (s.cl n).sbuf = [])
    (f : State → SeqRes) : ioAccess n slot a perm f s = f s := by
  obtain ⟨h1, h2, -⟩ := place_plainIo _ h
  simp only at h1 h2
  have ha : ¬ a = 1#24 := by rintro rfl; simp at h1
  have hlo : ¬ 0x2000 ≤ a.toNat := by omega
  have hmask : ¬ 0x800 ≤ a.toNat := by omega
  simp [ioAccess, ioCheck, ioWaits, withFp, hcap, hb, hlo, hmask, ha]

/-- A read of a register of `plainIo` into x[rd], visible from the end of the stall (R223, R225, R230). -/
theorem issue_ioInRes {n : Cl} {s : State} (h : Issues n s) (hb : (s.cl n).sbuf = []) {slot : Cluster → Nat} {a : Cluster → Word}
    {rw w1c : Word} (hp : ((a (s.cl n)).toNat, rw, w1c) ∈ plainIo) (rd : Reg)
    (hcap : ioFault (cGet (s.cl n) (slot (s.cl n))) (a (s.cl n)).toNat permRD = none) :
    issue n {} (fun _ t => ioInRes n (slot (t.cl n)) (a (t.cl n)) rd t) s =
      s.putCl n (goOn (later 4 (xName (s.cl n) rd) (.w (ioGet (a (s.cl n)).toNat (s.cl n))) (s.cl n))) := by
  rw [issue_go h (c := dueAdd ioVis [(xName (s.cl n) rd, .w (ioGet (a (s.cl n)).toNat (s.cl n)))] (s.cl n))
    (fun _ => by simp only [ioInRes, ioAccess_plainIo hp hcap hb, ioRead_plainIo hp, modCl_eq])
    (by simpa [dueAdd, ioBit, ioGet] using h.loop) (by simpa [dueAdd] using h.lag)]
  rw [landDue_passOver_dueAdd_later h.calm (by decide), goOn, ioVis]

/-- A write of x[rd] to a register of `plainIo` (R8, R223). -/
theorem issue_ioOutRes {n : Cl} {s : State} (h : Issues n s) (hb : (s.cl n).sbuf = []) {slot : Cluster → Nat} {a : Cluster → Word}
    {rw w1c : Word} (hp : ((a (s.cl n)).toNat, rw, w1c) ∈ plainIo) (rd : Reg)
    (hcap : ioFault (cGet (s.cl n) (slot (s.cl n))) (a (s.cl n)).toNat permWR = none) :
    issue n {} (fun _ t => ioOutRes n (slot (t.cl n)) (a (t.cl n)) rd t) s =
      s.putCl n (goOn (ioPut (a (s.cl n)).toNat (written rw w1c (ioGet (a (s.cl n)).toNat (s.cl n)) (xGet (s.cl n) rd)) (s.cl n))) := by
  have hoff : (a (s.cl n)).toNat ≠ 0x6 := by
    have := (place_plainIo _ hp).1
    simp only at this; omega
  rw [issue_go h (c := ioPut (a (s.cl n)).toNat (written rw w1c (ioGet (a (s.cl n)).toNat (s.cl n)) (xGet (s.cl n) rd)) (s.cl n))
    (fun _ => by simp only [ioOutRes, ioAccess_plainIo hp hcap hb, ioWrite_plainIo hp])
    (by simpa [ioBit, ioGet_ioPut_ne _ _ hoff] using h.loop) (by simpa using h.lag)]
  rw [landDue_nil (by simp [passOver, h.calm]), goOn]

/-! ## Descriptor registers -/

theorem smErase_of_keys {α : Type} {m : SMap α} {k : Nat} (h : ∀ p ∈ m, p.1 ≠ k) : smErase m k = m := by
  rw [smErase_eq_filter, List.filter_eq_self]
  simpa using h

theorem smErase_smInsert {α : Type} (m : SMap α) (k : Nat) (v : α) : smErase (smInsert k v m) k = smErase m k := by
  induction m with
  | nil => simp [smInsert, smErase]
  | cons p t ih =>
    obtain ⟨a, b⟩ := p
    by_cases hlt : k < a
    · simp [smInsert, smErase, hlt]
    · simp [smInsert, smErase, hlt, ih]

/-- Of two puts at one key the second remains. -/
theorem smSet_smSet {α : Type} [DecidableEq α] (d : Nat → α) (m : SMap α) (k : Nat) (u v : α) :
    smSet d (smSet d m k u) k v = smSet d m k v := by
  have h : smErase (smSet d m k u) k = smErase m k := by
    unfold smSet
    split
    · exact smErase_of_keys (smErase_keys m k)
    · rw [smErase_smInsert, smErase_of_keys (smErase_keys m k)]
  rw [smSet, h, ← smSet]

theorem smPut_smPut {α : Type} [DecidableEq α] (e : α) (m : SMap α) (k : Nat) (u v : α) :
    smPut e (smPut e m k u) k v = smPut e m k v := smSet_smSet _ m k u v

theorem landDue_two {c : Cluster} {w x : RegWrite} (h : c.due = [w, x]) (hw : w.due ≤ c.cyc) (hx : x.due ≤ c.cyc) :
    landDue c = landReg (landReg { c with due := [] } w) x := by
  simp [landDue, h, hw, hx]

theorem landReg_dWord (c : Cluster) (d k t : Nat) (v : Word) :
    landReg c ⟨.dWord d k, .w v, t⟩ = { c with dregs := smPut Desc.zero c.dregs d (descPut (dGet c d) k v) } := rfl

/-- A word of a descriptor register that comes with n = 1 has landed when the next word issues. -/
theorem landDue_passOver_dueAdd_dWord {c : Cluster} (h : c.due = []) (d : Reg) (w : Nat) (v : Word) :
    landDue (passOver (dueAdd 1 [(.dWord d w, .w v)] c)) =
      passOver { c with dregs := smPut Desc.zero c.dregs d (descPut (dGet c d) w v) } := by
  rw [landDue_one (w := ⟨.dWord d w, .w v, c.cyc + 1⟩) (by simp [passOver, dueAdd, h, dueInsert]) (by simp [passOver, dueAdd])]
  cases c
  simp only at h
  subst h
  rfl

/-- The two words of BASE that DADD leaves (R218). -/
theorem landDue_passOver_dueAdd_base {c : Cluster} (h : c.due = []) (d : Reg) (lo hi : Word) :
    landDue (passOver (dueAdd 1 [(.dWord d 0, .w lo), (.dWord d 1, .w hi)] c)) =
      passOver { c with dregs := smPut Desc.zero c.dregs d (descPut (descPut (dGet c d) 0 lo) 1 hi) } := by
  rw [landDue_two (w := ⟨.dWord d 0, .w lo, c.cyc + 1⟩) (x := ⟨.dWord d 1, .w hi, c.cyc + 1⟩)
    (by simp only [passOver, dueAdd, h, List.foldl, dueInsert, Nat.lt_irrefl, ↓reduceIte]) (Nat.le_refl _) (Nat.le_refl _)]
  rw [landReg_dWord, landReg_dWord]
  simp only [dGet, smAt_smPut, ↓reduceIte, smPut_smPut, passOver, dueAdd, ← h]

/-- The two words of a BASE, put one after the other. -/
theorem descPut_base (g : Desc) (b : GAddr) :
    descPut (descPut g 0 (b.extractLsb' 0 24)) 1 ((b.extractLsb' 24 16).setWidth 24) = { g with base := b } := by
  have hb := b.isLt
  simp only [descPut, Desc.mk.injEq, and_self, and_true]
  apply BitVec.eq_of_toNat_eq
  simp only [setFld, fld, BitVec.toNat_ofNat, BitVec.extractLsb'_toNat, BitVec.toNat_setWidth, Nat.shiftRight_eq_div_pow]
  omega

theorem ofInt_toNat_add_toInt (b : GAddr) (w : Word) : BitVec.ofInt 40 (b.toNat + w.toInt) = b + w.signExtend 40 := by
  rw [BitVec.ofInt_add, BitVec.signExtend]
  simp

/-- DRD reads a word of a descriptor register (R218). -/
theorem exec_drd {n : Cl} {s : State} (h : Issues n s) (rd d : Reg) {w : BitVec 3} (hw : w.toNat < 5) :
    exec (.drd n rd d w) s = .next (s.putCl n (goOn (xSet rd (descGet (dGet (s.cl n) d) w.toNat) (s.cl n)))) := by
  have hw' : ¬ 5 ≤ w.toNat := by omega
  show Host.Outcome.next _ = _
  simp only [if_neg hw']
  exact xWord_now h rd (fun c => descGet (dGet c d) w.toNat)

/-- DWR writes a word of a descriptor register (R218). -/
theorem exec_dwr {n : Cl} {s : State} (h : Issues n s) (d rs : Reg) {w : BitVec 3} (hw : w.toNat < 5) :
    exec (.dwr n d rs w) s = .next (s.putCl n (goOn { s.cl n with
      dregs := smPut Desc.zero (s.cl n).dregs d (descPut (dGet (s.cl n) d) w.toNat (xGet (s.cl n) rs)) })) := by
  have hw' : ¬ 5 ≤ w.toNat := by omega
  show Host.Outcome.next _ = _
  rw [issue_go h (c := dueAdd 1 [(.dWord d w.toNat, .w (xGet (s.cl n) rs))] (s.cl n)) (fun _ => by rw [if_neg hw', modCl_eq])
    (by simpa [dueAdd, ioBit, ioGet] using h.loop) (by simpa [dueAdd] using h.lag)]
  rw [landDue_passOver_dueAdd_dWord h.calm, goOn]

/-- DADD adds a signed word to a BASE modulo 2^40 (R218). -/
theorem exec_dadd {n : Cl} {s : State} (h : Issues n s) (d rs : Reg) :
    exec (.dadd n d rs) s = .next (s.putCl n (goOn { s.cl n with
      dregs := smPut Desc.zero (s.cl n).dregs d { dGet (s.cl n) d with
        base := BitVec.ofInt 40 ((dGet (s.cl n) d).base.toNat + (xGet (s.cl n) rs).toInt) } })) := by
  show Host.Outcome.next _ = _
  rw [issue_go h (fun _ => by rw [modCl_eq]) (by simpa [dueAdd, ioBit, ioGet] using h.loop) (by simpa [dueAdd] using h.lag)]
  rw [landDue_passOver_dueAdd_base h.calm, descPut_base, ofInt_toNat_add_toInt, goOn]

end Sys2Proof.Machine

namespace Sys2Proof.Proofs

open Sys2Proof.Machine Sys2Proof.Claims

/-- Settles O1: it is the definition of a step, read for each form of the queue. -/
theorem stepRunsTheFrontCommand : Obligations.StepRunsTheFrontCommand := by
  unfold Obligations.StepRunsTheFrontCommand
  refine ⟨fun c rest s h => ?_, fun s h => ?_⟩ <;> rw [step, h]

/-- Settles O10, word by word: an access to a register of `plainIo` meets no case of its own, and the words of a descriptor
land before the next word. -/
theorem ioAndDescriptorWords : Obligations.IoAndDescriptorWords := by
  unfold Obligations.IoAndDescriptorWords
  refine ⟨fun n rd rs io imm s h hb => ⟨fun off rw w1c hoff hp => ?_, fun rw w1c hp => ?_⟩,
    fun n rd d rs w s h hw => ⟨exec_drd h rd d hw, exec_dwr h d rs hw, exec_dadd h d rs⟩⟩
  · have hio : (BitVec.setWidth 24 io).toNat = off := by
      rw [hoff, BitVec.toNat_setWidth]; have := io.isLt; omega
    subst hio
    exact ⟨fun hcap => congrArg _ (issue_ioInRes h hb (slot := ioCapSlot) (a := fun _ => io.setWidth 24) hp rd hcap),
      fun hcap => congrArg _ (issue_ioOutRes h hb (slot := ioCapSlot) (a := fun _ => io.setWidth 24) hp rd hcap)⟩
  · exact ⟨fun hcap => congrArg _ (issue_ioInRes h hb (slot := fun _ => rs) (a := fun c => xGet c rs + imm.setWidth 24) hp rd hcap),
      fun hcap => congrArg _ (issue_ioOutRes h hb (slot := fun _ => rs) (a := fun c => xGet c rs + imm.setWidth 24) hp rd hcap)⟩

end Sys2Proof.Proofs
end
section
/-!
PROOFS. The queue of waiting commands through every command (O4). A command's arm is built from a few hundred functions
that make a state. Each has one lemma here, in the order of the model's files: its state has the queue that it was given.
A function that answers with a result of its own kind has a lemma about the states that the result holds.

The lemmas have the head `State.queue` and not the field, so that `simp` rewrites the outermost function and visits none
of its operands. One that holds by unfolding is proved by the tactic `rfl`: as a term, `rfl` would let `simp` drop the
step, and the kernel would then compare two states by computing them.
-/
namespace Sys2Proof.Machine

/-- The queue of waiting commands, under a name that is unfolded only on purpose: an equation of queues is then an equation
about the operations that made the states, and nobody computes them. -/
def State.queue (s : State) : List Instr := s.pending

/-- An update of other fields keeps the queue. -/
@[simp ↓] theorem queue_mk (s : State) (resp fresh ns ticks hub mem snap cls tb links sysref sysrefAt tmc ev net cmac cxl od
    spm sec pwr mon locks jtag hbm movers syncOut) :
    (State.mk s.pending resp fresh ns ticks hub mem snap cls tb links sysref sysrefAt tmc ev net cmac cxl od spm sec pwr mon
      locks jtag hbm movers syncOut).queue = s.queue := by
  unfold State.queue; rfl

/-! ### The queue through folds, choices and pairs -/

theorem queue_ite {c : Prop} [Decidable c] {s t : State} {q : List Instr} (hs : s.queue = q) (ht : t.queue = q) :
    (if c then s else t).queue = q := by
  split <;> assumption

@[simp ↓] theorem ite_queue (c : Prop) [Decidable c] (s t : State) :
    (if c then s else t).queue = if c then s.queue else t.queue := by
  split <;> rfl

@[simp ↓] theorem ite_snd_queue {α : Type} (c : Prop) [Decidable c] (p r : α × State) :
    (if c then p else r).2.queue = if c then p.2.queue else r.2.queue := by
  split <;> rfl

/-- A fold keeps what each of its steps keeps. -/
theorem foldl_keeps {α β γ : Type} (g : β → γ) {f : β → α → β} (h : ∀ b x, g (f b x) = g b) (l : List α) (b : β) :
    g (l.foldl f b) = g b := by
  induction l generalizing b with
  | nil => rfl
  | cons x l ih => exact (ih _).trans (h b x)

theorem foldl_all {α β : Type} {P : β → Prop} {f : β → α → β} (h : ∀ b x, P b → P (f b x)) (l : List α) {b : β} (hb : P b) :
    P (l.foldl f b) :=
  List.foldlRecOn l f hb fun b hb x _ => h b x hb

@[simp ↓] theorem foldl_queue {α : Type} (f : State → α → State) (h : ∀ s x, (f s x).queue = s.queue) (l : List α)
    (s : State) : (l.foldl f s).queue = s.queue :=
  foldl_keeps State.queue h l s

@[simp ↓] theorem foldl_snd_queue {α β : Type} (f : β × State → α → β × State)
    (h : ∀ p x, (f p x).2.queue = p.2.queue) (l : List α) (p : β × State) :
    (l.foldl f p).2.queue = p.2.queue :=
  foldl_keeps (fun p : β × State => p.2.queue) h l p

theorem queue_of_eq {α : Type} {p : α × State} {x : α} {t : State} {q : List Instr} (h : p = (x, t)) (hp : p.2.queue = q) :
    t.queue = q := by
  subst h; exact hp

theorem getD_queue {o : Option State} {d : State} {q : List Instr} (ho : ∀ t, o = some t → t.queue = q)
    (hd : d.queue = q) : (o.getD d).queue = q := by
  cases o with
  | none => exact hd
  | some t => exact ho t rfl

/-! ### What an answer holds -/

/-- Every state that an answer holds has the queue `q`. -/
def KeepsQueue (q : List Instr) (o : Out) : Prop := ∀ t, o = .next t → t.queue = q

@[simp] theorem keepsQueue_next {q : List Instr} {t : State} : KeepsQueue q (.next t) ↔ t.queue = q := by
  simp [KeepsQueue]

theorem keepsQueue_ite {q : List Instr} {c : Prop} [Decidable c] {o p : Out} (ho : KeepsQueue q o) (hp : KeepsQueue q p) :
    KeepsQueue q (if c then o else p) := by
  split <;> assumption

@[simp ↓] theorem keepsQueue_ite_eq {q : List Instr} {c : Prop} [Decidable c] {o p : Out} :
    KeepsQueue q (if c then o else p) = if c then KeepsQueue q o else KeepsQueue q p := by
  split <;> rfl

/-- What a command does to a device that may be dark keeps the queue if the command does. -/
theorem awake_keepsQueue {q : List Instr} {s : State} {o : Out} (hs : s.queue = q) (ho : KeepsQueue q o) :
    KeepsQueue q (awake s o) := keepsQueue_ite (keepsQueue_next.mpr hs) ho

@[simp ↓] theorem keepsQueue_awake {q : List Instr} {s : State} {o : Out} :
    KeepsQueue q (awake s o) = if dark s then s.queue = q else KeepsQueue q o := by
  rw [awake, keepsQueue_ite_eq, keepsQueue_next]

@[simp ↓] theorem keepsQueue_onIsland {q : List Instr} {n : Cl} {s : State} {o : Out} :
    KeepsQueue q (onIsland n s o) = if clocked n s then KeepsQueue q o else s.queue = q := by
  rw [onIsland, keepsQueue_ite_eq, keepsQueue_next]

/-! ### Named updates of the state -/

@[simp ↓] theorem putCl_queue (n : Cl) (c : Cluster) (s : State) : (s.putCl n c).queue = s.queue := putCl_pending n c s
@[simp ↓] theorem modCl_queue (n : Cl) (f : Cluster → Cluster) (s : State) : (s.modCl n f).queue = s.queue :=
  modCl_pending n f s
@[simp ↓] theorem hubPut_queue (o : Nat) (v : Word) (s : State) : (hubPut o v s).queue = s.queue := hubPut_pending o v s
@[simp ↓] theorem hubSetBit_queue (o i : Nat) (b : Bool) (s : State) : (hubSetBit o i b s).queue = s.queue :=
  hubSetBit_pending o i b s
@[simp ↓] theorem hubSetFld_queue (o hi lo v : Nat) (s : State) : (hubSetFld o hi lo v s).queue = s.queue :=
  hubSetFld_pending o hi lo v s
@[simp ↓] theorem hubPutPair_queue (o : Nat) (v : DWord) (s : State) : (hubPutPair o v s).queue = s.queue :=
  hubPutPair_pending o v s
@[simp ↓] theorem respond_queue (ws : List Word) (s : State) : (respond ws s).queue = s.queue := respond_pending ws s
@[simp ↓] theorem drawn_queue (s : State) : (drawn s).queue = s.queue := drawn_pending s
@[simp ↓] theorem snapPut_queue (r k : Nat) (v : DWord) (s : State) : (snapPut r k v s).queue = s.queue :=
  snapPut_pending r k v s
@[simp ↓] theorem memPut_queue (a : Nat) (v : Word) (s : State) : (memPut a v s).queue = s.queue := memPut_pending a v s
@[simp ↓] theorem hostPut_queue (w : Nat) (v : Word) (s : State) : (hostPut w v s).queue = s.queue := hostPut_pending w v s
@[simp ↓] theorem odAdd_queue (i u k : Nat) (s : State) : (odAdd i u k s).queue = s.queue := odAdd_pending i u k s

/-! ### Machine/Ops.lean -/

@[simp ↓] theorem hubCodeWrite_queue (off : Nat) (v : Word) (s : State) :
    (hubCodeWrite off v s).queue = s.queue := by rfl

@[simp ↓] theorem hubCount_queue (off : Nat) (s : State) : (hubCount off s).queue = s.queue := by rfl

@[simp ↓] theorem odCount_queue (idx sub : Nat) (s : State) : (odCount idx sub s).queue = s.queue := by rfl

@[simp ↓] theorem readPairW0_queue (off : Nat) (m : Master) (s : State) : (readPairW0 off m s).queue = s.queue := by rfl

@[simp ↓] theorem memPuts_queue (a : Nat) (ws : List Word) (s : State) : (memPuts a ws s).queue = s.queue := by
  unfold memPuts
  exact foldl_snd_queue _ (fun _ _ => by simp) _ _

@[simp ↓] theorem memDrop_queue (lo hi : Nat) (s : State) : (memDrop lo hi s).queue = s.queue := by rfl

@[simp ↓] theorem memLoad_queue (lo : Nat) (ws : SMap Word) (s : State) : (memLoad lo ws s).queue = s.queue := by
  dsimp only [memLoad]
  simp

@[simp ↓] theorem snoopSpan_queue (write : Bool) (lo hi : Nat) (s : State) :
    (snoopSpan write lo hi s).queue = s.queue := by rfl

@[simp ↓] theorem deepPut_queue (a : Nat) (v : Word) (s : State) : (deepPut a v s).queue = s.queue := by
  dsimp only [deepPut]
  simp

@[simp ↓] theorem deepDrop_queue (lo hi : Nat) (s : State) : (deepDrop lo hi s).queue = s.queue := by rfl

@[simp ↓] theorem setMode_queue (m : Nat) (s : State) : (setMode m s).queue = s.queue := by
  dsimp only [setMode]
  simp

/-! ### Machine/Events.lean -/

@[simp ↓] theorem gcntUp_queue (g : Nat) (s : State) : (gcntUp g s).queue = s.queue := by
  dsimp only [gcntUp]
  simp

@[simp ↓] theorem gcntEvent_queue (kind : Bool) (k : Nat) (s : State) : (gcntEvent kind k s).queue = s.queue := by
  dsimp only [gcntEvent]
  simp

@[simp ↓] theorem pushInbox_queue (e : Inbox) (s : State) : (pushInbox e s).queue = s.queue := by rfl

@[simp ↓] theorem fireAt_queue (cyc : BitVec 64) (src hop : Nat) (s : State) :
    (fireAt cyc src hop s).queue = s.queue := by
  unfold fireAt
  refine queue_ite rfl ((foldl_queue _ (fun t c => foldl_queue _ (fun u via => ?_) _ _) _ _).trans ?_) <;> simp

@[simp ↓] theorem fireNext_queue (src hop : Nat) (s : State) : (fireNext src hop s).queue = s.queue := by rfl

@[simp ↓] theorem firesDue_queue (s : State) : (firesDue s).queue = s.queue := by
  dsimp only [firesDue]
  simp

@[simp ↓] theorem fire_queue (src : Nat) (s : State) : (fire src s).queue = s.queue := by
  dsimp only [fire]
  simp

@[simp ↓] theorem forkErr_queue (c task : Nat) (s : State) : (forkErr c task s).queue = s.queue := by
  dsimp only [forkErr]
  simp

@[simp ↓] theorem unbind_queue (task : Nat) (s : State) : (unbind task s).queue = s.queue := by rfl

@[simp ↓] theorem rebind_queue (task : Nat) (sel : Option Nat) (s : State) : (rebind task sel s).queue = s.queue := by
  dsimp only [rebind]
  split <;> simp

@[simp ↓] theorem takeTask_queue (task : Nat) (s : State) : (takeTask task s).queue = s.queue := by rfl

@[simp ↓] theorem groupCtl_queue (g : Nat) (en dis : Bool) (s : State) : (groupCtl g en dis s).queue = s.queue := by
  dsimp only [groupCtl]
  simp

@[simp ↓] theorem groupEvents_queue (c : Nat) (s : State) : (groupEvents c s).queue = s.queue := by
  unfold groupEvents
  exact foldl_queue _ (fun _ _ => by simp) _ _

@[simp ↓] theorem setChFlag_queue (c : Nat) (b : Bool) (s : State) : (setChFlag c b s).queue = s.queue := by
  dsimp only [setChFlag]
  simp

@[simp ↓] theorem addMerge_queue (c k : Nat) (s : State) : (addMerge c k s).queue = s.queue := by
  dsimp only [addMerge]
  simp

@[simp ↓] theorem deliver_queue (c hop : Nat) (s : State) : (deliver c hop s).queue = s.queue := by
  dsimp only [deliver]
  simp

@[simp ↓] theorem execChannelSwtrig_keepsQueue (c : Chan) (s : State) : KeepsQueue s.queue (execChannelSwtrig c s) := by
  dsimp only [execChannelSwtrig]
  simp

@[simp ↓] theorem execEvfSwevFire_keepsQueue (n : Cl) (s : State) : KeepsQueue s.queue (execEvfSwevFire n s) := by
  dsimp only [execEvfSwevFire]
  simp

@[simp ↓] theorem execForkenFall_keepsQueue (s : State) : KeepsQueue s.queue (execForkenFall s) := by
  unfold execForkenFall
  refine awake_keepsQueue rfl (keepsQueue_ite (by simp) ?_)
  simp

@[simp ↓] theorem cellFire_queue (x hop : Nat) (s : State) : (cellFire x hop s).queue = s.queue := by
  dsimp only [cellFire]
  simp

@[simp ↓] theorem loopSeen_queue (x : Nat) (s : State) : (loopSeen x s).queue = s.queue := by
  dsimp only [loopSeen]
  simp

@[simp ↓] theorem loopMonitor_queue (s : State) : (loopMonitor s).queue = s.queue := by
  dsimp only [loopMonitor]
  simp

@[simp ↓] theorem setFilt_queue (x k : Nat) (s : State) : (setFilt x k s).queue = s.queue := by rfl

@[simp ↓] theorem cellCtlWrite_queue (x : Nat) (v : Word) (s : State) : (cellCtlWrite x v s).queue = s.queue := by
  dsimp only [cellCtlWrite]
  simp

@[simp ↓] theorem cellPut_queue (x : Nat) (q : Bool) (s : State) : (cellPut x q s).queue = s.queue := by
  dsimp only [cellPut]
  simp

@[simp ↓] theorem pqPut_queue (f : Nat) (q : PqSt) (s : State) : (pqPut f q s).queue = s.queue := by rfl

@[simp ↓] theorem pqRewindWith_queue (f bit : Nat) (s : State) : (pqRewindWith f bit s).queue = s.queue := by rfl

@[simp ↓] theorem pqDiscard_queue (f : Nat) (b : Bool) (s : State) : (pqDiscard f b s).queue = s.queue := by
  dsimp only [pqDiscard]
  simp

@[simp ↓] theorem pqAccept_queue (f : Nat) (v : Word) (last : Bool) (s : State) :
    (pqAccept f v last s).queue = s.queue := by
  dsimp only [pqAccept]
  simp

@[simp ↓] theorem pqWriteBy_queue (who : Option Master) (f : Nat) (v : Word) (last : Bool) (s : State) :
    (pqWriteBy who f v last s).queue = s.queue := by
  dsimp only [pqWriteBy]
  split <;> simp

@[simp ↓] theorem pqWrite_queue (f : Nat) (v : Word) (last : Bool) (s : State) :
    (pqWrite f v last s).queue = s.queue := by
  dsimp only [pqWrite]
  simp

@[simp ↓] theorem pqPortWrite_queue (f : Nat) (v : Word) (last : Bool) (s : State) :
    (pqPortWrite f v last s).queue = s.queue := by
  dsimp only [pqPortWrite]
  split <;> simp

@[simp ↓] theorem pqMasterWrite_queue (m : Master) (f : Nat) (v : Word) (last : Bool) (s : State) :
    (pqMasterWrite m f v last s).2.queue = s.queue := by
  dsimp only [pqMasterWrite]
  simp

@[simp ↓] theorem pqFlushAll_queue (f : Nat) (s : State) : (pqFlushAll f s).queue = s.queue := by
  dsimp only [pqFlushAll]
  simp

@[simp ↓] theorem execPqEnable_keepsQueue (f : Pq) (v : Word) (s : State) : KeepsQueue s.queue (execPqEnable f v s) := by
  dsimp only [execPqEnable]
  simp

@[simp ↓] theorem execPqDisable_keepsQueue (f : Pq) (s : State) : KeepsQueue s.queue (execPqDisable f s) := by
  dsimp only [execPqDisable]
  simp

@[simp ↓] theorem execPqRd_keepsQueue (f : Pq) (s : State) : KeepsQueue s.queue (execPqRd f s) := by
  dsimp only [execPqRd]
  split <;> simp

/-! ### Machine/Caps.lean -/

@[simp ↓] theorem tagFailed_queue (s : State) : (tagFailed s).queue = s.queue := by
  dsimp only [tagFailed]
  simp

/-! ### Machine/Store.lean -/

@[simp ↓] theorem skewPlot_queue (n : Cl) (i : Nat) (s : State) : (skewPlot n i s).queue = s.queue := by rfl

@[simp ↓] theorem takeCfg_queue (n : Cl) (i : Nat) (old new : Word) (s : State) :
    (takeCfg n i old new s).queue = s.queue := by
  dsimp only [takeCfg]
  simp

@[simp ↓] theorem plotCfgWrite_queue (n : Cl) (i : Plot) (v : Word) (who : Handler) (s : State) :
    (plotCfgWrite n i v who s).queue = s.queue := by
  unfold plotCfgWrite
  dsimp only
  split
  · simp
  · split <;> simp

@[simp ↓] theorem plotHoWrite_queue (n : Cl) (j : Nat) (v : Word) (who : Handler) (s : State) :
    (plotHoWrite n j v who s).queue = s.queue := by
  unfold plotHoWrite
  dsimp only
  split
  · simp
  · split <;> simp

@[simp ↓] theorem tickPlot_queue (n : Cl) (frame : Nat) (s : State) (i : Nat) :
    (tickPlot n frame s i).queue = s.queue := by
  dsimp only [tickPlot]
  simp

@[simp ↓] theorem plotHandover_queue (n : Cl) (s : State) : (plotHandover n s).queue = s.queue := by
  dsimp only [plotHandover]
  simp

@[simp ↓] theorem plotStart_queue (n : Cl) (s : State) : (plotStart n s).queue = s.queue := by
  dsimp only [plotStart]
  simp

@[simp ↓] theorem refuse_queue (n : Cl) (i off : Nat) (g : Agent) (write : Bool) (s : State) :
    (refuse n i off g write s).queue = s.queue := by rfl

@[simp ↓] theorem lsUncorrectable_queue (n : Cl) (b : BadRow) (s : State) :
    (lsUncorrectable n b s).queue = s.queue := by rfl

@[simp ↓] theorem unlessRuns_queue (n : Cl) (f : Cluster → Cluster) (s : State) :
    (unlessRuns n f s).queue = s.queue := by
  dsimp only [unlessRuns]
  simp

@[simp ↓] theorem lsCorrected_queue (n : Cl) (bank row bit : Nat) (s : State) :
    (lsCorrected n bank row bit s).queue = s.queue := by
  dsimp only [lsCorrected]
  simp

@[simp ↓] theorem lsRead_queue (n : Cl) (off : Nat) (s : State) : (lsRead n off s).2.queue = s.queue := by
  unfold lsRead
  dsimp only
  split
  · rfl
  · split
    · simp
    · split <;> simp

@[simp ↓] theorem rowWritten_queue (n : Cl) (off : Nat) (whole : Bool) (s : State) :
    (rowWritten n off whole s).queue = s.queue := by
  dsimp only [rowWritten]
  simp

@[simp ↓] theorem badWordRead_queue (spare : Bool) (b : BadWord) (s : State) :
    (badWordRead spare b s).2.queue = s.queue := by
  dsimp only [badWordRead]
  simp

@[simp ↓] theorem xchgRead_queue (n : Cl) (off : Nat) (s : State) : (xchgRead n off s).2.queue = s.queue := by
  unfold xchgRead
  dsimp only
  split
  · rfl
  · split <;> simp [queue_of_eq ‹_› (badWordRead_queue ..)]

@[simp ↓] theorem istoreRead_queue (n : Cl) (off : Nat) (s : State) : (istoreRead n off s).2.queue = s.queue := by
  unfold istoreRead
  split
  · rfl
  · split <;> simp [queue_of_eq ‹_› (badWordRead_queue ..)]

@[simp ↓] theorem startPcCopy_queue (st pc : Nat) (s : State) : (startPcCopy st pc s).queue = s.queue := by
  dsimp only [startPcCopy]
  simp

@[simp ↓] theorem deepUe_queue (l : Nat) (s : State) : (deepUe l s).queue = s.queue := by
  dsimp only [deepUe]
  simp

@[simp ↓] theorem clearLine_queue (line : Nat) (s : State) : (clearLine line s).queue = s.queue := by rfl

@[simp ↓] theorem clearLines_queue (off k : Nat) (s : State) : (clearLines off k s).queue = s.queue := by rfl

@[simp ↓] theorem xchgNote_queue (n : Cl) (off : Nat) (portA wr : Bool) (met : Option Bool) (s : State) :
    (xchgNote n off portA wr met s).2.queue = s.queue := by rfl

@[simp ↓] theorem xchgCollide_queue (n : Cl) (off : Nat) (portA : Bool) (s : State) :
    (xchgCollide n off portA s).queue = s.queue := by rfl

@[simp ↓] theorem portRead_queue (n : Cl) (off : Nat) (g : Agent) (s : State) :
    (portRead n off g s).2.queue = s.queue := by
  dsimp only [portRead]
  simp

@[simp ↓] theorem portWrite_queue (n : Cl) (off : Nat) (portA : Bool) (old : Word) (s : State) :
    (portWrite n off portA old s).queue = s.queue := by
  dsimp only [portWrite]
  simp

@[simp ↓] theorem cellRead_queue (a : Nat) (s : State) (p : Bool × State) : (cellRead a s p).2.queue = p.2.queue := by
  rfl

@[simp ↓] theorem agentRead_queue (g : Agent) (a : Nat) (s : State) : (agentRead g a s).2.queue = s.queue := by
  unfold agentRead
  split
  · split <;> simp
  · split
    · simp
    · rfl
    · dsimp only
      split <;> simp
  · split <;> simp
  · split <;> simp
  · rfl
  · rfl

@[simp ↓] theorem agentWrite_queue (g : Agent) (a : Nat) (v : Word) (s : State) :
    (agentWrite g a v s).2.queue = s.queue := by
  dsimp only [agentWrite]
  (repeat' split) <;> simp

@[simp ↓] theorem wrote_queue (as : List Nat) (s : State) : (wrote as s).queue = s.queue := by
  unfold wrote
  refine foldl_queue _ (fun t q => ?_) _ _
  dsimp only
  split <;> simp

@[simp ↓] theorem journalFill_queue (n : Cl) (xo : Nat) (v : Word) (s : State) :
    (journalFill n xo v s).queue = s.queue := by
  dsimp only [journalFill]
  simp

@[simp ↓] theorem fillInto_queue (n : Cl) (xo : Nat) (v : Word) (s : State) :
    (fillInto n xo v s).2.queue = s.queue := by
  unfold fillInto
  split
  · simp
  · split <;> simp [queue_of_eq ‹_› (agentWrite_queue ..)]

@[simp ↓] theorem fillDeliver_queue (n : Cl) (xo : Nat) (v : Word) (s : State) :
    (fillDeliver n xo v s).2.queue = s.queue := by
  dsimp only [fillDeliver]
  simp

@[simp ↓] theorem plotRead_queue (m : Cl) (plot ofs : Nat) (s : State) : (plotRead m plot ofs s).2.queue = s.queue := by
  dsimp only [plotRead]
  simp

@[simp ↓] theorem ioWords_queue (n : Cl) (xo k : Nat) (s : State) : (ioWords n xo k s).2.queue = s.queue := by
  induction k generalizing xo s with
  | zero => rfl
  | succ k ih => exact (ih _ _).trans (xchgRead_queue ..)

@[simp ↓] theorem pairCompare_queue (n : Cl) (other : Option Cl) (plot ofs k : Nat) (cnt : State → State) (s : State)
    (hc : ∀ t, (cnt t).queue = t.queue) : (pairCompare n other plot ofs k cnt s).queue = s.queue := by
  unfold pairCompare
  dsimp only
  split
  · rfl
  · repeat' split
    all_goals simp [hc]

@[simp ↓] theorem patrolFind_queue (n : Cl) (row : Nat) (s : State) (e : BankErr) :
    (patrolFind n row s e).queue = s.queue := by
  dsimp only [patrolFind]
  simp

/-! ### Machine/Links.lean -/

@[simp ↓] theorem lkPut_queue (l : Nat) (k : Link) (s : State) : (lkPut l k s).queue = s.queue := by rfl

@[simp ↓] theorem lkErr_queue (l i : Nat) (s : State) : (lkErr l i s).queue = s.queue := by rfl

@[simp ↓] theorem lkCount_queue (l i k : Nat) (s : State) : (lkCount l i k s).queue = s.queue := by
  dsimp only [lkCount]
  split <;> simp

@[simp ↓] theorem lkLanes_queue (l : Nat) (locked : Bool) (s : State) : (lkLanes l locked s).queue = s.queue := by
  dsimp only [lkLanes]
  simp

@[simp ↓] theorem lkDegr_queue (s : State) : (lkDegr s).queue = s.queue := by rfl

@[simp ↓] theorem linkEnable_queue (l : Nat) (s : State) : (linkEnable l s).queue = s.queue := by
  dsimp only [linkEnable]
  simp

@[simp ↓] theorem linkDisable_queue (l : Nat) (s : State) : (linkDisable l s).queue = s.queue := by
  dsimp only [linkDisable]
  simp

@[simp ↓] theorem lkRise_queue (l : Nat) (s : State) : (lkRise l s).queue = s.queue := by
  dsimp only [lkRise]
  simp

@[simp ↓] theorem linkDown_queue (l : Nat) (s : State) : (linkDown l s).queue = s.queue := by
  dsimp only [linkDown]
  simp

@[simp ↓] theorem execLaneLockLoss_keepsQueue (lane : Fin 64) (kind : LockKind) (s : State) :
    KeepsQueue s.queue (execLaneLockLoss lane kind s) := by
  unfold execLaneLockLoss
  refine awake_keepsQueue rfl ?_
  simp

@[simp ↓] theorem fillMark_queue (l u xo : Nat) (s : State) : (fillMark l u xo s).queue = s.queue := by rfl

@[simp ↓] theorem fillWrite_queue (l u plot off : Nat) (v : Word) (s : State) :
    (fillWrite l u plot off v s).2.queue = s.queue := by
  unfold fillWrite
  dsimp only
  split <;> simp [queue_of_eq ‹_› (fillDeliver_queue ..)]

@[simp ↓] theorem fillHold_queue (l : Nat) (w : IngressWord) (s : State) : (fillHold l w s).queue = s.queue := by rfl

@[simp ↓] theorem fillPut_queue (l u off : Nat) (v : Word) (counted : Bool) (s : State) :
    (fillPut l u off v counted s).queue = s.queue := by
  unfold fillPut
  split
  · split <;> simp [queue_of_eq ‹_› (fillWrite_queue ..)]
  · simp

@[simp ↓] theorem headerPut_queue (l : Nat) (f : Fill) (s : State) : (headerPut l f s).queue = s.queue := by
  dsimp only [headerPut]
  simp

@[simp ↓] theorem fillHeader_queue (l : Nat) (s : State) : (fillHeader l s).queue = s.queue := by
  dsimp only [fillHeader]
  split <;> simp

@[simp ↓] theorem fillUpd_queue (l : Nat) (f : Fill) (s : State) : (fillUpd l f s).queue = s.queue := by rfl

@[simp ↓] theorem fillSample_queue (l u : Nat) (ready : Int) (f : Fill) (off : Nat) (v : Word) (s : State) :
    (fillSample l u ready f off v s).queue = s.queue := by
  dsimp only [fillSample]
  simp

@[simp ↓] theorem fillFrame_queue (l u : Nat) (ready : Int) (f : Fill) (words : List Word) (s : State) :
    (fillFrame l u ready f words s).queue = s.queue := by
  dsimp only [fillFrame]
  simp

@[simp ↓] theorem frameWords_queue (l : Nat) (data : List Word) (s : State) :
    (frameWords l data s).2.queue = s.queue := by
  dsimp only [frameWords]
  simp

@[simp ↓] theorem crcCount_queue (l q : Nat) (s : State) : (crcCount l q s).queue = s.queue := by
  dsimp only [crcCount]
  simp

@[simp ↓] theorem execConverterFrameReceive_keepsQueue (l : Link16) (data : List Word) (crcOk : Bool) (s : State) :
    KeepsQueue s.queue (execConverterFrameReceive l data crcOk s) := by
  unfold execConverterFrameReceive
  refine awake_keepsQueue rfl (keepsQueue_ite (by simp) ?_)
  split
  · simp
  · extract_lets bad k s1 s2
    have hs2 : s2.queue = s.queue := by
      simp [s2, s1]
    clear_value s2
    split
    rename_i ws s3 h
    have h3 : s3.queue = s.queue := (queue_of_eq h (frameWords_queue l data s2)).trans hs2
    clear h
    extract_lets inst grain whole stamp s4
    have h4 : s4.queue = s.queue := by
      simp [s4, h3]
    clear_value s4
    split
    · simp [h3]
    · refine keepsQueue_ite (by simp [h3]) ?_
      extract_lets old f first s5 g
      exact keepsQueue_ite (by simp [h4]) (by simp [s5, h4])

@[simp ↓] theorem ingressFlush_queue (l : Nat) (s : State) : (ingressFlush l s).queue = s.queue := by
  unfold ingressFlush
  refine (foldl_queue _ (fun t w => ?_) _ _).trans (by simp)
  dsimp only
  split <;> simp [queue_of_eq ‹_› (fillWrite_queue ..)]

@[simp ↓] theorem ingressBind_queue (n : Cl) (before : Bool) (s : State) :
    (ingressBind n before s).queue = s.queue := by
  dsimp only [ingressBind]
  simp

@[simp ↓] theorem ingressOpen_queue (n : Cl) (s : State) : (ingressOpen n s).queue = s.queue := by
  unfold ingressOpen
  refine foldl_queue _ (fun t l => ?_) _ _
  simp

@[simp ↓] theorem readFill_queue (l plot : Nat) (from' : Cl) (other : Option Cl) (s0 : State) :
    (readFill l plot from' other s0).2.queue = s0.queue := by
  unfold readFill
  dsimp only
  split
  · simp
  · split
    · simp [queue_of_eq ‹_› (ioWords_queue ..)]
    · simp [queue_of_eq ‹_› (ioWords_queue ..)]

@[simp ↓] theorem linkCommit_queue (n : Cl) (src : FillSrc) (s : State) : (linkCommit n src s).queue = s.queue := by
  unfold linkCommit
  refine foldl_queue _ (fun t l => ?_) _ _
  dsimp only
  split
  · split
    · rfl
    · split <;> simp [queue_of_eq ‹_› (readFill_queue ..)]
  · rfl

@[simp ↓] theorem linksSafe_queue (s : State) : (linksSafe s).queue = s.queue := by
  dsimp only [linksSafe]
  simp

@[simp ↓] theorem sysrefGo_queue (s : State) : (sysrefGo s).queue = s.queue := by
  dsimp only [sysrefGo]
  simp

@[simp ↓] theorem jlWrite_queue (o : Nat) (v : Word) (s : State) : (jlWrite o v s).queue = s.queue := by
  unfold jlWrite
  dsimp only
  repeat' with_reducible apply queue_ite
  all_goals simp

/-! ### Machine/Timing.lean -/

@[simp ↓] theorem pinPut_queue (p : Nat) (x : PinSt) (s : State) : (pinPut p x s).queue = s.queue := by rfl

@[simp ↓] theorem tmcRefuse_queue (s : State) : (tmcRefuse s).queue = s.queue := by rfl

@[simp ↓] theorem capture_queue (c : Nat) (ts : Time72) (s : State) : (capture c ts s).queue = s.queue := by
  dsimp only [capture]
  simp

@[simp ↓] theorem pinQueue_queue (p : Nat) (x : PinAction) (s : State) : (pinQueue p x s).queue = s.queue := by rfl

@[simp ↓] theorem pinHist_queue (p : Nat) (e : PinEdge) (s : State) : (pinHist p e s).queue = s.queue := by
  dsimp only [pinHist]
  simp

@[simp ↓] theorem freeStamp_queue (s : State) : (freeStamp s).2.queue = s.queue := by rfl

@[simp ↓] theorem edgeBlur_queue (p : Nat) (s : State) : (edgeBlur p s).queue = s.queue := by
  unfold edgeBlur
  split
  · rfl
  · refine (foldl_queue _ (fun t c => ?_) _ _).trans (by simp)
    refine queue_ite ?_ rfl
    dsimp only
    split <;> simp

@[simp ↓] theorem nearStamp_queue (time : Time72) (s : State) : (nearStamp time s).2.queue = s.queue := by rfl

@[simp ↓] theorem edgeStamp_queue (p : Nat) (time : Time72) (s : State) : (edgeStamp p time s).2.queue = s.queue := by
  dsimp only [edgeStamp]
  simp

@[simp ↓] theorem cmpFire_queue (c : Nat) (v : Word) (s : State) : (cmpFire c v s).queue = s.queue := by
  dsimp only [cmpFire]
  simp

@[simp ↓] theorem tmcRun_queue (fuel : Nat) (j : TmcJob) (s : State) : (tmcRun fuel j s).queue = s.queue := by
  induction fuel generalizing j s with
  | zero => rfl
  | succ fuel ih =>
    cases j with
    | sync p time edge =>
      unfold tmcRun
      dsimp only
      split
      · rfl
      · split
        · simp
        · split <;> simp [ih]
    | step i time delay =>
      unfold tmcRun
      extract_lets o v old s1 s2 due s3 acts s4 w
      have h2 : s2.queue = s.queue := by
        simp [s2, s1]
      have h3 : s3.queue = s.queue := by
        simp [s3, h2]
      have h4 : s4.queue = s.queue := by
        dsimp only [s4]
        split
        · simp [h3]
        · simp [h3, ih]
      split <;> simp [h4, ih]
    | act p time acts =>
      unfold tmcRun
      simp [ih]

@[simp ↓] theorem pinSync_queue (p : Nat) (time : Time72) (edge : Bool) (s : State) :
    (pinSync p time edge s).queue = s.queue := by
  dsimp only [pinSync]
  simp

@[simp ↓] theorem pinAct_queue (p : Nat) (time : Time72) (acts : List (Nat × BitVec 2)) (s : State) :
    (pinAct p time acts s).queue = s.queue := by
  dsimp only [pinAct]
  simp

@[simp ↓] theorem bankSync_queue (b : Nat) (s : State) : (bankSync b s).queue = s.queue := by
  dsimp only [bankSync]
  simp

@[simp ↓] theorem bankEval_queue (b : Nat) (was first : Bool) (s : State) :
    (bankEval b was first s).queue = s.queue := by
  dsimp only [bankEval]
  simp

@[simp ↓] theorem banksStart_queue (s : State) : (banksStart s).queue = s.queue := by
  dsimp only [banksStart]
  simp

@[simp ↓] theorem bankWrite_queue (b : Nat) (v : Word) (s : State) : (bankWrite b v s).queue = s.queue := by
  dsimp only [bankWrite]
  simp

@[simp ↓] theorem pinCfgWrite_queue (p : Nat) (v : Word) (s : State) : (pinCfgWrite p v s).queue = s.queue := by
  dsimp only [pinCfgWrite]
  simp

@[simp ↓] theorem pinsSafe_queue (s : State) : (pinsSafe s).queue = s.queue := by
  dsimp only [pinsSafe]
  simp

@[simp ↓] theorem pinsSettle_queue (s : State) : (pinsSettle s).queue = s.queue := by
  dsimp only [pinsSettle]
  simp

@[simp ↓] theorem execCapW0Read_keepsQueue (c : Chan) (m : Master) (s : State) :
    KeepsQueue s.queue (execCapW0Read c m s) := by
  dsimp only [execCapW0Read]
  simp

@[simp ↓] theorem cgCtlWrite_queue (g : Nat) (v : Word) (s : State) : (cgCtlWrite g v s).queue = s.queue := by
  dsimp only [cgCtlWrite]
  simp

@[simp ↓] theorem tmcRefused_queue (s : State) : (tmcRefused s).queue = s.queue := by rfl

@[simp ↓] theorem execCaptureFillWrite_keepsQueue (g : Fin 32) (s : State) :
    KeepsQueue s.queue (execCaptureFillWrite g s) := by
  unfold execCaptureFillWrite
  refine awake_keepsQueue rfl ?_
  dsimp only
  split
  · simp
  · refine keepsQueue_ite (by simp) ?_
    rw [keepsQueue_next, queue_mk]
    refine foldl_snd_queue _ (fun p w => ?_) _ _
    dsimp only
    split <;> simp [queue_of_eq ‹_› (fillDeliver_queue ..)]

@[simp ↓] theorem egCtlWrite_queue (g : Nat) (v : Word) (s : State) : (egCtlWrite g v s).queue = s.queue := by
  dsimp only [egCtlWrite]
  simp

@[simp ↓] theorem badRecords_queue (i k : Nat) (s : State) : (badRecords i k s).queue = s.queue := by
  dsimp only [badRecords]
  simp

@[simp ↓] theorem placeRecord_queue (g : Nat) (w0 : Word) (at' : Time72) (s : State) :
    (placeRecord g w0 at' s).queue = s.queue := by
  dsimp only [placeRecord]
  simp

@[simp ↓] theorem edgeRead_queue (g : Nat) (from' : Cl) (other : Option Cl) (plot ofs : Nat) (s0 : State) :
    (edgeRead g from' other plot ofs s0).queue = s0.queue := by
  unfold edgeRead
  dsimp only
  split
  · simp
  · split
    · split <;> simp [queue_of_eq ‹_› (ioWords_queue ..)]
    · simp [queue_of_eq ‹_› (ioWords_queue ..)]

@[simp ↓] theorem edgeCommit_queue (n : Cl) (src : FillSrc) (s : State) : (edgeCommit n src s).queue = s.queue := by
  unfold edgeCommit
  refine foldl_queue _ (fun t g => ?_) _ _
  dsimp only
  refine queue_ite ?_ rfl
  split <;> simp

@[simp ↓] theorem cntValWrite_queue (i : Nat) (v : Word) (s : State) : (cntValWrite i v s).queue = s.queue := by rfl

@[simp ↓] theorem cntCfgWrite_queue (i : Nat) (v : Word) (s : State) : (cntCfgWrite i v s).queue = s.queue := by
  dsimp only [cntCfgWrite]
  simp

@[simp ↓] theorem execTmcCntValRead_keepsQueue (i : Fin 32) (m : Master) (s : State) :
    KeepsQueue s.queue (execTmcCntValRead i m s) := by
  dsimp only [execTmcCntValRead]
  simp

@[simp ↓] theorem cmpWrite_queue (c : Nat) (v : Word) (s : State) : (cmpWrite c v s).queue = s.queue := by
  dsimp only [cmpWrite]
  simp

@[simp ↓] theorem chCfgWrite_queue (c : Nat) (v : Word) (s : State) : (chCfgWrite c v s).queue = s.queue := by
  dsimp only [chCfgWrite]
  simp

@[simp ↓] theorem genPut_queue (g : Nat) (x : GenSt) (s : State) : (genPut g x s).queue = s.queue := by rfl

@[simp ↓] theorem genOut_queue (g : Nat) (raw quiet start : Bool) (s : State) :
    (genOut g raw quiet start s).queue = s.queue := by
  dsimp only [genOut]
  simp

@[simp ↓] theorem genCopy_queue (g : Nat) (buf : List Word) (upd : Bool) (s : State) :
    (genCopy g buf upd s).queue = s.queue := by
  dsimp only [genCopy]
  simp

@[simp ↓] theorem genStart_queue (g : Nat) (s : State) : (genStart g s).queue = s.queue := by
  unfold genStart
  dsimp only
  split <;> simp

@[simp ↓] theorem genStep_queue (fuel : Nat) (quiet : Bool) (g : Nat) (s : State) :
    (genStep fuel quiet g s).queue = s.queue := by
  induction fuel generalizing g s with
  | zero => rfl
  | succ fuel ih =>
    unfold genStep
    dsimp only
    repeat' with_reducible apply queue_ite
    all_goals simp [ih]

@[simp ↓] theorem globalGo_queue (s : State) : (globalGo s).queue = s.queue := by
  dsimp only [globalGo]
  simp

@[simp ↓] theorem execGlobalStart_keepsQueue (s : State) : KeepsQueue s.queue (execGlobalStart s) := by
  unfold execGlobalStart
  refine awake_keepsQueue rfl ?_
  split
  · simp
  · exact keepsQueue_ite (by simp) (by simp)

@[simp ↓] theorem globalStop_queue (s : State) : (globalStop s).queue = s.queue := by rfl

@[simp ↓] theorem genArm_queue (g : Nat) (arm : Bool) (s : State) : (genArm g arm s).queue = s.queue := by
  dsimp only [genArm]
  simp

@[simp ↓] theorem genWrite_queue (g k : Nat) (v : Word) (s : State) : (genWrite g k v s).queue = s.queue := by
  dsimp only [genWrite]
  simp

@[simp ↓] theorem cntCatchUp_queue (i n : Nat) (s : State) : (cntCatchUp i n s).queue = s.queue := by
  unfold cntCatchUp
  refine (foldl_queue _ (fun t c => ?_) _ _).trans (by simp)
  dsimp only
  refine queue_ite ?_ rfl
  simp

@[simp ↓] theorem tmcCatchUp_queue (old new : BitVec 64) (s : State) : (tmcCatchUp old new s).queue = s.queue := by
  unfold tmcCatchUp
  extract_lets s1 gs missed s2 s3
  have h1 : s1.queue = s.queue := by
    refine foldl_queue _ (fun t i => ?_) _ _
    dsimp only
    refine queue_ite ?_ rfl
    simp
  have h2 : s2.queue = s.queue := by
    simp [s2, h1]
  have h3 : s3.queue = s.queue := by
    refine (foldl_queue _ (fun t g => ?_) _ _).trans h2
    dsimp only
    refine queue_ite rfl ?_
    simp
  simp [h3]

@[simp ↓] theorem gctlWrite_queue (v : Word) (s : State) : (gctlWrite v s).queue = s.queue := by
  dsimp only [gctlWrite]
  simp

@[simp ↓] theorem tmcWrite_queue (o : Nat) (v : Word) (s : State) : (tmcWrite o v s).queue = s.queue := by
  unfold tmcWrite
  repeat' split
  all_goals simp

/-! ### Machine/Time.lean -/

@[simp ↓] theorem netDiscard_queue (s : State) : (netDiscard s).queue = s.queue := by rfl

@[simp ↓] theorem changeMode_queue (m : Nat) (s : State) : (changeMode m s).queue = s.queue := by
  dsimp only [changeMode]
  simp

@[simp ↓] theorem setModePend_queue (m : Nat) (s : State) : (setModePend m s).queue = s.queue := by
  dsimp only [setModePend]
  simp

@[simp ↓] theorem requestSafe_queue (s : State) : (requestSafe s).queue = s.queue := by
  dsimp only [requestSafe]
  simp

@[simp ↓] theorem tbFlag_queue (i : Nat) (s : State) : (tbFlag i s).queue = s.queue := by
  dsimp only [tbFlag]
  simp

@[simp ↓] theorem syncFrame_queue (s : State) : (syncFrame s).queue = s.queue := by rfl

@[simp ↓] theorem tbGridWrite_queue (off : Nat) (v : Word) (s : State) : (tbGridWrite off v s).queue = s.queue := by
  dsimp only [tbGridWrite]
  simp

@[simp ↓] theorem scheduleGrid_queue (k : GridKind) (s : State) : (scheduleGrid k s).queue = s.queue := by
  dsimp only [scheduleGrid]
  simp

@[simp ↓] theorem execGridStart_keepsQueue (s : State) : KeepsQueue s.queue (execGridStart s) := by
  dsimp only [execGridStart]
  simp

@[simp ↓] theorem execGridStop_keepsQueue (s : State) : KeepsQueue s.queue (execGridStop s) := by
  dsimp only [execGridStop]
  simp

@[simp ↓] theorem execGridHold_keepsQueue (s : State) : KeepsQueue s.queue (execGridHold s) := by
  dsimp only [execGridHold]
  simp

@[simp ↓] theorem execGridResume_keepsQueue (s : State) : KeepsQueue s.queue (execGridResume s) := by
  dsimp only [execGridResume]
  simp

@[simp ↓] theorem clearAction_queue (s : State) : (clearAction s).queue = s.queue := by rfl

@[simp ↓] theorem execTbStep_keepsQueue (s : State) : KeepsQueue s.queue (execTbStep s) := by
  dsimp only [execTbStep]
  simp

@[simp ↓] theorem execTbSlewWrite_keepsQueue (v : Word) (s : State) : KeepsQueue s.queue (execTbSlewWrite v s) := by
  dsimp only [execTbSlewWrite]
  simp

@[simp ↓] theorem execTbTimeW0Read_keepsQueue (m : Master) (s : State) : KeepsQueue s.queue (execTbTimeW0Read m s) := by
  dsimp only [execTbTimeW0Read]
  simp

@[simp ↓] theorem execTbLocalW0Read_keepsQueue (n : Cl) (s : State) : KeepsQueue s.queue (execTbLocalW0Read n s) := by
  dsimp only [execTbLocalW0Read]
  simp

@[simp ↓] theorem syncHoldover_queue (s : State) : (syncHoldover s).queue = s.queue := by
  dsimp only [syncHoldover]
  simp

@[simp ↓] theorem switchRef_queue (r : Nat) (s : State) : (switchRef r s).queue = s.queue := by
  dsimp only [switchRef]
  simp

@[simp ↓] theorem forgetMarks_queue (s : State) : (forgetMarks s).queue = s.queue := by rfl

@[simp ↓] theorem loseRef_queue (r : Nat) (s : State) : (loseRef r s).queue = s.queue := by
  dsimp only [loseRef]
  simp

@[simp ↓] theorem reselectRef_queue (enters : Bool) (s : State) : (reselectRef enters s).queue = s.queue := by
  dsimp only [reselectRef]
  simp

@[simp ↓] theorem syncCfgWrite_queue (v : Word) (s : State) : (syncCfgWrite v s).queue = s.queue := by
  dsimp only [syncCfgWrite]
  simp

@[simp ↓] theorem refDark_queue (k : Nat) (on : Bool) (s : State) : (refDark k on s).queue = s.queue := by rfl

@[simp ↓] theorem presentRef_queue (k : Nat) (s : State) : (presentRef k s).queue = s.queue := by
  dsimp only [presentRef]
  simp

/-! ### Machine/Cxl.lean -/

@[simp ↓] theorem cxlPutPort_queue (p : Nat) (c : CxlPortSt) (s : State) : (cxlPutPort p c s).queue = s.queue := by rfl

@[simp ↓] theorem cxlErr_queue (p i : Nat) (s : State) : (cxlErr p i s).queue = s.queue := by rfl

@[simp ↓] theorem setDegr_queue (bit : Nat) (b : Bool) (s : State) : (setDegr bit b s).queue = s.queue := by rfl

@[simp ↓] theorem syncHost_queue (s : State) : (syncHost s).queue = s.queue := by rfl

@[simp ↓] theorem msixPut_queue (p k : Nat) (v : BitVec 32) (s : State) : (msixPut p k v s).queue = s.queue := by rfl

@[simp ↓] theorem msixSend_queue (p v : Nat) (s : State) : (msixSend p v s).queue = s.queue := by rfl

@[simp ↓] theorem raiseVec_queue (v : Nat) (s : State) : (raiseVec v s).queue = s.queue := by rfl

@[simp ↓] theorem raisePort_queue (p v : Nat) (s : State) : (raisePort p v s).queue = s.queue := by rfl

@[simp ↓] theorem msixDeliver_queue (p v : Nat) (s : State) : (msixDeliver p v s).queue = s.queue := by
  dsimp only [msixDeliver]
  simp

@[simp ↓] theorem msixUnmask_queue (p v : Nat) (s : State) : (msixUnmask p v s).queue = s.queue := by
  dsimp only [msixUnmask]
  simp

@[simp ↓] theorem mailboxDoorbell_queue (m : Nat) (s : State) : (mailboxDoorbell m s).queue = s.queue := by
  dsimp only [mailboxDoorbell]
  simp

@[simp ↓] theorem mbLost_queue (m : Nat) (s : State) : (mbLost m s).queue = s.queue := by rfl

@[simp ↓] theorem mbComplete_queue (m status : Nat) (s : State) : (mbComplete m status s).queue = s.queue := by
  dsimp only [mbComplete]
  simp

@[simp ↓] theorem hubPuts_queue (off : Nat) (ws : List Word) (s : State) : (hubPuts off ws s).queue = s.queue := by
  unfold hubPuts
  exact foldl_snd_queue _ (fun _ _ => by simp) _ _

@[simp ↓] theorem mailboxRespond_queue (m status : Nat) (rsp : List Word) (s : State) :
    (mailboxRespond m status rsp s).queue = s.queue := by
  dsimp only [mailboxRespond]
  simp

@[simp ↓] theorem backInvalidate_queue (p l : Nat) (modOnly : Bool) (s : State) :
    (backInvalidate p l modOnly s).queue = s.queue := by rfl

@[simp ↓] theorem deepSnoop_queue (write : Bool) (off : Nat) (s : State) :
    (deepSnoop write off s).queue = s.queue := by rfl

@[simp ↓] theorem memRead_queue (m : Master) (g : Agent) (a : Nat) (s : State) :
    (memRead m g a s).2.queue = s.queue := by
  dsimp only [memRead]
  (repeat' split) <;> simp

@[simp ↓] theorem memWrite_queue (m : Master) (g : Agent) (a : Nat) (v : Word) (s : State) :
    (memWrite m g a v s).2.queue = s.queue := by
  dsimp only [memWrite]
  (repeat' split) <;> simp

@[simp ↓] theorem track_queue (p g : Nat) (modified : Bool) (s : State) : (track p g modified s).queue = s.queue := by
  dsimp only [track]
  simp

@[simp ↓] theorem deepPutByte_queue (b : Nat) (v : HByte) (s : State) : (deepPutByte b v s).queue = s.queue := by rfl

@[simp ↓] theorem execHdmAccess_keepsQueue (p : CxlPort) (offset : Nat) (acc : HostAcc) (s : State) :
    KeepsQueue s.queue (execHdmAccess p offset acc s) := by
  unfold execHdmAccess
  refine awake_keepsQueue rfl ?_
  dsimp only
  refine keepsQueue_ite (by simp) (keepsQueue_ite ?_ ?_)
  · split <;> simp
  · split
    · split
      · simp
      · simp
    · split
      · simp
      · simp

@[simp ↓] theorem writeBack_queue (c : CLine) (s : State) : (writeBack c s).queue = s.queue := by
  dsimp only [writeBack]
  simp

@[simp ↓] theorem cacheFill_queue (p l : Nat) (s : State) : (cacheFill p l s).queue = s.queue := by
  dsimp only [cacheFill]
  simp

@[simp ↓] theorem hostAccess_queue (w : Nat) (wr : Option Word) (s : State) :
    (hostAccess w wr s).2.queue = s.queue := by
  dsimp only [hostAccess]
  (repeat' split) <;> simp

@[simp ↓] theorem cacheFlush_queue (p : Nat) (s : State) : (cacheFlush p s).queue = s.queue := by
  dsimp only [cacheFlush]
  simp

@[simp ↓] theorem execCxlSyncRead_keepsQueue (_m : Master) (s : State) : KeepsQueue s.queue (execCxlSyncRead _m s) := by
  dsimp only [execCxlSyncRead]
  simp

@[simp ↓] theorem syncWrite_queue (s : State) : (syncWrite s).queue = s.queue := by
  dsimp only [syncWrite]
  simp

@[simp ↓] theorem putWidth_queue (p w : Nat) (s : State) : (putWidth p w s).queue = s.queue := by
  dsimp only [putWidth]
  simp

@[simp ↓] theorem mbAbort_queue (p : Nat) (s : State) : (mbAbort p s).queue = s.queue := by
  dsimp only [mbAbort]
  simp

@[simp ↓] theorem poisonModified_queue (p : Nat) (s : State) : (poisonModified p s).queue = s.queue := by rfl

@[simp ↓] theorem portDown_queue (p : Nat) (s : State) : (portDown p s).queue = s.queue := by
  dsimp only [portDown]
  simp

@[simp ↓] theorem widthChange_queue (p w : Nat) (s : State) : (widthChange p w s).queue = s.queue := by
  dsimp only [widthChange]
  simp

@[simp ↓] theorem failover_queue (p : Nat) (s : State) : (failover p s).queue = s.queue := by
  dsimp only [failover]
  simp

@[simp ↓] theorem foNow_queue (s : State) : (foNow s).queue = s.queue := by
  dsimp only [foNow]
  simp

@[simp ↓] theorem roleBack_queue (p : Nat) (s : State) : (roleBack p s).queue = s.queue := by
  dsimp only [roleBack]
  simp

@[simp ↓] theorem foBack_queue (s : State) : (foBack s).queue = s.queue := by
  dsimp only [foBack]
  simp

@[simp ↓] theorem hdmWrite_queue (p : Nat) (isSize : Bool) (v : Word) (s : State) :
    (hdmWrite p isSize v s).queue = s.queue := by
  dsimp only [hdmWrite]
  simp

@[simp ↓] theorem hcapWrite_queue (p k w : Nat) (v : Word) (s : State) : (hcapWrite p k w v s).queue = s.queue := by
  unfold hcapWrite
  dsimp only
  split
  · simp
  · split <;> simp

@[simp ↓] theorem cxlWrite_queue (o : Nat) (v : Word) (s : State) : (cxlWrite o v s).queue = s.queue := by
  unfold cxlWrite
  dsimp only
  repeat' with_reducible apply queue_ite
  all_goals simp

/-! ### Machine/Movers.lean -/

@[simp ↓] theorem mvPut_queue (c : Nat) (d : Option MoverSt) (s : State) : (mvPut c d s).queue = s.queue := by rfl

@[simp ↓] theorem mvCap_queue (c o : Nat) (s : State) : (mvCap c o s).2.queue = s.queue := by
  unfold mvCap
  dsimp only
  split <;> simp

@[simp ↓] theorem mvCheck_queue (c : Nat) (d : MoverSt) (s : State) : (mvCheck c d s).2.queue = s.queue := by
  dsimp only [mvCheck]
  simp

@[simp ↓] theorem mvDone_queue (c : Nat) (irq : Bool) (s : State) : (mvDone c irq s).queue = s.queue := by
  dsimp only [mvDone]
  simp

@[simp ↓] theorem mvStop_queue (c : Nat) (code : BitVec 4) (s : State) : (mvStop c code s).queue = s.queue := by
  dsimp only [mvStop]
  simp

@[simp ↓] theorem mvStart_queue (c : Nat) (s : State) : (mvStart c s).queue = s.queue := by
  unfold mvStart
  dsimp only
  repeat' split
  all_goals simp

@[simp ↓] theorem mvAbortMark_queue (c : Nat) (s : State) : (mvAbortMark c s).queue = s.queue := by
  dsimp only [mvAbortMark]
  split <;> simp

@[simp ↓] theorem mvCtlWrite_queue (c : Mover) (v : Word) (s : State) : (mvCtlWrite c v s).queue = s.queue := by
  dsimp only [mvCtlWrite]
  simp

@[simp ↓] theorem mvWrite_queue (o : Nat) (v : Word) (s : State) : (mvWrite o v s).queue = s.queue := by
  dsimp only [mvWrite]
  simp

/-! ### Machine/Net.lean -/

@[simp ↓] theorem netPut_queue (p : Nat) (x : PortSt) (s : State) : (netPut p x s).queue = s.queue := by rfl

@[simp ↓] theorem netCnt_queue (p o : Nat) (s : State) : (netCnt p o s).queue = s.queue := by rfl

@[simp ↓] theorem netErr_queue (p o : Nat) (s : State) : (netErr p o s).queue = s.queue := by rfl

@[simp ↓] theorem netLate_queue (s : State) : (netLate s).queue = s.queue := by
  dsimp only [netLate]
  simp

@[simp ↓] theorem pqWriteAll_queue (f : Nat) (ws : List Word) (s : State) : (pqWriteAll f ws s).queue = s.queue := by
  induction ws generalizing s with
  | nil => rfl
  | cons w ws ih =>
    cases ws with
    | nil => simp [pqWriteAll]
    | cons v ws => exact (ih _).trans (pqPortWrite_queue ..)

@[simp ↓] theorem rxqPut_queue (p : Nat) (ws : List Word) (s : State) : (rxqPut p ws s).2.queue = s.queue := by
  dsimp only [rxqPut]
  simp

@[simp ↓] theorem lineTake_queue (p : Nat) (ws : List Word) (at' : Nat) (s : State) :
    (lineTake p ws at' s).queue = s.queue := by rfl

@[simp ↓] theorem netSend_queue (p : Nat) (f : SFrame) (timed : Bool) (s : State) :
    (netSend p f timed s).queue = s.queue := by
  dsimp only [netSend]
  simp

@[simp ↓] theorem txqPop_queue (p : Nat) (s : State) : (txqPop p s).queue = s.queue := by
  dsimp only [txqPop]
  split <;> simp

@[simp ↓] theorem txqConfirm_queue (p : Nat) (ws : List Word) (s : State) : (txqConfirm p ws s).queue = s.queue := by
  dsimp only [txqConfirm]
  simp

@[simp ↓] theorem txqSendHead_queue (p : Nat) (ws : List Word) (s : State) : (txqSendHead p ws s).queue = s.queue := by
  dsimp only [txqSendHead]
  simp

@[simp ↓] theorem txqDrop_queue (p : Nat) (s : State) : (txqDrop p s).queue = s.queue := by
  dsimp only [txqDrop]
  simp

@[simp ↓] theorem canRejoin_queue (p : Nat) (s : State) : (canRejoin p s).queue = s.queue := by
  dsimp only [canRejoin]
  simp

@[simp ↓] theorem schedAdd_queue (p : Nat) (t : Time72) (ws : List Word) (s : State) :
    (schedAdd p t ws s).queue = s.queue := by
  dsimp only [schedAdd]
  simp

@[simp ↓] theorem frameRecords_queue (p : Nat) (t : Time72) (w : Nat → Option Word) (clr : Nat → State → State) (k o : Nat)
    (s : State) (hc : ∀ o u, (clr o u).queue = u.queue) : (frameRecords p t w clr k o s).queue = s.queue := by
  induction k generalizing o s with
  | zero => rfl
  | succ k ih =>
    unfold frameRecords
    dsimp only
    split
    · rfl
    · split <;> simp [ih, hc]

@[simp ↓] theorem frameFill_queue (p plot ofs : Nat) (m : Cl) (other : Option Cl) (s : State) :
    (frameFill p plot ofs m other s).queue = s.queue := by
  unfold frameFill
  dsimp only
  split
  · simp
  · split
    · split <;> simp [queue_of_eq ‹_› (ioWords_queue ..)]
    · simp [queue_of_eq ‹_› (ioWords_queue ..)]

@[simp ↓] theorem netCommit_queue (n : Cl) (src : FillSrc) (s : State) : (netCommit n src s).queue = s.queue := by
  unfold netCommit
  refine foldl_queue _ (fun t p => ?_) _ _
  dsimp only
  refine queue_ite ?_ rfl
  split <;> simp

@[simp ↓] theorem mdioWrite_queue (mac : Nat) (v : Word) (s : State) : (mdioWrite mac v s).queue = s.queue := by
  dsimp only [mdioWrite]
  simp

@[simp ↓] theorem gateSync_queue (mac : Nat) (s : State) : (gateSync mac s).queue = s.queue := by rfl

@[simp ↓] theorem gclRefuse_queue (mac : Nat) (s : State) : (gclRefuse mac s).queue = s.queue := by
  dsimp only [gclRefuse]
  simp

@[simp ↓] theorem gclSwap_queue (mac : Nat) (s : State) : (gclSwap mac s).queue = s.queue := by
  dsimp only [gclSwap]
  simp

@[simp ↓] theorem gclEnable_queue (mac : Nat) (en : Bool) (s : State) : (gclEnable mac en s).queue = s.queue := by
  dsimp only [gclEnable]
  simp

@[simp ↓] theorem gclCtlWrite_queue (mac : Nat) (v : Word) (s : State) : (gclCtlWrite mac v s).queue = s.queue := by
  dsimp only [gclCtlWrite]
  simp

@[simp ↓] theorem cmPut_queue (q : Nat) (x : CmacSt) (s : State) : (cmPut q x s).queue = s.queue := by rfl

@[simp ↓] theorem keyWrite_queue (q slot w : Nat) (v : Word) (s : State) :
    (keyWrite q slot w v s).queue = s.queue := by rfl

@[simp ↓] theorem msgWrite_queue (q : Nat) (v : Word) (s : State) : (msgWrite q v s).queue = s.queue := by
  dsimp only [msgWrite]
  simp

@[simp ↓] theorem jobStart_queue (q : Nat) (job : Word) (auth : Bool) (s : State) :
    (jobStart q job auth s).queue = s.queue := by
  dsimp only [jobStart]
  simp

@[simp ↓] theorem netCfgWrite_queue (p : Nat) (v : Word) (s : State) : (netCfgWrite p v s).queue = s.queue := by
  dsimp only [netCfgWrite]
  simp

@[simp ↓] theorem netQWrite_queue (p : Nat) (v : Word) (s : State) : (netQWrite p v s).queue = s.queue := by
  dsimp only [netQWrite]
  simp

@[simp ↓] theorem netTrigWrite_queue (p : Port) (v : Word) (s : State) : (netTrigWrite p v s).queue = s.queue := by
  dsimp only [netTrigWrite]
  simp

@[simp ↓] theorem netFgWrite_queue (p : Nat) (v : Word) (s : State) : (netFgWrite p v s).queue = s.queue := by rfl

@[simp ↓] theorem netWrite_queue (o : Nat) (v : Word) (s : State) : (netWrite o v s).queue = s.queue := by
  unfold netWrite
  dsimp only
  repeat' with_reducible apply queue_ite
  all_goals simp

/-! ### Machine/Vector.lean -/

@[simp ↓] theorem recordExc_queue (n : Cl) (e : ExcRec) (s : State) : (recordExc n e s).queue = s.queue := by
  dsimp only [recordExc]
  simp

@[simp ↓] theorem vecRaise_queue (n : Cl) (e : ExcRec) (s : State) : (vecRaise n e s).queue = s.queue := by
  dsimp only [vecRaise]
  simp

@[simp ↓] theorem putGroup_queue (n : Cl) (g : Group) (s : State) : (putGroup n g s).queue = s.queue := by rfl

@[simp ↓] theorem precise_queue (n : Cl) (gid : Nat) (e : ExcRec) (s : State) :
    (precise n gid e s).queue = s.queue := by
  dsimp only [precise]
  simp

@[simp ↓] theorem openRefuse_queue (n : Cl) (x : Strm) (cause : Nat) (a : Int) (s : State) :
    (openRefuse n x cause a s).queue = s.queue := by
  dsimp only [openRefuse]
  (repeat' split) <;> simp

@[simp ↓] theorem setSettle_queue (n : Cl) (s : State) : (setSettle n s).queue = s.queue := by rfl

@[simp ↓] theorem setGroupFault_queue (n : Cl) (g : Group) (code : Nat) (s : State) :
    (setGroupFault n g code s).queue = s.queue := by rfl

/-! A run of a group's orders reads and notes, and keeps the queue of the state that it carries. -/

@[simp ↓] theorem Run.fail_queue (g : Group) (cause pos role elem : Nat) (addr : Int) (r : Run) :
    (Run.fail g cause pos role elem addr r).s.queue = r.s.queue := by
  rfl

@[simp ↓] theorem Run.note_queue (g : Group) (pos elem : Nat) (fl : Fl) (r : Run) :
    (Run.note g pos elem fl r).s.queue = r.s.queue := by
  unfold Run.note
  extract_lets en trap r1
  split <;> rfl

@[simp ↓] theorem overlapRead_queue (g : Group) (x : Strm) (a elem : Nat) (v : Word) (r : Run) :
    (overlapRead g x a elem v r).2.s.queue = r.s.queue := by
  unfold overlapRead
  dsimp only
  split
  · split <;> simp
  · rfl

@[simp ↓] theorem readWord_queue (n : Cl) (g : Group) (x : Strm) (key : Option Nat) (a elem : Nat) (r : Run) :
    (readWord n g x key a elem r).2.2.s.queue = r.s.queue := by
  unfold readWord
  split
  · rfl
  · have h := agentRead_queue (.stream n) a r.s
    generalize agentRead (.stream n) a r.s = p at h
    obtain ⟨acc, t⟩ := p
    cases acc <;> simp [h]

@[simp ↓] theorem readAt_queue (n : Cl) (g : Group) (x : Strm) (key : Option Nat) (a : Int) (elem : Nat) (r : Run) :
    (readAt n g x key a elem r).2.s.queue = r.s.queue := by
  unfold readAt
  dsimp only
  split <;> simp

@[simp ↓] theorem readPlain_queue (n : Cl) (g : Group) (x : Strm) (j elem : Nat) (r : Run) :
    (readPlain n g x j elem r).2.s.queue = r.s.queue := by
  unfold readPlain
  dsimp only
  repeat' split
  all_goals simp

@[simp ↓] theorem indexAddr_queue (n : Cl) (g : Group) (x : Strm) (j elem : Nat) (r : Run) :
    (indexAddr n g x j elem r).2.s.queue = r.s.queue := by
  unfold indexAddr
  extract_lets ix
  have h := readPlain_queue n g ix j elem r
  generalize readPlain n g ix j elem r = p at h
  obtain ⟨v, r1⟩ := p
  dsimp only at h ⊢
  split_ifs <;> exact h

@[simp ↓] theorem readElem_queue (n : Cl) (g : Group) (x : Strm) (j elem : Nat) (r : Run) :
    (readElem n g x j elem r).2.s.queue = r.s.queue := by
  unfold readElem
  split
  · have h := indexAddr_queue n g x j elem r
    generalize indexAddr n g x j elem r = p at h
    obtain ⟨_ | a, r1⟩ := p
    · exact h
    · exact (readAt_queue ..).trans h
  · simp

@[simp ↓] theorem operand_queue (n : Cl) (g : Group) (ss : List Strm) (q : QOrder) (j i : Nat) (r : Run) :
    (operand n g ss q j i r).2.s.queue = r.s.queue := by
  unfold operand
  repeat' split
  all_goals simp

@[simp ↓] theorem maskBit_queue (n : Cl) (g : Group) (ss : List Strm) (q : QOrder) (i : Nat) (r : Run) :
    (maskBit n g ss q i r).2.s.queue = r.s.queue := by
  unfold maskBit
  dsimp only
  repeat' split
  all_goals simp

@[simp ↓] theorem writeElem_queue (n : Cl) (g : Group) (x : Strm) (j elem : Nat) (v : DWord) (r : Run) :
    (writeElem n g x j elem v r).2.s.queue = r.s.queue := by
  unfold writeElem
  extract_lets go
  split
  · have h := indexAddr_queue n g x j elem r
    generalize indexAddr n g x j elem r = p at h
    obtain ⟨_ | a, r1⟩ := p <;> exact h
  · rfl

@[simp ↓] theorem Acc1.put_queue (n : Cl) (g : Group) (dst : Option Strm) (j i : Nat) (v : DWord) (a : Acc1) :
    (Acc1.put n g dst j i v a).r.s.queue = a.r.s.queue := by
  unfold Acc1.put
  dsimp only
  repeat' split
  all_goals simp

@[simp ↓] theorem runIntp_queue (n : Cl) (g : Group) (ss : List Strm) (q : QOrder) (i : Nat) (x : DWord) (r : Run) :
    (runIntp n g ss q i x r).2.s.queue = r.s.queue := by
  unfold runIntp
  dsimp only
  repeat' split
  all_goals simp

@[simp ↓] theorem runElem_queue (n : Cl) (g : Group) (ss : List Strm) (q : QOrder) (k : DWord) (acc : Acc1) (i : Nat) :
    (runElem n g ss q k acc i).r.s.queue = acc.r.s.queue := by
  unfold runElem
  dsimp only
  repeat' split
  all_goals simp

@[simp ↓] theorem runExpd_queue (n : Cl) (g : Group) (ss : List Strm) (q : QOrder) (acc : Acc1) (i : Nat) :
    (runExpd n g ss q acc i).r.s.queue = acc.r.s.queue := by
  unfold runExpd
  dsimp only
  repeat' split
  all_goals simp

@[simp ↓] theorem runCmpr_queue (n : Cl) (g : Group) (ss : List Strm) (q : QOrder) (acc : Acc1) (i : Nat) :
    (runCmpr n g ss q acc i).r.s.queue = acc.r.s.queue := by
  unfold runCmpr
  dsimp only
  repeat' split
  all_goals simp

@[simp ↓] theorem runBit_queue (n : Cl) (g : Group) (ss : List Strm) (q : QOrder) (acc : Acc1) (i : Nat) :
    (runBit n g ss q acc i).r.s.queue = acc.r.s.queue := by
  unfold runBit
  dsimp only
  split <;> simp

@[simp ↓] theorem groupAsks_queue (n : Cl) (num : Nat) (g : Group) (s : State) :
    (groupAsks n num g s).queue = s.queue := by
  unfold groupAsks
  refine foldl_queue _ (fun t x => ?_) _ _
  split <;> simp

@[simp ↓] theorem openReads_queue (n : Cl) (g : Group) (r : Run) : (openReads n g r).1.s.queue = r.s.queue := by
  unfold openReads
  refine foldl_keeps (fun p : Run × SMap (Option Word) => p.1.s.queue) (fun p x => ?_) _ _
  exact foldl_keeps (fun p : Run × SMap (Option Word) => p.1.s.queue) (fun u k => readWord_queue ..) _ _

@[simp ↓] theorem groupBegin_queue (n : Cl) (g : Group) (red : Bool) (s : State) :
    (groupBegin n g red s).queue = s.queue := by
  unfold groupBegin
  extract_lets num g0 o g1 u t
  have ht : t.queue = s.queue := by
    simp [t, u, o]
  clear_value t
  refine queue_ite (by simp) (queue_ite (by simp) (queue_ite (by simp) ?_))
  split
  · rfl
  · simp
  · refine queue_ite rfl ?_
    split <;> simp [ht]

@[simp ↓] theorem microNote_queue (n : Cl) (parity : Bool) (a : BitVec 13) (s : State) :
    (microNote n parity a s).queue = s.queue := by
  dsimp only [microNote]
  simp

@[simp ↓] theorem microError_queue (n : Cl) (g : Group) (parity : Bool) (a : BitVec 13) (s : State) :
    (microError n g parity a s).queue = s.queue := by
  dsimp only [microError]
  simp

@[simp ↓] theorem microSample_queue (s : State) : (microSample s).queue = s.queue := by rfl

@[simp ↓] theorem microStep_queue (n : Cl) (half : Option Bool) (x : MicroCtx) (cond : Nat → Bool) (s : State) :
    (microStep n half x cond s).2.2.queue = s.queue := by
  unfold microStep
  dsimp only
  split
  · rfl
  · split
    · rfl
    · split <;> simp

@[simp ↓] theorem microWords_queue (n : Cl) (gid k : Nat) (s : State) : (microWords n gid k s).queue = s.queue := by
  induction k generalizing s with
  | zero => rfl
  | succ k ih =>
    unfold microWords
    split
    · rfl
    · split
      · split
        · rfl
        · dsimp only
          split <;> simp [ih]
      · rfl

@[simp ↓] theorem microRun_queue (n : Cl) (gid : Nat) (s : State) : (microRun n gid s).queue = s.queue := by
  dsimp only [microRun]
  split <;> simp

@[simp ↓] theorem auxWords_queue (n : Cl) (half : Option Bool) (k : Nat) (x : MicroCtx) (s : State) :
    (auxWords n half k x s).2.queue = s.queue := by
  induction k generalizing x s with
  | zero => rfl
  | succ k ih =>
    unfold auxWords
    split
    · rfl
    · dsimp only
      split <;> simp [ih]

@[simp ↓] theorem auxError_queue (n : Cl) (k : Nat) (p : Bool × BitVec 13) (s : State) :
    (auxError n k p s).queue = s.queue := by
  dsimp only [auxError]
  simp

@[simp ↓] theorem startCount_queue (n : Cl) (x : Group) (t : State) : (startCount n x t).queue = t.queue := by
  dsimp only [startCount]
  simp

theorem drainOne_queue {n : Cl} {g : Group} {w : WWord} {s : State} {p : Bool × State} (h : drainOne n g w s = some p) :
    p.2.queue = s.queue := by
  unfold drainOne at h
  extract_lets last g1 by' rival s1 at h
  have h1 : s1.queue = s.queue := by
    simp [s1]
  split at h
  · cases h
    simp [h1]
  · have hw := agentWrite_queue (.stream n) w.addr w.word s1
    generalize agentWrite (.stream n) w.addr w.word s1 = r at h hw
    obtain ⟨acc, t⟩ := r
    have ht : t.queue = s.queue := hw.trans h1
    cases acc <;> cases h <;> simp [ht]

@[simp ↓] theorem drainWords_queue (n : Cl) (gid : Nat) (ws : List WWord) (as : List Nat) (s : State) :
    (drainWords n gid ws as s).2.queue = s.queue := by
  induction ws generalizing as s with
  | nil => rfl
  | cons w ws ih =>
    unfold drainWords
    split
    · rfl
    · split
      · rfl
      · exact (ih _ _).trans (drainOne_queue ‹_›)

@[simp ↓] theorem drainWord_queue (n : Cl) (gid : Nat) (s : State) : (drainWord n gid s).queue = s.queue := by
  dsimp only [drainWord]
  split <;> simp

@[simp ↓] theorem drainTo_queue (n : Cl) (gid : Nat) (e : ExcRec) (keep f : Nat) (s : State) :
    (drainTo n gid e keep f s).queue = s.queue := by
  induction f generalizing s with
  | zero => rfl
  | succ f ih =>
    unfold drainTo
    split
    · rfl
    · dsimp only
      refine queue_ite ?_ rfl
      simp [ih]

@[simp ↓] theorem settleExc_queue (n : Cl) (gid : Nat) (e : ExcRec) (s : State) :
    (settleExc n gid e s).queue = s.queue := by
  dsimp only [settleExc]
  (repeat' split) <;> simp

theorem runTerm_queue (n : Cl) (g : Group) (ss : List Strm) (q : QOrder) (acc : Run × List (Option Term × Bool)) (i : Nat) :
    (runTerm n g ss q acc i).1.s.queue = acc.1.s.queue := by
  unfold runTerm
  dsimp only
  split
  · split <;> simp
  · simp

theorem runReduce_queue (n : Cl) (g : Group) (ss : List Strm) (q : QOrder) (k : DWord) (r : Run) :
    (runReduce n g ss q k r).r.s.queue = r.s.queue := by
  unfold runReduce
  dsimp only
  refine (foldl_keeps (fun a : Acc1 => a.r.s.queue) (fun a p => ?_) _ _).trans
    (foldl_keeps (fun p : Run × List (Option Term × Bool) => p.1.s.queue) (fun _ _ => runTerm_queue ..) _ _)
  split
  · simp
  · exact (Acc1.put_queue ..).trans (foldl_keeps (fun u : Run => u.s.queue) (fun _ _ => Run.note_queue ..) _ _)

theorem runOrder_queue (n : Cl) (g : Group) (q : QOrder) (r : Run) : (runOrder n g q r).r.s.queue = r.s.queue := by
  unfold runOrder
  extract_lets ss k start close v a c m cnt
  clear_value v
  split
  · exact runReduce_queue ..
  · split
    iterate 3
      · split <;> exact foldl_keeps (fun a : Acc1 => a.r.s.queue) (fun _ _ => runBit_queue ..) _ _
    · exact Acc1.put_queue ..
    · exact foldl_keeps (fun a : Acc1 => a.r.s.queue) (fun _ _ => runCmpr_queue ..) _ _
    · exact foldl_keeps (fun a : Acc1 => a.r.s.queue) (fun _ _ => runExpd_queue ..) _ _
    · exact foldl_keeps (fun a : Acc1 => a.r.s.queue) (fun _ _ => runElem_queue ..) _ _

@[simp ↓] theorem runOp_queue (v : VOp) (n : Cl) (gid : Nat) (s0 : State) : (runOp v n gid s0).queue = s0.queue := by
  unfold runOp
  extract_lets s
  have hs : s.queue = s0.queue := by
    simp [s]
  clear_value s
  split
  · exact hs
  · refine queue_ite hs ?_
    split
    · exact hs
    · extract_lets g0 res g1 t
      have ht : t.queue = s0.queue := by
        simp [t, res, runOrder_queue, hs]
      clear_value t
      refine queue_ite hs (queue_ite hs ?_)
      split
      · split <;> simp [ht]
      · exact ht

@[simp ↓] theorem orderEnter_queue (n : Cl) (q : QOrder) (s : State) : (orderEnter n q s).queue = s.queue := by
  dsimp only [orderEnter]
  (repeat' split) <;> simp

/-! ### Machine/Sets.lean -/

@[simp ↓] theorem buildClose_queue (n : Cl) (k : Nat) (s : State) : (buildClose n k s).queue = s.queue := by
  dsimp only [buildClose]
  split <;> simp

@[simp ↓] theorem setBind_queue (n : Cl) (k : Set8) (s : State) : (setBind n k s).queue = s.queue := by
  dsimp only [setBind]
  simp

@[simp ↓] theorem setCtlWrite_queue (n : Cl) (k : Set8) (v : Word) (s : State) :
    (setCtlWrite n k v s).queue = s.queue := by
  unfold setCtlWrite
  dsimp only
  refine queue_ite (by simp) (queue_ite (by simp) ?_)
  simp

@[simp ↓] theorem orderAppend_queue (n : Cl) (o : Order96) (s : State) : (orderAppend n o s).queue = s.queue := by
  dsimp only [orderAppend]
  split <;> simp

@[simp ↓] theorem preopenStream_queue (n : Cl) (b : Nat) (g : Group) (starts : Bool) (p : PreOpenSt × State) (x : Strm) :
    (preopenStream n b g starts p x).2.queue = p.2.queue := by
  unfold preopenStream
  extract_lets num note q
  have hn (cause : Nat) (a : Int) (q : PreOpenSt × State) : (note cause a q).2.queue = q.2.queue := by
    dsimp only [note]
    split <;> rfl
  split
  · exact hn ..
  · split
    · rfl
    · split
      · exact hn ..
      · rfl
      · split
        · rfl
        · refine foldl_snd_queue _ (fun u k => ?_) _ _
          have h := agentRead_queue (.stream n) (fillAddr x k) u.2
          generalize agentRead (.stream n) (fillAddr x k) u.2 = r at h ⊢
          obtain ⟨acc, t⟩ := r
          cases acc <;> simp [hn] <;> exact h

@[simp ↓] theorem preOpenRun_queue (n : Cl) (k : Nat) (s : State) : (preOpenRun n k s).queue = s.queue := by
  unfold preOpenRun
  dsimp only
  rw [modCl_queue]
  refine (foldl_snd_queue _ (fun p g => ?_) _ _).trans (putCl_queue ..)
  split
  · rfl
  · exact foldl_snd_queue _ (fun p x => preopenStream_queue ..) _ _

@[simp ↓] theorem fireFault_queue (n : Cl) (p : PreOpenSt) (g : Nat × Group) (s : State) :
    (fireFault n p g s).queue = s.queue := by
  dsimp only [fireFault]
  (repeat' split) <;> simp

@[simp ↓] theorem setIssue_queue (n : Cl) (gs : List (Nat × Group)) (pre : Option PreOpenSt) (s : State) :
    (setIssue n gs pre s).queue = s.queue := by
  dsimp only [setIssue]
  split <;> simp

@[simp ↓] theorem auxDone_queue (n : Cl) (x : AuxRun) (s : State) : (auxDone n x s).queue = s.queue := by
  dsimp only [auxDone]
  split <;> simp

@[simp ↓] theorem auxStep_queue (n : Cl) (kind : Nat) (s : State) : (auxStep n kind s).queue = s.queue := by
  dsimp only [auxStep]
  (repeat' split) <;> simp

@[simp ↓] theorem auxAll_queue (n : Cl) (s : State) : (auxAll n s).queue = s.queue := by
  dsimp only [auxAll]
  simp

@[simp ↓] theorem auxStart_queue (n : Cl) (x : AuxRun) (s : State) : (auxStart n x s).queue = s.queue := by
  dsimp only [auxStart]
  simp

@[simp ↓] theorem sdescCmd_queue (n : Cl) (k j : Nat) (s : State) : (sdescCmd n k j s).queue = s.queue := by
  dsimp only [sdescCmd]
  simp

@[simp ↓] theorem setFire_queue (n : Cl) (k : Nat) (s : State) : (setFire n k s).queue = s.queue := by
  dsimp only [setFire]
  simp

@[simp ↓] theorem confRun_queue (n : Cl) (off : Nat) (s : State) : (confRun n off s).queue = s.queue := by
  dsimp only [confRun]
  simp

@[simp ↓] theorem confRunAll_queue (n : Cl) (s : State) : (confRunAll n s).queue = s.queue := by
  dsimp only [confRunAll]
  simp

@[simp ↓] theorem confCtlWrite_queue (n : Cl) (v : Word) (s : State) : (confCtlWrite n v s).queue = s.queue := by
  dsimp only [confCtlWrite]
  simp

@[simp ↓] theorem clashTake_queue (hi : Nat) (n : Cl) (s : State) : (clashTake hi n s).queue = s.queue := by
  dsimp only [clashTake]
  simp

@[simp ↓] theorem clashFrame_queue (s : State) : (clashFrame s).queue = s.queue := by
  dsimp only [clashFrame]
  simp

@[simp ↓] theorem clashRead_queue (n : Cl) (s : State) : (clashRead n s).queue = s.queue := by
  dsimp only [clashRead]
  simp

@[simp ↓] theorem ioPairRead_queue (n : Cl) (off : Nat) (s0 : State) : (ioPairRead n off s0).queue = s0.queue := by
  dsimp only [ioPairRead]
  simp

/-! ### Machine/Params.lean -/

@[simp ↓] theorem nfpSend_queue (path : NfpPath) (ws : List Word) (s : State) :
    (nfpSend path ws s).queue = s.queue := by
  dsimp only [nfpSend]
  split <;> simp

@[simp ↓] theorem nfpAnswer_queue (path : NfpPath) (ws : List Word) (s : State) :
    (nfpAnswer path ws s).queue = s.queue := by
  dsimp only [nfpAnswer]
  split <;> simp

@[simp ↓] theorem forget_queue (req : Nat) (s : State) : (forget req s).queue = s.queue := by rfl

@[simp ↓] theorem answerReq_queue (req status ty : Nat) (data : List Word) (s : State) :
    (answerReq req status ty data s).queue = s.queue := by
  dsimp only [answerReq]
  split <;> simp

@[simp ↓] theorem pqLevel_queue (n : Cl) (s : State) : (pqLevel n s).queue = s.queue := by
  dsimp only [pqLevel]
  simp

@[simp ↓] theorem pqPush_queue (n : Cl) (e : PEntry) (s : State) : (pqPush n e s).queue = s.queue := by
  dsimp only [pqPush]
  simp

@[simp ↓] theorem execOdPqPush_keepsQueue (n : Cl) (s : State) : KeepsQueue s.queue (execOdPqPush n s) := by
  dsimp only [execOdPqPush]
  simp

@[simp ↓] theorem execOdPqCapW3Write_keepsQueue (n : Cl) (v : Word) (s : State) :
    KeepsQueue s.queue (execOdPqCapW3Write n v s) := by
  dsimp only [execOdPqCapW3Write]
  split <;> simp

@[simp ↓] theorem homeWrite_queue (n : Cl) (off : Nat) (v : Word) (s : State) :
    (homeWrite n off v s).queue = s.queue := by rfl

@[simp ↓] theorem paramApply_queue (n : Cl) (s : State) : (paramApply n s).queue = s.queue := by
  dsimp only [paramApply]
  (repeat' split) <;> simp

@[simp ↓] theorem putBacklog_queue (n : Cl) (b : List PEntry) (s : State) : (putBacklog n b s).queue = s.queue := by rfl

@[simp ↓] theorem serverPush_queue (n : Cl) (e : PEntry) (s : State) : (serverPush n e s).queue = s.queue := by
  dsimp only [serverPush]
  simp

@[simp ↓] theorem serverOffer_queue (n : Cl) (e : PEntry) (s : State) : (serverOffer n e s).2.queue = s.queue := by
  dsimp only [serverOffer]
  simp

@[simp ↓] theorem serverEntry_queue (n : Cl) (e : PEntry) (s : State) : (serverEntry n e s).2.queue = s.queue := by
  dsimp only [serverEntry]
  split <;> simp

@[simp ↓] theorem serverEntries_queue (n : Cl) (es : List PEntry) (s : State) :
    (serverEntries n es s).2.queue = s.queue := by
  dsimp only [serverEntries]
  simp

/-! ### Machine/Ucode.lean -/

@[simp ↓] theorem ucSetValid_queue (n : Cl) (b v : Bool) (s : State) : (ucSetValid n b v s).queue = s.queue := by rfl

@[simp ↓] theorem ucRefuse_queue (n : Cl) (s : State) : (ucRefuse n s).queue = s.queue := by rfl

@[simp ↓] theorem ucSwitchNow_queue (n : Cl) (late : Bool) (s : State) : (ucSwitchNow n late s).queue = s.queue := by
  dsimp only [ucSwitchNow]
  simp

@[simp ↓] theorem ucAtTick_queue (n : Cl) (k : Nat) (s : State) : (ucAtTick n k s).queue = s.queue := by
  dsimp only [ucAtTick]
  split <;> simp

@[simp ↓] theorem execUcodeSwitch_keepsQueue (n : Cl) (s : State) : KeepsQueue s.queue (execUcodeSwitch n s) := by
  dsimp only [execUcodeSwitch]
  simp

@[simp ↓] theorem execUcodeCancel_keepsQueue (n : Cl) (s : State) : KeepsQueue s.queue (execUcodeCancel n s) := by
  dsimp only [execUcodeCancel]
  simp

@[simp ↓] theorem ucOpen_queue (n : Cl) (s : State) : (ucOpen n s).queue = s.queue := by
  dsimp only [ucOpen]
  simp

@[simp ↓] theorem regionPatch_queue (n : Cl) (s : State) : (regionPatch n s).queue = s.queue := by
  dsimp only [regionPatch]
  simp

@[simp ↓] theorem ucSeal_queue (n : Cl) (s : State) : (ucSeal n s).queue = s.queue := by
  dsimp only [ucSeal]
  simp

@[simp ↓] theorem ucLoad_queue (n : Cl) (w : BitVec 144) (s : State) : (ucLoad n w s).queue = s.queue := by
  dsimp only [ucLoad]
  simp

@[simp ↓] theorem ucLoadAt_queue (n : Cl) (addr : Word) (w : BitVec 144) (s : State) :
    (ucLoadAt n addr w s).queue = s.queue := by
  dsimp only [ucLoadAt]
  simp

@[simp ↓] theorem execUcodeLdDataW5Write_keepsQueue (n : Cl) (v : Word) (s : State) :
    KeepsQueue s.queue (execUcodeLdDataW5Write n v s) := by
  dsimp only [execUcodeLdDataW5Write]
  simp

/-! ### Machine/Spm.lean -/

@[simp ↓] theorem domSwitch_queue (d : Nat) (target : BitVec 2) (who : Nat) (s : State) :
    (domSwitch d target who s).queue = s.queue := by
  dsimp only [domSwitch]
  simp

@[simp ↓] theorem hubClear_queue (lo hi : Nat) (s : State) : (hubClear lo hi s).queue = s.queue := by rfl

@[simp ↓] theorem spmPutState_queue (n : Cl) (k : Nat) (s : State) : (spmPutState n k s).queue = s.queue := by
  dsimp only [spmPutState]
  simp

@[simp ↓] theorem putSpareSlot_queue (t k v : Nat) (s : State) : (putSpareSlot t k v s).queue = s.queue := by
  dsimp only [putSpareSlot]
  simp

@[simp ↓] theorem syncSpm_queue (s : State) : (syncSpm s).queue = s.queue := by
  dsimp only [syncSpm]
  simp

@[simp ↓] theorem mirrorStart_queue (n : Cl) (s : State) : (mirrorStart n s).queue = s.queue := by
  dsimp only [mirrorStart]
  simp

@[simp ↓] theorem journalAppend_queue (n : Cl) (s : State) : (journalAppend n s).queue = s.queue := by
  dsimp only [journalAppend]
  simp

@[simp ↓] theorem restoreWord_queue (n : Cl) (mofs : Nat) (p : Nat × Word) (s : State) :
    (restoreWord n mofs p s).queue = s.queue := by
  dsimp only [restoreWord]
  simp

@[simp ↓] theorem restoreClear_queue (n : Cl) (plots : List Nat) (s : State) :
    (restoreClear n plots s).queue = s.queue := by
  dsimp only [restoreClear]
  simp

@[simp ↓] theorem moveStores_queue (n : Cl) (old d : Nat) (s : State) : (moveStores n old d s).queue = s.queue := by
  dsimp only [moveStores]
  simp

@[simp ↓] theorem engineNext_queue (t : Nat) (s : State) : (engineNext t s).queue = s.queue := by
  dsimp only [engineNext]
  (repeat' split) <;> simp

@[simp ↓] theorem declareFailed_queue (n : Cl) (s : State) : (declareFailed n s).queue = s.queue := by
  dsimp only [declareFailed]
  (repeat' split) <;> simp

@[simp ↓] theorem restoreDone_queue (n : Cl) (s : State) : (restoreDone n s).queue = s.queue := by
  dsimp only [restoreDone]
  simp

@[simp ↓] theorem replayRecord_queue (n : Cl) (r : RingRec) (s : State) : (replayRecord n r s).queue = s.queue := by
  dsimp only [replayRecord]
  simp

@[simp ↓] theorem pairBack_queue (n : Cl) (s : State) : (pairBack n s).queue = s.queue := by rfl

@[simp ↓] theorem pairRejoin_queue (s : State) : (pairRejoin s).queue = s.queue := by
  unfold pairRejoin
  refine foldl_queue _ (fun t n => ?_) _ _
  dsimp only
  refine queue_ite ?_ rfl
  simp

@[simp ↓] theorem firstRelease_queue (n : Cl) (s : State) : (firstRelease n s).queue = s.queue := by
  dsimp only [firstRelease]
  split <;> simp

@[simp ↓] theorem swapGo_queue (n : Cl) (s : State) : (swapGo n s).queue = s.queue := by
  dsimp only [swapGo]
  split <;> simp

@[simp ↓] theorem swapAtTick_queue (n : Cl) (s : State) : (swapAtTick n s).queue = s.queue := by
  dsimp only [swapAtTick]
  simp

@[simp ↓] theorem netStop_queue (s : State) : (netStop s).queue = s.queue := by
  unfold netStop
  refine (foldl_queue _ (fun t p => ?_) _ _).trans (by simp)
  dsimp only
  simp

@[simp ↓] theorem unitStop_queue (u : Nat) (s : State) : (unitStop u s).queue = s.queue := by
  dsimp only [unitStop]
  split <;> simp

@[simp ↓] theorem fenceUnit_queue (u : Nat) (s : State) : (fenceUnit u s).queue = s.queue := by
  dsimp only [fenceUnit]
  simp

@[simp ↓] theorem unitReset_queue (u : Nat) (s : State) : (unitReset u s).queue = s.queue := by
  dsimp only [unitReset]
  split <;> simp

@[simp ↓] theorem unfenceUnit_queue (u : Nat) (s : State) : (unfenceUnit u s).queue = s.queue := by
  dsimp only [unfenceUnit]
  simp

@[simp ↓] theorem spmCfgWrite_queue (n : Cl) (v : Word) (s : State) : (spmCfgWrite n v s).queue = s.queue := by
  dsimp only [spmCfgWrite]
  simp

@[simp ↓] theorem spmWrite_queue (o : Nat) (v : Word) (s : State) : (spmWrite o v s).queue = s.queue := by
  dsimp only [spmWrite]
  simp

/-! ### Machine/Sec.lean -/

@[simp ↓] theorem measExtend_queue (i : Nat) (d : BitVec 256) (s : State) : (measExtend i d s).queue = s.queue := by
  dsimp only [measExtend]
  simp

@[simp ↓] theorem measOtp_queue (s : State) : (measOtp s).queue = s.queue := by
  dsimp only [measOtp]
  simp

@[simp ↓] theorem otpPut_queue (o : Otp) (s : State) : (otpPut o s).queue = s.queue := by rfl

@[simp ↓] theorem putInactive_queue (i : Option Img) (s : State) : (putInactive i s).queue = s.queue := by
  dsimp only [putInactive]
  simp

@[simp ↓] theorem patchLoad_queue (n : Cl) (ws : List Word) (s : State) : (patchLoad n ws s).queue = s.queue := by
  dsimp only [patchLoad]
  simp

@[simp ↓] theorem sealPut_queue (a len svn : Nat) (loam : Bool) (ws : List Word) (s : State) :
    (sealPut a len svn loam ws s).queue = s.queue := by
  dsimp only [sealPut]
  simp

@[simp ↓] theorem loaderCap_queue (a len : Nat) (s : State) : (loaderCap a len s).queue = s.queue := by rfl

@[simp ↓] theorem mintRoots_queue (s : State) : (mintRoots s).queue = s.queue := by
  dsimp only [mintRoots]
  simp

@[simp ↓] theorem newTagSecret_queue (s : State) : (newTagSecret s).queue = s.queue := by rfl

@[simp ↓] theorem secBegin_queue (kind : Nat) (j : SecJob) (s : State) : (secBegin kind j s).queue = s.queue := by
  dsimp only [secBegin]
  simp

@[simp ↓] theorem secWords_queue (a k : Nat) (s : State) : (secWords a k s).2.2.queue = s.queue := by
  induction k generalizing a s with
  | zero => rfl
  | succ k ih =>
    dsimp only [secWords]
    have h := memRead_queue .security .hubM a s
    generalize memRead .security .hubM a s = p at h ⊢
    obtain ⟨acc, t⟩ := p
    cases acc
    case ok v => exact (ih ..).trans h
    all_goals exact h

@[simp ↓] theorem withSource_queue (fail : Nat → State → State) (serve : List Word → State → State) (s : State)
    (hf : ∀ k t, (fail k t).queue = t.queue) (hs : ∀ ws t, (serve ws t).queue = t.queue) :
    (withSource fail serve s).queue = s.queue := by
  unfold withSource
  extract_lets a len
  split
  · exact hf ..
  · have h := secWords_queue a len s
    generalize secWords a len s = p at h ⊢
    obtain ⟨_ | _, _ | ws, t⟩ := p
    · rfl
    · exact (hs ..).trans h
    · exact (hf ..).trans ((drawn_queue t).trans h)
    · exact (hs ..).trans h

@[simp ↓] theorem imgFailed_queue (kind code : Nat) (s : State) : (imgFailed kind code s).queue = s.queue := by
  dsimp only [imgFailed]
  simp

@[simp ↓] theorem imgInvalid_queue (kind : Nat) (s : State) : (imgInvalid kind s).queue = s.queue := by
  dsimp only [imgInvalid]
  simp

theorem loamLoad_queue {ws : List Word} {s t : State} (h : loamLoad ws s = some t) : t.queue = s.queue := by
  unfold loamLoad at h
  extract_lets ds at h
  split at h
  · cases h; rfl
  · refine foldl_all (P := fun o : Option State => ∀ u ∈ o, u.queue = s.queue) (fun o d ho u hu => ?_) ds
      (fun u hu => by cases hu; rfl) t h
    obtain ⟨y, hy, rfl⟩ := Option.map_eq_some_iff.mp hu
    refine (wrote_queue y.1 y.2).trans (foldl_all (P := fun o : Option (List Nat × State) => ∀ y ∈ o, y.2.queue = s.queue)
      (fun o p ho z hz => ?_) _ (fun z hz => ?_) y hy)
    · obtain ⟨w, hw, hz⟩ := Option.bind_eq_some_iff.mp hz
      have h := (memWrite_queue .svc0 .hubM p.1 p.2 w.2).trans (ho w hw)
      generalize memWrite .svc0 .hubM p.1 p.2 w.2 = r at hz h
      obtain ⟨acc, t⟩ := r
      cases acc <;> cases hz <;> exact h
    · obtain ⟨w, hw, rfl⟩ := Option.map_eq_some_iff.mp hz
      exact ho w hw

@[simp ↓] theorem secImage_queue (kind len : Nat) (ws : List Word) (s : State) :
    (secImage kind len ws s).queue = s.queue := by
  unfold secImage
  extract_lets done n code code' d old t old'
  have ht : t.queue = s.queue := by
    simp [t]
  have hd (a d) (t : State) : (done a d t).queue = t.queue := by
    simp [done]
  clear_value done
  refine queue_ite (by simp) (queue_ite ?_ ?_)
  · refine queue_ite (by simp) (queue_ite (by simp) ?_)
    simp [hd]
  · refine queue_ite (by simp) (queue_ite (by simp [hd]) (queue_ite (by simp [hd, ht]) ?_))
    split
    · simp
    · dsimp only
      split
      · split
        · exact (hd ..).trans ((loamLoad_queue ‹_›).trans (by simp))
        · rfl
      · simp [hd]

@[simp ↓] theorem secServed_queue (f : State → State) (s : State) (h : ∀ t, (f t).queue = t.queue) :
    (secServed f s).queue = s.queue := by
  unfold secServed
  simp [h]

@[simp ↓] theorem secLoad_queue (kind : Nat) (s : State) : (secLoad kind s).queue = s.queue := by
  dsimp only [secLoad]
  simp

@[simp ↓] theorem secEnd_queue (kind code : Nat) (s : State) : (secEnd kind code s).queue = s.queue := by
  dsimp only [secEnd]
  simp

@[simp ↓] theorem secFree_queue (kind : Nat) (s : State) : (secFree kind s).queue = s.queue := by rfl

@[simp ↓] theorem secRekey_queue (s : State) : (secRekey s).queue = s.queue := by
  dsimp only [secRekey]
  simp

@[simp ↓] theorem secCommitAs_queue (i : Nat) (s : State) : (secCommitAs i s).queue = s.queue := by
  dsimp only [secCommitAs]
  simp

@[simp ↓] theorem secLog_queue (s : State) : (secLog s).queue = s.queue := by
  dsimp only [secLog]
  simp

@[simp ↓] theorem secReleaseReq_queue (s : State) : (secReleaseReq s).queue = s.queue := by
  unfold secReleaseReq
  refine secServed_queue _ _ fun t => ?_
  dsimp only
  split <;> simp

@[simp ↓] theorem secOwnerImage_queue (len : Nat) (ws : List Word) (viaMonitor : Bool) (s : State) :
    (secOwnerImage len ws viaMonitor s).queue = s.queue := by
  unfold secOwnerImage
  dsimp only
  repeat' with_reducible apply queue_ite
  all_goals simp

@[simp ↓] theorem secOwnerReq_queue (viaMonitor : Bool) (s : State) : (secOwnerReq viaMonitor s).queue = s.queue := by
  dsimp only [secOwnerReq]
  simp

@[simp ↓] theorem secUnlisted_queue (kind : Nat) (s : State) : (secUnlisted kind s).queue = s.queue := by
  dsimp only [secUnlisted]
  simp

@[simp ↓] theorem bootMailbox_queue (s : State) : (bootMailbox s).queue = s.queue := by
  dsimp only [bootMailbox]
  simp

@[simp ↓] theorem execSecRequestDone_keepsQueue (s : State) : KeepsQueue s.queue (execSecRequestDone s) := by
  unfold execSecRequestDone
  refine awake_keepsQueue rfl ?_
  split
  · simp
  · extract_lets old s1 s2 s3 old' s4
    have h1 : s1.queue = s.queue := by
      simp [s1]
    have h2 : s2.queue = s.queue := by
      dsimp only [s2]
      split <;> simp [h1]
    have h3 : s3.queue = s.queue := by
      dsimp only [s3]
      split <;> simp [h2]
    have h4 : s4.queue = s.queue := by
      simp [s4, h3]
    simp [h4]

@[simp ↓] theorem secCtlWrite_queue (v : Word) (s : State) : (secCtlWrite v s).queue = s.queue := by
  dsimp only [secCtlWrite]
  (repeat' split) <;> simp

@[simp ↓] theorem secWrite_queue (o : Nat) (v : Word) (s : State) : (secWrite o v s).queue = s.queue := by
  dsimp only [secWrite]
  simp

@[simp ↓] theorem topsoilStart_queue (halfB : Bool) (s : State) : (topsoilStart halfB s).queue = s.queue := by
  dsimp only [topsoilStart]
  split <;> simp

@[simp ↓] theorem attest_queue (nonce : List Word) (s : State) : (attest nonce s).queue = s.queue := by rfl

@[simp ↓] theorem bootImages_queue (s : State) : (bootImages s).queue = s.queue := by
  dsimp only [bootImages]
  simp

@[simp ↓] theorem secureBoot_queue (s : State) : (secureBoot s).queue = s.queue := by
  dsimp only [secureBoot]
  simp

/-! ### Machine/Pwr.lean -/

@[simp ↓] theorem deviceReset_queue (s : State) : (deviceReset s).queue = s.queue := by rfl

@[simp ↓] theorem deviceStart_queue (s : State) : (deviceStart s).queue = s.queue := by
  dsimp only [deviceStart]
  simp

@[simp ↓] theorem keepRws_queue (old s : State) : (keepRws old s).queue = s.queue := by
  dsimp only [keepRws]
  simp

@[simp ↓] theorem setTime_queue (ns : BitVec 64) (s : State) : (setTime ns s).queue = s.queue := by rfl

@[simp ↓] theorem coldReset_queue (strap : Bool) (flash : Flash) (s : State) :
    (coldReset strap flash s).queue = s.queue := by
  dsimp only [coldReset]
  simp

@[simp ↓] theorem powerOff_queue (s : State) : (powerOff s).queue = s.queue := by rfl

@[simp ↓] theorem warmReset_queue (flash : Flash) (s : State) : (warmReset flash s).queue = s.queue := by
  dsimp only [warmReset]
  simp

@[simp ↓] theorem modeRefuse_queue (s : State) : (modeRefuse s).queue = s.queue := by
  unfold modeRefuse
  simp

@[simp ↓] theorem leaveStandby_queue (s : State) : (leaveStandby s).queue = s.queue := by
  dsimp only [leaveStandby]
  simp

@[simp ↓] theorem requestStandby_queue (s : State) : (requestStandby s).queue = s.queue := by
  dsimp only [requestStandby]
  simp

@[simp ↓] theorem requestConfigure_queue (flash : Flash) (s : State) : (requestConfigure flash s).queue = s.queue := by
  dsimp only [requestConfigure]
  simp

@[simp ↓] theorem requestArmed_queue (s : State) : (requestArmed s).queue = s.queue := by
  dsimp only [requestArmed]
  simp

@[simp ↓] theorem requestRun_queue (s : State) : (requestRun s).queue = s.queue := by
  dsimp only [requestRun]
  simp

@[simp ↓] theorem requestSafeOutput_queue (s : State) : (requestSafeOutput s).queue = s.queue := by
  dsimp only [requestSafeOutput]
  simp

@[simp ↓] theorem requestFrom4_queue (m : Nat) (s : State) : (requestFrom4 m s).queue = s.queue := by
  dsimp only [requestFrom4]
  simp

@[simp ↓] theorem modeRequest_queue (code : Nat) (s : State) : (modeRequest code s).queue = s.queue := by
  dsimp only [modeRequest]
  split <;> simp

@[simp ↓] theorem replayGo_queue (n : Cl) (s : State) : (replayGo n s).queue = s.queue := by
  dsimp only [replayGo]
  simp

@[simp ↓] theorem domWrite_queue (d : Nat) (v : Word) (s : State) : (domWrite d v s).queue = s.queue := by
  dsimp only [domWrite]
  simp

@[simp ↓] theorem islandLost_queue (n : Cl) (s : State) : (islandLost n s).queue = s.queue := by
  dsimp only [islandLost]
  simp

@[simp ↓] theorem execDomainSwitchComplete_keepsQueue (d : Dom) (s : State) :
    KeepsQueue s.queue (execDomainSwitchComplete d s) := by
  unfold execDomainSwitchComplete
  refine awake_keepsQueue rfl ?_
  split
  · simp
  · extract_lets old s1 old' s2 s3
    have h1 : s1.queue = s.queue := by
      simp [s1]
    have h2 : s2.queue = s.queue := by
      simp [s2, h1]
    have h3 : s3.queue = s.queue := by
      dsimp only [s3]
      split <;> simp [h2]
    simp [h3]

@[simp ↓] theorem pwrWrite_queue (o : Nat) (v : Word) (s : State) : (pwrWrite o v s).queue = s.queue := by
  dsimp only [pwrWrite]
  simp

/-! ### Machine/Od.lean -/

@[simp ↓] theorem nfpServe_queue (path : NfpPath) (seq : Nat) (f : State → State) (s : State)
    (h : ∀ t, (f t).queue = t.queue) : (nfpServe path seq f s).queue = s.queue := by
  unfold nfpServe
  split
  · rfl
  · extract_lets kept
    clear_value kept
    split <;> simp [h]

@[simp ↓] theorem nfpReply_queue (h : NfpHdr) (status ty : Nat) (data : List Word) (s : State) :
    (nfpReply h status ty data s).queue = s.queue := by
  dsimp only [nfpReply]
  simp

@[simp ↓] theorem nfpDoRead_queue (h : NfpHdr) (s : State) : (nfpDoRead h s).queue = s.queue := by
  dsimp only [nfpDoRead]
  (repeat' split) <;> simp

@[simp ↓] theorem nfpDoReadSeg_queue (h : NfpHdr) (len : Nat) (s : State) : (nfpDoReadSeg h len s).queue = s.queue := by
  dsimp only [nfpDoReadSeg]
  (repeat' split) <;> simp

@[simp ↓] theorem nfpDoDescribe_queue (h : NfpHdr) (s : State) : (nfpDoDescribe h s).queue = s.queue := by
  dsimp only [nfpDoDescribe]
  (repeat' split) <;> simp

@[simp ↓] theorem odStore_queue (key : Nat) (ws : List Word) (s : State) : (odStore key ws s).queue = s.queue := by rfl

@[simp ↓] theorem odModeRequest_queue (h : NfpHdr) (code : Nat) (s : State) :
    (odModeRequest h code s).queue = s.queue := by
  dsimp only [odModeRequest]
  simp

@[simp ↓] theorem odTake_queue (h : NfpHdr) (e : OdEntry) (data : List Word) (s : State) :
    (odTake h e data s).queue = s.queue := by
  dsimp only [odTake]
  simp

@[simp ↓] theorem paramAccept_queue (key : Nat) (v : List Word) (s : State) :
    (paramAccept key v s).queue = s.queue := by rfl

@[simp ↓] theorem paramWrites_queue (h : NfpHdr) (n : Cl) (ps : List (Param × List Word)) (s : State) :
    (paramWrites h n ps s).queue = s.queue := by
  dsimp only [paramWrites]
  simp

@[simp ↓] theorem nfpDoWrite_queue (h : NfpHdr) (ty : Nat) (data : List Word) (s : State) :
    (nfpDoWrite h ty data s).queue = s.queue := by
  dsimp only [nfpDoWrite]
  (repeat' split) <;> simp

@[simp ↓] theorem nfpDoWriteSeg_queue (h : NfpHdr) (data : List Word) (s : State) :
    (nfpDoWriteSeg h data s).queue = s.queue := by
  dsimp only [nfpDoWriteSeg]
  (repeat' split) <;> simp

@[simp ↓] theorem nfpDoWriteMulti_queue (h : NfpHdr) (items : List NfpItem) (s : State) :
    (nfpDoWriteMulti h items s).queue = s.queue := by
  dsimp only [nfpDoWriteMulti]
  (repeat' split) <;> simp

@[simp ↓] theorem nfpMessage_queue (path : NfpPath) (ws : List Word) (s : State) :
    (nfpMessage path ws s).queue = s.queue := by
  unfold nfpMessage
  dsimp only
  refine nfpServe_queue _ _ _ _ fun t => ?_
  refine queue_ite (by simp) ?_
  split
  · simp
  · simp
  · simp
  · simp
  · simp
  · refine queue_ite ?_ (by simp)
    split <;> simp
  · simp

@[simp ↓] theorem nfpTake_queue (mine : Nat → Bool) (via : NfpVia) (s : State) :
    (nfpTake mine via s).queue = s.queue := by
  dsimp only [nfpTake]
  split <;> simp

/-! ### Machine/RegAccess.lean -/

@[simp ↓] theorem asRead_queue (o : Out) (s : State) (h : KeepsQueue s.queue o) : (asRead o s).2.queue = s.queue := by
  cases o with
  | next t => exact h t rfl
  | refused | fault => rfl

@[simp ↓] theorem asWrite_queue (o : Out) (s : State) (h : KeepsQueue s.queue o) : (asWrite o s).queue = s.queue := by
  cases o with
  | next t => exact h t rfl
  | refused | fault => rfl

@[simp ↓] theorem evcFree_queue (n : Cl) (s : State) : (evcFree n s).queue = s.queue := by rfl

@[simp ↓] theorem evcSnap_queue (n : Cl) (s : State) : (evcSnap n s).queue = s.queue := by
  dsimp only [evcSnap]
  simp

@[simp ↓] theorem evcRead_queue (n : Cl) (r reader : Nat) (s : State) : (evcRead n r reader s).2.queue = s.queue := by
  dsimp only [evcRead]
  simp

@[simp ↓] theorem evcWrite_queue (n : Cl) (r : Nat) (v : Word) (s : State) : (evcWrite n r v s).queue = s.queue := by
  dsimp only [evcWrite]
  simp

@[simp ↓] theorem evcAnswer_queue (n : Cl) (r : Nat) (m : EvcReader) (s : State) :
    (evcAnswer n r m s).queue = s.queue := by
  dsimp only [evcAnswer]
  simp

@[simp ↓] theorem plotRegWrite_queue (n : Cl) (off : Nat) (v : Word) (who : Handler) (s : State) :
    (plotRegWrite n off v who s).queue = s.queue := by
  dsimp only [plotRegWrite]
  simp

@[simp ↓] theorem gcntClear_queue (s : State) : (gcntClear s).queue = s.queue := by
  dsimp only [gcntClear]
  simp

@[simp ↓] theorem gcntSnap_queue (s : State) : (gcntSnap s).queue = s.queue := by
  dsimp only [gcntSnap]
  simp

@[simp ↓] theorem hubRead_queue (m : Master) (off : Nat) (s : State) : (hubRead m off s).2.queue = s.queue := by
  unfold hubRead
  simp
  intros
  split <;> rfl

@[simp ↓] theorem tbWrite_queue (off : Nat) (v : Word) (s : State) : (tbWrite off v s).queue = s.queue := by
  dsimp only [tbWrite]
  (repeat' split) <;> simp

@[simp ↓] theorem chFlagWrite_queue (w : Nat) (v : Word) (s : State) : (chFlagWrite w v s).queue = s.queue := by
  dsimp only [chFlagWrite]
  simp

@[simp ↓] theorem grpWrite_queue (g : Nat) (v : Word) (s : State) : (grpWrite g v s).queue = s.queue := by rfl

@[simp ↓] theorem pqRegWrite_queue (f : Pq) (r : Nat) (v : Word) (s : State) :
    (pqRegWrite f r v s).queue = s.queue := by
  dsimp only [pqRegWrite]
  split <;> simp

@[simp ↓] theorem evfWrite_queue (off : Nat) (v : Word) (s : State) : (evfWrite off v s).queue = s.queue := by
  unfold evfWrite
  dsimp only
  simp
  intros
  split <;> simp

@[simp ↓] theorem ucodeWrite_queue (off : Nat) (v : Word) (s : State) : (ucodeWrite off v s).queue = s.queue := by
  dsimp only [ucodeWrite]
  split <;> simp

@[simp ↓] theorem odPqWrite_queue (off : Nat) (v : Word) (s : State) : (odPqWrite off v s).queue = s.queue := by
  dsimp only [odPqWrite]
  split <;> simp

@[simp ↓] theorem hubWrite_queue (m : Master) (cs : List CapV) (off : Nat) (v : Word) (s : State) :
    (hubWrite m cs off v s).queue = s.queue := by
  unfold hubWrite
  dsimp only
  simp

@[simp ↓] theorem keyRefuse_queue (off : Nat) (s : State) : (keyRefuse off s).queue = s.queue := by
  dsimp only [keyRefuse]
  simp

@[simp ↓] theorem hostRefuse_queue (a : Nat) (v : Word) (s : State) : (hostRefuse a v s).queue = s.queue := by
  dsimp only [hostRefuse]
  (repeat' split) <;> simp

@[simp ↓] theorem hostDenied_queue (p : Nat) (s : State) : (hostDenied p s).queue = s.queue := by rfl

@[simp ↓] theorem hostWrite_queue (p off : Nat) (v : Word) (s : State) : (hostWrite p off v s).queue = s.queue := by
  dsimp only [hostWrite]
  simp

@[simp ↓] theorem masterWrite_queue (m : Master) (off : Nat) (v : Word) (s : State) :
    (masterWrite m off v s).queue = s.queue := by
  dsimp only [masterWrite]
  (repeat' split) <;> simp

@[simp ↓] theorem capHubWrite_queue (m : Master) (cap : CapV) (off : Nat) (v : Word) (s : State) :
    (capHubWrite m cap off v s).queue = s.queue := by
  dsimp only [capHubWrite]
  simp

@[simp ↓] theorem hostStore_queue (w : Nat) (v : Word) (s : State) : (hostStore w v s).2.queue = s.queue := by
  unfold hostStore
  have h := hostAccess_queue w (some v) s
  generalize hostAccess w (some v) s = p at h ⊢
  obtain ⟨_ | _, t⟩ := p <;> exact h

@[simp ↓] theorem wordRead_queue (m : Master) (g : Agent) (a : Nat) (s : State) :
    (wordRead m g a s).2.queue = s.queue := by
  unfold wordRead
  split
  · rfl
  · split
    · simp
    · have h := hostAccess_queue ‹_› none s
      generalize hostAccess _ none s = p at h ⊢
      obtain ⟨_ | _, t⟩ := p <;> exact h
    · simp

@[simp ↓] theorem regWordWrite_queue (m : Master) (cap : CapV) (off : Nat) (v : Word) (s : State) :
    (regWordWrite m cap off v s).2.queue = s.queue := by
  dsimp only [regWordWrite]
  split <;> simp

@[simp ↓] theorem wordWrite_queue (m : Master) (g : Agent) (cap : CapV) (a : Nat) (v : Word) (s : State) :
    (wordWrite m g cap a v s).2.queue = s.queue := by
  dsimp only [wordWrite]
  (repeat' split) <;> simp

@[simp ↓] theorem irqbWrite_queue (n : Cl) (k : Nat) (v : Word) (s : State) : (irqbWrite n k v s).queue = s.queue := by
  dsimp only [irqbWrite]
  simp

@[simp ↓] theorem setEvtWrite_queue (n : Cl) (k : Set8) (v : Word) (s : State) :
    (setEvtWrite n k v s).queue = s.queue := by
  dsimp only [setEvtWrite]
  simp

/-! ### Machine/Bars.lean -/

@[simp ↓] theorem bar0Units_queue (p : Nat) (s : State) (ks : List Nat) : (bar0Units p s ks).2.queue = s.queue := by
  induction ks generalizing s with
  | nil => rfl
  | cons k ks ih =>
    unfold bar0Units
    split
    · exact (ih _).trans (hubRead_queue ..)
    · exact ih s

@[simp ↓] theorem bar0Read_queue (p byte size : Nat) (s : State) : (bar0Read p byte size s).queue = s.queue := by
  dsimp only [bar0Read]
  simp

@[simp ↓] theorem hostWrites_queue (p : Nat) (ws : List (Nat × Word)) (s : State) :
    (hostWrites p ws s).queue = s.queue := by
  dsimp only [hostWrites]
  simp

@[simp ↓] theorem msixWrite_queue (p k : Nat) (bs : List (Option HByte)) (s : State) :
    (msixWrite p k bs s).queue = s.queue := by
  dsimp only [msixWrite]
  simp

@[simp ↓] theorem bar0Write_queue (p byte : Nat) (data : List HByte) (s : State) :
    (bar0Write p byte data s).queue = s.queue := by
  dsimp only [bar0Write]
  simp

@[simp ↓] theorem hostWrite1_queue (p a : Nat) (v : Word) (s : State) : (hostWrite1 p a v s).2.queue = s.queue := by
  dsimp only [hostWrite1]
  (repeat' split) <;> simp

theorem bar2Reads_queue {p : Nat} {s t : State} {ks : List Nat} {us : List (BitVec 32)} {b : Bool}
    (h : bar2Reads p s ks = some (us, b, t)) : t.queue = s.queue := by
  induction ks generalizing s t us b with
  | nil => cases h; rfl
  | cons k ks ih =>
    dsimp only [bar2Reads] at h
    split at h
    · obtain ⟨⟨us', b', t'⟩, hq, heq⟩ := Option.map_eq_some_iff.mp h
      cases heq
      exact ih hq
    · have hw := wordRead_queue (portMaster p) .hubM ‹_› s
      generalize wordRead (portMaster p) .hubM _ s = r at h hw
      obtain ⟨acc, u⟩ := r
      cases acc
      case held => cases h
      all_goals
        obtain ⟨⟨us', b', t'⟩, hq, heq⟩ := Option.map_eq_some_iff.mp h
        cases heq
        exact (ih hq).trans hw

@[simp ↓] theorem bar2Read_queue (p byte size : Nat) (s : State) : (bar2Read p byte size s).queue = s.queue := by
  unfold bar2Read
  extract_lets ks zero
  have hz (t : State) : (zero t).queue = t.queue := respond_queue ..
  refine queue_ite ?_ (by simp [hz])
  split
  · rfl
  · simp [hz, bar2Reads_queue ‹_›]
  · simp [bar2Reads_queue ‹_›]

theorem bar2Writes_queue {p : Nat} {s t : State} {ws : List (Nat × Word)} (h : bar2Writes p s ws = some t) :
    t.queue = s.queue := by
  induction ws generalizing s with
  | nil => cases h; rfl
  | cons w ws ih =>
    obtain ⟨a, v⟩ := w
    unfold bar2Writes at h
    have hw := hostWrite1_queue p a v s
    generalize hostWrite1 p a v s = r at h hw
    obtain ⟨acc, u⟩ := r
    cases acc
    case held => cases h
    all_goals exact (ih h).trans hw

@[simp ↓] theorem bar2Write_queue (p byte : Nat) (data : List HByte) (s : State) :
    (bar2Write p byte data s).queue = s.queue := by
  unfold bar2Write
  extract_lets ks ws full
  refine queue_ite (by simp) (queue_ite (by simp) ?_)
  split
  · simp
  · refine getD_queue (fun t ht => ?_) rfl
    obtain ⟨u, hu, rfl⟩ := Option.map_eq_some_iff.mp ht
    exact (wrote_queue ..).trans (bar2Writes_queue hu)

/-! ### Machine/Operands.lean -/

@[simp] theorem seqWrites_queue (n : Cl) (cap : CapV) (win : Bool) (ws : List (Nat × Word)) (k : Nat)
    (f : Option (Nat × Nat)) (s : State) : (seqWrites n cap win ws k f s).s.queue = s.queue := by
  induction ws generalizing k f s with
  | nil => rfl
  | cons w ws ih =>
    obtain ⟨a, v⟩ := w
    dsimp only [seqWrites]
    have h := wordWrite_queue (.cluster n) (seqAgent n win) cap a v s
    generalize wordWrite (.cluster n) (seqAgent n win) cap a v s = r at h ⊢
    obtain ⟨acc, t⟩ := r
    cases acc
    case held => exact h
    all_goals exact (ih ..).trans h

@[simp ↓] theorem sbufDrain_queue (n : Cl) (s : State) : (sbufDrain n s).queue = s.queue := by
  unfold sbufDrain
  split
  · rfl
  · dsimp only
    refine queue_ite rfl ?_
    simp

/-! ### Machine/Issue.lean -/

@[simp ↓] theorem faultStop_queue (n : Cl) (cause : Nat) (s : State) : (faultStop n cause s).queue = s.queue := by rfl

@[simp ↓] theorem fastEntry_queue (n : Cl) (vec : Nat) (cause info rpc : Word) (s : State) :
    (fastEntry n vec cause info rpc s).queue = s.queue := by rfl

@[simp ↓] theorem wordPass_queue (n : Cl) (k : Nat) (jump : Option Jump) (bubbles : Nat) (s : State) :
    (wordPass n k jump bubbles s).queue = s.queue := by rfl

@[simp ↓] theorem wordDone_queue (n : Cl) (k : Nat) (jump : Option Jump) (bubbles : Nat) (s : State) :
    (wordDone n k jump bubbles s).queue = s.queue := by rfl

@[simp ↓] theorem cancelled_queue (n : Cl) (k : Nat) (b : Word) (s : State) :
    (cancelled n k b s).queue = s.queue := by rfl

@[simp ↓] theorem wrongPath_queue (n : Cl) (a : Word) (s : State) : (wrongPath n a s).queue = s.queue := by
  dsimp only [wrongPath]
  simp

@[simp ↓] theorem pairPass_queue (n : Cl) (bubbles : Nat) (s : State) : (pairPass n bubbles s).queue = s.queue := by rfl

@[simp ↓] theorem pairDone_queue (n : Cl) (a b : List (RegName × RegVal)) (skip : Bool) (jump : Option Jump)
    (bubbles : Nat) (s : State) : (pairDone n a b skip jump bubbles s).queue = s.queue := by rfl

@[simp ↓] theorem closePair_queue (n : Cl) (s : State) : (closePair n s).queue = s.queue := by
  dsimp only [closePair]
  split <;> simp

theorem normalEntry_queue {n : Cl} {vec : Nat} {cause info rpc : Word} {s t : State}
    (h : normalEntry n vec cause info rpc s = some t) : t.queue = s.queue := by
  unfold normalEntry at h
  dsimp only at h
  split at h
  · split at h <;> cases h
    simp
  · cases h
    simp

theorem enterVector_queue {n : Cl} {vec : Nat} {cause info rpc : Word} {s t : State}
    (h : enterVector n vec cause info rpc s = some t) : t.queue = s.queue := by
  unfold enterVector at h
  split at h
  · cases h
    simp
  · exact normalEntry_queue h

theorem syncTrap_queue {n : Cl} {vec slot detail : Nat} {info rpc : Word} {s t : State}
    (h : syncTrap n vec slot detail info rpc s = some t) : t.queue = s.queue := by
  unfold syncTrap at h
  split at h
  · cases h
    simp
  · exact enterVector_queue h

/-- A trap that may find no room for its frame, with a state for that case. -/
theorem syncTrap_getD_queue {n : Cl} {vec slot detail : Nat} {info rpc : Word} {s d : State} (hd : d.queue = s.queue) :
    ((syncTrap n vec slot detail info rpc s).getD d).queue = s.queue :=
  getD_queue (fun _ h => syncTrap_queue h) hd

@[simp ↓] theorem fetchFault_queue (n : Cl) (s : State) : (fetchFault n s).queue = s.queue := syncTrap_getD_queue rfl

@[simp ↓] theorem loadCheck_queue (n : Cl) (slot : Nat) (addr : Word) (s : State) :
    (loadCheck n slot addr s).queue = s.queue := by rfl

@[simp ↓] theorem fetchWords_queue (n : Cl) (a k : Nat) (s : State) : (fetchWords n a k s).2.queue = s.queue := by
  induction k generalizing a s with
  | zero => rfl
  | succ k ih =>
    unfold fetchWords
    simp [ih]

theorem lateTrap_queue {n : Cl} {s t : State} (h : lateTrap n s = some t) : t.queue = s.queue := by
  unfold lateTrap at h
  obtain ⟨f, _, rfl⟩ := Option.map_eq_some_iff.mp h
  exact (syncTrap_getD_queue (modCl_queue ..).symm).trans (modCl_queue ..)

@[simp ↓] theorem issueGate_queue (n : Cl) (k : Nat) (s : State) : (issueGate n k s).2.queue = s.queue := by
  unfold issueGate
  dsimp only
  split
  · exact lateTrap_queue ‹_›
  · simp

@[simp ↓] theorem slotWord_queue (n : Cl) (sl : Slot) (f : Cluster → List (RegName × RegVal) × Bool) (s : State) :
    (slotWord n sl f s).queue = s.queue := by
  dsimp only [slotWord]
  (repeat' split) <;> simp

@[simp ↓] theorem stall_queue (n : Cl) (s : State) : (stall n s).queue = s.queue := by rfl

/-- What a word does, with every state that it holds having the queue `q`. -/
def SeqRes.Keeps (q : List Instr) : SeqRes → Prop
  | .hold => True
  | .trap _ _ _ _ t => t.queue = q
  | .done t _ _ _ => t.queue = q
  | .whole t => t.queue = q

@[simp] theorem keeps_hold (q : List Instr) : SeqRes.hold.Keeps q := trivial

@[simp] theorem keeps_trap {q : List Instr} {vec slot detail : Nat} {info : Word} {t : State} :
    (SeqRes.trap vec slot detail info t).Keeps q ↔ t.queue = q := Iff.rfl

@[simp] theorem keeps_done {q : List Instr} {t : State} {jump : Option Jump} {bubbles : Nat} {fp : Option Nat} :
    (SeqRes.done t jump bubbles fp).Keeps q ↔ t.queue = q := Iff.rfl

@[simp] theorem keeps_go {q : List Instr} {t : State} : (SeqRes.go t).Keeps q ↔ t.queue = q := Iff.rfl

@[simp] theorem keeps_whole {q : List Instr} {t : State} : (SeqRes.whole t).Keeps q ↔ t.queue = q := Iff.rfl

@[simp ↓] theorem keeps_ite {q : List Instr} {c : Prop} [Decidable c] {r r' : SeqRes} :
    (if c then r else r').Keeps q = if c then r.Keeps q else r'.Keeps q := by
  split <;> rfl

theorem wordTrap_queue {n : Cl} {vec slot detail : Nat} {info a : Word} {s t : State} (h : t.queue = s.queue) :
    (wordTrap n vec slot detail info a s t).queue = s.queue :=
  getD_queue (fun _ ht => (syncTrap_queue ht).trans h) (stall_queue n s)

theorem wordEnd_queue {n : Cl} {k : Nat} {a : Word} {s : State} {r : SeqRes} (h : r.Keeps s.queue) :
    (wordEnd n k a s r).queue = s.queue := by
  unfold wordEnd
  split
  · simp
  · exact wordTrap_queue ((modCl_queue ..).trans h)
  · exact (wordDone_queue ..).trans h
  · refine wordTrap_queue ?_
    have ht : State.queue _ = s.queue := h
    simp [ht]
  · exact h

/-- What the words of the FP unit do with its state first, with every state that it holds having the queue `q`. -/
def LazyRes.Keeps (q : List Instr) : LazyRes → Prop
  | .ok t => t.queue = q
  | .held => True
  | .fault _ _ t => t.queue = q

/-- What a load answers, with every state that it holds having the queue `q`. -/
def ReadRes.Keeps (q : List Instr) : ReadRes → Prop
  | .ok _ t => t.queue = q
  | .held => True
  | .fault _ t => t.queue = q
  | .ue t => t.queue = q

/-- What a store answers, with every state that it holds having the queue `q`. -/
def StoreRes.Keeps (q : List Instr) : StoreRes → Prop
  | .ok t => t.queue = q
  | .held => True
  | .fault _ t => t.queue = q

theorem seqReads_keeps (n : Cl) (win : Bool) (as : List Nat) (s : State) : (seqReads n win as s).Keeps s.queue := by
  induction as generalizing s with
  | nil => rfl
  | cons a as ih =>
    dsimp only [seqReads]
    have h := wordRead_queue (.cluster n) (seqAgent n win) a s
    generalize wordRead (.cluster n) (seqAgent n win) a s = r at h ⊢
    obtain ⟨acc, t⟩ := r
    cases acc
    case ok v =>
      have ht := ih t
      rw [show t.queue = s.queue from h] at ht
      dsimp only
      generalize seqReads n win as t = p at ht ⊢
      cases p <;> exact ht
    case held => trivial
    all_goals exact h

theorem dLoad_keeps (n : Cl) (cap : CapV) (a : Word) (k : Nat) (s : State) : (dLoad n cap a k s).Keeps s.queue := by
  unfold dLoad
  split
  · rfl
  · split
    · rfl
    · trivial
    · split
      · trivial
      · exact seqReads_keeps ..

theorem directLoad_keeps (n : Cl) (cap : CapV) (a : Word) (k : Nat) (s : State) :
    (directLoad n cap a k s).Keeps s.queue := by
  unfold directLoad
  split
  · rfl
  · split
    · trivial
    · exact seqReads_keeps ..

theorem storeFault_queue {n : Cl} {win : Bool} {a : Nat} {s : State} {p : Nat × State} (h : storeFault n win a s = some p) :
    p.2.queue = s.queue := by
  unfold storeFault at h
  extract_lets own at h
  have hown {m : Cl} {o : Nat} (h : own m o = some p) : p.2.queue = s.queue := by
    dsimp only [own] at h
    split at h <;> cases h
    simp
  clear_value own
  split at h
  · exact hown h
  · exact hown h
  · split at h <;> cases h
    rfl
  · split at h
    · cases h; rfl
    · split at h <;> cases h
      rfl
  · cases h; rfl
  · cases h

theorem findSome_storeFault_queue {n : Cl} {win : Bool} {gs : List Nat} {s : State} {p : Nat × State}
    (h : gs.findSome? (fun g => storeFault n win g s) = some p) : p.2.queue = s.queue := by
  obtain ⟨g, _, hg⟩ := List.exists_of_findSome?_eq_some h
  exact storeFault_queue hg

theorem dStore_keeps (n : Cl) (slot : Nat) (a : Word) (ws : List Word) (s : State) :
    (dStore n slot a ws s).Keeps s.queue := by
  unfold dStore
  dsimp only
  split
  · rfl
  · split
    · exact findSome_storeFault_queue ‹_›
    · split
      · trivial
      · exact modCl_queue ..

theorem directStore_keeps (n : Cl) (cap : CapV) (a : Word) (ws : List Word) (s : State) :
    (directStore n cap a ws s).Keeps s.queue := by
  unfold directStore
  dsimp only
  split
  · rfl
  · split
    · exact findSome_storeFault_queue ‹_›
    · split
      · trivial
      · split
        · trivial
        · split
          · exact seqWrites_queue ..
          · exact (wrote_queue ..).trans (seqWrites_queue ..)

theorem lazySave_keeps (n : Cl) (s : State) : (lazySave n s).Keeps s.queue := by
  unfold lazySave
  dsimp only
  split
  · rfl
  · have h := directStore_keeps n (smAt CapV.null (s.cl n).special 2) (ioGet 0x1C (s.cl n)) (fpArea (s.cl n)) s
    generalize directStore n _ _ _ s = r at h ⊢
    cases r
    case ok t => exact (modCl_queue ..).trans h
    all_goals exact h

theorem lazyLoad_keeps (n : Cl) (s : State) : (lazyLoad n s).Keeps s.queue := by
  unfold lazyLoad
  extract_lets c fpa own fresh
  have hown {t : State} (h : t.queue = s.queue) : (own t).Keeps s.queue := (modCl_queue ..).trans h
  have hfresh {t : State} (h : t.queue = s.queue) : (fresh t).Keeps s.queue :=
    (modCl_queue ..).trans ((modCl_queue ..).trans h)
  clear_value own fresh
  split
  · exact hfresh rfl
  · have h := directLoad_keeps n (cGet c 15) (fpa + 33) 1 s
    generalize directLoad n (cGet c 15) (fpa + 33) 1 s = r at h ⊢
    split
    · split
      · exact hfresh h
      · have hu := directLoad_keeps n (cGet c 15) fpa 33 ‹_›
        rw [show State.queue _ = s.queue from h] at hu
        generalize directLoad n (cGet c 15) fpa 33 _ = p at hu ⊢
        cases p
        case ok ws u => exact hown ((modCl_queue ..).trans hu)
        all_goals exact hu
    · exact hfresh h
    all_goals exact h

theorem lazyFp_keeps (n : Cl) (s : State) : (lazyFp n s).Keeps s.queue := by
  unfold lazyFp
  split
  · rfl
  · split
    · trivial
    · have h := lazySave_keeps n s
      generalize lazySave n s = r at h ⊢
      cases r with
      | ok t =>
        have ht := lazyLoad_keeps n t
        rwa [show t.queue = s.queue from h] at ht
      | held => trivial
      | fault => exact h

theorem issueWord_queue {n : Cl} {w : WordInfo} {f : Word → State → SeqRes} (hf : ∀ a t, (f a t).Keeps t.queue) (s : State) :
    (issueWord n w f s).queue = s.queue := by
  unfold issueWord
  extract_lets s1 g c a predicted t
  have hs1 : s1.queue = s.queue := closePair_queue ..
  have hg : g.2.queue = s.queue := (issueGate_queue ..).trans hs1
  have ht : t.queue = g.2.queue := modCl_queue ..
  have hend {r : SeqRes} (h : r.Keeps g.2.queue) : (wordEnd n w.cycles a g.2 r).queue = s.queue := (wordEnd_queue h).trans hg
  clear_value t
  refine queue_ite rfl (queue_ite hs1 (queue_ite ?_ (queue_ite hg (queue_ite ?_ ?_))))
  · simp [hs1]
  · have h := lazyFp_keeps n t
    generalize lazyFp n t = r at h ⊢
    cases r with
    | ok u =>
      refine hend ?_
      have := hf predicted u
      rwa [show u.queue = t.queue from h, ht] at this
    | held => exact (stall_queue ..).trans hg
    | fault slot info u => exact (wordTrap_queue ((modCl_queue ..).trans (h.trans ht))).trans hg
  · refine hend ?_
    have := hf predicted t
    rwa [ht] at this

@[simp ↓] theorem issue_queue (n : Cl) (w : WordInfo) (f : Word → State → SeqRes) (s : State)
    (hf : ∀ a t, (f a t).Keeps t.queue) : (issue n w f s).queue = s.queue :=
  queue_ite rfl (issueWord_queue hf s)

@[simp] theorem illegal_keeps (w : Nat) (s : State) : (illegal w s).Keeps s.queue := rfl

/-! ### Machine/Mon.lean -/

@[simp ↓] theorem monLine_queue (s : State) : (monLine s).queue = s.queue := by rfl

@[simp ↓] theorem monOk_queue (ws : List Word) (s : State) : (monOk ws s).queue = s.queue := by rfl

@[simp ↓] theorem monErr_queue (code : Nat) (s : State) : (monErr code s).queue = s.queue := by rfl

@[simp ↓] theorem monIn_queue (modes : List Nat) (f : State → State) (s : State) (h : (f (monLine s)).queue = s.queue) :
    (monIn modes f s).queue = s.queue := by
  unfold monIn
  simp [h]

@[simp ↓] theorem monRead1_queue (a : Nat) (s : State) : (monRead1 a s).2.queue = s.queue := by
  dsimp only [monRead1]
  simp

@[simp ↓] theorem monWrite1_queue (a : Nat) (v : Word) (s : State) : (monWrite1 a v s).2.queue = s.queue := by
  dsimp only [monWrite1]
  (repeat' split) <;> simp

@[simp ↓] theorem monReads_queue (a k : Nat) (s : State) : (monReads a k s).2.queue = s.queue := by
  induction k generalizing a s with
  | zero => rfl
  | succ k ih =>
    dsimp only [monReads]
    have h := monRead1_queue a s
    generalize monRead1 a s = r at h ⊢
    obtain ⟨acc, t⟩ := r
    cases acc
    case ok v =>
      have ht := (ih (a + 1) t).trans h
      dsimp only
      generalize monReads (a + 1) k t = p at ht ⊢
      obtain ⟨e, u⟩ := p
      cases e <;> exact ht
    all_goals exact h

@[simp ↓] theorem monWrites_queue (a : Nat) (ws : List Word) (as : List Nat) (s : State) :
    (monWrites a ws as s).2.queue = s.queue := by
  induction ws generalizing a as s with
  | nil => exact wrote_queue ..
  | cons w ws ih =>
    dsimp only [monWrites]
    have h := monWrite1_queue a w s
    generalize monWrite1 a w s = r at h ⊢
    obtain ⟨acc, t⟩ := r
    cases acc
    case ok v => exact (ih ..).trans h
    case held => exact h
    all_goals exact (wrote_queue ..).trans h

@[simp ↓] theorem monAnswer_queue (s : State) (r : MonEnd × State) (h : r.2.queue = s.queue) :
    (monAnswer s r).queue = s.queue := by
  unfold monAnswer
  split <;> simp [h]

@[simp ↓] theorem unlock_queue (t : Nat) (s : State) : (unlock t s).queue = s.queue := by rfl

@[simp ↓] theorem monLock_queue (t : Nat) (s : State) : (monLock t s).queue = s.queue := by
  dsimp only [monLock]
  simp

@[simp ↓] theorem monRmw_queue (a : Nat) (mask v : Word) (s : State) : (monRmw a mask v s).queue = s.queue := by
  unfold monRmw
  split
  · rfl
  · have h := (monRead1_queue a (monLock (targetOf a) s)).trans (monLock_queue ..)
    generalize monRead1 a (monLock (targetOf a) s) = r at h ⊢
    obtain ⟨acc, t⟩ := r
    cases acc
    case ok w =>
      have hw := (monWrite1_queue a ((w &&& ~~~mask) ||| (v &&& mask)) t).trans h
      dsimp only
      generalize monWrite1 a ((w &&& ~~~mask) ||| (v &&& mask)) t = p at hw ⊢
      obtain ⟨acc, u⟩ := p
      cases acc
      case ok => exact (monOk_queue ..).trans ((unlock_queue ..).trans ((wrote_queue ..).trans hw))
      case held => exact monLock_queue ..
      all_goals exact (monErr_queue ..).trans ((unlock_queue ..).trans hw)
    case held => exact monLock_queue ..
    all_goals exact (monErr_queue ..).trans ((unlock_queue ..).trans h)

@[simp ↓] theorem monImage_queue (kind : Nat) (ws : List Word) (s : State) : (monImage kind ws s).queue = s.queue := by
  dsimp only [monImage]
  simp

@[simp ↓] theorem monSeq_queue (n : Nat) (f : Cluster → Cluster) (s : State) : (monSeq n f s).queue = s.queue := by
  dsimp only [monSeq]
  simp

@[simp ↓] theorem freeMem_queue (as : List Nat) (s : State) : (freeMem as s).queue = s.queue := by
  dsimp only [freeMem]
  simp

@[simp ↓] theorem freeRegs_queue (lo hi : Nat) (s : State) : (freeRegs lo hi s).queue = s.queue := by
  dsimp only [freeRegs]
  simp

@[simp ↓] theorem bistCl_queue (n : Cl) (s : State) : (bistCl n s).queue = s.queue := by
  dsimp only [bistCl]
  simp

@[simp ↓] theorem bist_queue (d : Nat) (s : State) : (bist d s).queue = s.queue := by
  unfold bist
  dsimp only
  have h0 : (match allCl.find? fun n => decide (physDom n s = d) with
    | some n => bistCl n s
    | none => s).queue = s.queue := by
    split <;> simp
  rw [queue_mk]
  refine queue_ite h0 (queue_ite rfl (queue_ite ?_ (queue_ite ?_ (queue_ite ?_ (queue_ite ?_ (queue_ite ?_ (queue_ite ?_
    (queue_ite ?_ (queue_ite ?_ ?_)))))))))
  all_goals simp

/-! ### Machine/SeqInt.lean -/

@[simp] theorem shortRes_keepsQueue (n : Cl) (sl : Slot) (rd : Reg) (sf : Fin 8) (f : Word → Word → Word) (s : State) :
    KeepsQueue s.queue (shortRes n sl rd sf f s) :=
  keepsQueue_next.mpr (slotWord_queue ..)

@[simp ↓] theorem branchPath_queue (n : Cl) (a target : Word) (taken hint : Bool) (s : State) :
    (branchPath n a target taken hint s).queue = s.queue := by
  dsimp only [branchPath]
  simp

@[simp ↓] theorem brsWord_queue (n : Cl) (cond : Cond) (sf : Fin 8) (hint : Bool) (s : State) :
    (brsWord n cond sf hint s).queue = s.queue := by
  dsimp only [brsWord]
  simp

@[simp] theorem regWord_keepsQueue (n : Cl) (k : Nat) (w : WordInfo) (f : Cluster → List (RegName × RegVal)) (s : State) :
    KeepsQueue s.queue (regWord n k w f s) :=
  keepsQueue_next.mpr (issue_queue _ _ _ _ fun _ _ => modCl_queue ..)

@[simp] theorem xWord_keepsQueue (n : Cl) (rd : Reg) (f : Cluster → Word) (s : State) :
    KeepsQueue s.queue (xWord n rd f s) :=
  regWord_keepsQueue _ _ _ _ _

@[simp] theorem xcWord_keepsQueue (n : Cl) (rd : Reg) (f : Cluster → Word × Bool) (s : State) :
    KeepsQueue s.queue (xcWord n rd f s) :=
  regWord_keepsQueue _ _ _ _ _

@[simp] theorem ccWord_keepsQueue (n : Cl) (f : Cluster → BitVec 5) (s : State) : KeepsQueue s.queue (ccWord n f s) :=
  regWord_keepsQueue _ _ _ _ _

@[simp] theorem aluRes_keepsQueue (n : Cl) (rd rs rt : Reg) (f : Word → Word → Word) (s : State) :
    KeepsQueue s.queue (aluRes n rd rs rt f s) :=
  xWord_keepsQueue _ _ _ _

@[simp] theorem loadRes_keeps (n : Cl) (rs : Reg) (imm : BitVec 9) (k : Nat)
    (out : Cluster → List Word → List (RegName × RegVal)) (s : State) : (loadRes n rs imm k out s).Keeps s.queue := by
  unfold loadRes
  have h := dLoad_keeps n (cGet (s.cl n) rs) (baseAddr (s.cl n) rs imm) k s
  dsimp only
  generalize dLoad n (cGet (s.cl n) rs) (baseAddr (s.cl n) rs imm) k s = r at h ⊢
  cases r
  case ok ws t => exact (modCl_queue ..).trans h
  case ue t => exact (loadCheck_queue ..).trans h
  all_goals exact h

@[simp] theorem storeRes_keeps (n : Cl) (rs : Reg) (imm : BitVec 9) (ws : Cluster → List Word) (s : State) :
    (storeRes n rs imm ws s).Keeps s.queue := by
  unfold storeRes
  have h := dStore_keeps n rs (baseAddr (s.cl n) rs imm) (ws (s.cl n)) s
  dsimp only
  generalize dStore n rs (baseAddr (s.cl n) rs imm) (ws (s.cl n)) s = r at h ⊢
  cases r <;> exact h

@[simp] theorem trdRes_keeps (n : Cl) (rd rs : Reg) (imm : BitVec 9) (s : State) : (trdRes n rd rs imm s).Keeps s.queue := by
  unfold trdRes
  dsimp only
  split
  · rfl
  · split
    · rfl
    · simp

@[simp ↓] theorem orderWord_queue (n : Cl) (o : Order96) (f : State → SeqRes) (s : State) (hf : ∀ t, (f t).Keeps t.queue) :
    (orderWord n o f s).queue = s.queue := by
  unfold orderWord
  simp [hf]

@[simp] theorem orderQueue_keeps (n : Cl) (o : Order96) (s : State) : (orderQueue n o s).Keeps s.queue := by
  unfold orderQueue
  simp

/-! ### Machine/SeqIo.lean -/

@[simp ↓] theorem ioRead_queue (n : Cl) (off : Nat) (s : State) : (ioRead n off s).2.queue = s.queue := by
  unfold ioRead
  simp

@[simp ↓] theorem ioWrite_queue (n : Cl) (off : Nat) (v : Word) (s : State) : (ioWrite n off v s).queue = s.queue := by
  unfold ioWrite
  simp

theorem withFp_keeps {n : Cl} {need : Bool} {f : State → SeqRes} {s : State} (hf : ∀ t, (f t).Keeps t.queue) :
    (withFp n need f s).Keeps s.queue := by
  unfold withFp
  split
  · have h := lazyFp_keeps n s
    generalize lazyFp n s = r at h ⊢
    cases r with
    | ok t =>
      have ht := hf t
      rwa [show t.queue = s.queue from h] at ht
    | held => trivial
    | fault => exact h
  · exact hf s

@[simp] theorem ioAccess_keeps (n : Cl) (slot : Nat) (a : Word) (perm : Nat) (f : State → SeqRes) (s : State)
    (hf : ∀ t, (f t).Keeps t.queue) : (ioAccess n slot a perm f s).Keeps s.queue := by
  unfold ioAccess
  dsimp only
  split
  · rfl
  · split
    · trivial
    · exact withFp_keeps hf

@[simp] theorem ioInRes_keeps (n : Cl) (slot : Nat) (a : Word) (rd : Reg) (s : State) :
    (ioInRes n slot a rd s).Keeps s.queue :=
  ioAccess_keeps _ _ _ _ _ _ fun _ => (modCl_queue ..).trans (ioRead_queue ..)

@[simp] theorem ioOutRes_keeps (n : Cl) (slot : Nat) (a : Word) (rd : Reg) (s : State) :
    (ioOutRes n slot a rd s).Keeps s.queue :=
  ioAccess_keeps _ _ _ _ _ _ fun _ => ioWrite_queue ..

/-! ### Machine/SeqCap.lean -/

@[simp] theorem capTrap_keeps {q : List Instr} {slot detail : Nat} {info : Word} {s : State} :
    (capTrap slot detail info s).Keeps q ↔ s.queue = q := Iff.rfl

@[simp] theorem cldRes_keeps (n : Cl) (cd rs : Reg) (imm : BitVec 9) (s : State) : (cldRes n cd rs imm s).Keeps s.queue := by
  unfold cldRes
  have h := dLoad_keeps n (cGet (s.cl n) rs) (baseAddr (s.cl n) rs imm) 4 s
  dsimp only
  generalize dLoad n (cGet (s.cl n) rs) (baseAddr (s.cl n) rs imm) 4 s = r at h ⊢
  cases r
  case ok ws t =>
    dsimp only
    split <;> simp <;> exact h
  case ue t => exact (loadCheck_queue ..).trans h
  all_goals exact h

@[simp] theorem cstRes_keeps (n : Cl) (cd rs : Reg) (imm : BitVec 9) (s : State) : (cstRes n cd rs imm s).Keeps s.queue := by
  unfold cstRes
  dsimp only
  split <;> simp

@[simp] theorem cbndRes_keeps (n : Cl) (cd cs rt : Reg) (sc : Nat) (s : State) :
    (cbndRes n cd cs rt sc s).Keeps s.queue := by
  unfold cbndRes
  simp

@[simp] theorem cpermRes_keeps (n : Cl) (cd cs rt : Reg) (s : State) : (cpermRes n cd cs rt s).Keeps s.queue := by
  unfold cpermRes
  simp

@[simp] theorem specialAccess_keeps (n : Cl) (k perm : Nat) (f : State → SeqRes) (s : State)
    (hf : ∀ t, (f t).Keeps t.queue) : (specialAccess n k perm f s).Keeps s.queue :=
  ioAccess_keeps _ _ _ _ _ _ hf

/-! ### Machine/SeqFp.lean -/

@[simp] theorem fpWord_keepsQueue (n : Cl) (k : Nat) (f : Cluster → List (RegName × RegVal) × Fl) (s : State) :
    KeepsQueue s.queue (fpWord n k f s) :=
  keepsQueue_next.mpr (issue_queue _ _ _ _ fun _ _ => modCl_queue ..)

@[simp] theorem fopRes_keepsQueue (n : Cl) (v : VOp) (k : Nat) (w : FWidth) (fd fs ft : Reg) (s : State) :
    KeepsQueue s.queue (fopRes n v k w fd fs ft s) :=
  fpWord_keepsQueue _ _ _ _

@[simp] theorem fmaRes_keepsQueue (n : Cl) (v : VOp) (w : FWidth) (fd fs ft : Reg) (s : State) :
    KeepsQueue s.queue (fmaRes n v w fd fs ft s) :=
  fpWord_keepsQueue _ _ _ _

@[simp] theorem fcvtRes_keepsQueue (n : Cl) (fd : Reg) (f : Cluster → DWord × Fl) (s : State) :
    KeepsQueue s.queue (fcvtRes n fd f s) :=
  fpWord_keepsQueue _ _ _ _

@[simp] theorem fcvtXRes_keepsQueue (n : Cl) (rd : Reg) (f : Cluster → DWord × Fl) (s : State) :
    KeepsQueue s.queue (fcvtXRes n rd f s) :=
  fpWord_keepsQueue _ _ _ _

@[simp] theorem vop4Res_keepsQueue (n : Cl) (v : VOp) (k : Nat) (vd : VReg) (a b d : Cluster → Nat → DWord) (s : State) :
    KeepsQueue s.queue (vop4Res n v k vd a b d s) :=
  fpWord_keepsQueue _ _ _ _

@[simp] theorem vop4_keepsQueue (n : Cl) (v : VOp) (k : Nat) (vd va vb : VReg) (s : State) :
    KeepsQueue s.queue (vop4 n v k vd va vb s) :=
  vop4Res_keepsQueue _ _ _ _ _ _ _ _

/-! ### Machine/SeqFlow.lean -/

@[simp] theorem bcRes_keeps (n : Cl) (cond : Cond) (hint : Bool) (off : BitVec 12) (s : State) :
    (bcRes n cond hint off s).Keeps s.queue := by
  unfold bcRes
  simp

@[simp] theorem windowTrap_keeps {q : List Instr} {s : State} : (windowTrap s).Keeps q ↔ s.queue = q := Iff.rfl

@[simp] theorem callRes_keeps (n : Cl) (target : Word) (bubbles : Nat) (s : State) :
    (callRes n target bubbles s).Keeps s.queue := by
  unfold callRes
  simp

@[simp] theorem afterWrongPath_keeps {n : Cl} {a : Word} {q : List Instr} {r : SeqRes} (h : r.Keeps q) :
    (afterWrongPath n a r).Keeps q := by
  cases r
  case done t j b f => exact (wrongPath_queue ..).trans h
  all_goals exact h

@[simp] theorem returnTo_keeps (n : Cl) (predicted : Word) (popped : Bool) (f : Cluster → Cluster) (s : State) :
    (returnTo n predicted popped f s).Keeps s.queue := by
  unfold returnTo
  simp

@[simp] theorem retRes_keeps (n : Cl) (predicted : Word) (popped : Bool) (s : State) :
    (retRes n predicted popped s).Keeps s.queue := by
  unfold retRes
  simp

@[simp] theorem loopRes_keeps (n : Cl) (count : Word) (len word : Nat) (s : State) :
    (loopRes n count len word s).Keeps s.queue := by
  unfold loopRes
  extract_lets a put
  split
  · rfl
  · split <;> exact modCl_queue ..

@[simp ↓] theorem vsyncWord_queue (n : Cl) (s : State) : (vsyncWord n s).queue = s.queue := by
  unfold vsyncWord
  dsimp only
  split
  · refine queue_ite rfl ((issueWord_queue (f := fun _ t => .go t) (fun _ _ => rfl) _).trans (modCl_queue ..))
  · refine queue_ite ?_ (issueWord_queue (f := fun _ t => .go t) (fun _ _ => rfl) _)
    simp

@[simp] theorem sysRes_keeps (n : Cl) (service : BitVec 9) (s : State) : (sysRes n service s).Keeps s.queue := by
  unfold sysRes
  simp

@[simp] theorem sretRes_keeps (n : Cl) (s : State) : (sretRes n s).Keeps s.queue := by
  unfold sretRes
  simp

@[simp] theorem retiFast_keeps (n : Cl) (s : State) : (retiFast n s).Keeps s.queue := modCl_queue ..

@[simp] theorem retiNormal_keeps (n : Cl) (s : State) : (retiNormal n s).Keeps s.queue := by
  unfold retiNormal
  dsimp only
  split
  · simp
  · have h := dLoad_keeps n (cGet (s.cl n) 15) (xGet (s.cl n) 15) 4 s
    generalize dLoad n (cGet (s.cl n) 15) (xGet (s.cl n) 15) 4 s = r at h ⊢
    cases r
    case held => trivial
    case ok => exact (modCl_queue ..).trans h
    all_goals exact (faultStop_queue ..).trans h

@[simp ↓] theorem interruptTaken_queue (n : Cl) (s0 : State) : (interruptTaken n s0).queue = s0.queue := by
  unfold interruptTaken
  extract_lets s c
  have hs : s.queue = s0.queue := closePair_queue ..
  clear_value s
  split
  · rfl
  · split
    · exact getD_queue (fun t h => (lateTrap_queue h).trans hs) rfl
    · split
      · rfl
      · split
        · rfl
        · refine queue_ite ((fetchFault_queue ..).trans hs) ?_
          split
          · rfl
          · exact (modCl_queue ..).trans ((enterVector_queue ‹_›).trans hs)

theorem spillStore_keeps (n : Cl) (k : Nat) (s : State) : (spillStore n k s).Keeps s.queue := by
  unfold spillStore
  extract_lets s1 c cap
  have hs : s1.queue = s.queue := modCl_queue ..
  clear_value s1
  split
  · exact hs
  · split
    · exact hs
    · have h := directStore_keeps n cap (ioGet 0x19 c) (winWords k c) s1
      rw [hs] at h
      generalize directStore n cap (ioGet 0x19 c) (winWords k c) s1 = r at h ⊢
      cases r
      case ok t => exact (modCl_queue ..).trans h
      all_goals exact h

@[simp ↓] theorem windowSpill_queue (n : Cl) (s : State) : (windowSpill n s).queue = s.queue := by
  unfold windowSpill
  dsimp only
  split
  · rfl
  · have h := spillStore_keeps n (oldestWin (s.cl n)) s
    generalize spillStore n (oldestWin (s.cl n)) s = r at h ⊢
    cases r
    case held => rfl
    all_goals exact (modCl_queue ..).trans h

theorem fillLoad_keeps (n : Cl) (k : Nat) (s : State) : (fillLoad n k s).Keeps s.queue := by
  unfold fillLoad
  extract_lets s1 c cap a
  have hs : s1.queue = s.queue := modCl_queue ..
  clear_value s1
  split
  · exact hs
  · split
    · exact hs
    · have h := directLoad_keeps n cap a 8 s1
      rw [hs] at h
      generalize directLoad n cap a 8 s1 = r at h ⊢
      cases r
      case ok ws t => exact (modCl_queue ..).trans h
      all_goals exact h

@[simp ↓] theorem windowFill_queue (n : Cl) (s : State) : (windowFill n s).queue = s.queue := by
  unfold windowFill
  dsimp only
  split
  · rfl
  · have h := fillLoad_keeps n ((cwp (s.cl n) + 8 - wres (s.cl n)) % 8) s
    generalize fillLoad n ((cwp (s.cl n) + 8 - wres (s.cl n)) % 8) s = r at h ⊢
    cases r
    case held => rfl
    all_goals exact (modCl_queue ..).trans h

/-- How a step of SWITCH ends, with every state that it holds having the queue `q`. -/
def SwStep.Keeps (q : List Instr) : SwStep → Prop
  | .ok t => t.queue = q
  | .held => True
  | .fail _ _ _ _ t => t.queue = q

theorem SwStep.Keeps.andThen {q : List Instr} {r : SwStep} {f : State → SwStep} (hr : r.Keeps q)
    (hf : ∀ t, (f t).Keeps t.queue) :
    (r.andThen f).Keeps q := by
  cases r with
  | ok t =>
    have ht := hf t
    rwa [show t.queue = q from hr] at ht
  | held => trivial
  | fail => exact hr

theorem swStore_keeps {q : List Instr} {slot : Nat} {info : Word} {r : StoreRes} (h : r.Keeps q) :
    (swStore slot info r).Keeps q := by
  cases r <;> exact h

theorem swSpill_keeps (n : Cl) (k : Nat) (s : State) : (swSpill n k s).Keeps s.queue := by
  induction k generalizing s with
  | zero => rfl
  | succ k ih =>
    dsimp only [swSpill]
    have h := spillStore_keeps n (oldestWin (s.cl n)) s
    generalize spillStore n (oldestWin (s.cl n)) s = r at h ⊢
    cases r with
    | ok t =>
      have ht := ih (t.modCl n fun d => if k = 0 then d else ioSetFld 0x10 15 12 (wres (s.cl n) - 1) d)
      rwa [modCl_queue, show t.queue = s.queue from h] at ht
    | held => trivial
    | fault => exact h

theorem swReserve_keeps (n : Cl) (s : State) : (swReserve n s).Keeps s.queue := by
  unfold swReserve
  dsimp only
  split
  · rfl
  · split
    · rfl
    · rfl
    · exact swStore_keeps (directStore_keeps ..)

theorem swUnspill_keeps {n : Cl} {q : List Instr} {r : SwStep} (h : r.Keeps q) : (swUnspill n r).Keeps q := by
  cases r
  case fail => exact (modCl_queue ..).trans h
  all_goals exact h

theorem swFill_keeps (n : Cl) (s : State) : (swFill n s).Keeps s.queue := by
  unfold swFill
  dsimp only
  have h := fillLoad_keeps n (cwp (s.cl n)) s
  generalize fillLoad n (cwp (s.cl n)) s = r at h ⊢
  cases r with
  | ok t => exact h
  | held => trivial
  | fault d t =>
    exact (syncTrap_getD_queue rfl).trans ((wordDone_queue ..).trans ((modCl_queue ..).trans h))

theorem swSteps_keeps (n : Cl) (rs : Reg) (s : State) : (swSteps n rs s).Keeps s.queue := by
  unfold swSteps
  extract_lets a cap s1
  have hs : s1.queue = s.queue := modCl_queue ..
  clear_value s1
  have h := directLoad_keeps n cap a 16 s1
  rw [hs] at h
  generalize directLoad n cap a 16 s1 = r at h ⊢
  cases r with
  | held => trivial
  | fault d t => exact h
  | ue t => exact (loadCheck_queue ..).trans h
  | ok ws t =>
    replace h : t.queue = s.queue := h
    dsimp only
    split
    · exact queue_ite ((tagFailed_queue _).trans h) h
    · exact queue_ite ((tagFailed_queue _).trans h) h
    · have hsp := swSpill_keeps n (wres (t.cl n)) t
      rw [h] at hsp
      refine hsp.andThen fun u => (swUnspill_keeps ((swReserve_keeps n u).andThen fun v => ?_)).andThen fun v =>
        modCl_queue ..
      exact swStore_keeps (directStore_keeps ..)

@[simp] theorem switchRes_keeps (n : Cl) (rs : Reg) (s : State) : (switchRes n rs s).Keeps s.queue := by
  unfold switchRes
  dsimp only
  split
  · simp
  · split
    · trivial
    · have h := swSteps_keeps n rs s
      generalize swSteps n rs s = r at h ⊢
      cases r with
      | held => trivial
      | fail => exact h
      | ok t =>
        have ht := swFill_keeps n t
        rwa [show t.queue = s.queue from h] at ht

/-! ### Machine/Transfers.lean -/

@[simp ↓] theorem overlapWord_queue (old : SMap (Option Word)) (rest : List (Nat × Nat)) (a : Nat) (v : Word)
    (s : State) : (overlapWord old rest a v s).2.queue = s.queue := by
  dsimp only [overlapWord]
  split <;> simp

@[simp ↓] theorem mvRead_queue (m : Master) (old : SMap (Option Word)) (rest : List (Nat × Nat)) (a : Nat) (s : State) :
    (mvRead m old rest a s).2.queue = s.queue := by
  unfold mvRead
  have h := wordRead_queue m .mover a s
  generalize wordRead m .mover a s = r at h ⊢
  obtain ⟨acc, t⟩ := r
  cases acc
  case ok v => exact (overlapWord_queue ..).trans h
  all_goals exact h

@[simp ↓] theorem mvWhole_queue (d : MoverSt) (k : Nat) (s : State) : (mvWhole d k s).queue = s.queue := by
  dsimp only [mvWhole]
  simp

@[simp ↓] theorem mvSetDone_queue (c k : Nat) (s : State) : (mvSetDone c k s).queue = s.queue := by rfl

@[simp ↓] theorem linkWords_queue (m : Master) (a k : Nat) (s : State) : (linkWords m a k s).2.queue = s.queue := by
  induction k generalizing a s with
  | zero => rfl
  | succ k ih =>
    dsimp only [linkWords]
    have h := wordRead_queue m .mover a s
    generalize wordRead m .mover a s = r at h ⊢
    obtain ⟨acc, t⟩ := r
    cases acc
    case ok v =>
      have ht := (ih (a + 1) t).trans h
      dsimp only
      generalize linkWords m (a + 1) k t = p at ht ⊢
      obtain ⟨_ | _, u⟩ := p <;> exact ht
    all_goals exact h

@[simp ↓] theorem mvLink_queue (c : Mover) (d : MoverSt) (s : State) : (mvLink c d s).queue = s.queue := by
  unfold mvLink
  extract_lets cap
  have hcap : cap.2.queue = s.queue := mvCap_queue ..
  clear_value cap
  split
  · exact (mvStop_queue ..).trans hcap
  · have h := (linkWords_queue (mvMaster c) d.nxt.toNat 11 cap.2).trans hcap
    generalize linkWords (mvMaster c) d.nxt.toNat 11 cap.2 = r at h ⊢
    obtain ⟨(_ | code) | ws, t⟩ := r
    · rfl
    · exact (mvStop_queue ..).trans h
    · dsimp only at h ⊢
      split
      · simp [h]
      · split <;> simp [h]

@[simp ↓] theorem mvWait_queue (c : Mover) (d : MoverSt) (r : MvRes) : (mvWait c d r).queue = r.s.queue := by
  unfold mvWait
  simp

theorem mvCopy_queue (m : Master) (cap : CapV) (ws : List (Nat × Nat)) (old : SMap (Option Word)) (got : Option Word)
    (k : Nat) (s : State) : (mvCopy m cap ws old got k s).s.queue = s.queue := by
  induction ws generalizing old got k s with
  | nil => rfl
  | cons w ws ih =>
    obtain ⟨a, b⟩ := w
    have hsome (v : Word) (t : State) : (mvCopy m cap ((a, b) :: ws) old (some v) k t).s.queue = t.queue := by
      dsimp only [mvCopy]
      have h := wordWrite_queue m .mover cap b v t
      generalize wordWrite m .mover cap b v t = r at h ⊢
      obtain ⟨acc, u⟩ := r
      cases acc
      case ok => exact (ih ..).trans h
      all_goals exact h
    cases got with
    | some v => exact hsome v s
    | none =>
      dsimp only [mvCopy]
      have h := mvRead_queue m old ws a s
      generalize mvRead m old ws a s = r at h ⊢
      obtain ⟨acc, t⟩ := r
      cases acc
      case ok v => exact (hsome v t).trans h
      all_goals exact h

theorem mvRun_queue (c : Mover) (d : MoverSt) (bound : Option Nat) (s : State) : (mvRun c d bound s).s.queue = s.queue := by
  unfold mvRun
  dsimp only
  have h (ws old got k) :
      (mvCopy (mvMaster c) (mvCap c.val 0x10 s).1 ws old got k (mvCap c.val 0x10 s).2).s.queue = s.queue :=
    (mvCopy_queue ..).trans (mvCap_queue ..)
  refine queue_ite (h ..) ?_
  simp [h]

@[simp ↓] theorem mvAborted_queue (c : Mover) (d : MoverSt) (s : State) : (mvAborted c d s).queue = s.queue := by
  unfold mvAborted
  extract_lets r
  have h : r.s.queue = s.queue := (mvRun_queue ..).trans (drawn_queue s)
  clear_value r
  split <;> simp [h]

@[simp ↓] theorem mvTransfer_queue (c : Mover) (s : State) : (mvTransfer c s).queue = s.queue := by
  unfold mvTransfer
  split
  · rfl
  · split
    · simp
    · split
      · rfl
      · extract_lets r
        have h : r.s.queue = s.queue := mvRun_queue ..
        clear_value r
        split <;> simp [h]

/-! ### Machine/Supplies.lean -/

@[simp ↓] theorem pauseBegins_queue (s : State) : (pauseBegins s).queue = s.queue := by
  unfold pauseBegins
  split
  · rfl
  · refine foldl_queue _ (fun t c => ?_) _ _
    split
    · rfl
    · split
      · rfl
      · extract_lets r
        have h : r.s.queue = t.queue := (mvRun_queue ..).trans (drawn_queue t)
        clear_value r
        split <;> simp [h]

@[simp ↓] theorem tjTrip_queue (s : State) : (tjTrip s).queue = s.queue := by rfl

@[simp ↓] theorem putTemps_queue (ts : List (Option Word)) (s : State) : (putTemps ts s).queue = s.queue := by
  dsimp only [putTemps]
  simp

/-! ### Machine/Ticks.lean -/

@[simp ↓] theorem nextNs_queue (s : State) : (nextNs s).queue = s.queue := by rfl

@[simp ↓] theorem advance_queue (s : State) : (advance s).queue = s.queue := by
  dsimp only [advance]
  simp

@[simp ↓] theorem safeEntry_queue (s : State) : (safeEntry s).queue = s.queue := by
  dsimp only [safeEntry]
  simp

@[simp ↓] theorem baseTick_queue (s : State) : (baseTick s).queue = s.queue := by
  dsimp only [baseTick]
  simp

@[simp ↓] theorem toRun_queue (s : State) : (toRun s).queue = s.queue := by
  dsimp only [toRun]
  simp

@[simp ↓] theorem eachCl_queue (f : Cl → State → State) (s : State) (h : ∀ n t, (f n t).queue = t.queue) :
    (eachCl f s).queue = s.queue :=
  foldl_queue _ (fun t n => h n t) _ _

@[simp ↓] theorem safeReturn_queue (s : State) : (safeReturn s).queue = s.queue := by
  dsimp only [safeReturn]
  simp

@[simp ↓] theorem degrRule_queue (s : State) : (degrRule s).queue = s.queue := by
  dsimp only [degrRule]
  simp

@[simp ↓] theorem simTick_queue (s : State) : (simTick s).queue = s.queue := by
  dsimp only [simTick]
  simp

@[simp ↓] theorem tickCluster_queue (k : Nat) (n : Cl) (s : State) : (tickCluster k n s).queue = s.queue := by
  dsimp only [tickCluster]
  simp

@[simp ↓] theorem baseFrameTick_queue (s : State) : (baseFrameTick s).queue = s.queue := by
  dsimp only [baseFrameTick]
  simp

theorem setDeadline_queue (n : Cl) (p : Bool × State) (k : Nat) : (setDeadline n p k).2.queue = p.2.queue := by
  unfold setDeadline
  simp

@[simp ↓] theorem deadlines_queue (n : Cl) (s : State) : (deadlines n s).queue = s.queue := by
  unfold deadlines
  extract_lets r
  have h : r.2.queue = s.queue := foldl_snd_queue _ (fun _ _ => setDeadline_queue ..) _ _
  clear_value r
  simp [h]

@[simp ↓] theorem commitReads_queue (n : Cl) (own : Option (List (Nat × Bool))) (pair : Option (Cl × Option (List
    (Nat × Bool)))) (s : State) : (commitReads n own pair s).queue = s.queue := by
  dsimp only [commitReads]
  simp

@[simp ↓] theorem fireSets_queue (n : Cl) (s : State) : (fireSets n s).queue = s.queue := by
  dsimp only [fireSets]
  simp

@[simp ↓] theorem edgeHandover_queue (n : Cl) (s : State) : (edgeHandover n s).queue = s.queue := by
  dsimp only [edgeHandover]
  simp

@[simp ↓] theorem holdWindow_queue (n : Cl) (s : State) : (holdWindow n s).queue = s.queue := by
  dsimp only [holdWindow]
  simp

@[simp ↓] theorem failedEdge_queue (n : Cl) (pair : Option (Cl × Option (List (Nat × Bool)))) (s : State) :
    (failedEdge n pair s).queue = s.queue := by
  dsimp only [failedEdge]
  simp

@[simp ↓] theorem liveEdge_queue (n : Cl) (own : Option (List (Nat × Bool))) (pair : Option (Cl × Option (List
    (Nat × Bool)))) (s : State) : (liveEdge n own pair s).queue = s.queue := by
  dsimp only [liveEdge]
  simp

@[simp ↓] theorem swapLost_queue (n : Cl) (s : State) : (swapLost n s).queue = s.queue := by
  dsimp only [swapLost]
  simp

/-! ### Every command -/

/-- No command changes the queue: each arm is a function of its module, whose parts have their lemmas above. -/
theorem exec_keepsQueue (c : Instr) (s : State) : KeepsQueue s.queue (exec c s) := by
  cases c with
  | eventDelivery | logicCellOutput =>
    dsimp only [exec, execEventDelivery, execLogicCellOutput]
    (repeat' split) <;> simp
  | hubSwtrig | pqWr | pqWrLast | pqRewind | pqFlush | pqStaleTimeout =>
    dsimp only [exec, execHubSwtrig, execPqWr, execPqWrLast, execPqRewind, execPqFlush, execPqStaleTimeout]
    simp
  | pqHeldWriteComplete =>
    dsimp only [exec, execPqHeldWriteComplete]
    split <;> simp
  | plotCfgWrite | plotHoWrite | plotPortAAck | lsPatrolScrub =>
    dsimp only [exec, execPlotCfgWrite, execPlotHoWrite, execPlotPortAAck, execLsPatrolScrub]
    simp
  | bankSpareCopyComplete | pseudoChannelCopyComplete =>
    dsimp only [exec, execBankSpareCopyComplete, execPseudoChannelCopyComplete]
    split <;> simp
  | hbmScrub =>
    dsimp only [exec, execHbmScrub]
    (repeat' split) <;> simp
  | linkEnable | linkDisable | linkUp | linkResume | ingressBufferWrite | sysrefGo | jlCntW0Read =>
    dsimp only [exec, execLinkEnable, execLinkDisable, execLinkUp, execLinkResume, execIngressBufferWrite, execSysrefGo,
      execJlCntW0Read]
    simp
  | linkDownTimeout | egressRelease | sysrefPulse =>
    dsimp only [exec, execLinkDownTimeout, execEgressRelease, execSysrefPulse]
    split <;> simp
  | bankSupplyChange | bankCfgWrite | pinEdge | captureGroupEnable | edgeGroupEnable | counterStep | cmpWrite
    | generatorStep | globalStartGo | generatorStopAll | generatorArm | generatorDisarm | tmcCntW0Read =>
    dsimp only [exec, execBankSupplyChange, execBankCfgWrite, execPinEdge, execCaptureGroupEnable, execEdgeGroupEnable,
      execCounterStep, execCmpWrite, execGeneratorStep, execGlobalStartGo, execGeneratorStopAll, execGeneratorArm,
      execGeneratorDisarm, execTmcCntW0Read]
    simp
  | scheduledEdge =>
    dsimp only [exec, execScheduledEdge]
    (repeat' split) <;> simp
  | counterLoad =>
    dsimp only [exec, execCounterLoad]
    split <;> simp
  | tbFrameW0Read | tbSimW0Read | referenceLoss | referenceReturn | syncInMark =>
    dsimp only [exec, execTbFrameW0Read, execTbSimW0Read, execReferenceLoss, execReferenceReturn, execSyncInMark]
    simp
  | referenceRevert =>
    dsimp only [exec, execReferenceRevert]
    split <;> simp
  | msixRaise | hostMemoryAccess | hostSnoop =>
    dsimp only [exec, execMsixRaise, execHostMemoryAccess, execHostSnoop]
    split <;> simp
  | msixUnmask | mailboxResponse | mailboxTimeout | backInvalidate | cxlPortUp | cxlPortDown | cxlLaneDegrade
    | cxlWidthRestoreTry | cxlFailoverTimeout | cxlFoNow | cxlFoBack =>
    dsimp only [exec, execMsixUnmask, execMailboxResponse, execMailboxTimeout, execBackInvalidate, execCxlPortUp,
      execCxlPortDown, execCxlLaneDegrade, execCxlWidthRestoreTry, execCxlFailoverTimeout, execCxlFoNow, execCxlFoBack]
    simp
  | moverGo | moverTrigger | plotMvDoneW0Read =>
    dsimp only [exec, execMoverGo, execMoverTrigger, execPlotMvDoneW0Read]
    simp
  | netFrameReceive | netFrameLaunch | txqSend | txqTrigger | canBusError | cmacJobDone =>
    dsimp only [exec, execNetFrameReceive, execNetFrameLaunch, execTxqSend, execTxqTrigger, execCanBusError,
      execCmacJobDone]
    (repeat' split) <;> simp
  | canBusOff | canBusOffRecovery | netLinkChange | mdioAccess | mdioAccessComplete | gateEntryChange | gclSwap
    | gclSwapTakeover | gclEnable | cmacKeyW0Write | cmacKeyW5Write | cmacMsgWrite | cmacGen | cmacVerify | netCntW0Read
    | netCmFvW0Read =>
    dsimp only [exec, execCanBusOff, execCanBusOffRecovery, execNetLinkChange, execMdioAccess, execMdioAccessComplete,
      execGateEntryChange, execGclSwap, execGclSwapTakeover, execGclEnable, execCmacKeyW0Write, execCmacKeyW5Write,
      execCmacMsgWrite, execCmacGen, execCmacVerify, execNetCntW0Read, execNetCmFvW0Read]
    simp
  | groupStart | groupRestart | groupComplete =>
    dsimp only [exec, execGroupStart, execGroupRestart, execGroupComplete]
    (repeat' split) <;> simp
  | writeBufferDrain | vadd | vsub | vrsub | vadds | vabs | vneg | vmin | vmax | vcmp | vsel | vclmp | vmul | vmuls
    | vfma | vfms | vaxpy | vrcp | vdiv | vsqrt | vrsqrt | vand | vor | vxor | vnot | vshl | vshr | vsar | vcvt | vmov
    | vfill | mld | mst | mcnt | rsum | rdot | rsumsq | rmax | rmin | rimax | rsegdot | rsegsum | viota | vcmpr | vexpd
    | vintp =>
    dsimp only [exec, execWriteBufferDrain, execVadd, execVsub, execVrsub, execVadds, execVabs, execVneg, execVmin,
      execVmax, execVcmp, execVsel, execVclmp, execVmul, execVmuls, execVfma, execVfms, execVaxpy, execVrcp, execVdiv,
      execVsqrt, execVrsqrt, execVand, execVor, execVxor, execVnot, execVshl, execVshr, execVsar, execVcvt, execVmov,
      execVfill, execMld, execMst, execMcnt, execRsum, execRdot, execRsumsq, execRmax, execRmin, execRimax, execRsegdot,
      execRsegsum, execViota, execVcmpr, execVexpd, execVintp]
    simp
  | heldExceptionRecord =>
    dsimp only [exec, execHeldExceptionRecord]
    split <;> simp
  | setBuildOpen | setBuildClose | setArm | setDisarm | preOpen | sdescCmd | localBaseTick | setFireEvent | vuConfClear
    | vuConfW0Read | vuFslotClashW0Read =>
    dsimp only [exec, execSetBuildOpen, execSetBuildClose, execSetArm, execSetDisarm, execPreOpen, execSdescCmd,
      execLocalBaseTick, execSetFireEvent, execVuConfClear, execVuConfW0Read, execVuFslotClashW0Read]
    simp
  | odPqLastF0Read | odPqAppliedW0Read | paramQueueApplyStopped =>
    dsimp only [exec, execOdPqLastF0Read, execOdPqAppliedW0Read, execParamQueueApplyStopped]
    simp
  | paramBacklogPush =>
    dsimp only [exec, execParamBacklogPush]
    (repeat' split) <;> simp
  | ucodeOpen | ucodeSeal =>
    dsimp only [exec, execUcodeOpen, execUcodeSeal]
    simp
  | mirrorPassComplete | replayFrame =>
    dsimp only [exec, execMirrorPassComplete, execReplayFrame]
    (repeat' split) <;> simp
  | mirrorPassAbandon | firstLiveFrame =>
    dsimp only [exec, execMirrorPassAbandon, execFirstLiveFrame]
    split <;> simp
  | restoreComplete | swapGo | fence | unfence | unitInternalError =>
    dsimp only [exec, execRestoreComplete, execSwapGo, execFence, execUnfence, execUnitInternalError]
    simp
  | secLoadHardpanExtension | secLoadTopsoil | secLoadMicrocodePatch | secLoadLoamImage | secLoadHostPolicy | secRekey
    | secCommit | secLogExtend | secRelease | secOwner | secRequestUnlistedKind | mailboxDoorbell =>
    dsimp only [exec, execSecLoadHardpanExtension, execSecLoadTopsoil, execSecLoadMicrocodePatch, execSecLoadLoamImage,
      execSecLoadHostPolicy, execSecRekey, execSecCommit, execSecLogExtend, execSecRelease, execSecOwner,
      execSecRequestUnlistedKind, execMailboxDoorbell]
    simp
  | topsoilQuiesceTimeout | topsoilReplacement =>
    dsimp only [exec, execTopsoilQuiesceTimeout, execTopsoilReplacement]
    split <;> simp
  | spdmRequest | factoryCommand =>
    dsimp only [exec, execSpdmRequest, execFactoryCommand]
    (repeat' split) <;> simp
  | coldReset | warmReset | wake | modeRequestStandby | modeRequestConfigure | modeRequestArmed | modeRequestRun
    | modeRequestSafeOutput | modeRequestReplay | modeRequestService | modeRequestUnacceptedCode | standbyEntry
    | replayGo | replayDone | domainRequest =>
    dsimp only [exec, execColdReset, execWarmReset, execWake, execModeRequestStandby, execModeRequestConfigure,
      execModeRequestArmed, execModeRequestRun, execModeRequestSafeOutput, execModeRequestReplay,
      execModeRequestService, execModeRequestUnacceptedCode, execStandbyEntry, execReplayGo, execReplayDone,
      execDomainRequest]
    simp
  | nfpRead | nfpWrite | nfpReadSeg | nfpWriteSeg | nfpDescribe | nfpWriteMulti | nfpUnlistedOperation =>
    dsimp only [exec, execNfpRead, execNfpWrite, execNfpReadSeg, execNfpWriteSeg, execNfpDescribe, execNfpWriteMulti,
      execNfpUnlistedOperation]
    simp
  | seqEvcClear | seqEvcW0Read | seqEvcSnapfW0Read | evfGcntClear | evfGcntW0Read =>
    dsimp only [exec, execSeqEvcClear, execSeqEvcW0Read, execSeqEvcSnapfW0Read, execEvfGcntClear, execEvfGcntW0Read]
    simp
  | registerWrite | taskBindingWrite =>
    dsimp only [exec, execRegisterWrite, execTaskBindingWrite]
    split <;> simp
  | bar0Read | bar0Write =>
    dsimp only [exec, execBar0Read, execBar0Write]
    simp
  | bar2Access =>
    dsimp only [exec, execBar2Access]
    (repeat' split) <;> simp
  | storeBufferDrain =>
    dsimp only [exec, execStoreBufferDrain]
    simp
  | illegalInstruction =>
    dsimp only [exec, execIllegalInstruction]
    simp
  | monId | monBaud | monitorBreak | monRd | monWr | monRmw | monCnt | monOd | monImg | monPub | monHalt | monStep
    | monGo | monBist | jtagInstruction =>
    dsimp only [exec, execMonId, execMonBaud, execMonitorBreak, execMonRd, execMonWr, execMonRmw, execMonCnt, execMonOd,
      execMonImg, execMonPub, execMonHalt, execMonStep, execMonGo, execMonBist, execJtagInstruction]
    simp
  | monUnknownCommand | lockTimeout =>
    dsimp only [exec, execMonUnknownCommand, execLockTimeout]
    split <;> simp
  | shortMov | shortAdd | shortSub | shortAnd | shortOr | shortXor | shortAddi | shortSubi | shortShli | shortShri
    | shortSari | shortMovi | shortCmp | shortSkip | nop | brs | aluAdd | aluSub | aluAnd | aluOr | aluXor | aluAndn
    | aluShl | aluShr | aluSar | aluRol | aluMin | aluMax | aluMinu | aluMaxu | aluSlt | aluSltu | aluAdds | aluAddx
    | aluSubs | aluSubx | aluClz | aluPopc | addi | andi | ori | xori | shiShl | shiShr | shiSar | shiRol | cmp | cmpi
    | lil | lis | lih | ld | ldd | st | std | ldf | stf | ldv | stv | trd | sync | drd | dwr | dadd | dld | dsto
    | orderIssueQueue | orderIssueFence | orderAppend | orderIssueNotify =>
    dsimp only [exec, execShortMov, execShortAdd, execShortSub, execShortAnd, execShortOr, execShortXor, execShortAddi,
      execShortSubi, execShortShli, execShortShri, execShortSari, execShortMovi, execShortCmp, execShortSkip, execNop,
      execBrs, execAluAdd, execAluSub, execAluAnd, execAluOr, execAluXor, execAluAndn, execAluShl, execAluShr,
      execAluSar, execAluRol, execAluMin, execAluMax, execAluMinu, execAluMaxu, execAluSlt, execAluSltu, execAluAdds,
      execAluAddx, execAluSubs, execAluSubx, execAluClz, execAluPopc, execAddi, execAndi, execOri, execXori, execShiShl,
      execShiShr, execShiSar, execShiRol, execCmp, execCmpi, execLil, execLis, execLih, execLd, execLdd, execSt,
      execStd, execLdf, execStf, execLdv, execStv, execTrd, execSync, execDrd, execDwr, execDadd, execDld, execDsto,
      execOrderIssueQueue, execOrderIssueFence, execOrderAppend, execOrderIssueNotify]
    simp
  | ioIn | ioOut | ioInr | ioOutr =>
    dsimp only [exec, execIoIn, execIoOut, execIoInr, execIoOutr]
    simp
  | cld | cst | cbnd | cperm | cmov | cclr | crd | cspr | cspw =>
    dsimp only [exec, execCld, execCst, execCbnd, execCperm, execCmov, execCclr, execCrd, execCspr, execCspw]
    simp
  | fopAdd | fopSub | fopMul | fopMin | fopMax | fopAbs | fopNeg | fopMov | fmaAdd | fmaSub | fcmp | fcvtF24ToF48
    | fcvtF48ToF24 | fcvtI24ToF24 | fcvtI24ToF48 | fcvtF24ToI24 | fcvtF48ToI24 | fmxXToFLow | fmxXToFHigh | fmxFLowToX
    | fmxFHighToX | fdivDiv | fdivRcp | fdivSqrt | fdivRsqrt | vop4Add | vop4Sub | vop4Mul | vop4Min | vop4Max | vop4Abs
    | vop4Neg | vop4Mov | vfma4Add | vfma4Sub | vdiv4Div | vdiv4Rcp | vdiv4Sqrt | vdiv4Rsqrt | vlaneWrite | vlaneRead =>
    dsimp only [exec, execFopAdd, execFopSub, execFopMul, execFopMin, execFopMax, execFopAbs, execFopNeg, execFopMov,
      execFmaAdd, execFmaSub, execFcmp, execFcvtF24ToF48, execFcvtF48ToF24, execFcvtI24ToF24, execFcvtI24ToF48,
      execFcvtF24ToI24, execFcvtF48ToI24, execFmxXToFLow, execFmxXToFHigh, execFmxFLowToX, execFmxFHighToX, execFdivDiv,
      execFdivRcp, execFdivSqrt, execFdivRsqrt, execVop4Add, execVop4Sub, execVop4Mul, execVop4Min, execVop4Max,
      execVop4Abs, execVop4Neg, execVop4Mov, execVfma4Add, execVfma4Sub, execVdiv4Div, execVdiv4Rcp, execVdiv4Sqrt,
      execVdiv4Rsqrt, execVlaneWrite, execVlaneRead]
    simp
  | bra | bc | jr | call | callr | link | linkr | ret | retl | skip | skb | loop | loopi | wait | vsync | sys | sret
    | clrIe | setIe | reti | interruptInputEvent | interruptTaken | watchdogExpiry | windowSpill | windowFill | switch =>
    dsimp only [exec, execBra, execBc, execJr, execCall, execCallr, execLink, execLinkr, execRet, execRetl, execSkip,
      execSkb, execLoop, execLoopi, execWait, execVsync, execSys, execSret, execClrIe, execSetIe, execReti,
      execInterruptInputEvent, execInterruptTaken, execWatchdogExpiry, execWindowSpill, execWindowFill, execSwitch]
    simp
  | moverTransferDone =>
    dsimp only [exec, execMoverTransferDone]
    simp
  | moverAbort =>
    dsimp only [exec, execMoverAbort]
    split <;> simp
  | railWarning | railWarningEnd | railResetLevel =>
    dsimp only [exec, execRailWarning, execRailWarningEnd, execRailResetLevel]
    simp
  | thermalSample =>
    dsimp only [exec, execThermalSample]
    (repeat' split) <;> simp
  | baseTick | tbStepLoad | gridStartTick | gridStopTick | gridHoldTick | gridResumeTick | baseFrameTick
    | clusterTickEdge =>
    dsimp only [exec, execBaseTick, execTbStepLoad, execGridStartTick, execGridStopTick, execGridHoldTick,
      execGridResumeTick, execBaseFrameTick, execClusterTickEdge]
    simp
  | channelSwtrig | evfSwevFire | forkenFall | pqEnable | pqDisable | pqRd | laneLockLoss | converterFrameReceive
    | capW0Read | captureFillWrite | tmcCntValRead | globalStart | gridStart | gridStop | gridHold | gridResume | tbStep
    | tbSlewWrite | tbTimeW0Read | tbLocalW0Read | hdmAccess | cxlSyncRead | odPqPush | odPqCapW3Write | ucodeSwitch
    | ucodeCancel | ucodeLdDataW5Write | secRequestDone | domainSwitchComplete =>
    dsimp only [exec]
    simp

end Sys2Proof.Machine

namespace Sys2Proof.Proofs

open Sys2Proof.Machine

/-- Settles O4: a frame lemma for every function that makes a state, and a case for every command. -/
theorem noCommandTouchesTheQueue : Obligations.NoCommandTouchesTheQueue := by
  unfold Obligations.NoCommandTouchesTheQueue
  exact fun c s t h => exec_keepsQueue c s t h

end Sys2Proof.Proofs
end
section
/-!
PROOFS. The canonical form of memory through every command (O3). A command's arm is built from a few hundred functions
that make a state. Each has one lemma here, in the order of the model's files. One that leaves memory alone has an `↔`,
by which `simp` rewrites it away; one that may write memory takes a canonical memory to a canonical one. Memory is
written through `memPut`, `memPuts`, `memLoad`, `memDrop` and `deepDrop`, rebuilt by a change of SKEW and cut down by the
resets; all the others go through these. A function that answers with a result of its own kind has a lemma about the
states that the result holds.
-/
namespace Sys2Proof.Machine

/-- An update of other fields than memory leaves its form as it is. -/
@[simp ↓] theorem inv_mk (s : State) (pending resp fresh ns ticks hub snap cls tb links sysref sysrefAt tmc ev net cmac
    cxl od spm sec pwr mon locks jtag hbm movers syncOut) :
    Inv (State.mk pending resp fresh ns ticks hub s.mem snap cls tb links sysref sysrefAt tmc ev net cmac cxl od spm sec
      pwr mon locks jtag hbm movers syncOut) ↔ Inv s := Iff.rfl

theorem inv_ite {c : Prop} [Decidable c] {s t : State} (hs : Inv s) (ht : Inv t) : Inv (if c then s else t) := by
  split <;> assumption

theorem inv_ite_iff {c : Prop} [Decidable c] {s t : State} {q : Prop} (hs : Inv s ↔ q) (ht : Inv t ↔ q) :
    Inv (if c then s else t) ↔ q := by
  split <;> assumption

@[simp ↓] theorem ite_inv (c : Prop) [Decidable c] (s t : State) :
    Inv (if c then s else t) ↔ if c then Inv s else Inv t := by
  split <;> rfl

@[simp ↓] theorem ite_snd_inv {α : Type} (c : Prop) [Decidable c] (p r : α × State) :
    Inv (if c then p else r).2 ↔ if c then Inv p.2 else Inv r.2 := by
  split <;> rfl

/-- A fold of steps that leave memory alone leaves memory alone. -/
theorem foldl_on_inv {α β : Type} (g : β → State) {f : β → α → β} (h : ∀ b x, Inv (g (f b x)) ↔ Inv (g b)) (l : List α)
    (b : β) : Inv (g (l.foldl f b)) ↔ Inv (g b) :=
  Iff.of_eq (foldl_keeps (fun b => Inv (g b)) (fun b x => propext (h b x)) l b)

@[simp ↓] theorem foldl_inv {α : Type} (f : State → α → State) (h : ∀ s x, Inv (f s x) ↔ Inv s) (l : List α)
    (s : State) : Inv (l.foldl f s) ↔ Inv s :=
  foldl_on_inv id h l s

@[simp ↓] theorem foldl_snd_inv {α β : Type} (f : β × State → α → β × State)
    (h : ∀ p x, Inv (f p x).2 ↔ Inv p.2) (l : List α) (p : β × State) :
    Inv (l.foldl f p).2 ↔ Inv p.2 :=
  foldl_on_inv Prod.snd h l p

/-- A fold of steps that each keep the form keeps it. -/
theorem foldl_keeps_inv {α : Type} {f : State → α → State} (h : ∀ s x, Inv s → Inv (f s x)) (l : List α) {s : State}
    (hs : Inv s) : Inv (l.foldl f s) :=
  foldl_all h l hs

theorem foldl_snd_keeps_inv {α β : Type} {f : β × State → α → β × State} (h : ∀ p x, Inv p.2 → Inv (f p x).2)
    (l : List α) {p : β × State} (hp : Inv p.2) : Inv (l.foldl f p).2 :=
  foldl_all (P := fun p : β × State => Inv p.2) h l hp

/-- What a call answers, read through the equation that a match gives it. -/
theorem inv_of_eq {α : Type} {p : α × State} {x : α} {t : State} (h : p = (x, t)) : Inv t ↔ Inv p.2 := by
  subst h; rfl

theorem getD_inv {o : Option State} {d : State} (ho : ∀ t, o = some t → Inv t) (hd : Inv d) : Inv (o.getD d) := by
  cases o with
  | none => exact hd
  | some t => exact ho t rfl

/-- Every state that an answer holds has its memory in canonical form. -/
def KeepsInv (o : Out) : Prop := ∀ t, o = .next t → Inv t

@[simp] theorem keepsInv_next {t : State} : KeepsInv (.next t) ↔ Inv t := by
  simp [KeepsInv]

theorem keepsInv_ite {c : Prop} [Decidable c] {o p : Out} (ho : KeepsInv o) (hp : KeepsInv p) :
    KeepsInv (if c then o else p) := by
  split <;> assumption

@[simp ↓] theorem keepsInv_ite_eq {c : Prop} [Decidable c] {o p : Out} :
    KeepsInv (if c then o else p) ↔ if c then KeepsInv o else KeepsInv p := by
  split <;> rfl

theorem awake_keepsInv {s : State} {o : Out} (hs : Inv s) (ho : KeepsInv o) : KeepsInv (awake s o) :=
  keepsInv_ite (keepsInv_next.mpr hs) ho

@[simp ↓] theorem keepsInv_awake {s : State} {o : Out} :
    KeepsInv (awake s o) ↔ if dark s then Inv s else KeepsInv o := by
  rw [awake, keepsInv_ite_eq, keepsInv_next]

theorem onIsland_keepsInv {n : Cl} {s : State} {o : Out} (hs : Inv s) (ho : KeepsInv o) : KeepsInv (onIsland n s o) :=
  keepsInv_ite ho (keepsInv_next.mpr hs)

@[simp ↓] theorem keepsInv_onIsland {n : Cl} {s : State} {o : Out} :
    KeepsInv (onIsland n s o) ↔ if clocked n s then KeepsInv o else Inv s := by
  rw [onIsland, keepsInv_ite_eq, keepsInv_next]

variable {s : State}

/-! ### Named updates of the state -/

@[simp ↓] theorem putCl_inv (n : Cl) (c : Cluster) : Inv (s.putCl n c) ↔ Inv s := Iff.rfl
@[simp ↓] theorem modCl_inv (n : Cl) (f : Cluster → Cluster) : Inv (s.modCl n f) ↔ Inv s := Iff.rfl
@[simp ↓] theorem hubPut_inv (o : Nat) (v : Word) : Inv (hubPut o v s) ↔ Inv s := Iff.rfl
@[simp ↓] theorem hubSetBit_inv (o i : Nat) (b : Bool) : Inv (hubSetBit o i b s) ↔ Inv s := Iff.rfl
@[simp ↓] theorem hubSetFld_inv (o hi lo v : Nat) : Inv (hubSetFld o hi lo v s) ↔ Inv s := Iff.rfl
@[simp ↓] theorem hubPutPair_inv (o : Nat) (v : DWord) : Inv (hubPutPair o v s) ↔ Inv s := Iff.rfl
@[simp ↓] theorem respond_inv (ws : List Word) : Inv (respond ws s) ↔ Inv s := Iff.rfl
@[simp ↓] theorem drawn_inv : Inv (drawn s) ↔ Inv s := Iff.rfl
@[simp ↓] theorem snapPut_inv (r k : Nat) (v : DWord) : Inv (snapPut r k v s) ↔ Inv s := Iff.rfl
@[simp ↓] theorem hostPut_inv (w : Nat) (v : Word) : Inv (hostPut w v s) ↔ Inv s := Iff.rfl
@[simp ↓] theorem odAdd_inv (i u k : Nat) : Inv (odAdd i u k s) ↔ Inv s := Iff.rfl
@[simp ↓] theorem memPut_inv (a : Nat) (v : Word) (hs : Inv s) : Inv (memPut a v s) := memPut_wf a v s hs

/-! ### Machine/Ops.lean -/

@[simp ↓] theorem hubCodeWrite_inv (off : Nat) (v : Word) : Inv (hubCodeWrite off v s) ↔ Inv s := Iff.rfl
@[simp ↓] theorem hubCount_inv (off : Nat) : Inv (hubCount off s) ↔ Inv s := Iff.rfl
@[simp ↓] theorem odCount_inv (idx sub : Nat) : Inv (odCount idx sub s) ↔ Inv s := Iff.rfl
@[simp ↓] theorem readPairW0_inv (off : Nat) (m : Master) : Inv (readPairW0 off m s) ↔ Inv s := Iff.rfl
@[simp ↓] theorem memPuts_inv (a : Nat) (ws : List Word) (hs : Inv s) : Inv (memPuts a ws s) := memPuts_wf a ws s hs
@[simp ↓] theorem memDrop_inv (lo hi : Nat) (hs : Inv s) : Inv (memDrop lo hi s) := memDrop_wf lo hi s hs
@[simp ↓] theorem memLoad_inv (lo : Nat) (ws : SMap Word) (hs : Inv s) : Inv (memLoad lo ws s) := memLoad_wf lo ws s hs
@[simp ↓] theorem snoopSpan_inv (write : Bool) (lo hi : Nat) : Inv (snoopSpan write lo hi s) ↔ Inv s := Iff.rfl

@[simp ↓] theorem deepPut_inv (a : Nat) (v : Word) (hs : Inv s) : Inv (deepPut a v s) := by
  dsimp only [deepPut]; simp [hs]

@[simp ↓] theorem deepDrop_inv (lo hi : Nat) (hs : Inv s) : Inv (deepDrop lo hi s) := smWf_filter s.mem _ hs
@[simp ↓] theorem setMode_inv (m : Nat) : Inv (setMode m s) ↔ Inv s := by dsimp only [setMode]; simp

/-! ### Machine/Events.lean -/

@[simp ↓] theorem gcntUp_inv (g : Nat) : Inv (gcntUp g s) ↔ Inv s := by dsimp only [gcntUp]; simp

@[simp ↓] theorem gcntEvent_inv (kind : Bool) (k : Nat) : Inv (gcntEvent kind k s) ↔ Inv s := by
  dsimp only [gcntEvent]; simp

@[simp ↓] theorem pushInbox_inv (e : Inbox) : Inv (pushInbox e s) ↔ Inv s := Iff.rfl

@[simp ↓] theorem fireAt_inv (cyc : BitVec 64) (src hop : Nat) : Inv (fireAt cyc src hop s) ↔ Inv s := by
  unfold fireAt
  refine inv_ite_iff Iff.rfl ((foldl_inv _ (fun t c => foldl_inv _ (fun u via => ?_) _ _) _ _).trans ?_) <;> simp

@[simp ↓] theorem fireNext_inv (src hop : Nat) : Inv (fireNext src hop s) ↔ Inv s := Iff.rfl
@[simp ↓] theorem firesDue_inv : Inv (firesDue s) ↔ Inv s := by dsimp only [firesDue]; simp
@[simp ↓] theorem fire_inv (src : Nat) : Inv (fire src s) ↔ Inv s := by dsimp only [fire]; simp
@[simp ↓] theorem forkErr_inv (c task : Nat) : Inv (forkErr c task s) ↔ Inv s := by dsimp only [forkErr]; simp
@[simp ↓] theorem unbind_inv (task : Nat) : Inv (unbind task s) ↔ Inv s := Iff.rfl

@[simp ↓] theorem rebind_inv (task : Nat) (sel : Option Nat) : Inv (rebind task sel s) ↔ Inv s := by
  dsimp only [rebind]; split <;> simp

@[simp ↓] theorem takeTask_inv (task : Nat) : Inv (takeTask task s) ↔ Inv s := Iff.rfl

@[simp ↓] theorem groupCtl_inv (g : Nat) (en dis : Bool) : Inv (groupCtl g en dis s) ↔ Inv s := by
  dsimp only [groupCtl]; simp

@[simp ↓] theorem groupEvents_inv (c : Nat) : Inv (groupEvents c s) ↔ Inv s := by
  unfold groupEvents
  exact foldl_inv _ (fun _ _ => by simp) _ _

@[simp ↓] theorem setChFlag_inv (c : Nat) (b : Bool) : Inv (setChFlag c b s) ↔ Inv s := by dsimp only [setChFlag]; simp
@[simp ↓] theorem addMerge_inv (c k : Nat) : Inv (addMerge c k s) ↔ Inv s := by dsimp only [addMerge]; simp
@[simp ↓] theorem deliver_inv (c hop : Nat) : Inv (deliver c hop s) ↔ Inv s := by dsimp only [deliver]; simp

@[simp ↓] theorem execChannelSwtrig_keepsInv (c : Chan) (hs : Inv s) : KeepsInv (execChannelSwtrig c s) := by
  dsimp only [execChannelSwtrig]; simp [hs]

@[simp ↓] theorem execEvfSwevFire_keepsInv (n : Cl) (hs : Inv s) : KeepsInv (execEvfSwevFire n s) := by
  dsimp only [execEvfSwevFire]; simp [hs]

@[simp ↓] theorem execForkenFall_keepsInv (hs : Inv s) : KeepsInv (execForkenFall s) := by
  unfold execForkenFall
  refine awake_keepsInv hs (keepsInv_ite (by simp [hs]) ?_)
  simp [hs]

@[simp ↓] theorem cellFire_inv (x hop : Nat) : Inv (cellFire x hop s) ↔ Inv s := by dsimp only [cellFire]; simp
@[simp ↓] theorem loopSeen_inv (x : Nat) : Inv (loopSeen x s) ↔ Inv s := by dsimp only [loopSeen]; simp
@[simp ↓] theorem loopMonitor_inv : Inv (loopMonitor s) ↔ Inv s := by dsimp only [loopMonitor]; simp
@[simp ↓] theorem setFilt_inv (x k : Nat) : Inv (setFilt x k s) ↔ Inv s := Iff.rfl

@[simp ↓] theorem cellCtlWrite_inv (x : Nat) (v : Word) : Inv (cellCtlWrite x v s) ↔ Inv s := by
  dsimp only [cellCtlWrite]; simp

@[simp ↓] theorem cellPut_inv (x : Nat) (q : Bool) : Inv (cellPut x q s) ↔ Inv s := by dsimp only [cellPut]; simp
@[simp ↓] theorem pqPut_inv (f : Nat) (q : PqSt) : Inv (pqPut f q s) ↔ Inv s := Iff.rfl
@[simp ↓] theorem pqRewindWith_inv (f bit : Nat) : Inv (pqRewindWith f bit s) ↔ Inv s := Iff.rfl
@[simp ↓] theorem pqDiscard_inv (f : Nat) (b : Bool) : Inv (pqDiscard f b s) ↔ Inv s := by dsimp only [pqDiscard]; simp

@[simp ↓] theorem pqAccept_inv (f : Nat) (v : Word) (last : Bool) : Inv (pqAccept f v last s) ↔ Inv s := by
  dsimp only [pqAccept]; simp

@[simp ↓] theorem pqWriteBy_inv (who : Option Master) (f : Nat) (v : Word) (last : Bool) :
    Inv (pqWriteBy who f v last s) ↔ Inv s := by
  dsimp only [pqWriteBy]; split <;> simp

@[simp ↓] theorem pqWrite_inv (f : Nat) (v : Word) (last : Bool) : Inv (pqWrite f v last s) ↔ Inv s := by
  dsimp only [pqWrite]; simp

@[simp ↓] theorem pqPortWrite_inv (f : Nat) (v : Word) (last : Bool) : Inv (pqPortWrite f v last s) ↔ Inv s := by
  dsimp only [pqPortWrite]; split <;> simp

@[simp ↓] theorem pqMasterWrite_inv (m : Master) (f : Nat) (v : Word) (last : Bool) :
    Inv (pqMasterWrite m f v last s).2 ↔ Inv s := by
  dsimp only [pqMasterWrite]; simp

@[simp ↓] theorem pqFlushAll_inv (f : Nat) : Inv (pqFlushAll f s) ↔ Inv s := by dsimp only [pqFlushAll]; simp

@[simp ↓] theorem execPqEnable_keepsInv (f : Pq) (v : Word) (hs : Inv s) : KeepsInv (execPqEnable f v s) := by
  dsimp only [execPqEnable]; simp [hs]

@[simp ↓] theorem execPqDisable_keepsInv (f : Pq) (hs : Inv s) : KeepsInv (execPqDisable f s) := by
  dsimp only [execPqDisable]; simp [hs]

@[simp ↓] theorem execPqRd_keepsInv (f : Pq) (hs : Inv s) : KeepsInv (execPqRd f s) := by
  dsimp only [execPqRd]; split <;> simp [hs]

/-! ### Machine/Caps.lean -/

@[simp ↓] theorem tagFailed_inv : Inv (tagFailed s) ↔ Inv s := by dsimp only [tagFailed]; simp

/-! ### Machine/Store.lean -/

/-- A change of SKEW builds memory anew, word by word. -/
@[simp ↓] theorem skewPlot_inv (n : Cl) (i : Nat) : Inv (skewPlot n i s) := by
  refine foldl_all (P := fun m : SMap Word => Memory.wf m = true) (fun m p hm => ?_) s.mem rfl
  split <;> exact smWf_smSet _ _ _ hm

@[simp ↓] theorem takeCfg_inv (n : Cl) (i : Nat) (old new : Word) (hs : Inv s) : Inv (takeCfg n i old new s) := by
  dsimp only [takeCfg]; simp [hs]

@[simp ↓] theorem plotCfgWrite_inv (n : Cl) (i : Plot) (v : Word) (who : Handler) (hs : Inv s) :
    Inv (plotCfgWrite n i v who s) := by
  unfold plotCfgWrite
  dsimp only
  split
  · simp [hs]
  · split <;> simp [hs]

@[simp ↓] theorem plotHoWrite_inv (n : Cl) (j : Nat) (v : Word) (who : Handler) :
    Inv (plotHoWrite n j v who s) ↔ Inv s := by
  unfold plotHoWrite
  dsimp only
  split
  · simp
  · split <;> simp

@[simp ↓] theorem tickPlot_inv (n : Cl) (frame : Nat) (hs : Inv s) (i : Nat) : Inv (tickPlot n frame s i) := by
  dsimp only [tickPlot]; simp [hs]

@[simp ↓] theorem plotHandover_inv (n : Cl) (hs : Inv s) : Inv (plotHandover n s) := by
  dsimp only [plotHandover]
  exact foldl_keeps_inv (fun _ _ ht => tickPlot_inv _ _ ht _) _ (by simp [hs])

@[simp ↓] theorem plotStart_inv (n : Cl) : Inv (plotStart n s) ↔ Inv s := by dsimp only [plotStart]; simp

@[simp ↓] theorem refuse_inv (n : Cl) (i off : Nat) (g : Agent) (write : Bool) :
    Inv (refuse n i off g write s) ↔ Inv s :=
  Iff.rfl

@[simp ↓] theorem lsUncorrectable_inv (n : Cl) (b : BadRow) : Inv (lsUncorrectable n b s) ↔ Inv s := Iff.rfl

@[simp ↓] theorem unlessRuns_inv (n : Cl) (f : Cluster → Cluster) : Inv (unlessRuns n f s) ↔ Inv s := by
  dsimp only [unlessRuns]; simp

@[simp ↓] theorem lsCorrected_inv (n : Cl) (bank row bit : Nat) : Inv (lsCorrected n bank row bit s) ↔ Inv s := by
  dsimp only [lsCorrected]; simp

@[simp ↓] theorem lsRead_inv (n : Cl) (off : Nat) : Inv (lsRead n off s).2 ↔ Inv s := by
  unfold lsRead
  dsimp only
  split
  · rfl
  · split
    · simp
    · split <;> simp

@[simp ↓] theorem rowWritten_inv (n : Cl) (off : Nat) (whole : Bool) : Inv (rowWritten n off whole s) ↔ Inv s := by
  dsimp only [rowWritten]; simp

@[simp ↓] theorem badWordRead_inv (spare : Bool) (b : BadWord) : Inv (badWordRead spare b s).2 ↔ Inv s := by
  dsimp only [badWordRead]; simp

@[simp ↓] theorem xchgRead_inv (n : Cl) (off : Nat) : Inv (xchgRead n off s).2 ↔ Inv s := by
  unfold xchgRead
  dsimp only
  split
  · rfl
  · split <;> simp [inv_of_eq ‹_›]

@[simp ↓] theorem istoreRead_inv (n : Cl) (off : Nat) : Inv (istoreRead n off s).2 ↔ Inv s := by
  unfold istoreRead
  split
  · rfl
  · split <;> simp [inv_of_eq ‹_›]

@[simp ↓] theorem startPcCopy_inv (st pc : Nat) : Inv (startPcCopy st pc s) ↔ Inv s := by dsimp only [startPcCopy]; simp
@[simp ↓] theorem deepUe_inv (l : Nat) : Inv (deepUe l s) ↔ Inv s := by dsimp only [deepUe]; simp
@[simp ↓] theorem clearLine_inv (line : Nat) : Inv (clearLine line s) ↔ Inv s := Iff.rfl
@[simp ↓] theorem clearLines_inv (off k : Nat) : Inv (clearLines off k s) ↔ Inv s := Iff.rfl

@[simp ↓] theorem xchgNote_inv (n : Cl) (off : Nat) (portA wr : Bool) (met : Option Bool) :
    Inv (xchgNote n off portA wr met s).2 ↔ Inv s :=
  Iff.rfl

@[simp ↓] theorem xchgCollide_inv (n : Cl) (off : Nat) (portA : Bool) : Inv (xchgCollide n off portA s) ↔ Inv s :=
  Iff.rfl

@[simp ↓] theorem portRead_inv (n : Cl) (off : Nat) (g : Agent) : Inv (portRead n off g s).2 ↔ Inv s := by
  dsimp only [portRead]; simp

@[simp ↓] theorem portWrite_inv (n : Cl) (off : Nat) (portA : Bool) (old : Word) (hs : Inv s) :
    Inv (portWrite n off portA old s) := by
  dsimp only [portWrite]; simp [hs]

@[simp ↓] theorem cellRead_inv (a : Nat) (p : Bool × State) : Inv (cellRead a s p).2 ↔ Inv p.2 := by rfl

@[simp ↓] theorem agentRead_inv (g : Agent) (a : Nat) : Inv (agentRead g a s).2 ↔ Inv s := by
  unfold agentRead
  split
  · split <;> simp
  · split
    · simp
    · rfl
    · dsimp only
      split <;> simp
  · split <;> simp
  · split <;> simp
  · rfl
  · rfl

@[simp ↓] theorem agentWrite_inv (g : Agent) (a : Nat) (v : Word) (hs : Inv s) : Inv (agentWrite g a v s).2 := by
  dsimp only [agentWrite]; (repeat' split) <;> simp [hs]

@[simp ↓] theorem wrote_inv (as : List Nat) : Inv (wrote as s) ↔ Inv s := by
  unfold wrote
  refine foldl_inv _ (fun t q => ?_) _ _
  dsimp only
  split <;> simp

@[simp ↓] theorem journalFill_inv (n : Cl) (xo : Nat) (v : Word) : Inv (journalFill n xo v s) ↔ Inv s := by
  dsimp only [journalFill]; simp

@[simp ↓] theorem fillInto_inv (n : Cl) (xo : Nat) (v : Word) (hs : Inv s) : Inv (fillInto n xo v s).2 := by
  unfold fillInto
  split
  · simp [hs]
  · split <;> simp [hs, inv_of_eq ‹_›]

@[simp ↓] theorem fillDeliver_inv (n : Cl) (xo : Nat) (v : Word) (hs : Inv s) : Inv (fillDeliver n xo v s).2 := by
  unfold fillDeliver
  split
  · exact hs
  · refine foldl_snd_keeps_inv (p := (0, s)) (fun p m hp => ?_) _ hs
    exact fillInto_inv _ _ _ hp

@[simp ↓] theorem plotRead_inv (m : Cl) (plot ofs : Nat) : Inv (plotRead m plot ofs s).2 ↔ Inv s := by
  dsimp only [plotRead]; simp

@[simp ↓] theorem ioWords_inv (n : Cl) (xo k : Nat) : Inv (ioWords n xo k s).2 ↔ Inv s := by
  induction k generalizing xo s with
  | zero => rfl
  | succ k ih => exact (ih _).trans (xchgRead_inv ..)

@[simp ↓] theorem pairCompare_inv (n : Cl) (other : Option Cl) (plot ofs k : Nat) (cnt : State → State)
    (hc : ∀ t, Inv (cnt t) ↔ Inv t) : Inv (pairCompare n other plot ofs k cnt s) ↔ Inv s := by
  unfold pairCompare
  dsimp only
  split
  · rfl
  · repeat' split
    all_goals simp [hc]

@[simp ↓] theorem patrolFind_inv (n : Cl) (row : Nat) (e : BankErr) : Inv (patrolFind n row s e) ↔ Inv s := by
  dsimp only [patrolFind]; simp

/-! ### Machine/Links.lean -/

@[simp ↓] theorem lkPut_inv (l : Nat) (k : Link) : Inv (lkPut l k s) ↔ Inv s := Iff.rfl
@[simp ↓] theorem lkErr_inv (l i : Nat) : Inv (lkErr l i s) ↔ Inv s := Iff.rfl
@[simp ↓] theorem lkCount_inv (l i k : Nat) : Inv (lkCount l i k s) ↔ Inv s := by dsimp only [lkCount]; split <;> simp

@[simp ↓] theorem lkLanes_inv (l : Nat) (locked : Bool) : Inv (lkLanes l locked s) ↔ Inv s := by
  dsimp only [lkLanes]; simp

@[simp ↓] theorem lkDegr_inv : Inv (lkDegr s) ↔ Inv s := Iff.rfl
@[simp ↓] theorem linkEnable_inv (l : Nat) : Inv (linkEnable l s) ↔ Inv s := by dsimp only [linkEnable]; simp
@[simp ↓] theorem linkDisable_inv (l : Nat) : Inv (linkDisable l s) ↔ Inv s := by dsimp only [linkDisable]; simp
@[simp ↓] theorem lkRise_inv (l : Nat) : Inv (lkRise l s) ↔ Inv s := by dsimp only [lkRise]; simp
@[simp ↓] theorem linkDown_inv (l : Nat) : Inv (linkDown l s) ↔ Inv s := by dsimp only [linkDown]; simp

@[simp ↓] theorem execLaneLockLoss_keepsInv (lane : Fin 64) (kind : LockKind) (hs : Inv s) :
    KeepsInv (execLaneLockLoss lane kind s) := by
  unfold execLaneLockLoss
  refine awake_keepsInv hs ?_
  simp [hs]

@[simp ↓] theorem fillMark_inv (l u xo : Nat) : Inv (fillMark l u xo s) ↔ Inv s := Iff.rfl

@[simp ↓] theorem fillWrite_inv (l u plot off : Nat) (v : Word) (hs : Inv s) : Inv (fillWrite l u plot off v s).2 := by
  unfold fillWrite
  dsimp only
  split <;> simp [hs, inv_of_eq ‹_›]

@[simp ↓] theorem fillHold_inv (l : Nat) (w : IngressWord) : Inv (fillHold l w s) ↔ Inv s := Iff.rfl

@[simp ↓] theorem fillPut_inv (l u off : Nat) (v : Word) (counted : Bool) (hs : Inv s) :
    Inv (fillPut l u off v counted s) := by
  unfold fillPut
  split
  · split <;> simp [hs, inv_of_eq ‹_›]
  · simp [hs]

@[simp ↓] theorem headerPut_inv (l : Nat) (f : Fill) (hs : Inv s) : Inv (headerPut l f s) := by
  dsimp only [headerPut]
  iterate 4 refine fillPut_inv _ _ _ _ _ ?_
  exact hs

@[simp ↓] theorem fillHeader_inv (l : Nat) (hs : Inv s) : Inv (fillHeader l s) := by
  dsimp only [fillHeader]; split <;> simp [hs]

@[simp ↓] theorem fillUpd_inv (l : Nat) (f : Fill) : Inv (fillUpd l f s) ↔ Inv s := Iff.rfl

@[simp ↓] theorem fillSample_inv (l u : Nat) (ready : Int) (f : Fill) (off : Nat) (v : Word) (hs : Inv s) :
    Inv (fillSample l u ready f off v s) := by
  dsimp only [fillSample]; simp [hs]

@[simp ↓] theorem fillFrame_inv (l u : Nat) (ready : Int) (f : Fill) (words : List Word) (hs : Inv s) :
    Inv (fillFrame l u ready f words s) := by
  dsimp only [fillFrame]
  exact foldl_keeps_inv (fun _ _ ht => fillSample_inv _ _ _ _ _ _ ht) _ hs

@[simp ↓] theorem frameWords_inv (l : Nat) (data : List Word) : Inv (frameWords l data s).2 ↔ Inv s := by
  dsimp only [frameWords]; simp

@[simp ↓] theorem crcCount_inv (l q : Nat) : Inv (crcCount l q s) ↔ Inv s := by dsimp only [crcCount]; simp

@[simp ↓] theorem execConverterFrameReceive_keepsInv (l : Link16) (data : List Word) (crcOk : Bool) (hs : Inv s) :
    KeepsInv (execConverterFrameReceive l data crcOk s) := by
  unfold execConverterFrameReceive
  refine awake_keepsInv hs (keepsInv_ite (by simp [hs]) ?_)
  split
  · simp [hs]
  · extract_lets bad k s1 s2
    have h2 : Inv s2 := by
      simp [s2, s1, hs]
    clear_value s2
    split
    rename_i ws s3 h
    have h3 : Inv s3 := (inv_of_eq h).mpr ((frameWords_inv ..).mpr h2)
    clear h
    extract_lets inst grain whole stamp s4
    have h4 : Inv s4 := by
      simp [s4, h3]
    clear_value s4
    split
    · simp [h3]
    · refine keepsInv_ite (by simp [h3]) ?_
      extract_lets old f first s5 g
      have h5 : Inv s5 := fillFrame_inv _ _ _ _ _ h4
      clear_value s5
      exact keepsInv_ite (by simp [h4]) (by simp [h5])

@[simp ↓] theorem ingressFlush_inv (l : Nat) (hs : Inv s) : Inv (ingressFlush l s) := by
  unfold ingressFlush
  refine foldl_keeps_inv (fun t w ht => ?_) _ (by simp [hs])
  have h := fillWrite_inv l w.tick (w.plot.getD (lkPlot l t)) w.off w.val ht
  dsimp only
  split <;> simpa [inv_of_eq ‹_›] using h

@[simp ↓] theorem ingressBind_inv (n : Cl) (before : Bool) : Inv (ingressBind n before s) ↔ Inv s := by
  dsimp only [ingressBind]; simp

@[simp ↓] theorem ingressOpen_inv (n : Cl) (hs : Inv s) : Inv (ingressOpen n s) := by
  unfold ingressOpen
  refine foldl_keeps_inv (fun t l ht => ?_) _ hs
  simp [ht]

@[simp ↓] theorem readFill_inv (l plot : Nat) (from' : Cl) (other : Option Cl) (s0 : State) :
    Inv (readFill l plot from' other s0).2 ↔ Inv s0 := by
  unfold readFill
  dsimp only
  split
  · simp
  · split
    · simp [inv_of_eq ‹_›]
    · simp [inv_of_eq ‹_›]

@[simp ↓] theorem linkCommit_inv (n : Cl) (src : FillSrc) : Inv (linkCommit n src s) ↔ Inv s := by
  unfold linkCommit
  refine foldl_inv _ (fun t l => ?_) _ _
  dsimp only
  split
  · split
    · rfl
    · split <;> simp [inv_of_eq ‹_›]
  · rfl

@[simp ↓] theorem linksSafe_inv : Inv (linksSafe s) ↔ Inv s := by dsimp only [linksSafe]; simp
@[simp ↓] theorem sysrefGo_inv : Inv (sysrefGo s) ↔ Inv s := by dsimp only [sysrefGo]; simp

@[simp ↓] theorem jlWrite_inv (o : Nat) (v : Word) : Inv (jlWrite o v s) ↔ Inv s := by
  unfold jlWrite
  dsimp only
  repeat' with_reducible apply inv_ite_iff
  all_goals simp

/-! ### Machine/Timing.lean -/

@[simp ↓] theorem pinPut_inv (p : Nat) (x : PinSt) : Inv (pinPut p x s) ↔ Inv s := Iff.rfl
@[simp ↓] theorem tmcRefuse_inv : Inv (tmcRefuse s) ↔ Inv s := Iff.rfl
@[simp ↓] theorem capture_inv (c : Nat) (ts : Time72) : Inv (capture c ts s) ↔ Inv s := by dsimp only [capture]; simp
@[simp ↓] theorem pinQueue_inv (p : Nat) (x : PinAction) : Inv (pinQueue p x s) ↔ Inv s := Iff.rfl
@[simp ↓] theorem pinHist_inv (p : Nat) (e : PinEdge) : Inv (pinHist p e s) ↔ Inv s := by dsimp only [pinHist]; simp
@[simp ↓] theorem freeStamp_inv : Inv (freeStamp s).2 ↔ Inv s := Iff.rfl

@[simp ↓] theorem edgeBlur_inv (p : Nat) : Inv (edgeBlur p s) ↔ Inv s := by
  unfold edgeBlur
  split
  · rfl
  · refine (foldl_inv _ (fun t c => ?_) _ _).trans (by simp)
    refine inv_ite_iff ?_ Iff.rfl
    dsimp only
    split <;> simp

@[simp ↓] theorem nearStamp_inv (time : Time72) : Inv (nearStamp time s).2 ↔ Inv s := Iff.rfl

@[simp ↓] theorem edgeStamp_inv (p : Nat) (time : Time72) : Inv (edgeStamp p time s).2 ↔ Inv s := by
  dsimp only [edgeStamp]; simp

@[simp ↓] theorem cmpFire_inv (c : Nat) (v : Word) : Inv (cmpFire c v s) ↔ Inv s := by dsimp only [cmpFire]; simp

@[simp ↓] theorem tmcRun_inv (fuel : Nat) (j : TmcJob) : Inv (tmcRun fuel j s) ↔ Inv s := by
  induction fuel generalizing j s with
  | zero => rfl
  | succ fuel ih =>
    cases j with
    | sync p time edge =>
      unfold tmcRun
      dsimp only
      split
      · rfl
      · split
        · simp
        · split <;> simp [ih]
    | step i time delay =>
      unfold tmcRun
      extract_lets o v old s1 s2 due s3 acts s4 w
      have h2 : Inv s2 ↔ Inv s := by
        simp [s2, s1]
      have h3 : Inv s3 ↔ Inv s := by
        simp [s3, h2]
      have h4 : Inv s4 ↔ Inv s := by
        dsimp only [s4]
        split
        · simp [h3]
        · simp [h3, ih]
      split <;> simp [h4, ih]
    | act p time acts =>
      unfold tmcRun
      simp [ih]

@[simp ↓] theorem pinSync_inv (p : Nat) (time : Time72) (edge : Bool) : Inv (pinSync p time edge s) ↔ Inv s := by
  dsimp only [pinSync]; simp

@[simp ↓] theorem pinAct_inv (p : Nat) (time : Time72) (acts : List (Nat × BitVec 2)) :
    Inv (pinAct p time acts s) ↔ Inv s := by
  dsimp only [pinAct]; simp

@[simp ↓] theorem bankSync_inv (b : Nat) : Inv (bankSync b s) ↔ Inv s := by dsimp only [bankSync]; simp

@[simp ↓] theorem bankEval_inv (b : Nat) (was first : Bool) : Inv (bankEval b was first s) ↔ Inv s := by
  dsimp only [bankEval]; simp

@[simp ↓] theorem banksStart_inv : Inv (banksStart s) ↔ Inv s := by dsimp only [banksStart]; simp
@[simp ↓] theorem bankWrite_inv (b : Nat) (v : Word) : Inv (bankWrite b v s) ↔ Inv s := by dsimp only [bankWrite]; simp

@[simp ↓] theorem pinCfgWrite_inv (p : Nat) (v : Word) : Inv (pinCfgWrite p v s) ↔ Inv s := by
  dsimp only [pinCfgWrite]; simp

@[simp ↓] theorem pinsSafe_inv : Inv (pinsSafe s) ↔ Inv s := by dsimp only [pinsSafe]; simp
@[simp ↓] theorem pinsSettle_inv : Inv (pinsSettle s) ↔ Inv s := by dsimp only [pinsSettle]; simp

@[simp ↓] theorem execCapW0Read_keepsInv (c : Chan) (m : Master) (hs : Inv s) : KeepsInv (execCapW0Read c m s) := by
  dsimp only [execCapW0Read]; simp [hs]

@[simp ↓] theorem cgCtlWrite_inv (g : Nat) (v : Word) : Inv (cgCtlWrite g v s) ↔ Inv s := by
  dsimp only [cgCtlWrite]; simp

@[simp ↓] theorem tmcRefused_inv : Inv (tmcRefused s) ↔ Inv s := Iff.rfl

@[simp ↓] theorem execCaptureFillWrite_keepsInv (g : Fin 32) (hs : Inv s) : KeepsInv (execCaptureFillWrite g s) := by
  unfold execCaptureFillWrite
  refine awake_keepsInv hs ?_
  dsimp only
  split
  · simp [hs]
  · refine keepsInv_ite (by simp [hs]) ?_
    rw [keepsInv_next, inv_mk]
    refine foldl_snd_keeps_inv (fun p w hp => ?_) _ hs
    have h := fillDeliver_inv (clOf (fld 23 16 (hubGet (cgReg g + 1) s))) p.1 w hp
    dsimp only
    split <;> simpa [inv_of_eq ‹_›] using h

@[simp ↓] theorem egCtlWrite_inv (g : Nat) (v : Word) : Inv (egCtlWrite g v s) ↔ Inv s := by
  dsimp only [egCtlWrite]; simp

@[simp ↓] theorem badRecords_inv (i k : Nat) : Inv (badRecords i k s) ↔ Inv s := by dsimp only [badRecords]; simp

@[simp ↓] theorem placeRecord_inv (g : Nat) (w0 : Word) (at' : Time72) : Inv (placeRecord g w0 at' s) ↔ Inv s := by
  dsimp only [placeRecord]; simp

@[simp ↓] theorem edgeRead_inv (g : Nat) (from' : Cl) (other : Option Cl) (plot ofs : Nat) (s0 : State) :
    Inv (edgeRead g from' other plot ofs s0) ↔ Inv s0 := by
  unfold edgeRead
  dsimp only
  split
  · simp
  · split
    · split <;> simp [inv_of_eq ‹_›]
    · simp [inv_of_eq ‹_›]

@[simp ↓] theorem edgeCommit_inv (n : Cl) (src : FillSrc) : Inv (edgeCommit n src s) ↔ Inv s := by
  unfold edgeCommit
  refine foldl_inv _ (fun t g => ?_) _ _
  dsimp only
  refine inv_ite_iff ?_ Iff.rfl
  split <;> simp

@[simp ↓] theorem cntValWrite_inv (i : Nat) (v : Word) : Inv (cntValWrite i v s) ↔ Inv s := Iff.rfl

@[simp ↓] theorem cntCfgWrite_inv (i : Nat) (v : Word) : Inv (cntCfgWrite i v s) ↔ Inv s := by
  dsimp only [cntCfgWrite]; simp

@[simp ↓] theorem execTmcCntValRead_keepsInv (i : Fin 32) (m : Master) (hs : Inv s) :
    KeepsInv (execTmcCntValRead i m s) := by
  dsimp only [execTmcCntValRead]; simp [hs]

@[simp ↓] theorem cmpWrite_inv (c : Nat) (v : Word) : Inv (cmpWrite c v s) ↔ Inv s := by dsimp only [cmpWrite]; simp

@[simp ↓] theorem chCfgWrite_inv (c : Nat) (v : Word) : Inv (chCfgWrite c v s) ↔ Inv s := by
  dsimp only [chCfgWrite]; simp

@[simp ↓] theorem genPut_inv (g : Nat) (x : GenSt) : Inv (genPut g x s) ↔ Inv s := Iff.rfl

@[simp ↓] theorem genOut_inv (g : Nat) (raw quiet start : Bool) : Inv (genOut g raw quiet start s) ↔ Inv s := by
  dsimp only [genOut]; simp

@[simp ↓] theorem genCopy_inv (g : Nat) (buf : List Word) (upd : Bool) : Inv (genCopy g buf upd s) ↔ Inv s := by
  dsimp only [genCopy]; simp

@[simp ↓] theorem genStart_inv (g : Nat) : Inv (genStart g s) ↔ Inv s := by
  unfold genStart
  dsimp only
  split <;> simp

@[simp ↓] theorem genStep_inv (fuel : Nat) (quiet : Bool) (g : Nat) : Inv (genStep fuel quiet g s) ↔ Inv s := by
  induction fuel generalizing g s with
  | zero => rfl
  | succ fuel ih =>
    unfold genStep
    dsimp only
    repeat' with_reducible apply inv_ite_iff
    all_goals simp [ih]

@[simp ↓] theorem globalGo_inv : Inv (globalGo s) ↔ Inv s := by dsimp only [globalGo]; simp

@[simp ↓] theorem execGlobalStart_keepsInv (hs : Inv s) : KeepsInv (execGlobalStart s) := by
  unfold execGlobalStart
  refine awake_keepsInv hs ?_
  split
  · simp [hs]
  · exact keepsInv_ite (by simp [hs]) (by simp [hs])

@[simp ↓] theorem globalStop_inv : Inv (globalStop s) ↔ Inv s := Iff.rfl
@[simp ↓] theorem genArm_inv (g : Nat) (arm : Bool) : Inv (genArm g arm s) ↔ Inv s := by dsimp only [genArm]; simp
@[simp ↓] theorem genWrite_inv (g k : Nat) (v : Word) : Inv (genWrite g k v s) ↔ Inv s := by dsimp only [genWrite]; simp

@[simp ↓] theorem cntCatchUp_inv (i n : Nat) : Inv (cntCatchUp i n s) ↔ Inv s := by
  unfold cntCatchUp
  refine (foldl_inv _ (fun t c => ?_) _ _).trans (by simp)
  dsimp only
  refine inv_ite_iff ?_ Iff.rfl
  simp

@[simp ↓] theorem tmcCatchUp_inv (old new : BitVec 64) : Inv (tmcCatchUp old new s) ↔ Inv s := by
  unfold tmcCatchUp
  extract_lets s1 gs missed s2 s3
  have h1 : Inv s1 ↔ Inv s := by
    refine foldl_inv _ (fun t i => ?_) _ _
    dsimp only
    refine inv_ite_iff ?_ Iff.rfl
    simp
  have h2 : Inv s2 ↔ Inv s := by
    simp [s2, h1]
  have h3 : Inv s3 ↔ Inv s := by
    refine (foldl_inv _ (fun t g => ?_) _ _).trans h2
    dsimp only
    refine inv_ite_iff Iff.rfl ?_
    simp
  simp [h3]

@[simp ↓] theorem gctlWrite_inv (v : Word) : Inv (gctlWrite v s) ↔ Inv s := by dsimp only [gctlWrite]; simp

@[simp ↓] theorem tmcWrite_inv (o : Nat) (v : Word) : Inv (tmcWrite o v s) ↔ Inv s := by
  unfold tmcWrite
  repeat' split
  all_goals simp

/-! ### Machine/Time.lean -/

@[simp ↓] theorem netDiscard_inv : Inv (netDiscard s) ↔ Inv s := Iff.rfl
@[simp ↓] theorem changeMode_inv (m : Nat) : Inv (changeMode m s) ↔ Inv s := by dsimp only [changeMode]; simp
@[simp ↓] theorem setModePend_inv (m : Nat) : Inv (setModePend m s) ↔ Inv s := by dsimp only [setModePend]; simp
@[simp ↓] theorem requestSafe_inv : Inv (requestSafe s) ↔ Inv s := by dsimp only [requestSafe]; simp
@[simp ↓] theorem tbFlag_inv (i : Nat) : Inv (tbFlag i s) ↔ Inv s := by dsimp only [tbFlag]; simp
@[simp ↓] theorem syncFrame_inv : Inv (syncFrame s) ↔ Inv s := Iff.rfl

@[simp ↓] theorem tbGridWrite_inv (off : Nat) (v : Word) : Inv (tbGridWrite off v s) ↔ Inv s := by
  dsimp only [tbGridWrite]; simp

@[simp ↓] theorem scheduleGrid_inv (k : GridKind) : Inv (scheduleGrid k s) ↔ Inv s := by dsimp only [scheduleGrid]; simp

@[simp ↓] theorem execGridStart_keepsInv (hs : Inv s) : KeepsInv (execGridStart s) := by
  dsimp only [execGridStart]; simp [hs]

@[simp ↓] theorem execGridStop_keepsInv (hs : Inv s) : KeepsInv (execGridStop s) := by
  dsimp only [execGridStop]; simp [hs]

@[simp ↓] theorem execGridHold_keepsInv (hs : Inv s) : KeepsInv (execGridHold s) := by
  dsimp only [execGridHold]; simp [hs]

@[simp ↓] theorem execGridResume_keepsInv (hs : Inv s) : KeepsInv (execGridResume s) := by
  dsimp only [execGridResume]; simp [hs]

@[simp ↓] theorem clearAction_inv : Inv (clearAction s) ↔ Inv s := Iff.rfl
@[simp ↓] theorem execTbStep_keepsInv (hs : Inv s) : KeepsInv (execTbStep s) := by dsimp only [execTbStep]; simp [hs]

@[simp ↓] theorem execTbSlewWrite_keepsInv (v : Word) (hs : Inv s) : KeepsInv (execTbSlewWrite v s) := by
  dsimp only [execTbSlewWrite]; simp [hs]

@[simp ↓] theorem execTbTimeW0Read_keepsInv (m : Master) (hs : Inv s) : KeepsInv (execTbTimeW0Read m s) := by
  dsimp only [execTbTimeW0Read]; simp [hs]

@[simp ↓] theorem execTbLocalW0Read_keepsInv (n : Cl) (hs : Inv s) : KeepsInv (execTbLocalW0Read n s) := by
  dsimp only [execTbLocalW0Read]; simp [hs]

@[simp ↓] theorem syncHoldover_inv : Inv (syncHoldover s) ↔ Inv s := by dsimp only [syncHoldover]; simp
@[simp ↓] theorem switchRef_inv (r : Nat) : Inv (switchRef r s) ↔ Inv s := by dsimp only [switchRef]; simp
@[simp ↓] theorem forgetMarks_inv : Inv (forgetMarks s) ↔ Inv s := Iff.rfl
@[simp ↓] theorem loseRef_inv (r : Nat) : Inv (loseRef r s) ↔ Inv s := by dsimp only [loseRef]; simp

@[simp ↓] theorem reselectRef_inv (enters : Bool) : Inv (reselectRef enters s) ↔ Inv s := by
  dsimp only [reselectRef]; simp

@[simp ↓] theorem syncCfgWrite_inv (v : Word) : Inv (syncCfgWrite v s) ↔ Inv s := by dsimp only [syncCfgWrite]; simp
@[simp ↓] theorem refDark_inv (k : Nat) (on : Bool) : Inv (refDark k on s) ↔ Inv s := Iff.rfl
@[simp ↓] theorem presentRef_inv (k : Nat) : Inv (presentRef k s) ↔ Inv s := by dsimp only [presentRef]; simp

/-! ### Machine/Cxl.lean -/

@[simp ↓] theorem cxlPutPort_inv (p : Nat) (c : CxlPortSt) : Inv (cxlPutPort p c s) ↔ Inv s := Iff.rfl
@[simp ↓] theorem cxlErr_inv (p i : Nat) : Inv (cxlErr p i s) ↔ Inv s := Iff.rfl
@[simp ↓] theorem setDegr_inv (bit : Nat) (b : Bool) : Inv (setDegr bit b s) ↔ Inv s := Iff.rfl
@[simp ↓] theorem syncHost_inv : Inv (syncHost s) ↔ Inv s := Iff.rfl
@[simp ↓] theorem msixPut_inv (p k : Nat) (v : BitVec 32) : Inv (msixPut p k v s) ↔ Inv s := Iff.rfl
@[simp ↓] theorem msixSend_inv (p v : Nat) : Inv (msixSend p v s) ↔ Inv s := Iff.rfl
@[simp ↓] theorem raiseVec_inv (v : Nat) : Inv (raiseVec v s) ↔ Inv s := Iff.rfl
@[simp ↓] theorem raisePort_inv (p v : Nat) : Inv (raisePort p v s) ↔ Inv s := Iff.rfl
@[simp ↓] theorem msixDeliver_inv (p v : Nat) : Inv (msixDeliver p v s) ↔ Inv s := by dsimp only [msixDeliver]; simp
@[simp ↓] theorem msixUnmask_inv (p v : Nat) : Inv (msixUnmask p v s) ↔ Inv s := by dsimp only [msixUnmask]; simp

@[simp ↓] theorem mailboxDoorbell_inv (m : Nat) : Inv (mailboxDoorbell m s) ↔ Inv s := by
  dsimp only [mailboxDoorbell]; simp

@[simp ↓] theorem mbLost_inv (m : Nat) : Inv (mbLost m s) ↔ Inv s := Iff.rfl

@[simp ↓] theorem mbComplete_inv (m status : Nat) : Inv (mbComplete m status s) ↔ Inv s := by
  dsimp only [mbComplete]; simp

@[simp ↓] theorem hubPuts_inv (off : Nat) (ws : List Word) : Inv (hubPuts off ws s) ↔ Inv s := by
  unfold hubPuts
  exact foldl_snd_inv _ (fun _ _ => by simp) _ _

@[simp ↓] theorem mailboxRespond_inv (m status : Nat) (rsp : List Word) :
    Inv (mailboxRespond m status rsp s) ↔ Inv s := by
  dsimp only [mailboxRespond]; simp

@[simp ↓] theorem backInvalidate_inv (p l : Nat) (modOnly : Bool) : Inv (backInvalidate p l modOnly s) ↔ Inv s :=
  Iff.rfl

@[simp ↓] theorem deepSnoop_inv (write : Bool) (off : Nat) : Inv (deepSnoop write off s) ↔ Inv s := Iff.rfl

@[simp ↓] theorem memRead_inv (m : Master) (g : Agent) (a : Nat) : Inv (memRead m g a s).2 ↔ Inv s := by
  dsimp only [memRead]; (repeat' split) <;> simp

@[simp ↓] theorem memWrite_inv (m : Master) (g : Agent) (a : Nat) (v : Word) (hs : Inv s) :
    Inv (memWrite m g a v s).2 := by
  dsimp only [memWrite]; (repeat' split) <;> simp [hs]

@[simp ↓] theorem track_inv (p g : Nat) (modified : Bool) : Inv (track p g modified s) ↔ Inv s := by
  dsimp only [track]; simp

@[simp ↓] theorem deepPutByte_inv (b : Nat) (v : HByte) (hs : Inv s) : Inv (deepPutByte b v s) := by
  dsimp only [deepPutByte]; simp [hs]

@[simp ↓] theorem execHdmAccess_keepsInv (p : CxlPort) (offset : Nat) (acc : HostAcc) (hs : Inv s) :
    KeepsInv (execHdmAccess p offset acc s) := by
  unfold execHdmAccess
  refine awake_keepsInv hs ?_
  dsimp only
  refine keepsInv_ite (by simp [hs]) (keepsInv_ite ?_ ?_)
  · split <;> simp [hs]
  · split
    · split <;> simp [hs]
    · split
      · simp [hs]
      · refine keepsInv_next.mpr ((foldl_inv _ (by simp) _ _).mpr ?_)
        exact foldl_snd_keeps_inv (fun _ _ hp => deepPutByte_inv _ _ hp) _ (by simp [hs])

@[simp ↓] theorem writeBack_inv (c : CLine) : Inv (writeBack c s) ↔ Inv s := by dsimp only [writeBack]; simp
@[simp ↓] theorem cacheFill_inv (p l : Nat) : Inv (cacheFill p l s) ↔ Inv s := by dsimp only [cacheFill]; simp

@[simp ↓] theorem hostAccess_inv (w : Nat) (wr : Option Word) : Inv (hostAccess w wr s).2 ↔ Inv s := by
  dsimp only [hostAccess]; (repeat' split) <;> simp

@[simp ↓] theorem cacheFlush_inv (p : Nat) : Inv (cacheFlush p s) ↔ Inv s := by dsimp only [cacheFlush]; simp

@[simp ↓] theorem execCxlSyncRead_keepsInv (_m : Master) (hs : Inv s) : KeepsInv (execCxlSyncRead _m s) := by
  dsimp only [execCxlSyncRead]; simp [hs]

@[simp ↓] theorem syncWrite_inv : Inv (syncWrite s) ↔ Inv s := by dsimp only [syncWrite]; simp
@[simp ↓] theorem putWidth_inv (p w : Nat) : Inv (putWidth p w s) ↔ Inv s := by dsimp only [putWidth]; simp
@[simp ↓] theorem mbAbort_inv (p : Nat) : Inv (mbAbort p s) ↔ Inv s := by dsimp only [mbAbort]; simp
@[simp ↓] theorem poisonModified_inv (p : Nat) : Inv (poisonModified p s) ↔ Inv s := Iff.rfl
@[simp ↓] theorem portDown_inv (p : Nat) : Inv (portDown p s) ↔ Inv s := by dsimp only [portDown]; simp
@[simp ↓] theorem widthChange_inv (p w : Nat) : Inv (widthChange p w s) ↔ Inv s := by dsimp only [widthChange]; simp
@[simp ↓] theorem failover_inv (p : Nat) : Inv (failover p s) ↔ Inv s := by dsimp only [failover]; simp
@[simp ↓] theorem foNow_inv : Inv (foNow s) ↔ Inv s := by dsimp only [foNow]; simp
@[simp ↓] theorem roleBack_inv (p : Nat) : Inv (roleBack p s) ↔ Inv s := by dsimp only [roleBack]; simp
@[simp ↓] theorem foBack_inv : Inv (foBack s) ↔ Inv s := by dsimp only [foBack]; simp

@[simp ↓] theorem hdmWrite_inv (p : Nat) (isSize : Bool) (v : Word) : Inv (hdmWrite p isSize v s) ↔ Inv s := by
  dsimp only [hdmWrite]; simp

@[simp ↓] theorem hcapWrite_inv (p k w : Nat) (v : Word) : Inv (hcapWrite p k w v s) ↔ Inv s := by
  unfold hcapWrite
  dsimp only
  split
  · simp
  · split <;> simp

@[simp ↓] theorem cxlWrite_inv (o : Nat) (v : Word) : Inv (cxlWrite o v s) ↔ Inv s := by
  unfold cxlWrite
  dsimp only
  repeat' with_reducible apply inv_ite_iff
  all_goals simp

/-! ### Machine/Movers.lean -/

@[simp ↓] theorem mvPut_inv (c : Nat) (d : Option MoverSt) : Inv (mvPut c d s) ↔ Inv s := Iff.rfl

@[simp ↓] theorem mvCap_inv (c o : Nat) : Inv (mvCap c o s).2 ↔ Inv s := by
  unfold mvCap
  dsimp only
  split <;> simp

@[simp ↓] theorem mvCheck_inv (c : Nat) (d : MoverSt) : Inv (mvCheck c d s).2 ↔ Inv s := by dsimp only [mvCheck]; simp
@[simp ↓] theorem mvDone_inv (c : Nat) (irq : Bool) : Inv (mvDone c irq s) ↔ Inv s := by dsimp only [mvDone]; simp
@[simp ↓] theorem mvStop_inv (c : Nat) (code : BitVec 4) : Inv (mvStop c code s) ↔ Inv s := by dsimp only [mvStop]; simp

@[simp ↓] theorem mvStart_inv (c : Nat) : Inv (mvStart c s) ↔ Inv s := by
  unfold mvStart
  dsimp only
  repeat' split
  all_goals simp

@[simp ↓] theorem mvAbortMark_inv (c : Nat) : Inv (mvAbortMark c s) ↔ Inv s := by
  dsimp only [mvAbortMark]; split <;> simp

@[simp ↓] theorem mvCtlWrite_inv (c : Mover) (v : Word) : Inv (mvCtlWrite c v s) ↔ Inv s := by
  dsimp only [mvCtlWrite]; simp

@[simp ↓] theorem mvWrite_inv (o : Nat) (v : Word) : Inv (mvWrite o v s) ↔ Inv s := by dsimp only [mvWrite]; simp

/-! ### Machine/Net.lean -/

@[simp ↓] theorem netPut_inv (p : Nat) (x : PortSt) : Inv (netPut p x s) ↔ Inv s := Iff.rfl
@[simp ↓] theorem netCnt_inv (p o : Nat) : Inv (netCnt p o s) ↔ Inv s := Iff.rfl
@[simp ↓] theorem netErr_inv (p o : Nat) : Inv (netErr p o s) ↔ Inv s := Iff.rfl
@[simp ↓] theorem netLate_inv : Inv (netLate s) ↔ Inv s := by dsimp only [netLate]; simp

@[simp ↓] theorem pqWriteAll_inv (f : Nat) (ws : List Word) : Inv (pqWriteAll f ws s) ↔ Inv s := by
  induction ws generalizing s with
  | nil => rfl
  | cons w ws ih =>
    cases ws with
    | nil => simp [pqWriteAll]
    | cons v ws => exact ih.trans (pqPortWrite_inv ..)

@[simp ↓] theorem rxqPut_inv (p : Nat) (ws : List Word) : Inv (rxqPut p ws s).2 ↔ Inv s := by dsimp only [rxqPut]; simp
@[simp ↓] theorem lineTake_inv (p : Nat) (ws : List Word) (at' : Nat) : Inv (lineTake p ws at' s) ↔ Inv s := Iff.rfl

@[simp ↓] theorem netSend_inv (p : Nat) (f : SFrame) (timed : Bool) : Inv (netSend p f timed s) ↔ Inv s := by
  dsimp only [netSend]; simp

@[simp ↓] theorem txqPop_inv (p : Nat) : Inv (txqPop p s) ↔ Inv s := by dsimp only [txqPop]; split <;> simp

@[simp ↓] theorem txqConfirm_inv (p : Nat) (ws : List Word) : Inv (txqConfirm p ws s) ↔ Inv s := by
  dsimp only [txqConfirm]; simp

@[simp ↓] theorem txqSendHead_inv (p : Nat) (ws : List Word) : Inv (txqSendHead p ws s) ↔ Inv s := by
  dsimp only [txqSendHead]; simp

@[simp ↓] theorem txqDrop_inv (p : Nat) : Inv (txqDrop p s) ↔ Inv s := by dsimp only [txqDrop]; simp
@[simp ↓] theorem canRejoin_inv (p : Nat) : Inv (canRejoin p s) ↔ Inv s := by dsimp only [canRejoin]; simp

@[simp ↓] theorem schedAdd_inv (p : Nat) (t : Time72) (ws : List Word) : Inv (schedAdd p t ws s) ↔ Inv s := by
  dsimp only [schedAdd]; simp

theorem frameRecords_inv (p : Nat) (t : Time72) (w : Nat → Option Word) {clr : Nat → State → State} (k o : Nat)
    (hc : ∀ o u, Inv u → Inv (clr o u)) (hs : Inv s) : Inv (frameRecords p t w clr k o s) := by
  induction k generalizing o s with
  | zero => exact hs
  | succ k ih =>
    unfold frameRecords
    dsimp only
    split
    · exact hs
    · rename_i r _
      have hu : Inv (if (w r.2.1).isSome then clr r.2.1 s else s) := inv_ite (hc _ _ hs) hs
      split
      · exact ih _ ((schedAdd_inv ..).mpr hu)
      · exact hu

@[simp ↓] theorem frameFill_inv (p plot ofs : Nat) (m : Cl) (other : Option Cl) (hs : Inv s) :
    Inv (frameFill p plot ofs m other s) := by
  unfold frameFill
  extract_lets at' own
  have ho : Inv own.2 := (plotRead_inv ..).mpr hs
  refine inv_ite ho ?_
  split
  · rename_i r t heq
    have ht : Inv t := (inv_of_eq heq).mpr ((ioWords_inv ..).mpr ho)
    extract_lets k w span ws clr
    have hw : Inv ws.2 := by
      simp [ws, ht]
    refine inv_ite hw (frameRecords_inv _ _ _ _ _ (fun o u hu => ?_) hw)
    exact foldl_keeps_inv (fun _ _ hx => memPut_inv _ _ hx) _ hu
  · rename_i heq
    exact (inv_of_eq heq).mpr ((ioWords_inv ..).mpr ho)

@[simp ↓] theorem netCommit_inv (n : Cl) (src : FillSrc) (hs : Inv s) : Inv (netCommit n src s) := by
  unfold netCommit
  refine foldl_keeps_inv (fun t p ht => ?_) _ hs
  dsimp only
  refine inv_ite ?_ ht
  split <;> simp [ht]

@[simp ↓] theorem mdioWrite_inv (mac : Nat) (v : Word) : Inv (mdioWrite mac v s) ↔ Inv s := by
  dsimp only [mdioWrite]; simp

@[simp ↓] theorem gateSync_inv (mac : Nat) : Inv (gateSync mac s) ↔ Inv s := Iff.rfl
@[simp ↓] theorem gclRefuse_inv (mac : Nat) : Inv (gclRefuse mac s) ↔ Inv s := by dsimp only [gclRefuse]; simp
@[simp ↓] theorem gclSwap_inv (mac : Nat) : Inv (gclSwap mac s) ↔ Inv s := by dsimp only [gclSwap]; simp

@[simp ↓] theorem gclEnable_inv (mac : Nat) (en : Bool) : Inv (gclEnable mac en s) ↔ Inv s := by
  dsimp only [gclEnable]; simp

@[simp ↓] theorem gclCtlWrite_inv (mac : Nat) (v : Word) : Inv (gclCtlWrite mac v s) ↔ Inv s := by
  dsimp only [gclCtlWrite]; simp

@[simp ↓] theorem cmPut_inv (q : Nat) (x : CmacSt) : Inv (cmPut q x s) ↔ Inv s := Iff.rfl
@[simp ↓] theorem keyWrite_inv (q slot w : Nat) (v : Word) : Inv (keyWrite q slot w v s) ↔ Inv s := Iff.rfl
@[simp ↓] theorem msgWrite_inv (q : Nat) (v : Word) : Inv (msgWrite q v s) ↔ Inv s := by dsimp only [msgWrite]; simp

@[simp ↓] theorem jobStart_inv (q : Nat) (job : Word) (auth : Bool) : Inv (jobStart q job auth s) ↔ Inv s := by
  dsimp only [jobStart]; simp

@[simp ↓] theorem netCfgWrite_inv (p : Nat) (v : Word) : Inv (netCfgWrite p v s) ↔ Inv s := by
  dsimp only [netCfgWrite]; simp

@[simp ↓] theorem netQWrite_inv (p : Nat) (v : Word) : Inv (netQWrite p v s) ↔ Inv s := by dsimp only [netQWrite]; simp

@[simp ↓] theorem netTrigWrite_inv (p : Port) (v : Word) : Inv (netTrigWrite p v s) ↔ Inv s := by
  dsimp only [netTrigWrite]; simp

@[simp ↓] theorem netFgWrite_inv (p : Nat) (v : Word) : Inv (netFgWrite p v s) ↔ Inv s := Iff.rfl

@[simp ↓] theorem netWrite_inv (o : Nat) (v : Word) : Inv (netWrite o v s) ↔ Inv s := by
  unfold netWrite
  dsimp only
  repeat' with_reducible apply inv_ite_iff
  all_goals simp

/-! ### Machine/Vector.lean -/

@[simp ↓] theorem recordExc_inv (n : Cl) (e : ExcRec) : Inv (recordExc n e s) ↔ Inv s := by dsimp only [recordExc]; simp
@[simp ↓] theorem vecRaise_inv (n : Cl) (e : ExcRec) : Inv (vecRaise n e s) ↔ Inv s := by dsimp only [vecRaise]; simp
@[simp ↓] theorem putGroup_inv (n : Cl) (g : Group) : Inv (putGroup n g s) ↔ Inv s := Iff.rfl

@[simp ↓] theorem precise_inv (n : Cl) (gid : Nat) (e : ExcRec) : Inv (precise n gid e s) ↔ Inv s := by
  dsimp only [precise]; simp

@[simp ↓] theorem openRefuse_inv (n : Cl) (x : Strm) (cause : Nat) (a : Int) :
    Inv (openRefuse n x cause a s) ↔ Inv s := by
  dsimp only [openRefuse]; (repeat' split) <;> simp

@[simp ↓] theorem setSettle_inv (n : Cl) : Inv (setSettle n s) ↔ Inv s := Iff.rfl

@[simp ↓] theorem setGroupFault_inv (n : Cl) (g : Group) (code : Nat) : Inv (setGroupFault n g code s) ↔ Inv s :=
  Iff.rfl

/-! A run of a group's orders reads and notes, and keeps the queue of the state that it carries. -/

@[simp ↓] theorem Run.fail_inv (g : Group) (cause pos role elem : Nat) (addr : Int) (r : Run) :
    Inv (Run.fail g cause pos role elem addr r).s ↔ Inv r.s := by
  rfl

@[simp ↓] theorem Run.note_inv (g : Group) (pos elem : Nat) (fl : Fl) (r : Run) :
    Inv (Run.note g pos elem fl r).s ↔ Inv r.s := by
  unfold Run.note
  extract_lets en trap r1
  split <;> rfl

@[simp ↓] theorem overlapRead_inv (g : Group) (x : Strm) (a elem : Nat) (v : Word) (r : Run) :
    Inv (overlapRead g x a elem v r).2.s ↔ Inv r.s := by
  unfold overlapRead
  dsimp only
  split
  · split <;> simp
  · rfl

@[simp ↓] theorem readWord_inv (n : Cl) (g : Group) (x : Strm) (key : Option Nat) (a elem : Nat) (r : Run) :
    Inv (readWord n g x key a elem r).2.2.s ↔ Inv r.s := by
  unfold readWord
  split
  · rfl
  · have h := agentRead_inv (s := r.s) (.stream n) a
    generalize agentRead (.stream n) a r.s = p at h
    obtain ⟨acc, t⟩ := p
    cases acc <;> simp [h]

@[simp ↓] theorem readAt_inv (n : Cl) (g : Group) (x : Strm) (key : Option Nat) (a : Int) (elem : Nat) (r : Run) :
    Inv (readAt n g x key a elem r).2.s ↔ Inv r.s := by
  unfold readAt
  dsimp only
  split <;> simp

@[simp ↓] theorem readPlain_inv (n : Cl) (g : Group) (x : Strm) (j elem : Nat) (r : Run) :
    Inv (readPlain n g x j elem r).2.s ↔ Inv r.s := by
  unfold readPlain
  dsimp only
  repeat' split
  all_goals simp

@[simp ↓] theorem indexAddr_inv (n : Cl) (g : Group) (x : Strm) (j elem : Nat) (r : Run) :
    Inv (indexAddr n g x j elem r).2.s ↔ Inv r.s := by
  unfold indexAddr
  extract_lets ix
  have h := readPlain_inv n g ix j elem r
  generalize readPlain n g ix j elem r = p at h
  obtain ⟨v, r1⟩ := p
  dsimp only at h ⊢
  split_ifs <;> exact h

@[simp ↓] theorem readElem_inv (n : Cl) (g : Group) (x : Strm) (j elem : Nat) (r : Run) :
    Inv (readElem n g x j elem r).2.s ↔ Inv r.s := by
  unfold readElem
  split
  · have h := indexAddr_inv n g x j elem r
    generalize indexAddr n g x j elem r = p at h
    obtain ⟨_ | a, r1⟩ := p
    · exact h
    · exact (readAt_inv ..).trans h
  · simp

@[simp ↓] theorem operand_inv (n : Cl) (g : Group) (ss : List Strm) (q : QOrder) (j i : Nat) (r : Run) :
    Inv (operand n g ss q j i r).2.s ↔ Inv r.s := by
  unfold operand
  repeat' split
  all_goals simp

@[simp ↓] theorem maskBit_inv (n : Cl) (g : Group) (ss : List Strm) (q : QOrder) (i : Nat) (r : Run) :
    Inv (maskBit n g ss q i r).2.s ↔ Inv r.s := by
  unfold maskBit
  dsimp only
  repeat' split
  all_goals simp

@[simp ↓] theorem writeElem_inv (n : Cl) (g : Group) (x : Strm) (j elem : Nat) (v : DWord) (r : Run) :
    Inv (writeElem n g x j elem v r).2.s ↔ Inv r.s := by
  unfold writeElem
  extract_lets go
  split
  · have h := indexAddr_inv n g x j elem r
    generalize indexAddr n g x j elem r = p at h
    obtain ⟨_ | a, r1⟩ := p <;> exact h
  · rfl

@[simp ↓] theorem Acc1.put_inv (n : Cl) (g : Group) (dst : Option Strm) (j i : Nat) (v : DWord) (a : Acc1) :
    Inv (Acc1.put n g dst j i v a).r.s ↔ Inv a.r.s := by
  unfold Acc1.put
  dsimp only
  repeat' split
  all_goals simp

@[simp ↓] theorem runIntp_inv (n : Cl) (g : Group) (ss : List Strm) (q : QOrder) (i : Nat) (x : DWord) (r : Run) :
    Inv (runIntp n g ss q i x r).2.s ↔ Inv r.s := by
  unfold runIntp
  dsimp only
  repeat' split
  all_goals simp

@[simp ↓] theorem runElem_inv (n : Cl) (g : Group) (ss : List Strm) (q : QOrder) (k : DWord) (acc : Acc1) (i : Nat) :
    Inv (runElem n g ss q k acc i).r.s ↔ Inv acc.r.s := by
  unfold runElem
  dsimp only
  repeat' split
  all_goals simp

@[simp ↓] theorem runExpd_inv (n : Cl) (g : Group) (ss : List Strm) (q : QOrder) (acc : Acc1) (i : Nat) :
    Inv (runExpd n g ss q acc i).r.s ↔ Inv acc.r.s := by
  unfold runExpd
  dsimp only
  repeat' split
  all_goals simp

@[simp ↓] theorem runCmpr_inv (n : Cl) (g : Group) (ss : List Strm) (q : QOrder) (acc : Acc1) (i : Nat) :
    Inv (runCmpr n g ss q acc i).r.s ↔ Inv acc.r.s := by
  unfold runCmpr
  dsimp only
  repeat' split
  all_goals simp

@[simp ↓] theorem runBit_inv (n : Cl) (g : Group) (ss : List Strm) (q : QOrder) (acc : Acc1) (i : Nat) :
    Inv (runBit n g ss q acc i).r.s ↔ Inv acc.r.s := by
  unfold runBit
  dsimp only
  split <;> simp

@[simp ↓] theorem groupAsks_inv (n : Cl) (num : Nat) (g : Group) : Inv (groupAsks n num g s) ↔ Inv s := by
  unfold groupAsks
  refine foldl_inv _ (fun t x => ?_) _ _
  split <;> simp

@[simp ↓] theorem openReads_inv (n : Cl) (g : Group) (r : Run) : Inv (openReads n g r).1.s ↔ Inv r.s := by
  unfold openReads
  refine foldl_on_inv (fun p : Run × SMap (Option Word) => p.1.s) (fun p x => ?_) _ _
  exact foldl_on_inv (fun p : Run × SMap (Option Word) => p.1.s) (fun u k => readWord_inv ..) _ _

@[simp ↓] theorem groupBegin_inv (n : Cl) (g : Group) (red : Bool) : Inv (groupBegin n g red s) ↔ Inv s := by
  unfold groupBegin
  extract_lets num g0 o g1 u t
  have ht : Inv t ↔ Inv s := by
    simp [t, u, o]
  clear_value t
  refine inv_ite_iff (by simp) (inv_ite_iff (by simp) (inv_ite_iff (by simp) ?_))
  split
  · rfl
  · simp
  · refine inv_ite_iff Iff.rfl ?_
    split <;> simp [ht]

@[simp ↓] theorem microNote_inv (n : Cl) (parity : Bool) (a : BitVec 13) : Inv (microNote n parity a s) ↔ Inv s := by
  dsimp only [microNote]; simp

@[simp ↓] theorem microError_inv (n : Cl) (g : Group) (parity : Bool) (a : BitVec 13) :
    Inv (microError n g parity a s) ↔ Inv s := by
  dsimp only [microError]; simp

@[simp ↓] theorem microSample_inv : Inv (microSample s) ↔ Inv s := Iff.rfl

@[simp ↓] theorem microStep_inv (n : Cl) (half : Option Bool) (x : MicroCtx) (cond : Nat → Bool) :
    Inv (microStep n half x cond s).2.2 ↔ Inv s := by
  unfold microStep
  dsimp only
  split
  · rfl
  · split
    · rfl
    · split <;> simp

@[simp ↓] theorem microWords_inv (n : Cl) (gid k : Nat) : Inv (microWords n gid k s) ↔ Inv s := by
  induction k generalizing s with
  | zero => rfl
  | succ k ih =>
    unfold microWords
    split
    · rfl
    · split
      · split
        · rfl
        · dsimp only
          split <;> simp [ih]
      · rfl

@[simp ↓] theorem microRun_inv (n : Cl) (gid : Nat) : Inv (microRun n gid s) ↔ Inv s := by
  dsimp only [microRun]; split <;> simp

@[simp ↓] theorem auxWords_inv (n : Cl) (half : Option Bool) (k : Nat) (x : MicroCtx) :
    Inv (auxWords n half k x s).2 ↔ Inv s := by
  induction k generalizing x s with
  | zero => rfl
  | succ k ih =>
    unfold auxWords
    split
    · rfl
    · dsimp only
      split <;> simp [ih]

@[simp ↓] theorem auxError_inv (n : Cl) (k : Nat) (p : Bool × BitVec 13) : Inv (auxError n k p s) ↔ Inv s := by
  dsimp only [auxError]; simp

@[simp ↓] theorem startCount_inv (n : Cl) (x : Group) (t : State) : Inv (startCount n x t) ↔ Inv t := by
  dsimp only [startCount]; simp

theorem drainOne_inv {n : Cl} {g : Group} {w : WWord} (hs : Inv s) {p : Bool × State} (h : drainOne n g w s = some p)
    : Inv p.2 := by
  unfold drainOne at h
  extract_lets last g1 by' rival s1 at h
  have h1 : Inv s1 := by
    simp [s1, hs]
  split at h
  · cases h
    simp [h1]
  · have ht := agentWrite_inv (.stream n) w.addr w.word h1
    generalize agentWrite (.stream n) w.addr w.word s1 = r at h ht
    obtain ⟨acc, t⟩ := r
    replace ht : Inv t := ht
    cases acc <;> cases h <;> simp [ht]

@[simp ↓] theorem drainWords_inv (n : Cl) (gid : Nat) (ws : List WWord) (as : List Nat) (hs : Inv s) :
    Inv (drainWords n gid ws as s).2 := by
  induction ws generalizing as s with
  | nil => exact hs
  | cons w ws ih =>
    unfold drainWords
    split
    · exact hs
    · split
      · exact hs
      · exact ih _ (drainOne_inv hs ‹_›)

@[simp ↓] theorem drainWord_inv (n : Cl) (gid : Nat) (hs : Inv s) : Inv (drainWord n gid s) := by
  dsimp only [drainWord]; split <;> simp [hs]

@[simp ↓] theorem drainTo_inv (n : Cl) (gid : Nat) (e : ExcRec) (keep f : Nat) (hs : Inv s) :
    Inv (drainTo n gid e keep f s) := by
  induction f generalizing s with
  | zero => exact hs
  | succ f ih =>
    unfold drainTo
    split
    · exact hs
    · exact inv_ite (ih (drainWord_inv _ _ hs)) hs

@[simp ↓] theorem settleExc_inv (n : Cl) (gid : Nat) (e : ExcRec) (hs : Inv s) : Inv (settleExc n gid e s) := by
  dsimp only [settleExc]; (repeat' split) <;> simp [hs]

theorem runTerm_inv (n : Cl) (g : Group) (ss : List Strm) (q : QOrder) (acc : Run × List (Option Term × Bool))
    (i : Nat) : Inv (runTerm n g ss q acc i).1.s ↔ Inv acc.1.s := by
  unfold runTerm
  dsimp only
  split
  · split <;> simp
  · simp

theorem runReduce_inv (n : Cl) (g : Group) (ss : List Strm) (q : QOrder) (k : DWord) (r : Run) :
    Inv (runReduce n g ss q k r).r.s ↔ Inv r.s := by
  unfold runReduce
  dsimp only
  refine (foldl_on_inv (fun a : Acc1 => a.r.s) (fun a p => ?_) _ _).trans
    (foldl_on_inv (fun p : Run × List (Option Term × Bool) => p.1.s) (fun _ _ => runTerm_inv ..) _ _)
  split
  · simp
  · exact (Acc1.put_inv ..).trans (foldl_on_inv (fun u : Run => u.s) (fun _ _ => Run.note_inv ..) _ _)

theorem runOrder_inv (n : Cl) (g : Group) (q : QOrder) (r : Run) : Inv (runOrder n g q r).r.s ↔ Inv r.s := by
  unfold runOrder
  extract_lets ss k start close v a c m cnt
  clear_value v
  split
  · exact runReduce_inv ..
  · split
    iterate 3
      · split <;> exact foldl_on_inv (fun a : Acc1 => a.r.s) (fun _ _ => runBit_inv ..) _ _
    · exact Acc1.put_inv ..
    · exact foldl_on_inv (fun a : Acc1 => a.r.s) (fun _ _ => runCmpr_inv ..) _ _
    · exact foldl_on_inv (fun a : Acc1 => a.r.s) (fun _ _ => runExpd_inv ..) _ _
    · exact foldl_on_inv (fun a : Acc1 => a.r.s) (fun _ _ => runElem_inv ..) _ _

@[simp ↓] theorem runOp_inv (v : VOp) (n : Cl) (gid : Nat) {s0 : State} (h0 : Inv s0) : Inv (runOp v n gid s0) := by
  unfold runOp
  extract_lets s
  have hs : Inv s := by
    simp [s, h0]
  clear_value s
  split
  · exact hs
  · refine inv_ite hs ?_
    split
    · exact hs
    · extract_lets g0 res g1 t
      have ht : Inv t := by
        simp [t, res, runOrder_inv, hs]
      clear_value t
      refine inv_ite hs (inv_ite hs ?_)
      split
      · split <;> simp [ht]
      · exact ht

@[simp ↓] theorem orderEnter_inv (n : Cl) (q : QOrder) : Inv (orderEnter n q s) ↔ Inv s := by
  dsimp only [orderEnter]; (repeat' split) <;> simp

@[simp ↓] theorem execGroupComplete_keepsInv (n : Cl) (g : Nat) {s0 : State} (h0 : Inv s0) :
    KeepsInv (execGroupComplete n g s0) := by
  unfold execGroupComplete
  extract_lets s
  have hs : Inv s := (microRun_inv ..).mpr h0
  clear_value s
  refine onIsland_keepsInv h0 ?_
  split
  · simp [hs]
  · rename_i x _
    refine keepsInv_ite (by simp [hs]) ?_
    extract_lets t
    have ht : Inv t := foldl_keeps_inv (fun _ _ hu => drainWord_inv _ _ hu) _ hs
    clear_value t
    split
    · simp [ht]
    · refine keepsInv_ite (by simp [ht]) ?_
      dsimp only
      split <;> simp [ht]

/-! ### Machine/Sets.lean -/

@[simp ↓] theorem buildClose_inv (n : Cl) (k : Nat) : Inv (buildClose n k s) ↔ Inv s := by
  dsimp only [buildClose]; split <;> simp

@[simp ↓] theorem setBind_inv (n : Cl) (k : Set8) : Inv (setBind n k s) ↔ Inv s := by dsimp only [setBind]; simp

@[simp ↓] theorem setCtlWrite_inv (n : Cl) (k : Set8) (v : Word) : Inv (setCtlWrite n k v s) ↔ Inv s := by
  unfold setCtlWrite
  dsimp only
  refine inv_ite_iff (by simp) (inv_ite_iff (by simp) ?_)
  simp

@[simp ↓] theorem orderAppend_inv (n : Cl) (o : Order96) : Inv (orderAppend n o s) ↔ Inv s := by
  dsimp only [orderAppend]; split <;> simp

@[simp ↓] theorem preopenStream_inv (n : Cl) (b : Nat) (g : Group) (starts : Bool) (p : PreOpenSt × State) (x : Strm)
    : Inv (preopenStream n b g starts p x).2 ↔ Inv p.2 := by
  unfold preopenStream
  extract_lets num note q
  have hn (cause : Nat) (a : Int) (q : PreOpenSt × State) : Inv (note cause a q).2 ↔ Inv q.2 := by
    dsimp only [note]
    split <;> rfl
  split
  · exact hn ..
  · split
    · rfl
    · split
      · exact hn ..
      · rfl
      · split
        · rfl
        · refine foldl_snd_inv _ (fun u k => ?_) _ _
          have h := agentRead_inv (s := u.2) (.stream n) (fillAddr x k)
          generalize agentRead (.stream n) (fillAddr x k) u.2 = r at h ⊢
          obtain ⟨acc, t⟩ := r
          cases acc <;> simp [hn] <;> exact h

@[simp ↓] theorem preOpenRun_inv (n : Cl) (k : Nat) : Inv (preOpenRun n k s) ↔ Inv s := by
  unfold preOpenRun
  dsimp only
  rw [modCl_inv]
  refine (foldl_snd_inv _ (fun p g => ?_) _ _).trans (putCl_inv ..)
  split
  · rfl
  · exact foldl_snd_inv _ (fun p x => preopenStream_inv ..) _ _

@[simp ↓] theorem fireFault_inv (n : Cl) (p : PreOpenSt) (g : Nat × Group) : Inv (fireFault n p g s) ↔ Inv s := by
  dsimp only [fireFault]; (repeat' split) <;> simp

@[simp ↓] theorem setIssue_inv (n : Cl) (gs : List (Nat × Group)) (pre : Option PreOpenSt) :
    Inv (setIssue n gs pre s) ↔ Inv s := by
  dsimp only [setIssue]; split <;> simp

@[simp ↓] theorem auxDone_inv (n : Cl) (x : AuxRun) : Inv (auxDone n x s) ↔ Inv s := by
  dsimp only [auxDone]; split <;> simp

@[simp ↓] theorem auxStep_inv (n : Cl) (kind : Nat) : Inv (auxStep n kind s) ↔ Inv s := by
  dsimp only [auxStep]; (repeat' split) <;> simp

@[simp ↓] theorem auxAll_inv (n : Cl) : Inv (auxAll n s) ↔ Inv s := by dsimp only [auxAll]; simp
@[simp ↓] theorem auxStart_inv (n : Cl) (x : AuxRun) : Inv (auxStart n x s) ↔ Inv s := by dsimp only [auxStart]; simp
@[simp ↓] theorem sdescCmd_inv (n : Cl) (k j : Nat) : Inv (sdescCmd n k j s) ↔ Inv s := by dsimp only [sdescCmd]; simp
@[simp ↓] theorem setFire_inv (n : Cl) (k : Nat) : Inv (setFire n k s) ↔ Inv s := by dsimp only [setFire]; simp
@[simp ↓] theorem confRun_inv (n : Cl) (off : Nat) : Inv (confRun n off s) ↔ Inv s := by dsimp only [confRun]; simp
@[simp ↓] theorem confRunAll_inv (n : Cl) : Inv (confRunAll n s) ↔ Inv s := by dsimp only [confRunAll]; simp

@[simp ↓] theorem confCtlWrite_inv (n : Cl) (v : Word) : Inv (confCtlWrite n v s) ↔ Inv s := by
  dsimp only [confCtlWrite]; simp

@[simp ↓] theorem clashTake_inv (hi : Nat) (n : Cl) : Inv (clashTake hi n s) ↔ Inv s := by dsimp only [clashTake]; simp
@[simp ↓] theorem clashFrame_inv : Inv (clashFrame s) ↔ Inv s := by dsimp only [clashFrame]; simp
@[simp ↓] theorem clashRead_inv (n : Cl) : Inv (clashRead n s) ↔ Inv s := by dsimp only [clashRead]; simp

@[simp ↓] theorem ioPairRead_inv (n : Cl) (off : Nat) (s0 : State) : Inv (ioPairRead n off s0) ↔ Inv s0 := by
  dsimp only [ioPairRead]; simp

/-! ### Machine/Params.lean -/

@[simp ↓] theorem nfpSend_inv (path : NfpPath) (ws : List Word) : Inv (nfpSend path ws s) ↔ Inv s := by
  dsimp only [nfpSend]; split <;> simp

@[simp ↓] theorem nfpAnswer_inv (path : NfpPath) (ws : List Word) : Inv (nfpAnswer path ws s) ↔ Inv s := by
  dsimp only [nfpAnswer]; split <;> simp

@[simp ↓] theorem forget_inv (req : Nat) : Inv (forget req s) ↔ Inv s := Iff.rfl

@[simp ↓] theorem answerReq_inv (req status ty : Nat) (data : List Word) :
    Inv (answerReq req status ty data s) ↔ Inv s := by
  dsimp only [answerReq]; split <;> simp

@[simp ↓] theorem pqLevel_inv (n : Cl) : Inv (pqLevel n s) ↔ Inv s := by dsimp only [pqLevel]; simp
@[simp ↓] theorem pqPush_inv (n : Cl) (e : PEntry) : Inv (pqPush n e s) ↔ Inv s := by dsimp only [pqPush]; simp

@[simp ↓] theorem execOdPqPush_keepsInv (n : Cl) (hs : Inv s) : KeepsInv (execOdPqPush n s) := by
  dsimp only [execOdPqPush]; simp [hs]

@[simp ↓] theorem execOdPqCapW3Write_keepsInv (n : Cl) (v : Word) (hs : Inv s) :
    KeepsInv (execOdPqCapW3Write n v s) := by
  dsimp only [execOdPqCapW3Write]; split <;> simp [hs]

@[simp ↓] theorem homeWrite_inv (n : Cl) (off : Nat) (v : Word) (hs : Inv s) : Inv (homeWrite n off v s) := by
  dsimp only [homeWrite]; simp [hs]

@[simp ↓] theorem paramApply_inv (n : Cl) (hs : Inv s) : Inv (paramApply n s) := by
  unfold paramApply
  split
  · exact hs
  · extract_lets offs s1 s2 s3 s4 old s5 s6
    have h2 : Inv s2 :=
      (wrote_inv ..).mpr (foldl_keeps_inv (fun _ _ ht => homeWrite_inv _ _ _ ht) _ (by simp [s1, hs]))
    have h5 : Inv s5 := by
      dsimp only [s5, s4, s3]
      split <;> simp [h2]
    simp [s6, h5]

@[simp ↓] theorem putBacklog_inv (n : Cl) (b : List PEntry) : Inv (putBacklog n b s) ↔ Inv s := Iff.rfl

@[simp ↓] theorem serverPush_inv (n : Cl) (e : PEntry) : Inv (serverPush n e s) ↔ Inv s := by
  dsimp only [serverPush]; simp

@[simp ↓] theorem serverOffer_inv (n : Cl) (e : PEntry) : Inv (serverOffer n e s).2 ↔ Inv s := by
  dsimp only [serverOffer]; simp

@[simp ↓] theorem serverEntry_inv (n : Cl) (e : PEntry) : Inv (serverEntry n e s).2 ↔ Inv s := by
  dsimp only [serverEntry]; split <;> simp

@[simp ↓] theorem serverEntries_inv (n : Cl) (es : List PEntry) : Inv (serverEntries n es s).2 ↔ Inv s := by
  dsimp only [serverEntries]; simp

/-! ### Machine/Ucode.lean -/

@[simp ↓] theorem ucSetValid_inv (n : Cl) (b v : Bool) : Inv (ucSetValid n b v s) ↔ Inv s := Iff.rfl
@[simp ↓] theorem ucRefuse_inv (n : Cl) : Inv (ucRefuse n s) ↔ Inv s := Iff.rfl

@[simp ↓] theorem ucSwitchNow_inv (n : Cl) (late : Bool) : Inv (ucSwitchNow n late s) ↔ Inv s := by
  dsimp only [ucSwitchNow]; simp

@[simp ↓] theorem ucAtTick_inv (n : Cl) (k : Nat) : Inv (ucAtTick n k s) ↔ Inv s := by
  dsimp only [ucAtTick]; split <;> simp

@[simp ↓] theorem execUcodeSwitch_keepsInv (n : Cl) (hs : Inv s) : KeepsInv (execUcodeSwitch n s) := by
  dsimp only [execUcodeSwitch]; simp [hs]

@[simp ↓] theorem execUcodeCancel_keepsInv (n : Cl) (hs : Inv s) : KeepsInv (execUcodeCancel n s) := by
  dsimp only [execUcodeCancel]; simp [hs]

@[simp ↓] theorem ucOpen_inv (n : Cl) : Inv (ucOpen n s) ↔ Inv s := by dsimp only [ucOpen]; simp

@[simp ↓] theorem regionPatch_inv (n : Cl) (hs : Inv s) : Inv (regionPatch n s) := by
  unfold regionPatch
  split
  · extract_lets a put
    have hp (b : Bool) {t : State} (ht : Inv t) : Inv (put b t) :=
      foldl_keeps_inv (fun _ _ hu => foldl_keeps_inv (fun _ _ hv => deepPut_inv _ _ hv) _ hu) _ ht
    exact hp _ (hp _ (deepDrop_inv _ _ hs))
  · exact hs

@[simp ↓] theorem ucSeal_inv (n : Cl) (hs : Inv s) : Inv (ucSeal n s) := by dsimp only [ucSeal]; simp [hs]
@[simp ↓] theorem ucLoad_inv (n : Cl) (w : BitVec 144) : Inv (ucLoad n w s) ↔ Inv s := by dsimp only [ucLoad]; simp

@[simp ↓] theorem ucLoadAt_inv (n : Cl) (addr : Word) (w : BitVec 144) : Inv (ucLoadAt n addr w s) ↔ Inv s := by
  dsimp only [ucLoadAt]; simp

@[simp ↓] theorem execUcodeLdDataW5Write_keepsInv (n : Cl) (v : Word) (hs : Inv s) :
    KeepsInv (execUcodeLdDataW5Write n v s) := by
  dsimp only [execUcodeLdDataW5Write]; simp [hs]

/-! ### Machine/Spm.lean -/

@[simp ↓] theorem domSwitch_inv (d : Nat) (target : BitVec 2) (who : Nat) : Inv (domSwitch d target who s) ↔ Inv s := by
  dsimp only [domSwitch]; simp

@[simp ↓] theorem hubClear_inv (lo hi : Nat) : Inv (hubClear lo hi s) ↔ Inv s := Iff.rfl

@[simp ↓] theorem spmPutState_inv (n : Cl) (k : Nat) : Inv (spmPutState n k s) ↔ Inv s := by
  dsimp only [spmPutState]; simp

@[simp ↓] theorem putSpareSlot_inv (t k v : Nat) : Inv (putSpareSlot t k v s) ↔ Inv s := by
  dsimp only [putSpareSlot]; simp

@[simp ↓] theorem syncSpm_inv : Inv (syncSpm s) ↔ Inv s := by dsimp only [syncSpm]; simp
@[simp ↓] theorem mirrorStart_inv (n : Cl) : Inv (mirrorStart n s) ↔ Inv s := by dsimp only [mirrorStart]; simp

@[simp ↓] theorem journalAppend_inv (n : Cl) (hs : Inv s) : Inv (journalAppend n s) := by
  unfold journalAppend
  extract_lets c clean ws size r kept gone drop fits drop' lost base s1 s2
  have h1 : Inv s1 := inv_ite (foldl_snd_keeps_inv (fun _ _ hp => deepPut_inv _ _ hp) _ hs) hs
  simp [clean, s2, h1, hs]

@[simp ↓] theorem restoreWord_inv (n : Cl) (mofs : Nat) (p : Nat × Word) (hs : Inv s) :
    Inv (restoreWord n mofs p s) := by
  dsimp only [restoreWord]; simp [hs]

@[simp ↓] theorem restoreClear_inv (n : Cl) (plots : List Nat) (hs : Inv s) : Inv (restoreClear n plots s) :=
  foldl_keeps_inv (fun _ _ ht => memDrop_inv _ _ ht) _ (memDrop_inv _ _ hs)

@[simp ↓] theorem moveStores_inv (n : Cl) (old d : Nat) (hs : Inv s) : Inv (moveStores n old d s) := by
  dsimp only [moveStores]; simp [hs]

@[simp ↓] theorem engineNext_inv (t : Nat) : Inv (engineNext t s) ↔ Inv s := by
  dsimp only [engineNext]; (repeat' split) <;> simp

@[simp ↓] theorem declareFailed_inv (n : Cl) (hs : Inv s) : Inv (declareFailed n s) := by
  dsimp only [declareFailed]; (repeat' split) <;> simp [hs]

@[simp ↓] theorem restoreDone_inv (n : Cl) (hs : Inv s) : Inv (restoreDone n s) := by
  unfold restoreDone
  extract_lets c mofs base all s' img t u
  have ht : Inv t := by
    simp [t, s', hs]
  have hu : Inv u :=
    inv_ite (foldl_keeps_inv (fun _ _ hv => restoreWord_inv _ _ _ hv) _ (restoreClear_inv _ _ ht)) ht
  simp [hu]

@[simp ↓] theorem replayRecord_inv (n : Cl) (r : RingRec) (hs : Inv s) : Inv (replayRecord n r s) := by
  unfold replayRecord
  extract_lets base size at' w s0 s1 s2 s3
  have h1 : Inv s1 := by
    simp [s1, s0, hs]
  have h2 : Inv s2 := foldl_keeps_inv (fun _ _ ht => memPut_inv _ _ ht) _ h1
  have h3 : Inv s3 :=
    foldl_keeps_inv (fun _ _ ht => foldl_keeps_inv (fun _ _ hu => memPut_inv _ _ hu) _ ht) _ h2
  simp [h3]

@[simp ↓] theorem pairBack_inv (n : Cl) : Inv (pairBack n s) ↔ Inv s := Iff.rfl

@[simp ↓] theorem pairRejoin_inv (hs : Inv s) : Inv (pairRejoin s) := by
  unfold pairRejoin
  refine foldl_keeps_inv (fun t n ht => inv_ite ?_ ht) _ hs
  extract_lets m img old t1 t2
  have ho : Inv old := foldl_keeps_inv (fun _ _ hu => memDrop_inv _ _ hu) _ ht
  simp [t2, t1, ho]

@[simp ↓] theorem firstRelease_inv (n : Cl) : Inv (firstRelease n s) ↔ Inv s := by
  dsimp only [firstRelease]; split <;> simp

@[simp ↓] theorem swapGo_inv (n : Cl) : Inv (swapGo n s) ↔ Inv s := by dsimp only [swapGo]; split <;> simp

@[simp ↓] theorem swapAtTick_inv (n : Cl) (hs : Inv s) : Inv (swapAtTick n s) := by
  unfold swapAtTick
  refine inv_ite hs (inv_ite (by simp [hs]) ?_)
  extract_lets t k slot old oldSlot s1 c s2 s3 moved s4 s5 s6
  have h2 : Inv s2 := by
    simp [s2, s1, hs]
  have h3 : Inv s3 := foldl_keeps_inv (fun _ _ hu => restoreWord_inv _ _ _ hu) _ (restoreClear_inv _ _ h2)
  have h6 : Inv s6 := by
    simp [s6, s5, s4, moved, h3]
  simp [h6]

@[simp ↓] theorem netStop_inv : Inv (netStop s) ↔ Inv s := by
  unfold netStop
  refine (foldl_inv _ (fun t p => ?_) _ _).trans (by simp)
  dsimp only
  simp

@[simp ↓] theorem unitStop_inv (u : Nat) : Inv (unitStop u s) ↔ Inv s := by dsimp only [unitStop]; split <;> simp
@[simp ↓] theorem fenceUnit_inv (u : Nat) : Inv (fenceUnit u s) ↔ Inv s := by dsimp only [fenceUnit]; simp
@[simp ↓] theorem unitReset_inv (u : Nat) : Inv (unitReset u s) ↔ Inv s := by dsimp only [unitReset]; split <;> simp
@[simp ↓] theorem unfenceUnit_inv (u : Nat) : Inv (unfenceUnit u s) ↔ Inv s := by dsimp only [unfenceUnit]; simp

@[simp ↓] theorem spmCfgWrite_inv (n : Cl) (v : Word) : Inv (spmCfgWrite n v s) ↔ Inv s := by
  dsimp only [spmCfgWrite]; simp

@[simp ↓] theorem spmWrite_inv (o : Nat) (v : Word) : Inv (spmWrite o v s) ↔ Inv s := by dsimp only [spmWrite]; simp

@[simp ↓] theorem execMirrorPassComplete_keepsInv (n : Cl) (hs : Inv s) : KeepsInv (execMirrorPassComplete n s) := by
  unfold execMirrorPassComplete
  refine awake_keepsInv hs ?_
  split
  · simp [hs]
  · extract_lets frames b a at' s1 s2 s3 kept s4
    have h2 : Inv s2 := foldl_keeps_inv (fun _ _ ht => deepPut_inv _ _ ht) _ (deepDrop_inv _ _ hs)
    exact keepsInv_ite (by simp [hs]) (by simp [s4, s3, h2])

/-! ### Machine/Sec.lean -/

@[simp ↓] theorem measExtend_inv (i : Nat) (d : BitVec 256) : Inv (measExtend i d s) ↔ Inv s := by
  dsimp only [measExtend]; simp

@[simp ↓] theorem measOtp_inv : Inv (measOtp s) ↔ Inv s := by dsimp only [measOtp]; simp
@[simp ↓] theorem otpPut_inv (o : Otp) : Inv (otpPut o s) ↔ Inv s := Iff.rfl
@[simp ↓] theorem putInactive_inv (i : Option Img) : Inv (putInactive i s) ↔ Inv s := by dsimp only [putInactive]; simp

@[simp ↓] theorem patchLoad_inv (n : Cl) (ws : List Word) (hs : Inv s) : Inv (patchLoad n ws s) := by
  dsimp only [patchLoad]; simp [hs]

@[simp ↓] theorem sealPut_inv (a len svn : Nat) (loam : Bool) (ws : List Word) (hs : Inv s) :
    Inv (sealPut a len svn loam ws s) := by
  dsimp only [sealPut]; simp [hs]

@[simp ↓] theorem loaderCap_inv (a len : Nat) : Inv (loaderCap a len s) ↔ Inv s := Iff.rfl
@[simp ↓] theorem mintRoots_inv : Inv (mintRoots s) ↔ Inv s := by dsimp only [mintRoots]; simp
@[simp ↓] theorem newTagSecret_inv : Inv (newTagSecret s) ↔ Inv s := Iff.rfl

@[simp ↓] theorem secBegin_inv (kind : Nat) (j : SecJob) : Inv (secBegin kind j s) ↔ Inv s := by
  dsimp only [secBegin]; simp

@[simp ↓] theorem secWords_inv (a k : Nat) : Inv (secWords a k s).2.2 ↔ Inv s := by
  induction k generalizing a s with
  | zero => rfl
  | succ k ih =>
    dsimp only [secWords]
    have h := memRead_inv (s := s) .security .hubM a
    generalize memRead .security .hubM a s = p at h ⊢
    obtain ⟨acc, t⟩ := p
    cases acc
    case ok v => exact (ih ..).trans h
    all_goals exact h

theorem withSource_inv {fail : Nat → State → State} {serve : List Word → State → State}
    (hf : ∀ k t, Inv t → Inv (fail k t)) (hv : ∀ ws t, Inv t → Inv (serve ws t)) (hs : Inv s) :
    Inv (withSource fail serve s) := by
  unfold withSource
  extract_lets a len
  split
  · exact hf _ _ hs
  · have h := (secWords_inv a len).mpr hs
    generalize secWords a len s = p at h ⊢
    obtain ⟨_ | _, _ | ws, t⟩ := p
    · exact hs
    · exact hv _ _ h
    · exact hf _ _ h
    · exact hv _ _ h

@[simp ↓] theorem imgFailed_inv (kind code : Nat) : Inv (imgFailed kind code s) ↔ Inv s := by
  dsimp only [imgFailed]; simp

@[simp ↓] theorem imgInvalid_inv (kind : Nat) : Inv (imgInvalid kind s) ↔ Inv s := by dsimp only [imgInvalid]; simp

theorem loamLoad_inv {ws : List Word} {s t : State} (hs : Inv s) (h : loamLoad ws s = some t) : Inv t := by
  unfold loamLoad at h
  extract_lets ds at h
  split at h
  · cases h; exact hs
  · refine foldl_all (P := fun o : Option State => ∀ u ∈ o, Inv u) (fun o d ho u hu => ?_) ds
      (fun u hu => by cases hu; exact hs) t h
    obtain ⟨y, hy, rfl⟩ := Option.map_eq_some_iff.mp hu
    refine (wrote_inv y.1).mpr (foldl_all (P := fun o : Option (List Nat × State) => ∀ y ∈ o, Inv y.2)
      (fun o p ho z hz => ?_) _ (fun z hz => ?_) y hy)
    · obtain ⟨w, hw, hz⟩ := Option.bind_eq_some_iff.mp hz
      have h := memWrite_inv .svc0 .hubM p.1 p.2 (ho w hw)
      generalize memWrite .svc0 .hubM p.1 p.2 w.2 = r at hz h
      obtain ⟨acc, t⟩ := r
      cases acc <;> cases hz <;> exact h
    · obtain ⟨w, hw, rfl⟩ := Option.map_eq_some_iff.mp hz
      exact ho w hw

@[simp ↓] theorem secImage_inv (kind len : Nat) (ws : List Word) (hs : Inv s) : Inv (secImage kind len ws s) := by
  unfold secImage
  extract_lets done n code code' d old t old'
  have ht : Inv t := by
    simp [t, hs]
  have hd (a d) (t : State) : Inv (done a d t) ↔ Inv t := by
    simp [done]
  clear_value done
  refine inv_ite (by simp [hs]) (inv_ite ?_ ?_)
  · refine inv_ite (by simp [hs]) (inv_ite (by simp [hs]) ?_)
    simp [hd, hs]
  · refine inv_ite (by simp [hs]) (inv_ite ((hd ..).mpr hs) (inv_ite ((hd ..).mpr ht) ?_))
    split
    · simp [hs]
    · dsimp only
      split
      · split
        · refine (hd ..).mpr (loamLoad_inv ?_ ‹_›)
          simp [hs]
        · exact hs
      · simp [hd, hs]

@[simp ↓] theorem secServed_inv {f : State → State} (hs : Inv s) (hf : Inv (f s)) : Inv (secServed f s) := by
  simp [secServed, hs, hf]

@[simp ↓] theorem secLoad_inv (kind : Nat) (hs : Inv s) : Inv (secLoad kind s) :=
  secServed_inv hs (withSource_inv (fun _ _ ht => by simp [ht]) (fun _ _ ht => secImage_inv _ _ _ ht) hs)

@[simp ↓] theorem secEnd_inv (kind code : Nat) : Inv (secEnd kind code s) ↔ Inv s := by dsimp only [secEnd]; simp
@[simp ↓] theorem secFree_inv (kind : Nat) : Inv (secFree kind s) ↔ Inv s := Iff.rfl
@[simp ↓] theorem secRekey_inv (hs : Inv s) : Inv (secRekey s) := by dsimp only [secRekey]; simp [hs]

@[simp ↓] theorem secCommitAs_inv (i : Nat) (hs : Inv s) : Inv (secCommitAs i s) := by
  dsimp only [secCommitAs]; simp [hs]

@[simp ↓] theorem secLog_inv (hs : Inv s) : Inv (secLog s) :=
  secServed_inv hs (withSource_inv (fun _ _ ht => by simp [ht]) (fun _ _ ht => by dsimp only; simp [ht]) hs)

@[simp ↓] theorem secReleaseReq_inv (hs : Inv s) : Inv (secReleaseReq s) := by
  refine secServed_inv hs ?_
  dsimp only
  split <;> simp [hs]

@[simp ↓] theorem secOwnerImage_inv (len : Nat) (ws : List Word) (viaMonitor : Bool) :
    Inv (secOwnerImage len ws viaMonitor s) ↔ Inv s := by
  unfold secOwnerImage
  dsimp only
  repeat' with_reducible apply inv_ite_iff
  all_goals simp

@[simp ↓] theorem secOwnerReq_inv (viaMonitor : Bool) (hs : Inv s) : Inv (secOwnerReq viaMonitor s) :=
  secServed_inv hs (withSource_inv (fun _ _ ht => by simp [ht]) (fun _ _ ht => by simp [ht]) hs)

@[simp ↓] theorem secUnlisted_inv (kind : Nat) (hs : Inv s) : Inv (secUnlisted kind s) := by
  dsimp only [secUnlisted]; simp [hs]

@[simp ↓] theorem bootMailbox_inv (hs : Inv s) : Inv (bootMailbox s) := by dsimp only [bootMailbox]; simp [hs]

@[simp ↓] theorem execSecRequestDone_keepsInv (hs : Inv s) : KeepsInv (execSecRequestDone s) := by
  unfold execSecRequestDone
  refine awake_keepsInv hs ?_
  split
  · simp [hs]
  · extract_lets old s1 s2 s3 old' s4
    have h1 : Inv s1 := by
      simp [s1, hs]
    have h2 : Inv s2 := by
      dsimp only [s2]
      split <;> simp [h1]
    have h3 : Inv s3 := by
      dsimp only [s3]
      split <;> simp [h2]
    simp [s4, h3]

@[simp ↓] theorem secCtlWrite_inv (v : Word) (hs : Inv s) : Inv (secCtlWrite v s) := by
  dsimp only [secCtlWrite]; (repeat' split) <;> simp [hs]

@[simp ↓] theorem secWrite_inv (o : Nat) (v : Word) (hs : Inv s) : Inv (secWrite o v s) := by
  dsimp only [secWrite]; simp [hs]

@[simp ↓] theorem topsoilStart_inv (halfB : Bool) : Inv (topsoilStart halfB s) ↔ Inv s := by
  dsimp only [topsoilStart]; split <;> simp

@[simp ↓] theorem attest_inv (nonce : List Word) : Inv (attest nonce s) ↔ Inv s := Iff.rfl
@[simp ↓] theorem bootImages_inv : Inv (bootImages s) ↔ Inv s := by dsimp only [bootImages]; simp
@[simp ↓] theorem secureBoot_inv : Inv (secureBoot s) ↔ Inv s := by dsimp only [secureBoot]; simp

/-! ### Machine/Pwr.lean -/

@[simp ↓] theorem deviceReset_inv : Inv (deviceReset s) := rfl
@[simp ↓] theorem deviceStart_inv : Inv (deviceStart s) ↔ Inv s := by dsimp only [deviceStart]; simp
@[simp ↓] theorem keepRws_inv (old s : State) : Inv (keepRws old s) ↔ Inv s := by dsimp only [keepRws]; simp
@[simp ↓] theorem setTime_inv (ns : BitVec 64) : Inv (setTime ns s) ↔ Inv s := Iff.rfl

@[simp ↓] theorem coldReset_inv (strap : Bool) (flash : Flash) : Inv (coldReset strap flash s) := by
  dsimp only [coldReset]; simp

@[simp ↓] theorem powerOff_inv : Inv (powerOff s) := by dsimp only [powerOff]; simp

/-- What a reset leaves of memory is the deep store outside the sealed area. -/
@[simp ↓] theorem warmReset_inv (flash : Flash) (hs : Inv s) : Inv (warmReset flash s) := by
  unfold warmReset
  extract_lets t sealLine oldSec oldTb oldHbm u v
  have hu : Inv u := smWf_filter s.mem _ hs
  clear_value u
  simp [v, hu]

@[simp ↓] theorem modeRefuse_inv : Inv (modeRefuse s) ↔ Inv s := by unfold modeRefuse; simp
@[simp ↓] theorem leaveStandby_inv : Inv (leaveStandby s) ↔ Inv s := by dsimp only [leaveStandby]; simp
@[simp ↓] theorem requestStandby_inv : Inv (requestStandby s) ↔ Inv s := by dsimp only [requestStandby]; simp

@[simp ↓] theorem requestConfigure_inv (flash : Flash) (hs : Inv s) : Inv (requestConfigure flash s) := by
  dsimp only [requestConfigure]; simp [hs]

@[simp ↓] theorem requestArmed_inv : Inv (requestArmed s) ↔ Inv s := by dsimp only [requestArmed]; simp
@[simp ↓] theorem requestRun_inv : Inv (requestRun s) ↔ Inv s := by dsimp only [requestRun]; simp
@[simp ↓] theorem requestSafeOutput_inv : Inv (requestSafeOutput s) ↔ Inv s := by dsimp only [requestSafeOutput]; simp
@[simp ↓] theorem requestFrom4_inv (m : Nat) : Inv (requestFrom4 m s) ↔ Inv s := by dsimp only [requestFrom4]; simp

@[simp ↓] theorem modeRequest_inv (code : Nat) (hs : Inv s) : Inv (modeRequest code s) := by
  dsimp only [modeRequest]; split <;> simp [hs]

@[simp ↓] theorem replayGo_inv (n : Cl) (hs : Inv s) : Inv (replayGo n s) := by
  unfold replayGo
  refine inv_ite (by simp [hs]) ?_
  extract_lets mofs a img s' s1 s2 s3
  have h1 : Inv s1 := foldl_keeps_inv (fun _ _ ht => memDrop_inv _ _ ht) _ (by simp [s', hs])
  have h2 : Inv s2 := foldl_keeps_inv (fun _ _ ht => restoreWord_inv _ _ _ ht) _ h1
  simp [s3, h2]

@[simp ↓] theorem domWrite_inv (d : Nat) (v : Word) : Inv (domWrite d v s) ↔ Inv s := by dsimp only [domWrite]; simp
@[simp ↓] theorem islandLost_inv (n : Cl) (hs : Inv s) : Inv (islandLost n s) := by dsimp only [islandLost]; simp [hs]

@[simp ↓] theorem execDomainSwitchComplete_keepsInv (d : Dom) (hs : Inv s) :
    KeepsInv (execDomainSwitchComplete d s) := by
  unfold execDomainSwitchComplete
  refine awake_keepsInv hs ?_
  split
  · simp [hs]
  · extract_lets old s1 old' s2 s3
    have h2 : Inv s2 := by
      simp [s2, s1, hs]
    have h3 : Inv s3 := by
      dsimp only [s3]
      split <;> simp [h2]
    simp [h3]

@[simp ↓] theorem pwrWrite_inv (o : Nat) (v : Word) (hs : Inv s) : Inv (pwrWrite o v s) := by
  dsimp only [pwrWrite]; simp [hs]

/-! ### Machine/Od.lean -/

theorem nfpServe_inv (path : NfpPath) (seq : Nat) {f : State → State} (hs : Inv s) (hf : Inv (f s)) :
    Inv (nfpServe path seq f s) := by
  unfold nfpServe
  split
  · exact hs
  · extract_lets kept
    clear_value kept
    split <;> simp [hs, hf]

@[simp ↓] theorem nfpReply_inv (h : NfpHdr) (status ty : Nat) (data : List Word) :
    Inv (nfpReply h status ty data s) ↔ Inv s := by
  dsimp only [nfpReply]; simp

@[simp ↓] theorem nfpDoRead_inv (h : NfpHdr) : Inv (nfpDoRead h s) ↔ Inv s := by
  dsimp only [nfpDoRead]; (repeat' split) <;> simp

@[simp ↓] theorem nfpDoReadSeg_inv (h : NfpHdr) (len : Nat) : Inv (nfpDoReadSeg h len s) ↔ Inv s := by
  dsimp only [nfpDoReadSeg]; (repeat' split) <;> simp

@[simp ↓] theorem nfpDoDescribe_inv (h : NfpHdr) : Inv (nfpDoDescribe h s) ↔ Inv s := by
  dsimp only [nfpDoDescribe]; (repeat' split) <;> simp

@[simp ↓] theorem odStore_inv (key : Nat) (ws : List Word) : Inv (odStore key ws s) ↔ Inv s := Iff.rfl

@[simp ↓] theorem odModeRequest_inv (h : NfpHdr) (code : Nat) (hs : Inv s) : Inv (odModeRequest h code s) := by
  dsimp only [odModeRequest]; simp [hs]

@[simp ↓] theorem odTake_inv (h : NfpHdr) (e : OdEntry) (data : List Word) (hs : Inv s) : Inv (odTake h e data s) := by
  dsimp only [odTake]; simp [hs]

@[simp ↓] theorem paramAccept_inv (key : Nat) (v : List Word) : Inv (paramAccept key v s) ↔ Inv s := Iff.rfl

@[simp ↓] theorem paramWrites_inv (h : NfpHdr) (n : Cl) (ps : List (Param × List Word)) :
    Inv (paramWrites h n ps s) ↔ Inv s := by
  dsimp only [paramWrites]; simp

@[simp ↓] theorem nfpDoWrite_inv (h : NfpHdr) (ty : Nat) (data : List Word) (hs : Inv s) :
    Inv (nfpDoWrite h ty data s) := by
  dsimp only [nfpDoWrite]; (repeat' split) <;> simp [hs]

@[simp ↓] theorem nfpDoWriteSeg_inv (h : NfpHdr) (data : List Word) (hs : Inv s) : Inv (nfpDoWriteSeg h data s) := by
  dsimp only [nfpDoWriteSeg]; (repeat' split) <;> simp [hs]

@[simp ↓] theorem nfpDoWriteMulti_inv (h : NfpHdr) (items : List NfpItem) :
    Inv (nfpDoWriteMulti h items s) ↔ Inv s := by
  dsimp only [nfpDoWriteMulti]; (repeat' split) <;> simp

@[simp ↓] theorem nfpMessage_inv (path : NfpPath) (ws : List Word) (hs : Inv s) : Inv (nfpMessage path ws s) := by
  unfold nfpMessage
  dsimp only
  refine nfpServe_inv _ _ hs (inv_ite (by simp [hs]) ?_)
  split
  · simp [hs]
  · simp [hs]
  · simp [hs]
  · simp [hs]
  · simp [hs]
  · refine inv_ite ?_ (by simp [hs])
    split <;> simp [hs]
  · simp [hs]

@[simp ↓] theorem nfpTake_inv (mine : Nat → Bool) (via : NfpVia) (hs : Inv s) : Inv (nfpTake mine via s) := by
  dsimp only [nfpTake]; split <;> simp [hs]

/-! ### Machine/RegAccess.lean -/

@[simp ↓] theorem asRead_inv {o : Out} (ho : KeepsInv o) (hs : Inv s) : Inv (asRead o s).2 := by
  cases o with
  | next t => exact ho t rfl
  | refused | fault => exact hs

@[simp ↓] theorem asWrite_inv {o : Out} (ho : KeepsInv o) (hs : Inv s) : Inv (asWrite o s) := by
  cases o with
  | next t => exact ho t rfl
  | refused | fault => exact hs

@[simp ↓] theorem evcFree_inv (n : Cl) : Inv (evcFree n s) ↔ Inv s := Iff.rfl
@[simp ↓] theorem evcSnap_inv (n : Cl) : Inv (evcSnap n s) ↔ Inv s := by dsimp only [evcSnap]; simp

@[simp ↓] theorem evcRead_inv (n : Cl) (r reader : Nat) : Inv (evcRead n r reader s).2 ↔ Inv s := by
  dsimp only [evcRead]; simp

@[simp ↓] theorem evcWrite_inv (n : Cl) (r : Nat) (v : Word) : Inv (evcWrite n r v s) ↔ Inv s := by
  dsimp only [evcWrite]; simp

@[simp ↓] theorem evcAnswer_inv (n : Cl) (r : Nat) (m : EvcReader) : Inv (evcAnswer n r m s) ↔ Inv s := by
  dsimp only [evcAnswer]; simp

@[simp ↓] theorem plotRegWrite_inv (n : Cl) (off : Nat) (v : Word) (who : Handler) (hs : Inv s) :
    Inv (plotRegWrite n off v who s) := by
  dsimp only [plotRegWrite]; simp [hs]

@[simp ↓] theorem gcntClear_inv : Inv (gcntClear s) ↔ Inv s := by dsimp only [gcntClear]; simp
@[simp ↓] theorem gcntSnap_inv : Inv (gcntSnap s) ↔ Inv s := by dsimp only [gcntSnap]; simp

@[simp ↓] theorem hubRead_inv (m : Master) (off : Nat) (hs : Inv s) : Inv (hubRead m off s).2 := by
  unfold hubRead
  simp [hs]
  intros
  split <;> exact hs

@[simp ↓] theorem tbWrite_inv (off : Nat) (v : Word) (hs : Inv s) : Inv (tbWrite off v s) := by
  dsimp only [tbWrite]; (repeat' split) <;> simp [hs]

@[simp ↓] theorem chFlagWrite_inv (w : Nat) (v : Word) : Inv (chFlagWrite w v s) ↔ Inv s := by
  dsimp only [chFlagWrite]; simp

@[simp ↓] theorem grpWrite_inv (g : Nat) (v : Word) : Inv (grpWrite g v s) ↔ Inv s := Iff.rfl

@[simp ↓] theorem pqRegWrite_inv (f : Pq) (r : Nat) (v : Word) (hs : Inv s) : Inv (pqRegWrite f r v s) := by
  dsimp only [pqRegWrite]; split <;> simp [hs]

@[simp ↓] theorem evfWrite_inv (off : Nat) (v : Word) (hs : Inv s) : Inv (evfWrite off v s) := by
  unfold evfWrite
  dsimp only
  simp [hs]
  intros
  split <;> simp [hs]

@[simp ↓] theorem ucodeWrite_inv (off : Nat) (v : Word) (hs : Inv s) : Inv (ucodeWrite off v s) := by
  unfold ucodeWrite
  extract_lets n s1 s2 s3
  have h2 : Inv s2 := by
    simp [s2, s1, hs]
  have h3 : Inv s3 := by
    simp [s3, h2]
  split
  · simp [h3]
  · simp [hs]
  · simp [hs]

@[simp ↓] theorem odPqWrite_inv (off : Nat) (v : Word) (hs : Inv s) : Inv (odPqWrite off v s) := by
  dsimp only [odPqWrite]; split <;> simp [hs]

@[simp ↓] theorem hubWrite_inv (m : Master) (cs : List CapV) (off : Nat) (v : Word) (hs : Inv s) :
    Inv (hubWrite m cs off v s) := by
  unfold hubWrite
  dsimp only
  simp [hs]

@[simp ↓] theorem keyRefuse_inv (off : Nat) : Inv (keyRefuse off s) ↔ Inv s := by dsimp only [keyRefuse]; simp

@[simp ↓] theorem hostRefuse_inv (a : Nat) (v : Word) : Inv (hostRefuse a v s) ↔ Inv s := by
  dsimp only [hostRefuse]; (repeat' split) <;> simp

@[simp ↓] theorem hostDenied_inv (p : Nat) : Inv (hostDenied p s) ↔ Inv s := Iff.rfl

@[simp ↓] theorem hostWrite_inv (p off : Nat) (v : Word) (hs : Inv s) : Inv (hostWrite p off v s) := by
  dsimp only [hostWrite]; simp [hs]

@[simp ↓] theorem masterWrite_inv (m : Master) (off : Nat) (v : Word) (hs : Inv s) : Inv (masterWrite m off v s) := by
  dsimp only [masterWrite]; (repeat' split) <;> simp [hs]

@[simp ↓] theorem capHubWrite_inv (m : Master) (cap : CapV) (off : Nat) (v : Word) (hs : Inv s) :
    Inv (capHubWrite m cap off v s) := by
  dsimp only [capHubWrite]; simp [hs]

@[simp ↓] theorem hostStore_inv (w : Nat) (v : Word) : Inv (hostStore w v s).2 ↔ Inv s := by
  unfold hostStore
  have h := hostAccess_inv (s := s) w (some v)
  generalize hostAccess w (some v) s = p at h ⊢
  obtain ⟨_ | _, t⟩ := p <;> exact h

@[simp ↓] theorem wordRead_inv (m : Master) (g : Agent) (a : Nat) (hs : Inv s) : Inv (wordRead m g a s).2 := by
  unfold wordRead
  split
  · exact hs
  · split
    · simp [hs]
    · have h := (hostAccess_inv ‹_› none).mpr hs
      generalize hostAccess _ none s = p at h ⊢
      obtain ⟨_ | _, t⟩ := p <;> exact h
    · simp [hs]

@[simp ↓] theorem regWordWrite_inv (m : Master) (cap : CapV) (off : Nat) (v : Word) (hs : Inv s) :
    Inv (regWordWrite m cap off v s).2 := by
  dsimp only [regWordWrite]; split <;> simp [hs]

@[simp ↓] theorem wordWrite_inv (m : Master) (g : Agent) (cap : CapV) (a : Nat) (v : Word) (hs : Inv s) :
    Inv (wordWrite m g cap a v s).2 := by
  dsimp only [wordWrite]; (repeat' split) <;> simp [hs]

@[simp ↓] theorem irqbWrite_inv (n : Cl) (k : Nat) (v : Word) : Inv (irqbWrite n k v s) ↔ Inv s := by
  dsimp only [irqbWrite]; simp

@[simp ↓] theorem setEvtWrite_inv (n : Cl) (k : Set8) (v : Word) : Inv (setEvtWrite n k v s) ↔ Inv s := by
  dsimp only [setEvtWrite]; simp

/-! ### Machine/Bars.lean -/

@[simp ↓] theorem bar0Units_inv (p : Nat) (hs : Inv s) (ks : List Nat) : Inv (bar0Units p s ks).2 := by
  induction ks generalizing s with
  | nil => exact hs
  | cons k ks ih =>
    unfold bar0Units
    split
    · exact ih (hubRead_inv _ _ hs)
    · exact ih hs

@[simp ↓] theorem bar0Read_inv (p byte size : Nat) (hs : Inv s) : Inv (bar0Read p byte size s) := by
  dsimp only [bar0Read]; simp [hs]

@[simp ↓] theorem hostWrites_inv (p : Nat) (ws : List (Nat × Word)) (hs : Inv s) : Inv (hostWrites p ws s) :=
  inv_ite (foldl_keeps_inv (fun _ _ ht => hubWrite_inv _ _ _ _ ht) _ hs) (by simp [hs])

@[simp ↓] theorem msixWrite_inv (p k : Nat) (bs : List (Option HByte)) : Inv (msixWrite p k bs s) ↔ Inv s := by
  dsimp only [msixWrite]; simp

@[simp ↓] theorem bar0Write_inv (p byte : Nat) (data : List HByte) (hs : Inv s) : Inv (bar0Write p byte data s) := by
  dsimp only [bar0Write]; simp [hs]

@[simp ↓] theorem hostWrite1_inv (p a : Nat) (v : Word) (hs : Inv s) : Inv (hostWrite1 p a v s).2 := by
  dsimp only [hostWrite1]; (repeat' split) <;> simp [hs]

theorem bar2Reads_inv {p : Nat} {s t : State} (hs : Inv s) {ks : List Nat} {us : List (BitVec 32)} {b : Bool}
    (h : bar2Reads p s ks = some (us, b, t)) : Inv t := by
  induction ks generalizing s t us b with
  | nil => cases h; exact hs
  | cons k ks ih =>
    dsimp only [bar2Reads] at h
    split at h
    · obtain ⟨⟨us', b', t'⟩, hq, heq⟩ := Option.map_eq_some_iff.mp h
      cases heq
      exact ih hs hq
    · have hw := wordRead_inv (portMaster p) .hubM ‹_› hs
      generalize wordRead (portMaster p) .hubM _ s = r at h hw
      obtain ⟨acc, u⟩ := r
      cases acc
      case held => cases h
      all_goals
        obtain ⟨⟨us', b', t'⟩, hq, heq⟩ := Option.map_eq_some_iff.mp h
        cases heq
        exact ih hw hq

@[simp ↓] theorem bar2Read_inv (p byte size : Nat) (hs : Inv s) : Inv (bar2Read p byte size s) := by
  unfold bar2Read
  extract_lets ks zero
  have hz (t : State) : Inv (zero t) ↔ Inv t := respond_inv ..
  refine inv_ite ?_ (by simp [hz, hs])
  split
  · exact hs
  · simp [hz, bar2Reads_inv hs ‹_›]
  · simp [bar2Reads_inv hs ‹_›]

theorem bar2Writes_inv {p : Nat} {s t : State} (hs : Inv s) {ws : List (Nat × Word)} (h : bar2Writes p s ws = some t)
    : Inv t := by
  induction ws generalizing s with
  | nil => cases h; exact hs
  | cons w ws ih =>
    obtain ⟨a, v⟩ := w
    unfold bar2Writes at h
    have hw := hostWrite1_inv p a v hs
    generalize hostWrite1 p a v s = r at h hw
    obtain ⟨acc, u⟩ := r
    cases acc
    case held => cases h
    all_goals exact ih hw h

@[simp ↓] theorem bar2Write_inv (p byte : Nat) (data : List HByte) (hs : Inv s) : Inv (bar2Write p byte data s) := by
  unfold bar2Write
  extract_lets ks ws full
  refine inv_ite (by simp [hs]) (inv_ite (by simp [hs]) ?_)
  split
  · simp [hs]
  · refine getD_inv (fun t ht => ?_) hs
    obtain ⟨u, hu, rfl⟩ := Option.map_eq_some_iff.mp ht
    exact (wrote_inv ..).mpr (bar2Writes_inv hs hu)

/-! ### Machine/Operands.lean -/

@[simp] theorem seqWrites_inv (n : Cl) (cap : CapV) (win : Bool) (ws : List (Nat × Word)) (k : Nat)
    (f : Option (Nat × Nat)) (hs : Inv s) : Inv (seqWrites n cap win ws k f s).s := by
  induction ws generalizing k f s with
  | nil => exact hs
  | cons w ws ih =>
    obtain ⟨a, v⟩ := w
    dsimp only [seqWrites]
    have h := wordWrite_inv (.cluster n) (seqAgent n win) cap a v hs
    generalize wordWrite (.cluster n) (seqAgent n win) cap a v s = r at h ⊢
    obtain ⟨acc, t⟩ := r
    cases acc
    case held => exact h
    all_goals exact ih _ _ h

@[simp ↓] theorem sbufDrain_inv (n : Cl) (hs : Inv s) : Inv (sbufDrain n s) := by
  unfold sbufDrain
  split
  · exact hs
  · dsimp only
    exact inv_ite hs (by simp [hs])

/-! ### Machine/Issue.lean -/

@[simp ↓] theorem faultStop_inv (n : Cl) (cause : Nat) : Inv (faultStop n cause s) ↔ Inv s := Iff.rfl

@[simp ↓] theorem wordPass_inv (n : Cl) (k : Nat) (jump : Option Jump) (bubbles : Nat) :
    Inv (wordPass n k jump bubbles s) ↔ Inv s :=
  Iff.rfl

@[simp ↓] theorem wordDone_inv (n : Cl) (k : Nat) (jump : Option Jump) (bubbles : Nat) :
    Inv (wordDone n k jump bubbles s) ↔ Inv s :=
  Iff.rfl

@[simp ↓] theorem cancelled_inv (n : Cl) (k : Nat) (b : Word) : Inv (cancelled n k b s) ↔ Inv s := Iff.rfl
@[simp ↓] theorem wrongPath_inv (n : Cl) (a : Word) : Inv (wrongPath n a s) ↔ Inv s := by dsimp only [wrongPath]; simp
@[simp ↓] theorem pairPass_inv (n : Cl) (bubbles : Nat) : Inv (pairPass n bubbles s) ↔ Inv s := Iff.rfl

@[simp ↓] theorem pairDone_inv (n : Cl) (a b : List (RegName × RegVal)) (skip : Bool) (jump : Option Jump)
    (bubbles : Nat) : Inv (pairDone n a b skip jump bubbles s) ↔ Inv s :=
  Iff.rfl

@[simp ↓] theorem closePair_inv (n : Cl) : Inv (closePair n s) ↔ Inv s := by dsimp only [closePair]; split <;> simp

theorem normalEntry_inv {n : Cl} {vec : Nat} {cause info rpc : Word} {s t : State} (hs : Inv s)
    (h : normalEntry n vec cause info rpc s = some t) : Inv t := by
  unfold normalEntry at h
  dsimp only at h
  split at h
  · split at h <;> cases h
    exact hs
  · cases h
    exact hs

theorem enterVector_inv {n : Cl} {vec : Nat} {cause info rpc : Word} {s t : State} (hs : Inv s)
    (h : enterVector n vec cause info rpc s = some t) : Inv t := by
  unfold enterVector at h
  split at h
  · cases h
    exact hs
  · exact normalEntry_inv hs h

theorem syncTrap_inv {n : Cl} {vec slot detail : Nat} {info rpc : Word} {s t : State} (hs : Inv s)
    (h : syncTrap n vec slot detail info rpc s = some t) : Inv t := by
  unfold syncTrap at h
  split at h
  · cases h
    exact hs
  · exact enterVector_inv hs h

/-- A trap that may find no room for its frame, with a state for that case. -/
theorem syncTrap_getD_inv {n : Cl} {vec slot detail : Nat} {info rpc : Word} {s d : State} (hs : Inv s) (hd : Inv d) :
    Inv ((syncTrap n vec slot detail info rpc s).getD d) :=
  getD_inv (fun _ => syncTrap_inv hs) hd

@[simp ↓] theorem fetchFault_inv (n : Cl) (hs : Inv s) : Inv (fetchFault n s) := syncTrap_getD_inv hs hs
@[simp ↓] theorem loadCheck_inv (n : Cl) (slot : Nat) (addr : Word) : Inv (loadCheck n slot addr s) ↔ Inv s := Iff.rfl

@[simp ↓] theorem fetchWords_inv (n : Cl) (a k : Nat) : Inv (fetchWords n a k s).2 ↔ Inv s := by
  induction k generalizing a s with
  | zero => rfl
  | succ k ih =>
    unfold fetchWords
    simp [ih]

theorem lateTrap_inv {n : Cl} {s t : State} (hs : Inv s) (h : lateTrap n s = some t) : Inv t := by
  unfold lateTrap at h
  obtain ⟨f, _, rfl⟩ := Option.map_eq_some_iff.mp h
  refine syncTrap_getD_inv ?_ ?_ <;> exact hs

@[simp ↓] theorem issueGate_inv (n : Cl) (k : Nat) (hs : Inv s) : Inv (issueGate n k s).2 := by
  unfold issueGate
  dsimp only
  split
  · exact lateTrap_inv hs ‹_›
  · simp [hs]

@[simp ↓] theorem slotWord_inv (n : Cl) (sl : Slot) (f : Cluster → List (RegName × RegVal) × Bool) (hs : Inv s) :
    Inv (slotWord n sl f s) := by
  dsimp only [slotWord]; (repeat' split) <;> simp [hs]

@[simp ↓] theorem stall_inv (n : Cl) : Inv (stall n s) ↔ Inv s := Iff.rfl

/-- What a word does: every state that it holds has its memory in canonical form. -/
def SeqRes.KeepsInv : SeqRes → Prop
  | .hold => True
  | .trap _ _ _ _ t => Inv t
  | .done t _ _ _ => Inv t
  | .whole t => Inv t

@[simp] theorem seqRes_hold_inv : SeqRes.hold.KeepsInv := trivial

@[simp] theorem seqRes_trap_inv {vec slot detail : Nat} {info : Word} {t : State} :
    (SeqRes.trap vec slot detail info t).KeepsInv ↔ Inv t :=
  Iff.rfl

@[simp] theorem seqRes_done_inv {t : State} {jump : Option Jump} {bubbles : Nat} {fp : Option Nat} :
    (SeqRes.done t jump bubbles fp).KeepsInv ↔ Inv t :=
  Iff.rfl

@[simp] theorem seqRes_go_inv {t : State} : (SeqRes.go t).KeepsInv ↔ Inv t := Iff.rfl
@[simp] theorem seqRes_whole_inv {t : State} : (SeqRes.whole t).KeepsInv ↔ Inv t := Iff.rfl

@[simp ↓] theorem seqRes_ite_inv {c : Prop} [Decidable c] {r r' : SeqRes} :
    (if c then r else r').KeepsInv ↔ if c then r.KeepsInv else r'.KeepsInv := by
  split <;> rfl

theorem wordTrap_inv {n : Cl} {vec slot detail : Nat} {info a : Word} {s t : State} (hs : Inv s) (ht : Inv t) :
    Inv (wordTrap n vec slot detail info a s t) :=
  getD_inv (fun _ => syncTrap_inv ht) ((stall_inv n).mpr hs)

theorem wordEnd_inv {n : Cl} {k : Nat} {a : Word} {r : SeqRes} (hs : Inv s) (h : r.KeepsInv) :
    Inv (wordEnd n k a s r) := by
  unfold wordEnd
  split
  · exact hs
  · exact wordTrap_inv hs ((modCl_inv ..).mpr h)
  · exact (wordDone_inv ..).mpr h
  · refine wordTrap_inv hs ?_
    have ht : Inv _ := h
    simp [ht]
  · exact h

/-- What the words of the FP unit do with its state first: every state that it holds is canonical. -/
def LazyRes.KeepsInv : LazyRes → Prop
  | .ok t => Inv t
  | .held => True
  | .fault _ _ t => Inv t

/-- What a load answers: every state that it holds is canonical. -/
def ReadRes.KeepsInv : ReadRes → Prop
  | .ok _ t => Inv t
  | .held => True
  | .fault _ t => Inv t
  | .ue t => Inv t

/-- What a store answers: every state that it holds is canonical. -/
def StoreRes.KeepsInv : StoreRes → Prop
  | .ok t => Inv t
  | .held => True
  | .fault _ t => Inv t

theorem seqReads_inv (n : Cl) (win : Bool) (as : List Nat) (hs : Inv s) : (seqReads n win as s).KeepsInv := by
  induction as generalizing s with
  | nil => exact hs
  | cons a as ih =>
    dsimp only [seqReads]
    have h := wordRead_inv (.cluster n) (seqAgent n win) a hs
    generalize wordRead (.cluster n) (seqAgent n win) a s = r at h ⊢
    obtain ⟨acc, t⟩ := r
    cases acc
    case ok v =>
      have ht := ih h
      dsimp only at ht ⊢
      generalize seqReads n win as t = p at ht ⊢
      cases p <;> exact ht
    case held => trivial
    all_goals exact h

theorem dLoad_inv (n : Cl) (cap : CapV) (a : Word) (k : Nat) (hs : Inv s) : (dLoad n cap a k s).KeepsInv := by
  unfold dLoad
  split
  · exact hs
  · split
    · exact hs
    · trivial
    · split
      · trivial
      · exact seqReads_inv _ _ _ hs

theorem directLoad_inv (n : Cl) (cap : CapV) (a : Word) (k : Nat) (hs : Inv s) : (directLoad n cap a k s).KeepsInv := by
  unfold directLoad
  split
  · exact hs
  · split
    · trivial
    · exact seqReads_inv _ _ _ hs

theorem storeFault_inv {n : Cl} {win : Bool} {a : Nat} (hs : Inv s) {p : Nat × State}
    (h : storeFault n win a s = some p) : Inv p.2 := by
  unfold storeFault at h
  extract_lets own at h
  have hown {m : Cl} {o : Nat} (h : own m o = some p) : Inv p.2 := by
    dsimp only [own] at h
    split at h <;> cases h
    simp [hs]
  clear_value own
  split at h
  · exact hown h
  · exact hown h
  · split at h <;> cases h
    exact hs
  · split at h
    · cases h; exact hs
    · split at h <;> cases h
      exact hs
  · cases h; exact hs
  · cases h

theorem findSome_storeFault_inv {n : Cl} {win : Bool} {gs : List Nat} (hs : Inv s) {p : Nat × State}
    (h : gs.findSome? (fun g => storeFault n win g s) = some p) : Inv p.2 := by
  obtain ⟨g, _, hg⟩ := List.exists_of_findSome?_eq_some h
  exact storeFault_inv hs hg

theorem dStore_inv (n : Cl) (slot : Nat) (a : Word) (ws : List Word) (hs : Inv s) :
    (dStore n slot a ws s).KeepsInv := by
  unfold dStore
  dsimp only
  split
  · exact hs
  · split
    · exact findSome_storeFault_inv hs ‹_›
    · split
      · trivial
      · exact hs

theorem directStore_inv (n : Cl) (cap : CapV) (a : Word) (ws : List Word) (hs : Inv s) :
    (directStore n cap a ws s).KeepsInv := by
  unfold directStore
  dsimp only
  split
  · exact hs
  · split
    · exact findSome_storeFault_inv hs ‹_›
    · split
      · trivial
      · split
        · trivial
        · split
          · exact seqWrites_inv _ _ _ _ _ _ hs
          · exact (wrote_inv ..).mpr (seqWrites_inv _ _ _ _ _ _ hs)

theorem lazySave_inv (n : Cl) (hs : Inv s) : (lazySave n s).KeepsInv := by
  unfold lazySave
  dsimp only
  split
  · exact hs
  · have h := directStore_inv n (smAt CapV.null (s.cl n).special 2) (ioGet 0x1C (s.cl n)) (fpArea (s.cl n)) hs
    generalize directStore n _ _ _ s = r at h ⊢
    cases r <;> exact h

theorem lazyLoad_inv (n : Cl) (hs : Inv s) : (lazyLoad n s).KeepsInv := by
  unfold lazyLoad
  extract_lets c fpa own fresh
  have hown {t : State} (h : Inv t) : (own t).KeepsInv := h
  have hfresh {t : State} (h : Inv t) : (fresh t).KeepsInv := h
  clear_value own fresh
  split
  · exact hfresh hs
  · have h := directLoad_inv n (cGet c 15) (fpa + 33) 1 hs
    generalize directLoad n (cGet c 15) (fpa + 33) 1 s = r at h ⊢
    split
    · split
      · exact hfresh h
      · have hu := directLoad_inv n (cGet c 15) fpa 33 (show Inv _ from h)
        generalize directLoad n (cGet c 15) fpa 33 _ = p at hu ⊢
        cases p
        case ok ws u => exact hown hu
        all_goals exact hu
    · exact hfresh h
    all_goals exact h

theorem lazyFp_inv (n : Cl) (hs : Inv s) : (lazyFp n s).KeepsInv := by
  unfold lazyFp
  split
  · exact hs
  · split
    · trivial
    · have h := lazySave_inv n hs
      generalize lazySave n s = r at h ⊢
      cases r with
      | ok t => exact lazyLoad_inv n h
      | held => trivial
      | fault => exact h

theorem issueWord_inv {n : Cl} {w : WordInfo} {f : Word → State → SeqRes} (hs : Inv s)
    (hf : ∀ a t, Inv t → (f a t).KeepsInv) : Inv (issueWord n w f s) := by
  unfold issueWord
  extract_lets s1 g c a predicted t
  have h1 : Inv s1 := (closePair_inv ..).mpr hs
  have hg : Inv g.2 := issueGate_inv _ _ h1
  have ht : Inv t := (modCl_inv ..).mpr hg
  clear_value t
  refine inv_ite hs (inv_ite h1 (inv_ite (by simp [h1]) (inv_ite hg (inv_ite ?_ (wordEnd_inv hg (hf _ _ ht))))))
  have h := lazyFp_inv n ht
  generalize lazyFp n t = r at h ⊢
  cases r with
  | ok u => exact wordEnd_inv hg (hf _ _ h)
  | held => exact hg
  | fault slot info u => exact wordTrap_inv hg ((modCl_inv ..).mpr h)

@[simp ↓] theorem issue_inv (n : Cl) (w : WordInfo) {f : Word → State → SeqRes} (hs : Inv s)
    (hf : ∀ a t, Inv t → (f a t).KeepsInv) : Inv (issue n w f s) :=
  inv_ite hs (issueWord_inv hs hf)

@[simp] theorem illegal_inv (w : Nat) : (illegal w s).KeepsInv ↔ Inv s := Iff.rfl

/-! ### Machine/Mon.lean -/

@[simp ↓] theorem monLine_inv : Inv (monLine s) ↔ Inv s := Iff.rfl
@[simp ↓] theorem monOk_inv (ws : List Word) : Inv (monOk ws s) ↔ Inv s := Iff.rfl
@[simp ↓] theorem monErr_inv (code : Nat) : Inv (monErr code s) ↔ Inv s := Iff.rfl

@[simp ↓] theorem monIn_inv (modes : List Nat) {f : State → State} (hs : Inv s) (hf : Inv (f (monLine s))) :
    Inv (monIn modes f s) := by
  unfold monIn
  simp [hs, hf]

@[simp ↓] theorem monRead1_inv (a : Nat) (hs : Inv s) : Inv (monRead1 a s).2 := by dsimp only [monRead1]; simp [hs]

@[simp ↓] theorem monWrite1_inv (a : Nat) (v : Word) (hs : Inv s) : Inv (monWrite1 a v s).2 := by
  dsimp only [monWrite1]; (repeat' split) <;> simp [hs]

@[simp ↓] theorem monReads_inv (a k : Nat) (hs : Inv s) : Inv (monReads a k s).2 := by
  induction k generalizing a s with
  | zero => exact hs
  | succ k ih =>
    dsimp only [monReads]
    have h := monRead1_inv a hs
    generalize monRead1 a s = r at h ⊢
    obtain ⟨acc, t⟩ := r
    cases acc
    case ok v =>
      have ht := ih (a + 1) h
      dsimp only at ht ⊢
      generalize monReads (a + 1) k t = p at ht ⊢
      obtain ⟨e, u⟩ := p
      cases e <;> exact ht
    all_goals exact h

@[simp ↓] theorem monWrites_inv (a : Nat) (ws : List Word) (as : List Nat) (hs : Inv s) :
    Inv (monWrites a ws as s).2 := by
  induction ws generalizing a as s with
  | nil => exact (wrote_inv ..).mpr hs
  | cons w ws ih =>
    dsimp only [monWrites]
    have h := monWrite1_inv a w hs
    generalize monWrite1 a w s = r at h ⊢
    obtain ⟨acc, t⟩ := r
    cases acc
    case ok v => exact ih _ _ h
    case held => exact h
    all_goals exact (wrote_inv ..).mpr h

@[simp ↓] theorem monAnswer_inv {r : MonEnd × State} (hs : Inv s) (hr : Inv r.2) : Inv (monAnswer s r) := by
  unfold monAnswer
  split <;> simp [hs, hr]

@[simp ↓] theorem execMonRd_keepsInv (a : BitVec 40) (len : Nat) (hs : Inv s) : KeepsInv (execMonRd a len s) :=
  keepsInv_next.mpr (monIn_inv _ hs (inv_ite hs (monAnswer_inv hs (monReads_inv _ _ hs))))

@[simp ↓] theorem execMonWr_keepsInv (a : BitVec 40) (ws : List Word) (hs : Inv s) : KeepsInv (execMonWr a ws s) :=
  keepsInv_next.mpr (monIn_inv _ hs (inv_ite hs (monAnswer_inv hs (monWrites_inv _ _ _ hs))))

@[simp ↓] theorem unlock_inv (t : Nat) : Inv (unlock t s) ↔ Inv s := Iff.rfl
@[simp ↓] theorem monLock_inv (t : Nat) : Inv (monLock t s) ↔ Inv s := by dsimp only [monLock]; simp

@[simp ↓] theorem monRmw_inv (a : Nat) (mask v : Word) (hs : Inv s) : Inv (monRmw a mask v s) := by
  unfold monRmw
  split
  · exact hs
  · have hl : Inv (monLock (targetOf a) s) := (monLock_inv ..).mpr hs
    have h := monRead1_inv a hl
    generalize monRead1 a (monLock (targetOf a) s) = r at h ⊢
    obtain ⟨acc, t⟩ := r
    cases acc
    case ok w =>
      have hw := monWrite1_inv a ((w &&& ~~~mask) ||| (v &&& mask)) h
      dsimp only at hw ⊢
      generalize monWrite1 a ((w &&& ~~~mask) ||| (v &&& mask)) t = p at hw ⊢
      obtain ⟨acc, u⟩ := p
      cases acc
      case ok => exact (monOk_inv ..).mpr ((unlock_inv ..).mpr ((wrote_inv ..).mpr hw))
      case held => exact hl
      all_goals exact (monErr_inv ..).mpr ((unlock_inv ..).mpr hw)
    case held => exact hl
    all_goals exact (monErr_inv ..).mpr ((unlock_inv ..).mpr h)

@[simp ↓] theorem monImage_inv (kind : Nat) (ws : List Word) (hs : Inv s) : Inv (monImage kind ws s) := by
  dsimp only [monImage]; simp [hs]

@[simp ↓] theorem monSeq_inv (n : Nat) (f : Cluster → Cluster) (hs : Inv s) : Inv (monSeq n f s) := by
  dsimp only [monSeq]; simp [hs]

@[simp ↓] theorem freeMem_inv (as : List Nat) (hs : Inv s) : Inv (freeMem as s) :=
  foldl_keeps_inv (fun _ _ ht => memPut_inv _ _ ht) _ hs

@[simp ↓] theorem freeRegs_inv (lo hi : Nat) : Inv (freeRegs lo hi s) ↔ Inv s := by dsimp only [freeRegs]; simp
@[simp ↓] theorem bistCl_inv (n : Cl) (hs : Inv s) : Inv (bistCl n s) := by dsimp only [bistCl]; simp [hs]

@[simp ↓] theorem bist_inv (d : Nat) (hs : Inv s) : Inv (bist d s) := by
  unfold bist
  dsimp only
  have h0 : Inv (match allCl.find? fun n => decide (physDom n s = d) with
    | some n => bistCl n s
    | none => s) := by
    split <;> simp [hs]
  rw [inv_mk]
  refine inv_ite h0 (inv_ite hs (inv_ite ?_ (inv_ite ?_ (inv_ite ?_ (inv_ite ?_ (inv_ite ?_ (inv_ite ?_
    (inv_ite ?_ (inv_ite ?_ ?_)))))))))
  all_goals simp [hs]

/-! ### Machine/SeqInt.lean -/

@[simp] theorem shortRes_keepsInv (n : Cl) (sl : Slot) (rd : Reg) (sf : Fin 8) (f : Word → Word → Word) (hs : Inv s) :
    KeepsInv (shortRes n sl rd sf f s) :=
  keepsInv_next.mpr (slotWord_inv _ _ _ hs)

@[simp ↓] theorem branchPath_inv (n : Cl) (a target : Word) (taken hint : Bool) :
    Inv (branchPath n a target taken hint s) ↔ Inv s := by
  dsimp only [branchPath]; simp

@[simp ↓] theorem brsWord_inv (n : Cl) (cond : Cond) (sf : Fin 8) (hint : Bool) (hs : Inv s) :
    Inv (brsWord n cond sf hint s) := by
  dsimp only [brsWord]; simp [hs]

@[simp] theorem regWord_keepsInv (n : Cl) (k : Nat) (w : WordInfo) (f : Cluster → List (RegName × RegVal))
    (hs : Inv s) : KeepsInv (regWord n k w f s) :=
  keepsInv_next.mpr (issue_inv _ _ hs fun _ _ ht => ht)

@[simp] theorem xWord_keepsInv (n : Cl) (rd : Reg) (f : Cluster → Word) (hs : Inv s) : KeepsInv (xWord n rd f s) :=
  regWord_keepsInv _ _ _ _ hs

@[simp] theorem xcWord_keepsInv (n : Cl) (rd : Reg) (f : Cluster → Word × Bool) (hs : Inv s) :
    KeepsInv (xcWord n rd f s) :=
  regWord_keepsInv _ _ _ _ hs

@[simp] theorem ccWord_keepsInv (n : Cl) (f : Cluster → BitVec 5) (hs : Inv s) : KeepsInv (ccWord n f s) :=
  regWord_keepsInv _ _ _ _ hs

@[simp] theorem aluRes_keepsInv (n : Cl) (rd rs rt : Reg) (f : Word → Word → Word) (hs : Inv s) :
    KeepsInv (aluRes n rd rs rt f s) :=
  xWord_keepsInv _ _ _ hs

@[simp] theorem loadRes_inv (n : Cl) (rs : Reg) (imm : BitVec 9) (k : Nat)
    (out : Cluster → List Word → List (RegName × RegVal)) (hs : Inv s) : (loadRes n rs imm k out s).KeepsInv := by
  unfold loadRes
  have h := dLoad_inv n (cGet (s.cl n) rs) (baseAddr (s.cl n) rs imm) k hs
  dsimp only
  generalize dLoad n (cGet (s.cl n) rs) (baseAddr (s.cl n) rs imm) k s = r at h ⊢
  cases r <;> exact h

@[simp] theorem storeRes_inv (n : Cl) (rs : Reg) (imm : BitVec 9) (ws : Cluster → List Word) (hs : Inv s) :
    (storeRes n rs imm ws s).KeepsInv := by
  unfold storeRes
  have h := dStore_inv n rs (baseAddr (s.cl n) rs imm) (ws (s.cl n)) hs
  dsimp only
  generalize dStore n rs (baseAddr (s.cl n) rs imm) (ws (s.cl n)) s = r at h ⊢
  cases r <;> exact h

@[simp] theorem trdRes_inv (n : Cl) (rd rs : Reg) (imm : BitVec 9) (hs : Inv s) : (trdRes n rd rs imm s).KeepsInv := by
  unfold trdRes
  dsimp only
  split
  · exact hs
  · split
    · exact hs
    · simp [hs]

@[simp ↓] theorem orderWord_inv (n : Cl) (o : Order96) {f : State → SeqRes} (hs : Inv s)
    (hf : ∀ t, Inv t → (f t).KeepsInv) : Inv (orderWord n o f s) := by
  refine issue_inv _ _ hs fun _ t ht => ?_
  split
  · exact ht
  · exact hf t ht

@[simp] theorem orderQueue_inv (n : Cl) (o : Order96) (hs : Inv s) : (orderQueue n o s).KeepsInv := by
  unfold orderQueue
  simp [hs]

/-! ### Machine/SeqIo.lean -/

@[simp ↓] theorem ioRead_inv (n : Cl) (off : Nat) (hs : Inv s) : Inv (ioRead n off s).2 := by unfold ioRead; simp [hs]

@[simp ↓] theorem ioWrite_inv (n : Cl) (off : Nat) (v : Word) (hs : Inv s) : Inv (ioWrite n off v s) := by
  unfold ioWrite
  simp [hs]

theorem withFp_inv {n : Cl} {need : Bool} {f : State → SeqRes} (hs : Inv s) (hf : ∀ t, Inv t → (f t).KeepsInv) :
    (withFp n need f s).KeepsInv := by
  unfold withFp
  split
  · have h := lazyFp_inv n hs
    generalize lazyFp n s = r at h ⊢
    cases r with
    | ok t => exact hf t h
    | held => trivial
    | fault => exact h
  · exact hf s hs

@[simp] theorem ioAccess_inv (n : Cl) (slot : Nat) (a : Word) (perm : Nat) {f : State → SeqRes} (hs : Inv s)
    (hf : ∀ t, Inv t → (f t).KeepsInv) : (ioAccess n slot a perm f s).KeepsInv := by
  unfold ioAccess
  dsimp only
  split
  · exact hs
  · split
    · trivial
    · exact withFp_inv hs hf

@[simp] theorem ioInRes_inv (n : Cl) (slot : Nat) (a : Word) (rd : Reg) (hs : Inv s) :
    (ioInRes n slot a rd s).KeepsInv :=
  ioAccess_inv _ _ _ _ hs fun _ ht => (modCl_inv ..).mpr (ioRead_inv _ _ ht)

@[simp] theorem ioOutRes_inv (n : Cl) (slot : Nat) (a : Word) (rd : Reg) (hs : Inv s) :
    (ioOutRes n slot a rd s).KeepsInv :=
  ioAccess_inv _ _ _ _ hs fun _ ht => ioWrite_inv _ _ _ ht

/-! ### Machine/SeqCap.lean -/

@[simp] theorem capTrap_inv {slot detail : Nat} {info : Word} : (capTrap slot detail info s).KeepsInv ↔ Inv s := Iff.rfl

@[simp] theorem cldRes_inv (n : Cl) (cd rs : Reg) (imm : BitVec 9) (hs : Inv s) : (cldRes n cd rs imm s).KeepsInv := by
  unfold cldRes
  have h := dLoad_inv n (cGet (s.cl n) rs) (baseAddr (s.cl n) rs imm) 4 hs
  dsimp only
  generalize dLoad n (cGet (s.cl n) rs) (baseAddr (s.cl n) rs imm) 4 s = r at h ⊢
  cases r
  case ok ws t =>
    dsimp only
    split <;> simp <;> exact h
  all_goals exact h

@[simp] theorem cstRes_inv (n : Cl) (cd rs : Reg) (imm : BitVec 9) (hs : Inv s) : (cstRes n cd rs imm s).KeepsInv := by
  unfold cstRes
  dsimp only
  split <;> simp [hs]

@[simp] theorem cbndRes_inv (n : Cl) (cd cs rt : Reg) (sc : Nat) (hs : Inv s) : (cbndRes n cd cs rt sc s).KeepsInv := by
  unfold cbndRes
  simp [hs]

@[simp] theorem cpermRes_inv (n : Cl) (cd cs rt : Reg) (hs : Inv s) : (cpermRes n cd cs rt s).KeepsInv := by
  unfold cpermRes
  simp [hs]

@[simp] theorem specialAccess_inv (n : Cl) (k perm : Nat) {f : State → SeqRes} (hs : Inv s)
    (hf : ∀ t, Inv t → (f t).KeepsInv) : (specialAccess n k perm f s).KeepsInv :=
  ioAccess_inv _ _ _ _ hs hf

/-! ### Machine/SeqFp.lean -/

@[simp] theorem fpWord_keepsInv (n : Cl) (k : Nat) (f : Cluster → List (RegName × RegVal) × Fl) (hs : Inv s) :
    KeepsInv (fpWord n k f s) :=
  keepsInv_next.mpr (issue_inv _ _ hs fun _ _ ht => ht)

@[simp] theorem fopRes_keepsInv (n : Cl) (v : VOp) (k : Nat) (w : FWidth) (fd fs ft : Reg) (hs : Inv s) :
    KeepsInv (fopRes n v k w fd fs ft s) :=
  fpWord_keepsInv _ _ _ hs

@[simp] theorem fmaRes_keepsInv (n : Cl) (v : VOp) (w : FWidth) (fd fs ft : Reg) (hs : Inv s) :
    KeepsInv (fmaRes n v w fd fs ft s) :=
  fpWord_keepsInv _ _ _ hs

@[simp] theorem fcvtRes_keepsInv (n : Cl) (fd : Reg) (f : Cluster → DWord × Fl) (hs : Inv s) :
    KeepsInv (fcvtRes n fd f s) :=
  fpWord_keepsInv _ _ _ hs

@[simp] theorem fcvtXRes_keepsInv (n : Cl) (rd : Reg) (f : Cluster → DWord × Fl) (hs : Inv s) :
    KeepsInv (fcvtXRes n rd f s) :=
  fpWord_keepsInv _ _ _ hs

@[simp] theorem vop4Res_keepsInv (n : Cl) (v : VOp) (k : Nat) (vd : VReg) (a b d : Cluster → Nat → DWord) (hs : Inv s)
    : KeepsInv (vop4Res n v k vd a b d s) :=
  fpWord_keepsInv _ _ _ hs

@[simp] theorem vop4_keepsInv (n : Cl) (v : VOp) (k : Nat) (vd va vb : VReg) (hs : Inv s) :
    KeepsInv (vop4 n v k vd va vb s) :=
  vop4Res_keepsInv _ _ _ _ _ _ _ hs

/-! ### Machine/SeqFlow.lean -/

@[simp] theorem bcRes_inv (n : Cl) (cond : Cond) (hint : Bool) (off : BitVec 12) (hs : Inv s) :
    (bcRes n cond hint off s).KeepsInv := by
  unfold bcRes
  simp [hs]

@[simp] theorem windowTrap_inv : (windowTrap s).KeepsInv ↔ Inv s := Iff.rfl

@[simp] theorem callRes_inv (n : Cl) (target : Word) (bubbles : Nat) (hs : Inv s) :
    (callRes n target bubbles s).KeepsInv := by
  unfold callRes
  simp [hs]

@[simp] theorem afterWrongPath_inv {n : Cl} {a : Word} {r : SeqRes} (h : r.KeepsInv) :
    (afterWrongPath n a r).KeepsInv := by
  cases r
  case done t j b f => exact (wrongPath_inv ..).mpr h
  all_goals exact h

@[simp] theorem execCallr_keepsInv (n : Cl) (rs : Reg) (hs : Inv s) : KeepsInv (execCallr n rs s) :=
  keepsInv_next.mpr (issue_inv _ _ hs fun _ _ ht => afterWrongPath_inv (callRes_inv _ _ _ ht))

@[simp] theorem returnTo_inv (n : Cl) (predicted : Word) (popped : Bool) (f : Cluster → Cluster) (hs : Inv s) :
    (returnTo n predicted popped f s).KeepsInv := by
  unfold returnTo
  simp [hs]

@[simp] theorem retRes_inv (n : Cl) (predicted : Word) (popped : Bool) (hs : Inv s) :
    (retRes n predicted popped s).KeepsInv := by
  unfold retRes
  simp [hs]

@[simp] theorem loopRes_inv (n : Cl) (count : Word) (len word : Nat) (hs : Inv s) :
    (loopRes n count len word s).KeepsInv := by
  unfold loopRes
  extract_lets a put
  split
  · exact hs
  · split <;> exact hs

@[simp ↓] theorem vsyncWord_inv (n : Cl) (hs : Inv s) : Inv (vsyncWord n s) := by
  unfold vsyncWord
  dsimp only
  split
  · exact inv_ite hs (issueWord_inv ((modCl_inv ..).mpr hs) fun _ _ ht => ht)
  · exact inv_ite (by simp [hs]) (issueWord_inv hs fun _ _ ht => ht)

@[simp] theorem sysRes_inv (n : Cl) (service : BitVec 9) (hs : Inv s) : (sysRes n service s).KeepsInv := by
  unfold sysRes
  simp [hs]

@[simp] theorem sretRes_inv (n : Cl) (hs : Inv s) : (sretRes n s).KeepsInv := by unfold sretRes; simp [hs]
@[simp] theorem retiFast_inv (n : Cl) : (retiFast n s).KeepsInv ↔ Inv s := Iff.rfl

@[simp] theorem retiNormal_inv (n : Cl) (hs : Inv s) : (retiNormal n s).KeepsInv := by
  unfold retiNormal
  dsimp only
  split
  · simp [hs]
  · have h := dLoad_inv n (cGet (s.cl n) 15) (xGet (s.cl n) 15) 4 hs
    generalize dLoad n (cGet (s.cl n) 15) (xGet (s.cl n) 15) 4 s = r at h ⊢
    cases r <;> exact h

@[simp ↓] theorem interruptTaken_inv (n : Cl) {s0 : State} (h0 : Inv s0) : Inv (interruptTaken n s0) := by
  unfold interruptTaken
  extract_lets s c
  have hs : Inv s := (closePair_inv ..).mpr h0
  clear_value s
  split
  · exact h0
  · split
    · exact getD_inv (fun t h => lateTrap_inv hs h) h0
    · split
      · exact h0
      · split
        · exact h0
        · refine inv_ite (fetchFault_inv _ hs) ?_
          split
          · exact h0
          · exact (modCl_inv ..).mpr (enterVector_inv hs ‹_›)

theorem spillStore_inv (n : Cl) (k : Nat) (hs : Inv s) : (spillStore n k s).KeepsInv := by
  unfold spillStore
  extract_lets s1 c cap
  have h1 : Inv s1 := (modCl_inv ..).mpr hs
  clear_value s1
  split
  · exact h1
  · split
    · exact h1
    · have h := directStore_inv n cap (ioGet 0x19 c) (winWords k c) h1
      generalize directStore n cap (ioGet 0x19 c) (winWords k c) s1 = r at h ⊢
      cases r <;> exact h

@[simp ↓] theorem windowSpill_inv (n : Cl) (hs : Inv s) : Inv (windowSpill n s) := by
  unfold windowSpill
  dsimp only
  split
  · exact hs
  · have h := spillStore_inv n (oldestWin (s.cl n)) hs
    generalize spillStore n (oldestWin (s.cl n)) s = r at h ⊢
    cases r
    case held => exact hs
    all_goals exact h

theorem fillLoad_inv (n : Cl) (k : Nat) (hs : Inv s) : (fillLoad n k s).KeepsInv := by
  unfold fillLoad
  extract_lets s1 c cap a
  have h1 : Inv s1 := (modCl_inv ..).mpr hs
  clear_value s1
  split
  · exact h1
  · split
    · exact h1
    · have h := directLoad_inv n cap a 8 h1
      generalize directLoad n cap a 8 s1 = r at h ⊢
      cases r <;> exact h

@[simp ↓] theorem windowFill_inv (n : Cl) (hs : Inv s) : Inv (windowFill n s) := by
  unfold windowFill
  dsimp only
  split
  · exact hs
  · have h := fillLoad_inv n ((cwp (s.cl n) + 8 - wres (s.cl n)) % 8) hs
    generalize fillLoad n ((cwp (s.cl n) + 8 - wres (s.cl n)) % 8) s = r at h ⊢
    cases r
    case held => exact hs
    all_goals exact h

/-- How a step of SWITCH ends: every state that it holds is canonical. -/
def SwStep.KeepsInv : SwStep → Prop
  | .ok t => Inv t
  | .held => True
  | .fail _ _ _ _ t => Inv t

theorem SwStep.KeepsInv.andThen {r : SwStep} {f : State → SwStep} (hr : r.KeepsInv) (hf : ∀ t, Inv t → (f t).KeepsInv)
    : (r.andThen f).KeepsInv := by
  cases r with
  | ok t => exact hf t hr
  | held => trivial
  | fail => exact hr

theorem swStore_inv {slot : Nat} {info : Word} {r : StoreRes} (h : r.KeepsInv) : (swStore slot info r).KeepsInv := by
  cases r <;> exact h

theorem swSpill_inv (n : Cl) (k : Nat) (hs : Inv s) : (swSpill n k s).KeepsInv := by
  induction k generalizing s with
  | zero => exact hs
  | succ k ih =>
    dsimp only [swSpill]
    have h := spillStore_inv n (oldestWin (s.cl n)) hs
    generalize spillStore n (oldestWin (s.cl n)) s = r at h ⊢
    cases r with
    | ok t => exact ih ((modCl_inv ..).mpr h)
    | held => trivial
    | fault => exact h

theorem swReserve_inv (n : Cl) (hs : Inv s) : (swReserve n s).KeepsInv := by
  unfold swReserve
  dsimp only
  split
  · exact hs
  · split
    · exact hs
    · exact hs
    · exact swStore_inv (directStore_inv _ _ _ _ hs)

theorem swUnspill_inv {n : Cl} {r : SwStep} (h : r.KeepsInv) : (swUnspill n r).KeepsInv := by cases r <;> exact h

theorem swFill_inv (n : Cl) (hs : Inv s) : (swFill n s).KeepsInv := by
  unfold swFill
  dsimp only
  have h := fillLoad_inv n (cwp (s.cl n)) hs
  generalize fillLoad n (cwp (s.cl n)) s = r at h ⊢
  cases r with
  | ok t => exact h
  | held => trivial
  | fault d t => exact syncTrap_getD_inv h h

theorem swSteps_inv (n : Cl) (rs : Reg) (hs : Inv s) : (swSteps n rs s).KeepsInv := by
  unfold swSteps
  extract_lets a cap s1
  have h1 : Inv s1 := (modCl_inv ..).mpr hs
  clear_value s1
  have h := directLoad_inv n cap a 16 h1
  generalize directLoad n cap a 16 s1 = r at h ⊢
  cases r with
  | held => trivial
  | fault d t => exact h
  | ue t => exact h
  | ok ws t =>
    replace h : Inv t := h
    dsimp only
    split
    · exact inv_ite (tagFailed_inv.mpr h) h
    · exact inv_ite (tagFailed_inv.mpr h) h
    · refine (swSpill_inv n _ h).andThen fun u hu =>
        (swUnspill_inv ((swReserve_inv n hu).andThen fun v hv => ?_)).andThen fun v hv => hv
      exact swStore_inv (directStore_inv _ _ _ _ hv)

@[simp] theorem switchRes_inv (n : Cl) (rs : Reg) (hs : Inv s) : (switchRes n rs s).KeepsInv := by
  unfold switchRes
  dsimp only
  split
  · simp [hs]
  · split
    · trivial
    · have h := swSteps_inv n rs hs
      generalize swSteps n rs s = r at h ⊢
      cases r with
      | held => trivial
      | fail => exact h
      | ok t => exact swFill_inv n h

/-! ### Machine/Transfers.lean -/

@[simp ↓] theorem overlapWord_inv (old : SMap (Option Word)) (rest : List (Nat × Nat)) (a : Nat) (v : Word) :
    Inv (overlapWord old rest a v s).2 ↔ Inv s := by
  dsimp only [overlapWord]; split <;> simp

@[simp ↓] theorem mvRead_inv (m : Master) (old : SMap (Option Word)) (rest : List (Nat × Nat)) (a : Nat) (hs : Inv s)
    : Inv (mvRead m old rest a s).2 := by
  unfold mvRead
  have h := wordRead_inv m .mover a hs
  generalize wordRead m .mover a s = r at h ⊢
  obtain ⟨acc, t⟩ := r
  cases acc
  case ok v => exact (overlapWord_inv ..).mpr h
  all_goals exact h

@[simp ↓] theorem mvWhole_inv (d : MoverSt) (k : Nat) : Inv (mvWhole d k s) ↔ Inv s := by dsimp only [mvWhole]; simp
@[simp ↓] theorem mvSetDone_inv (c k : Nat) : Inv (mvSetDone c k s) ↔ Inv s := Iff.rfl

@[simp ↓] theorem linkWords_inv (m : Master) (a k : Nat) (hs : Inv s) : Inv (linkWords m a k s).2 := by
  induction k generalizing a s with
  | zero => exact hs
  | succ k ih =>
    dsimp only [linkWords]
    have h := wordRead_inv m .mover a hs
    generalize wordRead m .mover a s = r at h ⊢
    obtain ⟨acc, t⟩ := r
    cases acc
    case ok v =>
      have ht := ih (a + 1) h
      dsimp only at ht ⊢
      generalize linkWords m (a + 1) k t = p at ht ⊢
      obtain ⟨_ | _, u⟩ := p <;> exact ht
    all_goals exact h

@[simp ↓] theorem mvLink_inv (c : Mover) (d : MoverSt) (hs : Inv s) : Inv (mvLink c d s) := by
  unfold mvLink
  extract_lets cap
  have hcap : Inv cap.2 := (mvCap_inv ..).mpr hs
  clear_value cap
  split
  · exact (mvStop_inv ..).mpr hcap
  · have h := linkWords_inv (mvMaster c) d.nxt.toNat 11 hcap
    generalize linkWords (mvMaster c) d.nxt.toNat 11 cap.2 = r at h ⊢
    obtain ⟨(_ | code) | ws, t⟩ := r
    · exact hs
    · exact (mvStop_inv ..).mpr h
    · dsimp only at h ⊢
      split
      · simp [h]
      · split <;> simp [h]

@[simp ↓] theorem mvWait_inv (c : Mover) (d : MoverSt) (r : MvRes) : Inv (mvWait c d r) ↔ Inv r.s := by
  unfold mvWait
  simp

theorem mvCopy_inv (m : Master) (cap : CapV) (ws : List (Nat × Nat)) (old : SMap (Option Word)) (got : Option Word)
    (k : Nat) (hs : Inv s) : Inv (mvCopy m cap ws old got k s).s := by
  induction ws generalizing old got k s with
  | nil => exact hs
  | cons w ws ih =>
    obtain ⟨a, b⟩ := w
    have hsome (v : Word) {t : State} (ht : Inv t) : Inv (mvCopy m cap ((a, b) :: ws) old (some v) k t).s := by
      dsimp only [mvCopy]
      have h := wordWrite_inv m .mover cap b v ht
      generalize wordWrite m .mover cap b v t = r at h ⊢
      obtain ⟨acc, u⟩ := r
      cases acc
      case ok => exact ih _ _ _ h
      all_goals exact h
    cases got with
    | some v => exact hsome v hs
    | none =>
      dsimp only [mvCopy]
      have h := mvRead_inv m old ws a hs
      generalize mvRead m old ws a s = r at h ⊢
      obtain ⟨acc, t⟩ := r
      cases acc
      case ok v => exact hsome v h
      all_goals exact h

theorem mvRun_inv (c : Mover) (d : MoverSt) (bound : Option Nat) (hs : Inv s) : Inv (mvRun c d bound s).s := by
  unfold mvRun
  dsimp only
  have h (ws old got k) : Inv (mvCopy (mvMaster c) (mvCap c.val 0x10 s).1 ws old got k (mvCap c.val 0x10 s).2).s :=
    mvCopy_inv _ _ _ _ _ _ ((mvCap_inv ..).mpr hs)
  refine inv_ite (h ..) ?_
  simp [h]

@[simp ↓] theorem mvAborted_inv (c : Mover) (d : MoverSt) (hs : Inv s) : Inv (mvAborted c d s) := by
  unfold mvAborted
  extract_lets r
  have h : Inv r.s := mvRun_inv _ _ _ (drawn_inv.mpr hs)
  clear_value r
  split <;> simp [h]

@[simp ↓] theorem mvTransfer_inv (c : Mover) (hs : Inv s) : Inv (mvTransfer c s) := by
  unfold mvTransfer
  split
  · exact hs
  · split
    · simp [hs]
    · split
      · exact hs
      · extract_lets r
        have h : Inv r.s := mvRun_inv _ _ _ hs
        clear_value r
        split <;> simp [h]

/-! ### Machine/Supplies.lean -/

@[simp ↓] theorem pauseBegins_inv (hs : Inv s) : Inv (pauseBegins s) := by
  unfold pauseBegins
  split
  · exact hs
  · refine foldl_keeps_inv (fun t c ht => ?_) _ hs
    split
    · exact ht
    · split
      · exact ht
      · extract_lets r
        have h : Inv r.s := mvRun_inv _ _ _ (drawn_inv.mpr ht)
        clear_value r
        split <;> simp [h]

@[simp ↓] theorem tjTrip_inv : Inv (tjTrip s) := by dsimp only [tjTrip]; simp
@[simp ↓] theorem putTemps_inv (ts : List (Option Word)) : Inv (putTemps ts s) ↔ Inv s := by dsimp only [putTemps]; simp

/-! ### Machine/Ticks.lean -/

@[simp ↓] theorem nextNs_inv : Inv (nextNs s) ↔ Inv s := Iff.rfl
@[simp ↓] theorem advance_inv : Inv (advance s) ↔ Inv s := by dsimp only [advance]; simp
@[simp ↓] theorem safeEntry_inv : Inv (safeEntry s) ↔ Inv s := by dsimp only [safeEntry]; simp
@[simp ↓] theorem baseTick_inv : Inv (baseTick s) ↔ Inv s := by dsimp only [baseTick]; simp
@[simp ↓] theorem toRun_inv : Inv (toRun s) ↔ Inv s := by dsimp only [toRun]; simp

@[simp ↓] theorem eachCl_inv (f : Cl → State → State) (h : ∀ n t, Inv (f n t) ↔ Inv t) : Inv (eachCl f s) ↔ Inv s :=
  foldl_inv _ (fun t n => h n t) _ _

@[simp ↓] theorem safeReturn_inv : Inv (safeReturn s) ↔ Inv s := by dsimp only [safeReturn]; simp
@[simp ↓] theorem degrRule_inv : Inv (degrRule s) ↔ Inv s := by dsimp only [degrRule]; simp
@[simp ↓] theorem simTick_inv : Inv (simTick s) ↔ Inv s := by dsimp only [simTick]; simp

@[simp ↓] theorem tickCluster_inv (k : Nat) (n : Cl) : Inv (tickCluster k n s) ↔ Inv s := by
  dsimp only [tickCluster]; simp

@[simp ↓] theorem baseFrameTick_inv : Inv (baseFrameTick s) ↔ Inv s := by dsimp only [baseFrameTick]; simp

theorem setDeadline_inv (n : Cl) (p : Bool × State) (k : Nat) : Inv (setDeadline n p k).2 ↔ Inv p.2 := by
  unfold setDeadline
  simp

@[simp ↓] theorem deadlines_inv (n : Cl) : Inv (deadlines n s) ↔ Inv s := by
  unfold deadlines
  extract_lets r
  have h : Inv r.2 ↔ Inv s := foldl_snd_inv _ (fun _ _ => setDeadline_inv ..) _ _
  clear_value r
  simp [h]

@[simp ↓] theorem commitReads_inv (n : Cl) (own : Option (List (Nat × Bool)))
    (pair : Option (Cl × Option (List (Nat × Bool)))) (hs : Inv s) : Inv (commitReads n own pair s) := by
  dsimp only [commitReads]; simp [hs]

@[simp ↓] theorem fireSets_inv (n : Cl) : Inv (fireSets n s) ↔ Inv s := by dsimp only [fireSets]; simp

@[simp ↓] theorem edgeHandover_inv (n : Cl) (hs : Inv s) : Inv (edgeHandover n s) := by
  dsimp only [edgeHandover]; simp [hs]

@[simp ↓] theorem holdWindow_inv (n : Cl) (hs : Inv s) : Inv (holdWindow n s) := by dsimp only [holdWindow]; simp [hs]

@[simp ↓] theorem failedEdge_inv (n : Cl) (pair : Option (Cl × Option (List (Nat × Bool)))) (hs : Inv s) :
    Inv (failedEdge n pair s) := by
  unfold failedEdge
  extract_lets a t u
  have ht : Inv t := inv_ite (by simp [hs]) (journalAppend_inv _ (by simp [a, hs]))
  simp [u, ht]

@[simp ↓] theorem liveEdge_inv (n : Cl) (own : Option (List (Nat × Bool)))
    (pair : Option (Cl × Option (List (Nat × Bool)))) (hs : Inv s) : Inv (liveEdge n own pair s) := by
  unfold liveEdge
  extract_lets s2 s3 s4 s5 s6
  have h2 : Inv s2 := by
    simp [s2, hs]
  have h3 : Inv s3 := journalAppend_inv _ (paramApply_inv _ (edgeHandover_inv _ h2))
  have h5 : Inv s5 := by
    simp [s5, s4, h3]
  exact inv_ite (by simp [h2]) (by simp [s6, h5])

@[simp ↓] theorem swapLost_inv (n : Cl) (hs : Inv s) : Inv (swapLost n s) := by dsimp only [swapLost]; simp [hs]

/-! ### Every command -/

/-- Every command keeps the form: each arm is a function of its module, whose parts have their lemmas above. -/
theorem exec_keepsInv (c : Instr) (hs : Inv s) : KeepsInv (exec c s) := by
  cases c with
  | eventDelivery | logicCellOutput =>
    dsimp only [exec, execEventDelivery, execLogicCellOutput]
    (repeat' split) <;> simp [hs]
  | hubSwtrig | pqWr | pqWrLast | pqRewind | pqFlush | pqStaleTimeout =>
    dsimp only [exec, execHubSwtrig, execPqWr, execPqWrLast, execPqRewind, execPqFlush, execPqStaleTimeout]
    simp [hs]
  | pqHeldWriteComplete =>
    dsimp only [exec, execPqHeldWriteComplete]
    split <;> simp [hs]
  | plotCfgWrite | plotHoWrite | plotPortAAck | lsPatrolScrub =>
    dsimp only [exec, execPlotCfgWrite, execPlotHoWrite, execPlotPortAAck, execLsPatrolScrub]
    simp [hs]
  | bankSpareCopyComplete | pseudoChannelCopyComplete =>
    dsimp only [exec, execBankSpareCopyComplete, execPseudoChannelCopyComplete]
    split <;> simp [hs]
  | hbmScrub =>
    dsimp only [exec, execHbmScrub]
    (repeat' split) <;> simp [hs]
  | linkEnable | linkDisable | linkUp | linkResume | ingressBufferWrite | sysrefGo | jlCntW0Read =>
    dsimp only [exec, execLinkEnable, execLinkDisable, execLinkUp, execLinkResume, execIngressBufferWrite, execSysrefGo,
      execJlCntW0Read]
    simp [hs]
  | linkDownTimeout | egressRelease | sysrefPulse =>
    dsimp only [exec, execLinkDownTimeout, execEgressRelease, execSysrefPulse]
    split <;> simp [hs]
  | bankSupplyChange | bankCfgWrite | pinEdge | captureGroupEnable | edgeGroupEnable | counterStep | cmpWrite
    | generatorStep | globalStartGo | generatorStopAll | generatorArm | generatorDisarm | tmcCntW0Read =>
    dsimp only [exec, execBankSupplyChange, execBankCfgWrite, execPinEdge, execCaptureGroupEnable, execEdgeGroupEnable,
      execCounterStep, execCmpWrite, execGeneratorStep, execGlobalStartGo, execGeneratorStopAll, execGeneratorArm,
      execGeneratorDisarm, execTmcCntW0Read]
    simp [hs]
  | scheduledEdge =>
    dsimp only [exec, execScheduledEdge]
    (repeat' split) <;> simp [hs]
  | counterLoad =>
    dsimp only [exec, execCounterLoad]
    split <;> simp [hs]
  | tbFrameW0Read | tbSimW0Read | referenceLoss | referenceReturn | syncInMark =>
    dsimp only [exec, execTbFrameW0Read, execTbSimW0Read, execReferenceLoss, execReferenceReturn, execSyncInMark]
    simp [hs]
  | referenceRevert =>
    dsimp only [exec, execReferenceRevert]
    split <;> simp [hs]
  | msixRaise | hostMemoryAccess | hostSnoop =>
    dsimp only [exec, execMsixRaise, execHostMemoryAccess, execHostSnoop]
    split <;> simp [hs]
  | msixUnmask | mailboxResponse | mailboxTimeout | backInvalidate | cxlPortUp | cxlPortDown | cxlLaneDegrade
    | cxlWidthRestoreTry | cxlFailoverTimeout | cxlFoNow | cxlFoBack =>
    dsimp only [exec, execMsixUnmask, execMailboxResponse, execMailboxTimeout, execBackInvalidate, execCxlPortUp,
      execCxlPortDown, execCxlLaneDegrade, execCxlWidthRestoreTry, execCxlFailoverTimeout, execCxlFoNow, execCxlFoBack]
    simp [hs]
  | moverGo | moverTrigger | plotMvDoneW0Read =>
    dsimp only [exec, execMoverGo, execMoverTrigger, execPlotMvDoneW0Read]
    simp [hs]
  | netFrameReceive | netFrameLaunch | txqSend | txqTrigger | canBusError | cmacJobDone =>
    dsimp only [exec, execNetFrameReceive, execNetFrameLaunch, execTxqSend, execTxqTrigger, execCanBusError,
      execCmacJobDone]
    (repeat' split) <;> simp [hs]
  | canBusOff | canBusOffRecovery | netLinkChange | mdioAccess | mdioAccessComplete | gateEntryChange | gclSwap
    | gclSwapTakeover | gclEnable | cmacKeyW0Write | cmacKeyW5Write | cmacMsgWrite | cmacGen | cmacVerify | netCntW0Read
    | netCmFvW0Read =>
    dsimp only [exec, execCanBusOff, execCanBusOffRecovery, execNetLinkChange, execMdioAccess, execMdioAccessComplete,
      execGateEntryChange, execGclSwap, execGclSwapTakeover, execGclEnable, execCmacKeyW0Write, execCmacKeyW5Write,
      execCmacMsgWrite, execCmacGen, execCmacVerify, execNetCntW0Read, execNetCmFvW0Read]
    simp [hs]
  | groupStart | groupRestart =>
    dsimp only [exec, execGroupStart, execGroupRestart]
    (repeat' split) <;> simp [hs]
  | writeBufferDrain | vadd | vsub | vrsub | vadds | vabs | vneg | vmin | vmax | vcmp | vsel | vclmp | vmul | vmuls
    | vfma | vfms | vaxpy | vrcp | vdiv | vsqrt | vrsqrt | vand | vor | vxor | vnot | vshl | vshr | vsar | vcvt | vmov
    | vfill | mld | mst | mcnt | rsum | rdot | rsumsq | rmax | rmin | rimax | rsegdot | rsegsum | viota | vcmpr | vexpd
    | vintp =>
    dsimp only [exec, execWriteBufferDrain, execVadd, execVsub, execVrsub, execVadds, execVabs, execVneg, execVmin,
      execVmax, execVcmp, execVsel, execVclmp, execVmul, execVmuls, execVfma, execVfms, execVaxpy, execVrcp, execVdiv,
      execVsqrt, execVrsqrt, execVand, execVor, execVxor, execVnot, execVshl, execVshr, execVsar, execVcvt, execVmov,
      execVfill, execMld, execMst, execMcnt, execRsum, execRdot, execRsumsq, execRmax, execRmin, execRimax, execRsegdot,
      execRsegsum, execViota, execVcmpr, execVexpd, execVintp]
    simp [hs]
  | heldExceptionRecord =>
    dsimp only [exec, execHeldExceptionRecord]
    split <;> simp [hs]
  | setBuildOpen | setBuildClose | setArm | setDisarm | preOpen | sdescCmd | localBaseTick | setFireEvent | vuConfClear
    | vuConfW0Read | vuFslotClashW0Read =>
    dsimp only [exec, execSetBuildOpen, execSetBuildClose, execSetArm, execSetDisarm, execPreOpen, execSdescCmd,
      execLocalBaseTick, execSetFireEvent, execVuConfClear, execVuConfW0Read, execVuFslotClashW0Read]
    simp [hs]
  | odPqLastF0Read | odPqAppliedW0Read | paramQueueApplyStopped =>
    dsimp only [exec, execOdPqLastF0Read, execOdPqAppliedW0Read, execParamQueueApplyStopped]
    simp [hs]
  | paramBacklogPush =>
    dsimp only [exec, execParamBacklogPush]
    (repeat' split) <;> simp [hs]
  | ucodeOpen | ucodeSeal =>
    dsimp only [exec, execUcodeOpen, execUcodeSeal]
    simp [hs]
  | replayFrame =>
    dsimp only [exec, execReplayFrame]
    (repeat' split) <;> simp [hs]
  | mirrorPassAbandon | firstLiveFrame =>
    dsimp only [exec, execMirrorPassAbandon, execFirstLiveFrame]
    split <;> simp [hs]
  | restoreComplete | swapGo | fence | unfence | unitInternalError =>
    dsimp only [exec, execRestoreComplete, execSwapGo, execFence, execUnfence, execUnitInternalError]
    simp [hs]
  | secLoadHardpanExtension | secLoadTopsoil | secLoadMicrocodePatch | secLoadLoamImage | secLoadHostPolicy | secRekey
    | secCommit | secLogExtend | secRelease | secOwner | secRequestUnlistedKind | mailboxDoorbell =>
    dsimp only [exec, execSecLoadHardpanExtension, execSecLoadTopsoil, execSecLoadMicrocodePatch, execSecLoadLoamImage,
      execSecLoadHostPolicy, execSecRekey, execSecCommit, execSecLogExtend, execSecRelease, execSecOwner,
      execSecRequestUnlistedKind, execMailboxDoorbell]
    simp [hs]
  | topsoilQuiesceTimeout | topsoilReplacement =>
    dsimp only [exec, execTopsoilQuiesceTimeout, execTopsoilReplacement]
    split <;> simp [hs]
  | spdmRequest | factoryCommand =>
    dsimp only [exec, execSpdmRequest, execFactoryCommand]
    (repeat' split) <;> simp [hs]
  | coldReset | warmReset | wake | modeRequestStandby | modeRequestConfigure | modeRequestArmed | modeRequestRun
    | modeRequestSafeOutput | modeRequestReplay | modeRequestService | modeRequestUnacceptedCode | standbyEntry
    | replayGo | replayDone | domainRequest =>
    dsimp only [exec, execColdReset, execWarmReset, execWake, execModeRequestStandby, execModeRequestConfigure,
      execModeRequestArmed, execModeRequestRun, execModeRequestSafeOutput, execModeRequestReplay,
      execModeRequestService, execModeRequestUnacceptedCode, execStandbyEntry, execReplayGo, execReplayDone,
      execDomainRequest]
    simp [hs]
  | nfpRead | nfpWrite | nfpReadSeg | nfpWriteSeg | nfpDescribe | nfpWriteMulti | nfpUnlistedOperation =>
    dsimp only [exec, execNfpRead, execNfpWrite, execNfpReadSeg, execNfpWriteSeg, execNfpDescribe, execNfpWriteMulti,
      execNfpUnlistedOperation]
    simp [hs]
  | seqEvcClear | seqEvcW0Read | seqEvcSnapfW0Read | evfGcntClear | evfGcntW0Read =>
    dsimp only [exec, execSeqEvcClear, execSeqEvcW0Read, execSeqEvcSnapfW0Read, execEvfGcntClear, execEvfGcntW0Read]
    simp [hs]
  | registerWrite | taskBindingWrite =>
    dsimp only [exec, execRegisterWrite, execTaskBindingWrite]
    split <;> simp [hs]
  | bar0Read | bar0Write =>
    dsimp only [exec, execBar0Read, execBar0Write]
    simp [hs]
  | bar2Access =>
    dsimp only [exec, execBar2Access]
    (repeat' split) <;> simp [hs]
  | storeBufferDrain =>
    dsimp only [exec, execStoreBufferDrain]
    simp [hs]
  | illegalInstruction =>
    dsimp only [exec, execIllegalInstruction]
    simp [hs]
  | monId | monBaud | monitorBreak | monRmw | monCnt | monOd | monImg | monPub | monHalt | monStep
    | monGo | monBist | jtagInstruction =>
    dsimp only [exec, execMonId, execMonBaud, execMonitorBreak, execMonRmw, execMonCnt, execMonOd,
      execMonImg, execMonPub, execMonHalt, execMonStep, execMonGo, execMonBist, execJtagInstruction]
    simp [hs]
  | monUnknownCommand | lockTimeout =>
    dsimp only [exec, execMonUnknownCommand, execLockTimeout]
    split <;> simp [hs]
  | shortMov | shortAdd | shortSub | shortAnd | shortOr | shortXor | shortAddi | shortSubi | shortShli | shortShri
    | shortSari | shortMovi | shortCmp | shortSkip | nop | brs | aluAdd | aluSub | aluAnd | aluOr | aluXor | aluAndn
    | aluShl | aluShr | aluSar | aluRol | aluMin | aluMax | aluMinu | aluMaxu | aluSlt | aluSltu | aluAdds | aluAddx
    | aluSubs | aluSubx | aluClz | aluPopc | addi | andi | ori | xori | shiShl | shiShr | shiSar | shiRol | cmp | cmpi
    | lil | lis | lih | ld | ldd | st | std | ldf | stf | ldv | stv | trd | sync | drd | dwr | dadd | dld | dsto
    | orderIssueQueue | orderIssueFence | orderAppend | orderIssueNotify =>
    dsimp only [exec, execShortMov, execShortAdd, execShortSub, execShortAnd, execShortOr, execShortXor, execShortAddi,
      execShortSubi, execShortShli, execShortShri, execShortSari, execShortMovi, execShortCmp, execShortSkip, execNop,
      execBrs, execAluAdd, execAluSub, execAluAnd, execAluOr, execAluXor, execAluAndn, execAluShl, execAluShr,
      execAluSar, execAluRol, execAluMin, execAluMax, execAluMinu, execAluMaxu, execAluSlt, execAluSltu, execAluAdds,
      execAluAddx, execAluSubs, execAluSubx, execAluClz, execAluPopc, execAddi, execAndi, execOri, execXori, execShiShl,
      execShiShr, execShiSar, execShiRol, execCmp, execCmpi, execLil, execLis, execLih, execLd, execLdd, execSt,
      execStd, execLdf, execStf, execLdv, execStv, execTrd, execSync, execDrd, execDwr, execDadd, execDld, execDsto,
      execOrderIssueQueue, execOrderIssueFence, execOrderAppend, execOrderIssueNotify]
    simp +contextual [hs]
  | ioIn | ioOut | ioInr | ioOutr =>
    dsimp only [exec, execIoIn, execIoOut, execIoInr, execIoOutr]
    simp +contextual [hs]
  | cld | cst | cbnd | cperm | cmov | cclr | crd | cspr | cspw =>
    dsimp only [exec, execCld, execCst, execCbnd, execCperm, execCmov, execCclr, execCrd, execCspr, execCspw]
    simp +contextual [hs]
  | fopAdd | fopSub | fopMul | fopMin | fopMax | fopAbs | fopNeg | fopMov | fmaAdd | fmaSub | fcmp | fcvtF24ToF48
    | fcvtF48ToF24 | fcvtI24ToF24 | fcvtI24ToF48 | fcvtF24ToI24 | fcvtF48ToI24 | fmxXToFLow | fmxXToFHigh | fmxFLowToX
    | fmxFHighToX | fdivDiv | fdivRcp | fdivSqrt | fdivRsqrt | vop4Add | vop4Sub | vop4Mul | vop4Min | vop4Max | vop4Abs
    | vop4Neg | vop4Mov | vfma4Add | vfma4Sub | vdiv4Div | vdiv4Rcp | vdiv4Sqrt | vdiv4Rsqrt | vlaneWrite | vlaneRead =>
    dsimp only [exec, execFopAdd, execFopSub, execFopMul, execFopMin, execFopMax, execFopAbs, execFopNeg, execFopMov,
      execFmaAdd, execFmaSub, execFcmp, execFcvtF24ToF48, execFcvtF48ToF24, execFcvtI24ToF24, execFcvtI24ToF48,
      execFcvtF24ToI24, execFcvtF48ToI24, execFmxXToFLow, execFmxXToFHigh, execFmxFLowToX, execFmxFHighToX, execFdivDiv,
      execFdivRcp, execFdivSqrt, execFdivRsqrt, execVop4Add, execVop4Sub, execVop4Mul, execVop4Min, execVop4Max,
      execVop4Abs, execVop4Neg, execVop4Mov, execVfma4Add, execVfma4Sub, execVdiv4Div, execVdiv4Rcp, execVdiv4Sqrt,
      execVdiv4Rsqrt, execVlaneWrite, execVlaneRead]
    simp +contextual [hs]
  | bra | bc | jr | call | link | linkr | ret | retl | skip | skb | loop | loopi | wait | vsync | sys | sret | clrIe
    | setIe | reti | interruptInputEvent | interruptTaken | watchdogExpiry | windowSpill | windowFill | switch =>
    dsimp only [exec, execBra, execBc, execJr, execCall, execLink, execLinkr, execRet, execRetl, execSkip,
      execSkb, execLoop, execLoopi, execWait, execVsync, execSys, execSret, execClrIe, execSetIe, execReti,
      execInterruptInputEvent, execInterruptTaken, execWatchdogExpiry, execWindowSpill, execWindowFill, execSwitch]
    simp +contextual [hs]
  | moverTransferDone =>
    dsimp only [exec, execMoverTransferDone]
    simp [hs]
  | moverAbort =>
    dsimp only [exec, execMoverAbort]
    split <;> simp [hs]
  | railWarning | railWarningEnd | railResetLevel =>
    dsimp only [exec, execRailWarning, execRailWarningEnd, execRailResetLevel]
    simp [hs]
  | thermalSample =>
    dsimp only [exec, execThermalSample]
    (repeat' split) <;> simp [hs]
  | baseTick | tbStepLoad | gridStartTick | gridStopTick | gridHoldTick | gridResumeTick | baseFrameTick
    | clusterTickEdge =>
    dsimp only [exec, execBaseTick, execTbStepLoad, execGridStartTick, execGridStopTick, execGridHoldTick,
      execGridResumeTick, execBaseFrameTick, execClusterTickEdge]
    simp [hs]
  | channelSwtrig | evfSwevFire | forkenFall | pqEnable | pqDisable | pqRd | laneLockLoss | converterFrameReceive
    | capW0Read | captureFillWrite | tmcCntValRead | globalStart | gridStart | gridStop | gridHold | gridResume | tbStep
    | tbSlewWrite | tbTimeW0Read | tbLocalW0Read | hdmAccess | cxlSyncRead | odPqPush | odPqCapW3Write | ucodeSwitch
    | ucodeCancel | ucodeLdDataW5Write | secRequestDone | domainSwitchComplete | groupComplete
    | mirrorPassComplete | monRd | monWr | callr =>
    dsimp only [exec]
    simp [hs]

end Sys2Proof.Machine

namespace Sys2Proof.Proofs

open Sys2Proof.Machine

/-- Settles O3: a step runs the front command or none, and every command keeps the form. -/
theorem everyStepKeepsMemoryCanonical : Obligations.EveryStepKeepsMemoryCanonical := by
  unfold Obligations.EveryStepKeepsMemoryCanonical
  intro s t hs h
  obtain ⟨hrun, hidle⟩ := stepRunsTheFrontCommand
  cases hq : s.pending with
  | nil =>
    rw [hidle s hq] at h
    cases h
    exact hs
  | cons c rest =>
    rw [hrun c rest s hq] at h
    exact exec_keepsInv c ((inv_mk ..).mpr hs) t h

end Sys2Proof.Proofs
end
section
/-!
PROOFS. Bits and fields of a word after a field of it is set (R5).
-/
namespace Sys2Proof.Machine

/-! ## Bits and fields of a word (R5) -/

theorem testBit_fld (hi lo k : Nat) {w : Nat} (v : BitVec w) :
    (fld hi lo v).testBit k = (decide (k < hi + 1 - lo) && bitOf (lo + k) v) := by
  simp [fld, bitOf, Nat.testBit_mod_two_pow, Nat.testBit_div_two_pow, BitVec.getLsbD, Nat.add_comm]

theorem bitOf_setFld {w : Nat} {hi lo : Nat} (hl : lo ≤ hi) (hw : hi < w) (x j : Nat) (v : BitVec w) :
    bitOf j (setFld hi lo x v) = if lo ≤ j ∧ j ≤ hi then x.testBit (j - lo) else bitOf j v := by
  have hlow : v.toNat % 2 ^ lo < 2 ^ lo := Nat.mod_lt _ (Nat.two_pow_pos lo)
  have hmid : 2 ^ lo * (x % 2 ^ (hi + 1 - lo)) + v.toNat % 2 ^ lo < 2 ^ (hi + 1) := by
    have hx : x % 2 ^ (hi + 1 - lo) < 2 ^ (hi + 1 - lo) := Nat.mod_lt _ (Nat.two_pow_pos _)
    calc _ < 2 ^ lo * (x % 2 ^ (hi + 1 - lo) + 1) := by rw [Nat.mul_add]; omega
      _ ≤ 2 ^ lo * 2 ^ (hi + 1 - lo) := Nat.mul_le_mul_left _ hx
      _ = 2 ^ (hi + 1) := by rw [← Nat.pow_add]; congr 1; omega
  have hparts : v.toNat / 2 ^ (hi + 1) * 2 ^ (hi + 1) + x % 2 ^ (hi + 1 - lo) * 2 ^ lo + v.toNat % 2 ^ lo =
      2 ^ (hi + 1) * (v.toNat / 2 ^ (hi + 1)) + (2 ^ lo * (x % 2 ^ (hi + 1 - lo)) + v.toNat % 2 ^ lo) := by ring
  have hout : w ≤ j → v.toNat.testBit j = false := fun h =>
    Nat.testBit_lt_two_pow (Nat.lt_of_lt_of_le v.isLt (Nat.pow_le_pow_right (by decide) h))
  rw [bitOf, bitOf, setFld, BitVec.getLsbD, BitVec.getLsbD, BitVec.toNat_ofNat, hparts, Nat.testBit_mod_two_pow,
    Nat.testBit_two_pow_mul_add _ hmid, Nat.testBit_two_pow_mul_add _ hlow]
  simp only [Nat.testBit_mod_two_pow, Nat.testBit_div_two_pow]
  by_cases hin : lo ≤ j ∧ j ≤ hi
  · have h1 : j < w := by omega
    have h2 : j - lo < hi + 1 - lo := by omega
    simp [hin, h1, h2, Nat.lt_succ_of_le hin.2, Nat.not_lt.mpr hin.1]
  · rw [if_neg hin]
    by_cases hj : j < hi + 1
    · have h1 : j < w := by omega
      have h2 : j < lo := by omega
      simp [h1, h2, hj]
    · by_cases hjw : j < w
      · simp [hjw, hj, Nat.sub_add_cancel (Nat.le_of_not_lt hj)]
      · simp [hjw, hout (Nat.le_of_not_lt hjw)]

theorem bitOf_setBit {w i : Nat} (hi : i < w) (j : Nat) (b : Bool) (v : BitVec w) :
    bitOf j (setBit i b v) = if i = j then b else bitOf j v := by
  rw [setBit, bitOf_setFld (Nat.le_refl i) hi]
  by_cases h : i = j
  · subst h; cases b <;> simp
  · rw [if_neg (by omega), if_neg h]

theorem fld_setFld_self {w hi lo : Nat} (hl : lo ≤ hi) (hw : hi < w) (x : Nat) (v : BitVec w) :
    fld hi lo (setFld hi lo x v) = x % 2 ^ (hi + 1 - lo) := by
  refine Nat.eq_of_testBit_eq fun k => ?_
  rw [testBit_fld, bitOf_setFld hl hw, Nat.testBit_mod_two_pow]
  by_cases hk : k < hi + 1 - lo
  · rw [if_pos (by omega), Nat.add_sub_cancel_left]
  · simp [hk]

theorem fld_setFld_of_disjoint {w hi lo hi' lo' : Nat} (hl : lo ≤ hi) (hw : hi < w) (h : hi' < lo ∨ hi < lo') (x : Nat)
    (v : BitVec w) : fld hi' lo' (setFld hi lo x v) = fld hi' lo' v := by
  refine Nat.eq_of_testBit_eq fun k => ?_
  rw [testBit_fld, testBit_fld, bitOf_setFld hl hw]
  by_cases hk : k < hi' + 1 - lo'
  · rw [if_neg (by omega)]
  · simp [hk]

theorem fld_setBit_of_outside {w i hi lo : Nat} (hi' : i < w) (h : i < lo ∨ hi < i) (b : Bool) (v : BitVec w) :
    fld hi lo (setBit i b v) = fld hi lo v :=
  fld_setFld_of_disjoint (Nat.le_refl i) hi' (by omega) _ v

theorem fld_lt (hi lo : Nat) {w : Nat} (v : BitVec w) : fld hi lo v < 2 ^ (hi + 1 - lo) :=
  Nat.mod_lt _ (Nat.two_pow_pos _)

end Sys2Proof.Machine
end
section
/-!
PROOFS. Registers of the hub after an update, and what the firing of an event source leaves alone (R35, R342–R345).
-/
namespace Sys2Proof.Machine

/-! ## Registers of the hub after an update -/

theorem hubGet_hubSetBit (o i p : Nat) (b : Bool) (s : State) :
    hubGet p (hubSetBit o i b s) = if o = p then setBit i b (hubGet o s) else hubGet p s := hubGet_hubPut ..

theorem hubGet_hubSetFld (o hi lo v p : Nat) (s : State) :
    hubGet p (hubSetFld o hi lo v s) = if o = p then setFld hi lo v (hubGet o s) else hubGet p s := hubGet_hubPut ..

theorem hubGet_hubPutPair (o p : Nat) (v : DWord) (s : State) :
    hubGet p (hubPutPair o v s) =
      if o + 1 = p then v.extractLsb' 24 24 else if o = p then v.extractLsb' 0 24 else hubGet p s := by
  rw [hubPutPair, hubGet_hubPut, hubGet_hubPut]

/-- A register reads the same from any state with the same registers. -/
@[simp] theorem hubGet_mk (o : Nat) (s : State) (pending resp fresh ns ticks mem snap cls tb links sysref sysrefAt tmc ev
    net cmac cxl od spm sec pwr mon locks jtag hbm movers syncOut) :
    hubGet o ⟨pending, resp, fresh, ns, ticks, s.hub, mem, snap, cls, tb, links, sysref, sysrefAt, tmc, ev, net, cmac, cxl,
      od, spm, sec, pwr, mon, locks, jtag, hbm, movers, syncOut⟩ = hubGet o s := rfl

@[simp] theorem hubGet_odAdd (o i k u : Nat) (s : State) : hubGet o (odAdd i k u s) = hubGet o s := rfl
@[simp] theorem odAdd_cl (i k u : Nat) (s : State) (n : Cl) : (odAdd i k u s).cl n = s.cl n := rfl

theorem DWord.ofWords_extract (v : DWord) : DWord.ofWords (v.extractLsb' 0 24) (v.extractLsb' 24 24) = v := by
  rw [DWord.ofWords, BitVec.extractLsb'_append_extractLsb'_eq_extractLsb' (by rfl)]; exact BitVec.extractLsb'_eq_self

/-- A word of 24 bits and its part: the pair put is the pair read. -/
@[simp] theorem hubPair_hubPutPair_self (o : Nat) (v : DWord) (s : State) : hubPair o (hubPutPair o v s) = v := by
  simp [hubPair, hubGet_hubPutPair, DWord.ofWords_extract]

@[simp] theorem hubPair_hubCount_self (o : Nat) (s : State) : hubPair o (hubCount o s) = hubPair o s + 1 :=
  hubPair_hubPutPair_self ..

/-! ## What a firing source leaves -/

/-- A reading of the state that the event fabric has no part in: it sees none of the events on their way and none of the
global counters (R342–R346, R498). -/
structure FireBlind {γ : Type} (g : State → γ) : Prop where
  ev  : ∀ e s, g { s with ev := e } = g s
  put : ∀ o v s, 0x25001 ≤ o → o ≤ 0x25080 → g (hubPut o v s) = g s

variable {γ : Type} {g : State → γ}

theorem reads_ite {α : Type} {g : α → γ} {c : Prop} [Decidable c] {s t : α} {x : γ} (hs : g s = x) (ht : g t = x) :
    g (if c then s else t) = x := by
  split <;> assumption

theorem gcntUp_blind (hg : FireBlind g) {k : Nat} (hk : k < 16) (s : State) : g (gcntUp k s) = g s := by
  have h : ∀ v t, g (hubPutPair (0x25001 + 8 * k) v t) = g t := fun v t => by
    rw [hubPutPair, hg.put _ _ _ (by omega) (by omega), hg.put _ _ _ (by omega) (by omega)]
  dsimp only [gcntUp]
  split
  · rw [hubSetBit, hg.put _ _ _ (by omega) (by omega), h, hg.ev]
  · rw [h, hg.ev]

theorem gcntEvent_blind (hg : FireBlind g) (kind : Bool) (k : Nat) (s : State) : g (gcntEvent kind k s) = g s := by
  refine List.foldlRecOn (motive := fun t => g t = g s) _ _ rfl fun t ht x hx => ?_
  exact reads_ite ((gcntUp_blind hg (List.mem_range.mp hx) t).trans ht) ht

theorem fireAt_blind (hg : FireBlind g) (cyc : BitVec 64) (src hop : Nat) (s : State) : g (fireAt cyc src hop s) = g s := by
  dsimp only [fireAt]
  split
  · rfl
  · refine (foldl_keeps g (fun t c => foldl_keeps g (fun u via => hg.ev _ u) _ t) _ _).trans ?_
    rw [gcntEvent_blind hg, hg.ev]

theorem fire_blind (hg : FireBlind g) (src : Nat) (s : State) : g (fire src s) = g s := fireAt_blind hg ..

theorem firesDue_blind (hg : FireBlind g) (s : State) : g (firesDue s) = g s :=
  (foldl_keeps g (fun t _ => fireAt_blind hg _ _ _ t) _ _).trans (hg.ev _ s)

/-- A field of the state other than the registers and the event fabric. -/
theorem fireBlind_of_fields (hput : ∀ o v s, g (hubPut o v s) = g s) (hev : ∀ e s, g { s with ev := e } = g s) :
    FireBlind g := ⟨hev, fun o v s _ _ => hput o v s⟩

theorem fireBlind_hubGet {o : Nat} (h : o < 0x25001 ∨ 0x25080 < o) : FireBlind (hubGet o) :=
  ⟨fun _ _ => rfl, fun p v s h1 h2 => hubGet_hubPut_ne v s (by omega)⟩

variable (src : Nat) (s : State)

@[simp] theorem hubGet_fire {o : Nat} (h : o < 0x25001 ∨ 0x25080 < o) : hubGet o (fire src s) = hubGet o s :=
  fire_blind (fireBlind_hubGet h) src s

/-- A field of the state that is neither the registers nor the event fabric. -/
theorem fire_field (hput : ∀ o v s, g (hubPut o v s) = g s) (hev : ∀ e s, g { s with ev := e } = g s) :
    g (fire src s) = g s := fire_blind (fireBlind_of_fields hput hev) src s

@[simp] theorem fire_ns : (fire src s).ns = s.ns := fire_field (g := State.ns) src s (fun _ _ _ => rfl) fun _ _ => rfl
@[simp] theorem fire_ticks : (fire src s).ticks = s.ticks := fire_field (g := State.ticks) src s (fun _ _ _ => rfl) fun _ _ => rfl
@[simp] theorem fire_mem : (fire src s).mem = s.mem := fire_field (g := State.mem) src s (fun _ _ _ => rfl) fun _ _ => rfl
@[simp] theorem fire_cls : (fire src s).cls = s.cls := fire_field (g := State.cls) src s (fun _ _ _ => rfl) fun _ _ => rfl
@[simp] theorem fire_snap : (fire src s).snap = s.snap := fire_field (g := State.snap) src s (fun _ _ _ => rfl) fun _ _ => rfl
@[simp] theorem fire_resp : (fire src s).resp = s.resp := fire_field (g := State.resp) src s (fun _ _ _ => rfl) fun _ _ => rfl
@[simp] theorem fire_tb : (fire src s).tb = s.tb := fire_field (g := State.tb) src s (fun _ _ _ => rfl) fun _ _ => rfl
@[simp] theorem fire_tmc : (fire src s).tmc = s.tmc := fire_field (g := State.tmc) src s (fun _ _ _ => rfl) fun _ _ => rfl
@[simp] theorem fire_od : (fire src s).od = s.od := fire_field (g := State.od) src s (fun _ _ _ => rfl) fun _ _ => rfl
@[simp] theorem fire_pwr : (fire src s).pwr = s.pwr := fire_field (g := State.pwr) src s (fun _ _ _ => rfl) fun _ _ => rfl
@[simp] theorem fire_spm : (fire src s).spm = s.spm := fire_field (g := State.spm) src s (fun _ _ _ => rfl) fun _ _ => rfl
@[simp] theorem fire_locks : (fire src s).locks = s.locks := fire_field (g := State.locks) src s (fun _ _ _ => rfl) fun _ _ => rfl
@[simp] theorem fire_mon : (fire src s).mon = s.mon := fire_field (g := State.mon) src s (fun _ _ _ => rfl) fun _ _ => rfl
@[simp] theorem fire_cl (n : Cl) : (fire src s).cl n = s.cl n := fire_field (g := fun t => t.cl n) src s (fun _ _ _ => rfl) fun _ _ => rfl

end Sys2Proof.Machine
end
section
/-!
PROOFS. Base ticks, the replicas of device time and TB_LOCAL (O29).
-/
namespace Sys2Proof.Machine

/-! ## Base ticks (R32, R39, R42, R69) -/

theorem devTime_toNat (s : State) : (devTime s).toNat = 256 * s.ns.toNat := by
  rw [devTime, BitVec.toNat_append]
  simp [Nat.shiftLeft_eq, Nat.mul_comm]

/-- The low word of an instant that is a whole number of ns. -/
theorem ns_low (k : BitVec 64) : (k ++ (0#8) : Time72).extractLsb' 0 24 = BitVec.ofNat 24 (256 * k.toNat) := by
  apply BitVec.eq_of_toNat_eq
  rw [BitVec.extractLsb'_toNat, BitVec.toNat_append]
  simp [Nat.shiftLeft_eq, Nat.mul_comm]

/-- The upper words of an instant that is a whole number of ns. -/
theorem ns_high (k : BitVec 64) : (k ++ (0#8) : Time72).extractLsb' 24 48 = BitVec.ofNat 48 (256 * k.toNat / 2 ^ 24) := by
  apply BitVec.eq_of_toNat_eq
  rw [BitVec.extractLsb'_toNat, BitVec.toNat_append]
  simp [Nat.shiftLeft_eq, Nat.mul_comm, Nat.shiftRight_eq_div_pow]

/-- A reading of the state that nothing of a base tick but the advance of device time has a part in. -/
structure TickBlind {γ : Type} (g : State → γ) : Prop extends FireBlind g where
  od    : ∀ d s, g { s with od := d } = g s
  loop  : ∀ v s, g (hubPut 0x20001 v s) = g s
  frame : ∀ v s, g (hubPutPair 0x1018 v s) = g s
  out   : ∀ b s, g { s with syncOut := b } = g s

theorem tickBlind_hubGet {o : Nat} (h : o < 0x1018) : TickBlind (hubGet o) where
  toFireBlind := fireBlind_hubGet (by omega)
  od _ _ := rfl
  loop v s := hubGet_hubPut_ne v s (by omega)
  frame v s := by rw [hubGet_hubPutPair, if_neg (by omega), if_neg (by omega)]
  out _ _ := rfl

section
variable {γ : Type} {g : State → γ}

/-- A field of the state that is not among those that a base tick's own work changes. -/
theorem tickBlind_of_fields (hput : ∀ o v s, g (hubPut o v s) = g s) (hev : ∀ e s, g { s with ev := e } = g s)
    (hod : ∀ d s, g { s with od := d } = g s) (hout : ∀ b s, g { s with syncOut := b } = g s) : TickBlind g where
  toFireBlind := fireBlind_of_fields hput hev
  od := hod
  loop := hput _
  frame v s := by rw [hubPutPair, hput, hput]
  out := hout

theorem loopMonitor_blind (hg : FireBlind g) (hod : ∀ d s, g { s with od := d } = g s)
    (hput : ∀ v s, g (hubPut 0x20001 v s) = g s) (s : State) : g (loopMonitor s) = g s := by
  have hseen (x : Nat) (t : State) : g (loopSeen x t) = g t := by
    dsimp only [loopSeen]
    refine reads_ite (hod _ t) ?_
    rw [fireNext, hg.ev, hput]
    exact hod _ t
  exact (foldl_keeps g (fun t x => reads_ite (hseen x t) rfl) _ _).trans (hg.ev _ s)

theorem safeEntry_of_not_due {s : State} (h : s.pwr.safeDue = false) : safeEntry s = s := by
  simp [safeEntry, h]

@[simp] theorem firesDue_pwr (s : State) : (firesDue s).pwr = s.pwr :=
  firesDue_blind (fireBlind_of_fields (fun _ _ _ => rfl) fun _ _ => rfl) s

@[simp] theorem advance_pwr (s : State) : (advance s).pwr = s.pwr := by
  dsimp only [advance, nextNs, tbFlag]
  refine reads_ite rfl (reads_ite ?_ rfl)
  simp

/-- What a base tick leaves, but for the clock's level at SYNC_OUT. -/
theorem baseTick_eq {s : State} (hr : timeRuns s = true) (hd : s.pwr.safeDue = false) :
    ∃ b, baseTick s = { loopMonitor (syncFrame (firesDue (advance s))) with syncOut := b } := by
  have h : (syncFrame (firesDue (advance s))).pwr.safeDue = false := by simp [syncFrame, hd]
  simp only [baseTick, hr, ↓reduceIte, safeEntry_of_not_due h]
  exact ⟨_, rfl⟩

/-- What a base tick leaves is what the advance of device time leaves. -/
theorem baseTick_blind (hg : TickBlind g) {s : State} (hr : timeRuns s = true) (hd : s.pwr.safeDue = false) :
    g (baseTick s) = g (advance s) := by
  obtain ⟨b, hb⟩ := baseTick_eq hr hd
  rw [hb, hg.out, loopMonitor_blind hg.toFireBlind hg.od hg.loop, syncFrame, hg.frame, firesDue_blind hg.toFireBlind]

/-- The frame number of a state hangs on device time and on ORIGIN and PERIOD (R42). -/
theorem frameOfTime_congr {s t : State} (hns : t.ns = s.ns) (h : ∀ o, 0x1010 ≤ o → o < 0x1014 → hubGet o t = hubGet o s) :
    frameOfTime t = frameOfTime s := by
  simp only [frameOfTime, devTime, hubTime, framePeriod, hubFld, hns, h, Nat.reduceLeDiff, Nat.reduceLT, Nat.reduceAdd]
  rfl

theorem frameOfTime_lt (s : State) : frameOfTime s < 2 ^ 48 := by
  dsimp only [frameOfTime]
  split
  · decide
  · exact Nat.mod_lt _ (by decide)

/-- TB_FRAME follows device time at a base tick (R42). -/
theorem baseFrame_baseTick {s : State} (hr : timeRuns s = true) (hd : s.pwr.safeDue = false) :
    baseFrame (baseTick s) = frameOfTime (advance s) := by
  obtain ⟨b, hb⟩ := baseTick_eq hr hd
  have hloop : ∀ o, o < 0x20000 → hubGet o (baseTick s) = hubGet o (syncFrame (firesDue (advance s))) := fun o ho => by
    rw [hb, hubGet_mk]
    exact loopMonitor_blind (fireBlind_hubGet (by omega)) (fun _ _ => rfl) (fun v s => hubGet_hubPut_ne v s (by omega)) _
  have hframe : frameOfTime (firesDue (advance s)) = frameOfTime (advance s) :=
    frameOfTime_congr (firesDue_blind (fireBlind_of_fields (fun _ _ _ => rfl) fun _ _ => rfl) _)
      fun o _ _ => firesDue_blind (fireBlind_hubGet (by omega)) _
  rw [baseFrame, hubPair, hloop _ (by decide), hloop _ (by decide), ← hubPair, syncFrame, hubPair_hubPutPair_self, hframe,
    BitVec.toNat_ofNat, Nat.mod_eq_of_lt (frameOfTime_lt _)]

/-- Device time has come to `ns` at a base tick of the state `s`, with no STEP waiting any more, and with the grid's registers,
memory and the clusters as they were. -/
structure Advanced (s t : State) (ns : BitVec 64) : Prop where
  ns    : t.ns = ns
  ticks : t.ticks = s.ticks + 1
  step  : hubBit 0x100A 0 t = false
  grid  : ∀ o, 0x1010 ≤ o → o < 0x1014 → hubGet o t = hubGet o s
  mem   : t.mem = s.mem
  cls   : t.cls = s.cls

/-- The base tick's own work behind the advance keeps all of that. -/
theorem Advanced.baseTick {s : State} {ns : BitVec 64} (h : Advanced s (advance s) ns) (hr : timeRuns s = true)
    (hd : s.pwr.safeDue = false) : Advanced s (baseTick s) ns := by
  have hf {γ : Type} {g : State → γ} (hg : TickBlind g) := baseTick_blind hg hr hd
  have hfield {γ : Type} (g : State → γ) h1 h2 h3 h4 := hf (tickBlind_of_fields (g := g) h1 h2 h3 h4)
  obtain ⟨hns, hticks, hstep, hgrid, hmem, hcls⟩ := h
  refine ⟨?_, ?_, ?_, fun o h1 h2 => ?_, ?_, ?_⟩
  · exact (hfield State.ns (fun _ _ _ => rfl) (fun _ _ => rfl) (fun _ _ => rfl) fun _ _ => rfl).trans hns
  · exact (hfield State.ticks (fun _ _ _ => rfl) (fun _ _ => rfl) (fun _ _ => rfl) fun _ _ => rfl).trans hticks
  · rw [hubBit, hf (tickBlind_hubGet (by decide)), ← hubBit, hstep]
  · rw [hf (tickBlind_hubGet (by omega)), hgrid o h1 h2]
  · exact (hfield State.mem (fun _ _ _ => rfl) (fun _ _ => rfl) (fun _ _ => rfl) fun _ _ => rfl).trans hmem
  · exact (hfield State.cls (fun _ _ _ => rfl) (fun _ _ => rfl) (fun _ _ => rfl) fun _ _ => rfl).trans hcls

theorem Advanced.frameOfTime {s t : State} {ns : BitVec 64} (h : Advanced s t ns) :
    frameOfTime t = if 256 * t.ns.toNat < (hubTime 0x1011 s).toNat then 0
      else (256 * t.ns.toNat - (hubTime 0x1011 s).toNat) / (256 * hubFld 0x1010 19 0 s) % 2 ^ 48 := by
  rw [frameOfTime_congr (t := t) (s := { s with ns := t.ns }) rfl h.grid]
  simp only [Machine.frameOfTime, devTime_toNat, framePeriod, Nat.mul_comm 256 (hubFld ..)]
  rfl

/-- Without a waiting STEP device time goes on by one ns and by what aligns it to SYNC_IN (R32, R65). -/
theorem advanced_of_no_step {s : State} (h : hubBit 0x100A 0 s = false) :
    Advanced s (advance s) (s.ns + 1 + if gridRun s then 0 else s.tb.align) := by
  simp only [advance, h, Bool.not_false, ↓reduceIte, nextNs]
  exact ⟨rfl, rfl, h, fun _ _ _ => rfl, rfl, rfl⟩

/-- A STEP that waits while the grid runs is refused, with its flag (R69). -/
theorem advanced_of_refused_step {s : State} (h : hubBit 0x100A 0 s = true) (hr : gridRun s = true) :
    Advanced s (advance s) (s.ns + 1 + 0) ∧ hubBit 0x100B 5 (advance s) = true := by
  have hrun : gridRun (tbFlag 5 (hubSetBit 0x100A 0 false s)) = true := by
    simpa [gridRun, hubBit, tbFlag, hubGet_hubSetBit, bitOf_setBit] using hr
  simp only [advance, h, Bool.not_true, Bool.false_eq_true, ↓reduceIte, hr, nextNs, hrun]
  refine ⟨⟨?_, ?_, ?_, fun o h1 h2 => ?_, ?_, ?_⟩, ?_⟩
  case refine_4 =>
    rw [hubGet_mk, tbFlag, hubGet_fire _ _ (by omega), hubGet_hubSetBit, if_neg (by omega), hubGet_hubSetBit, if_neg (by omega)]
  all_goals simp [tbFlag, hubBit, hubGet_hubSetBit, bitOf_setBit]

/-- A STEP that waits while the grid is stopped loads TB_SET (R69). -/
theorem advanced_of_step {s : State} (h : hubBit 0x100A 0 s = true) (hr : gridRun s = false) :
    Advanced s (advance s) ((hubTime 0x1004 s).extractLsb' 8 64) := by
  simp only [advance, h, Bool.not_true, Bool.false_eq_true, ↓reduceIte, hr]
  refine ⟨rfl, rfl, ?_, fun o h1 h2 => ?_, rfl, rfl⟩
  · simp [hubBit, hubGet_hubSetBit, bitOf_setBit]
  · rw [hubGet_mk, hubGet_hubSetBit, if_neg (by omega)]

end

/-! ## The replica of an island (R37, R39, R69) -/

theorem auxAll_nil {n : Cl} {s : State} (h : (s.cl n).aux = []) : auxAll n s = s := by
  simp [auxAll, h]

theorem not_dark_of_clocked {n : Cl} {s : State} (h : clocked n s = true) : dark s = false := by
  simp only [clocked, Bool.and_eq_true, Bool.not_eq_true'] at h
  exact h.1

@[simp] theorem odCtr_odCount (i k : Nat) (s : State) : odCtr i k (odCount i k s) = odCtr i k s + 1 := by
  simp [odCount, odAdd, odCtr, smAt_smPut]

theorem odCtr_congr {s t : State} (h : t.od = s.od) (i k : Nat) : odCtr i k t = odCtr i k s := by
  rw [odCtr, h, odCtr]

/-- The tick of a replica whose island runs no routine (R39, R69). -/
theorem execLocalBaseTick_eq {n : Cl} {s : State} (hc : clocked n s = true) (ha : (s.cl n).aux = []) :
    execLocalBaseTick n s = .next (
      if s.tb.stepBeacon then s.putCl n { s.cl n with localNs := s.ns }
      else if s.ns.toNat % 1000 = 0 ∧ (s.cl n).localNs + 1 ≠ s.ns then
        tbFlag 7 (odCount 0xC022 0 (s.putCl n { s.cl n with localNs := s.ns }))
      else s.putCl n { s.cl n with localNs := (s.cl n).localNs + 1 }) := by
  rw [execLocalBaseTick, onIsland, if_pos hc]
  refine congrArg _ (auxAll_nil ?_)
  simp only [modCl_eq]
  split
  · simp [ha]
  · split <;> simp [tbFlag, odCount, ha]

/-- A read of W0 of TB_LOCAL answers the low word and keeps the others for the register bank in use (R35, R37). -/
theorem execTbLocalW0Read_eq {n : Cl} {s : State} (hd : dark s = false) :
    execTbLocalW0Read n s = .next (respond [BitVec.ofNat 24 (256 * (s.cl n).localNs.toNat)]
      (snapPut (ioSnapReg n 0x100) (bankReader (s.cl n)) (BitVec.ofNat 48 (256 * (s.cl n).localNs.toNat / 2 ^ 24)) s)) := by
  rw [execTbLocalW0Read, awake, hd]
  simp only [Bool.false_eq_true, ↓reduceIte]
  rw [ns_low, ns_high]

end Sys2Proof.Machine

namespace Sys2Proof.Proofs

open Sys2Proof.Machine

/-- Settles O29: each base tick is its advance, which has a case for a waiting STEP; a replica's tick has one for each beacon. -/
theorem baseTicksAndLocalTime : Obligations.BaseTicksAndLocalTime := by
  unfold Obligations.BaseTicksAndLocalTime
  refine ⟨fun s hoff hstby htrip hsafe => ?_, fun n s hc ha => ⟨fun hb => ?_, fun hb hw => ?_, fun hb hw => ?_, ?_⟩⟩
  · intro step next frame ticks
    have hr : timeRuns s = true := by simp [timeRuns, hoff, hstby, htrip]
    have hload (h : step = true) : exec .tbStepLoad s = .next (baseTick s) := by
      have hdark : dark s = false := by simp [dark, htrip]; omega
      show execTbStepLoad s = _
      simp only [execTbStepLoad, awake, hdark, Bool.false_eq_true, ↓reduceIte, show hubBit 0x100A 0 s = true from h]
    have done (ns : BitVec 64) (h : Advanced s (advance s) ns)
        (hf : step = true → gridRun s = true → hubBit 0x100B 5 (advance s) = true) (i : Instr)
        (hi : exec i s = .next (baseTick s)) : ticks i ns := by
      have hb := h.baseTick hr hsafe
      refine ⟨_, hi, hb.ns, hb.ticks, ?_, hb.step, hb.mem, hb.cls, fun h1 h2 => ?_⟩
      · rw [baseFrame_baseTick hr hsafe, h.frameOfTime, h.ns, ← hb.ns]
      · rw [hubBit, baseTick_blind (tickBlind_hubGet (by decide)) hr hsafe, ← hubBit, hf h1 h2]
    have both {ns : BitVec 64} (h : step = true) (hadv : Advanced s (advance s) ns)
        (hf : gridRun s = true → hubBit 0x100B 5 (advance s) = true) : ∀ i ∈ [Instr.baseTick, .tbStepLoad], ticks i ns := by
      simp only [List.forall_mem_cons, List.not_mem_nil, false_implies, implies_true, and_true]
      exact ⟨done _ hadv (fun _ => hf) _ rfl, done _ hadv (fun _ => hf) _ (hload h)⟩
    refine ⟨fun h => ?_, fun h hrun => ?_, fun h hrun => ?_⟩
    · exact done _ (advanced_of_no_step h) (fun h' => by simp [h] at h') _ rfl
    · obtain ⟨hadv, hflag⟩ := advanced_of_refused_step h hrun
      have hnext : next = s.ns + 1 + 0 := by simp [next, hrun]
      exact hnext ▸ both h hadv fun _ => hflag
    · exact both h (advanced_of_step h hrun) fun h' => by simp [hrun] at h'
  · exact (execLocalBaseTick_eq hc ha).trans (by rw [if_pos hb])
  · exact (execLocalBaseTick_eq hc ha).trans (by rw [if_neg (by simp [hb]), if_neg hw])
  · refine ⟨_, (execLocalBaseTick_eq hc ha).trans (by rw [if_neg (by simp [hb]), if_pos hw]), ?_, ?_, ?_⟩
    · simp [tbFlag, odCount]
    · simp [tbFlag, hubBit, hubGet_hubSetBit, bitOf_setBit]
    · rw [odCtr_congr (by simp [tbFlag] : _ = (odCount 0xC022 0 (s.putCl n { s.cl n with localNs := s.ns })).od),
        odCtr_odCount, odCtr_congr (putCl_od ..)]
  · exact ⟨_, execTbLocalW0Read_eq (not_dark_of_clocked hc), rfl, rfl, by simp [snapGet, snapPut, respond, smAt_smPut]⟩

end Sys2Proof.Proofs
end
section
/-!
PROOFS. The registers, references and marks of the time base and the clock of SYNC (O30).
-/
namespace Sys2Proof.Machine

/-! ## What the time base, the timing unit and the event fabric leave alone -/

/-- Everything but the registers of the hub, the event fabric, the time base, the timing unit, the dictionary and the free
values drawn: what their work beside a command leaves as it is. -/
def State.rest (s : State) : State :=
  { s with fresh := 0, hub := [], ev := State.reset.ev, tb := State.reset.tb, od := State.reset.od, tmc := State.reset.tmc }

@[simp] theorem rest_mk (s : State) (fresh hub tb tmc ev od) :
    (State.mk s.pending s.resp fresh s.ns s.ticks hub s.mem s.snap s.cls tb s.links s.sysref s.sysrefAt tmc ev s.net s.cmac
      s.cxl od s.spm s.sec s.pwr s.mon s.locks s.jtag s.hbm s.movers s.syncOut).rest = s.rest := rfl

@[simp] theorem hubPut_rest (o : Nat) (v : Word) (s : State) : (hubPut o v s).rest = s.rest := rfl
@[simp] theorem hubSetBit_rest (o i : Nat) (b : Bool) (s : State) : (hubSetBit o i b s).rest = s.rest := rfl
@[simp] theorem hubSetFld_rest (o hi lo v : Nat) (s : State) : (hubSetFld o hi lo v s).rest = s.rest := rfl

@[simp] theorem fire_rest (src : Nat) (s : State) : (fire src s).rest = s.rest :=
  fire_field src s (fun _ _ _ => rfl) fun _ _ => rfl
@[simp] theorem tbFlag_rest (i : Nat) (s : State) : (tbFlag i s).rest = s.rest := fire_rest ..

theorem ns_of_rest {s t : State} (h : t.rest = s.rest) : t.ns = s.ns :=
  show t.rest.ns = s.rest.ns from congrArg State.ns h
theorem mem_of_rest {s t : State} (h : t.rest = s.rest) : t.mem = s.mem :=
  show t.rest.mem = s.rest.mem from congrArg State.mem h
theorem cls_of_rest {s t : State} (h : t.rest = s.rest) : t.cls = s.cls :=
  show t.rest.cls = s.rest.cls from congrArg State.cls h

theorem awake_eq {s : State} (h : dark s = false) (o : Out) : awake s o = o := by simp [awake, h]

/-! ## Registers of the time base (R35, R42, R60, R68, R69) -/

/-- TB_SLEW clamps to 100,000 either way, with its flag (R68). -/
theorem execTbSlewWrite_clamps {s : State} (hd : dark s = false) (v : Word) :
    ∃ t, execTbSlewWrite v s = .next t ∧ (hubGet 0x1009 t).toInt = max (-100000) (min v.toInt 100000) ∧
      (hubGet 0x1009 t ≠ v → hubBit 0x100B 4 t = true) ∧ t.rest = s.rest := by
  rw [execTbSlewWrite, awake_eq hd]
  refine ⟨_, rfl, ?_⟩
  by_cases h1 : 100000 < v.toInt
  · rw [if_pos h1]
    simp [tbFlag, hubBit, hubGet_hubSetBit, bitOf_setBit]
    omega
  by_cases h2 : v.toInt < -100000
  · rw [if_neg h1, if_pos h2]
    simp [tbFlag, hubBit, hubGet_hubSetBit, bitOf_setBit]
    omega
  · rw [if_neg h1, if_neg h2]
    simp
    omega

/-- A read of W0 of device time (R35). -/
theorem execTbTimeW0Read_eq {s : State} (hd : dark s = false) (m : Master) :
    execTbTimeW0Read m s = .next (respond [BitVec.ofNat 24 (256 * s.ns.toNat)]
      (snapPut 0x1000 (masterNum m) (BitVec.ofNat 48 (256 * s.ns.toNat / 2 ^ 24)) s)) := by
  rw [execTbTimeW0Read, awake_eq hd, devTime, ns_low, ns_high]

@[simp] theorem snapGet_respond_snapPut (ws : List Word) (r k : Nat) (v : DWord) (s : State) :
    snapGet r k (respond ws (snapPut r k v s)) = v := by
  simp [snapGet, snapPut, respond, smAt_smPut]

/-! ## References (R70–R73) -/

theorem refNum_lt (r : TimeRef) : refNum r < 3 := by cases r <;> decide

theorem mem_refOrder_lt {s : State} {r : Nat} (h : r ∈ refOrder s) : r < 4 := by
  have hfld (hi lo : Nat) (h : hi + 1 - lo = 2) : hubFld 0x100C hi lo s < 4 := by
    have := fld_lt hi lo (hubGet 0x100C s)
    rwa [h] at this
  simp only [refOrder, List.mem_append, List.mem_filter, List.mem_cons, List.not_mem_nil, or_false] at h
  obtain (h | h) | rfl := h
  · split at h <;> simp at h
    omega
  · obtain ⟨rfl | rfl | rfl, -⟩ := h <;> exact hfld _ _ rfl
  · decide

theorem bestRef_lt (s : State) : bestRef s < 4 := by
  rw [bestRef]
  cases h : (refOrder s).find? fun r => refAvail r s with
  | none => decide
  | some r => exact mem_refOrder_lt (List.mem_of_find?_eq_some h)

theorem bestRef_avail (s : State) : refAvail (bestRef s) s = true := by
  rw [bestRef]
  cases h : (refOrder s).find? fun r => refAvail r s with
  | none => rfl
  | some r => exact List.find?_some (p := fun r => refAvail r s) h

/-- A reading of the state that sees neither the flags nor which reference is active or that none is (R70, R72). -/
structure RefBlind {γ : Type} (g : State → γ) : Prop extends FireBlind g where
  od     : ∀ d s, g { s with od := d } = g s
  flag   : ∀ i b s, g (hubSetBit 0x100B i b s) = g s
  hold   : ∀ b s, g (hubSetBit 0x100A 8 b s) = g s
  active : ∀ r s, g (hubSetFld 0x100A 7 6 r s) = g s

theorem refBlind_hubGet {o : Nat} (h : o < 0x100A ∨ 0x100B < o ∧ o < 0x25001) : RefBlind (hubGet o) where
  toFireBlind := fireBlind_hubGet (by omega)
  od _ _ := rfl
  flag i b s := by rw [hubGet_hubSetBit, if_neg (by omega)]
  hold b s := by rw [hubGet_hubSetBit, if_neg (by omega)]
  active r s := by rw [hubGet_hubSetFld, if_neg (by omega)]

/-- The other bits of TB_STATUS. -/
theorem refBlind_status {i : Nat} (h : i < 6 ∨ 8 < i) : RefBlind (hubBit 0x100A i) where
  toFireBlind := ⟨fun _ _ => rfl, fun p v s h1 h2 => by rw [hubBit, hubGet_hubPut_ne _ _ (by omega), hubBit]⟩
  od _ _ := rfl
  flag j b s := by rw [hubBit, hubGet_hubSetBit, if_neg (by decide), hubBit]
  hold b s := by rw [hubBit, hubGet_hubSetBit, if_pos rfl, bitOf_setBit (by decide), if_neg (by omega), hubBit]
  active r s := by
    rw [hubBit, hubGet_hubSetFld, if_pos rfl, bitOf_setFld (by decide) (by decide), if_neg (by omega), hubBit]

section
variable {γ : Type} {g : State → γ}

theorem refBlind_of_fields (hput : ∀ o v s, g (hubPut o v s) = g s) (hev : ∀ e s, g { s with ev := e } = g s)
    (hod : ∀ d s, g { s with od := d } = g s) : RefBlind g where
  toFireBlind := fireBlind_of_fields hput hev
  od := hod
  flag _ _ _ := hput ..
  hold _ _ := hput ..
  active _ _ := hput ..

theorem tbFlag_blind (hg : RefBlind g) (i : Nat) (s : State) : g (tbFlag i s) = g s := by
  rw [tbFlag, fire_blind hg.toFireBlind, hg.flag]

theorem syncHoldover_blind (hg : RefBlind g) (s : State) : g (syncHoldover s) = g s := by
  dsimp only [syncHoldover]
  refine reads_ite (hg.hold _ s) (reads_ite rfl ?_)
  rw [tbFlag_blind hg, hg.hold]

theorem switchRef_blind (hg : RefBlind g) (r : Nat) (s : State) : g (switchRef r s) = g s :=
  reads_ite rfl (by rw [tbFlag_blind hg, hg.active])

/-- What the loss of a reference leaves but for flags and the choice of the active one: it is absent, and of a lost SYNC_IN
the marks are forgotten (R65, R71). -/
def withoutRef (r : Nat) (s : State) : State :=
  let t := hubSetBit 0x100A (refBit r) false
    { s with tb := { s.tb with refPresent := smPut false s.tb.refPresent r false, refSince := smPut 0 s.tb.refSince r 0 } }
  if r = 0 then forgetMarks t else t

theorem loseRef_blind (hg : RefBlind g) (r : Nat) (s : State) : g (loseRef r s) = g (withoutRef r s) := by
  dsimp only [loseRef, withoutRef]
  rw [syncHoldover_blind hg]
  refine reads_ite ?_ ?_
  · rw [switchRef_blind hg]
    exact (hg.od _ _).trans (reads_ite (tbFlag_blind hg _ _) rfl)
  · exact reads_ite (tbFlag_blind hg _ _) rfl

/-- What the return of an absent reference leaves, but for HOLDOVER (R73). -/
theorem presentRef_blind (hg : RefBlind g) {k : Nat} {s : State} (h : smAt false s.tb.refPresent k = false) :
    g (presentRef k s) = g (hubSetBit 0x100A (refBit k) true
      { s with tb := { s.tb with refPresent := smPut false s.tb.refPresent k true
                                 refSince := smPut 0 s.tb.refSince k s.ticks } }) := by
  rw [presentRef, if_neg (by simp [h]), syncHoldover_blind hg]

end

theorem refBlind_tb : RefBlind State.tb := refBlind_of_fields (fun _ _ _ => rfl) (fun _ _ => rfl) fun _ _ => rfl
theorem refBlind_rest : RefBlind State.rest := refBlind_of_fields (fun _ _ _ => rfl) (fun _ _ => rfl) fun _ _ => rfl

@[simp] theorem withoutRef_rest (r : Nat) (s : State) : (withoutRef r s).rest = s.rest := by
  dsimp only [withoutRef, forgetMarks]; split <;> simp

@[simp] theorem loseRef_rest (r : Nat) (s : State) : (loseRef r s).rest = s.rest := by
  rw [loseRef_blind refBlind_rest, withoutRef_rest]

@[simp] theorem presentRef_rest (k : Nat) (s : State) : (presentRef k s).rest = s.rest := by
  dsimp only [presentRef]
  split
  · rfl
  · rw [syncHoldover_blind refBlind_rest]; simp

/-- The active reference as TB_STATUS codes it, after a flag, HOLDOVER or a switch (R70). -/
theorem active_tbFlag (i : Nat) (s : State) : hubFld 0x100A 7 6 (tbFlag i s) = hubFld 0x100A 7 6 s := by
  simp [hubFld, tbFlag, hubGet_hubSetBit]

theorem active_hubSetBit {i : Nat} (hi : i < 6 ∨ 7 < i) (hi' : i < 24) (b : Bool) (s : State) :
    hubFld 0x100A 7 6 (hubSetBit 0x100A i b s) = hubFld 0x100A 7 6 s := by
  rw [hubFld, hubGet_hubSetBit, if_pos rfl, fld_setBit_of_outside hi' hi, hubFld]

theorem active_syncHoldover (s : State) : hubFld 0x100A 7 6 (syncHoldover s) = hubFld 0x100A 7 6 s := by
  dsimp only [syncHoldover]
  refine reads_ite (active_hubSetBit (by decide) (by decide) _ s) (reads_ite rfl ?_)
  rw [active_tbFlag, active_hubSetBit (by decide) (by decide)]

theorem active_switchRef {r : Nat} (hr : r < 4) (s : State) : hubFld 0x100A 7 6 (switchRef r s) = r := by
  rw [switchRef]
  split
  · assumption
  · rw [active_tbFlag, hubFld, hubGet_hubSetFld, if_pos rfl, fld_setFld_self (by decide) (by decide)]
    exact Nat.mod_eq_of_lt hr

theorem withoutRef_refPresent (r k : Nat) (s : State) :
    smAt false (withoutRef r s).tb.refPresent k = if r = k then false else smAt false s.tb.refPresent k := by
  rw [← smAt_smPut]
  dsimp only [withoutRef, forgetMarks]
  split <;> simp

theorem active_withoutRef {r : Nat} (hr : r < 3) (s : State) : hubFld 0x100A 7 6 (withoutRef r s) = hubFld 0x100A 7 6 s := by
  have hb : refBit r < 6 := by interval_cases r <;> decide
  dsimp only [withoutRef, forgetMarks]
  refine reads_ite ?_ ?_
  · rw [active_hubSetBit (by decide) (by decide), hubFld, hubGet_mk, ← hubFld, active_hubSetBit (by omega) (by omega)]
    rfl
  · rw [active_hubSetBit (by omega) (by omega)]
    rfl

/-- The loss of a reference in its steps: the flag of a lost SYNC_IN, the choice of another active one, HOLDOVER (R71, R72). -/
theorem loseRef_eq (r : Nat) (s : State) : ∃ u, (u = tbFlag 3 (withoutRef r s) ∨ u = withoutRef r s) ∧
    loseRef r s = syncHoldover (if hubFld 0x100A 7 6 u = r then switchRef (bestRef u) (odCount 0xC023 0 u) else u) := by
  refine ⟨_, ?_, rfl⟩
  split
  · exact .inl rfl
  · exact .inr rfl

/-- A lost reference is not active any more, and the loss of another one leaves the active one (R70, R71). -/
theorem active_loseRef {r : Nat} (hr : r < 3) (s : State) :
    hubFld 0x100A 7 6 (loseRef r s) ≠ r ∧
      (hubFld 0x100A 7 6 s ≠ r → hubFld 0x100A 7 6 (loseRef r s) = hubFld 0x100A 7 6 s) := by
  obtain ⟨u, hu, h⟩ := loseRef_eq r s
  have hact : hubFld 0x100A 7 6 u = hubFld 0x100A 7 6 s := by
    rw [← active_withoutRef hr s]
    obtain rfl | rfl := hu
    · exact active_tbFlag ..
    · rfl
  have habsent : refAvail r u = false := by
    have hp : smAt false u.tb.refPresent r = false := by
      obtain rfl | rfl := hu
      · simp [tbFlag, withoutRef_refPresent]
      · simp [withoutRef_refPresent]
    simp [refAvail, hp]
    omega
  rw [h, active_syncHoldover, ← hact]
  by_cases ha : hubFld 0x100A 7 6 u = r
  · rw [if_pos ha, active_switchRef (bestRef_lt u)]
    refine ⟨fun he => ?_, fun hn => absurd ha hn⟩
    rw [← he, bestRef_avail] at habsent
    cases habsent
  · rw [if_neg ha]
    exact ⟨ha, fun _ => rfl⟩

theorem absent_loseRef (r : Nat) (s : State) : smAt false (loseRef r s).tb.refPresent r = false := by
  rw [loseRef_blind refBlind_tb, withoutRef_refPresent, if_pos rfl]

theorem refBit_loseRef {r : Nat} (hr : r < 3) (s : State) : hubBit 0x100A (refBit r) (loseRef r s) = false := by
  rw [loseRef_blind (refBlind_status (by interval_cases r <;> decide))]
  interval_cases r <;> simp [withoutRef, forgetMarks, refBit, hubBit, hubGet_hubSetBit, bitOf_setBit]

/-- A reference that returns is present from the base tick of its return (R73). -/
theorem presentRef_returns {k : Nat} (hk : k < 3) {s : State} (h : smAt false s.tb.refPresent k = false) :
    smAt false (presentRef k s).tb.refPresent k = true ∧ smAt 0 (presentRef k s).tb.refSince k = s.ticks ∧
      hubBit 0x100A (refBit k) (presentRef k s) = true := by
  rw [presentRef_blind refBlind_tb h, presentRef_blind (refBlind_status (by interval_cases k <;> decide)) h]
  refine ⟨by simp [smAt_smPut], by simp [smAt_smPut], ?_⟩
  interval_cases k <;> simp [refBit, hubBit, hubGet_hubSetBit, bitOf_setBit]

/-- REVERT goes back to the reference that the rule names (R73). -/
theorem execReferenceRevert_takes {s : State} {best : Nat} (hd : dark s = false) (hr : hubBit 0x100C 7 s = true)
    (hb : (refOrder s).find? (fun r => refAvail r s && refPrecedes r s &&
      (r == 3 || decide (10 ^ 6 ≤ (s.ticks - smAt 0 s.tb.refSince r).toNat))) = some best) :
    ∃ t, execReferenceRevert s = .next t ∧ hubFld 0x100A 7 6 t = best ∧ hubBit 0x100B 1 t = true := by
  rw [execReferenceRevert, awake_eq hd]
  simp only [hr, hb]
  refine ⟨_, rfl, ?_, ?_⟩
  · rw [active_syncHoldover, active_tbFlag, hubFld, hubGet_hubSetFld, if_pos rfl, fld_setFld_self (by decide) (by decide)]
    exact Nat.mod_eq_of_lt (mem_refOrder_lt (List.mem_of_find?_eq_some hb))
  · dsimp only [syncHoldover]
    refine reads_ite ?_ (reads_ite ?_ ?_) <;> simp [tbFlag, hubBit, hubGet_hubSetBit, bitOf_setBit]

theorem execReferenceLoss_eq (r : TimeRef) {s : State} (hd : dark s = false) :
    execReferenceLoss r s = .next (loseRef (refNum r) s) := by
  rw [execReferenceLoss, if_neg (by simp [hd])]

theorem execReferenceReturn_eq (r : TimeRef) {s : State} (hd : dark s = false) :
    execReferenceReturn r s = .next (presentRef (refNum r) s) := by
  rw [execReferenceReturn, if_neg (by simp [hd])]

/-! ## Marks of SYNC_IN (R65, R71) -/

theorem markResidual_spec (t : Int) :
    (∃ k : Int, t = markResidual t + 2560000 * k) ∧ -1280000 ≤ markResidual t ∧ markResidual t < 1280000 := by
  dsimp only [markResidual]
  split
  · exact ⟨⟨t / 2560000, by omega⟩, by omega, by omega⟩
  · exact ⟨⟨t / 2560000 + 1, by omega⟩, by omega, by omega⟩

/-- SYNC_IN is present once its mark has come (R73). -/
theorem presentRef_present (k : Nat) (s : State) : smAt false (presentRef k s).tb.refPresent k = true := by
  cases h : smAt false s.tb.refPresent k with
  | true => rw [presentRef, if_pos h, h]
  | false => rw [presentRef_blind refBlind_tb h]; simp [smAt_smPut]

/-- How many good marks in a row a residual phase makes (R65). -/
def locksAfter (r : Int) (s : State) : Nat := if -256 ≤ r ∧ r ≤ 256 then min 1000 (s.tb.lockCount + 1) else 0

/-- What a mark leaves before a SYNC_IN that has missed two in a row is lost (R65, R71). -/
theorem execSyncInMark_eq {s : State} (hrole : hubFld 0x100D 1 0 s = 2) (hr : timeRuns s = true) (arrival : Time72) :
    let r := markResidual ((arrival.toNat : Int) - (hubGet 0x100E s).toNat)
    ∃ u, execSyncInMark arrival s =
        .next (if 2 ≤ (markCheck (tickInstant arrival s) s).row then loseRef 0 u else u) ∧
      u.rest = s.rest ∧ hubGet 0x100F u = BitVec.ofInt 24 r ∧ u.tb.lockCount = locksAfter r s ∧
      hubBit 0x100A 5 u = decide (locksAfter r s = 1000) ∧ smAt false u.tb.refPresent 0 = true := by
  intro r
  rw [execSyncInMark, if_neg (by simp [hrole, hr])]
  refine ⟨_, rfl, ?_, ?_, ?_, ?_, ?_⟩
  · exact reads_ite (g := State.rest) (by simp) (by simp)
  · refine reads_ite (g := hubGet 0x100F) ?_ ?_ <;> simp [tbFlag, hubGet_hubSetBit, r]
  · refine reads_ite (g := fun t : State => t.tb.lockCount) ?_ ?_ <;> simp [tbFlag, locksAfter, r]
  · refine reads_ite ?_ ?_ <;> simp [tbFlag, hubBit, hubGet_hubSetBit, bitOf_setBit, locksAfter, r] <;> rfl
  · refine reads_ite (g := fun t : State => smAt false t.tb.refPresent 0) ?_ ?_ <;> simp [tbFlag, presentRef_present]

/-- The loss of SYNC_IN takes its marks with it (R65). -/
theorem loseRef_syncIn (s : State) :
    (loseRef 0 s).tb.lockCount = 0 ∧ hubBit 0x100A 5 (loseRef 0 s) = false ∧ hubGet 0x100F (loseRef 0 s) = hubGet 0x100F s := by
  rw [loseRef_blind refBlind_tb, loseRef_blind (refBlind_status (by decide)), loseRef_blind (refBlind_hubGet (by decide))]
  refine ⟨rfl, ?_, ?_⟩ <;>
    simp [withoutRef, forgetMarks, refBit, hubBit, hubGet_hubSetBit, bitOf_setBit]

/-! ## SYSREF (R300) -/

/-- A map whose keys below `k` are raised one after the other. -/
theorem smAt_foldl_max (f : Nat → Nat) (m : SMap Nat) (k j : Nat) :
    smAt 0 ((List.range k).foldl (fun m o => smPut 0 m o (max (f o) (smAt 0 m o))) m) j =
      if j < k then max (f j) (smAt 0 m j) else smAt 0 m j := by
  induction k with
  | zero => simp
  | succ k ih =>
    rw [List.range_succ, List.foldl_append, List.foldl_cons, List.foldl_nil, smAt_smPut]
    by_cases h : k = j
    · subst h
      simp only [ih, Nat.lt_irrefl, ↓reduceIte, Nat.lt_succ_self]
    · have : j < k + 1 ↔ j < k := by omega
      simp only [h, ih, this, ↓reduceIte]

theorem execSysrefPulse_eq {o : Fin 4} {s : State} {edge : Time72} (hd : dark s = false) (he : sysrefEdge o s = some edge)
    (hen : hubBit 0x8000 o s = true) (hm : 4 ≤ mode s) (hnew : smAt none s.sysrefAt o ≠ some (tickInstant edge s)) :
    execSysrefPulse o s = .next
      (if hubBit 0x8000 22 s = true ∧ smAt 0 s.sysref o < (tickInstant edge s).toNat then s
       else { s with sysrefAt := smPut none s.sysrefAt o (some (tickInstant edge s)) }) := by
  have hm' : ¬ mode s ≤ 3 := by omega
  rw [execSysrefPulse, awake_eq hd]
  simp only [he, hen, hm', hnew, Bool.not_true, Bool.false_eq_true, false_or, or_false]
  split <;> rfl

theorem sysref_sysrefGo {s : State} (hg : hubBit 0x8000 22 s = true) {j : Nat} (hj : j < 4) :
    smAt 0 (sysrefGo s).sysref j = max (sysrefLast j (hubFld 0x8000 21 16 s) s) (smAt 0 s.sysref j) := by
  simp only [sysrefGo, hg, Bool.not_true, Bool.false_eq_true, ↓reduceIte]
  rw [smAt_foldl_max (fun o => sysrefLast o (hubFld 0x8000 21 16 s) s), if_pos hj]

end Sys2Proof.Machine

namespace Sys2Proof.Proofs

open Sys2Proof.Machine

/-- Settles O30: the registers and their reads first, then a clause each for what may happen to a reference, a mark and a pulse. -/
theorem timeBaseRegistersAndReferences : Obligations.TimeBaseRegistersAndReferences := by
  unfold Obligations.TimeBaseRegistersAndReferences
  refine ⟨fun m v s hd => ⟨fun hg => ?_, fun hg => ?_, ?_, ?_, ?_⟩,
    fun r best arrival o s hd => ⟨?_, fun habsent => ?_, fun hrev hbest => ?_, fun hrole hr => ?_,
      fun edge he hen hm hnew => ⟨fun hgap hlt => ?_, fun hfree => ?_⟩, fun hgap hper hcnt => ?_⟩⟩
  · show execTbStep s = _
    rw [execTbStep, awake_eq hd, if_neg (by simp [hg])]
  · show execTbStep s = _
    rw [execTbStep, awake_eq hd, if_pos hg]
    rfl
  · obtain ⟨t, ht, hclamp, hflag, hrest⟩ := execTbSlewWrite_clamps hd v
    exact ⟨t, ht, hclamp, hflag, ns_of_rest hrest, mem_of_rest hrest, cls_of_rest hrest⟩
  · exact ⟨_, execTbTimeW0Read_eq hd m, rfl, rfl, snapGet_respond_snapPut ..⟩
  · simp only [List.forall_mem_cons, List.not_mem_nil, false_implies, implies_true, and_true]
    exact ⟨⟨_, awake_eq hd _, rfl, rfl, rfl, rfl, snapGet_respond_snapPut ..⟩,
      ⟨_, awake_eq hd _, rfl, rfl, rfl, rfl, snapGet_respond_snapPut ..⟩⟩
  · have hr := refNum_lt r
    exact ⟨_, execReferenceLoss_eq r hd, absent_loseRef _ s, refBit_loseRef hr s, active_loseRef hr s⟩
  · exact ⟨_, execReferenceReturn_eq r hd, presentRef_returns (refNum_lt r) habsent⟩
  · exact execReferenceRevert_takes hd hrev hbest
  · intro row p
    obtain ⟨hres, hlo, hhi⟩ := markResidual_spec p
    obtain ⟨u, hu, hrest, hphase, hlock, hbit, hpres⟩ := execSyncInMark_eq hrole hr arrival
    refine ⟨markResidual p, hres, hlo, hhi, _, hu, ?_⟩
    by_cases hrow : row < 2
    · rw [if_neg (by omega)]
      refine ⟨hphase, ?_, ?_, ?_, ns_of_rest hrest, mem_of_rest hrest, cls_of_rest hrest⟩
      · rw [hlock, locksAfter]
        simp only [hrow, true_and]
        rfl
      · rw [hbit, hlock, decide_eq_true_iff]
      · simp [hpres, hrow]
    · rw [if_pos (by omega)]
      obtain ⟨h1, h2, h3⟩ := loseRef_syncIn u
      have hrest' : (loseRef 0 u).rest = s.rest := by rw [loseRef_rest, hrest]
      refine ⟨h3.trans hphase, ?_, ?_, ?_, ns_of_rest hrest', mem_of_rest hrest', cls_of_rest hrest'⟩
      · rw [h1, if_neg (by simp [hrow])]
      · simp [h1, h2]
      · rw [absent_loseRef]; simp [hrow]
  · exact (execSysrefPulse_eq hd he hen hm hnew).trans (by rw [if_pos ⟨hgap, hlt⟩])
  · have hpass : ¬ (hubBit 0x8000 22 s = true ∧ smAt 0 s.sysref o < (tickInstant edge s).toNat) := by
      rintro ⟨h1, h2⟩
      simp only [h1, Bool.true_eq_false, false_or] at hfree
      omega
    refine ⟨_, (execSysrefPulse_eq hd he hen hm hnew).trans (congrArg _ (if_neg hpass)), ?_, rfl⟩
    simp [smAt_smPut]
  · refine ⟨_, awake_eq hd _, fun o => ?_⟩
    rw [sysref_sysrefGo hgap o.isLt, sysrefLast, if_neg (by
      rintro (h | h)
      · exact hper (BitVec.eq_of_toNat_eq (by simp; omega))
      · omega)]

end Sys2Proof.Proofs
end
section
/-!
PROOFS. What the timing unit's jobs leave alone (R317–R332): the edges, counts and actions that one job sets off in turn.
-/
namespace Sys2Proof.Machine

/-- A reading of the state that the timing unit's jobs have no part in: it sees neither the pins, the counters and the events
nor the registers from 0x10100 on, but it may see PWR_MODE besides the bit in which a pin's level would stand. -/
structure TmcBlind {γ : Type} (g : State → γ) : Prop where
  unit  : ∀ t s, g { s with tmc := t } = g s
  ev    : ∀ e s, g { s with ev := e } = g s
  od    : ∀ d s, g { s with od := d } = g s
  drawn : ∀ k s, g { s with fresh := k } = g s
  put   : ∀ o v s, 0x10100 ≤ o → o ≠ 0x60000 → g (hubPut o v s) = g s
  level : ∀ p b s, g (hubSetBit (0x10100 + p) 19 b s) = g s

section
variable {γ : Type} {g : State → γ}

theorem TmcBlind.fire (hg : TmcBlind g) (src : Nat) (s : State) : g (fire src s) = g s :=
  fire_blind ⟨hg.ev, fun o v s h1 h2 => hg.put o v s (by omega) (by omega)⟩ src s

theorem TmcBlind.setBit (hg : TmcBlind g) {o : Nat} (h : 0x10100 ≤ o) (h' : o ≠ 0x60000) (i : Nat) (b : Bool) (s : State) :
    g (hubSetBit o i b s) = g s := hg.put _ _ _ h h'

theorem pinPut_blind (hg : TmcBlind g) (p : Nat) (x : PinSt) (s : State) : g (pinPut p x s) = g s := hg.unit _ s

theorem pinHist_blind (hg : TmcBlind g) (p : Nat) (e : PinEdge) (s : State) : g (pinHist p e s) = g s := by
  dsimp only [pinHist]
  rw [hg.level, pinPut_blind hg]

theorem freeStamp_blind (hg : TmcBlind g) (s : State) : g (freeStamp s).2 = g s := hg.drawn _ s

theorem stampPut_blind (hg : TmcBlind g) (c : Nat) (x y z : Word) (s : State) :
    g (hubPut (chReg c + 5) x (hubPut (chReg c + 4) y (hubPut (chReg c + 3) z s))) = g s := by
  unfold chReg
  rw [hg.put _ _ _ (by omega) (by omega), hg.put _ _ _ (by omega) (by omega), hg.put _ _ _ (by omega) (by omega)]

theorem edgeBlur_blind (hg : TmcBlind g) (p : Nat) (s : State) : g (edgeBlur p s) = g s := by
  dsimp only [edgeBlur]
  split
  · rfl
  · refine (foldl_keeps g (fun t c => reads_ite ?_ rfl) _ _).trans ((pinPut_blind hg _ _ _).trans (freeStamp_blind hg s))
    split
    · rw [stampPut_blind hg, freeStamp_blind hg]
    · rw [hg.setBit (by unfold chReg; omega) (by unfold chReg; omega), freeStamp_blind hg]

theorem edgeStamp_blind (hg : TmcBlind g) (p : Nat) (time : Time72) (s : State) : g (edgeStamp p time s).2 = g s := by
  rw [edgeStamp]
  split
  · rw [freeStamp_blind hg, edgeBlur_blind hg]
  · exact hg.drawn _ s

theorem capture_blind (hg : TmcBlind g) (c : Nat) (ts : Time72) (s : State) : g (capture c ts s) = g s := by
  dsimp only [capture]
  rw [hg.fire, hg.setBit (by unfold chReg; omega) (by unfold chReg; omega), stampPut_blind hg]
  refine reads_ite ?_ (hg.unit _ s)
  exact (hg.od _ _).trans ((hg.setBit (by unfold chReg; omega) (by unfold chReg; omega) ..).trans (hg.unit _ s))

theorem cmpFire_blind (hg : TmcBlind g) (c : Nat) (v : Word) (s : State) : g (cmpFire c v s) = g s := by
  have hbit (i : Nat) (b : Bool) (t : State) : g (hubSetBit (chReg c + 6) i b t) = g t :=
    hg.setBit (by unfold chReg; omega) (by unfold chReg; omega) i b t
  have hcmp (t : State) : g (if v = hubGet (chReg c + 1) s then t
      else odCount 0xC063 0 (hubSetBit (chReg c + 6) 21 true t)) = g t := reads_ite rfl ((hg.od _ _).trans (hbit ..))
  dsimp only [cmpFire]
  rw [hg.fire]
  refine reads_ite ?_ ?_
  · rw [hg.put _ _ _ (by unfold chReg; omega) (by unfold chReg; omega), hcmp, hbit]
  · rw [hbit, hcmp, hbit]

theorem pinQueue_blind (hg : TmcBlind g) (p : Nat) (x : PinAction) (s : State) : g (pinQueue p x s) = g s := pinPut_blind hg ..

/-- The jobs of the timing unit: a pin takes a level, a counter steps, actions are applied. -/
theorem tmcRun_blind (hg : TmcBlind g) (fuel : Nat) (j : TmcJob) (s : State) : g (tmcRun fuel j s) = g s := by
  induction fuel generalizing j s with
  | zero => rw [tmcRun]
  | succ fuel ih =>
    cases j with
    | sync p time edge =>
      dsimp only [tmcRun]
      refine reads_ite rfl (reads_ite (pinHist_blind hg ..) ?_)
      have hhist (e : PinEdge) : g (pinHist p e (edgeStamp p time s).2) = g s := by
        rw [pinHist_blind hg, edgeStamp_blind hg]
      split
      · exact hhist _
      · exact (foldl_keeps g (fun t i => ih _ t) _ _).trans
          ((foldl_keeps g (fun t c => capture_blind hg _ _ t) _ _).trans (hhist _))
    | step i time delay =>
      have hcount (v : Word) (n : Nat) (t : SMap (BitVec 64)) :
          g (if v = 0 then Machine.fire n (hubPut (0x10201 + 2 * i) v { s with tmc := { s.tmc with stepAt := t } })
            else hubPut (0x10201 + 2 * i) v { s with tmc := { s.tmc with stepAt := t } }) = g s := by
        have h : g (hubPut (0x10201 + 2 * i) v { s with tmc := { s.tmc with stepAt := t } }) = g s :=
          (hg.put _ _ _ (by omega) (by omega)).trans (hg.unit _ s)
        exact reads_ite ((hg.fire ..).trans h) h
      have hfire (cs : List Nat) (v : Word) (n : Nat) (t : SMap (BitVec 64)) := (foldl_keeps g (f := fun t c => cmpFire c v t)
        (fun t c => cmpFire_blind hg c v t) cs _).trans (hcount v n t)
      dsimp only [tmcRun]
      refine reads_ite ((ih ..).trans ?_) ?_
      all_goals
        refine reads_ite ?_ (reads_ite ?_ (hfire ..))
        · exact (foldl_keeps g (fun t c => pinQueue_blind hg _ _ t) _ _).trans (hfire ..)
        · exact (foldl_keeps g (fun t p => ih _ t) _ _).trans (hfire ..)
    | act p time acts =>
      dsimp only [tmcRun]
      rw [ih]
      exact (hg.drawn _ _).trans (pinPut_blind hg ..)

theorem pinSync_blind (hg : TmcBlind g) (p : Nat) (time : Time72) (edge : Bool) (s : State) :
    g (pinSync p time edge s) = g s := tmcRun_blind hg ..

theorem bankSync_blind (hg : TmcBlind g) (b : Nat) (s : State) : g (bankSync b s) = g s :=
  foldl_keeps g (fun _ _ => pinSync_blind hg ..) _ _

theorem pinsSafe_blind (hg : TmcBlind g) (s : State) : g (pinsSafe s) = g s :=
  foldl_keeps g (fun _ _ => (pinSync_blind hg ..).trans (pinPut_blind hg ..)) _ _

end

theorem tmcBlind_of_fields {γ : Type} {g : State → γ} (hput : ∀ o v s, g (hubPut o v s) = g s)
    (hunit : ∀ t s, g { s with tmc := t } = g s) (hev : ∀ e s, g { s with ev := e } = g s)
    (hod : ∀ d s, g { s with od := d } = g s) (hfresh : ∀ k s, g { s with fresh := k } = g s) : TmcBlind g :=
  ⟨hunit, hev, hod, hfresh, fun o v s _ _ => hput o v s, fun _ _ _ => hput ..⟩

theorem tmcBlind_rest : TmcBlind State.rest :=
  tmcBlind_of_fields (fun _ _ _ => rfl) (fun _ _ => rfl) (fun _ _ => rfl) (fun _ _ => rfl) fun _ _ => rfl

theorem tmcBlind_tb : TmcBlind State.tb :=
  tmcBlind_of_fields (fun _ _ _ => rfl) (fun _ _ => rfl) (fun _ _ => rfl) (fun _ _ => rfl) fun _ _ => rfl

theorem tmcBlind_hubGet {o : Nat} (h : o < 0x10100) : TmcBlind (hubGet o) where
  unit _ _ := rfl
  ev _ _ := rfl
  od _ _ := rfl
  drawn _ _ := rfl
  put p v s h1 _ := hubGet_hubPut_ne v s (by omega)
  level p b s := hubGet_hubPut_ne _ s (by omega)

theorem tmcBlind_mode : TmcBlind mode where
  unit _ _ := rfl
  ev _ _ := rfl
  od _ _ := rfl
  drawn _ _ := rfl
  put p v s _ h := by rw [mode, hubFld, hubGet_hubPut_ne v s h]; rfl
  level p b s := by
    rw [mode, hubFld, hubGet_hubSetBit]
    split
    · next h => rw [fld_setBit_of_outside (by decide) (by decide), h]; rfl
    · rfl

end Sys2Proof.Machine
end
section
/-!
PROOFS. Grid actions (O31): how they are scheduled, and what they leave at their ticks.
-/
namespace Sys2Proof.Machine

/-! ## Modes (R463, R464) -/

theorem mode_setMode {m : Nat} (h : m < 16) (s : State) : mode (setMode m s) = m := by
  rw [mode, setMode, hubFld, hubGet_hubSetFld, if_pos rfl, fld_setFld_self (by decide) (by decide)]
  exact Nat.mod_eq_of_lt h

theorem hubGet_setMode {o : Nat} (h : o ≠ 0x60000) (m : Nat) (s : State) : hubGet o (setMode m s) = hubGet o s := by
  rw [setMode, hubGet_hubSetFld, if_neg (Ne.symm h)]

theorem hubGet_setModePend {o : Nat} (h : o ≠ 0x60000) (m : Nat) (s : State) : hubGet o (setModePend m s) = hubGet o s := by
  rw [setModePend, hubGet_hubSetFld, if_neg (Ne.symm h)]

theorem mode_fire (src : Nat) (s : State) : mode (fire src s) = mode s := by
  rw [mode, hubFld, hubGet_fire _ _ (by decide), mode, hubFld]

section
variable {γ : Type} {g : State → γ}

/-- A change to any mode but those with safe outputs is the change and its event. -/
theorem changeMode_live {m : Nat} (h : ¬ (m = 4 ∨ m = 5 ∨ m = 9)) (s : State) :
    changeMode m s = if mode s = m then s else fire 0xC63 (setMode m s) := by
  simp [changeMode, h]

theorem linksSafe_blind (hlinks : ∀ l s, g { s with links := l } = g s) (s : State) : g (linksSafe s) = g s := by
  unfold linksSafe
  exact foldl_keeps g (fun t _ => hlinks _ t) _ _

theorem mode_changeMode {m : Nat} (h : m < 16) (s : State) : mode (changeMode m s) = m := by
  have hfire : mode (fire 0xC63 (setMode m s)) = m := by rw [mode_fire, mode_setMode h]
  dsimp only [changeMode]
  split
  · assumption
  · refine reads_ite ?_ hfire
    rw [pinsSafe_blind tmcBlind_mode, linksSafe_blind (g := mode) (fun _ _ => rfl)]
    exact hfire

/-- A reading that sees neither the mode nor what a change of it sets off does not see the change. -/
theorem changeMode_blind (hg : TmcBlind g) (hmode : ∀ m s, g (setMode m s) = g s)
    (hlinks : ∀ l s, g { s with links := l } = g s) (hnet : ∀ p s, g { s with net := p } = g s) (m : Nat) (s : State) :
    g (changeMode m s) = g s := by
  have hfire : g (fire 0xC63 (setMode m s)) = g s := by rw [hg.fire, hmode]
  dsimp only [changeMode]
  refine reads_ite rfl (reads_ite ?_ hfire)
  rw [pinsSafe_blind hg, linksSafe_blind hlinks]
  exact (hnet _ _).trans hfire

theorem changeMode_live_blind (hg : FireBlind g) (hmode : ∀ m s, g (setMode m s) = g s) {m : Nat}
    (h : ¬ (m = 4 ∨ m = 5 ∨ m = 9)) (s : State) : g (changeMode m s) = g s := by
  rw [changeMode_live h]
  exact reads_ite rfl (by rw [fire_blind hg, hmode])

theorem runMode_eq (s : State) : runMode s = 6 ∨ runMode s = 7 := by
  rw [runMode]; split <;> simp

theorem toRun_blind (hg : FireBlind g) (hmode : ∀ m s, g (setMode m s) = g s) (s : State) : g (toRun s) = g s := by
  have h := changeMode_live_blind hg hmode (m := runMode s) (by have := runMode_eq s; omega) s
  exact reads_ite ((fire_blind hg ..).trans h) h

/-- A change that the clusters alone see. -/
theorem eachCl_blind {f : Cl → State → State} (h : ∀ n s, g (f n s) = g s) (s : State) : g (eachCl f s) = g s :=
  foldl_keeps g (fun t n => h n t) _ _

end

theorem hubGet_toRun {o : Nat} (h : o ≠ 0x60000) (h' : o < 0x25001 ∨ 0x25080 < o) (s : State) :
    hubGet o (toRun s) = hubGet o s :=
  toRun_blind (fireBlind_hubGet h') (fun m t => hubGet_setMode h m t) s

@[simp] theorem toRun_tb (s : State) : (toRun s).tb = s.tb :=
  toRun_blind (fireBlind_of_fields (fun _ _ _ => rfl) fun _ _ => rfl) (fun _ _ => hubSetFld_tb ..) s

@[simp] theorem toRun_rest (s : State) : (toRun s).rest = s.rest :=
  toRun_blind (fireBlind_of_fields (fun _ _ _ => rfl) fun _ _ => rfl) (fun _ _ => hubSetFld_rest ..) s

/-- RUN, or RUN_DEGRADED while a degrade reason holds (R439). -/
theorem mode_toRun (s : State) : mode (toRun s) = if hubFld 0x50001 6 0 (toRun s) = 0 then 6 else 7 := by
  have h : mode (toRun s) = runMode s := by
    have hm := mode_changeMode (m := runMode s) (by have := runMode_eq s; omega) s
    exact reads_ite ((mode_fire ..).trans hm) hm
  rw [h, hubFld, hubGet_toRun (by decide) (by decide), ← hubFld, runMode]

/-! ## Scheduling (R46, R47) -/

theorem scheduleGrid_spec (k : GridKind) (s : State) :
    let late := decide ((hubTime 0x1014 s).toNat ≤ 256 * s.ns.toNat)
    (scheduleGrid k s).tb = { s.tb with action := some ⟨k, hubTime 0x1014 s, if late then some s.ticks else none⟩ } ∧
      hubBit 0x100A 9 (scheduleGrid k s) = true ∧ (late = true → hubBit 0x100B 6 (scheduleGrid k s) = true) ∧
      (scheduleGrid k s).rest = s.rest := by
  intro late
  simp only [scheduleGrid, devTime_toNat]
  refine ⟨reads_ite ?_ ?_, reads_ite ?_ ?_, fun h => ?_, reads_ite ?_ ?_⟩
  case refine_5 => rw [if_pos h]; simp [tbFlag, hubBit, hubGet_hubSetBit, bitOf_setBit]
  all_goals simp [tbFlag, hubBit, hubGet_hubSetBit, bitOf_setBit, late]

/-! ## Every cluster in turn -/

/-- What each cluster holds after a change of every cluster, against what it held: `I` holds all along, and the change of a
cluster touches no other. -/
theorem eachCl_cl {f : Cl → State → State} {I : State → Prop} {R : Cl → Cluster → Cluster → Prop}
    (hinv : ∀ n s, I s → I (f n s)) (hself : ∀ n s, I s → R n (s.cl n) ((f n s).cl n))
    (hother : ∀ n m s, n ≠ m → (f n s).cl m = s.cl m) {s : State} (hs : I s) (m : Cl) :
    R m (s.cl m) ((eachCl f s).cl m) := by
  have hall (l : List Cl) (t : State) (ht : I t) : I (l.foldl (fun t n => f n t) t) :=
    foldl_all (fun t n h => hinv n t h) l ht
  have hne (l : List Cl) (hm : m ∉ l) (t : State) : (l.foldl (fun t n => f n t) t).cl m = t.cl m := by
    induction l generalizing t with
    | nil => rfl
    | cons n l ih =>
      rw [List.foldl_cons, ih (List.not_mem_of_not_mem_cons hm), hother n m t (Ne.symm (List.ne_of_not_mem_cons hm))]
  obtain ⟨l, r, hsplit⟩ := List.append_of_mem (List.mem_finRange m)
  have hnd := List.nodup_finRange 256
  rw [hsplit, List.nodup_middle, List.nodup_cons, List.mem_append, not_or] at hnd
  obtain ⟨⟨hl, hr⟩, -⟩ := hnd
  rw [eachCl, allCl, hsplit, List.foldl_append, List.foldl_cons, hne r hr]
  have := hself m _ (hall l s hs)
  rwa [hne l hl] at this

theorem ioGet_ioSetBit (o i p : Nat) (b : Bool) (c : Cluster) :
    ioGet p (ioSetBit o i b c) = if o = p then setBit i b (ioGet o c) else ioGet p c := ioGet_ioPut ..

theorem ioGet_ioSetFld (o hi lo v p : Nat) (c : Cluster) :
    ioGet p (ioSetFld o hi lo v c) = if o = p then setFld hi lo v (ioGet o c) else ioGet p c := ioGet_ioPut ..

theorem ioGet_congr {c d : Cluster} (h : c.io = d.io) (o : Nat) : ioGet o c = ioGet o d := by rw [ioGet, h, ioGet]

/-! ## START (R48, R60, R182) -/

theorem ioGet_syncPend {i o : Nat} (h : 0x320 + i ≠ o) (c : Cluster) : ioGet o (syncPend i c) = ioGet o c := by
  rw [syncPend, ioGet_ioSetBit, if_neg h]

theorem ioGet_putOwner {i o : Nat} (h : 0x320 + i ≠ o) (code rem : Nat) (hold : Bool) (c : Cluster) :
    ioGet o (putOwner i code rem hold c) = ioGet o c := by
  have hset (a b v w : Nat) (c : Cluster) : ioGet o (ioSetFld (0x320 + i) 7 0 v (ioSetFld (0x320 + i) a b w c)) = ioGet o c := by
    rw [ioGet_ioSetFld, if_neg h, ioGet_ioSetFld, if_neg h]
  have hport (m : SMap Bool) (c : Cluster) : ioGet o { c with portA := m } = ioGet o c := rfl
  dsimp only [putOwner]
  refine reads_ite (ioGet_syncPend h c) ?_
  rw [ioGet_syncPend h]
  split
  · rw [hport, hset]
  · rw [hset]

theorem plotStart_cl_ne {n m : Cl} (h : n ≠ m) (s : State) : (plotStart n s).cl m = s.cl m :=
  (foldl_keeps (fun t : State => t.cl m) (fun t _ => modCl_cl_ne _ t h) _ _).trans (modCl_cl_ne _ s h)

theorem plotStart_phase (n : Cl) (s : State) : ioGet 0x341 ((plotStart n s).cl n) = 0 := by
  refine List.foldlRecOn (motive := fun t : State => ioGet 0x341 (t.cl n) = 0) _ _ (by simp) fun t ht i hi => ?_
  have hi' : 0x320 + i ≠ 0x341 := by have := List.mem_range.mp hi; omega
  simp only [modCl_cl_self]
  split
  · rw [ioGet_putOwner hi', ht]
  · exact ht

theorem plotStart_blind {γ : Type} {g : State → γ} (h : ∀ n c s, g (s.putCl n c) = g s) (n : Cl) (s : State) :
    g (plotStart n s) = g s :=
  (foldl_keeps g (fun _ _ => h ..) _ _).trans (h ..)

end Sys2Proof.Machine
end
section
namespace Sys2Proof.Machine

theorem cl_of_cls {s t : State} (h : t.cls = s.cls) (n : Cl) : t.cl n = s.cl n := by rw [State.cl, h, State.cl]

theorem ioGet_noFrame (o : Nat) (c : Cluster) : ioGet o (noFrame c) = ioGet o c := rfl

/-! ## STOP (R49, R464) -/

theorem ioGet_syncRowRep {o : Nat} (h : o ≠ 0x3A1) (c : Cluster) : ioGet o (syncRowRep c) = ioGet o c := by
  rw [syncRowRep, ioGet_ioSetFld, if_neg (Ne.symm h)]

theorem ioGet_bankRemap {o : Nat} (h : o ≠ 0x3A1) (bank spare : Nat) (c : Cluster) :
    ioGet o (bankRemap bank spare c) = ioGet o c := by
  dsimp only [bankRemap]
  split <;> rw [ioGet_ioSetBit, if_neg (Ne.symm h), ioGet_ioSetFld, if_neg (Ne.symm h), ioGet_syncRowRep h] <;> rfl

theorem ioGet_edgeRemap {o : Nat} (h : o ≠ 0x3A1) (c : Cluster) : ioGet o (edgeRemap c) = ioGet o c := by
  refine (foldl_keeps (ioGet o) (fun d p => ioGet_bankRemap h ..) _ _).trans ?_
  rw [rowRepair, ioGet_syncRowRep h]
  rfl

theorem setRunning_setAbandon (j k : Nat) (c : Cluster) :
    setRunning k (setAbandon j c) = (decide (j ≠ k) && setRunning k c) := by
  rw [setAbandon, setRunning, ioBit, ioGet_ioSetBit]
  by_cases h : j = k
  · simp [h, bitOf_setBit]
  · rw [if_neg (by omega)]
    simp [h, setRunning, ioBit, ioGet]

theorem setRunning_stopSets {k : Nat} (hk : k < 8) (c : Cluster) : setRunning k (stopSets c) = false := by
  have h (m : Nat) (d : Cluster) : ∀ j < m,
      setRunning j ((List.range m).foldl (fun d k => if setRunning k d then setAbandon k d else d) d) = false := by
    induction m with
    | zero => intro j hj; omega
    | succ m ih =>
      intro j hj
      rw [List.range_succ, List.foldl_append, List.foldl_cons, List.foldl_nil]
      by_cases hjm : j = m
      · subst hjm
        split
        · rw [setRunning_setAbandon]; simp
        · next h => simpa using h
      · have hj' := ih j (by omega)
        exact reads_ite (by rw [setRunning_setAbandon, hj', Bool.and_false]) hj'
  exact h 8 _ k hk

theorem setRunning_edgeRemap {k : Nat} (hk : k < 8) (c : Cluster) : setRunning k (edgeRemap c) = setRunning k c := by
  rw [setRunning, ioBit, ioGet_edgeRemap (by omega), setRunning, ioBit]

/-! ## The ticks of the grid actions -/

theorem gridDueOf_of {k : GridKind} {s : State} (h : gridDue s = true) (hk : ∃ a, s.tb.action = some a ∧ a.kind = k) :
    gridDueOf k s = true := by
  obtain ⟨a, ha, rfl⟩ := hk
  simp [gridDueOf, h, ha]

theorem gridStartTick_spec {s : State} (hd : dark s = false) (hk : gridDueOf .start s = true) (hp : modePend s = 6) :
    ∃ t, execGridStartTick s = .next t ∧ t.tb.action = none ∧ gridRun t = true ∧ hubPair 0x101A t = 0 ∧
      (∀ n : Cl, ioGet 0x341 (t.cl n) = 0) ∧ mode t = if hubFld 0x50001 6 0 t = 0 then 6 else 7 := by
  have hp' : ¬ modePend (clearAction s) ≠ 6 := by
    simpa [modePend, hubFld, clearAction, hubGet_hubSetBit] using hp
  have hblind {γ : Type} {g : State → γ} (h : ∀ n c u, g (u.putCl n c) = g u) (u : State) :
      g (eachCl (fun n v => (plotStart n v).modCl n noFrame) u) = g u :=
    eachCl_blind (fun n v => (h ..).trans (plotStart_blind h n v)) u
  have hhub (o : Nat) (h : o ≠ 0x60000) (h' : o < 0x25001 ∨ 0x25080 < o) (u : State) :
      hubGet o (toRun (setModePend 0xF (eachCl (fun n v => (plotStart n v).modCl n noFrame) u))) = hubGet o u := by
    rw [hubGet_toRun h h', hubGet_setModePend h]
    exact hblind (fun _ _ _ => rfl) u
  simp only [execGridStartTick, awake_eq hd, hk, hp', Bool.not_true, Bool.false_eq_true, if_false]
  refine ⟨_, rfl, ?_, ?_, ?_, fun n => ?_, mode_toRun _⟩
  · rw [toRun_tb, setModePend, hubSetFld_tb, hblind (g := State.tb) fun _ _ _ => rfl]
    simp [clearAction]
  · rw [gridRun, hubBit, hhub _ (by decide) (by decide)]
    simp [hubGet_hubPutPair, hubGet_hubSetBit, bitOf_setBit]
  · rw [hubPair, hhub _ (by decide) (by decide), hhub _ (by decide) (by decide)]
    exact hubPair_hubPutPair_self ..
  · have hcl (u : State) : (toRun (setModePend 0xF u)).cls = u.cls := 
      cls_of_rest ((toRun_rest _).trans (hubSetFld_rest ..))
    rw [cl_of_cls (hcl _)]
    refine eachCl_cl (I := fun _ => True) (R := fun _ _ c => ioGet 0x341 c = 0) (fun _ _ h => h) (fun n v _ => ?_)
      (fun n m v h => ?_) trivial n
    · rw [modCl_cl_self, ioGet_noFrame, plotStart_phase]
    · rw [modCl_cl_ne _ _ h, plotStart_cl_ne h]

theorem gridStopTick_spec {s : State} (hd : dark s = false) (hk : gridDueOf .stop s = true) :
    ∃ t, execGridStopTick s = .next t ∧ t.tb.action = none ∧ gridRun t = false ∧ holdActive t = false ∧ mode t = 5 ∧
      ∀ n k, k < 8 → setRunning k (t.cl n) = false := by
  have htb (u : State) : (changeMode 5 u).tb = u.tb :=
    changeMode_blind tmcBlind_tb (fun _ _ => hubSetFld_tb ..) (fun _ _ => rfl) (fun _ _ => rfl) 5 u
  have hst (u : State) : hubGet 0x100A (changeMode 5 u) = hubGet 0x100A u :=
    changeMode_blind (tmcBlind_hubGet (by decide)) (fun m u => hubGet_setMode (by decide) m u) (fun _ _ => rfl)
      (fun _ _ => rfl) 5 u
  have hcls (u : State) : (changeMode 5 u).cls = u.cls :=
    changeMode_blind (g := State.cls) (tmcBlind_of_fields (fun _ _ _ => rfl) (fun _ _ => rfl) (fun _ _ => rfl)
      (fun _ _ => rfl) fun _ _ => rfl) (fun _ _ => hubSetFld_cls ..) (fun _ _ => rfl) (fun _ _ => rfl) 5 u
  have heach {γ : Type} {g : State → γ} (h : ∀ n c u, g (u.putCl n c) = g u) (u : State) :
      g (eachCl (fun n v => v.modCl n fun c => edgeRemap (stopSets c)) u) = g u := eachCl_blind (fun n v => h ..) u
  simp only [execGridStopTick, awake_eq hd, hk, Bool.not_true, Bool.false_eq_true, if_false]
  refine ⟨_, rfl, ?_, ?_, ?_, mode_changeMode (by decide) _, fun n k hk' => ?_⟩
  · rw [htb, heach (g := State.tb) fun _ _ _ => rfl]
    simp [clearAction, setModePend]
  · rw [gridRun, hubBit, hst, heach (g := hubGet 0x100A) fun _ _ _ => rfl, hubGet_setModePend (by decide)]
    simp [hubGet_hubSetBit, bitOf_setBit]
  · rw [holdActive, hubBit, hst, heach (g := hubGet 0x100A) fun _ _ _ => rfl, hubGet_setModePend (by decide)]
    simp [hubGet_hubSetBit, bitOf_setBit]
  · rw [cl_of_cls (hcls _)]
    refine eachCl_cl (I := fun _ => True) (R := fun _ _ c => setRunning k c = false) (fun _ _ h => h) (fun n v _ => ?_)
      (fun n m v h => modCl_cl_ne _ v h) trivial n
    rw [modCl_cl_self, setRunning_edgeRemap hk', setRunning_stopSets hk']

theorem gridHoldTick_spec {s : State} (hd : dark s = false) (hk : gridDueOf .hold s = true) :
    ∃ t, execGridHoldTick s = .next t ∧ t.tb.action = none ∧ holdActive t = true ∧
      (mode s = 6 ∨ mode s = 7 → mode t = 8) ∧ t.rest = s.rest := by
  have hm : mode (hubSetBit 0x100A 10 true (clearAction s)) = mode s := by
    simp [mode, hubFld, clearAction, hubGet_hubSetBit]
  have hlive {γ : Type} {g : State → γ} (hg : FireBlind g) (hmode : ∀ m s, g (setMode m s) = g s) :=
    changeMode_live_blind hg hmode (m := 8) (by decide) (hubSetBit 0x100A 10 true (clearAction s))
  simp only [execGridHoldTick, awake_eq hd, hk, hm, Bool.not_true, Bool.false_eq_true, if_false]
  refine ⟨_, rfl, ?_, ?_, fun h => ?_, ?_⟩
  · have h0 : (hubSetBit 0x100A 10 true (clearAction s)).tb.action = none := by simp [clearAction]
    exact reads_ite (g := fun t : State => t.tb.action)
      ((congrArg (·.action) (hlive (g := State.tb) (fireBlind_of_fields (fun _ _ _ => rfl) fun _ _ => rfl)
        fun _ _ => hubSetFld_tb ..)).trans h0) h0
  · have h0 : holdActive (hubSetBit 0x100A 10 true (clearAction s)) = true := by
      simp [holdActive, hubBit, hubGet_hubSetBit, bitOf_setBit]
    exact reads_ite (g := holdActive) ((congrArg (bitOf 10) (hlive (fireBlind_hubGet (by decide)) fun m u =>
      hubGet_setMode (by decide) m u)).trans h0) h0
  · rw [if_pos h]
    exact mode_changeMode (by decide) _
  · have h0 : (hubSetBit 0x100A 10 true (clearAction s)).rest = s.rest := by simp [clearAction]
    exact reads_ite ((hlive (fireBlind_of_fields (fun _ _ _ => rfl) fun _ _ => rfl) fun _ _ => hubSetFld_rest ..).trans h0) h0

theorem pairRejoin_eq {s : State} (h : ∀ n : Cl, hubFld (0x50100 + 8 * n.val) 23 21 s ≠ 2) : pairRejoin s = s := by
  refine List.foldlRecOn (motive := (· = s)) _ _ rfl fun t ht n _ => ?_
  subst ht
  exact if_neg fun hn => h n hn.1

theorem gridResumeTick_spec {s : State} (hd : dark s = false) (hk : gridDueOf .resume s = true)
    (hpair : ∀ n : Cl, hubFld (0x50100 + 8 * n.val) 23 21 s ≠ 2) :
    ∃ t, execGridResumeTick s = .next t ∧ t.tb.action = none ∧ holdActive t = false ∧
      (mode s = 8 → mode t = if hubFld 0x50001 6 0 t = 0 then 6 else 7) ∧ t.rest = s.rest := by
  have hm : mode (hubSetBit 0x100A 10 false (clearAction s)) = mode s := by
    simp [mode, hubFld, clearAction, hubGet_hubSetBit]
  have hid : pairRejoin (hubSetBit 0x100A 10 false (clearAction s)) = hubSetBit 0x100A 10 false (clearAction s) := by
    refine pairRejoin_eq fun n => ?_
    have h1 : (0x100A : Nat) ≠ 0x50100 + 8 * n.val := by omega
    simpa [hubFld, clearAction, hubGet_hubSetBit, h1] using hpair n
  simp only [execGridResumeTick, awake_eq hd, hk, hid, hm, Bool.not_true, Bool.false_eq_true, if_false]
  refine ⟨_, rfl, ?_, ?_, fun h => ?_, ?_⟩
  · exact reads_ite (g := fun t : State => t.tb.action) (by simp [clearAction]) (by simp [clearAction])
  · refine reads_ite (g := holdActive) ?_ ?_
    · rw [holdActive, hubBit, hubGet_toRun (by decide) (by decide)]
      simp [hubGet_hubSetBit, bitOf_setBit]
    · simp [holdActive, hubBit, hubGet_hubSetBit, bitOf_setBit]
  · rw [if_pos h]
    exact mode_toRun _
  · exact reads_ite (g := State.rest) (by simp [clearAction]) (by simp [clearAction])

end Sys2Proof.Machine

namespace Sys2Proof.Proofs
open Sys2Proof.Machine

/-- Settles O31: a scheduled action stands in TB_GRID_AT's place with its late flag, a refused one leaves its flag and event;
at its tick each action clears the pending one, sets or clears GRID_RUN and HOLD_ACTIVE, and the change of mode reaches
neither time, memory nor clusters beyond what the action itself does there. -/
theorem gridActions : Obligations.GridActions := by
  unfold Obligations.GridActions
  refine ⟨fun s hd => ?_, fun s hd => ?_⟩
  · have hsched (k : GridKind) :=
      have ⟨htb, hpend, hlate, hr⟩ := scheduleGrid_spec k s
      And.intro htb (And.intro hpend (And.intro hlate (And.intro (mem_of_rest hr) (cls_of_rest hr))))
    have hstart : exec .gridStart s = _ := awake_eq hd _
    have hstop : exec .gridStop s = _ := awake_eq hd _
    have hhold : exec .gridHold s = _ := awake_eq hd _
    have hresume : exec .gridResume s = _ := awake_eq hd _
    exact ⟨fun hr hm => ⟨scheduleGrid .start s, hstart.trans (by simp [hr, hm]), hsched _⟩,
      fun hr hm => hstart.trans (by simp [hr, hm, tbFlag]),
      fun hr => ⟨scheduleGrid .stop s, hstop.trans (by simp [hr]), hsched _⟩,
      fun hr => ⟨hhold.trans (by simp [hr, tbFlag]), hresume.trans (by simp [hr, tbFlag])⟩,
      fun hr hh => ⟨scheduleGrid .hold s, hhold.trans (by simp [hr, hh]), hsched _⟩,
      fun hr hh => ⟨scheduleGrid .resume s, hresume.trans (by simp [hr, hh]), hsched _⟩⟩
  · refine ⟨fun ⟨h, hk⟩ hp => gridStartTick_spec hd (gridDueOf_of h hk) hp,
      fun ⟨h, hk⟩ => gridStopTick_spec hd (gridDueOf_of h hk), fun ⟨h, hk⟩ => ?_, fun ⟨h, hk⟩ hpair => ?_⟩
    · obtain ⟨t, hx, ha, hh, hm, hr⟩ := gridHoldTick_spec hd (gridDueOf_of h hk)
      exact ⟨t, hx, ha, hh, hm, cls_of_rest hr, mem_of_rest hr⟩
    · obtain ⟨t, hx, ha, hh, hm, hr⟩ := gridResumeTick_spec hd (gridDueOf_of h hk) hpair
      exact ⟨t, hx, ha, hh, hm, cls_of_rest hr, mem_of_rest hr⟩

end Sys2Proof.Proofs
end
section
/-!
PROOFS. Base frame ticks and the tick edges of the clusters (O32).
-/
namespace Sys2Proof.Machine

/-! ## What a base frame tick does before it reaches the clusters (R44, R60, R171, R439, R464, R498) -/

/-- The part of a base frame tick between simulation time's step and the clusters' frame ticks. -/
def frameBegun (s : State) : State :=
  fire 0x100 (eachCl (fun n v => v.modCl n takeSlots) (gcntSnap (degrRule (safeReturn s))))

theorem baseFrameTick_eq (s : State) :
    baseFrameTick s = eachCl (tickCluster (frameOfTime s)) (frameBegun
      (simTick { clashFrame s with tb := { (clashFrame s).tb with tickedAt := some s.ticks, slots := slotsReserved s } })) := rfl

section
variable {γ : Type} {g : State → γ}

theorem clashTake_blind (hcl : ∀ n c s, g (s.putCl n c) = g s) (hfresh : ∀ k s, g { s with fresh := k } = g s)
    (hi : Nat) (n : Cl) (s : State) : g (clashTake hi n s) = g s := by
  dsimp only [clashTake]
  exact reads_ite rfl ((hfresh _ _).trans (hcl ..))

theorem clashFrame_blind (h : ∀ hi n s, g (clashTake hi n s) = g s) (s : State) : g (clashFrame s) = g s :=
  reads_ite (foldl_keeps g (fun t n => h _ n t) _ _) rfl

theorem gcntSnap_blind (hg : FireBlind g) (s : State) : g (gcntSnap s) = g s := by
  refine reads_ite rfl (List.foldlRecOn (motive := fun t => g t = g s) _ _ rfl fun t ht k hk => ?_)
  have hk' := List.mem_range.mp hk
  rw [hubPutPair, hg.put _ _ _ (by omega) (by omega), hg.put _ _ _ (by omega) (by omega), ht]

theorem frameBegun_blind (hg : FireBlind g) (hmode : ∀ m s, g (setMode m s) = g s) (hpend : ∀ m s, g (setModePend m s) = g s)
    (htake : ∀ n s, g (s.modCl n takeSlots) = g s) (s : State) : g (frameBegun s) = g s := by
  have hrun (s : State) : g (toRun s) = g s := toRun_blind hg hmode s
  have hsafe : g (safeReturn s) = g s :=
    reads_ite (reads_ite ((changeMode_live_blind hg hmode (by decide) _).trans (hpend ..)) ((hrun _).trans (hpend ..))) rfl
  have hdegr (t : State) : g (degrRule t) = g t :=
    reads_ite (hrun t) (reads_ite ((fire_blind hg ..).trans (changeMode_live_blind hg hmode (by decide) t)) rfl)
  rw [frameBegun, fire_blind hg, eachCl_blind htake, gcntSnap_blind hg, hdegr, hsafe]

theorem tickCluster_blind (hg : FireBlind g) (hcl : ∀ n c s, g (s.putCl n c) = g s) (k : Nat) (n : Cl) (s : State) :
    g (tickCluster k n s) = g s := reads_ite ((fire_blind hg ..).trans (hcl ..)) rfl

/-- What a base frame tick leaves: all but the clusters, the event fabric, simulation time, the mode and TICKED. -/
theorem baseFrameTick_blind (hg : FireBlind g) (hcl : ∀ n c s, g (s.putCl n c) = g s)
    (hfresh : ∀ k s, g { s with fresh := k } = g s) (hmode : ∀ m s, g (setMode m s) = g s)
    (hpend : ∀ m s, g (setModePend m s) = g s) (htb : ∀ x s, g { s with tb := x } = g s)
    (hsim : ∀ s, g (hubCount 0x101A s) = g s) (s : State) : g (baseFrameTick s) = g s := by
  rw [baseFrameTick_eq, eachCl_blind (fun n t => tickCluster_blind hg hcl _ n t),
    frameBegun_blind hg hmode hpend fun n t => hcl n _ t]
  refine (reads_ite rfl (hsim _)).trans ?_
  rw [htb, clashFrame_blind fun hi n t => clashTake_blind hcl hfresh hi n t]

end

theorem clashFrame_hub (s : State) : (clashFrame s).hub = s.hub :=
  clashFrame_blind (clashTake_blind (fun _ _ _ => rfl) fun _ _ => rfl) s

theorem mem_baseFrameTick (s : State) : (baseFrameTick s).mem = s.mem :=
  baseFrameTick_blind (fireBlind_of_fields (fun _ _ _ => rfl) fun _ _ => rfl) (fun _ _ _ => rfl) (fun _ _ => rfl)
    (fun _ _ => hubSetFld_mem ..) (fun _ _ => hubSetFld_mem ..) (fun _ _ => rfl) (fun _ => rfl) s

theorem tickedAt_baseFrameTick (s : State) : (baseFrameTick s).tb.tickedAt = some s.ticks := by
  have hg : FireBlind State.tb := fireBlind_of_fields (fun _ _ _ => rfl) fun _ _ => rfl
  rw [baseFrameTick_eq, eachCl_blind (g := State.tb) (fun n t => tickCluster_blind hg (fun _ _ _ => rfl) _ n t),
    frameBegun_blind hg (fun _ _ => hubSetFld_tb ..) (fun _ _ => hubSetFld_tb ..) fun _ _ => rfl]
  exact reads_ite (g := fun t : State => t.tb.tickedAt) rfl rfl

theorem hubGet_of_hub {s t : State} (h : t.hub = s.hub) (o : Nat) : hubGet o t = hubGet o s := by rw [hubGet, h, hubGet]

theorem simTime_simTick {s t : State} (hhub : t.hub = s.hub) (hticks : t.ticks = s.ticks)
    (hstart : t.tb.startAt = s.tb.startAt) :
    hubPair 0x101A (simTick t) = hubPair 0x101A s + (if s.tb.startAt = some s.ticks ∨ holdActive s = true then 0 else 1) := by
  have hpair : hubPair 0x101A t = hubPair 0x101A s := by rw [hubPair, hubGet_of_hub hhub, hubGet_of_hub hhub, hubPair]
  have hhold : holdActive t = holdActive s := by rw [holdActive, hubBit, hubGet_of_hub hhub, holdActive, hubBit]
  rw [simTick, hticks, hstart, hhold]
  split
  · exact hpair.trans (BitVec.add_zero _).symm
  · rw [hubPair_hubCount_self, hpair]

theorem simTime_baseFrameTick (s : State) :
    hubPair 0x101A (baseFrameTick s) =
      hubPair 0x101A s + (if s.tb.startAt = some s.ticks ∨ holdActive s = true then 0 else 1) := by
  have hg (o : Nat) (h : o < 0x25001) (h' : o ≠ 0x60000) (t : State) (k : Nat) :
      hubGet o (eachCl (tickCluster k) (frameBegun t)) = hubGet o t := by
    have hf : FireBlind (hubGet o) := fireBlind_hubGet (Or.inl h)
    rw [eachCl_blind (g := hubGet o) (fun n t => tickCluster_blind hf (fun _ _ _ => rfl) _ n t),
      frameBegun_blind hf (fun m t => hubGet_setMode h' m t) (fun m t => hubGet_setModePend h' m t) fun _ _ => rfl]
  have htb : (clashFrame s).tb = s.tb := clashFrame_blind (clashTake_blind (fun _ _ _ => rfl) fun _ _ => rfl) s
  have hticks : (clashFrame s).ticks = s.ticks := clashFrame_blind (clashTake_blind (fun _ _ _ => rfl) fun _ _ => rfl) s
  rw [baseFrameTick_eq, hubPair, hg _ (by decide) (by decide), hg _ (by decide) (by decide), ← hubPair]
  exact simTime_simTick (clashFrame_hub s) hticks (congrArg Tb.startAt htb :)

theorem simTick_cls (s : State) : (simTick s).cls = s.cls := reads_ite rfl rfl

theorem modCl_keeps {γ : Type} {g : Cluster → γ} {f : Cluster → Cluster} (h : ∀ c, g (f c) = g c) (m n : Cl) (s : State) :
    g ((s.modCl m f).cl n) = g (s.cl n) := by
  by_cases hmn : m = n
  · subst hmn
    rw [modCl_cl_self, h]
  · rw [modCl_cl_ne _ _ hmn]

/-- A base frame tick reaches exactly the islands whose frame tick it is (R44). -/
theorem tickAt_baseFrameTick (n : Cl) (s : State) :
    ((baseFrameTick s).cl n).tickAt = if isFrameTick n (frameOfTime s) s then some (frameOfTime s) else (s.cl n).tickAt := by
  have hg : FireBlind fun t : State => (t.cl n).tickAt := fireBlind_of_fields (fun _ _ _ => rfl) fun _ _ => rfl
  have hclash (hi : Nat) (m : Cl) (t : State) : ((clashTake hi m t).cl n).tickAt = (t.cl n).tickAt := by
    dsimp only [clashTake]
    split
    · rfl
    · rw [cl_of_cls (drawn_cls _)]
      exact modCl_keeps (g := Cluster.tickAt) (by exact fun _ => rfl) m n t
  have hbegun (t : State) : ((frameBegun t).cl n).tickAt = (t.cl n).tickAt :=
    frameBegun_blind hg (fun _ _ => congrArg Cluster.tickAt (cl_of_cls (hubSetFld_cls ..) n))
      (fun _ _ => congrArg Cluster.tickAt (cl_of_cls (hubSetFld_cls ..) n))
      (fun m t => modCl_keeps (g := Cluster.tickAt) (by exact fun _ => rfl) m n t) t
  have hk (m : Cl) (t : State) (h : ∀ o, 0x1100 ≤ o → o < 0x1200 → hubGet o t = hubGet o s) (k : Nat) :
      isFrameTick m k t = isFrameTick m k s := by
    unfold isFrameTick divisor ratePhase hubFld
    rw [h (0x1100 + m.val) (by omega) (by omega)]
  have hhub (k o : Nat) (m : Cl) (t : State) (h : 0x1100 ≤ o) (h' : o < 0x1200) :
      hubGet o (tickCluster k m t) = hubGet o t :=
    tickCluster_blind (fireBlind_hubGet (by omega)) (fun _ _ _ => rfl) k m t
  have hother (k : Nat) (m p : Cl) (t : State) (h : m ≠ p) : (tickCluster k m t).cl p = t.cl p :=
    reads_ite (g := fun t : State => t.cl p) (by rw [fire_cl, modCl_cl_ne _ _ h]) rfl
  have hX (x : Tb) : ((simTick { clashFrame s with tb := x }).cl n).tickAt = (s.cl n).tickAt := by
    rw [cl_of_cls (simTick_cls _)]
    exact clashFrame_blind (g := fun t : State => (t.cl n).tickAt) hclash s
  rw [baseFrameTick_eq]
  refine (eachCl_cl (I := fun t => ∀ o, 0x1100 ≤ o → o < 0x1200 → hubGet o t = hubGet o s)
    (R := fun m a b => b.tickAt = if isFrameTick m (frameOfTime s) s then some (frameOfTime s) else a.tickAt)
    (fun m t h o h1 h2 => (hhub _ o m t h1 h2).trans (h o h1 h2)) (fun m t h => ?_) (hother _) (fun o h1 h2 => ?_) n).trans ?_
  · rw [tickCluster, hk m t h]
    split
    · rw [fire_cl, modCl_cl_self]
    · rfl
  · rw [frameBegun_blind (fireBlind_hubGet (by omega)) (fun m t => hubGet_setMode (by omega) m t)
      (fun m t => hubGet_setModePend (by omega) m t) fun _ _ => rfl]
    refine (reads_ite rfl ?_ : _ = hubGet o { clashFrame s with tb := _ }).trans (hubGet_of_hub (clashFrame_hub s) o)
    rw [hubCount, hubGet_hubPutPair, if_neg (by omega), if_neg (by omega)]
  · rw [hbegun, hX]

/-! ## The tick edge of a cluster (R30, R40, R54, R62, R256) -/

theorem hubGet_requestSafe {o : Nat} (h : o ≠ 0x60000) (s : State) : hubGet o (requestSafe s) = hubGet o s :=
  reads_ite (hubGet_setModePend h ..) rfl

theorem hubGet_setDeadline {o : Nat} (h : o < 0x25001) (n : Cl) (r : Bool × State) (k : Nat) :
    hubGet o (setDeadline n r k).2 = hubGet o r.2 := by
  have hfire (t : State) : hubGet o (fire (0x600 + n.val) (t.modCl n (irqRaise 1))) = hubGet o t := hubGet_fire _ _ (Or.inl h)
  dsimp only [setDeadline]
  split
  · rfl
  · split
    · rfl
    · refine reads_ite ((hubGet_requestSafe (by omega) _).trans (hfire _)) (hfire _)

theorem hubGet_deadlines {o : Nat} (h : o < 0x25001) (n : Cl) (s : State) : hubGet o (deadlines n s) = hubGet o s := by
  have hr : hubGet o ((List.range 8).foldl (setDeadline n) (false, s)).2 = hubGet o s :=
    foldl_keeps (fun r : Bool × State => hubGet o r.2) (fun r k => hubGet_setDeadline h n r k) _ _
  dsimp only [deadlines]
  exact reads_ite hr (reads_ite hr hr)

theorem hubGet_evcSnap (o : Nat) (n : Cl) (s : State) : hubGet o (evcSnap n s) = hubGet o s := reads_ite rfl rfl

theorem holdActive_deadlines (n : Cl) (s : State) : holdActive (deadlines n (evcSnap n s)) = holdActive s := by
  rw [holdActive, hubBit, hubGet_deadlines (by decide), hubGet_evcSnap, holdActive, hubBit]

theorem edgeRemap_keeps {γ : Type} {g : Cluster → γ} (hio : ∀ o v c, g (ioPut o v c) = g c)
    (hbad : ∀ b x c, g { c with bad := b, xbad := x } = g c)
    (hbank : ∀ p q b c, g { c with copies := p, corrected := q, bad := b } = g c) (c : Cluster) : g (edgeRemap c) = g c := by
  refine (foldl_keeps g (fun d p => ?_) _ _).trans ((hio ..).trans (hbad ..))
  dsimp only [bankRemap]
  split <;> exact (hio ..).trans ((hio ..).trans ((hio ..).trans (hbank ..)))

/-- What a tick edge leaves in a live cluster that no frame of its own awaits: the fields of its last change. -/
theorem edgeRemap_fields (c : Cluster) :
    (edgeRemap c).tickAt = c.tickAt ∧ (edgeRemap c).ran = c.ran ∧ (edgeRemap c).lastCommit = c.lastCommit :=
  ⟨edgeRemap_keeps (fun _ _ _ => rfl) (fun _ _ _ => rfl) (fun _ _ _ _ => rfl) c,
    edgeRemap_keeps (fun _ _ _ => rfl) (fun _ _ _ => rfl) (fun _ _ _ _ => rfl) c,
    edgeRemap_keeps (fun _ _ _ => rfl) (fun _ _ _ => rfl) (fun _ _ _ _ => rfl) c⟩

theorem watchdogTick_keeps {γ : Type} {g : Cluster → γ} (hio : ∀ v c, g (ioPut 0x1D v c) = g c)
    (hseen : ∀ b c, g { c with ieSeen := b } = g c) (c : Cluster) : g (watchdogTick c) = g c := by
  dsimp only [watchdogTick]
  exact reads_ite (hseen ..) ((hseen ..).trans (hio ..))

/-- What a tick edge in a hold leaves of its cluster. -/
theorem heldEdge_fields (c : Cluster) :
    let d := edgeRemap { watchdogTick (dropPreopen (noFrame c)) with tickAt := none }
    d.tickAt = none ∧ d.ran = false ∧ d.lastCommit = none := by
  intro d
  obtain ⟨htick, hran, hlast⟩ := edgeRemap_fields { watchdogTick (dropPreopen (noFrame c)) with tickAt := none }
  exact ⟨htick, hran.trans (watchdogTick_keeps (g := Cluster.ran) (fun _ _ => rfl) (fun _ _ => rfl) _),
    hlast.trans (watchdogTick_keeps (g := Cluster.lastCommit) (fun _ _ => rfl) (fun _ _ => rfl) _)⟩

/-- What a tick edge that begins a frame leaves of its cluster. -/
theorem frameEdge_fields (c : Cluster) (own : Option (List (Nat × Bool))) (held : Nat) :
    let d := edgeRemap { watchdogTick (irqRaise 0 c) with tickAt := none, ran := true, lastCommit := own, heldFor := held }
    d.tickAt = none ∧ d.ran = true ∧ ioBit 0x30 0 d = true := by
  intro d
  obtain ⟨htick, hran, -⟩ := edgeRemap_fields
    { watchdogTick (irqRaise 0 c) with tickAt := none, ran := true, lastCommit := own, heldFor := held }
  have hirq : ioGet 0x30 d = setBit 0 true (ioGet 0x30 c) := by
    rw [ioGet_edgeRemap (by decide)]
    refine (watchdogTick_keeps (g := ioGet 0x30) (fun v c => ioGet_ioPut_ne v c (by decide)) (fun _ _ => rfl) _).trans ?_
    exact ioGet_ioPut_self ..
  exact ⟨htick, hran, by simp [ioBit, hirq, bitOf_setBit]⟩

theorem clusterTickEdge_spec {n : Cl} {s : State} (hc : clocked n s = true) (ht : (s.cl n).tickAt.isSome = true)
    (hi : isolated n s = false) (hf : (s.cl n).failCause = false)
    (hd : ((deadlines n (evcSnap n s)).cl n).failCause = false) :
    ∃ t, execClusterTickEdge n s = .next t ∧ (t.cl n).tickAt = none ∧
      (holdActive s = true → (t.cl n).ran = false ∧ (t.cl n).lastCommit = none) ∧
      (holdActive s = false → (t.cl n).ran = true ∧ ioBit 0x30 0 (t.cl n) = true) := by
  have hn : (s.cl n).tickAt.isNone = false := by rw [← Option.not_isSome, ht, Bool.not_true]
  simp only [execClusterTickEdge, hc, hn, hi, hf, hd, Bool.not_true, Bool.false_eq_true, if_false]
  refine ⟨_, rfl, ?_⟩
  rw [liveEdge, holdActive_deadlines]
  cases holdActive s with
  | true =>
    simp only [if_true, modCl_cl_self]
    obtain ⟨htick, hran, hlast⟩ := heldEdge_fields ((holdWindow n (mirrorStart n
      (ucAtTick n (baseFrame (deadlines n (evcSnap n s))) (deadlines n (evcSnap n s))))).cl n)
    exact ⟨htick, fun _ => ⟨hran, hlast⟩, nofun⟩
  | false =>
    simp only [Bool.false_eq_true, if_false, modCl_cl_self]
    obtain ⟨htick, hran, hirq⟩ := frameEdge_fields _ _ _
    exact ⟨htick, nofun, fun _ => ⟨hran, hirq⟩⟩

end Sys2Proof.Machine

namespace Sys2Proof.Proofs
open Sys2Proof.Machine

/-- Settles O32: nothing of a base frame tick but the step of simulation time and the frame ticks themselves reaches memory,
simulation time, the rates of the clusters or their pending ticks, and every tick edge ends in one last change of its cluster. -/
theorem frameTicksReachTheirClusters : Obligations.FrameTicksReachTheirClusters := by
  unfold Obligations.FrameTicksReachTheirClusters
  intro s
  refine ⟨fun hd hr hg hdue hticked => ⟨baseFrameTick s, ?_, tickedAt_baseFrameTick s, mem_baseFrameTick s,
    simTime_baseFrameTick s, fun n => ?_⟩, fun n hc ht hi hf hdl => clusterTickEdge_spec hc ht hi hf hdl⟩
  · exact (awake_eq hd _).trans (by simp [hr, hg, hdue, hticked])
  · rw [tickAt_baseFrameTick]
    exact if_congr decide_eq_true_iff rfl rfl

end Sys2Proof.Proofs
end
section
/-!
PROOFS. Banks, pins and capture rings (O38).
-/
namespace Sys2Proof.Machine

/-! ## Banks (R317, R318) -/

theorem fld_self (i : Nat) {w : Nat} (v : BitVec w) : fld i i v = (bitOf i v).toNat := by
  simp [fld, bitOf, BitVec.getLsbD, Nat.toNat_testBit]

theorem hubGet_bankEval {b : Nat} (hb : b < 8) (was first : Bool) (s : State) :
    hubGet (0x10000 + b) (bankEval b was first s) =
      setBit 22 (hubBit (0x10000 + b) 22 s || bankBad b s)
        (setBit 23 (bankRange (smAt 0 s.tmc.bankMv b)).isSome (hubGet (0x10000 + b) s)) := by
  have hg : TmcBlind (hubGet (0x10000 + b)) := tmcBlind_hubGet (by omega)
  have hfire (c : Prop) [Decidable c] (t : State) : hubGet (0x10000 + b) (if c then fire (0x180 + b) t else t) =
      hubGet (0x10000 + b) t := reads_ite (hg.fire ..) rfl
  dsimp only [bankEval]
  refine (reads_ite rfl ((bankSync_blind hg ..).trans (hg.unit ..))).trans ((hfire _ _).trans ?_)
  rw [hubGet_hubSetBit, if_pos rfl, hubGet_hubSetBit, if_pos rfl]

theorem bankEval_rest (b : Nat) (was first : Bool) (s : State) : (bankEval b was first s).rest = s.rest := by
  have hg := tmcBlind_rest
  have hfire (c : Prop) [Decidable c] (x y : Bool) : (if c then fire (0x180 + b) (hubSetBit (0x10000 + b) 22 x
      (hubSetBit (0x10000 + b) 23 y s)) else hubSetBit (0x10000 + b) 22 x (hubSetBit (0x10000 + b) 23 y s)).rest = s.rest :=
    reads_ite (by rw [fire_rest, hubSetBit_rest, hubSetBit_rest]) (by rw [hubSetBit_rest, hubSetBit_rest])
  dsimp only [bankEval]
  exact reads_ite (hfire ..) ((bankSync_blind hg ..).trans ((hg.unit ..).trans (hfire ..)))

theorem bankRange_isSome (mv : Nat) :
    (bankRange mv).isSome = true ↔ (1710 ≤ mv ∧ mv ≤ 1890) ∨ (3135 ≤ mv ∧ mv ≤ 3465) := by
  rw [bankRange]
  split
  · simp [*]
  · split <;> simp [*]

theorem bankBad_iff (b : Nat) (s : State) :
    bankBad b s = true ↔
      let mv := smAt 0 s.tmc.bankMv b
      (1710 ≤ mv ∧ mv ≤ 1890 ∧ hubBit (0x10000 + b) 0 s = true) ∨ (3135 ≤ mv ∧ mv ≤ 3465 ∧ hubBit (0x10000 + b) 0 s = false) := by
  have hfld : hubFld (0x10000 + b) 0 0 s = (hubBit (0x10000 + b) 0 s).toNat := fld_self ..
  rw [bankBad, hfld, bankRange]
  split
  · next k hk =>
    split at hk
    · obtain rfl : 0 = k := Option.some.inj hk
      cases hubBit (0x10000 + b) 0 s <;> simp <;> omega
    · split at hk
      · obtain rfl : 1 = k := Option.some.inj hk
        cases hubBit (0x10000 + b) 0 s <;> simp <;> omega
      · cases hk
  · next hk =>
    split at hk
    · cases hk
    · split at hk
      · cases hk
      · simp only [Bool.false_eq_true, false_iff]
        omega

theorem bankEval_status {b mv : Nat} (hb : b < 8) {s : State} (hmv : smAt 0 s.tmc.bankMv b = mv) (was first : Bool) :
    (hubBit (0x10000 + b) 23 (bankEval b was first s) = true ↔ (1710 ≤ mv ∧ mv ≤ 1890) ∨ (3135 ≤ mv ∧ mv ≤ 3465)) ∧
      (hubBit (0x10000 + b) 22 (bankEval b was first s) = true ↔ hubBit (0x10000 + b) 22 s = true ∨
        (1710 ≤ mv ∧ mv ≤ 1890 ∧ hubBit (0x10000 + b) 0 s = true) ∨ (3135 ≤ mv ∧ mv ≤ 3465 ∧ hubBit (0x10000 + b) 0 s = false)) := by
  subst hmv
  constructor
  · rw [hubBit, hubGet_bankEval hb, bitOf_setBit (by decide), bitOf_setBit (by decide)]
    simpa using bankRange_isSome _
  · rw [hubBit, hubGet_bankEval hb, bitOf_setBit (by decide), if_pos rfl, Bool.or_eq_true, bankBad_iff]

theorem bankSupplyChange_spec {b : Fin 8} {s : State} (hd : dark s = false) (mv : Nat) :
    ∃ t, execBankSupplyChange b mv s = .next t ∧
      (hubBit (0x10000 + b) 23 t = true ↔ (1710 ≤ mv ∧ mv ≤ 1890) ∨ (3135 ≤ mv ∧ mv ≤ 3465)) ∧
      (hubBit (0x10000 + b) 22 t = true ↔ hubBit (0x10000 + b) 22 s = true ∨
        (1710 ≤ mv ∧ mv ≤ 1890 ∧ hubBit (0x10000 + b) 0 s = true) ∨ (3135 ≤ mv ∧ mv ≤ 3465 ∧ hubBit (0x10000 + b) 0 s = false)) ∧
      t.rest = s.rest := by
  have hex : execBankSupplyChange b mv s = .next (bankEval b (bankDown b s) false
      { s with tmc := { s.tmc with bankMv := smPut 0 s.tmc.bankMv b.val mv } }) := by
    simp [execBankSupplyChange, hd]
  obtain ⟨hgood, hwrong⟩ := bankEval_status b.isLt (mv := mv)
    (s := { s with tmc := { s.tmc with bankMv := smPut 0 s.tmc.bankMv b.val mv } })
    ((smAt_smPut ..).trans (if_pos rfl)) (bankDown b s) false
  exact ⟨_, hex, hgood, hwrong, (bankEval_rest ..).trans rfl⟩

theorem bankWrite_refused {b : Nat} {v : Word} {s : State}
    (hdir : ((List.range 32).any fun k => hubBit (0x10100 + 32 * b + k) 23 s) = true) (hv : bitOf 0 v ≠ hubBit (0x10000 + b) 0 s) :
    bankWrite b v s = hubSetBit 0x10014 0 true s := by
  rw [bankWrite]
  exact if_pos (by simpa [hv] using hdir)

theorem bankWrite_accepted {b : Nat} (hb : b < 8) {v : Word} {s : State}
    (h : ((List.range 32).any fun k => hubBit (0x10100 + 32 * b + k) 23 s) = false ∨ bitOf 0 v = hubBit (0x10000 + b) 0 s) :
    hubBit (0x10000 + b) 0 (bankWrite b v s) = bitOf 0 v ∧ (bankWrite b v s).rest = s.rest := by
  have hok : ¬ ((bitOf 0 v != hubBit (0x10000 + b) 0 s) && (List.range 32).any fun k => hubBit (0x10100 + 32 * b + k) 23 s) = true := by
    rcases h with h | h
    · rw [h, Bool.and_false]; decide
    · simp [h]
  dsimp only [bankWrite]
  rw [if_neg hok]
  constructor
  · rw [hubBit, hubGet_bankEval hb, bitOf_setBit (by decide), bitOf_setBit (by decide)]
    have hset : hubBit (0x10000 + b) 0 (hubSetBit (0x10000 + b) 0 (bitOf 0 v) s) = bitOf 0 v := by
      simp [hubBit, hubGet_hubSetBit, bitOf_setBit]
    simp only [Nat.reduceEqDiff, if_false]
    exact reads_ite (g := hubBit (0x10000 + b) 0) (by rw [← hset]; simp [hubBit, hubGet_hubSetBit, bitOf_setBit]) hset
  · rw [bankEval_rest]
    exact reads_ite (g := State.rest) (by rw [hubSetBit_rest, hubSetBit_rest]) (by rw [hubSetBit_rest])

end Sys2Proof.Machine
end
section
/-!
PROOFS. An edge at an input pin and the captures it makes; reads of a capture ring (O38).
-/
namespace Sys2Proof.Machine

/-! ## Time stamps (R320, R505) -/

theorem Time72.ofWords_extract (v : Time72) :
    (v.extractLsb' 48 24 : Word) ++ (v.extractLsb' 24 24 : Word) ++ (v.extractLsb' 0 24 : Word) = v := by
  rw [BitVec.extractLsb'_append_extractLsb'_eq_extractLsb' (by rfl), BitVec.extractLsb'_append_extractLsb'_eq_extractLsb' (by rfl)]
  exact BitVec.extractLsb'_eq_self

theorem hubTime_congr {o : Nat} {s t : State} (h : ∀ i < 3, hubGet (o + i) t = hubGet (o + i) s) :
    hubTime o t = hubTime o s := by
  rw [hubTime, hubTime, h 2 (by decide), h 1 (by decide), show hubGet o t = hubGet o s from h 0 (by decide)]

/-- A stamp lies within 32 grains of its edge, at a multiple of 16. -/
theorem nearStamp_near {time : Time72} (s : State) (h : time.toNat + 32 < 2 ^ 72) :
    let ts := (nearStamp time s).1.toNat
    ts % 16 = 0 ∧ ts ≤ time.toNat + 32 ∧ time.toNat ≤ ts + 32 := by
  intro ts
  obtain ⟨m, hm⟩ : ∃ m, Config.freeNat s.fresh % (if time.toNat = time.toNat / 16 * 16 then 5 else 4) = m := ⟨_, rfl⟩
  have hmlt : m < if time.toNat = time.toNat / 16 * 16 then 5 else 4 := by
    rw [← hm]
    exact Nat.mod_lt _ (by split <;> decide)
  have hts : ts = (time.toNat / 16 * 16 + 32 - 16 * m) % 2 ^ 72 := by
    simp only [ts, nearStamp, BitVec.toNat_ofNat, hm]
  rw [Nat.mod_eq_of_lt (by omega)] at hts
  split at hmlt <;> omega

/-! ## Captures -/

theorem hubGet_capture {c o : Nat} (h : o < chReg c + 3 ∨ chReg c + 6 < o) (ho : o < 0x25001 ∨ 0x25080 < o) (ts : Time72)
    (s : State) : hubGet o (capture c ts s) = hubGet o s := by
  have hw (x y z : Word) (t : State) :
      hubGet o (hubPut (chReg c + 5) x (hubPut (chReg c + 4) y (hubPut (chReg c + 3) z t))) = hubGet o t := by
    rw [hubGet_hubPut_ne _ _ (by omega), hubGet_hubPut_ne _ _ (by omega), hubGet_hubPut_ne _ _ (by omega)]
  dsimp only [capture]
  rw [hubGet_fire _ _ ho, hubGet_hubSetBit, if_neg (by omega), hw]
  refine reads_ite ?_ rfl
  rw [odCount, hubGet_odAdd, hubGet_hubSetBit, if_neg (by omega)]
  rfl

theorem capture_pins (c : Nat) (ts : Time72) (s : State) : (capture c ts s).tmc.pins = s.tmc.pins := by
  dsimp only [capture]
  rw [fire_tmc, hubSetBit_tmc, hubPut_tmc, hubPut_tmc, hubPut_tmc]
  refine reads_ite (g := fun t : State => t.tmc.pins) ?_ rfl
  rw [odCount, odAdd_tmc, hubSetBit_tmc]

theorem hubTime_capture {c : Nat} (hc : c < 1024) (ts : Time72) (s : State) : hubTime (chReg c + 3) (capture c ts s) = ts := by
  have hr : chReg c + 6 < 0x25001 := by unfold chReg; omega
  dsimp only [capture]
  simp only [hubTime, hubGet_fire _ _ (Or.inl (show chReg c + 3 < 0x25001 by omega)),
    hubGet_fire _ _ (Or.inl (show chReg c + 3 + 1 < 0x25001 by omega)),
    hubGet_fire _ _ (Or.inl (show chReg c + 3 + 2 < 0x25001 by omega)), hubGet_hubSetBit, hubGet_hubPut]
  simp [Time72.ofWords_extract]

theorem full_capture {c : Nat} (hc : c < 1024) (ts : Time72) (s : State) : hubBit (chReg c + 6) 23 (capture c ts s) = true := by
  dsimp only [capture]
  rw [hubBit, hubGet_fire _ _ (by unfold chReg; omega), hubGet_hubSetBit, if_pos rfl, bitOf_setBit (by decide), if_pos rfl]

/-- Channels that capture one after the other all hold the stamp. -/
theorem captures_hold {l : List Nat} (hl : ∀ c ∈ l, c < 1024) (ts : Time72) (s : State) :
    ∀ c ∈ l, hubTime (chReg c + 3) (l.foldl (fun t c => capture c ts t) s) = ts ∧
      hubBit (chReg c + 6) 23 (l.foldl (fun t c => capture c ts t) s) = true := by
  induction l using List.reverseRecOn with
  | nil => exact fun c hc => nomatch hc
  | append_singleton l d ih =>
    intro c hc
    have hd : d < 1024 := hl d (List.mem_append_right _ (List.mem_singleton_self d))
    have hc' : c < 1024 := hl c hc
    rw [List.foldl_append, List.foldl_cons, List.foldl_nil]
    by_cases h : c = d
    · subst h
      exact ⟨hubTime_capture hd .., full_capture hd ..⟩
    · have hcl : c ∈ l := (List.mem_append.mp hc).resolve_right (by simpa using h)
      obtain ⟨ht, hf⟩ := ih (fun e he => hl e (List.mem_append_left _ he)) c hcl
      have hkeep (o : Nat) (h3 : chReg c + 3 ≤ o) (h6 : o ≤ chReg c + 6) (t : State) :
          hubGet o (capture d ts t) = hubGet o t :=
        hubGet_capture (by unfold chReg at *; omega) (by unfold chReg at *; omega) ..
      refine ⟨?_, by rw [hubBit, hkeep _ (by omega) (by omega), ← hubBit, hf]⟩
      rw [hubTime_congr fun i hi => hkeep _ (by omega) (by omega) _, ht]

theorem captures_keep {l : List Nat} {o : Nat} (ho : o < 0x11000) (ts : Time72) (s : State) :
    hubGet o (l.foldl (fun t c => capture c ts t) s) = hubGet o s :=
  foldl_keeps (hubGet o) (fun _ _ => hubGet_capture (by unfold chReg; omega) (by omega) ..) l s

theorem captures_pinGet (l : List Nat) (p : Nat) (ts : Time72) (s : State) :
    pinGet p (l.foldl (fun t c => capture c ts t) s) = pinGet p s :=
  congrArg (fun m => smAt PinSt.reset m p)
    (foldl_keeps (fun t : State => t.tmc.pins) (fun _ _ => capture_pins ..) l s)

theorem captureChans_lt {p : Nat} (hp : p < 256) (level : Bool) (s : State) : ∀ c ∈ captureChans p level s, c < 1024 := by
  intro c hc
  obtain ⟨k, hk, hc⟩ := List.mem_filterMap.mp hc
  have hk := List.mem_range.mp hk
  dsimp only at hc
  split at hc
  · obtain rfl := Option.some.inj hc
    omega
  · cases hc

/-! ## An edge at an input pin -/

theorem pinGet_pinPut_self (p : Nat) (x : PinSt) (s : State) : pinGet p (pinPut p x s) = x :=
  (smAt_smPut ..).trans (if_pos rfl)

theorem pinGet_of_tmc {s t : State} (h : t.tmc = s.tmc) (p : Nat) : pinGet p t = pinGet p s := by rw [pinGet, h, pinGet]

theorem pinGet_pinHist (p : Nat) (e : PinEdge) (s : State) :
    pinGet p (pinHist p e s) = { pinGet p s with
      lvl := e.level
      hist := e :: (pinGet p s).hist.filter fun (h : PinEdge) => decide ((e.time - h.time).toNat < 2 ^ 39) } := by
  dsimp only [pinHist]
  rw [pinGet_of_tmc (hubSetBit_tmc ..), pinGet_pinPut_self]

theorem hubGet_pinHist {p o : Nat} (h : 0x10100 + p ≠ o) (e : PinEdge) (s : State) : hubGet o (pinHist p e s) = hubGet o s := by
  dsimp only [pinHist]
  rw [hubGet_hubSetBit, if_neg h]
  rfl

/-- The first edge of a pin with an input that no counter takes: its level shows, and its capture channels take one stamp. -/
theorem pinSync_seen {p : Nat} (hp : p < 256) {time : Time72} {level : Bool} {s : State} (hreads : pinReads p s = level)
    (hlvl : (pinGet p s).lvl ≠ level) (hbank : bankDown (p / 32) s = false) (hf : tmcFenced s = false)
    (hhist : (pinGet p s).hist = []) (hcnt : pinCounters p level s = []) :
    ∃ e : PinEdge, e.level = level ∧ pinSync p time true s =
      (captureChans p level s).foldl (fun t c => capture c (nearStamp time s).1 t) (pinHist p e (drawn s)) := by
  have hclose : edgeClose p time s = false := by rw [edgeClose, hhist]; rfl
  have hstamp : edgeStamp p time s = (some (nearStamp time s).1, drawn s) := by rw [edgeStamp, hclose]; rfl
  have hcount (l : List Nat) (ts : Time72) (e : PinEdge) :
      pinCounters p level (l.foldl (fun t c => capture c ts t) (pinHist p e (drawn s))) = [] := by
    rw [← hcnt, pinCounters, pinCounters]
    refine List.filter_congr fun i hi => ?_
    have hi := List.mem_range.mp hi
    rw [captures_keep (by omega), hubGet_pinHist (by omega)]
    rfl
  refine ⟨⟨tickInstant time s, level, true, some (nearStamp time s).1,
    (captureChans p level (drawn s)).map fun c =>
      (c, if hubBit (chReg c + 6) 23 (drawn s) then some (hubTime (chReg c + 3) (drawn s)) else none)⟩, rfl, ?_⟩
  change tmcRun (63 + 1) _ _ = _
  rw [tmcRun]
  simp only [hreads, Ne.symm hlvl, hbank, hf, hstamp, Bool.not_true, Bool.false_eq_true, or_self, if_false, List.foldl_map,
    hcount, List.foldl_nil]
  rfl

theorem pinReads_input {p : Nat} {s : State} (hdir : hubBit (0x10100 + p) 23 s = false) (hbank : bankDown (p / 32) s = false) :
    pinReads p s = ((pinGet p s).land != hubBit (0x10100 + p) 20 s) := by
  have hland : landLevel p s = (pinGet p s).land := by
    have hdrive : pinDriving p s = false := by rw [pinDriving, hdir]; rfl
    rw [landLevel, hdrive]
    split <;> rfl
  rw [pinReads, hland, hbank, Bool.not_false, Bool.true_and]

theorem pinEdge_spec {p : Pin} {level seen : Bool} {frac : BitVec 8} {s : State} (hseen : (level != hubBit (0x10100 + p) 20 s) = seen)
    (hd : dark s = false) (hdir : hubBit (0x10100 + p) 23 s = false) (hbank : bankDown (p / 32) s = false)
    (hf : tmcFenced s = false) (hlvl : (pinGet p s).lvl ≠ seen) (hhist : (pinGet p s).hist = [])
    (hnow : 256 * s.ns.toNat + frac.toNat + 32 < 2 ^ 72) (hcnt : pinCounters p seen s = []) :
    ∃ t, execPinEdge p level frac s = .next t ∧ (pinGet p t).land = level ∧ (pinGet p t).lvl = seen ∧
      hubBit (0x10100 + p) 19 t = seen ∧
      ∀ k ∈ captureChans p seen s, let ts := (hubTime (0x11000 + 8 * k + 3) t).toNat
        ts % 16 = 0 ∧ ts ≤ 256 * s.ns.toNat + frac.toNat + 32 ∧ 256 * s.ns.toNat + frac.toNat ≤ ts + 32 ∧
          hubBit (0x11000 + 8 * k + 6) 23 t = true := by
  have htime : (s.ns ++ frac : Time72).toNat = 256 * s.ns.toNat + frac.toNat := by
    rw [BitVec.toNat_append, ← Nat.shiftLeft_add_eq_or_of_lt frac.isLt, Nat.shiftLeft_eq, Nat.mul_comm]
  have hex : execPinEdge p level frac s =
      .next (pinSync p (s.ns ++ frac) true (pinPut p { pinGet p s with land := level } s)) := by
    simp only [execPinEdge, hd, Bool.not_false]
  have hpin := pinGet_pinPut_self p { pinGet p s with land := level } s
  obtain ⟨e, he, hrun⟩ := pinSync_seen p.isLt (time := s.ns ++ frac) (level := seen)
    (s := pinPut p { pinGet p s with land := level } s) ((pinReads_input (s := pinPut p { pinGet p s with land := level } s) hdir hbank).trans
      (by rw [hpin]; exact hseen))
    (by rw [hpin]; exact hlvl) hbank hf (by rw [hpin]; exact hhist) hcnt
  obtain ⟨hmul, hle, hge⟩ := nearStamp_near (time := s.ns ++ frac) (pinPut p { pinGet p s with land := level } s)
    (by rw [htime]; exact hnow)
  rw [htime] at hle hge
  refine ⟨_, hex.trans (congrArg _ hrun), ?_, ?_, ?_, fun k hk => ?_⟩
  · rw [captures_pinGet, pinGet_pinHist]
    exact congrArg PinSt.land hpin
  · rw [captures_pinGet, pinGet_pinHist, he]
  · rw [hubBit, captures_keep (by omega)]
    dsimp only [pinHist]
    rw [hubGet_hubSetBit, if_pos rfl, bitOf_setBit (by decide), if_pos rfl, he]
  · obtain ⟨hts, hfull⟩ := captures_hold (captureChans_lt p.isLt seen _)
      (nearStamp (s.ns ++ frac) (pinPut p { pinGet p s with land := level } s)).1
      (pinHist p e (drawn (pinPut p { pinGet p s with land := level } s))) k hk
    have hts' := congrArg BitVec.toNat hts
    refine ⟨?_, ?_, ?_, hfull⟩
    · exact hts' ▸ hmul
    · exact hts' ▸ hle
    · exact hts' ▸ hge

/-! ## Reads of a capture ring (R35, R321) -/

theorem capW0Read_spec (c : Chan) (m : Master) {s : State} (hd : dark s = false)
    (hold : (smAt ⟨0, 0⟩ s.tmc.capOld c).stamp ≠ s.ticks + 1) :
    ∃ t, execCapW0Read c m s = .next t ∧ t.resp = [hubGet (0x11000 + 8 * c + 3) s] ∧
      hubBit (0x11000 + 8 * c + 6) 23 t = false ∧ snapGet (0x11000 + 8 * c + 3) (masterNum m) t =
        DWord.ofWords (hubGet (0x11000 + 8 * c + 4) s) (hubGet (0x11000 + 8 * c + 5) s) := by
  have hlow : (hubTime (chReg c + 3) s).extractLsb' 0 24 = hubGet (chReg c + 3) s := by
    rw [hubTime, BitVec.extractLsb'_append_eq_right]
  have hhigh : (hubTime (chReg c + 3) s).extractLsb' 24 48 = DWord.ofWords (hubGet (chReg c + 4) s) (hubGet (chReg c + 5) s) := by
    rw [hubTime, DWord.ofWords, BitVec.extractLsb'_append_eq_left]
  rw [execCapW0Read, awake_eq hd]
  simp only [hold, decide_false, Bool.false_eq_true, if_false, hlow, hhigh]
  refine ⟨_, rfl, hubSetBit_resp .., ?_, ?_⟩
  · rw [← chReg, hubBit, hubGet_hubSetBit, if_pos rfl, bitOf_setBit (by decide), if_pos rfl]
  · rw [snapGet, hubSetBit_snap]
    exact snapGet_respond_snapPut [hubGet (chReg c + 3) s] ..

end Sys2Proof.Machine
end
section
/-!
PROOFS. Capture and edge groups, the fill of a capture group, scheduled edges (O38).
-/
namespace Sys2Proof.Machine

/-! ## Writes by access code (R8) -/

/-- A bit that a row lets a write set takes the value's. -/
theorem bitOf_regWrite {r : RegRow} {j : Nat} (h : bitOf j (r.rw ||| r.wo) = true) (old v : Word) :
    bitOf j (regWrite r old v) = bitOf j v := by
  simp only [bitOf, BitVec.getLsbD_or] at h
  simp [regWrite, bitOf, h]

theorem fld_regWrite {r : RegRow} {hi lo : Nat} (h : ∀ j, lo ≤ j → j ≤ hi → bitOf j (r.rw ||| r.wo) = true) (old v : Word) :
    fld hi lo (regWrite r old v) = fld hi lo v := by
  refine Nat.eq_of_testBit_eq fun k => ?_
  rw [testBit_fld, testBit_fld]
  by_cases hk : k < hi + 1 - lo
  · rw [bitOf_regWrite (h _ (by omega) (by omega))]
  · simp [hk]

/-! ## Groups (R322, R325) -/

/-- ENABLE and the count or the first channel of a group's control register are read-write. -/
theorem groupRow_writable : ∀ g : Fin 32, ∀ o ∈ [0x10300 + 4 * g.val, 0x10380 + 4 * g.val], ∀ j < 24,
    j = 23 ∨ j ≤ 9 → bitOf j ((hubRow o).rw ||| (hubRow o).wo) = true := by decide +kernel

theorem groupCtl_codeWrite {g : Fin 32} {o : Nat} (ho : o ∈ [0x10300 + 4 * g.val, 0x10380 + 4 * g.val]) (v : Word) (s : State) :
    hubBit o 23 (hubCodeWrite o (setBit 23 true v) s) = true ∧
      hubFld o 9 0 (hubCodeWrite o (setBit 23 true v) s) = fld 9 0 v := by
  have hrow := groupRow_writable g o ho
  have hget : hubGet o (hubCodeWrite o (setBit 23 true v) s) = regWrite (hubRow o) (hubGet o s) (setBit 23 true v) :=
    hubGet_hubPut_self ..
  constructor
  · rw [hubBit, hget, bitOf_regWrite (hrow 23 (by decide) (Or.inl rfl)), bitOf_setBit (by decide), if_pos rfl]
  · rw [hubFld, hget, fld_regWrite fun j _ hj => hrow j (by omega) (Or.inr hj), fld_setBit_of_outside (by decide) (by decide)]

theorem cgCtlWrite_enable (g : Fin 32) (v : Word) (s : State) :
    (cgOk g (setBit 23 true v) s = true →
      hubBit (0x10300 + 4 * g) 23 (cgCtlWrite g (setBit 23 true v) s) = true ∧
      hubFld (0x10300 + 4 * g) 9 0 (cgCtlWrite g (setBit 23 true v) s) = fld 9 0 v ∧
      (cgCtlWrite g (setBit 23 true v) s).mem = s.mem) ∧
    (cgOk g (setBit 23 true v) s = false → cgCtlWrite g (setBit 23 true v) s = hubSetBit 0x10014 0 true s) := by
  have hbit : bitOf 23 (setBit 23 true v) = true := by rw [bitOf_setBit (by decide), if_pos rfl]
  rw [cgCtlWrite, hbit, Bool.true_and]
  constructor <;> intro h <;> rw [h]
  · obtain ⟨hb, hf⟩ := groupCtl_codeWrite (g := g) (o := cgReg g) (by simp [cgReg]) v
      { s with tmc := { s.tmc with filled := smPut none s.tmc.filled g none } }
    exact ⟨hb, hf, rfl⟩
  · rfl

theorem egCtlWrite_enable (g : Fin 32) (v : Word) (s : State) :
    let ok := decide (0 < fld 9 0 v) && decide (hubFld (0x10380 + 4 * g + 1) 11 0 s + 4 * fld 9 0 v ≤ 4095)
    (ok = true →
      hubBit (0x10380 + 4 * g) 23 (egCtlWrite g (setBit 23 true v) s) = true ∧
      hubFld (0x10380 + 4 * g) 9 0 (egCtlWrite g (setBit 23 true v) s) = fld 9 0 v ∧
      (egCtlWrite g (setBit 23 true v) s).mem = s.mem) ∧
    (ok = false → egCtlWrite g (setBit 23 true v) s = hubSetBit 0x10014 0 true s) := by
  intro ok
  have hbit : bitOf 23 (setBit 23 true v) = true := by rw [bitOf_setBit (by decide), if_pos rfl]
  have hfld : fld 9 0 (setBit 23 true v) = fld 9 0 v := fld_setBit_of_outside (by decide) (by decide) ..
  have hbad : (decide (fld 9 0 v = 0) || decide (4095 < hubFld (egReg g + 1) 11 0 s + 4 * fld 9 0 v)) = !ok := by
    unfold egReg
    rw [Bool.eq_iff_iff, Bool.not_eq_true', Bool.and_eq_false_iff, Bool.or_eq_true]
    simp only [decide_eq_true_eq, decide_eq_false_iff_not, Nat.not_lt, Nat.not_le, Nat.le_zero_eq]
  dsimp only [egCtlWrite]
  rw [hbit, hfld, hbad, Bool.true_and]
  constructor <;> intro h <;> rw [h]
  · obtain ⟨hb, hf⟩ := groupCtl_codeWrite (g := g) (o := egReg g) (by simp [egReg]) v s
    exact ⟨hb, hf, rfl⟩
  · rfl

/-! ## Scheduled edges (R326) -/

theorem scheduledEdge_spec {p : Pin} {x : PinAction} {rest : List PinAction} {s : State} (hd : dark s = false)
    (hq : (pinGet p s).queue = x :: rest) (hrest : ∀ y ∈ rest, y.at' ≠ x.at') (hx : x.at'.toNat / 256 = s.ns.toNat) :
    let t := pinPut p { pinGet p s with queue := rest } s
    execScheduledEdge p s =
      .next (if x.cmp = true ∧ mode s ≠ 6 ∧ mode s ≠ 7 then t else pinAct p x.at' [(x.chan, x.act)] t) := by
  intro t
  have hmode : mode s ≠ 1 := by
    intro h
    simp [dark, h] at hd
  have hpart : (x :: rest).partition (fun y : PinAction => y.at' == x.at') = ([x], rest) := by
    rw [List.partition_eq_filter_filter, List.filter_cons_of_pos (by simp), List.filter_cons_of_neg (by simp),
      List.filter_eq_nil_iff.mpr fun y hy => by simpa using hrest y hy,
      List.filter_eq_self.mpr fun y hy => by simpa using hrest y hy]
  rw [execScheduledEdge, awake_eq hd, hq, List.dropWhile_cons_of_neg (by simp [hx])]
  simp only [hx, lt_irrefl, hmode, or_self, if_false, hpart]
  by_cases hc : x.cmp = true ∧ mode s ≠ 6 ∧ mode s ≠ 7
  · obtain ⟨hcmp, h6, h7⟩ := hc
    simp [hcmp, h6, h7, actionsApply, t]
  · have happly : (!x.cmp || actionsApply s) = true := by
      cases hcmp : x.cmp
      · rfl
      · have h67 : mode s = 6 ∨ mode s = 7 := by simpa [hcmp, or_iff_not_imp_left] using hc
        simpa [actionsApply] using h67
    rw [if_neg hc]
    simp [happly, t]

end Sys2Proof.Machine
end
section
/-!
PROOFS. The fill of a capture group (O38).
-/
namespace Sys2Proof.Machine

/-! ## The fill of a capture group (R323, R324) -/

/-- The I/O side may write exchange plot `i - 16` of cluster `n` at once, and no partner takes its fills. -/
structure Fillable (n : Cl) (i : Nat) (s : State) : Prop where
  live  : isolated n s = false
  alone : pairSecond n s = none
  owned : ownCode i (s.cl n) = 3
  free  : portHeld i (s.cl n) = false

theorem Fillable.congr {n : Cl} {i : Nat} {s t : State} (h : Fillable n i s) (hhub : t.hub = s.hub)
    (hio : (t.cl n).io = (s.cl n).io) (hport : (t.cl n).portA = (s.cl n).portA) : Fillable n i t where
  live := by rw [isolated, hubFld, hubGet_of_hub hhub]; exact h.live
  alone := by
    have hbit (o k : Nat) : hubBit o k t = hubBit o k s := by rw [hubBit, hubGet_of_hub hhub, hubBit]
    have hfld (o a b : Nat) : hubFld o a b t = hubFld o a b s := by rw [hubFld, hubGet_of_hub hhub, hubFld]
    have hpair : pairSecond n t = pairSecond n s := by simp only [pairSecond, hbit, hfld]
    exact hpair.trans h.alone
  owned := by
    have hcode : ownCode i (t.cl n) = ownCode i (s.cl n) := by rw [ownCode, ioFld, ioGet_congr hio, ownCode, ioFld]
    exact hcode.trans h.owned
  free := by
    have hheld : portHeld i (t.cl n) = portHeld i (s.cl n) := by rw [portHeld, hport, portHeld]
    exact hheld.trans h.free

theorem Fillable.ownCheck {n : Cl} {i off : Nat} {s : State} (h : Fillable n i s) (hoff : (plotOf off).1 = i) :
    Machine.ownCheck n off .io s = none := by
  have hadmits : ownerAdmits n (s.cl n) i .io = true := by
    have howned := h.owned
    unfold ownerAdmits
    generalize ownCode i (s.cl n) = k at howned ⊢
    subst howned
    rfl
  simp [Machine.ownCheck, hoff, h.live, hadmits, h.free]

theorem regionOf_xchgAddr (n : Cl) {off : Nat} (h : off < 0x4000) : regionOf (xchgAddr n off) = .xchg n off := by
  have hn := n.isLt
  have hdiv : xchgAddr n off / 2 ^ 22 = n.val := by unfold xchgAddr; omega
  have hmod : xchgAddr n off % 2 ^ 22 = 0x40000 + off := by unfold xchgAddr; omega
  have hlt : xchgAddr n off < 2 ^ 30 := by unfold xchgAddr; omega
  have hcl : clOf n.val = n := Fin.ext (Nat.mod_eq_of_lt hn)
  simp only [regionOf, hlt, if_true, hdiv, hmod, hcl]
  rw [if_neg (by omega), if_pos (by omega), Nat.add_sub_cancel_left]

/-- What a word of a fill leaves: exchange RAM with it, good again, and the journal. -/
def wordFilled (n : Cl) (xo : Nat) (v : Word) (s : State) : State :=
  journalFill n xo v (memPut (xchgAddr n xo) v (s.modCl n fun c => { c with xbad := wordGood xo c.xbad }))

theorem memGet_wordFilled (n : Cl) (xo : Nat) (v : Word) (s : State) (a : Nat) :
    memGet a (wordFilled n xo v s) = if xchgAddr n xo = a then v else memGet a s := by
  have hj (t : State) : memGet a (journalFill n xo v t) = memGet a t := reads_ite rfl rfl
  rw [wordFilled, hj, memGet_memPut]
  rfl

theorem Fillable.wordFilled {n : Cl} {i : Nat} {s : State} (h : Fillable n i s) (xo : Nat) (v : Word) :
    Fillable n i (wordFilled n xo v s) := by
  have hj {γ : Type} {g : State → γ} (hg : ∀ (j : Cluster → List (Nat × Word)) t, g (t.modCl n fun c => { c with jFills := j c }) = g t) (t : State) :
      g (journalFill n xo v t) = g t := reads_ite (hg _ t) rfl
  refine h.congr ?_ ?_ ?_
  · exact (hj (g := State.hub) (fun _ _ => rfl) _).trans rfl
  · exact (hj (g := fun t : State => (t.cl n).io) (fun j t => modCl_keeps (by exact fun _ => rfl) n n t) _).trans
      (by rw [cl_of_cls (memPut_cls ..)]; exact modCl_keeps (g := Cluster.io) (by exact fun _ => rfl) n n s)
  · exact (hj (g := fun t : State => (t.cl n).portA) (fun j t => modCl_keeps (by exact fun _ => rfl) n n t) _).trans
      (by rw [cl_of_cls (memPut_cls ..)]; exact modCl_keeps (g := Cluster.portA) (by exact fun _ => rfl) n n s)

theorem Fillable.fillHomes {n : Cl} {i : Nat} {s : State} (h : Fillable n i s) : Machine.fillHomes n s = [n] := by
  rw [Machine.fillHomes, h.alone]
  rfl

theorem Fillable.fillHeld {n : Cl} {i xo : Nat} {s : State} (h : Fillable n i s) (hi : (plotOf (0x40000 + xo)).1 = i) :
    Machine.fillHeld n xo s = false := by
  rw [Machine.fillHeld, h.fillHomes, List.any_cons, h.ownCheck hi]
  rfl

theorem Fillable.fillInto {n : Cl} {i xo : Nat} {s : State} (h : Fillable n i s) (hxo : xo < 0x4000)
    (hi : (plotOf (0x40000 + xo)).1 = i) (v : Word) : Machine.fillInto n xo v s = (true, Machine.wordFilled n xo v s) := by
  have hagent : agentWrite .io (xchgAddr n xo) v s =
      (.ok 0, memPut (xchgAddr n xo) v (s.modCl n fun c => { c with xbad := wordGood xo c.xbad })) := by
    rw [agentWrite, regionOf_xchgAddr n hxo]
    simp only [h.ownCheck hi, ownAgent, Bool.false_eq_true, if_false]
  rw [Machine.fillInto, h.live, hagent, Machine.wordFilled]
  rfl

/-- One word of a fill reaches exchange RAM. -/
theorem Fillable.fillDeliver {n : Cl} {i xo : Nat} {s : State} (h : Fillable n i s) (hxo : xo < 0x4000)
    (hi : (plotOf (0x40000 + xo)).1 = i) (v : Word) : Machine.fillDeliver n xo v s = (some 0, Machine.wordFilled n xo v s) := by
  rw [Machine.fillDeliver, h.fillHeld hi, h.fillHomes, List.foldl_cons, List.foldl_nil, h.fillInto hxo hi]
  rfl

/-- The words of a fill, delivered one after the other from an offset of exchange RAM on. -/
def deliverWords (n : Cl) (ws : List Word) (base : Nat) (s : State) : State :=
  (ws.foldl (fun (p : Nat × State) w =>
    (p.1 + 1, match fillDeliver n p.1 w p.2 with
      | (some k, t) => (List.range k).foldl (fun u _ => tmcRefused u) t
      | (none, t) => t)) (base, s)).2

theorem deliverWords_cons {n : Cl} {i base : Nat} {s : State} (h : Fillable n i s) (hxo : base < 0x4000)
    (hi : (plotOf (0x40000 + base)).1 = i) (w : Word) (ws : List Word) :
    deliverWords n (w :: ws) base s = deliverWords n ws (base + 1) (wordFilled n base w s) := by
  rw [deliverWords, List.foldl_cons, h.fillDeliver hxo hi]
  rfl

theorem plotOf_xchg {plot off : Nat} (h : plot * 0x1000 ≤ off) (h' : off < (plot + 1) * 0x1000) :
    (plotOf (0x40000 + off)).1 = 16 + plot := by
  rw [plotOf, if_neg (by omega)]
  show 16 + (0x40000 + off - 0x40000) / 0x1000 = 16 + plot
  omega

/-- A fill that stays in one plot that the I/O side may write: its words stand there, and nothing else in memory changed. -/
theorem memGet_deliverWords {n : Cl} {plot : Nat} (hp : plot < 4) (ws : List Word) {base : Nat} {s : State}
    (h : Fillable n (16 + plot) s) (hbase : plot * 0x1000 ≤ base) (hend : base + ws.length ≤ (plot + 1) * 0x1000) (a : Nat) :
    memGet a (deliverWords n ws base s) =
      if xchgAddr n base ≤ a ∧ a < xchgAddr n base + ws.length then ws.getD (a - xchgAddr n base) 0 else memGet a s := by
  induction ws generalizing base s with
  | nil => rw [if_neg (by simp only [List.length_nil]; omega)]; rfl
  | cons w ws ih =>
    rw [List.length_cons] at hend ⊢
    rw [deliverWords_cons h (by omega) (plotOf_xchg hbase (by omega)), ih (h.wordFilled ..) (by omega) (by omega),
      memGet_wordFilled]
    have hnext : xchgAddr n (base + 1) = xchgAddr n base + 1 := (Nat.add_assoc ..).symm
    rw [hnext]
    by_cases ha : xchgAddr n base = a
    · rw [if_neg (by omega), if_pos ha, if_pos (by omega), ← ha, Nat.sub_self]
      rfl
    · by_cases hr : xchgAddr n base + 1 ≤ a ∧ a < xchgAddr n base + 1 + ws.length
      · rw [if_pos hr, if_pos (by omega), show a - xchgAddr n base = a - (xchgAddr n base + 1) + 1 by omega, List.getD_cons_succ]
      · rw [if_neg hr, if_neg ha, if_neg (by omega)]

theorem dstPlot_lt (dst : Word) (s : State) : dstPlot dst s < 4 := by
  rw [dstPlot]
  split
  · exact fld_lt 15 14 dst
  · exact fld_lt 13 12 dst

theorem captureFillWrite_spec {g : Fin 32} {u : Nat} {s : State} (hd : dark s = false) :
    let cr := 0x10300 + 4 * g.val
    let n := clOf (hubFld (cr + 1) 23 16 s)
    let cut := 256 * (hubGet (cr + 2) s).toNat
    let fp := hubFld 0x1010 19 0 s * 256 * 2 ^ hubFld (0x1100 + n.val) 13 10 s
    let plot := dstPlot (hubGet (cr + 1) s) s
    let ofs := hubFld (cr + 1) 11 0 s
    let ws := captureFill g ((u : Int) - (fp + cut : Nat)) ((u : Int) - cut) s
    fillTick n (256 * s.ns.toNat) 1 s = some u → u + 5120 ≤ 256 * s.ns.toNat + cut → hubBit cr 23 s = true →
      tmcFenced s = false → fillLive u s = true → fillPassed n u s = true → smAt none s.tmc.filled g ≠ some u →
      portHeld (16 + plot) (s.cl n) = false → isolated n s = false → pairSecond n s = none → ownCode (16 + plot) (s.cl n) = 3 →
      ofs + ws.length ≤ 0x1000 →
      ∃ t, execCaptureFillWrite g s = .next t ∧ smAt none t.tmc.filled g = some u ∧
        (∀ i, i < ws.length → memGet (xchgAddr n (plot * 0x1000 + ofs + i)) t = ws.getD i 0) ∧
        (∀ a, a < xchgAddr n (plot * 0x1000 + ofs) ∨ xchgAddr n (plot * 0x1000 + ofs) + ws.length ≤ a → memGet a t = memGet a s) := by
  intro cr n cut fp plot ofs ws htick hcut hen hfence hlive hpass hnew hfree hiso hpair hown hlen
  have hfill : Fillable n (16 + plot) s := ⟨hiso, hpair, hown, hfree⟩
  have hplot : plot < 4 := dstPlot_lt ..
  have hheld : fillHeld n (plot * 0x1000) s = false := hfill.fillHeld (plotOf_xchg (le_refl _) (by omega))
  have hmem (a : Nat) := memGet_deliverWords hplot ws (base := plot * 0x1000 + ofs) hfill (by omega) (by omega) a
  have hex : execCaptureFillWrite g s = .next
      (let t := deliverWords n ws (plot * 0x1000 + ofs) s
       { t with tmc := { t.tmc with filled := smPut none t.tmc.filled g (some u) } }) := by
    have hnow : ((devTime s).toNat : Int) = 256 * (s.ns.toNat : Int) := by
      rw [devTime_toNat, Int.natCast_mul]
      rfl
    have hcutc : (hubGet (cgReg g + 2) s).toNat * 256 = cut := Nat.mul_comm ..
    have hguard : ¬ ((!hubBit (cgReg g) 23 s) = true ∨ tmcFenced s = true ∨ (!fillLive u s) = true ∨ (!fillPassed n u s) = true ∨
        (devTime s).toNat + cut < u + 20 * 256 ∨ smAt none s.tmc.filled g = some u ∨
        fillHeld n (plot * 0x1000) s = true) := by
      have hreg : cgReg g = cr := rfl
      have hlate : ¬ (256 * s.ns.toNat + cut < u + 20 * 256) := by omega
      rw [hreg, hen, hfence, hlive, hpass, hheld, devTime_toNat]
      simp only [hlate, hnew, Bool.not_true, Bool.false_eq_true, or_self, not_false_iff]
    dsimp only [execCaptureFillWrite]
    rw [awake_eq hd, hnow, hcutc]
    split
    · next h => cases h.symm.trans htick
    · next v h =>
      obtain rfl : v = u := Option.some.inj (h.symm.trans htick)
      exact (if_neg hguard).trans rfl
  have hfilled : smAt none (smPut none (deliverWords n ws (plot * 0x1000 + ofs) s).tmc.filled g.val (some u)) g.val = some u :=
    (smAt_smPut ..).trans (if_pos rfl)
  generalize deliverWords n ws (plot * 0x1000 + ofs) s = t at hmem hex hfilled
  refine ⟨_, hex, hfilled, fun i hi => (hmem _).trans ?_, fun a ha => (hmem a).trans ?_⟩
  · have haddr : xchgAddr n (plot * 0x1000 + ofs + i) = xchgAddr n (plot * 0x1000 + ofs) + i := (Nat.add_assoc ..).symm
    rw [haddr, if_pos (by omega), Nat.add_sub_cancel_left]
  · rw [if_neg (by omega)]

end Sys2Proof.Machine

namespace Sys2Proof.Proofs
open Sys2Proof.Machine

/-- Settles O38: a bank's status follows its supply and V33; the first edge of an input pin gives each selecting channel one
stamp near its instant; a group's write is refused as a whole or takes its control register; the words of a fill follow each
other in exchange RAM; the actions of one instant leave their queue together. -/
theorem pinsCapturesAndEdgeGroups : Obligations.PinsCapturesAndEdgeGroups := by
  unfold Obligations.PinsCapturesAndEdgeGroups
  refine ⟨fun b mv v p level frac c m s hd => ⟨?_, fun h => ?_, fun hdir hv => ?_, ?_, ?_⟩,
    fun g v p x rest u s hd => ⟨?_, ?_, ?_⟩⟩
  · obtain ⟨t, hx, hgood, hwrong, hrest⟩ := bankSupplyChange_spec (b := b) hd mv
    exact ⟨t, hx, hgood, hwrong, mem_of_rest hrest, cls_of_rest hrest⟩
  · obtain ⟨hbit, hrest⟩ := bankWrite_accepted b.isLt h
    exact ⟨_, awake_eq hd _, hbit, mem_of_rest hrest, cls_of_rest hrest⟩
  · exact (awake_eq hd _).trans (congrArg _ (bankWrite_refused hdir hv))
  · exact fun hdir hbank hf hlvl hhist hnow hcnt => pinEdge_spec rfl hd hdir hbank hf hlvl hhist hnow hcnt
  · exact fun hold => capW0Read_spec c m hd hold
  · obtain ⟨hcOk, hcNot⟩ := cgCtlWrite_enable g v s
    obtain ⟨heOk, heNot⟩ := egCtlWrite_enable g v s
    simp only [List.forall_mem_cons, List.not_mem_nil, false_implies, implies_true, and_true]
    exact ⟨⟨fun h => ⟨_, awake_eq hd _, hcOk h⟩, fun h => (awake_eq hd _).trans (congrArg _ (hcNot h))⟩,
      fun h => ⟨_, awake_eq hd _, heOk h⟩, fun h => (awake_eq hd _).trans (congrArg _ (heNot h))⟩
  · exact captureFillWrite_spec hd
  · exact fun hq hrest hx => scheduledEdge_spec hd hq hrest hx

end Sys2Proof.Proofs
end
section
/-!
PROOFS. Event counts, locks and JTAG instructions (O60).
-/
namespace Sys2Proof.Machine

/-! ## Event counts (R495, R496) -/

theorem ioGet_foldl_clear (o m r : Nat) (c : Cluster) :
    ioGet r ((List.range m).foldl (fun d i => ioPut (o + i) 0 d) c) = if o ≤ r ∧ r < o + m then 0 else ioGet r c := by
  induction m with
  | zero => rw [if_neg (by omega)]; rfl
  | succ m ih =>
    rw [List.range_succ, List.foldl_append, List.foldl_cons, List.foldl_nil, ioGet_ioPut, ih]
    by_cases h : o + m = r
    · rw [if_pos h, if_pos (by omega)]
    · rw [if_neg h]
      by_cases h' : o ≤ r ∧ r < o + m
      · rw [if_pos h', if_pos (by omega)]
      · rw [if_neg h', if_neg (by omega)]

theorem ioPair_evcClear {i : Nat} (h : i < 8) (c : Cluster) : ioPair (0x1110 + 2 * i) (evcClear c) = 0 := by
  rw [ioPair, evcClear, ioGet_foldl_clear, ioGet_foldl_clear, if_pos (by omega), if_pos (by omega)]
  rfl

theorem ioGet_evcAdd {i r : Nat} (h : r ≠ 0x1110 + 2 * i) (h' : r ≠ 0x1111 + 2 * i) (h0 : r ≠ 0x1100) (k : Nat) (c : Cluster) :
    ioGet r (evcAdd i k c) = ioGet r c := by
  have hpair (v : DWord) : ioGet r (ioPutPair (0x1110 + 2 * i) v c) = ioGet r c := by
    rw [ioPutPair, ioGet_ioPut_ne _ _ (by omega), ioGet_ioPut_ne _ _ (by omega)]
  dsimp only [evcAdd]
  refine reads_ite ?_ (hpair _)
  rw [ioGet_ioSetBit, if_neg (Ne.symm h0), hpair]

/-- A counter that does not count time is left by the free counts of those that do. -/
theorem ioPair_evcFree {n : Cl} {k : Nat} {s : State} (hk : k < 8) (h : evcTimed (ioFld (0x1108 + k) 5 0 (s.cl n)) = false) :
    ioPair (0x1110 + 2 * k) ((evcFree n s).cl n) = ioPair (0x1110 + 2 * k) (s.cl n) := by
  have hcl : (evcFree n s).cl n = (List.range 8).foldl (fun (d : Cluster) i =>
      if evcTimed (ioFld (0x1108 + i) 5 0 d) then evcAdd i (Config.freeNat (s.fresh + i)) d else d) (s.cl n) :=
    putCl_cl_self n _ s
  rw [hcl]
  refine (List.foldlRecOn (motive := fun d : Cluster => ioGet (0x1108 + k) d = ioGet (0x1108 + k) (s.cl n) ∧
    ioPair (0x1110 + 2 * k) d = ioPair (0x1110 + 2 * k) (s.cl n)) _ _ ⟨rfl, rfl⟩ fun d ⟨hsel, hpair⟩ i hi => ?_).2
  have hi := List.mem_range.mp hi
  split
  · next ht =>
    have hik : i ≠ k := by
      rintro rfl
      rw [ioFld, hsel, ← ioFld, h] at ht
      cases ht
    refine ⟨(ioGet_evcAdd (by omega) (by omega) (by omega) ..).trans hsel, Eq.trans ?_ hpair⟩
    rw [ioPair, ioGet_evcAdd (by omega) (by omega) (by omega), ioGet_evcAdd (by omega) (by omega) (by omega), ioPair]
  · exact ⟨hsel, hpair⟩

/-- A read of a W0 of a cluster's counters. -/
theorem evcAnswer_spec {n : Cl} {r : Nat} (h : r = 1 ∨ 0x10 ≤ r ∧ r < 0x20 ∧ r % 2 = 0) (rd : EvcReader) (s : State) :
    (evcAnswer n r rd s).resp = [ioGet (0x1100 + r) ((evcAnswer n r rd s).cl n)] ∧
      snapGet (ioSnapReg n (0x1100 + r)) (evcReader rd) (evcAnswer n r rd s) =
        (ioGet (0x1100 + r + 1) ((evcAnswer n r rd s).cl n)).setWidth 48 ∧
      (evcAnswer n r rd s).cl n = (if r = 1 then s else evcFree n s).cl n ∧
      (evcAnswer n r rd s).mem = s.mem ∧ (evcAnswer n r rd s).hub = s.hub := by
  obtain ⟨t, ht⟩ : ∃ t, t = if 0x10 ≤ r ∧ r < 0x20 then evcFree n s else s := ⟨_, rfl⟩
  have hans : evcAnswer n r rd s = respond [ioGet (0x1100 + r) (t.cl n)] (snapPut (ioSnapReg n (0x1100 + r)) (evcReader rd)
      ((ioGet (0x1100 + r + 1) (t.cl n)).setWidth 48) t) := by
    dsimp only [evcAnswer, evcRead]
    rw [if_pos (by omega), ht]
  have ht' : t = if r = 1 then s else evcFree n s := by
    rw [ht]
    by_cases h1 : r = 1
    · rw [if_pos h1, if_neg (by omega)]
    · rw [if_neg h1, if_pos (by omega)]
  rw [hans]
  refine ⟨rfl, snapGet_respond_snapPut .., congrArg (·.cl n) ht', ?_, ?_⟩
  · rw [ht']; exact reads_ite (g := State.mem) rfl rfl
  · rw [ht']; exact reads_ite (g := State.hub) rfl rfl

/-! ## Global counts (R496, R498) -/

theorem hubPair_gcntClear {i : Nat} (h : i < 16) (s : State) : hubPair (0x25001 + 8 * i) (gcntClear s) = 0 := by
  have hall (m : Nat) : ∀ i < m, hubPair (0x25001 + 8 * i) ((List.range m).foldl (fun t g => hubPutPair (0x25001 + 8 * g) 0 t) s) = 0 := by
    induction m with
    | zero => intro i hi; omega
    | succ m ih =>
      intro i hi
      rw [List.range_succ, List.foldl_append, List.foldl_cons, List.foldl_nil]
      by_cases him : i = m
      · rw [him, hubPair_hubPutPair_self]
      · rw [hubPair, hubGet_hubPutPair, hubGet_hubPutPair, if_neg (by omega), if_neg (by omega), if_neg (by omega),
          if_neg (by omega), ← hubPair, ih i (by omega)]
  exact hall 16 i h

theorem gcntClear_keeps {γ : Type} {g : State → γ} (h : ∀ o v s, g (hubPut o v s) = g s) (s : State) : g (gcntClear s) = g s :=
  foldl_keeps g (fun _ _ => (h ..).trans (h ..)) _ _

/-! ## Locks (R24) -/

theorem lockTimeout_spec {tg : Fin 16} {lk : Lock} {s : State} (hd : dark s = false)
    (hfind : s.locks.find? (fun x => x.target == tg.val) = some lk) (hlate : 1000 < (s.ticks - lk.since).toNat) :
    ∃ t, execLockTimeout tg s = .next t ∧ t.locks = s.locks.filter (fun x => x.target != tg.val) ∧
      odCtr 0xC010 0 t = odCtr 0xC010 0 s + 1 ∧ t.mon.ok = false ∧ t.mon.code = 4 ∧ t.mem = s.mem ∧ t.hub = s.hub := by
  have hex : execLockTimeout tg s = .next (monErr 4 (odCount 0xC010 0 (unlock tg s))) := by
    rw [execLockTimeout, awake_eq hd, hfind]
    exact congrArg _ (if_neg (by omega))
  have hod : odCtr 0xC010 0 (monErr 4 (odCount 0xC010 0 (unlock tg s))) = odCtr 0xC010 0 s + 1 := by
    have hmon : odCtr 0xC010 0 (monErr 4 (odCount 0xC010 0 (unlock tg s))) = odCtr 0xC010 0 (odCount 0xC010 0 (unlock tg s)) :=
      odCtr_congr rfl ..
    rw [hmon, odCtr_odCount, odCtr_congr (t := unlock tg s) (s := s) rfl]
  exact ⟨_, hex, rfl, hod, rfl, rfl, rfl, rfl⟩

end Sys2Proof.Machine
end
section
/-!
PROOFS. Register writes by Hardpan and by clusters, and conflict counters (O60).
-/
namespace Sys2Proof.Machine
open Sys2Proof.Claims

/-! ## Plain registers of the hub (R8) -/

/-- The rows of the registers of `plainHub`: their RW and RW1C bits, and no write-only field. -/
theorem hubRow_plainHub :
    ∀ p ∈ plainHub, (hubRow p.1).rw = p.2.1 ∧ (hubRow p.1).w1c = p.2.2 ∧ (hubRow p.1).wo = 0 := by decide +kernel

/-- No register of `plainHub` is one that a write treats in a way of its own. -/
theorem place_plainHub :
    ∀ p ∈ plainHub, (0x50031 ≤ p.1 ∧ p.1 < 0x50035) ∨ (0x60002 ≤ p.1 ∧ p.1 < 0x60064 ∧ p.1 ≠ 0x60058 ∧ p.1 ≠ 0x60060) ∨
      (0x200000 ≤ p.1 ∧ p.1 < 0x202000 ∧ 3 ≤ p.1 % 0x20 ∧ p.1 % 0x20 < 7) ∨
      (0x300000 ≤ p.1 ∧ p.1 < 0x301000 ∧ p.1 % 0x10 < 4) := by decide +kernel

theorem hubCodeWrite_plainHub {o : Nat} {rw w1c : Word} (h : (o, rw, w1c) ∈ plainHub) (v : Word) (s : State) :
    hubCodeWrite o v s = hubPut o (written rw w1c (hubGet o s) v) s := by
  obtain ⟨hrw, hw1c, hwo⟩ := hubRow_plainHub _ h
  simp only at hrw hw1c hwo
  simp [hubCodeWrite, regWrite, written, hrw, hw1c, hwo]

theorem ucodeWrite_plain {o : Nat} (h : 3 ≤ o % 0x20 ∧ o % 0x20 < 7) (v : Word) (s : State) :
    ucodeWrite o v s = hubCodeWrite o v s := by
  rw [ucodeWrite]
  obtain h | h | h | h : o % 0x20 = 3 ∨ o % 0x20 = 4 ∨ o % 0x20 = 5 ∨ o % 0x20 = 6 := by omega
  all_goals rw [h]; rfl

theorem odPqWrite_plain {o : Nat} (h : o % 0x10 < 4) (v : Word) (s : State) : odPqWrite o v s = hubCodeWrite o v s := by
  rw [odPqWrite]
  obtain h | h | h | h : o % 0x10 = 0 ∨ o % 0x10 = 1 ∨ o % 0x10 = 2 ∨ o % 0x10 = 3 := by omega
  all_goals rw [h]; rfl

theorem spmWrite_plain {o : Nat} (h : 0x31 ≤ o ∧ o < 0x35) (v : Word) (s : State) :
    spmWrite o v s = hubCodeWrite (0x50000 + o) v s := by
  rw [spmWrite]
  repeat rw [if_neg (by omega)]

theorem pwrWrite_plain {o : Nat} (h : 2 ≤ o ∧ o < 0x64 ∧ o ≠ 0x58 ∧ o ≠ 0x60) (v : Word) (s : State) :
    pwrWrite o v s = hubCodeWrite (0x60000 + o) v s := by
  rw [pwrWrite]
  repeat rw [if_neg (by omega)]

theorem hubWrite_plainHub {o : Nat} {rw w1c : Word} (h : (o, rw, w1c) ∈ plainHub) (m : Master) (cs : List CapV) (v : Word)
    (s : State) : hubWrite m cs o v s = hubCodeWrite o v s := by
  have hplace := place_plainHub _ h
  simp only at hplace
  rcases hplace with h | h | h | h <;> rw [hubWrite] <;> repeat rw [if_neg (by omega)]
  · rw [if_pos (by omega), spmWrite_plain (by omega), show 0x50000 + (o - 0x50000) = o by omega]
  · rw [if_pos (by omega), pwrWrite_plain (by omega), show 0x60000 + (o - 0x60000) = o by omega]
  · rw [if_pos (by omega), ucodeWrite_plain (by omega)]
  · rw [if_pos (by omega), odPqWrite_plain (by omega)]

theorem sealedWrite_outside {o : Nat} (h : o < 0x40100 ∨ 0x40300 ≤ o) (v : Word) (s : State) : sealedWrite o v s = false := by
  have hb : (decide (0x40100 ≤ o) && decide (o < 0x40300)) = false := by simp; omega
  dsimp only [sealedWrite]
  rw [hb, Bool.false_and]

theorem regionOf_hub {o : Nat} (h : o < 0x1000000) : regionOf (0x4000000000 + o) = .hub o := by
  rw [regionOf, if_neg (by omega), if_neg (by omega), if_pos (by omega), Nat.add_sub_cancel_left]

theorem registerWrite_plainHub {a : BitVec 40} {o : Nat} {rw w1c : Word} {s : State} (hd : dark s = false)
    (ha : a.toNat = 0x4000000000 + o) (h : (o, rw, w1c) ∈ plainHub) (hl : lockedFor .security a.toNat s = false) (v : Word) :
    execRegisterWrite .security a v s = .next (hubPut o (written rw w1c (hubGet o s) v) s) := by
  have hplace := place_plainHub _ h
  simp only at hplace
  rw [execRegisterWrite, awake_eq hd, hl, ha, regionOf_hub (by omega)]
  simp only [Bool.false_eq_true, if_false, masterWrite, sealedWrite_outside (o := o) (by omega), hubWrite_plainHub h,
    hubCodeWrite_plainHub h]

/-- A write of a cluster that none of its capabilities covers is dropped (R6). -/
theorem registerWrite_uncovered {a : BitVec 40} {o : Nat} {n : Cl} {v : Word} {s : State} (hd : dark s = false)
    (ha : a.toNat = 0x4000000000 + o) (ho : o < 0x10000) (h : anyWrites (slotCaps n s) o v = false) :
    execRegisterWrite (.cluster n) a v s = .next s := by
  have hkey : keyReg o = false := by simp [keyReg]; omega
  have hmaster : masterWrite (.cluster n) o v s = s := by
    rw [masterWrite, h, hkey]
    exact reads_ite (g := id) rfl rfl
  rw [execRegisterWrite, awake_eq hd, ha, regionOf_hub (by omega)]
  simp only [hmaster, ite_self]

/-! ## Conflict counters (R37, R169, R173) -/

theorem onIsland_eq {n : Cl} {s : State} (h : clocked n s = true) (o : Out) : onIsland n s o = o := by
  simp [onIsland, h]

theorem ioGet_confClear (r : Nat) (c : Cluster) : ioGet r (confClear c) = if 0x1E0 ≤ r ∧ r < 0x1F8 then 0 else ioGet r c :=
  ioGet_foldl_clear ..

/-- What a count on its own pair leaves of a state. -/
structure CountOnly (n : Cl) (off : Nat) (s t : State) : Prop where
  hub : t.hub = s.hub
  mem : t.mem = s.mem
  io  : ∀ o, o ≠ off → o ≠ off + 1 → ioGet o (t.cl n) = ioGet o (s.cl n)

theorem CountOnly.refl (n : Cl) (off : Nat) (s : State) : CountOnly n off s s := ⟨rfl, rfl, fun _ _ _ => rfl⟩

theorem countOnly_confRun (n : Cl) (off : Nat) (s : State) : CountOnly n off s (confRun n off s) := by
  rw [confRun]
  split
  · exact .refl ..
  · refine ⟨rfl, rfl, fun o h h' => ?_⟩
    rw [cl_of_cls (drawn_cls _), modCl_cl_self, ioPutPair, ioGet_ioPut_ne _ _ (Ne.symm h'), ioGet_ioPut_ne _ _ (Ne.symm h)]

theorem countOnly_clashRead (n : Cl) (s : State) : CountOnly n 0x1FA s (clashRead n s) := by
  dsimp only [clashRead, clashTake]
  split
  · exact .refl ..
  · refine ⟨rfl, rfl, fun o h h' => ?_⟩
    rw [cl_of_cls (drawn_cls _), modCl_cl_self, ioPutPair, ioGet_ioPut_ne _ _ (Ne.symm h'), ioGet_ioPut_ne _ _ (Ne.symm h)]
    rfl

/-- A read of W0 of a count of the IO-space, after what it counted meanwhile. -/
def pairAnswer (n : Cl) (off : Nat) (s : State) : State :=
  respond [ioGet off (s.cl n)]
    (snapPut (ioSnapReg n off) (bankReader (s.cl n)) ((ioGet (off + 1) (s.cl n)).setWidth 48) s)

theorem pairAnswer_spec {n : Cl} {off : Nat} (hoff : 0x10 < off) {s u : State} (h : CountOnly n off s u) :
    (pairAnswer n off u).resp = [ioGet off ((pairAnswer n off u).cl n)] ∧ (pairAnswer n off u).hub = s.hub ∧
      (pairAnswer n off u).mem = s.mem ∧ snapGet (ioSnapReg n off) (bankReader (s.cl n)) (pairAnswer n off u) =
        (ioGet (off + 1) ((pairAnswer n off u).cl n)).setWidth 48 ∧
      (∀ o, o ≠ off → o ≠ off + 1 → ioGet o ((pairAnswer n off u).cl n) = ioGet o (s.cl n)) := by
  have hbank : bankReader (s.cl n) = bankReader (u.cl n) := by
    rw [bankReader, bankReader, ioBit, ioBit, h.io 0x10 (by omega) (by omega)]
  refine ⟨rfl, h.hub, h.mem, ?_, h.io⟩
  rw [hbank]
  exact snapGet_respond_snapPut ..

end Sys2Proof.Machine

namespace Sys2Proof.Proofs
open Sys2Proof.Machine Sys2Proof.Claims

/-- Settles O60: the clears and free counts touch their own counters alone, a register write by Hardpan is the write of its row's
access codes, one without a capability is dropped, and each JTAG instruction leaves its own register. -/
theorem countersLocksRegistersAndJtag : Obligations.CountersLocksRegistersAndJtag := by
  unfold Obligations.CountersLocksRegistersAndJtag
  refine ⟨fun n k rd g m tg lk a o v s hd => ⟨?_, ?_, ?_, ?_, ?_, ?_, fun ha => ⟨fun rw w1c hp hl => ?_, fun ho hany => ?_⟩⟩,
    fun others shifted low s hm => ⟨?_, ?_, ?_, ?_⟩, fun n i s hc => ⟨?_, ?_, ?_⟩⟩
  · refine ⟨_, awake_eq hd _, fun i hi => ?_, rfl, rfl, fun r hr => ?_⟩
    · rw [modCl_cl_self, ioPair_evcClear hi]
    · rw [modCl_cl_self, evcClear, ioGet_foldl_clear, if_neg (by omega)]
  · obtain ⟨hresp, hsnap, hcl, hmem, hhub⟩ := evcAnswer_spec (n := n) (r := 0x10 + 2 * k) (by omega) rd s
    rw [← Nat.add_assoc] at hresp hsnap
    rw [if_neg (by omega)] at hcl
    exact ⟨_, awake_eq hd _, hresp, hsnap, fun ht => (congrArg _ hcl).trans (ioPair_evcFree k.isLt ht), hmem, hhub⟩
  · obtain ⟨hresp, hsnap, hcl, hmem, hhub⟩ := evcAnswer_spec (n := n) (r := 1) (by omega) rd s
    exact ⟨_, awake_eq hd _, hresp, hsnap, fun _ => congrArg (ioPair 0x1101) hcl, hmem, hhub⟩
  · exact ⟨_, awake_eq hd _, fun i hi => hubPair_gcntClear hi s, gcntClear_keeps (g := State.mem) (fun _ _ _ => rfl) s,
      gcntClear_keeps (g := State.cls) (fun _ _ _ => rfl) s⟩
  · have hnext : 0x25001 + 8 * g.val + 1 = 0x25002 + 8 * g.val := by omega
    refine ⟨readPairW0 (0x25001 + 8 * g) m s, awake_eq hd _, rfl, rfl, ?_⟩
    rw [← hnext, readPairW0, snapGet_respond_snapPut]
  · exact fun hfind hlate => lockTimeout_spec hd hfind hlate
  · exact ⟨_, registerWrite_plainHub hd ha hp hl v, hubGet_hubPut_self .., rfl, rfl,
      fun r hr => hubGet_hubPut_ne _ _ (Ne.symm hr)⟩
  · exact registerWrite_uncovered hd ha ho hany
  · exact congrArg _ (if_neg hm)
  · exact congrArg _ (if_neg hm)
  · exact congrArg _ (if_neg hm)
  · cases low
    · exact ⟨congrArg _ (if_neg hm), congrArg _ (if_neg hm), congrArg _ (if_neg hm)⟩
    · exact ⟨congrArg _ (if_neg hm), congrArg _ (if_neg hm), congrArg _ (if_neg hm)⟩
  · refine ⟨confClear (s.cl n), onIsland_eq hc _, fun j hj => ?_, fun o ho => ?_⟩
    · rw [ioPair, ioGet_confClear, ioGet_confClear, if_pos (by omega), if_pos (by omega)]
      rfl
    · rw [ioGet_confClear, if_neg (by omega)]
  · have hex : exec (.vuConfW0Read n i) s = .next (pairAnswer n (0x1E0 + 2 * i) (confRun n (0x1E0 + 2 * i) s)) := by
      refine (onIsland_eq hc _).trans (congrArg _ ?_)
      rw [ioPairRead, if_pos (by omega), pairAnswer]
    obtain ⟨hresp, hhub, hmem, hsnap, hio⟩ := pairAnswer_spec (off := 0x1E0 + 2 * i.val) (by omega)
      (countOnly_confRun n (0x1E0 + 2 * i.val) s)
    refine ⟨_, hex, hresp, hhub, hmem, hsnap, hio, fun hstill => ?_⟩
    have hrun : confRun n (0x1E0 + 2 * i) s = s := by
      have hi : (0x1E0 + 2 * i.val - 0x1E0) / 2 = i.val := by omega
      rw [confRun, hi]
      refine if_pos ?_
      rcases hstill with h | h
      · rw [h, Bool.true_or]
      · simp [h]
    rw [hrun]
    rfl
  · have hex : exec (.vuFslotClashW0Read n) s = .next (pairAnswer n 0x1FA (clashRead n s)) := onIsland_eq hc _
    obtain ⟨hresp, hhub, hmem, hsnap, hio⟩ := pairAnswer_spec (off := 0x1FA) (by decide) (countOnly_clashRead n s)
    refine ⟨_, hex, hresp, hhub, hmem, hsnap, hio, fun hslots => ?_⟩
    have hread : clashRead n s = s := by
      dsimp only [clashRead, clashTake]
      exact if_pos (Or.inl (by rw [hslots]; rfl))
    rw [hread]
    rfl

end Sys2Proof.Proofs
end
section
/-!
PROOFS. Registers of a sequencer after an update, and the orders that a sequencer issues (O24).
-/
namespace Sys2Proof.Machine

open Sys2Proof.Claims

/-! ## Bits and fields of a sequencer's registers -/

theorem ioBit_ioPut_ne {o p : Nat} (h : o ≠ p) (i : Nat) (v : Word) (c : Cluster) : ioBit p i (ioPut o v c) = ioBit p i c := by
  rw [ioBit, ioGet_ioPut_ne v c h, ioBit]

theorem ioBit_congr {c d : Cluster} (h : c.io = d.io) (o i : Nat) : ioBit o i c = ioBit o i d := by
  rw [ioBit, ioGet_congr h, ioBit]

/-! ## Event counters (R494) -/

/-- A reading of a cluster that the registers of the event counters have no part in. -/
theorem evcEvent_blind {γ : Type} {g : Cluster → γ}
    (h : ∀ o v c, o = 0x1100 ∨ 0x1110 ≤ o ∧ o < 0x1120 → g (ioPut o v c) = g c) (sel k : Nat) (c : Cluster) :
    g (evcEvent sel k c) = g c := by
  refine List.foldlRecOn (motive := fun d => g d = g c) _ _ rfl fun d hd i hi => ?_
  have hi := List.mem_range.mp hi
  have hpair : ∀ v, g (ioPutPair (0x1110 + 2 * i) v d) = g c := fun v => by
    rw [ioPutPair, h _ _ _ (.inr ⟨by omega, by omega⟩), h _ _ _ (.inr ⟨by omega, by omega⟩), hd]
  exact reads_ite (reads_ite (by rw [ioSetBit, h _ _ _ (.inl rfl), hpair]) (hpair _)) hd

theorem ioGet_evcEvent {o : Nat} (h : o < 0x1100 ∨ 0x1120 ≤ o) (sel k : Nat) (c : Cluster) :
    ioGet o (evcEvent sel k c) = ioGet o c :=
  evcEvent_blind (g := ioGet o) (fun _ _ _ hp => ioGet_ioPut_ne _ _ (by omega)) sel k c

section
variable (sel k : Nat) (c : Cluster)

@[simp] theorem evcEvent_forming : (evcEvent sel k c).forming = c.forming :=
  evcEvent_blind (g := Cluster.forming) (fun _ _ _ _ => rfl) sel k c
@[simp] theorem evcEvent_groups : (evcEvent sel k c).groups = c.groups :=
  evcEvent_blind (g := Cluster.groups) (fun _ _ _ _ => rfl) sel k c
@[simp] theorem evcEvent_nextGid : (evcEvent sel k c).nextGid = c.nextGid :=
  evcEvent_blind (g := Cluster.nextGid) (fun _ _ _ _ => rfl) sel k c
@[simp] theorem evcEvent_sbuf : (evcEvent sel k c).sbuf = c.sbuf :=
  evcEvent_blind (g := Cluster.sbuf) (fun _ _ _ _ => rfl) sel k c
@[simp] theorem evcEvent_due : (evcEvent sel k c).due = c.due :=
  evcEvent_blind (g := Cluster.due) (fun _ _ _ _ => rfl) sel k c
@[simp] theorem evcEvent_loopLag : (evcEvent sel k c).loopLag = c.loopLag :=
  evcEvent_blind (g := Cluster.loopLag) (fun _ _ _ _ => rfl) sel k c

end

/-! ## Words of four issue cycles (R237) -/

/-- A word of four issue cycles that completes with nothing to transfer and nothing under way: the cluster goes on. -/
theorem wordDone_go4 {n : Cl} {s : State} (hl : ioBit 0x6 23 (s.cl n) = false) (hg : (s.cl n).loopLag = [])
    (hd : (s.cl n).due = []) : wordDone n 4 none 0 s = s.putCl n (goOn4 (s.cl n)) := by
  have hpc : (s.cl n).pc + BitVec.ofNat 24 (4 - 1) + 1 = (s.cl n).pc + 4 := by bv_omega
  simp only [wordDone, wordPass, modCl_eq, putCl_cl_self, putCl_putCl, loopBack_none hl hg, nextPc_none hl hg, evcEvent_zero]
  rw [landDue_nil, goOn4, hpc]
  exact hd

/-- An order issues at once where its four words lie in the instruction store, and, if it names an f register, the
floating-point state is there; `c` is what its meaning leaves in the cluster. -/
theorem orderWord_go {n : Cl} {s : State} (h : Issues n s) {o : Order96} {f : State → SeqRes} {c : Cluster}
    (hpc : (s.cl n).pc.toNat + 4 ≤ 0x4000) (hfp : oScal o < 16 → ioBit 0x10 20 (s.cl n) = true)
    (hf : f s = .go (s.putCl n c)) (hl : ioBit 0x6 23 c = false) (hg : c.loopLag = []) (hd : c.due = []) :
    orderWord n o f s = s.putCl n (goOn4 c) := by
  have huse : decide (oScal o < 16) = false ∨ ioBit 0x10 20 (s.cl n) = true := by
    by_cases hs : oScal o < 16
    · exact .inr (hfp hs)
    · exact .inl (decide_eq_false hs)
  rw [orderWord, issue_now h _ _ huse]
  simp only [modCl_eq, dAct_plain, putCl_cl_same, if_neg (Nat.not_lt.mpr hpc), hf, SeqRes.go, wordEnd]
  rw [wordDone_go4 (by simpa using hl) (by simpa using hg) (by simpa using hd), putCl_cl_self, putCl_putCl]

/-! ## What an issue mode leaves of an order (R97) -/

theorem oScal_withIss (i : Nat) (o : Order96) : oScal (withIss i o) = oScal o :=
  fld_setFld_of_disjoint (by decide) (by decide) (by decide) _ o

theorem oCg_withIss (i : Nat) (o : Order96) : oCg (withIss i o) = oCg o := by
  rw [oCg, withIss, bitOf_setFld (by decide) (by decide), if_neg (by decide), oCg]

theorem oIss_withIss {i : Nat} (hi : i < 4) (o : Order96) : oIss (withIss i o) = i := by
  have h : ∀ j < 2, bitOf (17 + j) (withIss i o) = (60 + i).testBit j := fun j hj => by
    rw [withIss, bitOf_setFld (by decide) (by decide), if_pos (by omega)]
    congr 1; omega
  refine Nat.eq_of_testBit_eq fun j => ?_
  rw [oIss, testBit_fld]
  by_cases hj : j < 2
  · rw [h j hj]
    interval_cases i <;> interval_cases j <;> rfl
  · have : i.testBit j = false := Nat.testBit_lt_two_pow
      (Nat.lt_of_lt_of_le hi (Nat.pow_le_pow_right (by decide) (Nat.le_of_not_lt hj) : 2 ^ 2 ≤ 2 ^ j))
    rw [this, decide_eq_false (by omega), Bool.false_and]

/-! ## The order queue (R94, R97, R237, R238) -/

/-- With nothing under way the last issue cycle of an order finds the registers as they stand. -/
theorem orderRegs_calm {c : Cluster} (h : c.due = []) : orderRegs c = { c with cyc := c.cyc + 3 } :=
  landDue_nil h

/-- An order without CG = 1 joins the group that forms. -/
theorem orderEnter_joins {n : Cl} {q : QOrder} {s : State} (hlen : (s.cl n).forming.length < 6) (hcg : oCg q.bits = false) :
    orderEnter n q s = s.putCl n { evcEvent 0x0B 1 (s.cl n) with forming := (s.cl n).forming ++ [q] } := by
  simp [orderEnter, hcg, Nat.not_lt.mpr (Nat.succ_le_of_lt hlen)]

/-- An order with CG = 1 completes its group, which then waits to start. -/
theorem orderEnter_completes {n : Cl} {q : QOrder} {s : State} (hlen : (s.cl n).forming.length < 6) (hcg : oCg q.bits = true)
    (hf : groupFault ((s.cl n).forming ++ [q]) = none) :
    orderEnter n q s = s.putCl n { evcEvent 0x0B 1 (s.cl n) with
      forming := []
      groups := (s.cl n).groups ++ [newGroup (s.cl n).nextGid none ((s.cl n).forming ++ [q]) (decide (oIss q.bits = 1))
        (decide (oIss q.bits = 3)) (s.cl n).sbuf.length]
      nextGid := (s.cl n).nextGid + 1 } := by
  simp [orderEnter, hcg, hf, Nat.not_lt.mpr (Nat.succ_le_of_lt hlen)]

/-- An order enters the queue where it finds room, with the registers as they stand. -/
theorem orderQueue_go {n : Cl} {o : Order96} {s : State} (hd : (s.cl n).due = []) (hroom : queueOrders (s.cl n) < 16) :
    orderQueue n o s = .go (orderEnter n ⟨o, (s.cl n).pc, orderK (s.cl n) o, copyDescs (regDesc (s.cl n)) o⟩ s) := by
  rw [orderQueue, orderRegs_calm hd]
  exact if_neg (Nat.not_le.mpr hroom)

/-- An issued order that enters the queue and leaves its cluster as `c`. -/
theorem orderIssue_go {n : Cl} {s : State} (h : Issues n s) {o : Order96} {c : Cluster} (hpc : (s.cl n).pc.toNat + 4 ≤ 0x4000)
    (hfp : oScal o < 16 → ioBit 0x10 20 (s.cl n) = true) (hroom : queueOrders (s.cl n) < 16)
    (hc : orderEnter n ⟨o, (s.cl n).pc, orderK (s.cl n) o, copyDescs (regDesc (s.cl n)) o⟩ s = s.putCl n c)
    (hio : c.io = (evcEvent 0x0B 1 (s.cl n)).io) (hg : c.loopLag = []) (hd : c.due = []) :
    orderWord n o (orderQueue n o) s = s.putCl n (goOn4 c) := by
  refine orderWord_go h hpc hfp (by rw [orderQueue_go h.calm hroom, hc]) ?_ hg hd
  rw [ioBit_congr hio, ioBit, ioGet_evcEvent (by decide)]
  exact h.loop

/-! ## The order store (R99) -/

/-- The cluster behind an order that goes to the next slot of set `k`, its issue cycles apart. -/
def appended (k : Set8) (o : Order96) (c : Cluster) : Cluster :=
  ioSetFld (0x190 + k) 9 5 (setCount k c + 1) { c with ostore := smPut 0 c.ostore (setStart k c + setCount k c) o }

theorem ioBit_appended {k : Set8} {p : Nat} (h : 0x190 + k.val ≠ p) (i : Nat) (o : Order96) (c : Cluster) :
    ioBit p i (appended k o c) = ioBit p i c :=
  (ioBit_ioPut_ne h ..).trans (ioBit_congr rfl ..)

/-- An order appended to the set in build goes to the slot behind its last, which no built set holds. -/
theorem orderAppend_stores {n : Cl} {k : Set8} {o : Order96} {s : State} (hb : setBuild k (s.cl n) = true)
    (hfirst : ∀ j : Set8, j < k → setBuild j (s.cl n) = false) (hc : setCount k (s.cl n) < 16)
    (hslot : setStart k (s.cl n) + setCount k (s.cl n) < 128)
    (hfree : ∀ j : Set8, j ≠ k → setBuilt j (s.cl n) = true → setStart k (s.cl n) + setCount k (s.cl n) < setStart j (s.cl n) ∨
      setStart j (s.cl n) + setCount j (s.cl n) ≤ setStart k (s.cl n) + setCount k (s.cl n)) :
    orderAppend n o s = s.putCl n (appended k o (s.cl n)) := by
  have hk : (List.range 8).find? (fun j => setBuild j (s.cl n)) = some k.val := by
    rw [List.find?_range_eq_some]
    exact ⟨hb, List.mem_range.mpr k.isLt, fun j hj => by
      simpa using hfirst ⟨j, by omega⟩ hj⟩
  have htaken : ¬ (List.range 8).any (fun j => decide (j ≠ k.val) && setBuilt j (s.cl n) &&
      decide (setStart j (s.cl n) ≤ setStart k (s.cl n) + setCount k (s.cl n)) &&
      decide (setStart k (s.cl n) + setCount k (s.cl n) < setStart j (s.cl n) + setCount j (s.cl n))) := by
    rw [List.any_eq_true]
    rintro ⟨j, hj, hin⟩
    simp only [Bool.and_eq_true, decide_eq_true_eq] at hin
    obtain ⟨⟨⟨hne, hbuilt⟩, hlo⟩, hhi⟩ := hin
    have := hfree ⟨j, List.mem_range.mp hj⟩ (fun he => hne (congrArg Fin.val he)) hbuilt
    simp only at this
    omega
  rw [orderAppend, hk]
  simp only
  rw [if_neg (by omega), if_neg (by rw [not_or]; exact ⟨by omega, htaken⟩)]
  rfl

end Sys2Proof.Machine

namespace Sys2Proof.Proofs

open Sys2Proof.Machine Sys2Proof.Claims

/-- The commands that issue an order to the queue, with the issue mode of each. -/
theorem exec_orderIssue (n : Cl) (ord : Order96) (s : State) :
    ∀ p ∈ [((0 : Nat), Instr.orderIssueQueue n ord), (1, .orderIssueFence n ord), (3, .orderIssueNotify n ord)],
      exec p.2 s = .next (orderWord n (withIss p.1 ord) (orderQueue n (withIss p.1 ord)) s) ∧ p.1 < 4 := by
  intro p hp
  simp only [List.mem_cons, List.not_mem_nil, or_false] at hp
  obtain rfl | rfl | rfl := hp
  · exact ⟨by rfl, by simp⟩
  · exact ⟨by rfl, by simp⟩
  · exact ⟨by rfl, by simp⟩

theorem exec_orderAppend (n : Cl) (ord : Order96) (s : State) : exec (.orderAppend n ord) s =
    .next (orderWord n (withIss 2 ord) (fun t => .go (orderAppend n (withIss 2 ord) t)) s) := by rfl

/-- Settles O24: an order that issues goes through the order queue or to the order store, and its four issue cycles pass. -/
theorem ordersReachTheQueueAndTheStore : Obligations.OrdersReachTheQueueAndTheStore := by
  unfold Obligations.OrdersReachTheQueueAndTheStore
  refine ⟨fun n ord s h hpc hfp hroom hlen p hp => ?_, fun n k ord s h hpc hfp hb hfirst hc hslot hfree => ?_⟩
  · obtain ⟨hex, hiss⟩ := exec_orderIssue n ord s p hp
    rw [← oScal_withIss p.1] at hfp
    refine ⟨fun hcg => ?_, fun hcg hf => ?_⟩
    · rw [oCg_withIss] at hcg
      rw [hex, orderIssue_go h hpc hfp hroom (orderEnter_joins hlen ((oCg_withIss ..).trans hcg)) rfl
        (by simp [h.lag]) (by simp [h.calm])]
    · rw [oCg_withIss] at hcg
      rw [hex, orderIssue_go h hpc hfp hroom (orderEnter_completes hlen ((oCg_withIss ..).trans hcg) hf) rfl
        (by simp [h.lag]) (by simp [h.calm])]
      simp only [oIss_withIss hiss]
  · have hgo := orderWord_go (o := withIss 2 ord) (f := fun t => .go (orderAppend n (withIss 2 ord) t)) h hpc
      (by rwa [oScal_withIss])
      (congrArg SeqRes.go (orderAppend_stores (o := withIss 2 ord) hb hfirst hc hslot hfree))
      ((ioBit_appended (by omega) ..).trans h.loop) h.lag h.calm
    exact (exec_orderAppend ..).trans (congrArg _ hgo)

end Sys2Proof.Proofs
end
section
/-!
PROOFS. The run of an elementwise order over its elements, and the range of the integer ones (O26).
-/
namespace Sys2Proof.Machine

open Sys2Proof.Claims

/-! ## A routine that has nothing to do (log entry 7) -/

theorem microRun_done {n : Cl} {gid : Nat} {g : Group} {s : State} (hg : group? n gid s = some g) (hd : microDone n g s = true) :
    microRun n gid s = s := by
  simp [microRun, hg, hd]

/-! ## The destination of an order (R77, R81, R92) -/

/-- The words of one element of a destination that is not packed: the element's place, its number in the group, its value. -/
def dstElem (dst : Option Strm) (at' : Nat → Int) (p : Nat × Nat × DWord) : List WWord :=
  match dst with
  | none => []
  | some x => if x.d.mode = 2 then [] else elemWords x (at' p.1) p.2.1 p.2.2

/-- The words of a packed destination; another has none of its own. -/
def packedWords (dst : Option Strm) (bits : List Bool) : List WWord :=
  match dst with
  | none => []
  | some x => if x.d.mode = 2 then packBits x bits.length bits else []

theorem dstWords_eq (dst : Option Strm) (at' : Nat → Int) (rs : List (Nat × Nat × DWord)) (bits : List Bool) :
    dstWords dst at' rs bits = rs.flatMap (dstElem dst at') ++ packedWords dst bits := by
  cases dst with
  | none => simp [dstWords, dstElem, packedWords]
  | some x =>
    by_cases h : x.d.mode = 2
    · simp [dstWords, dstElem, packedWords, h]
    · have he : dstElem (some x) at' = fun p => elemWords x (at' p.1) p.2.1 p.2.2 := funext fun _ => if_neg h
      simp only [dstWords, he, packedWords, if_neg h, List.append_nil]

/-- An element's result goes to the words of its place. -/
theorem Acc1.put_lands {n : Cl} {g : Group} {q : QOrder} {at' : Nat → Int} {W : Nat × Nat × Nat → Word} {s : State}
    (hl : Lands n g q at' W s) {dst : Option Strm} (hdst : roleOf (orderStreams g.n g.pos q) 0 = dst) {j i : Nat} (hi : i < g.n)
    (hj : ∀ x, dst = some x → j < x.cnt) (v : DWord) {acc : Acc1} (hs : acc.r.s = s) (hp : Packed W acc.r) :
    ∃ pk, Packed W { acc.r with pk := pk } ∧ Acc1.put n g dst j i v acc =
      { acc with r := { acc.r with pk := pk }, ws := (dstElem dst at' (j, i, v)).reverse ++ acc.ws } := by
  cases dst with
  | none => exact ⟨acc.r.pk, hp, rfl⟩
  | some x =>
    have hx := hl x hdst
    by_cases hm : x.d.mode = 2
    · exact ⟨acc.r.pk, hp, by simp [Acc1.put, dstElem, hm]⟩
    · by_cases hidx : x.indexed = true
      · rw [if_pos hidx] at hx
        obtain ⟨pk, hpk, he⟩ := hx j i acc.r (hj x rfl) hi hs hp
        exact ⟨pk, hpk, by simp [Acc1.put, dstElem, hm, writeElem, hidx, he, elemWords]⟩
      · rw [if_neg hidx] at hx
        exact ⟨acc.r.pk, hp, by simp [Acc1.put, dstElem, hm, writeElem, hidx, elemWords, hx j]⟩

/-! ## Elementwise orders (R88–R90) -/

/-- The orders that run element by element: those of `elementOps`, VSEL and VINTP. -/
def elementwise (v : VOp) : Prop := v ∈ elementOps.map (·.1) ++ [.vsel, .vintp]

theorem vopRed_of_elementwise {v : VOp} (hv : elementwise v) : vopRed v = false := by
  revert v
  unfold elementwise
  decide

/-- The end of an elementwise order's run. -/
def closeAcc (dst : Option Strm) (a : Acc1) : OrderRes :=
  ⟨a.r, a.out.reverse, a.ws.reverse ++ packedWords dst a.bs.reverse, none⟩

theorem runOrder_elementwise {q : QOrder} (hv : elementwise q.op) (n : Cl) (g : Group) (r : Run) :
    runOrder n g q r = closeAcc (roleOf (orderStreams g.n g.pos q) 0)
      ((List.range g.n).foldl (runElem n g (orderStreams g.n g.pos q) q ((scalarK q.bits q.k).getD 0)) ⟨r, [], [], [], 0⟩) := by
  unfold runOrder
  simp only [vopRed_of_elementwise hv, Bool.false_eq_true, ↓reduceIte]
  split
  case h_7 =>
    simp only [closeAcc, packedWords, List.length_reverse]
    cases roleOf (orderStreams g.n g.pos q) 0 <;> rfl
  all_goals
    next h =>
      rw [h] at hv
      exact absurd hv (by unfold elementwise; decide)

/-- The destination of an elementwise order has an element for each of the group. -/
theorem cnt_of_elementwise {q : QOrder} (hv : elementwise q.op) {num pos : Nat} {x : Strm}
    (hx : roleOf (orderStreams num pos q) 0 = some x) : x.cnt = num := by
  have hrole : x.role = 0 := by simpa using List.find?_some hx
  have hmem := List.mem_of_find?_eq_some hx
  unfold orderStreams at hmem
  simp only [List.mem_append] at hmem
  obtain (hsrc | hmask) | hdst := hmem
  · obtain ⟨j, hj, rfl⟩ := List.mem_map.mp hsrc
    obtain ⟨i, -, rfl⟩ := List.mem_map.mp (List.mem_filter.mp hj).1
    split_ifs at hrole
  · split at hmask
    · rw [List.mem_singleton.mp hmask] at hrole
      exact absurd hrole (Nat.succ_ne_zero 2)
    · exact absurd hmask List.not_mem_nil
  · split at hdst
    · exact absurd hdst List.not_mem_nil
    · split at hdst
      case h_8 => rw [List.mem_singleton.mp hdst]; rfl
      case h_9 => rw [List.mem_singleton.mp hdst, vopRed_of_elementwise hv]; rfl
      all_goals
        next h =>
          rw [h] at hv
          exact absurd hv (by unfold elementwise; decide)

/-! ## One element -/

/-- What the order does with an element whose activity, first operand, result and flags are known. -/
def elemStep (n : Cl) (g : Group) (q : QOrder) (dst : Option Strm) (m : Bool) (a : DWord) (e : DWord × Fl) (i : Nat)
    (acc : Acc1) : Acc1 :=
  if m then
    Acc1.put n g dst i i e.1 { acc with r := Run.note g g.pos i e.2 acc.r, out := e.1 :: acc.out, bs := bitOf 0 e.1 :: acc.bs }
  else
    let acc1 := { acc with out := passed q false a e.1 :: acc.out, bs := false :: acc.bs }
    if oMz q.bits then Acc1.put n g dst i i 0 acc1 else acc1

section
variable {n : Cl} {g : Group} {q : QOrder} {m : Nat → Bool} {a b c : Nat → DWord} {W : Nat × Nat × Nat → Word} {s : State}
  (k : DWord) {i : Nat} {acc : Acc1}

/-- An element of an order of `elementOps`: its operands are read one after the other, and its function gives the result. -/
theorem runElem_elementOps (hm : Mask n g q m W s) (ha : Reads n g q 1 a W s) (hb : Reads n g q 2 b W s)
    (hc : Reads n g q 3 c W s) (hv : q.op ≠ .vsel) (hv' : q.op ≠ .vintp) (hi : i < g.n) (hs : acc.r.s = s) (hp : Packed W acc.r) :
    ∃ pk, Packed W { acc.r with pk := pk } ∧ runElem n g (orderStreams g.n g.pos q) q k acc i =
      elemStep n g q (roleOf (orderStreams g.n g.pos q) 0) (m i) (a i) (elemOf q.op q.bits (a i) (b i) (c i) k i) i
        { acc with r := { acc.r with pk := pk } } := by
  obtain ⟨p1, h1, e1⟩ := hm i acc.r hi hs hp
  obtain ⟨p2, h2, e2⟩ := ha i { acc.r with pk := p1 } hi hs h1
  obtain ⟨p3, h3, e3⟩ := hb i { acc.r with pk := p2 } hi hs h2
  obtain ⟨p4, h4, e4⟩ := hc i { acc.r with pk := p3 } hi hs h3
  refine ⟨p4, h4, ?_⟩
  have hsel : (q.op == VOp.vsel) = false := by simpa using hv
  simp only [runElem, e1, e2, if_neg hv', e3, e4, hsel, Bool.or_false, if_neg hv, elemStep, passed, Bool.false_eq_true, if_false]

/-- An element of VSEL: the mask selects its operand, and every element has a result. -/
theorem runElem_vsel (hm : Mask n g q m W s) (ha : Reads n g q 1 a W s) (hb : Reads n g q 2 b W s)
    (hc : Reads n g q 3 c W s) (hv : q.op = .vsel) (hi : i < g.n) (hs : acc.r.s = s) (hp : Packed W acc.r) :
    ∃ pk, Packed W { acc.r with pk := pk } ∧ runElem n g (orderStreams g.n g.pos q) q k acc i =
      elemStep n g q (roleOf (orderStreams g.n g.pos q) 0) true (a i) (if m i then a i else b i, 0) i
        { acc with r := { acc.r with pk := pk } } := by
  obtain ⟨p1, h1, e1⟩ := hm i acc.r hi hs hp
  obtain ⟨p2, h2, e2⟩ := ha i { acc.r with pk := p1 } hi hs h1
  obtain ⟨p3, h3, e3⟩ := hb i { acc.r with pk := p2 } hi hs h2
  obtain ⟨p4, h4, e4⟩ := hc i { acc.r with pk := p3 } hi hs h3
  refine ⟨p4, h4, ?_⟩
  have hintp : ¬ VOp.vsel = VOp.vintp := by decide
  simp only [runElem, e1, hv, e2, if_neg hintp, e3, e4, BEq.rfl, Bool.or_true, if_true, elemStep]

/-- An element of VINTP: the table gives its result. -/
theorem runElem_vintp {e : Nat → DWord × Fl} (hm : Mask n g q m W s) (ha : Reads n g q 1 a W s)
    (hc : Reads n g q 3 c W s) (hv : q.op = .vintp)
    (he : ∀ i r, i < g.n → r.s = s → runIntp n g (orderStreams g.n g.pos q) q i (a i) r = (e i, r))
    (hi : i < g.n) (hs : acc.r.s = s) (hp : Packed W acc.r) :
    ∃ pk, Packed W { acc.r with pk := pk } ∧ runElem n g (orderStreams g.n g.pos q) q k acc i =
      elemStep n g q (roleOf (orderStreams g.n g.pos q) 0) (m i) (a i) (e i) i { acc with r := { acc.r with pk := pk } } := by
  obtain ⟨p1, h1, e1⟩ := hm i acc.r hi hs hp
  obtain ⟨p2, h2, e2⟩ := ha i { acc.r with pk := p1 } hi hs h1
  obtain ⟨p4, h4, e4⟩ := hc i { acc.r with pk := p2 } hi hs h2
  refine ⟨p4, h4, ?_⟩
  have hsel : (VOp.vintp == VOp.vsel) = false := by decide
  have hne : ¬ VOp.vintp = VOp.vsel := by decide
  simp only [runElem, e1, hv, e2, if_true, e4, hsel, Bool.or_false, if_neg hne, he i { acc.r with pk := p4 } hi hs, elemStep, passed,
    Bool.false_eq_true, if_false]

end

/-! ## All elements -/

/-- With no flag enabled to trap an element's flags are noted and nothing else. -/
theorem Run.note_quiet {g : Group} (h : g.trapen = 0) (pos elem : Nat) (fl : Fl) (r : Run) :
    Run.note g pos elem fl r = { r with flags := r.flags ||| fl.setWidth 5 } := by
  simp [Run.note, h]

theorem orFlags_succ (k : Nat) (e : Nat → Fl) : orFlags (k + 1) e = orFlags k e ||| (e k).setWidth 5 := by
  simp [orFlags, List.range_succ]

theorem orFlags_zero (k : Nat) : orFlags k (fun _ => 0#6) = 0#5 := by
  induction k with
  | zero => rfl
  | succ k ih => rw [orFlags_succ, ih]; rfl

/-- What an elementwise order has gathered behind its first `k` elements: `m` tells the active ones, `a` gives the first
operands, `e` the results and flags. -/
def gathered (q : QOrder) (dst : Option Strm) (at' : Nat → Int) (s : State) (fl : BitVec 5) (m : Nat → Bool) (a : Nat → DWord)
    (e : Nat → DWord × Fl) (pk : Option ((Nat × Nat × Nat) × Word)) (k : Nat) : Acc1 where
  r := ⟨s, false, none, fl ||| orFlags k fun i => if m i then (e i).2 else 0, pk⟩
  out := ((List.range k).map fun i => passed q (m i) (a i) (e i).1).reverse
  ws := ((maskedElems q m k fun i => (e i).1).flatMap (dstElem dst at')).reverse
  bs := ((List.range k).map fun i => m i && bitOf 0 (e i).1).reverse
  cnt := 0

section
variable {n : Cl} {g : Group} {q : QOrder} {at' : Nat → Int} {W : Nat × Nat × Nat → Word} {s : State}
  {fl : BitVec 5} {m : Nat → Bool} {a : Nat → DWord} {e : Nat → DWord × Fl}

/-- One more element is gathered. -/
theorem elemStep_gathered (hv : elementwise q.op) (hl : Lands n g q at' W s) (hq : g.trapen = 0)
    {pk : Option ((Nat × Nat × Nat) × Word)} (hp : Packed W ⟨s, false, none, 0, pk⟩) {k : Nat} (hk : k < g.n) :
    ∃ pk', Packed W ⟨s, false, none, 0, pk'⟩ ∧
      elemStep n g q (roleOf (orderStreams g.n g.pos q) 0) (m k) (a k) (e k) k
          (gathered q (roleOf (orderStreams g.n g.pos q) 0) at' s fl m a e pk k) =
        gathered q (roleOf (orderStreams g.n g.pos q) 0) at' s fl m a e pk' (k + 1) := by
  have hcnt : ∀ x, roleOf (orderStreams g.n g.pos q) 0 = some x → k < x.cnt := fun x hx => by
    rw [cnt_of_elementwise hv hx]; exact hk
  have hput := fun v acc (hs : acc.r.s = s) (hp : Packed W acc.r) =>
    Acc1.put_lands hl rfl hk hcnt v (acc := acc) hs hp
  cases hm : m k with
  | true =>
    obtain ⟨pk', hp', he⟩ := hput (e k).1 { gathered q (roleOf (orderStreams g.n g.pos q) 0) at' s fl m a e pk k with
      r := Run.note g g.pos k (e k).2 (gathered q (roleOf (orderStreams g.n g.pos q) 0) at' s fl m a e pk k).r
      out := (e k).1 :: (gathered q (roleOf (orderStreams g.n g.pos q) 0) at' s fl m a e pk k).out
      bs := bitOf 0 (e k).1 :: (gathered q (roleOf (orderStreams g.n g.pos q) 0) at' s fl m a e pk k).bs }
      (by rw [Run.note_quiet hq]; rfl) (by rw [Run.note_quiet hq]; exact hp)
    refine ⟨pk', hp', ?_⟩
    rw [elemStep, if_pos rfl, he, Run.note_quiet hq]
    simp [gathered, orFlags_succ, List.range_succ, maskedElems, hm, passed, BitVec.or_assoc]
  | false =>
    by_cases hz : oMz q.bits = true
    · obtain ⟨pk', hp', he⟩ := hput 0 { gathered q (roleOf (orderStreams g.n g.pos q) 0) at' s fl m a e pk k with
        out := passed q false (a k) (e k).1 :: (gathered q (roleOf (orderStreams g.n g.pos q) 0) at' s fl m a e pk k).out
        bs := false :: (gathered q (roleOf (orderStreams g.n g.pos q) 0) at' s fl m a e pk k).bs } rfl hp
      refine ⟨pk', hp', ?_⟩
      rw [elemStep, if_neg (by decide), if_pos hz, he]
      simp [gathered, orFlags_succ, List.range_succ, maskedElems, hm, hz]
    · refine ⟨pk, hp, ?_⟩
      rw [elemStep, if_neg (by decide), if_neg hz]
      simp [gathered, orFlags_succ, List.range_succ, maskedElems, hm, hz]

/-- The elements of an order one after the other, each as `elemStep` says. -/
theorem foldl_gathered (hv : elementwise q.op) (hl : Lands n g q at' W s) (hq : g.trapen = 0) {f : Acc1 → Nat → Acc1}
    (hf : ∀ i acc, i < g.n → acc.r.s = s → Packed W acc.r → ∃ pk, Packed W { acc.r with pk := pk } ∧
      f acc i = elemStep n g q (roleOf (orderStreams g.n g.pos q) 0) (m i) (a i) (e i) i { acc with r := { acc.r with pk := pk } })
    {k : Nat} (hk : k ≤ g.n) :
    ∃ pk, Packed W ⟨s, false, none, 0, pk⟩ ∧ (List.range k).foldl f ⟨⟨s, false, none, fl, none⟩, [], [], [], 0⟩ =
      gathered q (roleOf (orderStreams g.n g.pos q) 0) at' s fl m a e pk k := by
  induction k with
  | zero => exact ⟨none, fun _ _ h => absurd h (by simp), by simp [gathered, orFlags, maskedElems]⟩
  | succ k ih =>
    obtain ⟨p1, h1, e1⟩ := ih (Nat.le_of_succ_le hk)
    obtain ⟨p2, h2, e2⟩ := hf k (gathered q (roleOf (orderStreams g.n g.pos q) 0) at' s fl m a e p1 k) hk rfl h1
    obtain ⟨p3, h3, e3⟩ := elemStep_gathered (fl := fl) (m := m) (a := a) (e := e) hv hl hq h2 hk
    refine ⟨p3, h3, ?_⟩
    rw [List.range_succ, List.foldl_append, List.foldl_cons, List.foldl_nil, e1, e2, ← e3]
    rfl

/-- The run of an elementwise order. -/
theorem runOrder_gathers (hv : elementwise q.op) (hl : Lands n g q at' W s) (hq : g.trapen = 0)
    (hf : ∀ i acc, i < g.n → acc.r.s = s → Packed W acc.r → ∃ pk, Packed W { acc.r with pk := pk } ∧
      runElem n g (orderStreams g.n g.pos q) q ((scalarK q.bits q.k).getD 0) acc i =
        elemStep n g q (roleOf (orderStreams g.n g.pos q) 0) (m i) (a i) (e i) i { acc with r := { acc.r with pk := pk } }) :
    ∃ pk, runOrder n g q ⟨s, false, none, fl, none⟩ =
      ⟨⟨s, false, none, fl ||| orFlags g.n fun i => if m i then (e i).2 else 0, pk⟩,
        (List.range g.n).map fun i => passed q (m i) (a i) (e i).1,
        maskedWords q m (roleOf (orderStreams g.n g.pos q) 0) at' g.n fun i => (e i).1, none⟩ := by
  obtain ⟨pk, -, he⟩ := foldl_gathered (fl := fl) hv hl hq hf (Nat.le_refl g.n)
  refine ⟨pk, ?_⟩
  rw [runOrder_elementwise hv, he]
  simp [closeAcc, gathered, maskedWords, dstWords_eq]

end

/-! ## The order in its group (R88, R98) -/

/-- The next order of a group runs to its end: what it leaves in its group. -/
theorem runOp_leaves {n : Cl} {gid : Nat} {g : Group} {q : QOrder} {s : State} (hr : Runs n gid g q s) {out : List DWord}
    {fl : BitVec 5} {ws : List WWord} {pk : Option ((Nat × Nat × Nat) × Word)}
    (hres : runOrder n g q ⟨s, false, none, g.flags, none⟩ = ⟨⟨s, false, none, g.flags ||| fl, pk⟩, out, ws, none⟩) :
    runOp q.op n gid s = leaves n g out fl ws s := by
  obtain ⟨h, hh, hg⟩ := hr.found
  obtain ⟨w, rfl⟩ : ∃ w, g = { h with wset := w } := by
    rw [hg]
    split
    · exact ⟨_, rfl⟩
    · exact ⟨h.wset, rfl⟩
  have hrun : microRun n gid s = s := microRun_done hh hr.rom
  have hnext : h.orders[h.pos]? = some q := hr.next
  have hcalm : h.exc = none := hr.calm
  have hguard : ¬ (h.phase ≠ .running ∨ q.op ≠ q.op ∨ pausedGroup n h s = true) := by
    have hfree : pausedGroup n h s = false := hr.free
    simp [show h.phase = .running from hr.phase, hfree]
  rw [← hcalm] at hres
  simp only [runOp, hr.on, if_true, hrun, hh, Bool.not_true, Bool.false_eq_true, if_false, hnext, if_neg hguard, ← hg, hres]
  simp only [hcalm, leaves]

theorem exec_elementOps (n : Cl) (gid : Nat) (s : State) :
    ∀ p ∈ elementOps, exec (p.2 n gid) s = .next (runOp p.1 n gid s) := by
  simp only [elementOps, List.forall_mem_cons]
  and_intros
  case refine_2 => exact fun _ h => absurd h List.not_mem_nil
  all_goals rfl

/-- The next order of a group is elementwise: what its command leaves. -/
theorem exec_elementwise {n : Cl} {gid : Nat} {g : Group} {q : QOrder} {at' : Nat → Int} {W : Nat × Nat × Nat → Word} {s : State}
    {m : Nat → Bool} {a : Nat → DWord} {e : Nat → DWord × Fl} {i : Instr} (hr : Runs n gid g q s) (hl : Lands n g q at' W s)
    (hv : elementwise q.op) (hi : exec i s = .next (runOp q.op n gid s))
    (hf : ∀ i acc, i < g.n → acc.r.s = s → Packed W acc.r → ∃ pk, Packed W { acc.r with pk := pk } ∧
      runElem n g (orderStreams g.n g.pos q) q ((scalarK q.bits q.k).getD 0) acc i =
        elemStep n g q (roleOf (orderStreams g.n g.pos q) 0) (m i) (a i) (e i) i { acc with r := { acc.r with pk := pk } }) :
    exec i s = .next (leaves n g ((List.range g.n).map fun i => passed q (m i) (a i) (e i).1)
      (orFlags g.n fun i => if m i then (e i).2 else 0)
      (maskedWords q m (roleOf (orderStreams g.n g.pos q) 0) at' g.n fun i => (e i).1) s) := by
  obtain ⟨pk, hrun⟩ := runOrder_gathers (fl := g.flags) hv hl hr.quiet hf
  rw [hi, runOp_leaves hr hrun]

/-! ## The range of I24 (R128, R129) -/

theorem tyInt_i24 (a : DWord) : tyInt 2 a = (a.setWidth 24).toInt := by
  rw [BitVec.toInt_eq_toNat_cond, BitVec.toNat_setWidth]
  simp only [tyInt, tyU, tyClass, tyBits, tyWords]
  simp
  omega

/-- Without SAT an exact result wraps. -/
theorem fitTy_i24_wraps (v : Int) : fitTy 2 false v = ((BitVec.ofInt 24 v).setWidth 48, 0) := by
  simp [fitTy, narrow, intPat, tyBits, tyWords]

/-- With SAT = 1 an exact result keeps to the range. -/
theorem fitTy_i24_saturates (v : Int) : fitTy 2 true v = ((BitVec.ofInt 24 (max (-(2 ^ 23)) (min v (2 ^ 23 - 1)))).setWidth 48,
    if v < -(2 ^ 23) ∨ 2 ^ 23 ≤ v then flOF else 0) := by
  have hr : intRange (tyBits 2) (tyU 2) = (-(2 ^ 23), 2 ^ 23 - 1) := by decide
  simp only [fitTy, narrow, hr, intPat]
  by_cases hlo : v < -(2 ^ 23)
  · rw [if_neg (by omega), if_true, if_pos hlo, if_pos (.inl hlo), min_eq_left (by omega), max_eq_left (by omega)]; rfl
  · by_cases hhi : 2 ^ 23 ≤ v
    · rw [if_neg (by omega), if_true, if_neg hlo, if_pos (.inr hhi), min_eq_right (by omega), max_eq_right (by omega)]; rfl
    · rw [if_pos (by omega), if_neg (by omega), min_eq_left (by omega), max_eq_right (by omega)]; rfl

/-- The integer orders on I24 bring their exact results into the range. -/
theorem elemOf_i24 {o : Order96} (h : oTy o = 2) (a b c k : DWord) (i : Nat) :
    ∀ p ∈ [(VOp.vadd, (a.setWidth 24).toInt + (b.setWidth 24).toInt), (.vsub, (a.setWidth 24).toInt - (b.setWidth 24).toInt),
        (.vrsub, (b.setWidth 24).toInt - (a.setWidth 24).toInt), (.vadds, (a.setWidth 24).toInt + (k.setWidth 24).toInt),
        (.vneg, -(a.setWidth 24).toInt), (.vabs, |(a.setWidth 24).toInt|),
        (.vmin, min (a.setWidth 24).toInt (b.setWidth 24).toInt), (.vmax, max (a.setWidth 24).toInt (b.setWidth 24).toInt),
        (.viota, (k.setWidth 24).toInt + i)],
      elemOf p.1 o a b c k i = fitTy 2 (oSat o) p.2 := by
  have hf : tyF 2 = false := by decide
  have habs (x : Int) : (if x < 0 then -x else x) = |x| := by rw [abs_eq_max_neg]; split <;> omega
  have hmin (x y : Int) : (if y < x then y else x) = min x y := by split <;> omega
  have hmax (x y : Int) : (if x < y then y else x) = max x y := by split <;> omega
  simp only [List.forall_mem_cons, elemOf, iElem, h, hf, tyInt_i24, Bool.false_eq_true, if_false, habs, hmin, hmax, true_and]
  exact fun _ hp => absurd hp List.not_mem_nil

end Sys2Proof.Machine

namespace Sys2Proof.Proofs

open Sys2Proof.Machine Sys2Proof.Claims

/-- Settles O26: the elements of an order one after the other, and the exact integer results brought into their range. -/
theorem elementOrdersAndTheirRange : Obligations.ElementOrdersAndTheirRange := by
  unfold Obligations.ElementOrdersAndTheirRange
  refine ⟨fun n gid g q m a b c at' W s hr hm ha hc hl => ⟨fun hb => ⟨fun p hp hv => ?_, fun hv => ?_⟩, fun e hv he => ?_⟩,
    fun o a b c k i h p hp => ⟨fun hsat => ?_, fun hsat => ?_⟩⟩
  · have hmem : p.1 ∈ elementOps.map (·.1) := List.mem_map_of_mem hp
    have hsel : ∀ v ∈ elementOps.map (·.1), v ≠ .vsel ∧ v ≠ .vintp := by decide
    rw [← hv] at hmem ⊢
    refine exec_elementwise hr hl (List.mem_append_left _ hmem) ?_ fun i acc hi hs hw =>
      runElem_elementOps _ hm ha hb hc (hsel _ hmem).1 (hsel _ hmem).2 hi hs hw
    rw [exec_elementOps n gid s p hp, hv]
  · have hex := exec_elementwise (i := .vsel n gid) hr hl (by rw [hv]; unfold elementwise; decide) (by rw [hv]; rfl) fun i acc hi hs hw =>
      runElem_vsel _ hm ha hb hc hv hi hs hw
    simpa [passed, orFlags_zero] using hex
  · exact exec_elementwise (i := .vintp n gid) hr hl (by rw [hv]; unfold elementwise; decide) (by rw [hv]; rfl) fun i acc hi hs hw =>
      runElem_vintp _ hm ha hc hv he hi hs hw
  · rw [elemOf_i24 h a b c k i p hp, hsat, fitTy_i24_wraps]
  · rw [elemOf_i24 h a b c k i p hp, hsat, fitTy_i24_saturates]

end Sys2Proof.Proofs
end
section
/-!
PROOFS. Groups and their streams: what starting, writing and completing a group leaves alone (O25).
-/
namespace Sys2Proof.Machine

open Sys2Proof.Claims

/-! ## The group of a number -/

theorem gid_of_group? {n : Cl} {gid : Nat} {g : Group} {s : State} (h : group? n gid s = some g) : g.gid = gid := by
  simpa using List.find?_some h

theorem group?_congr {n : Cl} {s t : State} (h : (t.cl n).groups = (s.cl n).groups) (gid : Nat) :
    group? n gid t = group? n gid s := by
  rw [group?, h, group?]

theorem group?_putGroup {n : Cl} {gid : Nat} {g g' : Group} {s : State} (h : group? n gid s = some g) (hg : g'.gid = gid) :
    group? n gid (putGroup n g' s) = some g' := by
  subst hg
  have hmap : ∀ l : List Group, l.find? (fun x => x.gid == g'.gid) = some g →
      (l.map fun x => if x.gid = g'.gid then g' else x).find? (fun x => x.gid == g'.gid) = some g' := by
    intro l hl
    induction l with
    | nil => exact absurd hl (by simp)
    | cons x l ih =>
      by_cases hx : x.gid = g'.gid
      · simp [hx]
      · simp only [List.map_cons, if_neg hx, List.find?_cons_of_neg (p := fun x => x.gid == g'.gid) (a := x) (by simpa using hx)] at hl ⊢
        exact ih hl
  rw [group?, putGroup, modCl_cl_self]
  exact hmap _ h

/-- A reading of the clusters that their groups have no part in. -/
theorem putGroup_cl_keeps {γ : Type} {f : Cluster → γ} (h : ∀ gs c, f { c with groups := gs } = f c) (n : Cl) (g : Group) (m : Cl)
    (s : State) : f ((putGroup n g s).cl m) = f (s.cl m) :=
  modCl_keeps (fun c => h _ c) n m s

@[simp] theorem putGroup_mem (n : Cl) (g : Group) (s : State) : (putGroup n g s).mem = s.mem := rfl
@[simp] theorem putGroup_hub (n : Cl) (g : Group) (s : State) : (putGroup n g s).hub = s.hub := rfl

/-! ## The masters of R169 -/

/-- A reading of the state that the list of the masters that ask has no part in. -/
theorem groupAsks_keeps {γ : Type} {f : State → γ} (h : ∀ m ks t, f (t.modCl m (ask ks)) = f t) (n : Cl) (num : Nat) (g : Group)
    (s : State) : f (groupAsks n num g s) = f s := by
  refine foldl_keeps f (fun t x => ?_) _ s
  split <;> exact h _ _ t

@[simp] theorem groupAsks_mem (n : Cl) (num : Nat) (g : Group) (s : State) : (groupAsks n num g s).mem = s.mem :=
  groupAsks_keeps (f := State.mem) (fun _ _ _ => rfl) n num g s
@[simp] theorem groupAsks_hub (n : Cl) (num : Nat) (g : Group) (s : State) : (groupAsks n num g s).hub = s.hub :=
  groupAsks_keeps (f := State.hub) (fun _ _ _ => rfl) n num g s

theorem groupAsks_cl {γ : Type} {f : Cluster → γ} (h : ∀ ks c, f (ask ks c) = f c) (n m : Cl) (num : Nat) (g : Group) (s : State) :
    f ((groupAsks n num g s).cl m) = f (s.cl m) :=
  groupAsks_keeps (f := fun t => f (t.cl m)) (fun k ks t => modCl_keeps (h ks) k m t) n num g s

/-! ## The routine of a group (R278) -/

/-- What a routine of the ROM alone turns on: the bad cells of the control store and the two halves of the patch RAM. -/
theorem microQuiet_congr {c d : Cluster} (hu : c.ubad = d.ubad) (ha : c.patchA = d.patchA) (hb : c.patchB = d.patchB)
    (half : Option Bool) : microQuiet half c = microQuiet half d := by
  cases half with
  | none => simp only [microQuiet, hu]
  | some b => cases b <;> simp [microQuiet, ucHalf, hu, ha, hb]

/-! ## A group starts (R78, R98, R156) -/

/-- The group as it opens its streams. -/
def openedGroup (n : Cl) (g : Group) (red : Bool) (s : State) : Group :=
  { g with
    phase := .running
    n := groupN g.orders
    trapen := ioGet 0x1D1 (s.cl n)
    redAdd := red
    patchB := activeHalf n s
    micro := some (microStart 0 (g.orders.map fun q => oOpc q.bits)) }

/-- The state in which a group that may start runs. -/
def begunState (n : Cl) (g : Group) (red : Bool) (filled : SMap (Option Word)) (s : State) : State :=
  putGroup n { openedGroup n g red s with filled := filled, seed := s.fresh }
    (groupAsks n (groupN g.orders) g { s with fresh := s.fresh + overlapKeys })

section
variable {n : Cl} {gid : Nat} {g : Group} {red : Bool} {s : State} {filled : SMap (Option Word)}

theorem groupBegin_opens (hn : groupN g.orders ≠ 0) (hmax : groupN g.orders ≤ 4096) (hf : groupFault g.orders = none)
    (hopen : openFault n g (groupN g.orders) s = none) (hfree : pausedGroup n g s = false)
    (hread : openReads n (openedGroup n g red s) ⟨s, false, none, 0, none⟩ = (⟨s, false, none, 0, none⟩, filled)) :
    groupBegin n g red s = begunState n g red filled s := by
  rw [openedGroup] at hread
  simp only [groupBegin, if_neg hn, hf, Option.isSome_none, Bool.false_eq_true, if_false, Nat.not_lt.mpr hmax, false_and, hopen,
    hread, hfree, Bool.or_self]
  rfl

theorem group?_begunState (hg : group? n gid s = some g) :
    group? n gid (begunState n g red filled s) = some { openedGroup n g red s with filled := filled, seed := s.fresh } := by
  have hgid : g.gid = gid := gid_of_group? hg
  refine group?_putGroup (g := g) ?_ hgid
  rw [← hg]
  exact group?_congr (groupAsks_cl (f := Cluster.groups) (fun _ _ => rfl) n n _ g _) gid

theorem microQuiet_begunState (half : Option Bool) :
    microQuiet half ((begunState n g red filled s).cl n) = microQuiet half (s.cl n) := by
  have hcl {γ : Type} {f : Cluster → γ} (hgs : ∀ gs c, f { c with groups := gs } = f c) (hask : ∀ ks c, f (ask ks c) = f c) :
      f ((begunState n g red filled s).cl n) = f (s.cl n) :=
    (putGroup_cl_keeps hgs ..).trans (groupAsks_cl hask ..)
  exact microQuiet_congr (hcl (f := Cluster.ubad) (fun _ _ => rfl) fun _ _ => rfl)
    (hcl (f := Cluster.patchA) (fun _ _ => rfl) fun _ _ => rfl) (hcl (f := Cluster.patchB) (fun _ _ => rfl) fun _ _ => rfl) half

/-- The count of a start is a matter of the event counters alone. -/
theorem startCount_keeps {γ : Type} {f : State → γ} (h : ∀ t, f (t.modCl n (evcEvent 0x0C 1)) = f t) (x : Group) (t : State) :
    f (startCount n x t) = f t := reads_ite (h t) rfl

theorem evcEvent_ubad (sel k : Nat) (c : Cluster) : (evcEvent sel k c).ubad = c.ubad :=
  evcEvent_blind (g := Cluster.ubad) (fun _ _ _ _ => rfl) sel k c
theorem evcEvent_patchA (sel k : Nat) (c : Cluster) : (evcEvent sel k c).patchA = c.patchA :=
  evcEvent_blind (g := Cluster.patchA) (fun _ _ _ _ => rfl) sel k c
theorem evcEvent_patchB (sel k : Nat) (c : Cluster) : (evcEvent sel k c).patchB = c.patchB :=
  evcEvent_blind (g := Cluster.patchB) (fun _ _ _ _ => rfl) sel k c

theorem microQuiet_evcEvent (half : Option Bool) (sel k : Nat) (c : Cluster) :
    microQuiet half (evcEvent sel k c) = microQuiet half c :=
  microQuiet_congr (evcEvent_ubad ..) (evcEvent_patchA ..) (evcEvent_patchB ..) half

/-- A group that may start runs; its routine has no more to do than its orders. -/
theorem groupStarts (hg : group? n gid s = some g) (hn : groupN g.orders ≠ 0) (hmax : groupN g.orders ≤ 4096)
    (hf : groupFault g.orders = none) (hopen : openFault n g (groupN g.orders) s = none) (hfree : pausedGroup n g s = false)
    (hrom : microQuiet (activeHalf n s) (s.cl n) = true)
    (hread : openReads n (openedGroup n g red s) ⟨s, false, none, 0, none⟩ = (⟨s, false, none, 0, none⟩, filled)) :
    let t := microRun n g.gid (startCount n g (groupBegin n g red s))
    t.mem = s.mem ∧ t.hub = s.hub ∧ group? n gid t = some { openedGroup n g red s with filled := filled, seed := s.fresh } := by
  have hgid := gid_of_group? hg
  rw [groupBegin_opens hn hmax hf hopen hfree hread, hgid]
  have hgrp : group? n gid (startCount n g (begunState n g red filled s)) =
      some { openedGroup n g red s with filled := filled, seed := s.fresh } := by
    rw [startCount_keeps (f := group? n gid) fun t => group?_congr (by simp) gid]
    exact group?_begunState hg
  have hquiet : microQuiet (activeHalf n s) ((startCount n g (begunState n g red filled s)).cl n) = true := by
    rw [startCount_keeps (f := fun t => microQuiet (activeHalf n s) (t.cl n)) fun t => by rw [modCl_cl_self, microQuiet_evcEvent],
      microQuiet_begunState, hrom]
  rw [microRun_done hgrp (by rw [microDone]; simp only [openedGroup, hquiet, Bool.true_or])]
  refine ⟨?_, ?_, hgrp⟩
  · rw [startCount_keeps (f := State.mem) fun _ => rfl, begunState, putGroup_mem, groupAsks_mem]
  · rw [startCount_keeps (f := State.hub) fun _ => rfl, begunState, putGroup_hub, groupAsks_hub]

theorem execGroupStart_starts (hc : clocked n s = true) (hg : group? n gid s = some g) (hp : g.phase = .waiting)
    (hmay : mayStart (stuckGroup n s) g (s.cl n) = some red) :
    exec (.groupStart n gid) s = .next (microRun n g.gid (startCount n g (groupBegin n g red s))) := by
  show execGroupStart n gid s = _
  simp [execGroupStart, onIsland_eq hc, hg, hp, hmay]

theorem execGroupRestart_starts (hc : clocked n s = true) (hg : group? n gid s = some g)
    (hp : g.phase = .abandoned ∨ g.phase = .displaced) (hmay : mayStart (stuckGroup n s) g (s.cl n) = some red) :
    exec (.groupRestart n gid) s = .next (microRun n g.gid (startCount n g (groupBegin n g red s))) := by
  show execGroupRestart n gid s = _
  have hph : ¬ (g.phase = .waiting ∨ g.phase = .running) := by
    obtain h | h := hp <;> simp [h]
  simp only [execGroupRestart, onIsland_eq hc, hg, if_neg hph, hmay]

end

/-! ## The words of a group reach their bank (R107, R166) -/

theorem regionOf_lsAddr (n : Cl) {off : Nat} (h : off < 0x40000) : regionOf (lsAddr n off) = .ls n off := by
  have hn := n.isLt
  have hdiv : lsAddr n off / 2 ^ 22 = n.val := by unfold lsAddr; omega
  have hmod : lsAddr n off % 2 ^ 22 = off := by unfold lsAddr; omega
  have hlt : lsAddr n off < 2 ^ 30 := by unfold lsAddr; omega
  have hcl : clOf n.val = n := Fin.ext (Nat.mod_eq_of_lt hn)
  simp only [regionOf, hlt, if_true, hdiv, hmod, hcl, h]

theorem ownCode_putGroup (i : Nat) (n : Cl) (g : Group) (s : State) : ownCode i ((putGroup n g s).cl n) = ownCode i (s.cl n) :=
  putGroup_cl_keeps (f := ownCode i) (fun _ _ => rfl) n g n s

theorem portHeld_putGroup (i : Nat) (n : Cl) (g : Group) (s : State) : portHeld i ((putGroup n g s).cl n) = portHeld i (s.cl n) :=
  putGroup_cl_keeps (f := portHeld i) (fun _ _ => rfl) n g n s

theorem badRow?_putGroup (off : Nat) (n : Cl) (g : Group) (s : State) :
    badRow? ((putGroup n g s).cl n) off = badRow? (s.cl n) off :=
  putGroup_cl_keeps (f := fun c => badRow? c off) (fun _ _ => rfl) n g n s

section
variable {n : Cl} {off k : Nat} {s : State}

/-- A cluster's own words stay its own while one of its groups changes and memory is written. -/
theorem ownWords_putGroup_memPut (h : OwnWords n off k s) (g : Group) (a : Nat) (v : Word) :
    OwnWords n off k (putGroup n g (memPut a v s)) where
  inside := h.inside
  owner := fun i hi => by
    rw [ownCode_putGroup, portHeld_putGroup, memPut_cl]
    exact h.owner i hi
  good := fun i hi => by
    rw [badRow?_putGroup, memPut_cl]
    exact h.good i hi

theorem ownerAdmits_stream {c : Cluster} {i : Nat} (h : ownCode i c = 0) : ownerAdmits n c i (.stream n) = true := by
  unfold ownerAdmits
  generalize ownCode i c = code at h ⊢
  subst h
  exact beq_self_eq_true n

theorem ownCheck_stream_own (h : OwnWords n off k s) {i : Nat} (hi : i < k) : ownCheck n (off + i) (.stream n) s = none := by
  have hin : off + i < 0x40000 := by have := h.inside; omega
  have hplot : plotOf (off + i) = ((off + i) / 0x4000, (off + i) % 0x4000) := if_pos hin
  obtain ⟨hcode, hheld⟩ := h.owner i hi
  simp [ownCheck, hplot, ownAgent, ownerAdmits_stream hcode, hheld]

theorem modCl_ask_nil (n : Cl) (s : State) : s.modCl n (ask []) = s := by
  have hask : ∀ c : Cluster, ask [] c = c := fun c => by
    unfold ask
    rw [List.filter_nil, List.append_nil]
  rw [modCl_eq, hask, putCl_cl_same]

theorem agentWrite_ls {g : Agent} {a : Nat} (v : Word) (hr : regionOf a = .ls n off) (hc : ownCheck n off g s = none) :
    agentWrite g a v s = (.ok 0, memPut a v (s.modCl n (ask (asker g)))) := by
  simp only [agentWrite, hr, hc]

theorem asker_stream (n : Cl) : asker (.stream n) = [] := rfl

/-- A stream writes a word of its own cluster's local store. -/
theorem agentWrite_stream_own (h : OwnWords n off k s) {i : Nat} (hi : i < k) (v : Word) :
    agentWrite (.stream n) (lsAddr n (off + i)) v s = (.ok 0, memPut (lsAddr n (off + i)) v s) := by
  have hin : off + i < 0x40000 := by have := h.inside; omega
  rw [agentWrite_ls v (regionOf_lsAddr n hin) (ownCheck_stream_own h hi), asker_stream, modCl_ask_nil]

/-- A write of some of a row's words leaves a row without an error as it is. -/
theorem rowWritten_good (h : badRow? (s.cl n) off = none) (whole : Bool) : rowWritten n off whole s = s := by
  have hput : ∀ p : Bool, (s.modCl n fun c => match badRow? c off with
      | none => c
      | some b => setBadRow b.bank b.row (fun x => { x with poisoned := p, double := false }) c) = s := fun p => by
    rw [modCl_eq, h, putCl_cl_same]
  cases whole with
  | true => exact hput false
  | false => simp only [rowWritten, lsRead, h, Bool.false_eq_true, if_false, if_true]

/-- An access to words of one row without an error leaves the errors of rows and lines as they are. -/
theorem wrote_good (hrow : badRow? (s.cl n) off = none) (hoff : off < 0x40000) {as : List Nat}
    (has : ∀ a ∈ as, 4 * (a / 4) = lsAddr n off) : wrote as s = s := by
  have hq : ∀ q ∈ (as.map (· / 4)).eraseDups, 4 * q = lsAddr n off := by
    simpa [List.mem_eraseDups] using has
  suffices h : ∀ l : List Nat, (∀ q ∈ l, 4 * q = lsAddr n off) → l.foldl (fun t q =>
      let all (k : Nat) : Bool := (List.range k).all fun i => as.contains (4 * q + i)
      match regionOf (4 * q) with
      | .ls n off => rowWritten n off (all 4) t
      | .deep off => if off % 32 = 0 ∧ all 32 then clearLine (lineOf off) t else t
      | _ => t) s = s from h _ hq
  intro l hl
  induction l with
  | nil => rfl
  | cons q l ih =>
    rw [List.foldl_cons, hl q List.mem_cons_self, regionOf_lsAddr n hoff]
    simp only [rowWritten_good hrow]
    exact ih fun q hq => hl q (List.mem_cons_of_mem _ hq)

/-- A group once a word of its has reached its bank; `s` is the state before. -/
def wordLeft (g : Group) (w : WWord) (s : State) : Group :=
  { g with
    wbuf := g.wbuf.erase w
    committed := g.committed || inReadRange g w.addr ||
      (decide (g.pos = g.orders.length) && decide (g.wbuf.length ≤ 1) && g.exc.isNone)
    wby := smPut 0 g.wby w.addr (w.pos + 1)
    wlog := if (smAt none g.wlog w.addr).isSome then g.wlog else smPut none g.wlog w.addr (some (memGet w.addr s)) }

theorem drainOne_own (h : OwnWords n off k s) {g : Group} {w : WWord} {i : Nat} (hi : i < k) (hw : w.addr = lsAddr n (off + i))
    (hby : smAt 0 g.wby w.addr ∈ [0, w.pos + 1]) :
    drainOne n g w s = some (true, putGroup n (wordLeft g w s) (memPut w.addr w.word s)) := by
  have hrival : (decide (smAt 0 g.wby w.addr ≠ 0) && decide (smAt 0 g.wby w.addr ≠ w.pos + 1)) = false := by
    rw [List.mem_cons, List.mem_singleton] at hby
    obtain h0 | h1 := hby
    · simp [h0]
    · simp [h1]
  have hwrite : agentWrite (.stream n) w.addr w.word s = (.ok 0, memPut w.addr w.word s) := hw ▸ agentWrite_stream_own h hi w.word
  simp only [drainOne, hrival, Bool.false_and, Bool.false_eq_true, if_false, hwrite]
  rfl

end

/-- What the drain of the words `ws` of a running group leaves: `g` and `s` before, `t` behind. -/
structure Drained (n : Cl) (gid : Nat) (ws : List WWord) (g : Group) (s t : State) : Prop where
  words : ∀ w ∈ ws, memGet w.addr t = w.word
  others : ∀ a, (∀ w ∈ ws, a ≠ w.addr) → memGet a t = memGet a s
  hub : t.hub = s.hub
  group : ∃ g', group? n gid t = some g' ∧ g'.wbuf = ws.foldl (fun l w => l.erase w) g.wbuf ∧ g'.pos = g.pos ∧ g'.phase = .running

theorem drainWords_own {n : Cl} {gid off : Nat} (ws : List WWord) : ∀ (as : List Nat) {g : Group} {s : State},
    OwnWords n off 4 s → group? n gid s = some g → g.phase = .running → (ws.map (·.addr)).Nodup →
    (∀ w ∈ ws, smAt 0 g.wby w.addr ∈ [0, w.pos + 1]) → (∀ w ∈ ws, ∃ i < 4, w.addr = lsAddr n (off + i)) →
    (drainWords n gid ws as s).1 = (ws.map (·.addr)).reverse ++ as ∧ OwnWords n off 4 (drainWords n gid ws as s).2 ∧
      Drained n gid ws g s (drainWords n gid ws as s).2 := by
  induction ws with
  | nil => exact fun as g s hown hg hp _ _ _ => ⟨rfl, hown, by simp, fun _ _ => rfl, rfl, g, hg, rfl, rfl, hp⟩
  | cons w ws ih =>
    intro as g s hown hg hp hnd hby hat
    obtain ⟨i, hi, hw⟩ := hat w List.mem_cons_self
    obtain ⟨hnew, hnd⟩ := List.nodup_cons.mp hnd
    have hne : ∀ y ∈ ws, w.addr ≠ y.addr := fun y hy h =>
      hnew (List.mem_map.mpr ⟨y, hy, h.symm⟩)
    have hone := drainOne_own hown hi hw (hby w List.mem_cons_self)
    have hg' : group? n gid (putGroup n (wordLeft g w s) (memPut w.addr w.word s)) = some (wordLeft g w s) :=
      group?_putGroup (g := g) hg (gid_of_group? hg :)
    have hstep : drainWords n gid (w :: ws) as s =
        drainWords n gid ws (w.addr :: as) (putGroup n (wordLeft g w s) (memPut w.addr w.word s)) := by
      simp only [drainWords, hg, Option.filter, hp, beq_self_eq_true, if_true, hone]
    rw [hstep]
    obtain ⟨has, hown', ⟨hwords, hothers, hhub, g', hgrp, hbuf, hpos, hrun⟩⟩ :=
      ih (w.addr :: as) (ownWords_putGroup_memPut hown (wordLeft g w s) w.addr w.word) hg' hp hnd
        (fun y hy => by
          rw [wordLeft, smAt_smPut, if_neg (hne y hy)]
          exact hby y (List.mem_cons_of_mem _ hy))
        fun y hy => hat y (List.mem_cons_of_mem _ hy)
    have hmem : ∀ a, memGet a (putGroup n (wordLeft g w s) (memPut w.addr w.word s)) = if w.addr = a then w.word else memGet a s :=
      fun a => memGet_memPut w.addr a w.word s
    refine ⟨by simpa using has, hown', ⟨fun y hy => ?_, fun a ha => ?_, hhub, g', hgrp, hbuf, hpos, hrun⟩⟩
    · obtain rfl | hy := List.mem_cons.mp hy
      · rw [hothers _ hne, hmem, if_pos rfl]
      · exact hwords y hy
    · rw [hothers a fun y hy => ha y (List.mem_cons_of_mem _ hy), hmem, if_neg (Ne.symm (ha w List.mem_cons_self))]

/-- The words of the next drain lie in the row of the first buffered one. -/
theorem addr_of_mem_drainRow {n : Cl} {off : Nat} {g : Group} (hhead : ∀ w, g.wbuf.head? = some w → w.addr = lsAddr n off)
    {w : WWord} (hw : w ∈ drainRow g) : ∃ i < 4, w.addr = lsAddr n (off / 4 * 4 + i) := by
  unfold drainRow at hw
  split at hw
  · exact absurd hw List.not_mem_nil
  next x l hbuf =>
    have hx : x.addr = lsAddr n off := hhead x (by rw [hbuf]; rfl)
    have hrow : w.addr / 4 = lsAddr n off / 4 := by
      have := (List.mem_filter.mp hw).2
      rw [Bool.and_eq_true, decide_eq_true_eq, hx] at this
      exact this.1
    refine ⟨w.addr % 4, Nat.mod_lt _ (by decide), ?_⟩
    unfold lsAddr at hrow ⊢
    omega

theorem drainWord_own {n : Cl} {gid off : Nat} {g : Group} {s : State} (hg : group? n gid s = some g) (hp : g.phase = .running)
    (hfree : pausedGroup n g s = false) (hhead : ∀ w, g.wbuf.head? = some w → w.addr = lsAddr n off)
    (hown : OwnWords n (off / 4 * 4) 4 s) (hnd : ((drainRow g).map (·.addr)).Nodup)
    (hby : ∀ w ∈ drainRow g, smAt 0 g.wby w.addr ∈ [0, w.pos + 1]) : Drained n gid (drainRow g) g s (drainWord n gid s) := by
  have hat : ∀ w ∈ drainRow g, ∃ i < 4, w.addr = lsAddr n (off / 4 * 4 + i) := fun w hw => addr_of_mem_drainRow hhead hw
  obtain ⟨has, hown', hdrained⟩ := drainWords_own (drainRow g) [] hown hg hp hnd hby hat
  have hrun : ¬ (g.phase ≠ .running ∨ pausedGroup n g s = true) := by simp [hp, hfree]
  have hin : off / 4 * 4 < 0x40000 := by have := hown.inside; omega
  have hw : wrote (drainWords n gid (drainRow g) [] s).1 (drainWords n gid (drainRow g) [] s).2 =
      (drainWords n gid (drainRow g) [] s).2 := by
    refine wrote_good (hown'.good 0 (by decide)) hin fun a ha => ?_
    rw [has, List.append_nil, List.mem_reverse, List.mem_map] at ha
    obtain ⟨w, hw, rfl⟩ := ha
    obtain ⟨i, hi, hwi⟩ := hat w hw
    rw [hwi]
    unfold lsAddr
    omega
  simp only [drainWord, hg, if_neg hrun, hw]
  exact hdrained

/-! ## A group completes (R97, R135, R163) -/

section
variable {n : Cl} {gid : Nat} {g : Group} {s : State}

/-- The cluster without an ended group: its flags accrued, its masks in their registers. -/
def groupGone (gid : Nat) (g : Group) (c : Cluster) : Cluster :=
  let c1 := ioPut 0x1D0 (ioGet 0x1D0 c ||| g.flags.setWidth 24) c
  { c1 with
    groups := c1.groups.filter (fun z => z.gid ≠ gid),
    masks := g.masks.foldl (fun m p => match p.2 with | none => m | some b => smPut 0 m p.1 b) c1.masks }

/-- What an ended group leaves of its cluster; NOTIFY raises input 2. -/
def endedCluster (gid : Nat) (g : Group) (c : Cluster) : Cluster :=
  if g.notify then irqRaise 2 (groupGone gid g c) else groupGone gid g c

theorem endedCluster_groups (c : Cluster) : (endedCluster gid g c).groups = c.groups.filter fun z => z.gid ≠ gid :=
  reads_ite (g := Cluster.groups) rfl rfl

theorem endedCluster_masks {m : Nat} {b : BitVec 4096} (h : g.masks = [(m, some b)]) (c : Cluster) :
    (endedCluster gid g c).masks = smPut 0 c.masks m b := by
  have hmasks : g.masks.foldl (fun m p => match p.2 with | none => m | some b => smPut 0 m p.1 b) c.masks = smPut 0 c.masks m b := by
    rw [h]
    rfl
  rw [← hmasks]
  exact reads_ite (g := Cluster.masks) rfl rfl

theorem ioGet_irqRaise (k o : Nat) (c : Cluster) :
    ioGet o (irqRaise k c) = if 0x30 + k / 24 = o then setBit (k % 24) true (ioGet o c) else ioGet o c := by
  rw [irqRaise, ioGet_ioSetBit]
  split
  next h => rw [h]
  next => rfl

theorem ioGet_groupGone (c : Cluster) : ioGet 0x1D0 (groupGone gid g c) = ioGet 0x1D0 c ||| g.flags.setWidth 24 := by
  have hio : (groupGone gid g c).io = (ioPut 0x1D0 (ioGet 0x1D0 c ||| g.flags.setWidth 24) c).io := rfl
  rw [ioGet_congr hio, ioGet_ioPut_self]

theorem ioGet_endedCluster_flags (c : Cluster) :
    ioGet 0x1D0 (endedCluster gid g c) = ioGet 0x1D0 c ||| g.flags.setWidth 24 :=
  reads_ite (by rw [ioGet_irqRaise, if_neg (by decide), ioGet_groupGone]) (ioGet_groupGone c)

theorem irq_endedCluster (h : g.notify = true) (c : Cluster) : ioBit 0x30 2 (endedCluster gid g c) = true := by
  rw [endedCluster, if_pos h, ioBit, ioGet_irqRaise, if_pos (by decide), bitOf_setBit (by decide), if_pos (by decide)]

/-- A reading of a cluster that the COMPLETE bits of its sets have no part in. -/
theorem setSettle_cl {γ : Type} {f : Cluster → γ} (h : ∀ k < 8, ∀ c, f (ioSetBit (0x1A0 + k) 2 false c) = f c) (s : State) :
    f ((setSettle n s).cl n) = f (s.cl n) := by
  rw [setSettle, modCl_cl_self]
  exact List.foldlRecOn (motive := fun d => f d = f (s.cl n)) _ _ rfl fun d hd k hk =>
    reads_ite hd ((h k (List.mem_range.mp hk) d).trans hd)

theorem ioGet_setSettle {o : Nat} (h : o < 0x1A0 ∨ 0x1A8 ≤ o) (s : State) : ioGet o ((setSettle n s).cl n) = ioGet o (s.cl n) :=
  setSettle_cl (f := ioGet o) (fun k hk c => by rw [ioGet_ioSetBit, if_neg (by omega)]) s

theorem execGroupComplete_ends (hc : clocked n s = true) (hg : group? n gid s = some g) (hp : g.phase = .running)
    (hpos : g.pos = g.orders.length) (hbuf : g.wbuf = []) (hexc : g.exc = none) (hrom : microDone n g s = true) :
    exec (.groupComplete n gid) s = .next (setSettle n (s.putCl n (endedCluster gid g (s.cl n)))) := by
  have hgo : ¬ (g.phase ≠ .running ∨ g.pos < g.orders.length ∨ (!microDone n g s) = true) := by simp [hp, hpos, hrom]
  have hend : ¬ (g.phase ≠ .running ∨ g.wbuf ≠ []) := by simp [hp, hbuf]
  show execGroupComplete n gid s = _
  simp only [execGroupComplete, onIsland_eq hc, microRun_done hg hrom, hg, if_neg hgo, hbuf, List.foldl_nil]
  rw [hbuf] at hend
  simp only [if_neg hend, hexc]
  rfl

theorem group?_ended (t : State) (h : (t.cl n).groups = (s.cl n).groups.filter fun z => z.gid ≠ gid) : group? n gid t = none := by
  rw [group?, h, List.find?_eq_none]
  intro z hz
  simpa using (List.mem_filter.mp hz).2

theorem groupCompletes (hc : clocked n s = true) (hg : group? n gid s = some g) (hp : g.phase = .running)
    (hpos : g.pos = g.orders.length) (hbuf : g.wbuf = []) (hexc : g.exc = none) (hrom : microDone n g s = true) :
    ∃ t, exec (.groupComplete n gid) s = .next t ∧ t.mem = s.mem ∧ t.hub = s.hub ∧ group? n gid t = none ∧
      ioGet 0x1D0 (t.cl n) = ioGet 0x1D0 (s.cl n) ||| g.flags.setWidth 24 ∧
      (g.notify = true → ioBit 0x30 2 (t.cl n) = true) ∧
      (∀ m b, g.masks = [(m, some b)] → smAt 0 (t.cl n).masks m = b) := by
  refine ⟨_, execGroupComplete_ends hc hg hp hpos hbuf hexc hrom, rfl, rfl,
    group?_ended (s := s) _ ?_, ?_, fun hn => ?_, fun m b hm => ?_⟩
  · rw [setSettle_cl (f := Cluster.groups) fun _ _ _ => rfl, putCl_cl_self, endedCluster_groups]
  · rw [ioGet_setSettle (by decide), putCl_cl_self, ioGet_endedCluster_flags]
  · rw [ioBit, ioGet_setSettle (by decide), putCl_cl_self, ← ioBit, irq_endedCluster hn]
  · rw [setSettle_cl (f := Cluster.masks) fun _ _ _ => rfl, putCl_cl_self, endedCluster_masks hm, smAt_smPut, if_pos rfl]

end

/-! ## An exception is recorded (R106) -/

/-- VU_EXC_CAUSE of an exception. -/
def excCause (e : ExcRec) : Nat :=
  2 ^ 23 + e.imprecise.toNat * 2 ^ 22 + e.set.isSome.toNat * 2 ^ 21 + e.set.getD 0 % 8 * 2 ^ 18
    + e.order % 8 * 2 ^ 15 + e.stream % 8 * 2 ^ 12 + e.cause.toNat

/-- The cluster with cause, place and element of an exception in its VU_EXC registers. -/
def excPlaced (e : ExcRec) (c : Cluster) : Cluster :=
  ioPut 0x1C2 (BitVec.ofNat 24 e.elem) (ioPut 0x1C1 e.pc (ioPut 0x1C0 (BitVec.ofNat 24 (excCause e)) c))

/-- The cluster whose set of an exception waits, too. -/
def excNoted (e : ExcRec) (c : Cluster) : Cluster :=
  { excPlaced e c with excSets := (excPlaced e c).excSets ++ (e.set.map fun k => (k, none)).toList }

/-- The cluster with address and flags of an exception, too. -/
def excFilled (e : ExcRec) (c : Cluster) : Cluster :=
  ioPut 0x1C5 (e.flags.setWidth 24) (ioPutPair 0x1C3 (e.addr.setWidth 48) (excNoted e c))

/-- The cluster with a vector exception recorded. -/
def recordedCluster (e : ExcRec) (c : Cluster) : Cluster := { excFilled e c with vexc := true }

theorem recordExc_vector {e : ExcRec} (h : e.cause ≠ 6) (n : Cl) (s : State) :
    recordExc n e s = s.putCl n (recordedCluster e (s.cl n)) := if_neg h

theorem excCause_valid (e : ExcRec) : bitOf 23 (BitVec.ofNat 24 (excCause e)) = true := by
  have hi := Bool.toNat_le e.imprecise
  have hs := Bool.toNat_le e.set.isSome
  have hc := e.cause.isLt
  have hdiv : excCause e / 2 ^ 23 % 2 = 1 := by unfold excCause; omega
  rw [bitOf, BitVec.getLsbD_ofNat, Nat.testBit_eq_decide_div_mod_eq, hdiv]
  rfl

theorem excCause_cause (e : ExcRec) : fld 3 0 (BitVec.ofNat 24 (excCause e)) = e.cause.toNat := by
  have hc := e.cause.isLt
  rw [fld, BitVec.toNat_ofNat]
  unfold excCause
  omega

theorem ioGet_recordedCluster (e : ExcRec) (c : Cluster) :
    ioGet 0x1C0 (recordedCluster e c) = BitVec.ofNat 24 (excCause e) ∧ ioGet 0x1C1 (recordedCluster e c) = e.pc ∧
      ioGet 0x1C2 (recordedCluster e c) = BitVec.ofNat 24 e.elem ∧
      ioGet 0x1C3 (recordedCluster e c) = (e.addr.setWidth 48).extractLsb' 0 24 ∧
      ioGet 0x1C4 (recordedCluster e c) = (e.addr.setWidth 48).extractLsb' 24 24 ∧
      ioGet 0x1C5 (recordedCluster e c) = e.flags.setWidth 24 := by
  have hrec : ∀ o, ioGet o (recordedCluster e c) = ioGet o (excFilled e c) := ioGet_congr rfl
  have hnoted : ∀ o, ioGet o (excNoted e c) = ioGet o (excPlaced e c) := ioGet_congr rfl
  simp [hrec, excFilled, ioPutPair, ioGet_ioPut, hnoted, excPlaced]

theorem heldExceptionRecorded {n : Cl} {e : ExcRec} {rest : List ExcRec} {s : State} (hc : clocked n s = true)
    (hheld : (s.cl n).heldExc = e :: rest) (hvalid : ioBit 0x1C0 23 (s.cl n) = false) (he : e.cause ≠ 6) :
    exec (.heldExceptionRecord n) s = .next (s.putCl n (recordedCluster e { s.cl n with heldExc := rest })) := by
  show execHeldExceptionRecord n s = _
  simp only [execHeldExceptionRecord, onIsland_eq hc, hheld, hvalid, Bool.false_eq_true, if_false]
  rw [recordExc_vector he, modCl_cl_self, modCl_eq, putCl_putCl]

/-! The exceptions held stay, whatever becomes of the fields beside them; stated of any cluster, for the kernel need not look
into the registers then. -/

theorem heldExc_excSets (l : List (Nat × Option Nat)) (c : Cluster) : { c with excSets := l }.heldExc = c.heldExc := rfl
theorem heldExc_vexc (b : Bool) (c : Cluster) : { c with vexc := b }.heldExc = c.heldExc := rfl

theorem recordedCluster_heldExc (e : ExcRec) (c : Cluster) : (recordedCluster e c).heldExc = c.heldExc := by
  rw [recordedCluster, heldExc_vexc, excFilled, ioPut_heldExc, ioPutPair, ioPut_heldExc, ioPut_heldExc, excNoted, heldExc_excSets,
    excPlaced, ioPut_heldExc, ioPut_heldExc, ioPut_heldExc]

theorem recordedCluster_vexc (e : ExcRec) (c : Cluster) : (recordedCluster e c).vexc = true := rfl

end Sys2Proof.Machine

namespace Sys2Proof.Proofs

open Sys2Proof.Machine Sys2Proof.Claims

/-- Settles O25: a group that may start opens its streams and runs its routine to the end at once; its buffered words drain one
by one to its own plot; an ended group settles its cluster; a held exception is recorded once VALID is 0. -/
theorem groupsRunToTheirEnd : Obligations.GroupsRunToTheirEnd := by
  unfold Obligations.GroupsRunToTheirEnd
  refine ⟨?starts, ?drains, ?completes, ?excepts⟩
  case starts =>
    intro n gid g red s hc hg hmay hn hmax hf hopen hfree hrom opened filled hread
    have hstart := groupStarts hg hn hmax hf hopen hfree hrom hread
    simp only [List.forall_mem_cons]
    refine ⟨fun hp => ⟨_, execGroupStart_starts hc hg hp hmay, hstart⟩,
      fun hp => ⟨_, execGroupRestart_starts hc hg (.inl hp) hmay, hstart⟩,
      fun hp => ⟨_, execGroupRestart_starts hc hg (.inr hp) hmay, hstart⟩, fun _ h => absurd h List.not_mem_nil⟩
  case drains =>
    intro n gid off g s hc hg hp hfree hrom hhead hown hnd hby
    obtain ⟨hwords, hothers, hhub, hgroup⟩ := drainWord_own hg hp hfree hhead hown hnd hby
    refine ⟨drainWord n gid s, ?_, hwords, hothers, hhub, hgroup⟩
    show execWriteBufferDrain n gid s = _
    rw [execWriteBufferDrain, onIsland_eq hc, microRun_done hg hrom]
  case completes =>
    intro n gid g s hc hg hp hpos hbuf hexc hrom
    exact groupCompletes hc hg hp hpos hbuf hexc hrom
  case excepts =>
    intro n e rest s hc hheld hvalid he
    obtain ⟨hcause, hpc, helem, hlo, hhi, hflags⟩ := ioGet_recordedCluster e { s.cl n with heldExc := rest }
    refine ⟨_, heldExceptionRecorded hc hheld hvalid he, recordedCluster_heldExc .., recordedCluster_vexc .., ?_, ?_,
      hpc, helem, ?_, hflags⟩
    · rw [ioBit, hcause, excCause_valid]
    · rw [ioFld, hcause, excCause_cause]
    · rw [ioPair, hlo, hhi, DWord.ofWords_extract]

end Sys2Proof.Proofs
end
section
/-!
PROOFS. Standing sets: their control registers, firing and pre-open (O28).
-/
namespace Sys2Proof.Machine

/-! ## Bits and fields of a register of which others were set -/

section
variable {o p i hi lo : Nat}

theorem ioBit_ioSetBit_self (h : i < 24) (j : Nat) (b : Bool) (c : Cluster) :
    ioBit o j (ioSetBit o i b c) = if i = j then b else ioBit o j c := by
  rw [ioBit, ioGet_ioSetBit, if_pos rfl, bitOf_setBit h, ioBit]

theorem ioBit_ioSetFld_outside (hl : lo ≤ hi) (h : hi < 24) {j : Nat} (hj : j < lo ∨ hi < j) (v : Nat) (c : Cluster) :
    ioBit o j (ioSetFld o hi lo v c) = ioBit o j c := by
  rw [ioBit, ioGet_ioSetFld, if_pos rfl, bitOf_setFld hl h, if_neg (by omega), ioBit]

theorem ioFld_ioSetBit_outside (h : i < 24) (hd : i < lo ∨ hi < i) (b : Bool) (c : Cluster) :
    ioFld o hi lo (ioSetBit o i b c) = ioFld o hi lo c := by
  rw [ioFld, ioGet_ioSetBit, if_pos rfl, fld_setBit_of_outside h hd, ioFld]

theorem ioFld_ioSetFld_self (hl : lo ≤ hi) (h : hi < 24) (v : Nat) (c : Cluster) :
    ioFld o hi lo (ioSetFld o hi lo v c) = v % 2 ^ (hi + 1 - lo) := by
  rw [ioFld, ioGet_ioSetFld, if_pos rfl, fld_setFld_self hl h]

theorem ioFld_ioSetFld_disjoint (hl : lo ≤ hi) (h : hi < 24) {hi' lo' : Nat} (hd : hi' < lo ∨ hi < lo') (v : Nat) (c : Cluster) :
    ioFld o hi' lo' (ioSetFld o hi lo v c) = ioFld o hi' lo' c := by
  rw [ioFld, ioGet_ioSetFld, if_pos rfl, fld_setFld_of_disjoint hl h hd, ioFld]

end

/-! ## Tasks and sets -/

/-- A reading of the state other than the registers and the event fabric. -/
theorem rebind_field {γ : Type} {g : State → γ} (hput : ∀ o v s, g (hubPut o v s) = g s) (hev : ∀ e s, g { s with ev := e } = g s)
    (task : Nat) (sel : Option Nat) (s : State) : g (rebind task sel s) = g s := by
  cases sel with
  | none => exact hev _ s
  | some c =>
    refine reads_ite rfl (reads_ite ((hev _ _).trans (hev _ s)) ?_)
    exact (fire_field _ _ hput hev).trans ((hput ..).trans ((hput ..).trans (hev _ s)))

section
variable (n : Cl) (k : Set8) (s : State)

@[simp] theorem setBind_cls : (setBind n k s).cls = s.cls := rebind_field (g := State.cls) (fun _ _ _ => rfl) (fun _ _ => rfl) ..
@[simp] theorem setBind_mem : (setBind n k s).mem = s.mem := rebind_field (g := State.mem) (fun _ _ _ => rfl) (fun _ _ => rfl) ..

theorem setBind_cl (m : Cl) : (setBind n k s).cl m = s.cl m := cl_of_cls (setBind_cls n k s) m

end

@[simp] theorem setOf_putSet (k : Nat) (x : SetSt) (c : Cluster) : setOf k (putSet k x c) = x :=
  (smAt_smPut ..).trans (if_pos rfl)

theorem setOf_congr {c d : Cluster} (h : d.sets = c.sets) (k : Nat) : setOf k d = setOf k c := by rw [setOf, h, setOf]

theorem setOf_ioSetBit (k o i : Nat) (b : Bool) (c : Cluster) : setOf k (ioSetBit o i b c) = setOf k c := setOf_congr rfl k

theorem ioGet_putSet (o k : Nat) (x : SetSt) (c : Cluster) : ioGet o (putSet k x c) = ioGet o c := ioGet_congr rfl o

theorem ioBit_putSet (o j k : Nat) (x : SetSt) (c : Cluster) : ioBit o j (putSet k x c) = ioBit o j c := by
  rw [ioBit, ioGet_putSet, ioBit]

/-! ## Writes of VU_SETn_CTL (R99–R101) -/

section
variable {n : Cl} {k : Set8} {v : Word} {s : State}

/-- PREOPEN and, of a set that is neither armed nor in build, START as a write of VU_SETn_CTL leaves them. -/
def ctlTaken (k : Nat) (v : Word) (c : Cluster) : Cluster :=
  let c1 := ioSetBit (0x190 + k) 4 (bitOf 4 v) c
  if !setArm k c && !setBuild k c then ioSetFld (0x190 + k) 16 10 (fld 16 10 v) c1 else c1

theorem ioBit_ctlTaken {j : Nat} (hj : j < 4) (k : Nat) (v : Word) (c : Cluster) :
    ioBit (0x190 + k) j (ctlTaken k v c) = ioBit (0x190 + k) j c := by
  have h4 : ioBit (0x190 + k) j (ioSetBit (0x190 + k) 4 (bitOf 4 v) c) = ioBit (0x190 + k) j c := by
    rw [ioBit_ioSetBit_self (by decide), if_neg (by omega)]
  exact reads_ite ((ioBit_ioSetFld_outside (by decide) (by decide) (.inl (by omega)) ..).trans h4) h4

/-- What a write that is not refused does to the build. -/
def ctlBuilt (n : Cl) (k : Set8) (v : Word) (s : State) : State :=
  if bitOf 1 v then s.putCl n (buildOpen k (ctlTaken k v (s.cl n)))
  else if setBuild k (s.cl n) then buildClose n k (s.putCl n (ctlTaken k v (s.cl n)))
  else s.putCl n (ctlTaken k v (s.cl n))

/-- What it then does to ARM; `at'` is its instant. -/
def ctlArmed (n : Cl) (k : Set8) (v : Word) (at' : BitVec 64) (s : State) : State :=
  if bitOf 0 v && !setArm k (s.cl n) then
    (if setBuilt k (s.cl n) then
      s.putCl n (ioSetBit (0x190 + k) 0 true (putSet k { setOf k (s.cl n) with armedAt := at', pre := none } (s.cl n)))
     else s.putCl n (setErr 2 (s.cl n)))
  else s.putCl n (ioSetBit (0x190 + k) 0 (bitOf 0 v) (s.cl n))

/-- Whether another set's build, or this set's state, refuses a write. -/
def ctlRefused (k : Set8) (v : Word) (c : Cluster) : Bool :=
  (bitOf 1 v && ((List.range 8).any (fun j => decide (j ≠ k.val) && setBuild j c) || setArm k c)) ||
    (bitOf 0 v && !setArm k c && (!setBuilt k c || bitOf 1 v) && !(setBuild k c && !bitOf 1 v))

theorem setCtlWrite_accepted (h : ctlRefused k v (s.cl n) = false) :
    setCtlWrite n k v s = setBind n k (ctlArmed n k v s.ticks (ctlBuilt n k v s)) := by
  obtain ⟨h1, h2⟩ := Bool.or_eq_false_iff.mp h
  unfold setCtlWrite
  dsimp only
  rw [if_neg (by rw [h1]; exact Bool.false_ne_true), if_neg (by rw [h2]; exact Bool.false_ne_true)]
  rfl

theorem ctlArmed_off (h : bitOf 0 v = false) (at' : BitVec 64) (t : State) :
    ctlArmed n k v at' t = t.putCl n (ioSetBit (0x190 + k) 0 false (t.cl n)) := by
  simp only [ctlArmed, h, Bool.false_and, Bool.false_eq_true, if_false]

theorem ctlArmed_on (h : bitOf 0 v = true) (at' : BitVec 64) {t : State} (ha : setArm k (t.cl n) = false)
    (hb : setBuilt k (t.cl n) = true) : ctlArmed n k v at' t =
      t.putCl n (ioSetBit (0x190 + k) 0 true (putSet k { setOf k (t.cl n) with armedAt := at', pre := none } (t.cl n))) := by
  simp only [ctlArmed, h, ha, hb, Bool.not_false, Bool.and_self, if_true]

theorem ctlBuilt_idle (h1 : bitOf 1 v = false) (hb : setBuild k (s.cl n) = false) :
    ctlBuilt n k v s = s.putCl n (ctlTaken k v (s.cl n)) := by
  simp only [ctlBuilt, h1, hb, Bool.false_eq_true, if_false]

theorem ctlBuilt_opens (h1 : bitOf 1 v = true) : ctlBuilt n k v s = s.putCl n (buildOpen k (ctlTaken k v (s.cl n))) := if_pos h1

theorem ctlBuilt_closes (h1 : bitOf 1 v = false) (hb : setBuild k (s.cl n) = true) :
    ctlBuilt n k v s = buildClose n k (s.putCl n (ctlTaken k v (s.cl n))) := by
  simp only [ctlBuilt, h1, hb, Bool.false_eq_true, if_false, if_true]

end

section
variable {n : Cl} {k : Set8} {v : Word} {s : State}

/-! ### A build opens -/

/-- What the opening of a build leaves beside the set itself. -/
def buildBare (k : Nat) (c : Cluster) : Cluster :=
  (fun d : Cluster => { d with aux := d.aux.filter fun x => !(x.kind == 3 && x.set == k) }) <|
    ioSetBit (0x1A0 + k) 1 false (ioSetBit (0x190 + k) 1 true (ioSetBit (0x190 + k) 2 false (ioSetFld (0x190 + k) 9 5 0 c)))

theorem buildOpen_eq (k : Nat) (c : Cluster) : buildOpen k c = putSet k { setOf k c with staged := [] } (buildBare k c) := rfl

theorem setOf_buildOpen (k : Nat) (c : Cluster) : (setOf k (buildOpen k c)).staged = [] := by
  rw [buildOpen_eq, setOf_putSet]

theorem ioGet_auxPut (o : Nat) (l : List AuxRun) (c : Cluster) : ioGet o { c with aux := l } = ioGet o c := ioGet_congr rfl o

theorem ioGet_buildOpen (k : Nat) (c : Cluster) : ioGet (0x190 + k) (buildOpen k c) =
    ioGet (0x190 + k) (ioSetBit (0x190 + k) 1 true (ioSetBit (0x190 + k) 2 false (ioSetFld (0x190 + k) 9 5 0 c))) := by
  rw [buildOpen_eq, ioGet_putSet, buildBare, ioGet_auxPut, ioGet_ioSetBit, if_neg (by omega)]

/-- VU_SETn_CTL as the opening of a build leaves it: BUILD alone, with START and PREOPEN of the write. -/
theorem ctl_opened (ha : setArm k (s.cl n) = false) (hb : setBuild k (s.cl n) = false) (start : BitVec 7) (preopen : Bool)
    (hv4 : bitOf 4 v = preopen) (hvs : fld 16 10 v = start.toNat) :
    let d := ioSetBit (0x190 + k) 0 false (buildOpen k (ctlTaken k v (s.cl n)))
    setBuild k d = true ∧ setBuilt k d = false ∧ setStart k d = start.toNat ∧ setCount k d = 0 ∧ ioBit (0x190 + k) 4 d = preopen := by
  have htaken : ctlTaken k v (s.cl n) = ioSetFld (0x190 + k) 16 10 start.toNat (ioSetBit (0x190 + k) 4 preopen (s.cl n)) := by
    simp only [ctlTaken, ha, hb, hv4, hvs, Bool.not_false, Bool.and_self, if_true]
  have hbit : ∀ j, ioBit (0x190 + k) j (buildOpen k (ctlTaken k v (s.cl n))) = ioBit (0x190 + k) j (ioSetBit (0x190 + k) 1 true
      (ioSetBit (0x190 + k) 2 false (ioSetFld (0x190 + k) 9 5 0 (ctlTaken k v (s.cl n))))) := fun j => by
    rw [ioBit, ioGet_buildOpen, ioBit]
  have hfld : ∀ hi lo, ioFld (0x190 + k) hi lo (buildOpen k (ctlTaken k v (s.cl n))) = ioFld (0x190 + k) hi lo
      (ioSetBit (0x190 + k) 1 true (ioSetBit (0x190 + k) 2 false (ioSetFld (0x190 + k) 9 5 0 (ctlTaken k v (s.cl n))))) :=
    fun hi lo => by rw [ioFld, ioGet_buildOpen, ioFld]
  have hs := start.isLt
  intro d
  refine ⟨?_, ?_, ?_, ?_, ?_⟩
  · rw [setBuild, ioBit_ioSetBit_self (by decide), if_neg (by decide), hbit, ioBit_ioSetBit_self (by decide), if_pos rfl]
  · rw [setBuilt, ioBit_ioSetBit_self (by decide), if_neg (by decide), hbit, ioBit_ioSetBit_self (by decide), if_neg (by decide),
      ioBit_ioSetBit_self (by decide), if_pos rfl]
  · rw [setStart, ioFld_ioSetBit_outside (by decide) (by decide), hfld, ioFld_ioSetBit_outside (by decide) (by decide),
      ioFld_ioSetBit_outside (by decide) (by decide), ioFld_ioSetFld_disjoint (by decide) (by decide) (by decide), htaken,
      ioFld_ioSetFld_self (by decide) (by decide)]
    exact Nat.mod_eq_of_lt hs
  · rw [setCount, ioFld_ioSetBit_outside (by decide) (by decide), hfld, ioFld_ioSetBit_outside (by decide) (by decide),
      ioFld_ioSetBit_outside (by decide) (by decide), ioFld_ioSetFld_self (by decide) (by decide), Nat.zero_mod]
  · rw [ioBit_ioSetBit_self (by decide), if_neg (by decide), hbit, ioBit_ioSetBit_self (by decide), if_neg (by decide),
      ioBit_ioSetBit_self (by decide), if_neg (by decide), ioBit_ioSetFld_outside (by decide) (by decide) (by decide), htaken,
      ioBit_ioSetFld_outside (by decide) (by decide) (by decide), ioBit_ioSetBit_self (by decide), if_pos rfl]

/-- The value that opens a build. -/
def openValue (start : BitVec 7) (preopen : Bool) : Word := BitVec.ofNat 24 (start.toNat * 2 ^ 10 + preopen.toNat * 2 ^ 4 + 2)

theorem bitOf_ofNat {i : Nat} (h : i < 24) (x : Nat) : bitOf i (BitVec.ofNat 24 x) = decide (x / 2 ^ i % 2 = 1) := by
  rw [bitOf, BitVec.getLsbD_ofNat, Nat.testBit_eq_decide_div_mod_eq, decide_eq_true h, Bool.true_and]

theorem openValue_fields (start : BitVec 7) (preopen : Bool) : bitOf 0 (openValue start preopen) = false ∧
    bitOf 1 (openValue start preopen) = true ∧ bitOf 4 (openValue start preopen) = preopen ∧
    fld 16 10 (openValue start preopen) = start.toNat := by
  have hs := start.isLt
  have hp := Bool.toNat_le preopen
  refine ⟨?_, ?_, ?_, ?_⟩
  · rw [openValue, bitOf_ofNat (by decide), decide_eq_false_iff_not]
    omega
  · rw [openValue, bitOf_ofNat (by decide), decide_eq_true_eq]
    omega
  · have h4 : (start.toNat * 2 ^ 10 + preopen.toNat * 2 ^ 4 + 2) / 2 ^ 4 % 2 = preopen.toNat := by omega
    rw [openValue, bitOf_ofNat (by decide), h4]
    cases preopen <;> rfl
  · rw [openValue, fld, BitVec.toNat_ofNat]
    omega

theorem setBuildOpens (hc : clocked n s = true) (ha : setArm k (s.cl n) = false) (hb : ∀ j : Set8, setBuild j (s.cl n) = false)
    (start : BitVec 7) (preopen : Bool) : exec (.setBuildOpen n k start preopen) s = .next (setBind n k (s.putCl n
      (ioSetBit (0x190 + k) 0 false (buildOpen k (ctlTaken k (openValue start preopen) (s.cl n)))))) := by
  obtain ⟨h0, h1, -, -⟩ := openValue_fields start preopen
  have hother : (List.range 8).any (fun j => decide (j ≠ k.val) && setBuild j (s.cl n)) = false := by
    rw [List.any_eq_false]
    intro j hj
    rw [hb ⟨j, List.mem_range.mp hj⟩, Bool.and_false]
    exact Bool.false_ne_true
  have haccept : ctlRefused k (openValue start preopen) (s.cl n) = false := by
    simp only [ctlRefused, hother, ha, h0, Bool.or_self, Bool.and_false, Bool.false_and]
  show execSetBuildOpen n k start preopen s = _
  rw [execSetBuildOpen, onIsland_eq hc, ← openValue, setCtlWrite_accepted haccept, ctlBuilt_opens h1, ctlArmed_off h0, putCl_cl_self,
    putCl_putCl]

/-! ### A build closes -/

theorem setOrders_congr {c d : Cluster} (hcount : setCount k d = setCount k c) (hstart : setStart k d = setStart k c)
    (hstore : d.ostore = c.ostore) (hf : d.fregs = c.fregs) (tbl : Nat → Desc × CapV) : setOrders tbl k d = setOrders tbl k c := by
  simp only [setOrders, hcount, hstart, hstore, orderK, hf]

theorem regDesc_congr {c d : Cluster} (hd : d.dregs = c.dregs) (hc : d.cregs = c.cregs) : regDesc d = regDesc c := by
  funext j
  simp only [regDesc, hd, hc]

/-- PREOPEN, BUILD and ARM have no part in a set's orders. -/
theorem setOrders_ioSetBit {i : Nat} (hi : i < 5) (b : Bool) (c : Cluster) :
    setOrders (regDesc (ioSetBit (0x190 + k) i b c)) k (ioSetBit (0x190 + k) i b c) = setOrders (regDesc c) k c := by
  rw [regDesc_congr (c := c) rfl rfl]
  exact setOrders_congr (ioFld_ioSetBit_outside (by omega) (by omega) ..) (ioFld_ioSetBit_outside (by omega) (by omega) ..) rfl rfl _

/-- The descriptor table of a set that is closed now. -/
def regTable (c : Cluster) : SMap (Desc × CapV) :=
  (List.range 16).foldl (fun m j => smPut (Desc.zero, CapV.null) m j (regDesc c j)) []

theorem smAt_foldl_smPut {α : Type} [DecidableEq α] (e : α) (f : Nat → α) (l : List Nat) (m : SMap α) (j : Nat) :
    smAt e (l.foldl (fun m i => smPut e m i (f i)) m) j = if j ∈ l then f j else smAt e m j := by
  induction l generalizing m with
  | nil => rfl
  | cons i l ih =>
    rw [List.foldl_cons, ih, smAt_smPut]
    by_cases hl : j ∈ l
    · rw [if_pos hl, if_pos (List.mem_cons_of_mem _ hl)]
    · by_cases hij : i = j
      · subst hij
        rw [if_neg hl, if_pos rfl, if_pos List.mem_cons_self]
      · rw [if_neg hl, if_neg hij, if_neg (by simp [hl, Ne.symm hij])]

theorem smAt_regTable {j : Nat} (hj : j < 16) (c : Cluster) : smAt (Desc.zero, CapV.null) (regTable c) j = regDesc c j :=
  (smAt_foldl_smPut ..).trans (if_pos (List.mem_range.mpr hj))

theorem buildClose_good {t : State} (h : closeFault (setOrders (regDesc (t.cl n)) k (t.cl n)) = none) :
    let c := ioSetBit (0x190 + k) 1 false (t.cl n)
    buildClose n k t = t.putCl n (ioSetBit (0x190 + k) 2 true (putSet k { setOf k c with table := regTable c } c)) := by
  rw [← setOrders_ioSetBit (i := 1) (by decide) false] at h
  unfold buildClose
  dsimp only
  rw [h]
  rfl

theorem bitOf_setCtlWith {i : Nat} (h : i < 24) (j : Nat) (b : Bool) :
    bitOf j (setCtlWith n k i b s) = if i = j then b else ioBit (0x190 + k) j (s.cl n) := bitOf_setBit h ..

/-- The cluster whose set `k` has no build any more. -/
def buildEnded (k : Nat) (c : Cluster) : Cluster := ioSetBit (0x190 + k) 1 false (ioSetBit (0x190 + k) 4 (ioBit (0x190 + k) 4 c) c)

/-- The cluster whose set `k` is built. -/
def closedSet (k : Nat) (c : Cluster) : Cluster :=
  ioSetBit (0x190 + k) 2 true (putSet k { setOf k (buildEnded k c) with table := regTable (buildEnded k c) } (buildEnded k c))

theorem setBuildCloses (hc : clocked n s = true) (ha : setArm k (s.cl n) = false) (hb : setBuild k (s.cl n) = true)
    (hf : closeFault (setOrders (regDesc (s.cl n)) k (s.cl n)) = none) :
    exec (.setBuildClose n k) s = .next (setBind n k (s.putCl n (ioSetBit (0x190 + k) 0 false (closedSet k (s.cl n))))) := by
  have h1 : bitOf 1 (setCtlWith n k 1 false s) = false := (bitOf_setCtlWith (by decide) ..).trans (if_pos rfl)
  have h0 : bitOf 0 (setCtlWith n k 1 false s) = false := (bitOf_setCtlWith (by decide) ..).trans ((if_neg (by decide)).trans ha)
  have h4 : bitOf 4 (setCtlWith n k 1 false s) = ioBit (0x190 + k) 4 (s.cl n) :=
    (bitOf_setCtlWith (by decide) ..).trans (if_neg (by decide))
  have haccept : ctlRefused k (setCtlWith n k 1 false s) (s.cl n) = false := by
    simp only [ctlRefused, h1, h0, Bool.false_and, Bool.or_self]
  have htaken : ctlTaken k (setCtlWith n k 1 false s) (s.cl n) = ioSetBit (0x190 + k) 4 (ioBit (0x190 + k) 4 (s.cl n)) (s.cl n) := by
    simp only [ctlTaken, hb, h4, Bool.not_true, Bool.and_false, Bool.false_eq_true, if_false]
  have hgood : closeFault (setOrders (regDesc ((s.putCl n (ctlTaken k (setCtlWith n k 1 false s) (s.cl n))).cl n)) k
      ((s.putCl n (ctlTaken k (setCtlWith n k 1 false s) (s.cl n))).cl n)) = none := by
    rw [putCl_cl_self, htaken, setOrders_ioSetBit (by decide), hf]
  show execSetBuildClose n k s = _
  rw [execSetBuildClose, onIsland_eq hc, setCtlWrite_accepted haccept, ctlBuilt_closes h1 hb, buildClose_good hgood, ctlArmed_off h0,
    putCl_putCl, putCl_putCl, putCl_cl_self, putCl_cl_self, htaken, ← buildEnded, ← closedSet]

theorem ctl_closed (k : Nat) (c : Cluster) : setBuild k (ioSetBit (0x190 + k) 0 false (closedSet k c)) = false ∧
    setBuilt k (ioSetBit (0x190 + k) 0 false (closedSet k c)) = true := by
  constructor
  · rw [setBuild, ioBit_ioSetBit_self (by decide), if_neg (by decide), closedSet, ioBit_ioSetBit_self (by decide), if_neg (by decide),
      ioBit_putSet, buildEnded, ioBit_ioSetBit_self (by decide), if_pos rfl]
  · rw [setBuilt, ioBit_ioSetBit_self (by decide), if_neg (by decide), closedSet, ioBit_ioSetBit_self (by decide), if_pos rfl]

theorem table_closed {j : Nat} (hj : j < 16) (k : Nat) (c : Cluster) :
    smAt (Desc.zero, CapV.null) (setOf k (ioSetBit (0x190 + k) 0 false (closedSet k c))).table j = regDesc c j := by
  rw [setOf_ioSetBit, closedSet, setOf_ioSetBit, setOf_putSet, smAt_regTable hj]
  exact congrFun (regDesc_congr rfl rfl) j

/-! ### Arming and disarming -/

theorem setArms (hc : clocked n s = true) (ha : setArm k (s.cl n) = false) (hb : setBuild k (s.cl n) = false)
    (hbuilt : setBuilt k (s.cl n) = true) :
    let c := ctlTaken k (setCtlWith n k 0 true s) (s.cl n)
    exec (.setArm n k) s = .next (setBind n k (s.putCl n (ioSetBit (0x190 + k) 0 true
      (putSet k { setOf k c with armedAt := s.ticks, pre := none } c)))) := by
  have h0 : bitOf 0 (setCtlWith n k 0 true s) = true := (bitOf_setCtlWith (by decide) ..).trans (if_pos rfl)
  have h1 : bitOf 1 (setCtlWith n k 0 true s) = false := (bitOf_setCtlWith (by decide) ..).trans ((if_neg (by decide)).trans hb)
  have haccept : ctlRefused k (setCtlWith n k 0 true s) (s.cl n) = false := by
    simp only [ctlRefused, h1, hbuilt, Bool.not_true, Bool.false_and, Bool.or_self, Bool.and_false]
  show execSetArm n k s = _
  rw [execSetArm, onIsland_eq hc, setCtlWrite_accepted haccept, ctlBuilt_idle h1 hb, ctlArmed_on h0, putCl_putCl, putCl_cl_self]
  · rw [putCl_cl_self, setArm, ioBit_ctlTaken (by decide)]
    exact ha
  · rw [putCl_cl_self, setBuilt, ioBit_ctlTaken (by decide)]
    exact hbuilt

theorem setDisarms (hc : clocked n s = true) (hb : setBuild k (s.cl n) = false) : exec (.setDisarm n k) s =
    .next (setBind n k (s.putCl n (ioSetBit (0x190 + k) 0 false (ctlTaken k (setCtlWith n k 0 false s) (s.cl n))))) := by
  have h0 : bitOf 0 (setCtlWith n k 0 false s) = false := (bitOf_setCtlWith (by decide) ..).trans (if_pos rfl)
  have h1 : bitOf 1 (setCtlWith n k 0 false s) = false := (bitOf_setCtlWith (by decide) ..).trans ((if_neg (by decide)).trans hb)
  have haccept : ctlRefused k (setCtlWith n k 0 false s) (s.cl n) = false := by
    simp only [ctlRefused, h1, h0, Bool.false_and, Bool.or_self]
  show execSetDisarm n k s = _
  rw [execSetDisarm, onIsland_eq hc, setCtlWrite_accepted haccept, ctlBuilt_idle h1 hb, ctlArmed_off h0, putCl_putCl, putCl_cl_self]

/-! ## A descriptor change is staged (R103) -/

theorem auxStart_rom {x : AuxRun} (h : microQuiet x.half (s.cl n) = true) : auxStart n x s = auxDone n x s := if_pos h

theorem auxDone_staging {x : AuxRun} {e : Nat × Desc × CapV × BitVec 64} (h3 : x.kind = 3) (he : x.stage = some e) :
    auxDone n x s = s.modCl n (stageChange x.set e) := by
  obtain ⟨kind, set, half, ctx, stage, groups, pre⟩ := x
  subst h3 he
  rfl

theorem setOf_syncDpend (k : Nat) (j : Nat) (c : Cluster) : setOf k (syncDpend j c) = setOf k c := setOf_ioSetBit ..

theorem staged_stageChange (k : Nat) (e : Nat × Desc × CapV × BitVec 64) (c : Cluster) :
    (setOf k (stageChange k e c)).staged = (setOf k c).staged.filter (fun p => p.1 ≠ e.1) ++ [e] := by
  rw [stageChange, setOf_syncDpend, setOf_putSet]

theorem dpend_syncDpend {k : Nat} {c : Cluster} (h : (setOf k c).staged ≠ []) : ioBit (0x1A0 + k) 1 (syncDpend k c) = true := by
  rw [syncDpend, ioBit_ioSetBit_self (by decide), if_pos rfl, List.isEmpty_eq_false_iff.mpr h, Bool.not_false, Bool.true_or]

/-- The change that a write of VU_SDESC_CMD stages for descriptor `j`. -/
def stagedChange (j : Nat) (at' : BitVec 64) (c : Cluster) : Nat × Desc × CapV × BitVec 64 :=
  let attr := ioGet 0x1B4 c &&& 0xFFFC00
  (j, ⟨(ioGet 0x1B1 c ++ ioGet 0x1B0 c).setWidth 40, ioGet 0x1B2 c, ioGet 0x1B3 c, attr⟩, smAt CapV.null c.cregs (fld 23 20 attr), at')

theorem sdescCmdStages (hc : clocked n s = true) (hb : setBuilt k (s.cl n) = true) (hrom : microQuiet (activeHalf n s) (s.cl n) = true)
    (d : Reg) : exec (.sdescCmd n k d) s =
      .next (s.putCl n (syncDpend k (stageChange k (stagedChange d s.ticks (s.cl n)) (s.cl n)))) := by
  show execSdescCmd n k d s = _
  have hbuilt : ¬ (!setBuilt k (s.cl n)) = true := by rw [hb]; exact Bool.false_ne_true
  rw [execSdescCmd, onIsland_eq hc, sdescCmd]
  dsimp only
  rw [if_neg hbuilt, auxStart_rom hrom, auxDone_staging rfl rfl, modCl_eq, modCl_eq, putCl_cl_self, putCl_putCl]
  rfl

end

/-! ## An event reaches a set (R101, R102, R104) -/

section
variable {n : Cl} {k : Set8} {s : State}

/-- Where the grid runs and the set is armed to a channel, an event at it is no longer waiting and meets the set. -/
theorem execSetFireEvent_armed (hc : clocked n s = true) (hw : taskSet n k ∈ s.ev.taskIn) (hr : gridRun s = true)
    (hh : holdActive s = false) (hi : isolated n s = false) (hst : setsStopped (s.cl n) = false) (ha : setArm k (s.cl n) = true)
    (htick : setTick k (s.cl n) = false) : exec (.setFireEvent n k) s = .next (if setRunning k (s.cl n)
      then (takeTask (taskSet n k) s).putCl n (irqRaise 3 (ioSetBit (0x1A0 + k) 0 true (s.cl n)))
      else setFire n k (takeTask (taskSet n k) s)) := by
  have hwaits : ¬ (!taskWaits (taskSet n k) s) = true := by simp [taskWaits, hw]
  have hgo : ¬ (!gridRun (takeTask (taskSet n k) s) ∨ holdActive (takeTask (taskSet n k) s) ∨ isolated n (takeTask (taskSet n k) s) ∨
      setsStopped (s.cl n) ∨ !setArm k (s.cl n) ∨ setTick k (s.cl n)) := by
    have hr' : gridRun (takeTask (taskSet n k) s) = true := hr
    have hh' : holdActive (takeTask (taskSet n k) s) = false := hh
    have hi' : isolated n (takeTask (taskSet n k) s) = false := hi
    simp [hr', hh', hi', hst, ha, htick]
  have hcl : (takeTask (taskSet n k) s).cl n = s.cl n := rfl
  show execSetFireEvent n k s = _
  rw [execSetFireEvent, onIsland_eq hc, if_neg hwaits]
  dsimp only
  rw [hcl, if_neg hgo]
  split <;> rfl

/-- OVR and input 3 say that a running set has lost an event; the set runs on. -/
theorem missed_fields (k : Nat) (c : Cluster) : ioBit (0x1A0 + k) 0 (irqRaise 3 (ioSetBit (0x1A0 + k) 0 true c)) = true ∧
    ioBit 0x30 3 (irqRaise 3 (ioSetBit (0x1A0 + k) 0 true c)) = true ∧
    setRunning k (irqRaise 3 (ioSetBit (0x1A0 + k) 0 true c)) = setRunning k c := by
  have hstat : ∀ j, ioBit (0x1A0 + k) j (irqRaise 3 (ioSetBit (0x1A0 + k) 0 true c)) =
      ioBit (0x1A0 + k) j (ioSetBit (0x1A0 + k) 0 true c) := fun j => by
    rw [ioBit, ioGet_irqRaise, if_neg (by omega), ioBit]
  refine ⟨?_, ?_, ?_⟩
  · rw [hstat, ioBit_ioSetBit_self (by decide), if_pos rfl]
  · rw [ioBit, ioGet_irqRaise, if_pos (by decide), bitOf_setBit (by decide), if_pos (by decide)]
  · rw [setRunning, hstat, ioBit_ioSetBit_self (by decide), if_neg (by decide), setRunning]

/-! ### A set fires -/

/-- The cluster in which set `k` runs, with the staged changes taken in `c` and the exchange plots that it writes. -/
def firedCluster (k : Nat) (plots : List Nat) (c : Cluster) : Cluster :=
  let c2 := putSet k { setOf k c with pre := none, plots := plots, missed := none }
    { c with nextGid := c.nextGid + setCount k c + 1
             aux := c.aux.filter fun x => !(x.kind == 1 && x.set == k) }
  evcEvent 0x0D 1 (syncDpend k (ioSetBit (0x1A0 + k) 2 true c2))

/-- A reading of a cluster that its sets, their status and the event counters have no part in. -/
theorem firedCluster_keeps {γ : Type} {f : Cluster → γ} (hput : ∀ o v c, f (ioPut o v c) = f c)
    (hsets : ∀ x c, f { c with sets := x } = f c)
    (hnew : ∀ g a c, f { c with nextGid := g, aux := a } = f c) (k : Nat) (plots : List Nat) (c : Cluster) :
    f (firedCluster k plots c) = f c := by
  rw [firedCluster, evcEvent_blind fun o v c _ => hput o v c]
  exact (hput ..).trans ((hput ..).trans ((hsets ..).trans (hnew ..)))

theorem setRunning_firedCluster (k : Nat) (hk : k < 8) (plots : List Nat) (c : Cluster) :
    setRunning k (firedCluster k plots c) = true := by
  rw [setRunning, ioBit, firedCluster, ioGet_evcEvent (.inl (by omega)), ← ioBit, syncDpend, ioBit_ioSetBit_self (by decide),
    if_neg (by decide), ioBit_ioSetBit_self (by decide), if_pos rfl]

/-- Nothing pre-opened, a set's groups are issued as they are formed. -/
theorem setGroups_unfilled (k : Nat) (c : Cluster) : (setGroups k c).map (fun g => (g.1, { g.2 with
    filled := fillOf g.1 g.2.orders.length none, opened := openedOf g.1 g.2.orders.length none })) = setGroups k c := by
  rw [setGroups, List.map_map]
  rfl

theorem setIssue_unopened (n : Cl) (gs : List (Nat × Group)) (s : State) : setIssue n gs none s =
    s.modCl n fun c => { c with groups := fireGroups (gs.map (·.2)) c.groups } := rfl

theorem auxDone_issue {x : AuxRun} (h2 : x.kind = 2) : auxDone n x s = setIssue n x.groups x.pre s := by
  obtain ⟨kind, set, half, ctx, stage, groups, pre⟩ := x
  subst h2
  rfl

/-- The state in which set `k` has fired, before its groups are issued. -/
def firedState (n : Cl) (k : Nat) (s : State) : State :=
  let c := takeStaged (fun _ => true) k (s.cl n)
  s.putCl n (firedCluster k (writtenPlots n (setGroups k c)) c)

theorem setFire_unopened (htick : setTick k (s.cl n) = false) (hpre : (setOf k (s.cl n)).pre = none)
    (hrom : microQuiet (activeHalf n s) (s.cl n) = true) : setFire n k s = (firedState n k s).modCl n fun c =>
      { c with groups := fireGroups ((setGroups k (takeStaged (fun _ => true) k (s.cl n))).map (·.2)) c.groups } := by
  have hopens : ¬ setPreopens k (s.cl n) = true := by simp [setPreopens, htick]
  have hquiet : microQuiet (activeHalf n (firedState n k s)) ((firedState n k s).cl n) = true := by
    have hcl : (firedState n k s).cl n = firedCluster k (writtenPlots n (setGroups k (takeStaged (fun _ => true) k (s.cl n))))
        (takeStaged (fun _ => true) k (s.cl n)) := putCl_cl_self ..
    rw [← hrom, hcl]
    exact microQuiet_congr (firedCluster_keeps (f := Cluster.ubad) (fun _ _ _ => rfl) (fun _ _ => rfl) (fun _ _ _ => rfl) ..)
      (firedCluster_keeps (f := Cluster.patchA) (fun _ _ _ => rfl) (fun _ _ => rfl) (fun _ _ _ => rfl) ..)
      (firedCluster_keeps (f := Cluster.patchB) (fun _ _ _ => rfl) (fun _ _ => rfl) (fun _ _ _ => rfl) ..) _
  have hfire : setFire n k s = auxStart n { auxNew n 2 k (firedState n k s) with
      groups := (setGroups k (takeStaged (fun _ => true) k (s.cl n))).map (fun g => (g.1, { g.2 with
        filled := fillOf g.1 g.2.orders.length none, opened := openedOf g.1 g.2.orders.length none })), pre := none }
      (firedState n k s) := by
    unfold setFire
    dsimp only
    rw [hpre, if_pos (by rw [Bool.not_eq_true']; exact Bool.not_eq_true _ ▸ hopens)]
    rfl
  rw [hfire, setGroups_unfilled, auxStart_rom hquiet, auxDone_issue rfl, setIssue_unopened]

theorem groups_firedState : ((firedState n k s).cl n).groups = (s.cl n).groups := by
  rw [firedState, putCl_cl_self]
  exact firedCluster_keeps (f := Cluster.groups) (fun _ _ _ => rfl) (fun _ _ => rfl) (fun _ _ _ => rfl) ..

theorem setRunning_groups (k : Nat) (gs : List Group) (c : Cluster) : setRunning k { c with groups := gs } = setRunning k c :=
  congrArg (bitOf 2) (ioGet_congr rfl _)

/-- A set that fires runs, with its groups among those of the cluster. -/
theorem fires_fields {t : State} (ht : t = (firedState n k s).modCl n fun c =>
      { c with groups := fireGroups ((setGroups k (takeStaged (fun _ => true) k (s.cl n))).map (·.2)) c.groups }) :
    t.ev = s.ev ∧ t.mem = s.mem ∧ setRunning k (t.cl n) = true ∧
      (t.cl n).groups = fireGroups ((setGroups k (takeStaged (fun _ => true) k (s.cl n))).map (·.2)) (s.cl n).groups := by
  subst ht
  refine ⟨rfl, rfl, ?_, ?_⟩
  · rw [modCl_cl_self]
    rw [setRunning_groups, firedState, putCl_cl_self]
    exact setRunning_firedCluster k k.isLt _ _
  · rw [modCl_cl_self]
    rw [groups_firedState]

end

section
variable {n : Cl} {k : Set8} {s : State}

/-! ## What a read leaves (R31, R158) -/

/-- The part of a cluster that no read of memory changes: its groups and sets. -/
def unreadCl (c : Cluster) : List Group × SMap SetSt := (c.groups, c.sets)

/-- What no read of memory changes: memory, and the groups and sets of every cluster. -/
def unread (s : State) : SMap Word × (Cl → List Group × SMap SetSt) := (s.mem, fun m => unreadCl (s.cl m))

theorem unreadCl_ioPut (o : Nat) (v : Word) (c : Cluster) : unreadCl (ioPut o v c) = unreadCl c := rfl

theorem unreadCl_ask (ks : List Nat) (c : Cluster) : unreadCl (ask ks c) = unreadCl c := rfl

theorem unreadCl_recordEcc (ue : Bool) (bank row : Nat) (c : Cluster) : unreadCl (recordEcc ue bank row c) = unreadCl c :=
  unreadCl_ioPut ..

theorem unreadCl_recordXecc (ue : Bool) (off : Nat) (c : Cluster) : unreadCl (recordXecc ue off c) = unreadCl c := unreadCl_ioPut ..

theorem unreadCl_startBankCopy (fresh : Bool) (bank : Nat) (c : Cluster) : unreadCl (startBankCopy fresh bank c) = unreadCl c :=
  reads_ite (g := unreadCl) rfl (reads_ite rfl (reads_ite rfl rfl))

theorem unreadCl_bad (l : List BadRow) (c : Cluster) : unreadCl { c with bad := l } = unreadCl c := rfl

theorem unreadCl_setBadRow (bank row : Nat) (f : BadRow → BadRow) (c : Cluster) : unreadCl (setBadRow bank row f c) = unreadCl c :=
  unreadCl_bad ..

theorem unreadCl_errors (b : List BadRow) (x : List BadWord) (c : Cluster) : unreadCl { c with bad := b, xbad := x } = unreadCl c := rfl

theorem unreadCl_rowRepair (c : Cluster) : unreadCl (rowRepair c) = unreadCl c := (unreadCl_ioPut ..).trans (unreadCl_errors ..)

theorem unread_modCl {f : Cluster → Cluster} (h : ∀ c, unreadCl (f c) = unreadCl c) (m : Cl) (s : State) :
    unread (s.modCl m f) = unread s :=
  Prod.ext rfl (funext fun j => modCl_keeps (g := unreadCl) h m j s)

theorem unread_putCl {m : Cl} {c : Cluster} {s : State} (h : unreadCl c = unreadCl (s.cl m)) : unread (s.putCl m c) = unread s := by
  refine Prod.ext rfl (funext fun j => ?_)
  show unreadCl ((s.putCl m c).cl j) = unreadCl (s.cl j)
  rw [putCl_cl]
  split
  next hj => rw [h, hj]
  next => rfl

theorem unread_odCount (i j : Nat) (s : State) : unread (odCount i j s) = unread s := rfl

theorem unread_drawn (s : State) : unread (drawn s) = unread s := rfl

theorem unread_unlessRuns (m : Cl) {f : Cluster → Cluster} (h : ∀ c, unreadCl (f c) = unreadCl c) (s : State) :
    unread (unlessRuns m f s) = unread s := reads_ite rfl (unread_modCl h m s)

theorem unread_refuse (m : Cl) (i off : Nat) (g : Agent) (w : Bool) (s : State) : unread (refuse m i off g w s) = unread s :=
  (unread_odCount ..).trans (unread_modCl (unreadCl_ioPut _ _) m s)

theorem unread_lsUncorrectable (m : Cl) (b : BadRow) (s : State) : unread (lsUncorrectable m b s) = unread s :=
  (unread_odCount ..).trans (unread_modCl (fun _ => (unreadCl_startBankCopy ..).trans (unreadCl_recordEcc ..)) m s)

theorem unreadCl_corrected (l : List (Nat × Nat × BitVec 64)) (c : Cluster) : unreadCl { c with corrected := l } = unreadCl c := rfl

theorem unread_lsCorrected (m : Cl) (bank row bit : Nat) (s : State) : unread (lsCorrected m bank row bit s) = unread s := by
  refine (unread_unlessRuns m unreadCl_rowRepair _).trans ((unread_odCount ..).trans (unread_putCl ?_))
  have hrow : ∀ f l, unreadCl (setBadRow bank row f { recordEcc false bank row (s.cl m) with corrected := l }) = unreadCl (s.cl m) :=
    fun f l => (unreadCl_setBadRow ..).trans ((unreadCl_corrected l _).trans (unreadCl_recordEcc ..))
  exact reads_ite ((unreadCl_startBankCopy ..).trans (hrow ..)) (hrow ..)

theorem unreadCl_ueSeen (l : List (Nat × Nat × BitVec 64)) (c : Cluster) : unreadCl { c with ueSeen := l } = unreadCl c := rfl

theorem unread_lsRead (m : Cl) (off : Nat) (s : State) : unread (lsRead m off s).2 = unread s := by
  unfold lsRead
  split
  · rfl
  next b _ =>
    extract_lets here
    split
    · exact reads_ite (g := unread) rfl ((unread_lsUncorrectable ..).trans (unread_modCl (fun _ => unreadCl_ueSeen ..) m s))
    · exact reads_ite (g := fun r : Bool × State => unread r.2) rfl (reads_ite (g := unread) (unread_lsCorrected ..) rfl)

theorem unread_badWordRead (spare : Bool) (b : BadWord) (s : State) : unread (badWordRead spare b s).2 = unread s :=
  reads_ite (g := fun r : Option (BadWord × Bool) × State => unread r.2) rfl
    (reads_ite (g := fun r : Option (BadWord × Bool) × State => unread r.2) rfl rfl)

theorem unreadCl_xbad (l : List BadWord) (x : Nat) (c : Cluster) : unreadCl { c with xbad := l, xspares := x } = unreadCl c := rfl

theorem unread_xchgRead (m : Cl) (off : Nat) (s : State) : unread (xchgRead m off s).2 = unread s := by
  unfold xchgRead
  dsimp only
  split
  · rfl
  next b _ =>
    have h := unread_badWordRead
      (((s.cl m).xbad.any fun x => x.repeated && x.off / 16 == off / 16) || decide ((s.cl m).xspares < 4)) b s
    split
    next t ht => rw [ht] at h; exact (unread_modCl (unreadCl_recordXecc true off) m t).trans h
    next t ht => rw [ht] at h; exact h
    next b' t ht =>
      rw [ht] at h
      exact (unread_unlessRuns m unreadCl_rowRepair _).trans
        ((unread_modCl (fun _ => (unreadCl_recordXecc ..).trans (unreadCl_xbad ..)) m t).trans h)

theorem unreadCl_ibad (l : List BadWord) (c : Cluster) : unreadCl { c with ibad := l } = unreadCl c := rfl

theorem unread_istoreRead (m : Cl) (off : Nat) (s : State) : unread (istoreRead m off s).2 = unread s := by
  unfold istoreRead
  split
  · rfl
  next b _ =>
    have h := unread_badWordRead false b s
    split
    next t ht => rw [ht] at h; exact h
    next b' w t ht => rw [ht] at h; exact (unread_modCl (fun _ => unreadCl_ibad ..) m t).trans h

theorem unread_deepUe (l : Nat) (s : State) : unread (deepUe l s) = unread s := reads_ite rfl rfl

theorem unread_xchgCollide (m : Cl) (off : Nat) (a : Bool) (s : State) : unread (xchgCollide m off a s) = unread s :=
  (unread_odCount ..).trans ((unread_modCl (fun _ => (unreadCl_ioPut ..).trans
    (reads_ite (unreadCl_ioPut ..) (unreadCl_ioPut ..))) m (drawn s)).trans (unread_drawn s))

theorem unreadCl_xlast (l : List XAccess) (c : Cluster) : unreadCl { c with xlast := l } = unreadCl c := rfl

theorem unread_xchgNote (m : Cl) (off : Nat) (a w : Bool) (met : Option Bool) (s : State) :
    unread (xchgNote m off a w met s).2 = unread s := unread_modCl (fun _ => unreadCl_xlast ..) m s

theorem unread_portRead (m : Cl) (off : Nat) (g : Agent) (s : State) : unread (portRead m off g s).2 = unread s := by
  unfold portRead
  extract_lets stream waits after p before t u
  have hp : unread p.2 = unread s := (unread_xchgNote ..).trans (reads_ite (unread_drawn s) rfl)
  have ht : unread t = unread s := reads_ite hp ((unread_drawn _).trans hp)
  have hu : unread u = unread s := reads_ite ((unread_xchgCollide ..).trans ht) ht
  exact reads_ite (g := fun r : Option Word × State => unread r.2) ((unread_drawn u).trans hu) hu

theorem unread_ask (m : Cl) (ks : List Nat) (s : State) : unread (s.modCl m (ask ks)) = unread s := unread_modCl (unreadCl_ask ks) m s

theorem unread_agentRead (g : Agent) (a : Nat) (s : State) : unread (agentRead g a s).2 = unread s := by
  unfold agentRead
  split
  case h_1 m off _ =>
    split
    · exact unread_refuse ..
    · rfl
    · exact (unread_lsRead ..).trans (unread_ask ..)
  case h_2 m off _ =>
    split
    · exact unread_refuse ..
    · rfl
    · extract_lets p
      have hp : unread p.2 = unread s := by
        refine reads_ite (g := fun r : Option Word × State => unread r.2) ?_ rfl
        exact (unread_portRead ..).trans (reads_ite rfl (unread_ask ..))
      split
      · exact hp
      · exact (unread_xchgRead ..).trans hp
  case h_3 m off _ => exact reads_ite (g := fun r : Acc × State => unread r.2) rfl (unread_istoreRead ..)
  case h_4 off _ => exact reads_ite (g := fun r : Acc × State => unread r.2) (unread_deepUe ..) rfl
  case h_5 => rfl
  case h_6 => rfl

/-! ## Pre-open (R101, R103, R158) -/

theorem unread_preopenStream (n : Cl) (b : Nat) (g : Group) (starts : Bool) (p : PreOpenSt × State) (x : Strm) :
    unread (preopenStream n b g starts p x).2 = unread p.2 := by
  unfold preopenStream
  extract_lets num note
  have hnote : ∀ cause a q, (note cause a q).2 = q.2 := fun cause a q => reads_ite (g := fun r : PreOpenSt × State => r.2) rfl rfl
  clear_value note
  split
  · exact congrArg unread (hnote ..)
  · split
    · rfl
    · split
      · exact congrArg unread (hnote ..)
      · rfl
      · refine reads_ite (g := fun r : PreOpenSt × State => unread r.2) rfl ?_
        refine foldl_keeps (fun r : PreOpenSt × State => unread r.2) (fun u j => ?_) _ _
        have hread := unread_agentRead (.stream n) (fillAddr x j) u.2
        generalize agentRead (.stream n) (fillAddr x j) u.2 = r at hread ⊢
        obtain ⟨acc, t⟩ := r
        cases acc with
        | ue => exact (congrArg unread (hnote ..)).trans hread
        | _ => exact hread

/-- What pre-open of set `k` finds, and the state in which its reads leave the device. -/
def preOpened (n : Cl) (k : Nat) (s : State) : PreOpenSt × State :=
  let c1 := takeStaged (fun _ => true) k (s.cl n)
  (setGroups k c1).foldl (fun (p : PreOpenSt × State) g =>
    if groupN g.2.orders = 0 then p
    else ((groupStreams (groupN g.2.orders) g.2.orders).filter (fun x => !x.wr)).foldl
      (preopenStream n g.1 g.2 (startsAtTick n k (preopenEdge s) c1 g.2)) p) (⟨[], [], []⟩, s.putCl n c1)

theorem unread_preOpened (n : Cl) (k : Nat) (s : State) :
    unread (preOpened n k s).2 = unread (s.putCl n (takeStaged (fun _ => true) k (s.cl n))) :=
  foldl_keeps (fun r : PreOpenSt × State => unread r.2) (fun p _ =>
    reads_ite (g := fun r : PreOpenSt × State => unread r.2) rfl
      (foldl_keeps (fun r : PreOpenSt × State => unread r.2) (fun _ _ => unread_preopenStream ..) _ p)) _ _

theorem foldl_id_of_mem {α β : Type} {f : β → α → β} {b : β} {l : List α} (h : ∀ x ∈ l, f b x = b) : l.foldl f b = b :=
  List.foldlRecOn (motive := fun c => c = b) l f rfl fun _ hc x hx => hc ▸ h x hx

/-- Without a read stream nothing is opened. -/
theorem preOpened_writes {n : Cl} {k : Nat} {s : State} (h : ∀ g ∈ setGroups k (takeStaged (fun _ => true) k (s.cl n)),
      ∀ x ∈ groupStreams (groupN g.2.orders) g.2.orders, x.wr = true) : (preOpened n k s).1 = ⟨[], [], []⟩ := by
  refine congrArg Prod.fst (foldl_id_of_mem fun g hg => ?_)
  have hnone : (groupStreams (groupN g.2.orders) g.2.orders).filter (fun x => !x.wr) = [] := by
    rw [List.filter_eq_nil_iff]
    intro x hx
    simp [h g hg x hx]
  rw [hnone, List.foldl_nil, ite_self]

/-- The cluster with what pre-open found held for the tick. -/
def preOpenHeld (k : Nat) (p : PreOpenSt) (c : Cluster) : Cluster :=
  putSet k { setOf k c with pre := some p } (if p.words = [] then c else ask [0, 1, 2, 3, 4, 5] c)

theorem preOpenRun_eq (n : Cl) (k : Nat) (s : State) :
    preOpenRun n k s = (preOpened n k s).2.modCl n (preOpenHeld k (preOpened n k s).1) := rfl

theorem groups_preOpenHeld (k : Nat) (p : PreOpenSt) (c : Cluster) : (preOpenHeld k p c).groups = c.groups :=
  reads_ite (g := Cluster.groups) rfl rfl

theorem staged_takeStaged (k : Nat) (c : Cluster) : (setOf k (takeStaged (fun _ => true) k c)).staged = [] := by
  rw [takeStaged, setOf_putSet]
  simp

theorem auxDone_preOpen {x : AuxRun} (h1 : x.kind = 1) : auxDone n x s = preOpenRun n x.set s := by
  obtain ⟨kind, set, half, ctx, stage, groups, pre⟩ := x
  subst h1
  rfl

theorem preOpens {k : Set8} (hc : clocked n s = true) (ha : setArm k (s.cl n) = true) (hp : setPreopens k (s.cl n) = true)
    (haux : (s.cl n).aux.any (fun x => x.kind == 1 && x.set == k.val) = false) (hpre : (setOf k (s.cl n)).pre = none)
    (hr : gridRun s = true) (hst : setsStopped (s.cl n) = false) (ht : preopenTime n s = true)
    (hedge : tickSet n k (preopenEdge s) (s.cl n) = true) (hrom : microQuiet (activeHalf n s) (s.cl n) = true) :
    exec (.preOpen n k) s = .next (preOpenRun n k s) := by
  have hgo : ¬ (!setArm k (s.cl n) ∨ !setPreopens k (s.cl n) ∨ (setOf k (s.cl n)).pre.isSome ∨ !gridRun s ∨ setsStopped (s.cl n) ∨
      !preopenTime n s ∨ !tickSet n k (preopenEdge s) (s.cl n) ∨ (s.cl n).aux.any (fun x => x.kind == 1 && x.set == k.val)) := by
    simp only [ha, hp, haux, hpre, hr, hst, ht, hedge, Bool.not_true, Option.isSome_none, Bool.false_eq_true, or_self, not_false_eq_true]
  show execPreOpen n k s = _
  rw [execPreOpen, onIsland_eq hc]
  dsimp only
  rw [if_neg hgo, auxStart_rom hrom, auxDone_preOpen rfl]
  rfl

/-- Memory, the groups and the set as pre-open leaves them. -/
theorem preOpenRun_fields (n : Cl) (k : Nat) (s : State) :
    let c1 := takeStaged (fun _ => true) k (s.cl n)
    (preOpenRun n k s).mem = s.mem ∧ ((preOpenRun n k s).cl n).groups = (s.cl n).groups ∧
      setOf k ((preOpenRun n k s).cl n) = { setOf k c1 with pre := some (preOpened n k s).1 } := by
  intro c1
  have hkept := unread_preOpened n k s
  have hcl : unreadCl ((preOpened n k s).2.cl n) = unreadCl c1 := by
    have h := congrFun (congrArg Prod.snd hkept) n
    refine h.trans (congrArg unreadCl ?_)
    exact putCl_cl_self ..
  rw [preOpenRun_eq, modCl_cl_self]
  refine ⟨congrArg Prod.fst hkept, ?_, ?_⟩
  · rw [groups_preOpenHeld]
    exact congrArg Prod.fst hcl
  · rw [preOpenHeld, setOf_putSet, setOf_congr (congrArg Prod.snd hcl)]

end

end Sys2Proof.Machine

namespace Sys2Proof.Proofs

open Sys2Proof.Machine Sys2Proof.Claims

/-- Settles O28: each write of VU_SETn_CTL and of VU_SDESC_CMD has one accepted form, whose bits are read back; an event meets
the set as it runs or fires; and the reads of a pre-open change no memory, group or set. -/
theorem standingSets : Obligations.StandingSets := by
  unfold Obligations.StandingSets
  refine ⟨?life, ?fires, ?preopens⟩
  case life =>
    intro n k start preopen d s c attr hc
    refine ⟨fun ha hb hall => ?_, fun ha hb hf => ?_, fun ha hb hbuilt => ?_, fun _ hb => ?_, fun hb hrom => ?_⟩
    · obtain ⟨-, -, h4, hs⟩ := openValue_fields start preopen
      obtain ⟨hbuild, hbuilt, hstart, hcount, hpre⟩ := ctl_opened ha hb start preopen h4 hs
      refine ⟨_, setBuildOpens hc ha hall start preopen, ?_⟩
      rw [setBind_cl, putCl_cl_self, setBind_mem]
      exact ⟨hbuild, hbuilt, hstart, hcount, hpre, by rw [setOf_ioSetBit, setOf_buildOpen], rfl⟩
    · obtain ⟨hbuild, hbuilt⟩ := ctl_closed k c
      refine ⟨_, setBuildCloses hc ha hb hf, ?_⟩
      rw [setBind_cl, putCl_cl_self]
      exact ⟨hbuild, hbuilt, fun j hj => table_closed hj k c⟩
    · refine ⟨_, setArms hc ha hb hbuilt, ?_⟩
      rw [setBind_cl, putCl_cl_self]
      exact ⟨by rw [setArm, ioBit_ioSetBit_self (by decide), if_pos rfl], by rw [setOf_ioSetBit, setOf_putSet]⟩
    · refine ⟨_, setDisarms hc hb, ?_⟩
      rw [setBind_cl, putCl_cl_self, setArm, ioBit_ioSetBit_self (by decide), if_pos rfl]
    · have hstaged := staged_stageChange k (stagedChange d s.ticks c) c
      refine ⟨_, sdescCmdStages hc hb hrom d, ?_, ?_⟩
      · rw [putCl_cl_self]
        exact dpend_syncDpend (by rw [hstaged]; exact List.append_ne_nil_of_right_ne_nil _ (List.cons_ne_nil _ _))
      · rw [putCl_cl_self, setOf_syncDpend, hstaged]
        rfl
  case fires =>
    intro n k s hc hw hr hh hi hst ha htick hpre hrom gs mine ahead
    have hexec := execSetFireEvent_armed hc hw hr hh hi hst ha htick
    cases hrun : setRunning k (s.cl n) with
    | true =>
      obtain ⟨hovr, hirq, hkeep⟩ := missed_fields k (s.cl n)
      rw [hrun, if_pos rfl] at hexec
      refine ⟨_, hexec, rfl, ?_, rfl, fun _ => ?_, fun h => absurd h (by decide)⟩
      · rw [putCl_cl_self, hkeep, hrun]
      · rw [putCl_cl_self]
        exact ⟨hovr, hirq, rfl⟩
    | false =>
      rw [hrun, if_neg Bool.false_ne_true] at hexec
      obtain ⟨hev, hmem, hnow, hgroups⟩ := fires_fields (setFire_unopened (s := takeTask (taskSet n k) s) htick hpre hrom)
      exact ⟨_, hexec, congrArg Ev.taskIn hev, hnow, hmem, fun h => absurd h (by decide), fun _ => hgroups⟩
  case preopens =>
    intro n k s hc ha hp haux hpre hr hst ht hedge hrom c1
    obtain ⟨hmem, hgroups, hset⟩ := preOpenRun_fields n k s
    refine ⟨_, preOpens hc ha hp haux hpre hr hst ht hedge hrom, hmem, hgroups, ?_, ?_, ?_, fun hwr => ?_⟩
    · rw [hset]
      rfl
    · rw [hset]
      exact staged_takeStaged k (s.cl n)
    · rw [hset]
    · rw [hset, preOpened_writes hwr]

end Sys2Proof.Proofs
end
section
/-!
PROOFS. Reductions, the orders on mask bits, compress and expand over their elements (O27).
-/
namespace Sys2Proof.Machine

open Sys2Proof.Claims

/-! ## The elements of an order one after the other -/

/-- A gathering that follows `st` from each element to the next, whatever packed word was read last, ends as `st` says. -/
theorem foldl_range_follows {σ : Type} {W : Nat × Nat × Nat → Word} {s : State} {f : σ → Nat → σ}
    {st : Option ((Nat × Nat × Nat) × Word) → Nat → σ} {num : Nat}
    (hf : ∀ pk k, k < num → Packed W ⟨s, false, none, 0, pk⟩ →
      ∃ pk', Packed W ⟨s, false, none, 0, pk'⟩ ∧ f (st pk k) k = st pk' (k + 1)) :
    ∃ pk, Packed W ⟨s, false, none, 0, pk⟩ ∧ (List.range num).foldl f (st none 0) = st pk num := by
  suffices h : ∀ k ≤ num, ∃ pk, Packed W ⟨s, false, none, 0, pk⟩ ∧ (List.range k).foldl f (st none 0) = st pk k from
    h num le_rfl
  intro k hk
  induction k with
  | zero => exact ⟨none, fun _ _ h => absurd h (by simp), rfl⟩
  | succ k ih =>
    obtain ⟨pk, hp, he⟩ := ih (Nat.le_of_succ_le hk)
    obtain ⟨pk', hp', he'⟩ := hf pk k hk hp
    exact ⟨pk', hp', by rw [List.range_succ, List.foldl_append, he, List.foldl_cons, List.foldl_nil, he']⟩

/-- An element of a packed stream is its bit of the stream's words. -/
theorem readElem_packed {n : Cl} {g : Group} {y : Strm} {k : Nat} {W : Nat × Nat × Nat → Word} {s : State}
    (hy : ReadsBits n g y k W s) {i : Nat} (hi : i < k) {r : Run} (hs : r.s = s) (hp : Packed W r) :
    ∃ pk, Packed W { r with pk := pk } ∧ readElem n g y i i r =
      (if bitOf (i % 24) (W (y.pos, y.role, i / 24)) then 1 else 0, { r with pk := pk }) := by
  obtain ⟨hmode, hread⟩ := hy
  have hword := hread (i / 24) i r (by omega) hs
  have hidx : y.indexed = false := by simp [Strm.indexed, hmode]
  have hplain : readElem n g y i i r = readPlain n g y i i r := by simp [readElem, hidx]
  have hnew : Packed W { r with pk := some ((y.pos, y.role, i / 24), W (y.pos, y.role, i / 24)) } := by
    rintro k w h
    cases h
    rfl
  rw [hplain, readPlain, if_pos hmode]
  cases hpk : r.pk with
  | none => exact ⟨_, hnew, by simp [hword]⟩
  | some e =>
    obtain ⟨k', w⟩ := e
    by_cases hk : k' = (y.pos, y.role, i / 24)
    · subst hk
      have hw := hp _ _ hpk
      subst hw
      exact ⟨r.pk, hp, by simp⟩
    · exact ⟨_, hnew, by simp [hk, hword]⟩

/-- The destination of an order: there is one where the order writes, that of MCNT of one element, that of VEXPD of the group's. -/
theorem roleOf_dst {q : QOrder} {num pos : Nat} {x : Strm} (hx : roleOf (orderStreams num pos q) 0 = some x) :
    writesDst q = true ∧ (q.op = .mcnt → x.cnt = 1) ∧ (q.op = .vexpd → x.cnt = num) := by
  have hrole : x.role = 0 := by simpa using List.find?_some hx
  have hmem := List.mem_of_find?_eq_some hx
  unfold orderStreams at hmem
  simp only [List.mem_append] at hmem
  obtain (hsrc | hmask) | hdst := hmem
  · obtain ⟨j, hj, rfl⟩ := List.mem_map.mp hsrc
    obtain ⟨i, -, rfl⟩ := List.mem_map.mp (List.mem_filter.mp hj).1
    split_ifs at hrole
  · split at hmask
    · rw [List.mem_singleton.mp hmask] at hrole
      exact absurd hrole (Nat.succ_ne_zero 2)
    · exact absurd hmask List.not_mem_nil
  · split at hdst
    · exact absurd hdst List.not_mem_nil
    next hwr =>
      refine ⟨by simpa using hwr, fun hv => ?_, fun hv => ?_⟩ <;> rw [hv] at hdst <;> rw [List.mem_singleton.mp hdst] <;> rfl

theorem roleOf_dst_none {q : QOrder} (h : writesDst q = false) (num pos : Nat) : roleOf (orderStreams num pos q) 0 = none := by
  cases hx : roleOf (orderStreams num pos q) 0 with
  | none => rfl
  | some x => exact absurd (roleOf_dst hx).1 (by simp [h])

/-! ## Reductions (R88, R136–R144) -/

/-- The term that a reduction takes from element `i` of its operands. -/
def termOf (v : VOp) (a b : Nat → DWord) (i : Nat) : Term :=
  ⟨i, a i, match v with
    | .rdot | .rsegdot => some (b i)
    | .rsumsq => some (a i)
    | _ => none⟩

theorem termOf_eq (v : VOp) (a b : Nat → DWord) (i : Nat) : termOf v a b i =
    ⟨i, a i, if v ∈ [VOp.rdot, .rsegdot] then some (b i) else if v = .rsumsq then some (a i) else none⟩ := by
  unfold termOf
  split <;> simp_all

/-- What a reduction has gathered behind its first `k` elements, none of which closes a segment. -/
def termsGathered (v : VOp) (m : Nat → Bool) (a b : Nat → DWord) (s : State) (fl : BitVec 5)
    (pk : Option ((Nat × Nat × Nat) × Word)) (k : Nat) : Run × List (Option Term × Bool) :=
  (⟨s, false, none, fl, pk⟩, ((List.range k).map fun i => (if m i then some (termOf v a b i) else none, false)).reverse)

/-- The segment bits of an order, where it has segments, are 0. -/
def OneSegment (n : Cl) (g : Group) (q : QOrder) (W : Nat × Nat × Nat → Word) (s : State) : Prop :=
  ∀ y, vopSeg q.op = true → roleOf (orderStreams g.n g.pos q) 3 = some y → ReadsBits n g y g.n W s ∧ ∀ c, W (y.pos, y.role, c) = 0

section
variable {n : Cl} {g : Group} {q : QOrder} {m : Nat → Bool} {a b : Nat → DWord} {W : Nat × Nat × Nat → Word} {s : State}

/-- One element of a reduction gives its term where it is active, and closes no segment. -/
theorem runTerm_gives (hm : Mask n g q m W s) (ha : Reads n g q 1 a W s) (hb : Reads n g q 2 b W s) (hseg : OneSegment n g q W s)
    {i : Nat} (hi : i < g.n) {acc : Run × List (Option Term × Bool)} (hs : acc.1.s = s) (hp : Packed W acc.1) :
    ∃ pk, Packed W { acc.1 with pk := pk } ∧ runTerm n g (orderStreams g.n g.pos q) q acc i =
      ({ acc.1 with pk := pk }, (if m i then some (termOf q.op a b i) else none, false) :: acc.2) := by
  obtain ⟨p1, h1, e1⟩ := hm i acc.1 hi hs hp
  obtain ⟨p2, h2, e2⟩ := ha i { acc.1 with pk := p1 } hi hs h1
  obtain ⟨p3, h3, e3⟩ := hb i { acc.1 with pk := p2 } hi hs h2
  by_cases hv : vopSeg q.op = true
  · cases hy : roleOf (orderStreams g.n g.pos q) 3 with
    | none => exact ⟨p3, h3, by simp only [runTerm, e1, e2, e3, hv, hy, if_true] <;> rfl⟩
    | some y =>
      obtain ⟨hbits, hzero⟩ := hseg y hv hy
      obtain ⟨p4, h4, e4⟩ := readElem_packed hbits hi (r := { acc.1 with pk := p3 }) hs h3
      have hbit : decide ((if bitOf (i % 24) (W (y.pos, y.role, i / 24)) then (1 : DWord) else 0) ≠ 0) = false := by
        simp [hzero, bitOf]
      exact ⟨p4, h4, by simp only [runTerm, e1, e2, e3, hv, hy, e4, hbit, if_true] <;> rfl⟩
  · exact ⟨p3, h3, by simp only [runTerm, e1, e2, e3, hv, Bool.false_eq_true, if_false] <;> rfl⟩

/-- All terms of a reduction. -/
theorem foldl_runTerm (hm : Mask n g q m W s) (ha : Reads n g q 1 a W s) (hb : Reads n g q 2 b W s) (hseg : OneSegment n g q W s)
    (fl : BitVec 5) : ∃ pk, Packed W ⟨s, false, none, 0, pk⟩ ∧
      (List.range g.n).foldl (runTerm n g (orderStreams g.n g.pos q) q) (⟨s, false, none, fl, none⟩, []) =
        termsGathered q.op m a b s fl pk g.n := by
  refine foldl_range_follows (W := W) (s := s) (st := termsGathered q.op m a b s fl) fun pk k hk hp => ?_
  obtain ⟨pk', hp', he⟩ := runTerm_gives hm ha hb hseg hk (acc := termsGathered q.op m a b s fl pk k) rfl hp
  exact ⟨pk', hp', by rw [he]; simp [termsGathered, List.range_succ]⟩

end

/-- Elements none of which closes a segment make one that ends with the last. -/
theorem segments_fold (num : Nat) (p : Nat) (l : List (Nat × Nat)) : ∀ (k j : Nat), j + (k + 1) = num →
    ((List.replicate (k + 1) false).zipIdx j).foldl (fun (p : List (Nat × Nat) × Nat) e =>
      if e.1 ∨ e.2 + 1 = num then ((p.2, e.2) :: p.1, e.2 + 1) else p) (l, p) = ((p, num - 1) :: l, num)
  | 0, j, h => by
    obtain rfl : num = j + 1 := by omega
    simp
  | k + 1, j, h => by
    have hlast : ¬ j + 1 = num := by omega
    rw [List.replicate_succ, List.zipIdx_cons, List.foldl_cons, if_neg (by simpa using hlast)]
    exact segments_fold num p l k (j + 1) (by omega)

theorem segments_one {num : Nat} (h : 0 < num) (seg : Bool) : segments num seg (List.replicate num false) = [(0, num - 1)] := by
  obtain ⟨k, rfl⟩ := Nat.exists_eq_add_of_lt h
  cases seg with
  | false => rfl
  | true =>
    have hfold := segments_fold (0 + k + 1) 0 [] (0 + k) 0 (by omega)
    simp only [segments, hfold]
    rfl

/-- With no flag enabled to trap a list of flags is noted and nothing else. -/
theorem Run.foldl_note_quiet {g : Group} (h : g.trapen = 0) (pos : Nat) (l : List (Nat × Fl)) (r : Run) :
    l.foldl (fun u f => Run.note g pos f.1 f.2 u) r =
      { r with flags := r.flags ||| l.foldl (fun m f => m ||| f.2.setWidth 5) 0 } := by
  have hinit (l : List (Nat × Fl)) (x : BitVec 5) :
      l.foldl (fun m f => m ||| f.2.setWidth 5) x = x ||| l.foldl (fun m f => m ||| f.2.setWidth 5) 0 := by
    simpa [List.foldl_map] using
      List.foldl_assoc (op := fun u v : BitVec 5 => u ||| v) (l := l.map fun f => f.2.setWidth 5) (a₁ := x) (a₂ := 0#5)
  induction l generalizing r with
  | nil => simp
  | cons f l ih =>
    rw [List.foldl_cons, ih, Run.note_quiet h, List.foldl_cons, hinit l (0 ||| f.2.setWidth 5)]
    simp [BitVec.or_assoc]

/-- The active terms, in order. -/
theorem filterMap_terms (v : VOp) (m : Nat → Bool) (a b : Nat → DWord) (l : List Nat) :
    (l.map fun i => (if m i then some (termOf v a b i) else none, false)).filterMap (·.1) =
      (l.filter m).map (termOf v a b) := by
  rw [List.filterMap_map, ← List.filterMap_eq_map, List.filterMap_filter]
  rfl

section
variable {n : Cl} {g : Group} {q : QOrder} {m : Nat → Bool} {a b : Nat → DWord} {at' : Nat → Int} {W : Nat × Nat × Nat → Word}
  {s : State}

/-- The run of a reduction of one segment, which gives `res` for its active terms. -/
theorem runReduce_gives (hn : 0 < g.n) (hq : g.trapen = 0) (hm : Mask n g q m W s) (ha : Reads n g q 1 a W s)
    (hb : Reads n g q 2 b W s) (hl : Lands n g q at' W s) (hseg : OneSegment n g q W s) {x : Strm}
    (hx : roleOf (orderStreams g.n g.pos q) 0 = some x) (hcnt : 0 < x.cnt) {k : DWord} {res : RedRes}
    (hres : reduceOf q.op q.bits k 0 (g.n - 1) (((List.range g.n).filter m).map (termOf q.op a b)) = res) (fl : BitVec 5) :
    ∃ pk, runReduce n g (orderStreams g.n g.pos q) q k ⟨s, false, none, fl, none⟩ =
      ⟨⟨s, false, none, fl ||| res.flags.foldl (fun m f => m ||| f.2.setWidth 5) 0, pk⟩, [],
        dstWords (some x) at' [(0, g.n - 1, res.val)] [bitOf 0 res.val], none⟩ := by
  obtain ⟨p1, h1, he⟩ := foldl_runTerm hm ha hb hseg fl
  have hends : (termsGathered q.op m a b s fl p1 g.n).2.reverse.map (·.2) = List.replicate g.n false := by
    simp [termsGathered, Function.comp_def, List.map_const']
  have hterms : ((termsGathered q.op m a b s fl p1 g.n).2.reverse.drop 0 |>.take (g.n - 1 + 1 - 0)).filterMap (·.1) =
      ((List.range g.n).filter m).map (termOf q.op a b) := by
    rw [Nat.sub_zero, Nat.sub_add_cancel hn, List.drop_zero, List.take_of_length_le (by simp [termsGathered]), termsGathered,
      List.reverse_reverse, filterMap_terms]
  have hroom : (vopSeg q.op && decide (x.cnt ≤ 0)) = false := by
    rw [decide_eq_false (by omega), Bool.and_false]
  obtain ⟨pk, -, hput⟩ := Acc1.put_lands hl hx (j := 0) (i := g.n - 1) (by omega) (fun y hy => Option.some.inj hy ▸ hcnt) res.val
    (acc := ⟨⟨s, false, none, fl ||| res.flags.foldl (fun m f => m ||| f.2.setWidth 5) 0, p1⟩, [], [], [bitOf 0 res.val], 0⟩) rfl h1
  refine ⟨pk, ?_⟩
  simp only [runReduce, he, hends, segments_one hn, List.zipIdx_cons, List.zipIdx_nil, List.foldl_cons, List.foldl_nil, hx,
    Option.elim_some, hroom, Bool.false_eq_true, if_false, hterms, hres, Run.foldl_note_quiet hq]
  simp only [termsGathered, hput, dstWords_eq, packedWords]
  simp

end

/-! ## Orders on mask bits (R88, R90) -/

/-- The bit and the flags of an active element of VCMP, MLD or MST, from its operands and the bit of mask register MD. -/
def bitElem (v : VOp) (o : Order96) (a b : DWord) (old : Bool) : Bool × Fl :=
  match v with
  | .vcmp => vcmpElem o a b
  | .mld => (decide (a ≠ 0), 0)
  | _ => (old, 0)

theorem bitElem_vcmp (o : Order96) (a b : DWord) (old : Bool) : bitElem .vcmp o a b old = vcmpElem o a b := rfl

theorem bitElem_mst (o : Order96) (a b : DWord) (old : Bool) : bitElem .mst o a b old = (old, 0) := rfl

theorem bitElem_mld (o : Order96) (bit : Bool) (b : DWord) (old : Bool) :
    bitElem .mld o (if bit then 1 else 0) b old = (bit, 0) := by
  cases bit <;> rfl

/-- The bit of an inactive element: that of the mask register, or 0 in a packed destination and with MZ = 1. -/
def idleBit (q : QOrder) (old : Bool) : Bool := !(q.op == .mst || decide (oMd q.bits = 15)) && !oMz q.bits && old

/-- What such an order has gathered behind its first `k` elements: `m` tells the active ones, `e` gives their bits and flags. -/
def bitsGathered (q : QOrder) (m : Nat → Bool) (e : Nat → Bool × Fl) (old : Nat → Bool) (s : State) (fl : BitVec 5)
    (pk : Option ((Nat × Nat × Nat) × Word)) (k : Nat) : Acc1 where
  r := ⟨s, false, none, fl ||| orFlags k fun i => if m i then (e i).2 else 0, pk⟩
  out := []
  ws := []
  bs := ((List.range k).map fun i => if m i then (e i).1 else idleBit q (old i)).reverse
  cnt := 0

section
variable {n : Cl} {gid : Nat} {g : Group} {q : QOrder} {m : Nat → Bool} {a b : Nat → DWord} {W : Nat × Nat × Nat → Word} {s : State}
  {old : Nat → Bool}

/-- An operand that an order does not have reads all the same, and changes nothing. -/
theorem reads_beyond {j : Nat} (h : vopSrcs q.op < j) : ∃ v, Reads n g q j v W s := by
  refine ⟨fun i => if j = 1 ∧ oCi q.bits then g.chain.getD i 0 else 0, fun i r _ _ hp => ⟨r.pk, hp, ?_⟩⟩
  by_cases hc : j = 1 ∧ oCi q.bits = true
  · simp only [operand, if_pos hc]
  · simp only [operand, if_neg hc, if_pos h]

/-- The first operand of an order reads as the bits of its packed stream. -/
theorem reads_packed {y : Strm} (hv : 0 < vopSrcs q.op) (hci : oCi q.bits = false)
    (hy : roleOf (orderStreams g.n g.pos q) 1 = some y) (hbits : ReadsBits n g y g.n W s) :
    Reads n g q 1 (fun i => if bitOf (i % 24) (W (y.pos, y.role, i / 24)) then 1 else 0) W s := by
  intro i r hi hs hp
  obtain ⟨pk, hpk, he⟩ := readElem_packed hbits hi hs hp
  refine ⟨pk, hpk, ?_⟩
  rw [operand, if_neg (by simp [hci]), if_neg (Nat.not_lt.mpr hv), hy]
  exact he

/-- One element of an order on mask bits. -/
theorem runBit_gives (hq : g.trapen = 0) (hm : Mask n g q m W s) (ha : Reads n g q 1 a W s) (hb : Reads n g q 2 b W s)
    {i : Nat} (hi : i < g.n) {acc : Acc1} (hs : acc.r.s = s) (hp : Packed W acc.r)
    (hold : (smAt 0 (s.cl n).masks (oMd q.bits)).getLsbD i = old i) :
    ∃ pk, Packed W { acc.r with pk := pk } ∧ runBit n g (orderStreams g.n g.pos q) q acc i =
      { acc with
        r := { acc.r with
          flags := acc.r.flags ||| (if m i then (bitElem q.op q.bits (a i) (b i) (old i)).2 else 0).setWidth 5
          pk := pk }
        bs := (if m i then (bitElem q.op q.bits (a i) (b i) (old i)).1 else idleBit q (old i)) :: acc.bs } := by
  obtain ⟨p1, h1, e1⟩ := hm i acc.r hi hs hp
  obtain ⟨p2, h2, e2⟩ := ha i { acc.r with pk := p1 } hi hs h1
  obtain ⟨p3, h3, e3⟩ := hb i { acc.r with pk := p2 } hi hs h2
  refine ⟨p3, h3, ?_⟩
  subst hs
  simp only [runBit, e1, e2, e3, hold, Run.note_quiet hq]
  cases hmi : m i with
  | true => rfl
  | false => simp [idleBit]

/-- All bits of an order. -/
theorem foldl_runBit (hq : g.trapen = 0) (hm : Mask n g q m W s) (ha : Reads n g q 1 a W s) (hb : Reads n g q 2 b W s) (fl : BitVec 5)
    (hold : ∀ i, (smAt 0 (s.cl n).masks (oMd q.bits)).getLsbD i = old i) :
    ∃ pk, (List.range g.n).foldl (runBit n g (orderStreams g.n g.pos q) q) ⟨⟨s, false, none, fl, none⟩, [], [], [], 0⟩ =
      bitsGathered q m (fun i => bitElem q.op q.bits (a i) (b i) (old i)) old s fl pk g.n := by
  obtain ⟨pk, -, he⟩ := foldl_range_follows (W := W) (s := s) (num := g.n)
    (f := runBit n g (orderStreams g.n g.pos q) q)
    (st := bitsGathered q m (fun i => bitElem q.op q.bits (a i) (b i) (old i)) old s fl) fun pk k hk hp => by
      obtain ⟨pk', hp', he⟩ := runBit_gives hq hm ha hb hk 
        (acc := bitsGathered q m (fun i => bitElem q.op q.bits (a i) (b i) (old i)) old s fl pk k) rfl hp (hold k)
      exact ⟨pk', hp', by rw [he]; simp [bitsGathered, List.range_succ, orFlags_succ, BitVec.or_assoc]⟩
  refine ⟨pk, ?_⟩
  rw [← he]
  simp [bitsGathered, orFlags]

theorem vopRed_of_bits : vopRed .vcmp = false ∧ vopRed .mld = false ∧ vopRed .mst = false := by decide

/-- The run of an order on mask bits: into a packed destination, or as the new value of mask register MD. -/
theorem runOrder_bits (hv : q.op ∈ [VOp.vcmp, .mld, .mst]) (r : Run) :
    let acc := (List.range g.n).foldl (runBit n g (orderStreams g.n g.pos q) q) ⟨r, [], [], [], 0⟩
    let res := closeAcc (roleOf (orderStreams g.n g.pos q) 0) acc
    runOrder n g q r = if q.op = .mst ∨ oMd q.bits = 15 then res
      else { res with mask := some (oMd q.bits, maskWith (smAt 0 (acc.r.s.cl n).masks (oMd q.bits)) g.n acc.bs.reverse) } := by
  simp only [List.mem_cons, List.not_mem_nil, or_false] at hv
  obtain hv | hv | hv := hv <;> cases hx : roleOf (orderStreams g.n g.pos q) 0 <;>
    simp only [runOrder, hv, vopRed_of_bits, Bool.false_eq_true, if_false, hx, closeAcc, packedWords, List.length_reverse]

section
variable {M : BitVec 4096} {e : Nat → Bool × Fl} (hq : g.trapen = 0) (hm : Mask n g q m W s) (ha : Reads n g q 1 a W s)
  (hb : Reads n g q 2 b W s) (hM : smAt 0 (s.cl n).masks (oMd q.bits) = M)
  (he : ∀ i, bitElem q.op q.bits (a i) (b i) (M.getLsbD i) = e i) (fl : BitVec 5)
include hq hm ha hb hM he

/-- The run of VCMP or MLD whose bits are for mask register MD. -/
theorem runOrder_fills (hv : q.op = .vcmp ∨ q.op = .mld) (hmd : oMd q.bits < 8) : ∃ pk,
    runOrder n g q ⟨s, false, none, fl, none⟩ = ⟨⟨s, false, none, fl ||| orFlags g.n fun i => if m i then (e i).2 else 0, pk⟩, [], [],
      some (oMd q.bits, maskWith M g.n ((List.range g.n).map fun i =>
        if m i then (e i).1 else !oMz q.bits && M.getLsbD i))⟩ := by
  obtain ⟨pk, hfold⟩ := foldl_runBit hq hm ha hb fl (old := M.getLsbD) fun i => by rw [hM]
  rw [funext he] at hfold
  have hmd15 : oMd q.bits ≠ 15 := by omega
  have hst : ¬ q.op = .mst := by obtain hv | hv := hv <;> rw [hv] <;> decide
  have hidle (i : Nat) : idleBit q (M.getLsbD i) = (!oMz q.bits && M.getLsbD i) := by
    simp [idleBit, beq_eq_false_iff_ne.mpr hst, hmd15]
  have hnone : roleOf (orderStreams g.n g.pos q) 0 = none := by
    refine roleOf_dst_none ?_ _ _
    obtain hv | hv := hv <;> simp [writesDst, hv, hmd15]
  refine ⟨pk, ?_⟩
  rw [runOrder_bits (by obtain hv | hv := hv <;> simp [hv]), if_neg (by simp [hst, hmd15]), hfold, hnone]
  simp only [closeAcc, packedWords, bitsGathered, hM, hidle, List.reverse_reverse, List.reverse_nil, List.append_nil]

/-- The run of VCMP or MST whose bits go to a packed destination. -/
theorem runOrder_packs (hv : q.op = .mst ∨ q.op = .vcmp ∧ oMd q.bits = 15) {x : Strm}
    (hx : roleOf (orderStreams g.n g.pos q) 0 = some x) (hmode : x.d.mode = 2) : ∃ pk,
    runOrder n g q ⟨s, false, none, fl, none⟩ = ⟨⟨s, false, none, fl ||| orFlags g.n fun i => if m i then (e i).2 else 0, pk⟩, [],
      packBits x g.n ((List.range g.n).map fun i => m i && (e i).1), none⟩ := by
  obtain ⟨pk, hfold⟩ := foldl_runBit hq hm ha hb fl (old := M.getLsbD) fun i => by rw [hM]
  rw [funext he] at hfold
  have hpacked : q.op = .mst ∨ oMd q.bits = 15 := hv.imp_right And.right
  have hidle (o : Bool) : idleBit q o = false := by obtain h | h := hpacked <;> simp [idleBit, h]
  refine ⟨pk, ?_⟩
  rw [runOrder_bits (by obtain hv | ⟨hv, -⟩ := hv <;> simp [hv]), if_pos hpacked, hfold, hx]
  simp [closeAcc, packedWords, bitsGathered, hidle, hmode]

end

end

/-! ## The order in its group -/

theorem vopRed_of_reduceOps : ∀ p ∈ reduceOps, vopRed p.1 = true := by decide

theorem exec_reduceOps (n : Cl) (gid : Nat) (s : State) : ∀ p ∈ reduceOps, exec (p.2 n gid) s = .next (runOp p.1 n gid s) := by
  simp only [reduceOps, List.forall_mem_cons]
  and_intros
  case refine_2 => exact fun _ h => absurd h List.not_mem_nil
  all_goals rfl


theorem mergeWords_nil (l : List WWord) : mergeWords l [] = l := by
  induction l with
  | nil => rfl
  | cons w l ih => simp [mergeWords, ih]

/-- The next order of a group runs to its end and gives mask register `k` a value: what it leaves in its group. -/
theorem runOp_fills {n : Cl} {gid : Nat} {g : Group} {q : QOrder} {s : State} (hr : Runs n gid g q s) {fl : BitVec 5}
    {pk : Option ((Nat × Nat × Nat) × Word)} {k : Nat} {v : BitVec 4096}
    (hres : runOrder n g q ⟨s, false, none, g.flags, none⟩ = ⟨⟨s, false, none, g.flags ||| fl, pk⟩, [], [], some (k, v)⟩) :
    runOp q.op n gid s = putGroup n { g with
      pos := g.pos + 1, chain := [], flags := g.flags ||| fl, masks := smPut none g.masks k (some v) } s := by
  obtain ⟨h, hh, hg⟩ := hr.found
  obtain ⟨w, rfl⟩ : ∃ w, g = { h with wset := w } := by
    rw [hg]
    split
    · exact ⟨_, rfl⟩
    · exact ⟨h.wset, rfl⟩
  have hrun : microRun n gid s = s := microRun_done hh hr.rom
  have hnext : h.orders[h.pos]? = some q := hr.next
  have hcalm : h.exc = none := hr.calm
  have hguard : ¬ (h.phase ≠ .running ∨ q.op ≠ q.op ∨ pausedGroup n h s = true) := by
    have hfree : pausedGroup n h s = false := hr.free
    simp [show h.phase = .running from hr.phase, hfree]
  rw [← hcalm] at hres
  simp only [runOp, hr.on, if_true, hrun, hh, Bool.not_true, Bool.false_eq_true, if_false, hnext, if_neg hguard, ← hg, hres]
  simp only [hcalm, mergeWords_nil]

theorem runOp_leaves_noFlags {n : Cl} {gid : Nat} {g : Group} {q : QOrder} {s : State} (hr : Runs n gid g q s) {out : List DWord}
    {ws : List WWord} {pk : Option ((Nat × Nat × Nat) × Word)}
    (hres : runOrder n g q ⟨s, false, none, g.flags, none⟩ = ⟨⟨s, false, none, g.flags, pk⟩, out, ws, none⟩) :
    runOp q.op n gid s = leaves n g out 0 ws s :=
  runOp_leaves hr (pk := pk) (hres.trans (by simp))

/-- The command of an operation `v` that is the next one of its group. -/
theorem exec_of_runOp {n : Cl} {gid : Nat} {q : QOrder} {v : VOp} {i : Instr} {s t : State} (hv : q.op = v)
    (hi : exec i s = .next (runOp v n gid s)) (h : runOp q.op n gid s = t) : exec i s = .next t := by
  rw [hi, ← hv, h]

/-! ## MCNT (R88) -/

section
variable {n : Cl} {g : Group} {q : QOrder} {at' : Nat → Int} {W : Nat × Nat × Nat → Word} {s : State} {m : Nat → Bool}
  {a : Nat → DWord}

/-- The run of MCNT: the count goes to the one element of its destination. -/
theorem runOrder_mcnt (hv : q.op = .mcnt) (hn : 0 < g.n) (hl : Lands n g q at' W s) (fl : BitVec 5) :
    let k := (List.range g.n).countP fun i => (smAt 0 (s.cl n).masks (oMd q.bits)).getLsbD i
    ∃ pk, runOrder n g q ⟨s, false, none, fl, none⟩ = ⟨⟨s, false, none, fl, pk⟩, [],
      dstWords (roleOf (orderStreams g.n g.pos q) 0) at' [(0, g.n - 1, BitVec.ofNat 48 k)] [decide (k % 2 = 1)], none⟩ := by
  intro k
  obtain ⟨pk, -, hput⟩ := Acc1.put_lands hl rfl (j := 0) (i := g.n - 1) (by omega)
    (fun x hx => by rw [(roleOf_dst hx).2.1 hv]; exact Nat.one_pos) (BitVec.ofNat 48 k)
    (acc := ⟨⟨s, false, none, fl, none⟩, [], [], [decide (k % 2 = 1)], 0⟩) rfl fun _ _ h => absurd h (by simp)
  have hrun : runOrder n g q ⟨s, false, none, fl, none⟩ = closeAcc (roleOf (orderStreams g.n g.pos q) 0)
      (Acc1.put n g (roleOf (orderStreams g.n g.pos q) 0) 0 (g.n - 1) (BitVec.ofNat 48 k)
        ⟨⟨s, false, none, fl, none⟩, [], [], [decide (k % 2 = 1)], 0⟩) := by
    have hred : vopRed .mcnt = false := by decide
    cases hx : roleOf (orderStreams g.n g.pos q) 0 <;>
      simp only [runOrder, hv, hred, hx, closeAcc, packedWords, k, List.countP_eq_length_filter, Bool.false_eq_true, if_false,
        List.length_reverse]
  exact ⟨pk, by rw [hrun, hput]; simp [closeAcc, dstWords_eq]⟩

/-! ## Compress and expand (R91) -/

theorem rankOf_succ (m : Nat → Bool) (k : Nat) : rankOf m (k + 1) = rankOf m k + if m k then 1 else 0 := by
  cases h : m k <;> simp [rankOf, List.range_succ, h]

theorem rankOf_mono (m : Nat → Bool) : Monotone (rankOf m) := monotone_nat_of_le_succ fun k => by rw [rankOf_succ]; omega

theorem rankOf_lt {m : Nat → Bool} {i k : Nat} (hm : m i = true) (hi : i < k) : rankOf m i < rankOf m k := by
  have hnext := rankOf_succ m i
  rw [if_pos hm] at hnext
  have hmono : rankOf m (i + 1) ≤ rankOf m k := rankOf_mono m hi
  omega

theorem rankOf_le (m : Nat → Bool) (k : Nat) : rankOf m k ≤ k :=
  (List.length_filter_le _ _).trans_eq List.length_range

/-- What VCMPR has gathered behind the first `k` elements. -/
def compressed (dst : Option Strm) (at' : Nat → Int) (m : Nat → Bool) (a : Nat → DWord) (s : State) (fl : BitVec 5)
    (pk : Option ((Nat × Nat × Nat) × Word)) (k : Nat) : Acc1 where
  r := ⟨s, false, none, fl, pk⟩
  out := []
  ws := ((((List.range k).filter m).map fun i => (rankOf m i, i, a i)).flatMap (dstElem dst at')).reverse
  bs := (((List.range k).filter m).map fun i => bitOf 0 (a i)).reverse
  cnt := rankOf m k

/-- One element of VCMPR: the next element of the destination where it is active. -/
theorem runCmpr_compressed (hm : Mask n g q m W s) (ha : Reads n g q 1 a W s) (hl : Lands n g q at' W s) {x : Strm}
    (hx : roleOf (orderStreams g.n g.pos q) 0 = some x) (hroom : rankOf m g.n ≤ x.cnt) {fl : BitVec 5}
    {pk : Option ((Nat × Nat × Nat) × Word)} (hp : Packed W ⟨s, false, none, 0, pk⟩) {k : Nat} (hk : k < g.n) :
    ∃ pk', Packed W ⟨s, false, none, 0, pk'⟩ ∧
      runCmpr n g (orderStreams g.n g.pos q) q (compressed (some x) at' m a s fl pk k) k =
        compressed (some x) at' m a s fl pk' (k + 1) := by
  obtain ⟨p1, h1, e1⟩ := hm k (compressed (some x) at' m a s fl pk k).r hk rfl hp
  obtain ⟨p2, h2, e2⟩ := ha k { (compressed (some x) at' m a s fl pk k).r with pk := p1 } hk rfl h1
  cases hmk : m k with
  | false =>
    refine ⟨p2, h2, ?_⟩
    simp only [runCmpr, e1, e2, hmk]
    simp [compressed, List.range_succ, hmk, rankOf_succ]
  | true =>
    have hlt : rankOf m k < x.cnt := (rankOf_lt hmk hk).trans_le hroom
    obtain ⟨p3, h3, e3⟩ := Acc1.put_lands hl hx (j := rankOf m k) hk (fun y hy => Option.some.inj hy ▸ hlt) (a k)
      (acc := { compressed (some x) at' m a s fl p2 k with bs := bitOf 0 (a k) :: (compressed (some x) at' m a s fl p2 k).bs }) rfl h2
    refine ⟨p3, h3, ?_⟩
    have hfits : ¬ x.cnt ≤ (compressed (some x) at' m a s fl pk k).cnt := Nat.not_le.mpr hlt
    simp only [runCmpr, e1, e2, hmk, hx, Bool.not_true, Bool.false_eq_true, if_false, Option.elim_some, if_neg hfits]
    refine (congrArg (fun acc : Acc1 => { acc with cnt := rankOf m k + 1 }) e3).trans ?_
    simp [compressed, List.range_succ, hmk, rankOf_succ]

theorem runOrder_vcmpr (hv : q.op = .vcmpr) (r : Run) : runOrder n g q r = closeAcc (roleOf (orderStreams g.n g.pos q) 0)
    ((List.range g.n).foldl (runCmpr n g (orderStreams g.n g.pos q) q) ⟨r, [], [], [], 0⟩) := by
  have hred : vopRed .vcmpr = false := by decide
  cases hx : roleOf (orderStreams g.n g.pos q) 0 <;> simp [runOrder, hv, hred, hx, closeAcc, packedWords]

/-- The run of VCMPR. -/
theorem runOrder_compresses (hv : q.op = .vcmpr) (hm : Mask n g q m W s) (ha : Reads n g q 1 a W s) (hl : Lands n g q at' W s)
    {x : Strm} (hx : roleOf (orderStreams g.n g.pos q) 0 = some x) (hroom : rankOf m g.n ≤ x.cnt) (fl : BitVec 5) :
    let active := (List.range g.n).filter m
    ∃ pk, runOrder n g q ⟨s, false, none, fl, none⟩ = ⟨⟨s, false, none, fl, pk⟩, [],
      dstWords (some x) at' (active.map fun i => (rankOf m i, i, a i)) (active.map fun i => bitOf 0 (a i)), none⟩ := by
  obtain ⟨pk, -, he⟩ := foldl_range_follows (st := compressed (some x) at' m a s fl) fun pk k hk hp =>
    runCmpr_compressed hm ha hl hx hroom hp hk
  refine ⟨pk, ?_⟩
  rw [runOrder_vcmpr hv, hx]
  refine (congrArg (closeAcc (some x)) he).trans ?_
  simp [closeAcc, compressed, dstWords_eq]

/-- What VEXPD has gathered behind the first `k` elements. -/
def expanded (q : QOrder) (dst : Option Strm) (at' : Nat → Int) (m : Nat → Bool) (a : Nat → DWord) (s : State) (fl : BitVec 5)
    (pk : Option ((Nat × Nat × Nat) × Word)) (k : Nat) : Acc1 where
  r := ⟨s, false, none, fl, pk⟩
  out := ((List.range k).map fun i => if m i then a (rankOf m i) else 0).reverse
  ws := ((maskedElems q m k fun i => a (rankOf m i)).flatMap (dstElem dst at')).reverse
  bs := ((List.range k).map fun i => m i && bitOf 0 (a (rankOf m i))).reverse
  cnt := rankOf m k

/-- The source of VEXPD: element `j` is `a j`, of the values passed on or of a stream with an element for each active one. -/
structure Expands (n : Cl) (g : Group) (q : QOrder) (m : Nat → Bool) (a : Nat → DWord) (W : Nat × Nat × Nat → Word) (s : State) :
    Prop where
  chained : oCi q.bits = true → ∀ j, a j = g.chain.getD j 0
  read    : oCi q.bits = false → ∃ y, roleOf (orderStreams g.n g.pos q) 1 = some y ∧ rankOf m g.n ≤ y.cnt ∧
    ∀ j i r, j < y.cnt → i < g.n → r.s = s → Packed W r →
      ∃ pk, Packed W { r with pk := pk } ∧ readElem n g y j i r = (a j, { r with pk := pk })

/-- An active element of VEXPD takes the next element of the source. -/
theorem runExpd_active (hm : Mask n g q m W s) (hsrc : Expands n g q m a W s) {k : Nat} (hk : k < g.n) (hmk : m k = true)
    {acc : Acc1} (hcnt : acc.cnt = rankOf m k) (hs : acc.r.s = s) (hp : Packed W acc.r) :
    ∃ pk, Packed W { acc.r with pk := pk } ∧ runExpd n g (orderStreams g.n g.pos q) q acc k =
      Acc1.put n g (roleOf (orderStreams g.n g.pos q) 0) k k (a (rankOf m k))
        { acc with
          r := { acc.r with pk := pk }
          out := a (rankOf m k) :: acc.out
          bs := bitOf 0 (a (rankOf m k)) :: acc.bs
          cnt := rankOf m k + 1 } := by
  obtain ⟨p1, h1, e1⟩ := hm k acc.r hk hs hp
  cases hci : oCi q.bits with
  | true =>
    have hfits : ¬ g.n ≤ rankOf m k := Nat.not_le.mpr ((rankOf_le m k).trans_lt hk)
    exact ⟨p1, h1, by simp only [runExpd, e1, hmk, hci, if_true, hcnt, if_neg hfits, hsrc.chained hci]⟩
  | false =>
    obtain ⟨y, hy, hroom, hread⟩ := hsrc.read hci
    have hlt : rankOf m k < y.cnt := (rankOf_lt hmk hk).trans_le hroom
    obtain ⟨p2, h2, e2⟩ := hread _ k { acc.r with pk := p1 } hlt hk hs h1
    have hfits : ¬ y.cnt ≤ rankOf m k := Nat.not_le.mpr hlt
    exact ⟨p2, h2, by
      simp only [runExpd, e1, hmk, hci, hy, if_true, Bool.false_eq_true, if_false, Option.elim_some, hcnt, if_neg hfits, e2]⟩

/-- One element of VEXPD. -/
theorem runExpd_expanded (hv : q.op = .vexpd) (hm : Mask n g q m W s) (hl : Lands n g q at' W s) (hsrc : Expands n g q m a W s)
    {fl : BitVec 5} {pk : Option ((Nat × Nat × Nat) × Word)} (hp : Packed W ⟨s, false, none, 0, pk⟩) {k : Nat} (hk : k < g.n) :
    ∃ pk', Packed W ⟨s, false, none, 0, pk'⟩ ∧
      runExpd n g (orderStreams g.n g.pos q) q (expanded q (roleOf (orderStreams g.n g.pos q) 0) at' m a s fl pk k) k =
        expanded q (roleOf (orderStreams g.n g.pos q) 0) at' m a s fl pk' (k + 1) := by
  have hcnt : ∀ x, roleOf (orderStreams g.n g.pos q) 0 = some x → k < x.cnt := fun x hx => by
    rw [(roleOf_dst hx).2.2 hv]; exact hk
  cases hmk : m k with
  | true =>
    obtain ⟨p1, h1, e1⟩ := runExpd_active hm hsrc hk hmk
      (acc := expanded q (roleOf (orderStreams g.n g.pos q) 0) at' m a s fl pk k) rfl rfl hp
    obtain ⟨p2, h2, e2⟩ := Acc1.put_lands hl rfl hk hcnt (a (rankOf m k))
      (acc := { expanded q (roleOf (orderStreams g.n g.pos q) 0) at' m a s fl p1 k with
        out := a (rankOf m k) :: (expanded q (roleOf (orderStreams g.n g.pos q) 0) at' m a s fl p1 k).out
        bs := bitOf 0 (a (rankOf m k)) :: (expanded q (roleOf (orderStreams g.n g.pos q) 0) at' m a s fl p1 k).bs
        cnt := rankOf m k + 1 }) rfl h1
    refine ⟨p2, h2, e1.trans (e2.trans ?_)⟩
    simp [expanded, List.range_succ, maskedElems, hmk, rankOf_succ]
  | false =>
    obtain ⟨p1, h1, e1⟩ := hm k (expanded q (roleOf (orderStreams g.n g.pos q) 0) at' m a s fl pk k).r hk rfl hp
    by_cases hz : oMz q.bits = true
    · obtain ⟨p2, h2, e2⟩ := Acc1.put_lands hl rfl hk hcnt 0
        (acc := { expanded q (roleOf (orderStreams g.n g.pos q) 0) at' m a s fl p1 k with
          out := 0 :: (expanded q (roleOf (orderStreams g.n g.pos q) 0) at' m a s fl p1 k).out
          bs := false :: (expanded q (roleOf (orderStreams g.n g.pos q) 0) at' m a s fl p1 k).bs }) rfl h1
      refine ⟨p2, h2, ?_⟩
      simp only [runExpd, e1, hmk, Bool.false_eq_true, if_false, hz, if_true]
      refine e2.trans ?_
      simp [expanded, List.range_succ, maskedElems, hmk, hz, rankOf_succ]
    · refine ⟨p1, h1, ?_⟩
      simp only [runExpd, e1, hmk, Bool.false_eq_true, if_false, if_neg hz]
      simp [expanded, List.range_succ, maskedElems, hmk, hz, rankOf_succ]

theorem runOrder_vexpd (hv : q.op = .vexpd) (r : Run) : runOrder n g q r = closeAcc (roleOf (orderStreams g.n g.pos q) 0)
    ((List.range g.n).foldl (runExpd n g (orderStreams g.n g.pos q) q) ⟨r, [], [], [], 0⟩) := by
  have hred : vopRed .vexpd = false := by decide
  cases hx : roleOf (orderStreams g.n g.pos q) 0 <;> simp [runOrder, hv, hred, hx, closeAcc, packedWords]

/-- The run of VEXPD. -/
theorem runOrder_expands (hv : q.op = .vexpd) (hm : Mask n g q m W s) (hl : Lands n g q at' W s) (hsrc : Expands n g q m a W s)
    (fl : BitVec 5) :
    ∃ pk, runOrder n g q ⟨s, false, none, fl, none⟩ = ⟨⟨s, false, none, fl, pk⟩,
      (List.range g.n).map fun i => if m i then a (rankOf m i) else 0,
      maskedWords q m (roleOf (orderStreams g.n g.pos q) 0) at' g.n fun i => a (rankOf m i), none⟩ := by
  obtain ⟨pk, -, he⟩ := foldl_range_follows (st := expanded q (roleOf (orderStreams g.n g.pos q) 0) at' m a s fl)
    fun pk k hk hp => runExpd_expanded hv hm hl hsrc hp hk
  refine ⟨pk, ?_⟩
  rw [runOrder_vexpd hv]
  refine (congrArg (closeAcc _) he).trans ?_
  simp [closeAcc, expanded, maskedWords, dstWords_eq]

end

end Sys2Proof.Machine

namespace Sys2Proof.Proofs

open Sys2Proof.Machine Sys2Proof.Claims

/-- Settles O27: the terms of a reduction are gathered and reduced as one segment; orders on mask bits, compress and expand run
element by element. -/
theorem reductionsMasksAndSelection : Obligations.ReductionsMasksAndSelection := by
  unfold Obligations.ReductionsMasksAndSelection
  refine ⟨?reduces, ?bits, ?selects⟩
  case reduces =>
    intro n gid g q m a b x at' W s hr hm ha hb hl ss hx hcnt hseg second p hp hv res
    have hred : vopRed q.op = true := hv ▸ vopRed_of_reduceOps p hp
    have hres : reduceOf q.op q.bits ((scalarK q.bits q.k).getD 0) 0 (g.n - 1)
        (((List.range g.n).filter m).map (termOf q.op a b)) = res := by
      rw [hv, funext (termOf_eq p.1 a b)]
    obtain ⟨pk, hrun⟩ := runReduce_gives hr.some' hr.quiet hm ha hb hl hseg hx hcnt hres g.flags
    exact exec_of_runOp hv (exec_reduceOps n gid s p hp) (runOp_leaves hr ((if_pos hred).trans hrun))
  case bits =>
    intro n gid g q m a b at' W s hr hm hl ss md old fills
    refine ⟨fun hv ha hb => ⟨fun hmd => ?_, fun x hmd hx hmode => ?_⟩, fun y hv hmd hy hbits hci => ?_, fun x hv hx hmode => ?_,
      fun hv => ?_⟩
    · obtain ⟨pk, hrun⟩ := runOrder_fills hr.quiet hm ha hb rfl (fun i => by rw [hv, bitElem_vcmp]) g.flags (.inl hv) hmd
      exact exec_of_runOp hv rfl (runOp_fills hr hrun)
    · obtain ⟨pk, hrun⟩ := runOrder_packs hr.quiet hm ha hb rfl (fun i => by rw [hv, bitElem_vcmp]) g.flags (.inr ⟨hv, hmd⟩) hx hmode
      exact exec_of_runOp hv rfl (runOp_leaves hr hrun)
    · obtain ⟨b', hb'⟩ := reads_beyond (n := n) (g := g) (W := W) (s := s) (q := q) (j := 2) (by rw [hv]; decide)
      have ha' := reads_packed (by rw [hv]; decide) hci hy hbits
      obtain ⟨pk, hrun⟩ := runOrder_fills hr.quiet hm ha' hb' rfl (fun i => by rw [hv, bitElem_mld]) g.flags (.inr hv) hmd
      exact exec_of_runOp hv rfl (runOp_fills hr hrun)
    · obtain ⟨a', ha'⟩ := reads_beyond (n := n) (g := g) (W := W) (s := s) (q := q) (j := 1) (by rw [hv]; decide)
      obtain ⟨b', hb'⟩ := reads_beyond (n := n) (g := g) (W := W) (s := s) (q := q) (j := 2) (by rw [hv]; decide)
      obtain ⟨pk, hrun⟩ := runOrder_packs hr.quiet hm ha' hb' rfl (fun i => by rw [hv, bitElem_mst]) g.flags (.inl hv) hx hmode
      have hflags : (orFlags g.n fun i => if m i then (0 : Fl) else 0) = 0 := by simpa using orFlags_zero g.n
      rw [hflags] at hrun
      exact exec_of_runOp hv rfl (runOp_leaves hr hrun)
    · obtain ⟨pk, hrun⟩ := runOrder_mcnt hv hr.some' hl g.flags
      exact exec_of_runOp hv rfl (runOp_leaves_noFlags hr hrun)
  case selects =>
    intro n gid g q m a at' W s hr hm hl ss active
    refine ⟨fun x hv ha hx hroom => ?_, fun hv hchain hread => ?_⟩
    · obtain ⟨pk, hrun⟩ := runOrder_compresses hv hm ha hl hx hroom g.flags
      exact exec_of_runOp hv rfl (runOp_leaves_noFlags hr hrun)
    · obtain ⟨pk, hrun⟩ := runOrder_expands hv hm hl ⟨hchain, hread⟩ g.flags
      exact exec_of_runOp hv rfl (runOp_leaves_noFlags hr hrun)

end Sys2Proof.Proofs
end
section
/-!
PROOFS. Plots and their owners: writes of PLOT_CFG_i and PLOT_HO, and the acknowledgment of port A (O34).
-/
namespace Sys2Proof.Machine

/-! ## The registers of a plot (R8, R183, R184) -/

/-- A write of PLOT_CFG_i sets OWNER and REM of both owners and ALT, and SKEW of a local-store plot. -/
theorem cfgRow_writable : ∀ i : Plot, ∀ j < 24, j ≠ 8 → j ≠ 9 → (j = 23 → i.val < 16) →
    bitOf j ((ioRow (0x300 + i.val)).rw ||| (ioRow (0x300 + i.val)).wo) = true := by decide +kernel

/-- A write of PLOT_HO_j_CTL sets VALID and INDEX. -/
theorem hoRow_writable : ∀ j : Fin 8, ∀ b < 24, b = 23 ∨ 16 ≤ b ∧ b ≤ 20 →
    bitOf b ((ioRow (0x348 + 4 * j.val)).rw ||| (ioRow (0x348 + 4 * j.val)).wo) = true := by decide +kernel

theorem ioGet_ioCodeWrite (o p : Nat) (v : Word) (c : Cluster) :
    ioGet p (ioCodeWrite o v c) = if o = p then regWrite (ioRow o) (ioGet o c) v else ioGet p c := ioGet_ioPut ..

section
variable (i : Plot) (v : Word) (c : Cluster)

theorem cfgBit_ioCodeWrite {j : Nat} (hj : j < 24) (h8 : j ≠ 8) (h9 : j ≠ 9) (h23 : j = 23 → i.val < 16) :
    ioBit (0x300 + i.val) j (ioCodeWrite (0x300 + i.val) v c) = bitOf j v := by
  rw [ioBit, ioGet_ioCodeWrite, if_pos rfl, bitOf_regWrite (cfgRow_writable i j hj h8 h9 h23)]

theorem cfgFld_ioCodeWrite {hi lo : Nat} (hhi : hi < 23) (h : hi < 8 ∨ 9 < lo) :
    ioFld (0x300 + i.val) hi lo (ioCodeWrite (0x300 + i.val) v c) = fld hi lo v := by
  rw [ioFld, ioGet_ioCodeWrite, if_pos rfl,
    fld_regWrite fun j _ _ => cfgRow_writable i j (by omega) (by omega) (by omega) (by omega)]

/-- Without ALT the configuration written names owner A in every phase (R181). -/
theorem cfgOwner_written (h : bitOf 22 v = false) (phase : Nat) :
    cfgOwner (ioGet (0x300 + i.val) (ioCodeWrite (0x300 + i.val) v c)) phase = (fld 11 10 v, fld 7 0 v) := by
  have halt : bitOf 22 (ioGet (0x300 + i.val) (ioCodeWrite (0x300 + i.val) v c)) = false :=
    (cfgBit_ioCodeWrite i v c (by decide) (by decide) (by decide) (absurd · (by decide))).trans h
  have hcode := cfgFld_ioCodeWrite i v c (hi := 11) (lo := 10) (by decide) (by decide)
  have hrem := cfgFld_ioCodeWrite i v c (hi := 7) (lo := 0) (by decide) (by decide)
  rw [cfgOwner, halt, Bool.false_and, if_neg Bool.false_ne_true, ← hcode, ← hrem, ioFld, ioFld]

end

/-! ## The owner of a plot (R179, R181) -/

section
variable (i : Nat) (c : Cluster)

theorem ownCode_syncPend : ownCode i (syncPend i c) = ownCode i c := ioFld_ioSetBit_outside (by decide) (by decide) ..

theorem ownRem_syncPend : ownRem i (syncPend i c) = ownRem i c := ioFld_ioSetBit_outside (by decide) (by decide) ..

theorem pend_syncPend : ioBit (0x320 + i) 23 (syncPend i c) = (portHeld i c || (smAt none c.plotWait i).isSome) := by
  rw [syncPend, ioBit_ioSetBit_self (by decide), if_pos rfl]

theorem plotWait_syncPend : (syncPend i c).plotWait = c.plotWait := ioSetBit_plotWait ..

theorem portHeld_syncPend (k : Nat) : portHeld k (syncPend i c) = portHeld k c := by
  rw [portHeld, syncPend, ioSetBit_portA, portHeld]

theorem ownCode_congr {i : Nat} {c d : Cluster} (h : ioGet (0x320 + i) c = ioGet (0x320 + i) d) : ownCode i c = ownCode i d := by
  rw [ownCode, ioFld, h, ownCode, ioFld]

theorem ownRem_congr {i : Nat} {c d : Cluster} (h : ioGet (0x320 + i) c = ioGet (0x320 + i) d) : ownRem i c = ownRem i d := by
  rw [ownRem, ioFld, h, ownRem, ioFld]

theorem ioGet_portA (o : Nat) (m : SMap Bool) : ioGet o { c with portA := m } = ioGet o c := rfl

/-- The plot has the owner put, with the cluster that it names where the owner is a remote one. -/
theorem own_putOwner {code rem : Nat} (hcode : code < 4) (hrem : rem < 256) (hold : Bool) :
    ownCode i (putOwner i code rem hold c) = code ∧
      ownRem i (putOwner i code rem hold c) = if code = 1 then rem else 0 := by
  have hr : (if code = 1 then rem else 0) < 256 := by split <;> omega
  generalize hrdef : (if code = 1 then rem else 0) = r at hr
  have hc1 : ownCode i (ioSetFld (0x320 + i) 7 0 r (ioSetFld (0x320 + i) 9 8 code c)) = code := by
    rw [ownCode, ioFld_ioSetFld_disjoint (by decide) (by decide) (by decide), ioFld_ioSetFld_self (by decide) (by decide)]
    omega
  have hr1 : ownRem i (ioSetFld (0x320 + i) 7 0 r (ioSetFld (0x320 + i) 9 8 code c)) = r := by
    rw [ownRem, ioFld_ioSetFld_self (by decide) (by decide)]
    omega
  dsimp only [putOwner]
  rw [hrdef]
  split
  next h => rwa [ownCode_syncPend, ownRem_syncPend]
  next =>
    rw [ownCode_syncPend, ownRem_syncPend]
    split
    · rw [ownCode_congr (ioGet_portA ..), ownRem_congr (ioGet_portA ..)]
      exact ⟨hc1, hr1⟩
    · exact ⟨hc1, hr1⟩

theorem plotWait_putOwner (code rem : Nat) (hold : Bool) : (putOwner i code rem hold c).plotWait = c.plotWait := by
  dsimp only [putOwner]
  exact reads_ite (plotWait_syncPend ..) ((plotWait_syncPend ..).trans (reads_ite rfl rfl))

end

/-! ## Handover writes and the acknowledgment of port A (R180–R186) -/

section
variable {n : Cl} {i : Plot} {v : Word} {who : Handler} {s : State}

theorem plotCfgWrite_refused {code : Nat} (h : cfgRefusal n i v (handlerCap n who s) (s.cl n) = some code) :
    plotCfgWrite n i v who s = s.putCl n (ioSetFld 0x342 3 0 code (s.cl n)) := by
  simp only [plotCfgWrite, h, modCl_eq, plotErr]

/-- The cluster of an accepted write that hands its plot over at once (R181). -/
def handedOver (i : Plot) (v : Word) (c : Cluster) : Cluster :=
  putOwner i (fld 11 10 v) (fld 7 0 v) (decide (16 ≤ i.val))
    { ioCodeWrite (0x300 + i.val) v c with plotWait := smPut none (ioCodeWrite (0x300 + i.val) v c).plotWait i none }

/-- An accepted write without ALT hands the plot over at once (R181, R188). -/
theorem plotCfgWrite_immediate (h : cfgRefusal n i v (handlerCap n who s) (s.cl n) = none) (halt : bitOf 22 v = false) :
    plotCfgWrite n i v who s =
      (takeCfg n i (govCfg i (s.cl n)) (ioGet (0x300 + i.val) (ioCodeWrite (0x300 + i.val) v (s.cl n))) s).putCl n
        (handedOver i v (s.cl n)) := by
  have hio (m : SMap (Option Word)) (c : Cluster) : ioGet (0x300 + i.val) { c with plotWait := m } = ioGet (0x300 + i.val) c := rfl
  simp only [plotCfgWrite, h, halt, Bool.false_and, Bool.false_eq_true, if_false, hio, cfgOwner_written i v (s.cl n) halt,
    handedOver]

/-- The cluster of an accepted write that waits for the next handover tick (R183). -/
def handoverWaits (i : Plot) (v : Word) (c : Cluster) : Cluster :=
  syncPend i { ioCodeWrite (0x300 + i.val) v c with
    plotWait := smPut none (ioCodeWrite (0x300 + i.val) v c).plotWait i (some (govCfg i c)) }

theorem plotCfgWrite_waits (h : cfgRefusal n i v (handlerCap n who s) (s.cl n) = none) (halt : bitOf 22 v = true)
    (hrun : gridRun s = true) : plotCfgWrite n i v who s = s.putCl n (handoverWaits i v (s.cl n)) := by
  simp only [plotCfgWrite, h, halt, hrun, Bool.and_self, if_true, handoverWaits]

theorem takeCfg_hub (old new : Word) : (takeCfg n i old new s).hub = s.hub := reads_ite rfl rfl

/-- Memory moves only where SKEW changes (R188). -/
theorem takeCfg_mem {old new : Word} (h : i.val < 16 → bitOf 23 old = bitOf 23 new) : (takeCfg n i old new s).mem = s.mem := by
  rw [takeCfg, if_neg fun hs => hs.2 (h hs.1)]

theorem own_handedOver (c : Cluster) : ownCode i (handedOver i v c) = fld 11 10 v ∧
    ownRem i (handedOver i v c) = (if fld 11 10 v = 1 then fld 7 0 v else 0) ∧ smAt none (handedOver i v c).plotWait i = none := by
  obtain ⟨hcode, hrem⟩ := own_putOwner i
    { ioCodeWrite (0x300 + i.val) v c with plotWait := smPut none (ioCodeWrite (0x300 + i.val) v c).plotWait i none }
    (fld_lt 11 10 v) (fld_lt 7 0 v) (decide (16 ≤ i.val))
  refine ⟨hcode, hrem, ?_⟩
  rw [handedOver, plotWait_putOwner, smAt_smPut, if_pos rfl]

/-- The plot that waits keeps its owner and shows PEND (R183). -/
theorem own_handoverWaits (c : Cluster) :
    ownCode i (handoverWaits i v c) = ownCode i c ∧ ioBit (0x320 + i.val) 23 (handoverWaits i v c) = true := by
  constructor
  · rw [handoverWaits, ownCode_syncPend]
    exact ownCode_congr ((ioGet_ioCodeWrite ..).trans (if_neg (by omega)))
  · rw [handoverWaits, pend_syncPend, smAt_smPut, if_pos rfl, Option.isSome_some, Bool.or_true]

end

section
variable {n : Cl} {j : Nat} {v : Word} {who : Handler} {s : State}

theorem plotHoWrite_refused {code : Nat} (hv : bitOf 23 v = true) (h : hoRefusal n v (handlerCap n who s) (s.cl n) = some code) :
    plotHoWrite n j v who s = s.putCl n (ioSetFld 0x342 3 0 code (s.cl n)) := by
  simp [plotHoWrite, hv, h, plotErr]

theorem plotHoWrite_accepted (hv : bitOf 23 v = true) (h : hoRefusal n v (handlerCap n who s) (s.cl n) = none) :
    plotHoWrite n j v who s = s.putCl n (ioSetBit (0x348 + 4 * j) 22
      (decide ((ioPair (0x349 + 4 * j) (s.cl n)).toNat ≤ baseFrame s)) (ioCodeWrite (0x348 + 4 * j) v (s.cl n))) := by
  simp [plotHoWrite, hv, h]

end

/-- An entry written is VALID, late as it is told to be, and of the plot written. -/
theorem hoEntry_written (j : Fin 8) {v : Word} (hv : bitOf 23 v = true) (late : Bool) (c : Cluster) :
    let d := ioSetBit (0x348 + 4 * j.val) 22 late (ioCodeWrite (0x348 + 4 * j.val) v c)
    ioBit (0x348 + 4 * j.val) 23 d = true ∧ ioBit (0x348 + 4 * j.val) 22 d = late ∧
      ioFld (0x348 + 4 * j.val) 20 16 d = fld 20 16 v := by
  refine ⟨?_, ?_, ?_⟩
  · rw [ioBit_ioSetBit_self (by decide), if_neg (by decide), ioBit, ioGet_ioCodeWrite, if_pos rfl,
      bitOf_regWrite (hoRow_writable j 23 (by decide) (.inl rfl)), hv]
  · rw [ioBit_ioSetBit_self (by decide), if_pos rfl]
  · rw [ioFld_ioSetBit_outside (by decide) (by decide), ioFld, ioGet_ioCodeWrite, if_pos rfl,
      fld_regWrite fun b _ _ => hoRow_writable j b (by omega) (.inr (by omega))]

/-- Once port A has the new owner, no change waits for it, and PEND shows a waiting configuration alone (R181, R186). -/
theorem port_acknowledged (i : Nat) (c : Cluster) :
    let d := syncPend i { c with portA := smPut false c.portA i false }
    portHeld i d = false ∧ ioBit (0x320 + i) 23 d = (smAt none c.plotWait i).isSome := by
  have hport : portHeld i { c with portA := smPut false c.portA i false } = false := by
    rw [portHeld, smAt_smPut, if_pos rfl]
  refine ⟨?_, ?_⟩
  · rw [portHeld_syncPend, hport]
  · rw [pend_syncPend, hport, Bool.false_or]

end Sys2Proof.Machine

namespace Sys2Proof.Proofs

open Sys2Proof.Machine Sys2Proof.Claims

/-- Settles O34: each handover write is the one form that its check leaves it, whose registers are read back. -/
theorem plotsChangeOwners : Obligations.PlotsChangeOwners := by
  unfold Obligations.PlotsChangeOwners
  intro n i j q v who s hd c cap err late
  have hcfg : exec (.plotCfgWrite n i v who) s = .next (plotCfgWrite n i v who s) := awake_eq hd _
  have hho : exec (.plotHoWrite n j v who) s = .next (plotHoWrite n j v who s) := awake_eq hd _
  refine ⟨fun code h => ?_, fun h halt => ?_, fun h halt hrun => ?_, fun hv code h => ?_, fun hv h => ?_, fun hclk => ?_⟩
  · rw [hcfg, plotCfgWrite_refused h]
  · refine ⟨_, hcfg, ?_⟩
    obtain ⟨hcode, hrem, hwait⟩ := own_handedOver (i := i) (v := v) c
    rw [plotCfgWrite_immediate h halt, putCl_cl_self]
    refine ⟨hcode, hrem, hwait, fun hskew => takeCfg_mem fun hi => ?_, takeCfg_hub ..⟩
    rw [← hskew, ← cfgBit_ioCodeWrite i v c (by decide) (by decide) (by decide) fun _ => hi, ioBit]
  · refine ⟨_, hcfg, ?_⟩
    obtain ⟨hcode, hpend⟩ := own_handoverWaits (i := i) (v := v) c
    rw [plotCfgWrite_waits h halt hrun, putCl_cl_self]
    exact ⟨hcode, hpend, rfl, rfl⟩
  · rw [hho, plotHoWrite_refused hv h]
  · refine ⟨_, hho, ?_⟩
    obtain ⟨hvalid, hlate, hindex⟩ := hoEntry_written j hv late c
    rw [plotHoWrite_accepted hv h, putCl_cl_self]
    exact ⟨hvalid, hlate, hindex, rfl, rfl⟩
  · refine ⟨_, onIsland_eq hclk _, ?_⟩
    obtain ⟨hport, hpend⟩ := port_acknowledged (16 + q.val) c
    rw [modCl_cl_self]
    exact ⟨hport, hpend, rfl, rfl⟩

end Sys2Proof.Proofs
end
section
/-!
PROOFS. Patrol reads, bank copies and scrubs of the deep store (O36).
-/
namespace Sys2Proof.Machine

/-! ## Errors of a local store's rows (R192, R193, R196) -/

/-- VU_LS_ECC of VCn shows an error of a row by the bit of its kind, and memory is as in the state before. -/
def EccShows (n : Cl) (i : Nat) (bank : Fin 128) (row : Fin 512) (s t : State) : Prop :=
  ioBit 0x3A0 i (t.cl n) = true ∧ ioFld 0x3A0 6 0 (t.cl n) = bank.val ∧ ioFld 0x3A0 15 7 (t.cl n) = row.val ∧ t.mem = s.mem

theorem eccShows_of_recorded {n : Cl} {ue : Bool} {bank : Fin 128} {row : Fin 512} {s t : State}
    (h : ioGet 0x3A0 (t.cl n) = ioGet 0x3A0 (recordEcc ue bank row (s.cl n))) (hm : t.mem = s.mem) :
    EccShows n (if ue then 23 else 22) bank row s t := by
  have hbit : (if ue then 23 else 22) < 24 ∧ 15 < (if ue then 23 else 22) := by split <;> decide
  obtain ⟨hlt, hgt⟩ := hbit
  rw [recordEcc, ioGet_ioPut_self] at h
  refine ⟨?_, ?_, ?_, hm⟩
  · rw [ioBit, h, bitOf_setBit hlt, if_pos rfl]
  · rw [ioFld, h, fld_setBit_of_outside hlt (.inr (by omega)), fld_setFld_self (by decide) (by decide)]
    omega
  · rw [ioFld, h, fld_setBit_of_outside hlt (.inr (by omega)), fld_setFld_of_disjoint (by decide) (by decide) (by decide),
      fld_setFld_self (by decide) (by decide)]
    omega

theorem startBankCopy_io (fresh : Bool) (bank : Nat) (c : Cluster) : (startBankCopy fresh bank c).io = c.io :=
  reads_ite (g := Cluster.io) rfl (reads_ite rfl (reads_ite rfl rfl))

theorem setBadRow_io (bank row : Nat) (f : BadRow → BadRow) (c : Cluster) : (setBadRow bank row f c).io = c.io := rfl

theorem ioGet_rowRepair {o : Nat} (h : o ≠ 0x3A1) (c : Cluster) : ioGet o (rowRepair c) = ioGet o c := by
  rw [rowRepair, ioGet_syncRowRep h]
  rfl

theorem unlessRuns_blind {γ : Type} {g : State → γ} {n : Cl} {f : Cluster → Cluster} (h : ∀ s, g (s.modCl n f) = g s) (s : State) :
    g (unlessRuns n f s) = g s := reads_ite rfl (h s)

/-- An uncorrectable error is recorded and counted (R193). -/
theorem lsUncorrectable_records (n : Cl) {bank : Fin 128} {row : Fin 512} {b : BadRow} (hb : b.bank = bank.val)
    (hr : b.row = row.val) (s : State) :
    EccShows n 23 bank row s (lsUncorrectable n b s) ∧ odCtr 0xC031 0 (lsUncorrectable n b s) = odCtr 0xC031 0 s + 1 := by
  refine ⟨eccShows_of_recorded (ue := true) ?_ rfl, odCtr_odCount ..⟩
  rw [lsUncorrectable, odCount, odAdd_cl, modCl_cl_self, ioGet_congr (startBankCopy_io ..), hb, hr]

/-- A corrected error is recorded and counted, whether or not its row takes a spare at once (R192, R195). -/
theorem lsCorrected_records (n : Cl) (bank : Fin 128) (row : Fin 512) (bit : Nat) (s : State) :
    EccShows n 22 bank row s (lsCorrected n bank row bit s) ∧
      odCtr 0xC030 0 (lsCorrected n bank row bit s) = odCtr 0xC030 0 s + 1 := by
  have hmem : (lsCorrected n bank row bit s).mem = s.mem := congrArg Prod.fst (unread_lsCorrected ..)
  refine ⟨eccShows_of_recorded (ue := false) ?_ hmem, ?_⟩
  · refine (unlessRuns_blind (g := fun t => ioGet 0x3A0 (t.cl n)) (fun t => ?_) _).trans ?_
    · rw [modCl_cl_self, ioGet_rowRepair (by decide)]
    · refine (congrArg _ (putCl_cl_self ..)).trans (ioGet_congr ?_ _)
      exact reads_ite ((startBankCopy_io ..).trans (setBadRow_io ..)) (setBadRow_io ..)
  · exact (unlessRuns_blind (fun _ => rfl) _).trans (odCtr_odCount ..)

section
variable {n : Cl} {row : Fin 512} {s : State}

/-- The rows at a row address that a read found uncorrectable before. -/
def knownBad (n : Cl) (row : Fin 512) (s : State) : List BadRow := (s.cl n).bad.filter fun b => b.row == row.val && b.ue

/-- A patrol read without a new uncorrectable error finds those known, then the new corrected ones. -/
theorem execLsPatrolScrub_eq (hc : clocked n s = true) {errs : List BankErr} (h : ∀ e ∈ errs, e.uncorrectable = false) :
    execLsPatrolScrub n row errs s =
      .next (errs.foldl (patrolFind n row) ((knownBad n row s).foldl (fun t b => lsUncorrectable n b t) s)) := by
  have hany (b : BadRow) : errs.any (fun e => e.uncorrectable && e.bank.val == b.bank) = false :=
    List.any_eq_false.mpr fun e he => by simp [h e he]
  simp only [execLsPatrolScrub, onIsland_eq hc, hany, Bool.not_false, Bool.and_true, knownBad]

/-- A row of which nothing is known shows a corrected error as one. -/
theorem patrolFind_corrected (hk : knownBad n row s = []) (bank : Fin 128) (bit : Fin 104) :
    patrolFind n row s ⟨bank, bit, false⟩ = lsCorrected n bank row bit s := by
  have hany : (s.cl n).bad.any (fun b => b.bank == bank.val && b.row == row.val && b.ue) = false := by
    refine List.any_eq_false.mpr fun b hb h => ?_
    refine List.filter_eq_nil_iff.mp hk b hb ?_
    simp only [Bool.and_eq_true] at h ⊢
    exact ⟨h.1.2, h.2⟩
  simp only [patrolFind, hany, Bool.false_eq_true, if_false]

/-- A new uncorrectable error of a row address of which nothing is known is the only one found (R193). -/
theorem execLsPatrolScrub_uncorrectable (hc : clocked n s = true) (hk : knownBad n row s = []) (bank : Fin 128) (bit : Fin 104) :
    ∃ t, execLsPatrolScrub n row [⟨bank, bit, true⟩] s = .next t ∧ EccShows n 23 bank row s t ∧
      odCtr 0xC031 0 t = odCtr 0xC031 0 s + 1 := by
  have hold : ((s.cl n).bad.filter fun b => b.row == row.val && b.ue &&
      !([⟨bank, bit, true⟩] : List BankErr).any (fun e => e.uncorrectable && e.bank.val == b.bank)) = [] := by
    refine List.filter_eq_nil_iff.mpr fun b hb h => List.filter_eq_nil_iff.mp hk b hb ?_
    exact (Bool.and_eq_true_iff.mp h).1
  obtain ⟨hecc, hctr⟩ := lsUncorrectable_records n (b := ⟨bank, row, false, true, [], false, 0⟩) rfl rfl
    (s.modCl n (setBadRow bank row fun b => { b with double := true }))
  exact ⟨_, by rw [execLsPatrolScrub, onIsland_eq hc, hold]; rfl, hecc, hctr⟩

end

/-! ## Spare banks (R196) -/

/-- A finished bank copy has the bank map to its spare. -/
theorem bankRemap_maps (bank : Fin 128) (spare : Nat) {c : Cluster} (h : c.copies = [(bank.val, spare)]) :
    let d := bankRemap bank spare c
    d.copies = [] ∧ (if spare = 0 then ioBit 0x3A1 23 d = true ∧ ioFld 0x3A1 22 16 d = bank.val
      else ioBit 0x3A1 15 d = true ∧ ioFld 0x3A1 14 8 d = bank.val) := by
  have hcopies : c.copies.filter (fun p => !(p.1 == bank.val)) = [] := by simp [h]
  dsimp only [bankRemap]
  split
  · refine ⟨?_, ?_, ?_⟩
    · simp [syncRowRep, hcopies]
    · rw [ioBit_ioSetBit_self (by decide), if_pos rfl]
    · rw [ioFld_ioSetBit_outside (by decide) (by decide), ioFld_ioSetFld_self (by decide) (by decide)]
      omega
  · refine ⟨?_, ?_, ?_⟩
    · simp [syncRowRep, hcopies]
    · rw [ioBit_ioSetBit_self (by decide), if_pos rfl]
    · rw [ioFld_ioSetBit_outside (by decide) (by decide), ioFld_ioSetFld_self (by decide) (by decide)]
      omega

theorem execBankSpareCopyComplete_stopped {n : Cl} {bank : Fin 128} {spare : Nat} {s : State} (hd : dark s = false)
    (h : (s.cl n).copies = [(bank.val, spare)]) (hs : spare < 2) (hrun : gridRun s = false) :
    execBankSpareCopyComplete n bank s = .next (s.modCl n (bankRemap bank spare)) := by
  have hfind : [(bank.val, spare)].find? (fun p => p.1 == bank.val && decide (p.2 < 2)) = some (bank.val, spare) := by
    simp [Nat.le_of_lt_succ hs]
  simp only [execBankSpareCopyComplete, awake_eq hd, h, hfind, hrun, Bool.false_eq_true, if_false]

/-! ## The deep store (R202, R203) -/

theorem startPcCopy_keeps {γ : Type} {g : State → γ} (h : ∀ c s, g { s with hbm := { s.hbm with copying := c } } = g s)
    (st pc : Nat) (s : State) : g (startPcCopy st pc s) = g s := reads_ite rfl (h _ s)

theorem startPcCopy_copying {st : Nat} {s : State} (hc : smAt none s.hbm.copying st = none)
    (hu : smAt none s.hbm.spareUsed st = none) (pc : Nat) : smAt none (startPcCopy st pc s).hbm.copying st = some pc := by
  simp [startPcCopy, hc, hu, smAt_smPut]

/-- An uncorrectable line is counted; memory and the poisoned lines stay (R202). -/
theorem deepUe_counts (l : Nat) (s : State) : odCtr 0xC036 0 (deepUe l s) = odCtr 0xC036 0 s + 1 ∧ (deepUe l s).mem = s.mem ∧
    (deepUe l s).hbm.poisoned = s.hbm.poisoned :=
  ⟨(startPcCopy_keeps (g := odCtr 0xC036 0) (fun _ _ => rfl) ..).trans (odCtr_odCount ..),
    startPcCopy_keeps (g := State.mem) (fun _ _ => rfl) ..,
    startPcCopy_keeps (g := fun t => t.hbm.poisoned) (fun _ _ => rfl) ..⟩

/-- The pseudo-channel of an uncorrectable line is copied while its stack's spare is free (R203). -/
theorem deepUe_copies {l : Nat} {s : State} (hc : smAt none s.hbm.copying (lineStack l) = none)
    (hu : smAt none s.hbm.spareUsed (lineStack l) = none) :
    smAt none (deepUe l s).hbm.copying (lineStack l) = some (linePc l) :=
  startPcCopy_copying (s := odCount 0xC036 0 s) hc hu _

/-- A poisoned line that a scrub reads is uncorrectable, one that is good is none (R202). -/
theorem execHbmScrub_none {s : State} (hd : dark s = false) (st : Fin 4) (line : Nat) :
    execHbmScrub st line .none s =
      .next (if line % 2 ^ 28 * 4 + st ∈ s.hbm.poisoned then deepUe (line % 2 ^ 28 * 4 + st) s else s) := by
  simp only [execHbmScrub, awake_eq hd, lineBad, List.contains_iff_mem]
  split <;> rfl

theorem execHbmScrub_corrected {s : State} (hd : dark s = false) {st : Fin 4} {line : Nat}
    (hl : line % 2 ^ 28 * 4 + st ∉ s.hbm.poisoned) :
    ∃ t, execHbmScrub st line .corrected s = .next t ∧ odCtr 0xC035 0 t = odCtr 0xC035 0 s + 1 ∧ t.mem = s.mem ∧
      t.hbm.poisoned = s.hbm.poisoned := by
  simp only [execHbmScrub, awake_eq hd, lineBad, List.contains_iff_mem, if_neg hl]
  refine ⟨_, rfl, ?_, ?_, ?_⟩
  · refine (reads_ite (g := odCtr 0xC035 0) (startPcCopy_keeps (g := odCtr 0xC035 0) (fun _ _ => rfl) ..) rfl).trans ?_
    exact odCtr_odCount ..
  · exact reads_ite (startPcCopy_keeps (g := State.mem) (fun _ _ => rfl) ..) rfl
  · exact reads_ite (g := fun t : State => t.hbm.poisoned) (startPcCopy_keeps (g := fun t => t.hbm.poisoned) (fun _ _ => rfl) ..) rfl

/-- The line is poisoned, as it may have been before. -/
def poisonLine (l : Nat) (s : State) : State :=
  if l ∈ s.hbm.poisoned then s else { s with hbm := { s.hbm with poisoned := s.hbm.poisoned ++ [l] } }

theorem poisonLine_keeps {γ : Type} {g : State → γ} (h : ∀ p s, g { s with hbm := { s.hbm with poisoned := p } } = g s)
    (l : Nat) (s : State) : g (poisonLine l s) = g s := reads_ite rfl (h _ s)

theorem mem_poisonLine (l : Nat) (s : State) : l ∈ (poisonLine l s).hbm.poisoned := by
  unfold poisonLine
  split
  next h => exact h
  next => exact List.mem_append_right _ (List.mem_singleton_self l)

/-- An uncorrectable line is poisoned and counted, and its pseudo-channel copied while the stack's spare is free (R202, R203). -/
theorem execHbmScrub_uncorrectable {s : State} (hd : dark s = false) (st : Fin 4) (line : Nat) :
    let l := line % 2 ^ 28 * 4 + st
    ∃ t, execHbmScrub st line .uncorrectable s = .next t ∧ odCtr 0xC036 0 t = odCtr 0xC036 0 s + 1 ∧ t.mem = s.mem ∧
      l ∈ t.hbm.poisoned ∧ (smAt none s.hbm.copying st = none → smAt none s.hbm.spareUsed st = none →
        smAt none t.hbm.copying st = some (line % 2 ^ 28 % 32)) := by
  intro l
  have hexec : execHbmScrub st line .uncorrectable s = .next (deepUe l (poisonLine l s)) := by
    simp only [execHbmScrub, awake_eq hd, lineBad, List.contains_iff_mem, poisonLine]
    split <;> rfl
  obtain ⟨hctr, hmem, hpoison⟩ := deepUe_counts l (poisonLine l s)
  rw [poisonLine_keeps (g := odCtr 0xC036 0) (fun _ _ => rfl) l s] at hctr
  rw [poisonLine_keeps (g := State.mem) (fun _ _ => rfl) l s] at hmem
  refine ⟨_, hexec, hctr, hmem, hpoison ▸ mem_poisonLine l s, fun hcop hspare => ?_⟩
  have hstack : lineStack l = st.val := by simp only [lineStack, l]; omega
  have hpc : linePc l = line % 2 ^ 28 % 32 := by simp only [linePc, l]; omega
  rw [← hstack, ← poisonLine_keeps (g := fun t => t.hbm.copying) (fun _ _ => rfl) l s] at hcop
  rw [← hstack, ← poisonLine_keeps (g := fun t => t.hbm.spareUsed) (fun _ _ => rfl) l s] at hspare
  have hcopies := deepUe_copies hcop hspare
  rwa [hstack, hpc] at hcopies

theorem execPseudoChannelCopyComplete_eq {s : State} (hd : dark s = false) {st : Fin 4} {pc : Nat}
    (h : smAt none s.hbm.copying st.val = some pc) :
    execPseudoChannelCopyComplete st s = .next { s with hbm := { s.hbm with
      copying := smPut none s.hbm.copying st.val none,
      spareUsed := smPut none s.hbm.spareUsed st.val (some pc) } } := by
  simp only [execPseudoChannelCopyComplete, awake_eq hd, h]

end Sys2Proof.Machine

namespace Sys2Proof.Proofs

open Sys2Proof.Machine Sys2Proof.Claims

/-- Settles O36: a patrol read is its known and its new errors one after the other, and each error leaves its record and count. -/
theorem errorsAreRecordedAndRepaired : Obligations.ErrorsAreRecordedAndRepaired := by
  unfold Obligations.ErrorsAreRecordedAndRepaired
  intro n row bank bit spare st line pc s hd ecc l known
  refine ⟨fun hc hk => ?good, fun hc b hk hb => ?knownUe, fun hc hk => ?corrected, fun hc hk => ?newUe,
    fun hcopy hs hrun => ?bankCopied, execHbmScrub_none hd st line, execHbmScrub_corrected hd,
    execHbmScrub_uncorrectable hd st line, fun hcopy => ?channelCopied⟩
  case good =>
    have hk' : knownBad n row s = [] := hk
    exact (execLsPatrolScrub_eq hc (by simp)).trans (by rw [hk']; rfl)
  case knownUe =>
    have hk' : knownBad n row s = [b] := hk
    have hrow : b.row = row.val := by
      have hmem : b ∈ known := hk ▸ List.mem_singleton_self b
      simpa using (Bool.and_eq_true_iff.mp (List.mem_filter.mp hmem).2).1
    exact ⟨_, (execLsPatrolScrub_eq hc (by simp)).trans (by rw [hk']; rfl), lsUncorrectable_records n hb hrow s⟩
  case corrected =>
    have hk' : knownBad n row s = [] := hk
    refine ⟨_, (execLsPatrolScrub_eq hc (by simp)).trans ?_, lsCorrected_records n bank row bit s⟩
    rw [hk', List.foldl, List.foldl, List.foldl, patrolFind_corrected hk']
  case newUe => exact execLsPatrolScrub_uncorrectable hc hk bank bit
  case bankCopied =>
    obtain ⟨hnone, hmap⟩ := bankRemap_maps bank spare hcopy
    refine ⟨_, execBankSpareCopyComplete_stopped hd hcopy hs hrun, ?_⟩
    rw [modCl_cl_self]
    exact ⟨hnone, rfl, hmap⟩
  case channelCopied =>
    exact ⟨_, execPseudoChannelCopyComplete_eq hd hcopy, by rw [smAt_smPut, if_pos rfl], by rw [smAt_smPut, if_pos rfl], rfl⟩

end Sys2Proof.Proofs
end
section
/-!
PROOFS. What a mover's transfer leaves in memory (O35).
-/
namespace Sys2Proof.Machine

/-! ## A mover's access to a word of memory (R187, R202, R205) -/

theorem deepSnoop_mem (w : Bool) (off : Nat) (s : State) : (deepSnoop w off s).mem = s.mem := rfl

theorem memGet_congr {s t : State} (h : t.mem = s.mem) (a : Nat) : memGet a t = memGet a s := by rw [memGet, h, memGet]

theorem memPut_mem_congr {s t : State} (h : t.mem = s.mem) (a : Nat) (v : Word) : (memPut a v t).mem = (memPut a v s).mem := by
  rw [memPut, h, memPut]

theorem ownCheck_ne_ok {n : Cl} {o : Nat} {g : Agent} {s : State} {w : Word} : ownCheck n o g s ≠ some (.ok w) := by
  unfold ownCheck
  dsimp only
  repeat' split
  all_goals simp

/-- An agent that is no cluster's own reads a word of memory as memory holds it. -/
theorem agentRead_value {g : Agent} (hg : ∀ n, ownAgent n g = false) {a : Nat} {s : State} {v : Word}
    (h : (agentRead g a s).1 = .ok v) : v = memGet a s := by
  have hcell {p : Bool × State} (h : (cellRead a s p).1 = .ok v) : v = memGet a s := by
    unfold cellRead at h
    dsimp only at h
    split at h <;> cases h
    rfl
  unfold agentRead at h
  split at h
  case h_1 n off _ =>
    split at h
    · cases h
    next r hr => exact absurd (hr.trans (congrArg some h)) ownCheck_ne_ok
    · exact hcell h
  case h_2 n off _ =>
    split at h
    · cases h
    next r hr => exact absurd (hr.trans (congrArg some h)) ownCheck_ne_ok
    · rw [hg n] at h
      exact hcell h
  case h_3 n off _ =>
    split at h
    · cases h
    · exact hcell h
  case h_4 off _ =>
    split at h <;> cases h
    rfl
  case h_5 => cases h
  case h_6 => cases h

/-- An agent that is no cluster's own writes a word of memory and no other. -/
theorem agentWrite_mem {g : Agent} (hg : ∀ n, ownAgent n g = false) {a : Nat} {v w : Word} {s : State}
    (h : (agentWrite g a v s).1 = .ok w) : (agentWrite g a v s).2.mem = (memPut a v s).mem := by
  unfold agentWrite at h ⊢
  split at h
  case h_1 n off _ =>
    split at h
    · cases h
    next r hr => exact absurd (hr.trans (congrArg some h)) ownCheck_ne_ok
    · rfl
  case h_2 n off _ =>
    split at h
    · cases h
    next r hr => exact absurd (hr.trans (congrArg some h)) ownCheck_ne_ok
    · dsimp only
      rw [hg n]
      rfl
  case h_3 n off _ =>
    split at h
    · cases h
    next hi => rw [if_neg hi]; rfl
  case h_4 off _ => rfl
  case h_5 => cases h
  case h_6 => cases h

theorem wordRead_plain {m : Master} {a : Nat} {v : Word} {s t : State} (hp : plainWord a = true)
    (h : wordRead m .mover a s = (.ok v, t)) : v = memGet a s ∧ t.mem = s.mem := by
  have hread (u : State) (hu : agentRead .mover a u = (.ok v, t)) : v = memGet a u ∧ t.mem = u.mem :=
    ⟨agentRead_value (fun _ => rfl) (congrArg Prod.fst hu),
      (congrArg (fun r => r.2.mem) hu).symm.trans (congrArg Prod.fst (unread_agentRead ..))⟩
  unfold wordRead memRead at h
  unfold plainWord at hp
  split at h
  · cases h
  · split at h
    next hr => simp [hr] at hp
    next hr => simp [hr] at hp
    · split at h
      · exact hread (deepSnoop false _ s) h
      · exact hread s h

theorem wordWrite_plain {m : Master} {cap : CapV} {a : Nat} {v w : Word} {s t : State} (hp : plainWord a = true)
    (h : wordWrite m .mover cap a v s = (.ok w, t)) : t.mem = (memPut a v s).mem := by
  have hwrite (u : State) (hu : agentWrite .mover a v u = (.ok w, t)) : t.mem = (memPut a v u).mem :=
    (congrArg (fun r => r.2.mem) hu).symm.trans (agentWrite_mem (fun _ => rfl) (congrArg Prod.fst hu))
  unfold wordWrite memWrite at h
  unfold plainWord at hp
  split at h
  · cases h
  · split at h
    next hr => simp [hr] at hp
    next hr => simp [hr] at hp
    · split at h
      · exact hwrite (deepSnoop true _ s) h
      · exact hwrite s h

/-! ## Words copied in order (R204) -/

theorem mvRead_plain {m : Master} {old : SMap (Option Word)} {rest : List (Nat × Nat)} {a : Nat} {v : Word} {s t : State}
    (hp : plainWord a = true) (hold : smAt none old a = none) (hrest : ∀ p ∈ rest, p.2 ≠ a)
    (h : mvRead m old rest a s = (.ok v, t)) : v = memGet a s ∧ t.mem = s.mem := by
  have hany : rest.any (fun p => p.2 == a) = false := List.any_eq_false.mpr fun p hp => by simpa using hrest p hp
  have hover (x : Word) (u : State) : overlapWord old rest a x u = (x, u) := by
    simp [overlapWord, hold, hany]
  unfold mvRead at h
  split at h
  next x u hr =>
    rw [hover] at h
    cases h
    exact wordRead_plain hp hr
  next hr => exact wordRead_plain hp h

/-- What of the transfer was written, with what the word at `b` held before (R204). -/
def mvOld (old : SMap (Option Word)) (b : Nat) (t : State) : SMap (Option Word) :=
  if plainWord b && (smAt none old b).isNone then smPut none old b (some (memGet b t)) else old

theorem mvOld_other {old : SMap (Option Word)} {a b : Nat} (h : b ≠ a) (t : State) :
    smAt none (mvOld old b t) a = smAt none old a :=
  reads_ite (g := fun o => smAt none o a) ((smAt_smPut ..).trans (if_neg h)) rfl

/-- A copy of a word read that ends with all words copied has written it, and goes on with the others. -/
theorem mvCopy_some_copied {m : Master} {cap : CapV} {a b : Nat} {rest : List (Nat × Nat)} {old : SMap (Option Word)}
    {v : Word} {k : Nat} {t : State} (h : (mvCopy m cap ((a, b) :: rest) old (some v) k t).stop = .copied) :
    ∃ w u, wordWrite m .mover cap b v t = (.ok w, u) ∧
      mvCopy m cap ((a, b) :: rest) old (some v) k t = mvCopy m cap rest (mvOld old b t) none (k + 1) u := by
  dsimp only [mvCopy] at h ⊢
  generalize wordWrite m .mover cap b v t = r at h ⊢
  obtain ⟨acc, u⟩ := r
  cases acc
  case ok w => exact ⟨w, u, rfl, rfl⟩
  all_goals cases h

/-- A copy that ends with all words copied has read the first, and goes on with it. -/
theorem mvCopy_none_copied {m : Master} {cap : CapV} {a b : Nat} {rest : List (Nat × Nat)} {old : SMap (Option Word)}
    {k : Nat} {s : State} (h : (mvCopy m cap ((a, b) :: rest) old none k s).stop = .copied) :
    ∃ v t, mvRead m old rest a s = (.ok v, t) ∧
      mvCopy m cap ((a, b) :: rest) old none k s = mvCopy m cap ((a, b) :: rest) old (some v) k t := by
  dsimp only [mvCopy] at h ⊢
  generalize mvRead m old rest a s = r at h ⊢
  obtain ⟨acc, t⟩ := r
  cases acc
  case ok v => exact ⟨v, t, rfl, rfl⟩
  all_goals cases h

theorem mvCopy_moved {m : Master} {cap : CapV} {ws : List (Nat × Nat)} {old : SMap (Option Word)} {got : Option Word} {k : Nat}
    {s : State} (h : (mvCopy m cap ws old got k s).stop = .copied) : (mvCopy m cap ws old got k s).moved = k + ws.length := by
  induction ws generalizing old got k s with
  | nil => rfl
  | cons p rest ih =>
    have hsome {v : Word} {t : State} (h : (mvCopy m cap (p :: rest) old (some v) k t).stop = .copied) :
        (mvCopy m cap (p :: rest) old (some v) k t).moved = k + (p :: rest).length := by
      obtain ⟨w, u, -, hgo⟩ := mvCopy_some_copied h
      rw [hgo] at h ⊢
      rw [ih h, List.length_cons]
      omega
    cases got with
    | some v => exact hsome h
    | none =>
      obtain ⟨v, t, -, hgo⟩ := mvCopy_none_copied h
      rw [hgo] at h ⊢
      exact hsome h

/-- Words of memory apart from each other: each destination holds its source's word, and every other word stays (R204). -/
theorem mvCopy_copies {m : Master} {cap : CapV} {ws : List (Nat × Nat)} {old : SMap (Option Word)} {k : Nat} {s : State}
    (hnd : (ws.map (·.2)).Nodup)
    (hp : ∀ p ∈ ws, plainWord p.1 = true ∧ plainWord p.2 = true ∧ ∀ q ∈ ws, p.1 ≠ q.2)
    (hold : ∀ p ∈ ws, smAt none old p.1 = none) (h : (mvCopy m cap ws old none k s).stop = .copied) :
    let t := (mvCopy m cap ws old none k s).s
    (∀ p ∈ ws, memGet p.2 t = memGet p.1 s) ∧ ∀ a, (∀ p ∈ ws, p.2 ≠ a) → memGet a t = memGet a s := by
  induction ws generalizing old k s with
  | nil => exact ⟨fun p hp => absurd hp List.not_mem_nil, fun _ _ => rfl⟩
  | cons p rest ih =>
    obtain ⟨a, b⟩ := p
    obtain ⟨v, t, hr, hread⟩ := mvCopy_none_copied h
    rw [hread] at h ⊢
    obtain ⟨w, u, hw, hgo⟩ := mvCopy_some_copied h
    obtain ⟨hb, hnd'⟩ := List.nodup_cons.mp hnd
    have hb' : ∀ q ∈ rest, q.2 ≠ b := fun q hq he => hb (List.mem_map.mpr ⟨q, hq, he⟩)
    obtain ⟨ha1, hb1, hab⟩ := hp (a, b) List.mem_cons_self
    have hp' : ∀ q ∈ rest, plainWord q.1 = true ∧ plainWord q.2 = true ∧ ∀ r ∈ rest, q.1 ≠ r.2 := fun q hq =>
      have ⟨h1, h2, h3⟩ := hp q (List.mem_cons_of_mem _ hq)
      ⟨h1, h2, fun r hr => h3 r (List.mem_cons_of_mem _ hr)⟩
    have hsrc : ∀ q ∈ rest, b ≠ q.1 := fun q hq =>
      ((hp q (List.mem_cons_of_mem _ hq)).2.2 (a, b) List.mem_cons_self).symm
    obtain ⟨hv, ht⟩ := mvRead_plain ha1 (hold (a, b) List.mem_cons_self)
      (fun q hq => (hab q (List.mem_cons_of_mem _ hq)).symm) hr
    have hu (x : Nat) : memGet x u = if b = x then memGet a s else memGet x s := by
      rw [memGet_congr (wordWrite_plain hb1 hw), memGet_memPut, memGet_congr ht, hv]
    rw [hgo] at h ⊢
    obtain ⟨hdst, hother⟩ := ih hnd' hp'
      (fun q hq => (mvOld_other (hsrc q hq) t).trans (hold q (List.mem_cons_of_mem _ hq))) h
    refine ⟨List.forall_mem_cons.mpr ⟨?_, fun q hq => ?_⟩, fun x hx => ?_⟩
    · exact (hother b hb').trans ((hu b).trans (if_pos rfl))
    · exact (hdst q hq).trans ((hu q.1).trans (if_neg (hsrc q hq)))
    · exact (hother x fun q hq => hx q (List.mem_cons_of_mem _ hq)).trans
        ((hu x).trans (if_neg (hx (a, b) List.mem_cons_self)))

/-! ## A run of copies (R204, R205) -/

theorem rowWritten_mem (n : Cl) (off : Nat) (whole : Bool) (s : State) : (rowWritten n off whole s).mem = s.mem := by
  have hread : (lsRead n off s).2.mem = s.mem := congrArg Prod.fst (unread_lsRead ..)
  exact reads_ite rfl (reads_ite hread hread)

/-- What a write does to the errors of rows and lines leaves every word (R166, R193, R202). -/
theorem wrote_mem (as : List Nat) (s : State) : (wrote as s).mem = s.mem := by
  refine foldl_keeps State.mem (fun t q => ?_) _ s
  dsimp only
  split
  · exact rowWritten_mem ..
  · exact reads_ite rfl rfl
  · rfl

theorem mvWhole_mem (d : MoverSt) (k : Nat) (s : State) : (mvWhole d k s).mem = s.mem :=
  foldl_keeps State.mem (fun t _ => wrote_mem _ t) _ s

theorem tagFailed_mem (s : State) : (tagFailed s).mem = s.mem := fire_mem ..

theorem mvCap_mem (c o : Nat) (s : State) : (mvCap c o s).2.mem = s.mem := by
  unfold mvCap
  dsimp only
  split
  · rfl
  · exact tagFailed_mem s

theorem mvWords_length (d : MoverSt) : (mvWords d).length = d.rows.toNat * d.len.toNat := by
  simp [mvWords, List.length_flatMap]

/-- A run that copies all words left has moved all words of the descriptor. -/
theorem mvRun_moved {c : Mover} {d : MoverSt} {s : State} (hm : d.moved ≤ d.rows.toNat * d.len.toNat)
    (h : (mvRun c d none s).stop = .copied) : (mvRun c d none s).moved = d.rows.toNat * d.len.toNat := by
  refine (mvCopy_moved h).trans ?_
  rw [List.length_drop, mvWords_length]
  omega

/-- A run from the start of a descriptor copies its words, where they are words of memory apart from each other. -/
theorem mvRun_copies {c : Mover} {d : MoverSt} {s : State} (hmoved : d.moved = 0) (hgot : d.got = none) (hold : d.old = [])
    (hnd : ((mvWords d).map (·.2)).Nodup)
    (hp : ∀ p ∈ mvWords d, plainWord p.1 = true ∧ plainWord p.2 = true ∧ ∀ q ∈ mvWords d, p.1 ≠ q.2)
    (h : (mvRun c d none s).stop = .copied) :
    let t := (mvRun c d none s).s
    (∀ p ∈ mvWords d, memGet p.2 t = memGet p.1 s) ∧ ∀ a, (∀ p ∈ mvWords d, p.2 ≠ a) → memGet a t = memGet a s := by
  unfold mvRun at h ⊢
  dsimp only at h ⊢
  rw [hmoved, hgot, hold, List.drop_zero] at h ⊢
  rw [if_neg (by rw [h]; decide)]
  have hcap (a : Nat) : memGet a (mvCap c.val 0x10 s).2 = memGet a s := memGet_congr (mvCap_mem ..) a
  obtain ⟨hdst, hother⟩ := mvCopy_copies hnd hp (fun _ _ => rfl) h
  refine ⟨fun p hp => ?_, fun a ha => ?_⟩
  · rw [memGet_congr (mvWhole_mem ..), hdst p hp, hcap]
  · rw [memGet_congr (mvWhole_mem ..), hother a ha, hcap]

end Sys2Proof.Machine
end
section
/-!
PROOFS. The registers, triggers and ends of the hub movers (O35).
-/
namespace Sys2Proof.Machine

/-! ## Bits of the hub's registers after an update -/

theorem hubBit_hubSetBit_self {i : Nat} (hi : i < 24) (o : Nat) (b : Bool) (s : State) : hubBit o i (hubSetBit o i b s) = b := by
  rw [hubBit, hubGet_hubSetBit, if_pos rfl, bitOf_setBit hi, if_pos rfl]

theorem hubBit_hubSetBit_bit {i j : Nat} (hi : i < 24) (h : i ≠ j) (o p : Nat) (b : Bool) (s : State) :
    hubBit p j (hubSetBit o i b s) = hubBit p j s := by
  rw [hubBit, hubGet_hubSetBit]
  by_cases ho : o = p
  · rw [if_pos ho, bitOf_setBit hi, if_neg h, ho, hubBit]
  · rw [if_neg ho, hubBit]

theorem hubBit_hubSetBit_reg {o p : Nat} (h : o ≠ p) (i j : Nat) (b : Bool) (s : State) :
    hubBit p j (hubSetBit o i b s) = hubBit p j s := by
  rw [hubBit, hubGet_hubSetBit, if_neg h, hubBit]

theorem hubBit_hubSetFld {hi lo j : Nat} (hl : lo ≤ hi) (h : hi < 24) (hj : j < lo ∨ hi < j) (o p v : Nat) (s : State) :
    hubBit p j (hubSetFld o hi lo v s) = hubBit p j s := by
  rw [hubBit, hubGet_hubSetFld]
  by_cases ho : o = p
  · subst ho
    rw [if_pos rfl, bitOf_setFld hl h, if_neg (by omega), hubBit]
  · rw [if_neg ho, hubBit]

theorem hubBit_hubPutPair {o p : Nat} (h : o + 1 ≠ p) (h' : o ≠ p) (j : Nat) (v : DWord) (s : State) :
    hubBit p j (hubPutPair o v s) = hubBit p j s := by
  rw [hubBit, hubGet_hubPutPair, if_neg h, if_neg h', hubBit]

/-! ## The descriptor in hand -/

section
variable (c : Nat) (d : Option MoverSt) (s : State)

theorem mvHand_mvPut : mvHand c (mvPut c d s) = d := (smAt_smPut ..).trans (if_pos rfl)

theorem mvPut_mem : (mvPut c d s).mem = s.mem := rfl

theorem mvPut_ev : (mvPut c d s).ev = s.ev := rfl

theorem hubGet_mvPut (o : Nat) : hubGet o (mvPut c d s) = hubGet o s := rfl

end

theorem mvHand_congr {s t : State} (h : t.movers = s.movers) (c : Nat) : mvHand c t = mvHand c s := by
  rw [mvHand, h, mvHand]

theorem fire_movers (src : Nat) (s : State) : (fire src s).movers = s.movers :=
  fire_field (g := State.movers) src s (fun _ _ _ => rfl) fun _ _ => rfl

/-! ## How a transfer ends (R206, R208) -/

theorem mvReg_lt (c : Mover) {o : Nat} (h : o < 0x20) : mvReg c.val + o < 0x25001 := by
  have := c.isLt; unfold mvReg; omega

section
variable (c : Mover) (s : State)

/-- The state at an end without error, before its source fires. -/
def mvIdle : State :=
  let t := hubSetBit (mvReg c.val + 9) 23 false (hubSetBit (mvReg c.val + 9) 22 true (mvPut c.val none s))
  hubSetBit (mvReg c.val + 9) 20 (hubBit (mvReg c.val + 8) 21 t) t

/-- What an end without error leaves beside its event and its vector. -/
theorem mvDone_blind {γ : Type} {g : State → γ} (hg : FireBlind g) (hcxl : ∀ x s, g { s with cxl := x } = g s) (irq : Bool) :
    g (mvDone c.val irq s) = g (mvIdle c s) :=
  reads_ite ((hcxl _ _).trans (fire_blind hg ..)) (fire_blind hg ..)

theorem hubGet_mvDone (irq : Bool) {o : Nat} (h : o < 0x20) :
    hubGet (mvReg c.val + o) (mvDone c.val irq s) = hubGet (mvReg c.val + o) (mvIdle c s) :=
  mvDone_blind c s (fireBlind_hubGet (.inl (mvReg_lt c h))) (fun _ _ => rfl) irq

/-- At an end without error the channel is idle and DONE, and armed again with TRIG_EN. -/
theorem mvDone_ends (irq : Bool) :
    let t := mvDone c.val irq s
    hubBit (mvReg c.val + 9) 20 t = hubBit (mvReg c.val + 8) 21 t ∧ hubBit (mvReg c.val + 9) 23 t = false ∧
      hubBit (mvReg c.val + 9) 22 t = true ∧ mvHand c t = none := by
  have hbit (o i : Nat) (h : o < 0x20) : hubBit (mvReg c.val + o) i (mvDone c.val irq s) = hubBit (mvReg c.val + o) i (mvIdle c s) :=
    congrArg (bitOf i) (hubGet_mvDone c s irq h)
  refine ⟨?_, ?_, ?_, ?_⟩
  · rw [hbit 9 20 (by decide), hbit 8 21 (by decide), mvIdle, hubBit_hubSetBit_self (by decide),
      hubBit_hubSetBit_reg (by omega) 20]
  · rw [hbit 9 23 (by decide), mvIdle, hubBit_hubSetBit_bit (by decide) (by decide), hubBit_hubSetBit_self (by decide)]
  · rw [hbit 9 22 (by decide), mvIdle, hubBit_hubSetBit_bit (by decide) (by decide),
      hubBit_hubSetBit_bit (by decide) (by decide), hubBit_hubSetBit_self (by decide)]
  · have hmovers : (mvDone c.val irq s).movers = (mvIdle c s).movers :=
      mvDone_blind (g := State.movers) c s (fireBlind_of_fields (fun _ _ _ => rfl) fun _ _ => rfl) (fun _ _ => rfl) irq
    rw [mvHand_congr hmovers, mvIdle, mvHand_congr (hubSetBit_movers ..), mvHand_congr (hubSetBit_movers ..),
      mvHand_congr (hubSetBit_movers ..), mvHand_mvPut]

theorem mvDone_mem (irq : Bool) : (mvDone c.val irq s).mem = s.mem := by
  rw [mvDone_blind (g := State.mem) c s (fireBlind_of_fields (fun _ _ _ => rfl) fun _ _ => rfl) (fun _ _ => rfl) irq, mvIdle,
    hubSetBit_mem, hubSetBit_mem, hubSetBit_mem, mvPut_mem]

/-- PLOT_MVc_DONE holds the number of words written. -/
theorem hubPair_mvDone_mvSetDone (irq : Bool) (k : Nat) :
    hubPair (mvReg c.val + 0x14) (mvDone c.val irq (mvSetDone c.val k s)) = BitVec.ofNat 48 k := by
  have hkeep (o : Nat) (h : o < 0x20) (h9 : o ≠ 9) (t : State) :
      hubGet (mvReg c.val + o) (mvDone c.val irq t) = hubGet (mvReg c.val + o) t := by
    rw [hubGet_mvDone c t irq h, mvIdle, hubGet_hubSetBit, if_neg (by omega), hubGet_hubSetBit, if_neg (by omega),
      hubGet_hubSetBit, if_neg (by omega), hubGet_mvPut]
  rw [hubPair, hkeep 0x14 (by decide) (by decide), Nat.add_assoc, hkeep (0x14 + 1) (by decide) (by decide), ← Nat.add_assoc,
    ← hubPair, mvSetDone, hubPair_hubPutPair_self]

/-- At a stop with an error the channel is idle with ERR. -/
theorem mvStop_stops (code : BitVec 4) :
    let t := mvStop c.val code s
    hubBit (mvReg c.val + 9) 23 t = false ∧ hubBit (mvReg c.val + 9) 21 t = true ∧ mvHand c t = none := by
  have hbit (i : Nat) (t : State) : hubBit (mvReg c.val + 9) i (fire (0x860 + c.val) t) = hubBit (mvReg c.val + 9) i t :=
    congrArg (bitOf i) (hubGet_fire _ _ (.inl (mvReg_lt c (by decide))))
  dsimp only [mvStop]
  refine ⟨?_, ?_, ?_⟩
  · rw [hbit, hubBit_hubSetBit_bit (by decide) (by decide), hubBit_hubSetFld (by decide) (by decide) (by decide),
      hubBit_hubSetBit_self (by decide)]
  · rw [hbit, hubBit_hubSetBit_bit (by decide) (by decide), hubBit_hubSetFld (by decide) (by decide) (by decide),
      hubBit_hubSetBit_bit (by decide) (by decide), hubBit_hubSetBit_self (by decide)]
  · rw [mvHand_congr (fire_movers ..), mvHand_congr (hubSetBit_movers ..), mvHand_congr (hubSetFld_movers ..),
      mvHand_congr (hubSetBit_movers ..), mvHand_congr (hubSetBit_movers ..), mvHand_mvPut]

end

/-! ## How a transfer begins (R205, R206) -/

/-- The capabilities in SCAP and DCAP allow the extents of a descriptor, which moves some word (R204, R205). -/
def MvAdmitted (c : Mover) (d : MoverSt) (scap dcap : CapV) (s : State) : Prop :=
  let word (o : Nat) : Word := hubGet (mvReg c.val + o) s
  loadCap s (capOfWords (word 0xC) (word 0xD) (word 0xE) (word 0xF)) = some scap ∧
    loadCap s (capOfWords (word 0x10) (word 0x11) (word 0x12) (word 0x13)) = some dcap ∧
    extentOk scap (extentOf d.src d.sstr d) permRD = true ∧ extentOk dcap (extentOf d.dst d.dstr d) permWR = true ∧
    0 < d.len.toNat ∧ 0 < d.rows.toNat

section
variable {c : Mover} {d : MoverSt} {scap dcap : CapV} {s t : State}

theorem loadCap_congr (h : t.sec = s.sec) (x : Cap) : loadCap t x = loadCap s x := by
  rw [loadCap, tagOk, h, loadCap, tagOk]

theorem MvAdmitted.congr (hm : MvAdmitted c d scap dcap s) (hsec : t.sec = s.sec)
    (hreg : ∀ o, 0xC ≤ o → o < 0x14 → hubGet (mvReg c.val + o) t = hubGet (mvReg c.val + o) s) : MvAdmitted c d scap dcap t := by
  unfold MvAdmitted at hm ⊢
  dsimp only at hm ⊢
  rw [loadCap_congr hsec, loadCap_congr hsec, hreg 0xC, hreg 0xD, hreg 0xE, hreg 0xF, hreg 0x10, hreg 0x11, hreg 0x12, hreg 0x13]
  · exact hm
  all_goals decide

/-- LINK and IRQ of a descriptor have no part in its checks. -/
theorem MvAdmitted.flags (hm : MvAdmitted c d scap dcap s) (link irq : Bool) :
    MvAdmitted c { d with link := link, irq := irq } scap dcap s := hm

theorem mvCap_loaded {o : Nat} {x : CapV} (h : loadCap s (capOfWords (hubGet (mvReg c.val + o) s) (hubGet (mvReg c.val + o + 1) s)
    (hubGet (mvReg c.val + o + 2) s) (hubGet (mvReg c.val + o + 3) s)) = some x) : mvCap c o s = (x, s) := by
  simp only [mvCap, h]

theorem not_empty_of_admitted (hm : MvAdmitted c d scap dcap s) : d.empty = false := by
  obtain ⟨-, -, -, -, hlen, hrows⟩ := hm
  have hl : decide (d.len = 0) = false := decide_eq_false fun h => by simp [h] at hlen
  have hr : decide (d.rows = 0) = false := decide_eq_false fun h => by simp [h] at hrows
  rw [MoverSt.empty, hl, hr, Bool.or_false]

theorem mvCheck_admitted (hm : MvAdmitted c d scap dcap s) : mvCheck c d s = (none, s) := by
  have hempty := not_empty_of_admitted hm
  obtain ⟨hs, hd, hsx, hdx, -, -⟩ := hm
  have hscap : mvCap c 0xC s = (scap, s) := mvCap_loaded hs
  have hdcap : mvCap c 0x10 s = (dcap, s) := mvCap_loaded hd
  simp [mvCheck, hempty, hscap, hdcap, hsx, hdx]

/-- The state in which an admitted transfer runs: BUSY, not armed, the descriptor in hand. -/
def mvRunning (c : Mover) (s : State) : State :=
  hubSetBit (mvReg c.val + 9) 23 true (mvPut c.val (some (mvHead c s))
    (hubPutPair (mvReg c.val + 0x14) 0 (hubSetFld (mvReg c.val + 9) 3 0 0 (hubSetBit (mvReg c.val + 9) 20 false s))))

theorem mvStart_admitted (hm : MvAdmitted c (mvHead c s) scap dcap s) : mvStart c s = mvRunning c s := by
  have hm' : MvAdmitted c (mvHead c s) scap dcap
      (hubPutPair (mvReg c.val + 0x14) 0 (hubSetFld (mvReg c.val + 9) 3 0 0 (hubSetBit (mvReg c.val + 9) 20 false s))) := by
    refine hm.congr ((hubPutPair_sec ..).trans ((hubSetFld_sec ..).trans (hubSetBit_sec ..))) fun o h1 h2 => ?_
    rw [hubGet_hubPutPair, if_neg (by omega), if_neg (by omega), hubGet_hubSetFld, if_neg (by omega), hubGet_hubSetBit,
      if_neg (by omega)]
  simp only [mvStart, mvCheck_admitted hm', not_empty_of_admitted hm, Bool.false_and, Bool.false_eq_true, if_false, mvRunning]

theorem mvRunning_runs (c : Mover) (s : State) :
    hubBit (mvReg c.val + 9) 23 (mvRunning c s) = true ∧ hubBit (mvReg c.val + 9) 20 (mvRunning c s) = false ∧
      mvHand c (mvRunning c s) = some (mvHead c s) := by
  refine ⟨?_, ?_, ?_⟩
  · rw [mvRunning, hubBit_hubSetBit_self (by decide)]
  · rw [mvRunning, hubBit_hubSetBit_bit (by decide) (by decide), hubBit, hubGet_mvPut, ← hubBit,
      hubBit_hubPutPair (by omega) (by omega), hubBit_hubSetFld (by decide) (by decide) (by decide), hubBit_hubSetBit_self (by decide)]
  · rw [mvRunning, mvHand_congr (hubSetBit_movers ..), mvHand_mvPut]

end

theorem mvRunning_mem (c : Mover) (s : State) : (mvRunning c s).mem = s.mem := by
  rw [mvRunning, hubSetBit_mem, mvPut_mem, hubPutPair_mem, hubSetFld_mem, hubSetBit_mem]

theorem mvRunning_ev (c : Mover) (s : State) : (mvRunning c s).ev = s.ev := by
  rw [mvRunning, hubSetBit_ev, mvPut_ev, hubPutPair_ev, hubSetFld_ev, hubSetBit_ev]

/-! ## Writes of PLOT_MVc_CTL (R206, R350) -/

/-- A write of PLOT_MVc_CTL sets TRIG_EN, LINK, IRQ and the channel. -/
theorem mvCtlRow_writable : ∀ c : Mover, ∀ j < 24, j = 19 ∨ j = 20 ∨ j = 21 ∨ j ≤ 9 →
    bitOf j ((hubRow (mvReg c.val + 8)).rw ||| (hubRow (mvReg c.val + 8)).wo) = true := by decide +kernel

section
variable (c : Mover) (v : Word) (s : State)

theorem hubGet_hubCodeWrite (o p : Nat) :
    hubGet p (hubCodeWrite o v s) = if o = p then regWrite (hubRow o) (hubGet o s) v else hubGet p s := hubGet_hubPut ..

theorem mvCtlBit_written {j : Nat} (hj : j = 19 ∨ j = 20 ∨ j = 21) :
    hubBit (mvReg c.val + 8) j (hubCodeWrite (mvReg c.val + 8) v s) = bitOf j v := by
  rw [hubBit, hubGet_hubCodeWrite, if_pos rfl, bitOf_regWrite (mvCtlRow_writable c j (by omega) (by omega))]

theorem mvCtlChan_written : hubFld (mvReg c.val + 8) 9 0 (hubCodeWrite (mvReg c.val + 8) v s) = fld 9 0 v := by
  rw [hubFld, hubGet_hubCodeWrite, if_pos rfl,
    fld_regWrite fun j _ hj => mvCtlRow_writable c j (by omega) (.inr (.inr (.inr hj)))]

/-- The descriptor of the registers after a write of CTL: its LINK and IRQ are those written. -/
theorem mvHead_ctlWritten : mvHead c (hubCodeWrite (mvReg c.val + 8) v s) =
    { mvHead c s with link := bitOf 20 v, irq := bitOf 19 v } := by
  have hreg (o : Nat) (h : o ≠ 8) : hubGet (mvReg c.val + o) (hubCodeWrite (mvReg c.val + 8) v s) = hubGet (mvReg c.val + o) s := by
    rw [hubGet_hubCodeWrite, if_neg (by omega)]
  have hpair (o : Nat) (h : o ≠ 8) (h' : o + 1 ≠ 8) :
      hubPair (mvReg c.val + o) (hubCodeWrite (mvReg c.val + 8) v s) = hubPair (mvReg c.val + o) s := by
    rw [hubPair, hreg o h, Nat.add_assoc, hreg (o + 1) h', hubPair, Nat.add_assoc]
  have h0 : hubPair (mvReg c.val) (hubCodeWrite (mvReg c.val + 8) v s) = hubPair (mvReg c.val) s := hpair 0 (by decide) (by decide)
  rw [mvHead, mvHead, h0, hpair 2, hpair 0xA, hreg 4, hreg 5, hreg 6, hreg 7, mvCtlBit_written c v s (.inr (.inl rfl)),
    mvCtlBit_written c v s (.inl rfl)]
  all_goals decide

variable {c v s}

section
variable (task : Nat) (t : State)

theorem unbind_sec : (unbind task t).sec = t.sec := rfl
theorem unbind_mem : (unbind task t).mem = t.mem := rfl
theorem hubGet_unbind (o : Nat) : hubGet o (unbind task t) = hubGet o t := rfl
theorem mvHead_unbind : mvHead c (unbind task t) = mvHead c t := rfl

end

theorem rebind_none (task : Nat) (t : State) : rebind task none t = unbind task t := by rfl

/-- A write of CTL with GO and without TRIG_EN takes the trigger off its channel and starts the transfer. -/
theorem mvCtlWrite_go {ctl : Word} (hb : hubBit (mvReg c.val + 9) 23 s = false) (habort : bitOf 22 ctl = false)
    (htrig : bitOf 21 ctl = false) : mvCtlWrite c (setBit 23 true ctl) s =
      mvStart c (unbind (taskMover c) (hubCodeWrite (mvReg c.val + 8) (setBit 23 true ctl) s)) := by
  have hbusy : mvBusy c.val s = false := hb
  simp [mvCtlWrite, hbusy, mvSel, rebind_none, bitOf_setBit, habort, htrig]

/-- A write of CTL with GO and TRIG_EN binds the channel that it selects and arms the mover. -/
theorem mvCtlWrite_arm {ctl : Word} (hb : hubBit (mvReg c.val + 9) 23 s = false) (habort : bitOf 22 ctl = false)
    (htrig : bitOf 21 ctl = true) : mvCtlWrite c (setBit 23 true ctl) s =
      hubSetBit (mvReg c.val + 9) 20 true
        (rebind (taskMover c) (some (fld 9 0 ctl)) (hubCodeWrite (mvReg c.val + 8) (setBit 23 true ctl) s)) := by
  have hbusy : mvBusy c.val s = false := hb
  have hchan : fld 9 0 (setBit 23 true ctl) = fld 9 0 ctl := fld_setBit_of_outside (by decide) (by decide) ..
  simp [mvCtlWrite, hbusy, mvSel, bitOf_setBit, habort, htrig, hchan]

end

/-! ## The bindings of task inputs (R349, R350) -/

/-- Binding a task input changes no register below the event fabric's EVF_FORKERR. -/
theorem hubGet_rebind {o : Nat} (h : o < 0x20002) (task : Nat) (sel : Option Nat) (s : State) :
    hubGet o (rebind task sel s) = hubGet o s := by
  cases sel with
  | none => rfl
  | some k =>
    refine reads_ite rfl (reads_ite rfl ?_)
    rw [hubGet_fire _ _ (.inl (by omega)), forkErr, hubGet_hubPut_ne _ _ (by omega), hubGet_hubPut_ne _ _ (by omega)]
    rfl

/-- Rebuilding a map entry by entry, in the order of its keys, changes each entry's value alone. -/
theorem smAt_foldl_map {α : Type} [DecidableEq α] {e : α} (f : α → α) (hf : f e = e) (l : SMap α)
    (hl : smWf (fun _ => e) l = true) (k : Nat) (m : SMap α) (hm : smAt e m k = e) :
    smAt e (l.foldl (fun m p => smPut e m p.1 (f p.2)) m) k = f (smAt e l k) := by
  induction l generalizing m with
  | nil => exact hm.trans hf.symm
  | cons p rest ih =>
    obtain ⟨a, x⟩ := p
    by_cases ha : a = k
    · subst ha
      have hkeep (l : SMap α) (h : ∀ p ∈ l, a < p.1) (m : SMap α) :
          smAt e (l.foldl (fun m p => smPut e m p.1 (f p.2)) m) a = smAt e m a := by
        refine List.foldlRecOn (motive := fun t => smAt e t a = smAt e m a) _ _ rfl fun t ht p hp => ?_
        rw [smAt_smPut, if_neg (Nat.ne_of_gt (h p hp)), ht]
      rw [List.foldl_cons, hkeep rest (smWf_head_lt a x rest hl), smAt_smPut, if_pos rfl]
      simp [smAt, smGet]
    · rw [List.foldl_cons, ih (smWf_tail hl) _ (by rw [smAt_smPut, if_neg ha, hm])]
      simp [smAt, smGet, ha]

/-- Where the map of bindings is canonical, a task input that leaves its channel leaves the other bindings as they are. -/
theorem bindsOf_unbind {s : State} (h : smWf (fun _ => []) s.ev.binds = true) (task k : Nat) :
    bindsOf k (unbind task s) = (bindsOf k s).filter (· ≠ task) :=
  smAt_foldl_map (fun l : List Nat => l.filter (· ≠ task)) rfl s.ev.binds h k [] rfl

/-- Where the map of bindings is canonical, a task input that selects a channel without bindings is bound to it alone. -/
theorem bindsOf_rebind_free {s : State} (h : smWf (fun _ => []) s.ev.binds = true) {k : Nat} (hk : bindsOf k s = []) (task : Nat) :
    bindsOf k (rebind task (some k) s) = [task] := by
  have hfree : bindsOf k (unbind task s) = [] := by rw [bindsOf_unbind h, hk]; rfl
  have hbind : smAt [] (smPut [] (unbind task s).ev.binds k [task]) k = [task] := (smAt_smPut ..).trans (if_pos rfl)
  simp only [rebind, hk, List.not_mem_nil, if_false, hfree, true_or, if_true, List.nil_append]
  exact hbind

end Sys2Proof.Machine
end
section
/-!
PROOFS. The commands of the hub movers (O35).
-/
namespace Sys2Proof.Machine

section
variable {c : Mover} {d : MoverSt} {scap dcap : CapV} {s : State}

/-- GO without TRIG_EN starts the admitted transfer of the registers (R205, R206). -/
theorem mvCtlWrite_starts {ctl : Word} (hb : hubBit (mvReg c.val + 9) 23 s = false) (hm : MvAdmitted c (mvHead c s) scap dcap s)
    (habort : bitOf 22 ctl = false) (htrig : bitOf 21 ctl = false) :
    let t := mvCtlWrite c (setBit 23 true ctl) s
    hubBit (mvReg c.val + 9) 23 t = true ∧ mvHand c t = some { mvHead c s with link := bitOf 20 ctl, irq := bitOf 19 ctl } ∧
      t.mem = s.mem := by
  have hhead : mvHead c (unbind (taskMover c) (hubCodeWrite (mvReg c.val + 8) (setBit 23 true ctl) s)) =
      { mvHead c s with link := bitOf 20 ctl, irq := bitOf 19 ctl } := by
    rw [mvHead_unbind, mvHead_ctlWritten, bitOf_setBit (by decide), if_neg (by decide), bitOf_setBit (by decide), if_neg (by decide)]
  have hm' := MvAdmitted.congr (t := unbind (taskMover c) (hubCodeWrite (mvReg c.val + 8) (setBit 23 true ctl) s))
    (hm.flags (bitOf 20 ctl) (bitOf 19 ctl)) ((unbind_sec ..).trans (hubPut_sec ..)) fun o h1 h2 => by
      rw [hubGet_unbind, hubGet_hubCodeWrite, if_neg (by omega)]
  rw [← hhead] at hm' ⊢
  rw [mvCtlWrite_go hb habort htrig, mvStart_admitted hm']
  obtain ⟨hbusy, -, hhand⟩ := mvRunning_runs c (unbind (taskMover c) (hubCodeWrite (mvReg c.val + 8) (setBit 23 true ctl) s))
  exact ⟨hbusy, hhand, (mvRunning_mem ..).trans ((unbind_mem ..).trans (hubPut_mem ..))⟩

/-- GO with TRIG_EN arms the mover at the channel written (R206, R349). -/
theorem mvCtlWrite_arms {ctl : Word} (hb : hubBit (mvReg c.val + 9) 23 s = false) (habort : bitOf 22 ctl = false)
    (htrig : bitOf 21 ctl = true) :
    let t := mvCtlWrite c (setBit 23 true ctl) s
    hubBit (mvReg c.val + 9) 20 t = true ∧ hubBit (mvReg c.val + 9) 23 t = false ∧ hubFld (mvReg c.val + 8) 9 0 t = fld 9 0 ctl ∧
      t.movers = s.movers ∧ t.mem = s.mem ∧
      (smWf (fun _ => []) s.ev.binds = true → bindsOf (fld 9 0 ctl) s = [] → bindsOf (fld 9 0 ctl) t = [taskMover c]) := by
  have hreg (o : Nat) (h : o < 0x20) (task : Nat) (sel : Option Nat) (u : State) :
      hubGet (mvReg c.val + o) (rebind task sel u) = hubGet (mvReg c.val + o) u :=
    hubGet_rebind (by have := c.isLt; unfold mvReg; omega) ..
  intro t
  have ht : t = _ := mvCtlWrite_arm hb habort htrig
  rw [ht]
  refine ⟨hubBit_hubSetBit_self (by decide) .., ?_, ?_, ?_, ?_, fun hwf hfree => ?_⟩
  · rw [hubBit_hubSetBit_bit (by decide) (by decide), hubBit, hreg 9 (by decide), hubGet_hubCodeWrite, if_neg (by omega), ← hubBit, hb]
  · rw [hubFld, hubGet_hubSetBit, if_neg (by omega), hreg 8 (by decide), ← hubFld, mvCtlChan_written,
      fld_setBit_of_outside (by decide) (by decide)]
  · exact (hubSetBit_movers ..).trans (rebind_field (g := State.movers) (fun _ _ _ => rfl) (fun _ _ => rfl) ..)
  · exact (hubSetBit_mem ..).trans (rebind_field (g := State.mem) (fun _ _ _ => rfl) (fun _ _ => rfl) ..)
  · have hbind := bindsOf_rebind_free (s := hubCodeWrite (mvReg c.val + 8) (setBit 23 true ctl) s) hwf hfree (taskMover c)
    rwa [bindsOf, hubSetBit_ev, ← bindsOf]

/-- A trigger that meets a busy channel is dropped with OVR (R206). -/
theorem execMoverTrigger_busy (hd : dark s = false) (hw : taskMover c ∈ s.ev.taskIn) (hb : hubBit (mvReg c.val + 9) 23 s = true) :
    execMoverTrigger c s = .next (hubSetBit (mvReg c.val + 9) 19 true (takeTask (taskMover c) s)) := by
  have hbusy : mvBusy c (takeTask (taskMover c) s) = true := hb
  simp [execMoverTrigger, awake_eq hd, taskWaits, hw, hbusy]

/-- A trigger starts an armed channel (R206). -/
theorem execMoverTrigger_armed (hd : dark s = false) (hw : taskMover c ∈ s.ev.taskIn) (hb : hubBit (mvReg c.val + 9) 23 s = false)
    (ha : hubBit (mvReg c.val + 9) 20 s = true) (hm : MvAdmitted c (mvHead c s) scap dcap s) :
    execMoverTrigger c s = .next (mvRunning c (takeTask (taskMover c) s)) := by
  have hbusy : mvBusy c (takeTask (taskMover c) s) = false := hb
  have harmed : mvArmed c (takeTask (taskMover c) s) = true := ha
  have hm' : MvAdmitted c (mvHead c (takeTask (taskMover c) s)) scap dcap (takeTask (taskMover c) s) := hm
  simp [execMoverTrigger, awake_eq hd, taskWaits, hw, hbusy, harmed, mvStart_admitted hm']

/-- A descriptor without a link whose words are all copied ends its transfer (R204, R206). -/
theorem mvTransfer_copied (h : mvHand c s = some d) (hstop : d.stop = none) (hlink : d.link = false) (hpause : servicePause s = false)
    (hcopied : (mvRun c d none s).stop = .copied) :
    mvTransfer c s = mvDone c d.irq (mvSetDone c (mvRun c d none s).moved (mvRun c d none s).s) := by
  simp [mvTransfer, h, hstop, hlink, hpause, hcopied]

theorem execMoverAbort_running (hd : dark s = false) (h : mvHand c s = some d) : execMoverAbort c s = .next (mvAborted c d s) := by
  rw [execMoverAbort, awake_eq hd, h]

/-- An abort that meets no transfer disarms the channel (R206). -/
theorem execMoverAbort_idle (hd : dark s = false) (h : mvHand c s = none) :
    execMoverAbort c s = .next (hubSetBit (mvReg c.val + 9) 20 false s) := by
  rw [execMoverAbort, awake_eq hd, h]
  simp only [mvAbortMark, h]

theorem mvAborted_eq (h : ∀ k, (mvRun c d (some k) (drawn s)).stop ≠ .held) :
    ∃ code k u, mvAborted c d s = mvStop c code (mvSetDone c k u) := by
  unfold mvAborted
  extract_lets r
  have hr : r.stop ≠ .held := h _
  split
  next code _ => exact ⟨code, _, _, rfl⟩
  next hheld => exact absurd hheld hr
  · exact ⟨7, _, _, rfl⟩

/-- An aborted transfer of which no word waits stops with ERR (R206). -/
theorem mvAborted_stops (h : ∀ k, (mvRun c d (some k) (drawn s)).stop ≠ .held) :
    hubBit (mvReg c.val + 9) 23 (mvAborted c d s) = false ∧ hubBit (mvReg c.val + 9) 21 (mvAborted c d s) = true ∧
      mvHand c (mvAborted c d s) = none := by
  obtain ⟨code, k, u, heq⟩ := mvAborted_eq h
  rw [heq]
  exact mvStop_stops ..

end

end Sys2Proof.Machine

namespace Sys2Proof.Proofs

open Sys2Proof.Machine Sys2Proof.Claims

/-- A machine after reset but for its map of bindings, which has two entries for channel 0: the first names no task input, the
second one names task input 7. The map is not in its canonical form. -/
def bindsTwice : State := { State.reset with ev := { State.reset.ev with binds := [(0, []), (0, [7])] } }

/-- Refutes O35: the statement asks of every state that a mover armed on a channel without bindings is bound there alone, but
not that the map of bindings is canonical. In `bindsTwice` channel 0 reads as without bindings, and binding the mover rebuilds the
map, which brings the second entry for channel 0 to light. -/
theorem not_moversCopyTheirWords : ¬ Obligations.MoversCopyTheirWords := by
  unfold Obligations.MoversCopyTheirWords
  intro h
  obtain ⟨-, harms, -⟩ := h 0 0x200000 .hostA CapV.null CapV.null (mvHead 0 bindsTwice) bindsTwice (by decide +kernel)
  obtain ⟨t, ht, -, -, -, -, -, hbind⟩ := harms (by decide +kernel) (by decide +kernel) (by decide +kernel)
  cases ht
  exact absurd (hbind (by decide +kernel)) (by decide +kernel)

/-- O35 with the premise that it lacks, a canonical map of bindings, as O40 has it: every clause holds then. -/
theorem moversCopyTheirWords_of_canonicalBinds (c : Mover) (ctl : Word) (m : Master) (scap dcap : CapV) (d : MoverSt) (s : State)
    (hd : dark s = false) (hwf : smWf (fun _ => []) s.ev.binds = true) :
    let r := mvReg c.val
    let word (o : Nat) : Word := hubGet (r + o) s
    let busy := hubBit (r + 9) 23 s
    let reg := mvHead c s
    let may : Prop := MvAdmitted c reg scap dcap s
    (busy = false → may → bitOf 22 ctl = false → bitOf 21 ctl = false → ∃ t, exec (.moverGo c ctl) s = .next t ∧
      hubBit (r + 9) 23 t = true ∧ mvHand c t = some { reg with link := bitOf 20 ctl, irq := bitOf 19 ctl } ∧ t.mem = s.mem) ∧
    (busy = false → bitOf 22 ctl = false → bitOf 21 ctl = true → ∃ t, exec (.moverGo c ctl) s = .next t ∧
      hubBit (r + 9) 20 t = true ∧ hubBit (r + 9) 23 t = false ∧ hubFld (r + 8) 9 0 t = fld 9 0 ctl ∧ t.movers = s.movers ∧ t.mem = s.mem ∧
      (bindsOf (fld 9 0 ctl) s = [] → bindsOf (fld 9 0 ctl) t = [taskMover c])) ∧
    (taskMover c ∈ s.ev.taskIn → busy = true → ∃ t, exec (.moverTrigger c) s = .next t ∧ hubBit (r + 9) 19 t = true ∧
      t.ev.taskIn = s.ev.taskIn.erase (taskMover c) ∧ t.mem = s.mem ∧ t.movers = s.movers) ∧
    (taskMover c ∈ s.ev.taskIn → busy = false → hubBit (r + 9) 20 s = true → may → ∃ t, exec (.moverTrigger c) s = .next t ∧
      hubBit (r + 9) 23 t = true ∧ hubBit (r + 9) 20 t = false ∧ mvHand c t = some reg ∧
      t.ev.taskIn = s.ev.taskIn.erase (taskMover c) ∧ t.mem = s.mem) ∧
    (mvHand c s = some d → d.stop = none → d.link = false → servicePause s = false → d.moved ≤ d.rows.toNat * d.len.toNat →
      (mvRun c d none s).stop = .copied →
      ∃ t, exec (.moverTransferDone c) s = .next t ∧ t.mem = (mvRun c d none s).s.mem ∧ hubBit (r + 9) 20 t = hubBit (r + 8) 21 t ∧
        (d.moved = 0 → d.got = none → d.old = [] → ((mvWords d).map (·.2)).Nodup →
          (∀ p ∈ mvWords d, plainWord p.1 = true ∧ plainWord p.2 = true ∧ ∀ q ∈ mvWords d, p.1 ≠ q.2) →
          (∀ p ∈ mvWords d, memGet p.2 t = memGet p.1 s) ∧ ∀ a, (∀ p ∈ mvWords d, p.2 ≠ a) → memGet a t = memGet a s) ∧
        hubPair (r + 0x14) t = BitVec.ofNat 48 (d.rows.toNat * d.len.toNat) ∧ hubBit (r + 9) 23 t = false ∧ hubBit (r + 9) 22 t = true ∧
        mvHand c t = none) ∧
    (mvHand c s = some d → (∀ k, (mvRun c d (some k) (drawn s)).stop ≠ .held) →
      ∃ t, exec (.moverAbort c) s = .next t ∧ hubBit (r + 9) 23 t = false ∧ hubBit (r + 9) 21 t = true ∧
      mvHand c t = none) ∧
    (mvHand c s = none → exec (.moverAbort c) s = .next (hubSetBit (r + 9) 20 false s)) ∧
    (∃ t, exec (.plotMvDoneW0Read c m) s = .next t ∧ t.resp = [word 0x14] ∧
      snapGet (r + 0x14) (masterNum m) t = (word 0x15).setWidth 48 ∧ t.hub = s.hub ∧ t.mem = s.mem) := by
  intro r word busy reg may
  have hgo : exec (.moverGo c ctl) s = .next (mvCtlWrite c (setBit 23 true ctl) s) := awake_eq hd _
  refine ⟨fun hb hm ha ht => ?starts, fun hb ha ht => ?arms, fun hw hb => ?dropped, fun hw hb harm hm => ?triggered,
    fun hhand hstop hlink hpause hmoved hcopied => ?copied, fun hhand hheld => ?aborted, fun hhand => ?disarmed, ?doneRead⟩
  case starts => exact ⟨_, hgo, mvCtlWrite_starts hb hm ha ht⟩
  case arms =>
    obtain ⟨harmed, hbusy, hchan, hmovers, hmem, hbind⟩ := mvCtlWrite_arms hb ha ht
    exact ⟨_, hgo, harmed, hbusy, hchan, hmovers, hmem, hbind hwf⟩
  case dropped => exact ⟨_, execMoverTrigger_busy hd hw hb, hubBit_hubSetBit_self (by decide) ..,
      congrArg Ev.taskIn (hubSetBit_ev ..), hubSetBit_mem .., hubSetBit_movers ..⟩
  case triggered =>
    obtain ⟨hbusy, harmed, hhand⟩ := mvRunning_runs c (takeTask (taskMover c) s)
    exact ⟨_, execMoverTrigger_armed hd hw hb harm hm, hbusy, harmed, hhand, congrArg Ev.taskIn (mvRunning_ev ..), mvRunning_mem ..⟩
  case copied =>
    obtain ⟨hrearm, hbusy, hdone, hnone⟩ := mvDone_ends c (mvSetDone c (mvRun c d none s).moved (mvRun c d none s).s) d.irq
    have hmem : (mvTransfer c s).mem = (mvRun c d none s).s.mem := by
      rw [mvTransfer_copied hhand hstop hlink hpause hcopied, mvDone_mem]
      exact hubPutPair_mem ..
    have hexec : exec (.moverTransferDone c) s = .next (mvTransfer c s) := awake_eq hd _
    refine ⟨_, hexec, hmem, ?_, fun hm0 hgot hold hnd hp => ?_, ?_, ?_, ?_, ?_⟩
    case refine_2 =>
      obtain ⟨hdst, hother⟩ := mvRun_copies hm0 hgot hold hnd hp hcopied
      exact ⟨fun p hp => (memGet_congr hmem _).trans (hdst p hp), fun a ha => (memGet_congr hmem _).trans (hother a ha)⟩
    all_goals rw [mvTransfer_copied hhand hstop hlink hpause hcopied]
    · exact hrearm
    · exact (hubPair_mvDone_mvSetDone ..).trans (congrArg _ (mvRun_moved hmoved hcopied))
    · exact hbusy
    · exact hdone
    · exact hnone
  case aborted => exact ⟨_, execMoverAbort_running hd hhand, mvAborted_stops hheld⟩
  case disarmed => exact execMoverAbort_idle hd hhand
  case doneRead => exact ⟨_, awake_eq hd _, rfl, snapGet_respond_snapPut .., rfl, rfl⟩

end Sys2Proof.Proofs
end
section
/-!
PROOFS. How a word of a sequencer completes: its results land or stay under way, the pc, the loop and the advancing cycles go
on (R225, R226, R231, R236).
-/
namespace Sys2Proof.Machine

open Sys2Proof.Claims

/-! ## Updates of one cluster -/

theorem modCl_modCl (n : Cl) (f g : Cluster → Cluster) (s : State) : (s.modCl n f).modCl n g =
    s.modCl n (fun c => g (f c)) := by
  simp only [modCl_eq, putCl_cl_self, putCl_putCl]

theorem putCl_modCl (n : Cl) (c : Cluster) (f : Cluster → Cluster) (s : State) : (s.putCl n c).modCl n f = s.putCl n (f c) := by
  simp only [modCl_eq, putCl_cl_self, putCl_putCl]

/-! ## Results under way, and results that land (R225, R226) -/

/-- Results reach their registers, the first of them first. -/
def landed (ws : List (RegName × RegVal)) (c : Cluster) : Cluster := ws.foldl (fun d p => landReg d ⟨p.1, p.2, 0⟩) c

/-- The pipeline goes on to the word at `pc` after `k` advancing cycles. -/
def goneTo (pc : Word) (k : Nat) (c : Cluster) : Cluster := { c with pc := pc, cyc := c.cyc + k, stepping := false }

theorem passOver_eq (c : Cluster) : passOver c = goneTo (c.pc + 1) 1 c := rfl

theorem jumpTo_eq (target : Word) (bubbles : Nat) (c : Cluster) :
    jumpTo target bubbles c = evcEvent 0x02 1 (evcEvent 0x04 bubbles (goneTo target (1 + bubbles) c)) := rfl

theorem foldl_dueInsert (t : Nat) (ws : List (RegName × RegVal)) (q : List RegWrite) (h : ∀ a ∈ q, a.due ≤ t) :
    ws.foldl (fun q p => dueInsert ⟨p.1, p.2, t⟩ q) q = q ++ ws.map fun p => ⟨p.1, p.2, t⟩ := by
  have hlast : ∀ (p : RegName × RegVal) (q : List RegWrite), (∀ a ∈ q, a.due ≤ t) →
      dueInsert ⟨p.1, p.2, t⟩ q = q ++ [⟨p.1, p.2, t⟩] := by
    intro p q hq
    induction q with
    | nil => rfl
    | cons a q ih =>
      have ha := hq a List.mem_cons_self
      rw [dueInsert, if_neg (Nat.not_lt.mpr ha), ih fun b hb => hq b (List.mem_cons_of_mem _ hb), List.cons_append]
  induction ws generalizing q with
  | nil => simp
  | cons p ws ih =>
    rw [List.foldl_cons, hlast p q h, ih, List.append_assoc, List.map_cons, List.singleton_append]
    intro a ha
    obtain ha | ha := List.mem_append.mp ha
    · exact h a ha
    · rw [List.mem_singleton.mp ha]

/-- With nothing under way before it, a word's results are all that is. -/
theorem dueAdd_calm {c : Cluster} (h : c.due = []) (k : Nat) (ws : List (RegName × RegVal)) :
    dueAdd k ws c = laterAll k ws c := by
  rw [dueAdd, laterAll, h, foldl_dueInsert _ _ _ (by simp), List.nil_append]

theorem landReg_goneTo (pc : Word) (k : Nat) (c : Cluster) (w : RegWrite) :
    landReg (goneTo pc k c) w = goneTo pc k (landReg c w) := by
  unfold landReg
  split <;> simp only [goneTo] <;> rfl

theorem landed_goneTo (pc : Word) (k : Nat) (ws : List (RegName × RegVal)) (c : Cluster) :
    landed ws (goneTo pc k c) = goneTo pc k (landed ws c) := by
  unfold landed
  induction ws generalizing c with
  | nil => rfl
  | cons p ws ih => rw [List.foldl_cons, List.foldl_cons, landReg_goneTo, ih]

section
variable {c : Cluster} (h : c.due = []) (pc : Word) {j k : Nat} (ws : List (RegName × RegVal))

/-- Results that come later are still under way. -/
theorem landDue_goneTo_later (hkj : k < j) : landDue (goneTo pc k (laterAll j ws c)) = goneTo pc k (laterAll j ws c) := by
  cases ws with
  | nil => exact landDue_nil rfl
  | cons p ws =>
    have hlate : ¬ c.cyc + j ≤ c.cyc + k := by omega
    simp [landDue, goneTo, laterAll, hlate]

include h

theorem landDue_goneTo_calm (k : Nat) : landDue (goneTo pc k c) = goneTo pc k c := landDue_nil h

/-- Results whose instant has come when the pipeline goes on are in their registers. -/
theorem landDue_goneTo_landed (hjk : j ≤ k) : landDue (goneTo pc k (laterAll j ws c)) = goneTo pc k (landed ws c) := by
  have hdue : ∀ w ∈ ws.map (fun p => (⟨p.1, p.2, c.cyc + j⟩ : RegWrite)), decide (w.due ≤ c.cyc + k) = true := by
    intro w hw
    obtain ⟨p, -, rfl⟩ := List.mem_map.mp hw
    exact decide_eq_true (Nat.add_le_add_left hjk _)
  have hclear : { goneTo pc k (laterAll j ws c) with due := [] } = goneTo pc k c := by
    cases c; simp only at h; subst h; rfl
  unfold landDue
  show ((ws.map _).takeWhile fun w => decide (w.due ≤ c.cyc + k)).foldl landReg
    { goneTo pc k (laterAll j ws c) with due := (ws.map _).dropWhile fun w => decide (w.due ≤ c.cyc + k) } = _
  rw [List.takeWhile_eq_self_iff.mpr hdue, List.dropWhile_eq_nil_iff.mpr hdue, hclear, List.foldl_map, ← landed_goneTo]
  rfl

end

/-! ## A word completes (R231, R235, R236) -/

/-- The loop a taken transfer leaves, where no OUT to a loop register shadows it (R236). -/
theorem leaveLoop_plain {c : Cluster} (hg : c.loopLag = []) (t : Word) : leaveLoop t c = endLoop t c := by
  have hput : ∀ v, loopPut 0x6 v c = ioPut 0x6 v c := fun v => by simp [loopPut, lagFind, hg]
  simp only [leaveLoop, endLoop, loopGet_plain hg, hput, ioFld, ioSetBit]
  rfl

/-- The fields of a cluster that END's bit of SEQ_LEND does not touch. -/
theorem endLoop_keeps {γ : Type} {g : Cluster → γ} (h : ∀ v c, g (ioPut 0x6 v c) = g c) (t : Word) (c : Cluster) :
    g (endLoop t c) = g c :=
  reads_ite rfl (h _ _)

section
variable {n : Cl} {s : State}

/-- A word of one issue cycle passes without a transfer anywhere but at END of a loop. -/
theorem wordPass_inside (he : atLoopEnd (s.cl n).pc (s.cl n) = false) (b : Nat) :
    wordPass n 1 none b s = s.modCl n fun c => evcEvent 0x04 b (landDue (goneTo (c.pc + 1) (1 + b) c)) := by
  simp [wordPass, modCl_eq, loopBack, nextPc, he, goneTo, Nat.add_assoc]

/-- A word of one issue cycle without a transfer completes anywhere but at END of a loop. -/
theorem wordDone_inside (he : atLoopEnd (s.cl n).pc (s.cl n) = false) (b : Nat) :
    wordDone n 1 none b s = s.modCl n fun c => evcEvent 0x02 1 (evcEvent 0x04 b (landDue (goneTo (c.pc + 1) (1 + b) c))) := by
  rw [wordDone, wordPass_inside he, modCl_modCl]

/-- A word of one issue cycle without a transfer completes, where no loop is active. -/
theorem wordDone_next (hl : ioBit 0x6 23 (s.cl n) = false) (hg : (s.cl n).loopLag = []) (b : Nat) :
    wordDone n 1 none b s = s.modCl n fun c => evcEvent 0x02 1 (evcEvent 0x04 b (landDue (goneTo (c.pc + 1) (1 + b) c))) :=
  wordDone_inside (atLoopEnd_none hl hg) b

/-- A word of one issue cycle that transfers completes. -/
theorem wordDone_jump (hg : (s.cl n).loopLag = []) (t : Word) (leaves : Bool) (b : Nat) :
    wordDone n 1 (some ⟨t, leaves⟩) b s = s.modCl n fun c =>
      evcEvent 0x02 1 (evcEvent 0x04 b (landDue (goneTo t (1 + b) (if leaves then endLoop t c else c)))) := by
  have hcyc : (if leaves then endLoop t (s.cl n) else s.cl n).cyc = (s.cl n).cyc :=
    reads_ite (g := Cluster.cyc) (endLoop_keeps (fun _ _ => rfl) ..) rfl
  simp only [wordDone, wordPass, modCl_eq, putCl_cl_self, putCl_putCl, leaveLoop_plain hg, goneTo, hcyc, Nat.add_assoc]

/-- A transfer that may leave a loop completes with nothing under way (R236). -/
theorem wordDone_leaves (hd : (s.cl n).due = []) (hg : (s.cl n).loopLag = []) (t : Word) (b : Nat) :
    wordDone n 1 (some ⟨t, true⟩) b s = s.modCl n fun c => jumpTo t b (endLoop t c) := by
  have hdue : (endLoop t (s.cl n)).due = [] := (endLoop_keeps (g := Cluster.due) (fun _ _ => rfl) ..).trans hd
  simp only [wordDone_jump hg, jumpTo_eq, modCl_eq, if_true, landDue_goneTo_calm hdue]

/-- A transfer that keeps the loop completes with nothing under way. -/
theorem wordDone_stays (hd : (s.cl n).due = []) (hg : (s.cl n).loopLag = []) (t : Word) (b : Nat) :
    wordDone n 1 (some ⟨t, false⟩) b s = s.modCl n (jumpTo t b) := by
  simp only [wordDone_jump hg, jumpTo_eq, modCl_eq, Bool.false_eq_true, if_false, landDue_goneTo_calm hd]

/-- A transfer with one-cycle results completes: they are in their registers behind it. -/
theorem wordDone_jump_landed (hd : (s.cl n).due = []) (hg : (s.cl n).loopLag = []) (ws : List (RegName × RegVal)) (t : Word)
    (b : Nat) : wordDone n 1 (some ⟨t, false⟩) b (s.modCl n (laterAll 1 ws)) = s.modCl n fun c => jumpTo t b (landed ws c) := by
  have hg' : ((s.modCl n (laterAll 1 ws)).cl n).loopLag = [] := by rw [modCl_eq, putCl_cl_self]; exact hg
  rw [wordDone_jump hg', modCl_modCl]
  simp only [jumpTo_eq, modCl_eq, Bool.false_eq_true, if_false, landDue_goneTo_landed hd t ws (Nat.le_add_right 1 b)]

/-- A word with nothing to transfer and nothing under way completes, where no loop is active. -/
theorem wordDone_next_calm (hl : ioBit 0x6 23 (s.cl n) = false) (hg : (s.cl n).loopLag = []) (hd : (s.cl n).due = []) :
    wordDone n 1 none 0 s = s.modCl n goOn := by
  rw [wordDone_next hl hg]
  simp only [modCl_eq, evcEvent_zero, landDue_goneTo_calm hd, goOn, passOver_eq]

end

/-! ## Words with results (R218, R225) -/

theorem landReg_pc (c : Cluster) (w : RegWrite) : (landReg c w).pc = c.pc := by
  unfold landReg
  split <;> rfl

theorem landed_pc (ws : List (RegName × RegVal)) (c : Cluster) : (landed ws c).pc = c.pc :=
  foldl_keeps Cluster.pc (fun _ _ => landReg_pc ..) ws c

theorem xName_congr {c d : Cluster} (h : ioGet 0x10 c = ioGet 0x10 d) (r : Nat) : xName c r = xName d r := by
  unfold xName fastLevel cwp ioFld ioBit
  rw [h]

/-- x register `r` lands in the bank that its number named when the word issued (R211). -/
theorem landReg_xName {c d : Cluster} (h : ioGet 0x10 c = ioGet 0x10 d) (r t : Nat) (v : Word) :
    landReg c ⟨xName d r, .w v, t⟩ = xSet r v c := by
  rw [← xName_congr h]
  unfold xName xSet fastLevel
  split
  · rfl
  · split <;> rfl

@[simp] theorem landed_nil (c : Cluster) : landed [] c = c := rfl

theorem landed_cc (c : Cluster) (v : BitVec 5) : landed [(.cc, .cc v)] c = ioPut 0x2 (v.setWidth 24) c := rfl

theorem landed_x (c : Cluster) (r : Nat) (v : Word) : landed [(xName c r, .w v)] c = xSet r v c := landReg_xName rfl r 0 v

section
variable {c : Cluster} (hd : c.due = []) (hl : ioBit 0x6 23 c = false) (hg : c.loopLag = []) (n : Cl) (s : State)

include hl hg in
/-- What a word brings `k` advancing cycles after its issue cycle, and the next word follows. -/
theorem wordDone_results (k : Nat) (ws : List (RegName × RegVal)) :
    wordDone n 1 none 0 (s.putCl n (laterAll k ws c)) =
      s.putCl n (evcEvent 0x02 1 (landDue (goneTo (c.pc + 1) 1 (laterAll k ws c)))) := by
  have hl' : ioBit 0x6 23 ((s.putCl n (laterAll k ws c)).cl n) = false := by rw [putCl_cl_self]; exact hl
  have hg' : ((s.putCl n (laterAll k ws c)).cl n).loopLag = [] := by rw [putCl_cl_self]; exact hg
  rw [wordDone_next hl' hg', putCl_modCl]
  simp only [evcEvent_zero]
  rfl

include hd hl hg

theorem wordDone_landed (ws : List (RegName × RegVal)) :
    wordDone n 1 none 0 (s.putCl n (laterAll 1 ws c)) = s.putCl n (goOn (landed ws c)) := by
  rw [wordDone_results hl hg, landDue_goneTo_landed hd _ _ (Nat.le_refl 1), goOn, passOver_eq, landed_pc]

omit hd in
theorem wordDone_later {k : Nat} (hk : 1 < k) (ws : List (RegName × RegVal)) :
    wordDone n 1 none 0 (s.putCl n (laterAll k ws c)) = s.putCl n (goOn (laterAll k ws c)) := by
  rw [wordDone_results hl hg, landDue_goneTo_later _ _ hk]
  rfl

end

section
variable {n : Cl} {s : State} (h : Issues n s)
include h

/-- A word whose results come with n = 1 leaves them in their registers. -/
theorem regWord_landed {w : WordInfo} (hw : w.cycles = 1) (ha : w.act = .plain)
    (hf : w.fp = false ∨ ioBit 0x10 20 (s.cl n) = true)
    (f : Cluster → List (RegName × RegVal)) :
    regWord n 1 w f s = .next (s.putCl n (goOn (landed (f (s.cl n)) (s.cl n)))) := by
  rw [regWord, issue_now h w _ hf]
  simp only [hw, ha, modCl_eq, dAct_plain, putCl_cl_same, SeqRes.go, wordEnd, dueAdd_calm h.calm,
    wordDone_landed h.calm h.loop h.lag]

variable {i : Instr}

/-- A word that writes x[rd] with n = 1 (R218). -/
theorem exec_x {rd : Reg} (f : Cluster → Word) {v : Word} (hi : exec i s = xWord n rd f s) (hv : f (s.cl n) = v := by rfl) :
    exec i s = .next (s.putCl n (goOn (xSet rd v (s.cl n)))) := by
  rw [hi, xWord_now h, hv]

/-- A word of two operands that writes x[rd] (R219). -/
theorem exec_alu {rd rs rt : Reg} (f : Word → Word → Word) {v : Word} (hi : exec i s = aluRes n rd rs rt f s)
    (hv : f (xGet (s.cl n) rs) (xGet (s.cl n) rt) = v := by rfl) :
    exec i s = .next (s.putCl n (goOn (xSet rd v (s.cl n)))) :=
  exec_x h _ hi hv

/-- A word that writes x[rd] and C (R219). -/
theorem exec_xc {rd : Reg} (f : Cluster → Word × Bool) {v : Word} {b : Bool} (hi : exec i s = xcWord n rd f s)
    (hp : f (s.cl n) = (v, b) := by rfl) : exec i s = .next (s.putCl n (goOn (ioSetBit 0x2 3 b (xSet rd v (s.cl n))))) := by
  have hbit : bitOf 3 (ccBits false b false false false) = b := by cases b <;> rfl
  have hland : ∀ c, landed [(xName c rd, .w v), (.carry, .cc (ccBits false b false false false))] c =
      ioSetBit 0x2 3 b (xSet rd v c) := fun c => by
    rw [landed, List.foldl_cons, landReg_xName rfl]
    exact congrArg (fun b => ioSetBit 0x2 3 b _) hbit
  rw [hi, xcWord, regWord_landed h rfl rfl (.inl rfl), hp, hland]

/-- A word that writes CC (R217). -/
theorem exec_cc (f : Cluster → BitVec 5) {v : Word} (hi : exec i s = ccWord n f s) (hv : (f (s.cl n)).setWidth 24 = v) :
    exec i s = .next (s.putCl n (goOn (ioPut 0x2 v (s.cl n)))) := by
  rw [hi, ccWord, regWord_landed h rfl rfl (.inl rfl), landed_cc, hv]

end

end Sys2Proof.Machine
end
section
/-!
PROOFS. Integer words of a sequencer: the values of R216, R218 and R219 and the flags of R217 (O5).
-/
namespace Sys2Proof.Machine

open Sys2Proof.Claims

/-! ## Values of the integer words (R216, R218, R219) -/

section
variable (a b : Word) (k : Nat)

theorem add_eq_ofNat : a + b = BitVec.ofNat 24 (a.toNat + b.toNat) := by
  rw [BitVec.ofNat_add, BitVec.ofNat_toNat, BitVec.ofNat_toNat, BitVec.setWidth_eq, BitVec.setWidth_eq]

theorem ofInt_sub_eq (x y : Int) : BitVec.ofInt 24 (x - y) = BitVec.ofInt 24 x - BitVec.ofInt 24 y := by
  rw [Int.sub_eq_add_neg, BitVec.ofInt_add, BitVec.ofInt_neg, BitVec.sub_eq_add_neg]

theorem sub_eq_ofInt : a - b = BitVec.ofInt 24 (a.toInt - b.toInt) := by
  rw [ofInt_sub_eq, BitVec.ofInt_toInt, BitVec.ofInt_toInt]

theorem shiftLeft_eq_ofNat : a <<< k = BitVec.ofNat 24 (a.toNat * 2 ^ k) := by
  apply BitVec.eq_of_toNat_eq
  rw [BitVec.toNat_shiftLeft, BitVec.toNat_ofNat, Nat.shiftLeft_eq]

theorem shiftRight_eq_ofNat : a >>> k = BitVec.ofNat 24 (a.toNat / 2 ^ k) := by
  apply BitVec.eq_of_toNat_eq
  rw [BitVec.toNat_ushiftRight, BitVec.toNat_ofNat, Nat.shiftRight_eq_div_pow,
    Nat.mod_eq_of_lt (Nat.lt_of_le_of_lt (Nat.div_le_self ..) a.isLt)]

theorem sshiftRight_eq_ofInt : a.sshiftRight k = BitVec.ofInt 24 (a.toInt / 2 ^ k) := by
  rw [BitVec.sshiftRight, Int.shiftRight_eq_div_pow]
  norm_cast

theorem rotateLeft_eq_ofNat {k : Nat} (hk : k < 24) :
    a.rotateLeft k = BitVec.ofNat 24 (a.toNat * 2 ^ k + a.toNat / 2 ^ (24 - k)) := by
  have hlow : a.toNat / 2 ^ (24 - k) < 2 ^ k := by
    rw [Nat.div_lt_iff_lt_mul (Nat.two_pow_pos _), ← Nat.pow_add, Nat.add_sub_cancel' hk.le]
    exact a.isLt
  have hsplit : 2 ^ 24 = 2 ^ k * 2 ^ (24 - k) := by rw [← Nat.pow_add, Nat.add_sub_cancel' hk.le]
  have hsum : 2 ^ k * (a.toNat % 2 ^ (24 - k)) + a.toNat / 2 ^ (24 - k) < 2 ^ 24 := by
    have hrest : a.toNat % 2 ^ (24 - k) < 2 ^ (24 - k) := Nat.mod_lt _ (Nat.two_pow_pos _)
    calc _ < 2 ^ k * (a.toNat % 2 ^ (24 - k) + 1) := by rw [Nat.mul_add]; omega
      _ ≤ 2 ^ k * 2 ^ (24 - k) := Nat.mul_le_mul_left _ hrest
      _ = 2 ^ 24 := hsplit.symm
  have hhigh : a.toNat * 2 ^ k % 2 ^ 24 = 2 ^ k * (a.toNat % 2 ^ (24 - k)) := by
    rw [Nat.mul_comm, hsplit, Nat.mul_mod_mul_left]
  apply BitVec.eq_of_toNat_eq
  rw [BitVec.toNat_rotateLeft, Nat.mod_eq_of_lt hk, BitVec.toNat_ofNat, Nat.shiftLeft_eq, Nat.shiftRight_eq_div_pow, hhigh,
    ← Nat.two_pow_add_eq_or_of_lt hlow, Nat.add_mod, hhigh, Nat.add_mod_mod, Nat.mod_eq_of_lt hsum]

theorem shCount_eq : shCount b = b.toNat % 32 := by
  simp [shCount, fld]

theorem min_eq_ofInt : (if a.toInt ≤ b.toInt then a else b) = BitVec.ofInt 24 (min a.toInt b.toInt) := by
  split
  next h => rw [min_eq_left h, BitVec.ofInt_toInt]
  next h => rw [min_eq_right (Int.le_of_not_le h), BitVec.ofInt_toInt]

theorem max_eq_ofInt : (if a.toInt ≤ b.toInt then b else a) = BitVec.ofInt 24 (max a.toInt b.toInt) := by
  split
  next h => rw [max_eq_right h, BitVec.ofInt_toInt]
  next h => rw [max_eq_left (Int.le_of_not_le h), BitVec.ofInt_toInt]

theorem minu_eq_ofNat : (if a.toNat ≤ b.toNat then a else b) = BitVec.ofNat 24 (min a.toNat b.toNat) := by
  split
  next h => rw [min_eq_left h, BitVec.ofNat_toNat, BitVec.setWidth_eq]
  next h => rw [min_eq_right (Nat.le_of_not_le h), BitVec.ofNat_toNat, BitVec.setWidth_eq]

theorem maxu_eq_ofNat : (if a.toNat ≤ b.toNat then b else a) = BitVec.ofNat 24 (max a.toNat b.toNat) := by
  split
  next h => rw [max_eq_right h, BitVec.ofNat_toNat, BitVec.setWidth_eq]
  next h => rw [max_eq_left (Nat.le_of_not_le h), BitVec.ofNat_toNat, BitVec.setWidth_eq]

theorem addCarry_eq (cin : Bool) : addCarry a b cin =
    (BitVec.ofNat 24 (a.toNat + b.toNat + cin.toNat), decide (2 ^ 24 ≤ a.toNat + b.toNat + cin.toNat)) := rfl

theorem subCarry_eq (cin : Bool) : subCarry a b cin =
    (BitVec.ofInt 24 (a.toNat - b.toNat - (1 - cin.toNat : Int)), decide ((b.toNat : Int) + (1 - cin.toNat) ≤ a.toNat)) := by
  have hcin : cin.toNat ≤ 1 := Bool.toNat_le cin
  have hone : (1 - cin.toNat : Int) = ((1 - cin.toNat : Nat) : Int) := (Int.ofNat_sub hcin).symm
  simp only [subCarry, ofInt_sub_eq, hone, BitVec.ofInt_natCast, BitVec.ofNat_toNat, BitVec.setWidth_eq, ← Int.natCast_add,
    Int.ofNat_le]

theorem subCarry_true : subCarry a b true = (BitVec.ofInt 24 (a.toNat - b.toNat : Int), decide (b.toNat ≤ a.toNat)) := by
  simp [subCarry_eq]

theorem ccCarry_eq (c : Cluster) : ccCarry c = bitOf 3 (ioGet 0x2 c) := by
  simp [ccCarry, ccGet, bitOf]

/-- An immediate without sign, extended to a word. -/
theorem setWidth_imm (imm : BitVec k) : imm.setWidth 24 = BitVec.ofNat 24 imm.toNat := BitVec.ofNat_toNat .. |>.symm

/-- The leading part of a range up to its first element that fails. -/
theorem length_takeWhile_range {p : Nat → Bool} {j m : Nat} (hm : j < m) (hp : ∀ i < j, p i = true) (hj : p j = false) :
    ((List.range m).takeWhile p).length = j := by
  obtain ⟨k, rfl⟩ := Nat.exists_eq_add_of_lt hm
  rw [Nat.add_assoc, List.range_add, List.takeWhile_append_of_pos (by simpa using hp), List.range_succ_eq_map]
  simp [hj]

/-- The highest 1 bit of a word. -/
theorem bitOf_log2 (ha : a ≠ 0) : bitOf (Nat.log2 a.toNat) a = true ∧ ∀ i, Nat.log2 a.toNat < i → bitOf i a = false := by
  have hpos : a.toNat ≠ 0 := fun h => ha (BitVec.eq_of_toNat_eq h)
  refine ⟨Nat.testBit_log2 hpos, fun i hi => Nat.testBit_lt_two_pow ?_⟩
  exact Nat.lt_of_lt_of_le Nat.lt_log2_self (Nat.pow_le_pow_right (by decide) hi)

theorem clzW_eq : BitVec.ofNat 24 (clzW a) = if a = 0 then 24 else BitVec.ofNat 24 (23 - Nat.log2 a.toNat) := by
  split
  next h => subst h; decide
  next h =>
    obtain ⟨htop, habove⟩ := bitOf_log2 a h
    have hlt : Nat.log2 a.toNat < 24 := (Nat.log2_lt (fun h0 => h (BitVec.eq_of_toNat_eq h0))).mpr a.isLt
    have hlow : 23 - (23 - Nat.log2 a.toNat) = Nat.log2 a.toNat := by omega
    rw [clzW, length_takeWhile_range (j := 23 - Nat.log2 a.toNat) (by omega)]
    · intro i hi
      rw [habove _ (by omega), Bool.not_false]
    · rw [hlow, htop, Bool.not_true]

theorem popW_eq : popW a = ((List.range 24).map fun i => a.toNat / 2 ^ i % 2).sum := by
  have hbit : ∀ i, a.toNat / 2 ^ i % 2 = if bitOf i a then 1 else 0 := fun i => by
    rw [bitOf, BitVec.getLsbD, Nat.testBit_eq_decide_div_mod_eq]
    split <;> simp_all
  simp only [hbit, List.sum_map_ite]
  simp [popW]

theorem setFld_lih (imm : BitVec 13) : setFld 23 11 imm.toNat a = BitVec.ofNat 24 (imm.toNat * 2 ^ 11 + a.toNat % 2 ^ 11) := by
  have ha := a.isLt
  have himm := imm.isLt
  exact congrArg (BitVec.ofNat 24) (by omega)

end

/-! ## Flags (R217) -/

theorem ccBits_word : ∀ u c v n z : Bool, (ccBits u c v n z).setWidth 24 = flags u c v n z := by decide

theorem ccCmp_word (a b : Word) : (ccCmp a b).setWidth 24 = cmpFlags a b := ccBits_word ..

end Sys2Proof.Machine

namespace Sys2Proof.Proofs

open Sys2Proof.Machine Sys2Proof.Claims

/-- Settles O5: each word is one write of a register or of the flags, and its value is that of its rule. -/
theorem integerWordsWriteTheirResults : Obligations.IntegerWordsWriteTheirResults := by
  unfold Obligations.IntegerWordsWriteTheirResults
  refine ⟨fun n rd rs rt s h => ?twoOperands, fun n rd rs rt s h => ?carries, fun n rd rs imm wide count s h => ?immediates,
    fun n rs rt imm s h => ⟨exec_cc h (fun c => ccCmp (xGet c rs) (xGet c rt)) rfl (ccCmp_word ..),
      exec_cc h (fun c => ccCmp (xGet c rs) (imm.signExtend 24)) rfl (ccCmp_word ..)⟩⟩
  case twoOperands =>
    simp only [List.forall_mem_cons]
    exact ⟨exec_alu h (· + ·) rfl (add_eq_ofNat ..), exec_alu h (· - ·) rfl (sub_eq_ofInt ..), exec_alu h (· &&& ·) rfl,
      exec_alu h (· ||| ·) rfl, exec_alu h (· ^^^ ·) rfl, exec_alu h (fun a b => a &&& ~~~b) rfl,
      exec_alu h (fun a b => a <<< shCount b) rfl (by rw [shCount_eq, shiftLeft_eq_ofNat]),
      exec_alu h (fun a b => a >>> shCount b) rfl (by rw [shCount_eq, shiftRight_eq_ofNat]),
      exec_alu h (fun a b => a.sshiftRight (shCount b)) rfl (by rw [shCount_eq, sshiftRight_eq_ofInt]),
      exec_alu h (fun a b => a.rotateLeft (shCount b % 24)) rfl
        (by rw [shCount_eq, rotateLeft_eq_ofNat _ (Nat.mod_lt _ (by decide))]),
      exec_alu h (fun a b => if a.toInt ≤ b.toInt then a else b) rfl (min_eq_ofInt ..),
      exec_alu h (fun a b => if a.toInt ≤ b.toInt then b else a) rfl (max_eq_ofInt ..),
      exec_alu h (fun a b => if a.toNat ≤ b.toNat then a else b) rfl (minu_eq_ofNat ..),
      exec_alu h (fun a b => if a.toNat ≤ b.toNat then b else a) rfl (maxu_eq_ofNat ..),
      exec_alu h (fun a b => if a.toInt < b.toInt then 1 else 0) rfl,
      exec_alu h (fun a b => if a.toNat < b.toNat then 1 else 0) rfl, List.forall_mem_nil _⟩
  case carries =>
    simp only [List.forall_mem_cons]
    exact ⟨exec_xc h (fun c => addCarry (xGet c rs) (xGet c rt) false) rfl,
      exec_xc h (fun c => addCarry (xGet c rs) (xGet c rt) (ccCarry c)) rfl (by rw [ccCarry_eq, addCarry_eq]),
      exec_xc h (fun c => subCarry (xGet c rs) (xGet c rt) true) rfl (subCarry_true ..),
      exec_xc h (fun c => subCarry (xGet c rs) (xGet c rt) (ccCarry c)) rfl (by rw [ccCarry_eq, subCarry_eq]),
      List.forall_mem_nil _⟩
  case immediates =>
    simp only [List.forall_mem_cons]
    refine ⟨exec_x h (fun c => xGet c rs + imm.signExtend 24) rfl ?_, exec_x h (fun c => xGet c rs &&& imm.setWidth 24) rfl ?_,
      exec_x h (fun c => xGet c rs ||| imm.setWidth 24) rfl ?_, exec_x h (fun c => xGet c rs ^^^ imm.setWidth 24) rfl ?_,
      exec_x h (fun c => xGet c rs <<< count.toNat) rfl (shiftLeft_eq_ofNat ..),
      exec_x h (fun c => xGet c rs >>> count.toNat) rfl (shiftRight_eq_ofNat ..),
      exec_x h (fun c => (xGet c rs).sshiftRight count.toNat) rfl (sshiftRight_eq_ofInt ..),
      exec_x h (fun c => (xGet c rs).rotateLeft (count.toNat % 24)) rfl (rotateLeft_eq_ofNat _ (Nat.mod_lt _ (by decide))),
      exec_x h (fun _ => wide.setWidth 24) rfl (setWidth_imm ..), exec_x h (fun _ => wide.signExtend 24) rfl,
      exec_x h (fun c => setFld 23 11 wide.toNat (xGet c rd)) rfl (setFld_lih ..),
      exec_x h (fun c => BitVec.ofNat 24 (clzW (xGet c rs))) rfl (clzW_eq ..),
      exec_x h (fun c => BitVec.ofNat 24 (popW (xGet c rs))) rfl (congrArg _ (popW_eq ..)), List.forall_mem_nil _⟩
    · rw [BitVec.ofInt_add, BitVec.ofInt_toInt]; rfl
    · rw [BitVec.ofNat_and, BitVec.ofNat_toNat, BitVec.ofNat_toNat, BitVec.setWidth_eq]
    · rw [BitVec.ofNat_or, BitVec.ofNat_toNat, BitVec.ofNat_toNat, BitVec.setWidth_eq]
    · rw [BitVec.ofNat_xor, BitVec.ofNat_toNat, BitVec.ofNat_toNat, BitVec.setWidth_eq]

end Sys2Proof.Proofs
end
section
/-!
PROOFS. Short operations of a sequencer: the two slots of a word (O6).
-/
namespace Sys2Proof.Machine

open Sys2Proof.Claims

/-! ## Slots (R213, R215) -/

theorem seqOn_putCl (n m : Cl) (c : Cluster) (s : State) : seqOn n (s.putCl m c) = seqOn n s := rfl

/-- Whether a sequencer issues words depends on its power and on its own cluster. -/
theorem seqReady_eq (n : Cl) (s : State) :
    seqReady n s = (seqOn n s && !faultStopped (s.cl n) && !seqHalted (s.cl n) && !(s.cl n).waiting) := rfl

/-- A word of a calm cluster passes what precedes its issue, also in slot B of a pair. -/
theorem issueGate_clear {n : Cl} {s : State} (hlate : (s.cl n).lateFault = none) (hpc : (s.cl n).pc.toNat < 0x4000)
    (hie : afterSetIe (s.cl n) = false) (hcells : (s.cl n).ibad = []) (k : Nat) : issueGate n k s = (true, s) := by
  have hp : ¬ 0x4000 ≤ (s.cl n).pc.toNat := Nat.not_le.mpr hpc
  simp [issueGate, lateTrap, hlate, hp, hie, fetchWords_clean hcells]

/-- A cluster whose slot A stands as `a`. -/
def paired (a : Option (List RegWrite)) (c : Cluster) : Cluster := { c with slotA := a }

theorem seqHalted_paired {c : Cluster} (hc : c.slotA = none) (h : seqHalted c = false) (a : Option (List RegWrite)) :
    seqHalted (paired a c) = false := by
  rw [seqHalted, hc] at h
  cases a with
  | none => exact h
  | some l => simp [seqHalted, paired]

/-- A sequencer that issues words does so with another state of its cluster that does not halt it. -/
theorem seqReady_putCl {n : Cl} {s : State} {c : Cluster} (h : seqReady n s = true) (hio : c.io = (s.cl n).io)
    (hwait : c.waiting = (s.cl n).waiting) (hhalt : seqHalted (s.cl n) = false → seqHalted c = false) :
    seqReady n (s.putCl n c) = true := by
  have hstop : faultStopped c = faultStopped (s.cl n) := by rw [faultStopped, faultStopped, ioGet_congr hio]
  rw [seqReady_eq] at h
  simp only [Bool.and_eq_true, Bool.not_eq_true'] at h
  obtain ⟨⟨⟨hon, hst⟩, hha⟩, hwa⟩ := h
  rw [seqReady_eq, putCl_cl_self, seqOn_putCl, hhalt hha, hstop, hwait, hon, hst, hwa]
  rfl

section
variable {n : Cl} {s : State} (h : Issues n s)
include h

/-- The sequencer issues slot B of a pair that its next word begins. -/
theorem seqReady_paired (a : Option (List RegWrite)) : seqReady n (s.putCl n (paired a (s.cl n))) = true :=
  seqReady_putCl h.ready rfl rfl fun hhalt => seqHalted_paired h.pair hhalt a

theorem issueGate_paired (a : Option (List RegWrite)) (k : Nat) :
    issueGate n k (s.putCl n (paired a (s.cl n))) = (true, s.putCl n (paired a (s.cl n))) := by
  apply issueGate_clear <;> rw [putCl_cl_self]
  · exact h.late
  · exact h.store
  · exact h.ie
  · exact h.cells

/-- A short operation in slot A takes its operands and waits for its slot B (R215). -/
theorem slotWord_a (f : Cluster → List (RegName × RegVal) × Bool) (hskip : (s.cl n).skipSlotA = (f (s.cl n)).2) :
    slotWord n .a f s = s.putCl n (paired (some ((f (s.cl n)).1.map fun w => ⟨w.1, w.2, 0⟩)) (s.cl n)) := by
  have hr : ¬ (!seqReady n s) = true := by rw [h.ready]; exact Bool.false_ne_true
  have hv : ¬ (s.cl n).vsync.isSome = true := by rw [h.vsync]; exact Bool.false_ne_true
  have hs : ¬ (s.cl n).skipNext = true := by rw [h.skip]; exact Bool.false_ne_true
  unfold slotWord
  rw [if_neg (not_or.mpr ⟨hr, hv⟩)]
  dsimp only
  rw [closePair_none h.pair, if_neg hr, if_neg hs, issueGate_now h,
    if_neg (show ¬ (!(true, s).1) = true from Bool.false_ne_true),
    ← hskip]
  rfl

/-- The cluster with the skip of its next word set or not. -/
def skipping (b : Bool) (c : Cluster) : Cluster := { c with skipNext := b }

/-- A pair completes: slot A's results land first, then those of slot B (R215). -/
theorem pairDone_paired (hskip : (s.cl n).skipSlotA = false) (a : Option (List RegWrite)) (A B : List (RegName × RegVal))
    (skip : Bool)
    (jump : Option Jump) (b : Nat) : pairDone n A B skip jump b (s.putCl n (paired a (s.cl n))) =
      wordDone n 1 jump b (s.putCl n (laterAll 1 (A ++ B) (skipping skip (s.cl n)))) := by
  have hcl : { dueAdd 1 (A ++ B) (paired a (s.cl n)) with slotA := none, skipSlotA := false, skipNext := skip } =
      laterAll 1 (A ++ B) (skipping skip (s.cl n)) := by
    rw [dueAdd_calm (c := paired a (s.cl n)) h.calm, ← h.pair, ← hskip]
    rfl
  rw [pairDone, putCl_modCl, hcl]

/-- A short operation in slot B completes the pair (R215). -/
theorem slotWord_b (hskip : (s.cl n).skipSlotA = false) (a : Option (List RegWrite))
    (f : Cluster → List (RegName × RegVal) × Bool)
    {r : List (RegName × RegVal)} {skip : Bool} (hf : f (paired a (s.cl n)) = (r, skip)) :
    slotWord n .b f (s.putCl n (paired a (s.cl n))) =
      s.putCl n (goOn (landed (slotWrites (paired a (s.cl n)) ++ r) (skipping skip (s.cl n)))) := by
  have hv : (paired a (s.cl n)).vsync.isSome = false := by rw [paired, h.vsync]; rfl
  have hs : ¬ (paired a (s.cl n)).skipNext = true := by rw [paired, h.skip]; exact Bool.false_ne_true
  have hss : (paired a (s.cl n)).skipSlotA = false := hskip
  simp only [slotWord, seqReady_paired h a, issueGate_paired h a 1, putCl_cl_self, hv, hs, hss, hf, Bool.not_true,
    Bool.false_eq_true, or_self, if_false, Bool.false_or]
  rw [pairDone_paired h hskip, wordDone_landed (c := skipping skip (s.cl n)) h.calm h.loop h.lag]

end

/-! ## Short operations (R216) -/

theorem skipping_same {b : Bool} {c : Cluster} (h : c.skipNext = b) : skipping b c = c := by
  subst h; rfl

/-- Each short operation with a result is a function of x[rd] and xs. -/
theorem exec_shortWords (n : Cl) (sl : Slot) (rd : Reg) (sf : Fin 8) (c : Cluster) :
    ∀ p ∈ shortWords n sl rd sf c, ∃ f : Word → Word → Word,
      (∀ s, exec p.1 s = shortRes n sl rd sf f s) ∧ f (xGet c rd) (xGet c (8 + sf.val)) = p.2 := by
  have himm : BitVec.ofInt 24 (sf.val + 1 : Int) = BitVec.ofNat 24 (sf.val + 1) := BitVec.ofInt_natCast 24 (sf.val + 1)
  simp only [shortWords, List.forall_mem_cons]
  refine ⟨⟨fun _ x => x, fun _ => rfl, rfl⟩, ⟨fun r x => r + x, fun _ => rfl, rfl⟩, ⟨fun r x => r - x, fun _ => rfl, rfl⟩,
    ⟨fun r x => r &&& x, fun _ => rfl, rfl⟩, ⟨fun r x => r ||| x, fun _ => rfl, rfl⟩, ⟨fun r x => r ^^^ x, fun _ => rfl, rfl⟩,
    ⟨fun r _ => r + BitVec.ofNat 24 (sf.val + 1), fun _ => rfl, ?_⟩,
    ⟨fun r _ => r - BitVec.ofNat 24 (sf.val + 1), fun _ => rfl, ?_⟩,
    ⟨fun r _ => r <<< (sf.val + 1), fun _ => rfl, shiftLeft_eq_ofNat ..⟩,
    ⟨fun r _ => r >>> (sf.val + 1), fun _ => rfl, shiftRight_eq_ofNat ..⟩,
    ⟨fun r _ => r.sshiftRight (sf.val + 1), fun _ => rfl, sshiftRight_eq_ofInt ..⟩,
    ⟨fun _ _ => BitVec.ofNat 24 sf.val, fun _ => rfl, rfl⟩, List.forall_mem_nil _⟩
  · show xGet c rd + _ = _
    rw [BitVec.ofNat_add (xGet c rd).toNat, BitVec.ofNat_toNat, BitVec.setWidth_eq]
  · rw [ofInt_sub_eq, BitVec.ofInt_toInt, himm]

/-- One result after another to x registers. -/
theorem landed_x_x (c : Cluster) (r r' : Nat) (v v' : Word) :
    landed [(xName c r, .w v), (xName c r', .w v')] c = xSet r' v' (xSet r v c) := by
  have hio : (xSet r v c).io = c.io := reads_ite rfl (reads_ite rfl rfl)
  rw [← landReg_xName (ioGet_congr hio _) r' 0 v', ← landed_x c r v]
  rfl

section
variable {n : Cl} {s : State} (h : Issues n s) (hskip : (s.cl n).skipSlotA = false)
include h hskip

/-- A short operation with a result waits in slot A (R215). -/
theorem exec_shortWords_a {rd : Reg} {sf : Fin 8} {p : Instr × Word} (hp : p ∈ shortWords n .a rd sf (s.cl n)) :
    exec p.1 s = .next (s.putCl n (paired (some [⟨xName (s.cl n) rd, .w p.2, 0⟩]) (s.cl n))) := by
  obtain ⟨f, hf, hv⟩ := exec_shortWords _ _ _ _ _ p hp
  rw [hf, shortRes, slotWord_a h _ hskip, hv]
  rfl

/-- With a short operation in slot B behind one in slot A both write their registers (R215, R216). -/
theorem exec_shortWords_b {rd rd' : Reg} {sf : Fin 8} {q : Instr × Word} (hq : q ∈ shortWords n .b rd' sf (s.cl n)) (v : Word) :
    exec q.1 (s.putCl n (paired (some [⟨xName (s.cl n) rd, .w v, 0⟩]) (s.cl n))) =
      .next (s.putCl n (goOn (xSet rd' q.2 (xSet rd v (s.cl n))))) := by
  obtain ⟨f, hf, hw⟩ := exec_shortWords _ _ _ _ _ q hq
  rw [hf, shortRes, slotWord_b h hskip _ _ rfl, skipping_same h.skip, ← landed_x_x, ← hw]
  rfl

/-- A short operation in slot B with no pair begun acts alone: slot A is a NOP (R215). -/
theorem slotWord_b_alone (f : Cluster → List (RegName × RegVal) × Bool) {r : List (RegName × RegVal)} {skip : Bool}
    (hf : f (s.cl n) = (r, skip)) : slotWord n .b f s = s.putCl n (goOn (landed r (skipping skip (s.cl n)))) := by
  have hnone : paired none (s.cl n) = s.cl n := by rw [paired, ← h.pair]
  have hb := slotWord_b h hskip none f (by rw [hnone, hf])
  rwa [hnone, putCl_cl_same, slotWrites, h.pair, Option.getD_none, List.map_nil, List.nil_append] at hb

/-- A branch in slot B alone that its hint predicts (R231). -/
theorem brsWord_predicted {cond : Cond} {b : Bool} (hb : condHolds cond (ccGet (s.cl n)) = b) (sf : Fin 8) :
    brsWord n cond sf b s =
      wordDone n 1 (if b then some ⟨(s.cl n).pc + 2 + BitVec.ofNat 24 sf.val, true⟩ else none) b.toNat s := by
  have hr : ¬ ((!seqReady n s) = true ∨ (s.cl n).vsync.isSome = true) := by simp [h.ready, h.vsync]
  have hs : ¬ (s.cl n).skipNext = true := by rw [h.skip]; exact Bool.false_ne_true
  have hpath : ∀ target, branchPath n (s.cl n).pc target b b s = s := fun _ => if_pos (beq_self_eq_true b)
  have hbubbles : branchBubbles b b = b.toNat := by cases b <;> rfl
  have hcalm : laterAll 1 [] (skipping false (s.cl n)) = s.cl n := by
    rw [skipping_same h.skip, laterAll, List.map_nil, ← h.calm]
  have hpair := pairDone_paired h hskip none [] [] false
  rw [show paired none (s.cl n) = s.cl n by rw [paired, ← h.pair], putCl_cl_same, List.append_nil, hcalm,
    putCl_cl_same] at hpair
  unfold brsWord
  dsimp only
  rw [if_neg hr, if_neg hs, issueGate_now h, if_neg (show ¬ (!(true, s).1) = true from Bool.false_ne_true), hb]
  simp only [hpath, hbubbles, hskip, slotWrites, h.pair, Option.getD_none, List.map_nil, hpair]

end

end Sys2Proof.Machine

namespace Sys2Proof.Proofs

open Sys2Proof.Machine Sys2Proof.Claims

/-- Settles O6: slot A latches its operands' values, and both slots land when slot B completes the pair. -/
theorem shortWordsPairUpAndControl : Obligations.ShortWordsPairUpAndControl := by
  unfold Obligations.ShortWordsPairUpAndControl
  refine ⟨fun n rd rd' sf sf' s h hskip p hp => ⟨?_, fun q hq => ?_⟩,
    fun n rd sf cond hint s h hskip => ⟨?nopA, ?nopB, ?cmp, ?skip, ?falls, ?taken⟩⟩
  case nopA =>
    show Host.Outcome.next (slotWord n .a (fun _ => ([], false)) s) = _
    rw [slotWord_a h _ hskip]
    rfl
  case nopB =>
    show Host.Outcome.next (slotWord n .b (fun _ => ([], false)) (s.putCl n (paired (some []) (s.cl n)))) = _
    rw [slotWord_b h hskip _ _ rfl, skipping_same h.skip]
    rfl
  case cmp =>
    show Host.Outcome.next (slotWord n .b (fun c => ([(.cc, .cc (ccCmp (xGet c rd) (xGet c (8 + sf.val))))], false)) s) = _
    rw [slotWord_b_alone h hskip _ rfl, skipping_same h.skip, landed_cc, ccCmp_word]
  case skip =>
    show Host.Outcome.next (slotWord n .b (fun c => ([], condHolds cond (ccGet c))) s) = _
    rw [slotWord_b_alone h hskip _ rfl, landed_nil, skipping]
  case falls =>
    rintro hb rfl
    show Host.Outcome.next (brsWord n cond sf false s) = _
    rw [brsWord_predicted h hskip hb]
    exact congrArg _ (wordDone_next_calm h.loop h.lag h.calm)
  case taken =>
    rintro hb rfl
    show Host.Outcome.next (brsWord n cond sf true s) = _
    rw [brsWord_predicted h hskip hb, if_pos rfl, wordDone_leaves h.calm h.lag, modCl_eq, Bool.toNat_true]
  · exact exec_shortWords_a h hskip hp
  · exact exec_shortWords_b h hskip hq p.2

end Sys2Proof.Proofs
end
section
/-!
PROOFS. Transfers, calls and returns of a sequencer, its branches and skips, and its loops (O11, O12, O13).
-/
namespace Sys2Proof.Machine

open Sys2Proof.Claims

/-! ## Updates beside the fetch stages (R224, R232, R233) -/

def withIo (m : SMap Word) (c : Cluster) : Cluster := { c with io := m }

def withReturns (r : List Word) (c : Cluster) : Cluster := { c with rstack := r }

def withFlush (f : List Nat) (c : Cluster) : Cluster := { c with flushAt := f }

/-- A cluster update that neither reads nor writes the IO registers, the return stack, the loop's shadow and the count of
cycles: what the fetch stages do comes out the same before it and behind it. -/
structure Beside (T : Cluster → Cluster) : Prop where
  io     : ∀ c, (T c).io = c.io
  cyc    : ∀ c, (T c).cyc = c.cyc
  lag    : ∀ c, (T c).loopLag = c.loopLag
  rstack : ∀ c, (T c).rstack = c.rstack
  flush  : ∀ c, (T c).flushAt = c.flushAt
  putIo  : ∀ m c, withIo m (T c) = T (withIo m c)
  putRs  : ∀ r c, withReturns r (T c) = T (withReturns r c)
  putFl  : ∀ f c, withFlush f (T c) = T (withFlush f c)

theorem ioPut_eq (o : Nat) (v : Word) (c : Cluster) : ioPut o v c = withIo (smSet ioReset c.io o v) c := rfl

theorem rsSettle_eq (d : Nat) (c : Cluster) : rsSettle d c =
    if c.flushAt.any (· < d) then withFlush (c.flushAt.filter (d ≤ ·)) (withReturns [] c) else c := rfl

theorem rsPush_eq (v : Word) (c : Cluster) :
    rsPush v c = withReturns ((if 8 ≤ c.rstack.length then c.rstack.drop 1 else c.rstack) ++ [v]) c := rfl

theorem dActAt_pop (d : Nat) (a : Word) (c : Cluster) :
    dActAt d .pop a c = withReturns (rsSettle d c).rstack.dropLast (rsSettle d c) := rfl

def withDue (q : List RegWrite) (c : Cluster) : Cluster := { c with due := q }

theorem laterAll_eq (k : Nat) (ws : List (RegName × RegVal)) (c : Cluster) :
    laterAll k ws c = withDue (ws.map fun p => ⟨p.1, p.2, c.cyc + k⟩) c := rfl

theorem beside_due (q : List RegWrite) : Beside (withDue q) := by
  constructor <;> intros <;> rfl

theorem beside_pc (a : Word) : Beside fun c => { c with pc := a } := by
  constructor <;> intros <;> rfl

/-- A result for an x register lands beside the fetch stages. -/
theorem beside_landReg_xName (e : Cluster) (r : Nat) (v : Word) (t : Nat) : Beside fun c => landReg c ⟨xName e r, .w v, t⟩ := by
  unfold xName
  split
  · constructor <;> intros <;> rfl
  · split <;> constructor <;> intros <;> rfl

section
variable {T : Cluster → Cluster} (hT : Beside T)
include hT

theorem ioPut_beside (o : Nat) (v : Word) (c : Cluster) : ioPut o v (T c) = T (ioPut o v c) := by
  rw [ioPut_eq, ioPut_eq, hT.io, hT.putIo]

theorem ioGet_beside (o : Nat) (c : Cluster) : ioGet o (T c) = ioGet o c := ioGet_congr (hT.io c) o

theorem ioSetBit_beside (o i : Nat) (b : Bool) (c : Cluster) : ioSetBit o i b (T c) = T (ioSetBit o i b c) := by
  rw [ioSetBit, ioSetBit, ioGet_beside hT, ioPut_beside hT]

theorem ioSetFld_beside (o hi lo v : Nat) (c : Cluster) : ioSetFld o hi lo v (T c) = T (ioSetFld o hi lo v c) := by
  rw [ioSetFld, ioSetFld, ioGet_beside hT, ioPut_beside hT]

theorem evcEvent_beside (sel k : Nat) (c : Cluster) : evcEvent sel k (T c) = T (evcEvent sel k c) := by
  refine List.foldl_hom T fun d i => ?_
  have hpair : ∀ o, ioPair o (T d) = ioPair o d := fun o => by rw [ioPair, ioPair, ioGet_beside hT, ioGet_beside hT]
  have hput : ∀ o v, ioPutPair o v (T d) = T (ioPutPair o v d) := fun o v => by
    rw [ioPutPair, ioPutPair, ioPut_beside hT, ioPut_beside hT]
  dsimp only
  rw [apply_ite T, apply_ite T]
  simp only [ioFld, ioGet_beside hT, hpair, hput, ioSetBit_beside hT]
  rfl

theorem loopGet_beside (r : Nat) (c : Cluster) : loopGet r (T c) = loopGet r c := by
  rw [loopGet, loopGet, hT.cyc, hT.lag, ioGet_beside hT]

theorem nextPc_beside (a : Word) (c : Cluster) : nextPc a (T c) = nextPc a c := by
  unfold nextPc atLoopEnd
  rw [loopGet_beside hT, loopGet_beside hT, loopGet_beside hT]

theorem rsSettle_beside (d : Nat) (c : Cluster) : rsSettle d (T c) = T (rsSettle d c) := by
  rw [rsSettle_eq, rsSettle_eq, hT.flush, hT.putRs, hT.putFl, apply_ite T]

theorem rsPush_beside (v : Word) (c : Cluster) : rsPush v (T c) = T (rsPush v c) := by
  rw [rsPush_eq, rsPush_eq, hT.rstack, hT.putRs]

theorem dActAt_beside (d : Nat) (x : DAct) (a : Word) (c : Cluster) : dActAt d x a (T c) = T (dActAt d x a c) := by
  cases x with
  | plain => rfl
  | push =>
    show rsPush (a + 1) (rsSettle d (T c)) = T (rsPush (a + 1) (rsSettle d c))
    rw [rsSettle_beside hT, rsPush_beside hT]
  | pop => rw [dActAt_pop, dActAt_pop, rsSettle_beside hT, hT.rstack, hT.putRs]

theorem predictsTaken_beside (w : Word) (c : Cluster) : predictsTaken w (T c) = predictsTaken w c := by
  simp only [predictsTaken, rsTop, hT.cyc, rsSettle_beside hT, hT.rstack]

variable (n : Cl) (s : State) (c : Cluster)

theorem wrongWords_beside (k : Nat) (b : Word) : wrongWords n (s.putCl n (T c)) k b = wrongWords n (s.putCl n c) k b := by
  induction k using Nat.twoStepInduction generalizing b with
  | zero => rfl
  | one => rfl
  | more k _ ih =>
    simp only [wrongWords, putCl_cl_self, memGet_putCl, predictsTaken_beside hT, nextPc_beside hT, ih]

theorem cancelled_beside (k : Nat) (b : Word) :
    cancelled n k b (s.putCl n (T c)) = (cancelled n k b (s.putCl n c)).modCl n T := by
  simp only [cancelled, putCl_modCl, wrongWords_beside hT, evcEvent_beside hT]

/-- A wrong path comes out the same before and behind an update beside the fetch stages. -/
theorem wrongPath_beside (a : Word) : wrongPath n a (s.putCl n (T c)) = (wrongPath n a (s.putCl n c)).modCl n T := by
  simp only [wrongPath, cancelled_beside hT, putCl_cl_self, nextPc_beside hT, memGet_putCl]
  split
  · simp only [modCl_modCl, hT.cyc, dActAt_beside hT]
  · rfl

omit s n in
theorem windowIn_beside : windowIn (T c) = T (windowIn c) := by
  unfold windowIn ioFld ioBit
  simp only [ioGet_beside hT, ioSetFld_beside hT]
  exact (apply_ite T _ _ _).symm

end

/-! ## The fetch stages of a wrong path -/

/-- What a wrong path leaves of a cluster: all but the event counters and the return stack. -/
theorem wrongPath_keeps {γ : Type} {g : Cluster → γ} (hio : ∀ m c, g (withIo m c) = g c)
    (hrs : ∀ r c, g (withReturns r c) = g c)
    (hfl : ∀ f c, g (withFlush f c) = g c) (n : Cl) (a : Word) (s : State) : g ((wrongPath n a s).cl n) = g (s.cl n) := by
  have hcanc : ∀ k b, g ((cancelled n k b s).cl n) = g (s.cl n) := fun k b => by
    rw [cancelled, modCl_eq, putCl_cl_self]
    exact evcEvent_blind (fun _ _ _ _ => hio _ _) ..
  have hsettle : ∀ d c, g (rsSettle d c) = g c := fun d c => by
    rw [rsSettle_eq]
    exact reads_ite ((hfl _ _).trans (hrs _ _)) rfl
  have hact : ∀ d x b c, g (dActAt d x b c) = g c := fun d x b c => by
    cases x with
    | plain => rfl
    | push => exact (hrs _ _).trans (hsettle _ _)
    | pop => exact (hrs _ _).trans (hsettle _ _)
  unfold wrongPath
  dsimp only
  split
  · rw [modCl_eq, putCl_cl_self, hact, hcanc]
  · exact hcanc _ _

theorem wrongPath_due (n : Cl) (a : Word) (s : State) : ((wrongPath n a s).cl n).due = (s.cl n).due :=
  wrongPath_keeps (g := Cluster.due) (fun _ _ => rfl) (fun _ _ => rfl) (fun _ _ => rfl) ..

theorem wrongPath_lag (n : Cl) (a : Word) (s : State) : ((wrongPath n a s).cl n).loopLag = (s.cl n).loopLag :=
  wrongPath_keeps (g := Cluster.loopLag) (fun _ _ => rfl) (fun _ _ => rfl) (fun _ _ => rfl) ..

theorem wrongPath_cyc (n : Cl) (a : Word) (s : State) : ((wrongPath n a s).cl n).cyc = (s.cl n).cyc :=
  wrongPath_keeps (g := Cluster.cyc) (fun _ _ => rfl) (fun _ _ => rfl) (fun _ _ => rfl) ..

/-! ## The return stack (R232) -/

section
variable {c : Cluster} (hfl : c.flushAt = [])
include hfl

theorem rsSettle_none (d : Nat) : rsSettle d c = c := by
  rw [rsSettle, hfl]
  rfl

theorem dAct_push (a : Word) : dAct .push a c = pushReturn (a + 1) c := by
  show rsPush (a + 1) (rsSettle (c.cyc - 1) c) = _
  rw [rsSettle_none hfl, rsPush, pushReturn]
  by_cases hfull : 8 ≤ c.rstack.length
  · rw [if_pos hfull, if_neg (Nat.not_lt.mpr hfull), List.drop_one]
  · rw [if_neg hfull, if_pos (Nat.lt_of_not_le hfull)]

theorem dAct_pop {below : List Word} {top : Word} (h : c.rstack = below ++ [top]) (a : Word) :
    dAct .pop a c = withReturns below c := by
  rw [dAct, dActAt_pop, rsSettle_none hfl, h, List.dropLast_concat]

theorem rsTop_concat {below : List Word} {top : Word} (h : c.rstack = below ++ [top]) : rsTop c = some top := by
  rw [rsTop, rsSettle_none hfl, h, List.getLast?_concat]

end

/-! ## Transfers and calls (R211, R231) -/

section
variable {n : Cl} {s : State} (h : Issues n s)
include h

/-- A transfer word completes from what it does behind its D-stage action. -/
theorem issue_done {w : WordInfo} (hw : w.cycles = 1) (hf : w.fp = false) {f : Word → State → SeqRes} {t : State}
    {j : Option Jump} {b : Nat}
    (hr : f ((rsTop (s.cl n)).getD ((s.cl n).pc + 1)) (s.putCl n (dAct w.act (s.cl n).pc (s.cl n))) = .done t j b none) :
    issue n w f s = wordDone n 1 j b t := by
  rw [issue_now h w f (.inl hf), hw, modCl_eq, hr]
  rfl

end

section
variable {n : Cl} {s : State} {c : Cluster} (hd : c.due = []) (hg : c.loopLag = []) (e : Cluster) (v : Word)
include hd hg

/-- The link register is written behind a transfer (R210). -/
theorem wordDone_link (t : Word) (b : Nat) :
    wordDone n 1 (some ⟨t, false⟩) b (s.putCl n (laterAll 1 [(xName e 14, .w v)] c)) =
      s.putCl n (jumpTo t b (landReg c ⟨xName e 14, .w v, 0⟩)) := by
  have hself := putCl_cl_self (n := n) (s := s) (c := c)
  rw [← putCl_modCl, wordDone_jump_landed (by rw [hself]; exact hd) (by rw [hself]; exact hg), putCl_modCl]
  rfl

/-- The link register is written behind a transfer that leaves a wrong path (R210, R233). -/
theorem wordDone_link_wrong (a t : Word) (b : Nat) :
    wordDone n 1 (some ⟨t, false⟩) b (wrongPath n a (s.putCl n (laterAll 1 [(xName e 14, .w v)] c))) =
      (wrongPath n a (s.putCl n (landReg c ⟨xName e 14, .w v, 0⟩))).modCl n (jumpTo t b) := by
  have hpath := wrongPath_beside (beside_due [⟨xName e 14, .w v, c.cyc + 1⟩]) n s c a
  have hland := wrongPath_beside (beside_landReg_xName e 14 v 0) n s c a
  have hcyc : ((wrongPath n a (s.putCl n c)).cl n).cyc = c.cyc := by rw [wrongPath_cyc, putCl_cl_self]
  have hdue : ((wrongPath n a (s.putCl n c)).cl n).due = [] := by rw [wrongPath_due, putCl_cl_self, hd]
  have hlag : ((wrongPath n a (s.putCl n c)).cl n).loopLag = [] := by rw [wrongPath_lag, putCl_cl_self, hg]
  have hlater : (wrongPath n a (s.putCl n (laterAll 1 [(xName e 14, .w v)] c))) =
      (wrongPath n a (s.putCl n c)).modCl n (laterAll 1 [(xName e 14, .w v)]) := by
    rw [modCl_eq, laterAll_eq, laterAll_eq, hcyc, ← modCl_eq]
    exact hpath
  rw [hlater, wordDone_jump_landed hdue hlag, hland, modCl_modCl]
  rfl

end

end Sys2Proof.Machine

end
section
/-!
PROOFS. Transfers, calls and returns of a sequencer (O11).
-/
namespace Sys2Proof.Machine

open Sys2Proof.Claims

section
variable {n : Cl} {s : State} (h : Issues n s)
include h

/-- A transfer that may leave its loop and leaves no wrong path. -/
theorem issue_leaves {w : WordInfo} (hw : w.cycles = 1) (hf : w.fp = false) {f : Word → State → SeqRes} {c : Cluster}
    {t : Word} {b : Nat} (hd : c.due = []) (hg : c.loopLag = [])
    (hr : f ((rsTop (s.cl n)).getD ((s.cl n).pc + 1)) (s.putCl n (dAct w.act (s.cl n).pc (s.cl n))) =
      .done (s.putCl n c) (some ⟨t, true⟩) b none) :
    issue n w f s = s.putCl n (jumpTo t b (endLoop t c)) := by
  have hself := putCl_cl_self (n := n) (s := s) (c := c)
  rw [issue_done h hw hf hr, wordDone_leaves (by rw [hself]; exact hd) (by rw [hself]; exact hg), putCl_modCl]

end

/-- A cluster with the return address of its word on the return stack (R232). -/
def pushed (c : Cluster) : Cluster := pushReturn (c.pc + 1) c

/-- What a call leaves to land behind its transfer. -/
theorem linkTo_pushed {c : Cluster} (hd : c.due = []) :
    linkTo (pushed c) = laterAll 1 [(xName c 14, .w (c.pc + 1))] (pushed c) := by
  rw [linkTo, dueAdd_calm (c := pushed c) hd]
  rfl

theorem landReg_pushed (c : Cluster) : landReg (pushed c) ⟨xName c 14, .w (c.pc + 1), 0⟩ = xSet 14 (c.pc + 1) (pushed c) :=
  landReg_xName (c := pushed c) (d := c) rfl ..

theorem windowUp_eq (c : Cluster) : windowUp c = windowIn c := by
  unfold windowUp windowIn cwp wres fastLevel
  rfl

theorem windowDown_eq (c : Cluster) : windowDown c = windowOut c := by
  unfold windowDown windowOut cwp wres fastLevel
  rfl

/-- The fields of a cluster that a move to another window does not touch. -/
theorem windowIn_keeps {γ : Type} {g : Cluster → γ} (h : ∀ m c, g (withIo m c) = g c) (c : Cluster) :
    g (windowIn c) = g c := by
  unfold windowIn
  dsimp only
  split
  · exact h _ _
  · exact (h _ _).trans (h _ _)

theorem windowOut_keeps {γ : Type} {g : Cluster → γ} (h : ∀ m c, g (withIo m c) = g c) (c : Cluster) :
    g (windowOut c) = g c := by
  unfold windowOut
  dsimp only
  split
  · exact h _ _
  · exact (h _ _).trans (h _ _)

/-- A call's move to the next window comes before or behind the results under way alike. -/
theorem windowUp_laterAll (r : RegName) (v : RegVal) (c : Cluster) :
    windowUp (laterAll 1 [(r, v)] c) = laterAll 1 [(r, v)] (windowIn c) := by
  have hcyc : (windowIn c).cyc = c.cyc := windowIn_keeps (g := Cluster.cyc) (fun _ _ => rfl) c
  rw [windowUp_eq, laterAll_eq, laterAll_eq, windowIn_beside (beside_due _), hcyc]

/-- The call's link register is that of its own window, in whichever window it lands. -/
theorem landReg_windowIn {c d : Cluster} (h : ioGet 0x10 c = ioGet 0x10 d) (r : Nat) (v : Word) :
    landReg (windowIn c) ⟨xName d r, .w v, 0⟩ = windowIn (xSet r v c) := by
  rw [← landReg_xName h r 0 v, windowIn_beside (beside_landReg_xName d r v 0)]

theorem windowIn_due (c : Cluster) : (windowIn c).due = c.due := windowIn_keeps (g := Cluster.due) (fun _ _ => rfl) c

theorem windowIn_lag (c : Cluster) : (windowIn c).loopLag = c.loopLag :=
  windowIn_keeps (g := Cluster.loopLag) (fun _ _ => rfl) c

/-- A call goes ahead at the fast level, and elsewhere where a window is free (R269). -/
theorem callRes_goes {n : Cl} {s : State} (hw : fastLevel (s.cl n) = true ∨ wres (s.cl n) < 8) (t : Word) (b : Nat) :
    callRes n t b s = .done (s.modCl n fun d => windowUp (linkTo d)) (some ⟨t, false⟩) b none := by
  have hfree : ¬ (!fastLevel (s.cl n) && decide (8 ≤ wres (s.cl n))) = true := by
    simpa [Classical.or_iff_not_imp_left] using hw
  rw [callRes, if_neg hfree]

/-- A return goes ahead at the fast level, and elsewhere where the window before is resident (R269). -/
theorem retRes_goes {n : Cl} {s : State} (hw : fastLevel (s.cl n) = true ∨ 2 ≤ wres (s.cl n)) (p : Word) (popped : Bool) :
    retRes n p popped s = returnTo n p popped windowDown s := by
  have hfree : ¬ (!fastLevel (s.cl n) && decide (wres (s.cl n) ≤ 1)) = true := by
    simpa [Classical.or_iff_not_imp_left, Nat.lt_iff_add_one_le] using hw
  rw [retRes, if_neg hfree]

/-! ## Transfer words -/

section
variable {n : Cl} {s : State} (h : Issues n s) (off : BitVec 17) (rs : Reg)
include h

theorem exec_bra : exec (.bra n off) s =
    .next (s.putCl n (jumpTo ((s.cl n).pc + off.signExtend 24) 1 (endLoop ((s.cl n).pc + off.signExtend 24) (s.cl n)))) := by
  show Host.Outcome.next (issue n { skip := 2 } _ s) = _
  rw [issue_leaves h (c := s.cl n) (t := (s.cl n).pc + off.signExtend 24) (b := 1) rfl rfl h.calm h.lag]
  rw [dAct_plain, putCl_cl_same]

theorem exec_jr : exec (.jr n rs) s =
    .next ((wrongPath n (s.cl n).pc s).modCl n fun d => jumpTo (xGet (s.cl n) rs) 3 (endLoop (xGet (s.cl n) rs) d)) := by
  show Host.Outcome.next (issue n {} (fun _ t =>
    .done (wrongPath n (t.cl n).pc t) (some ⟨xGet (t.cl n) rs, true⟩) 3 none) s) = _
  rw [issue_done h rfl rfl rfl, dAct_plain, putCl_cl_same, wordDone_leaves]
  · rw [wrongPath_due, h.calm]
  · rw [wrongPath_lag, h.lag]

variable (hfl : (s.cl n).flushAt = [])
include hfl

theorem exec_link : exec (.link n off) s =
    .next (s.putCl n (jumpTo ((s.cl n).pc + off.signExtend 24) 1 (xSet 14 ((s.cl n).pc + 1) (pushed (s.cl n))))) := by
  show Host.Outcome.next (issue n { act := .push, skip := 2 } (fun _ t =>
    .done (t.modCl n linkTo) (some ⟨(t.cl n).pc + off.signExtend 24, false⟩) 1 none) s) = _
  rw [issue_done h rfl rfl rfl, dAct_push hfl, putCl_modCl, ← pushed, linkTo_pushed h.calm, putCl_cl_self, wordDone_link,
    landReg_pushed]
  · rfl
  · exact h.calm
  · exact h.lag

theorem exec_linkr : exec (.linkr n rs) s =
    .next ((wrongPath n (s.cl n).pc (s.putCl n (xSet 14 ((s.cl n).pc + 1) (pushed (s.cl n))))).modCl n
      (jumpTo (xGet (s.cl n) rs) 3)) := by
  show Host.Outcome.next (issue n { act := .push } (fun _ t =>
    .done (wrongPath n (t.cl n).pc (t.modCl n linkTo)) (some ⟨xGet (t.cl n) rs, false⟩) 3 none) s) = _
  rw [issue_done h rfl rfl rfl, dAct_push hfl, putCl_modCl, ← pushed, linkTo_pushed h.calm, putCl_cl_self, wordDone_link_wrong,
    landReg_pushed]
  · rfl
  · exact h.calm
  · exact h.lag

variable (hw : fastLevel (s.cl n) = true ∨ wres (s.cl n) < 8)
include hw

/-- A call goes ahead behind its D-stage action as before it. -/
theorem callRes_pushed (t : Word) (b : Nat) : callRes n t b (s.putCl n (dAct .push (s.cl n).pc (s.cl n))) =
    .done (s.putCl n (laterAll 1 [(xName (s.cl n) 14, .w ((s.cl n).pc + 1))] (windowIn (pushed (s.cl n)))))
      (some ⟨t, false⟩) b none := by
  have hfree : fastLevel ((s.putCl n (pushed (s.cl n))).cl n) = true ∨ wres ((s.putCl n (pushed (s.cl n))).cl n) < 8 := by
    rw [putCl_cl_self]
    exact hw
  rw [dAct_push hfl, ← pushed, callRes_goes hfree, putCl_modCl, linkTo_pushed h.calm, windowUp_laterAll]

theorem exec_call : exec (.call n off) s =
    .next (s.putCl n (jumpTo ((s.cl n).pc + off.signExtend 24) 1 (windowIn (xSet 14 ((s.cl n).pc + 1) (pushed (s.cl n)))))) := by
  show Host.Outcome.next (issue n { act := .push, skip := 2 }
    (fun _ t => callRes n ((t.cl n).pc + off.signExtend 24) 1 t) s) = _
  rw [issue_done h rfl rfl (callRes_pushed h hfl hw _ _), wordDone_link,
    landReg_windowIn (c := pushed (s.cl n)) (d := s.cl n) rfl,
    putCl_cl_self, dAct_push hfl]
  · rfl
  · exact (windowIn_due _).trans h.calm
  · exact (windowIn_lag _).trans h.lag

theorem exec_callr : exec (.callr n rs) s =
    .next ((wrongPath n (s.cl n).pc (s.putCl n (windowIn (xSet 14 ((s.cl n).pc + 1) (pushed (s.cl n)))))).modCl n
      (jumpTo (xGet (s.cl n) rs) 3)) := by
  show Host.Outcome.next (issue n { act := .push } (fun _ t =>
    afterWrongPath n (t.cl n).pc (callRes n (xGet (t.cl n) rs) 3 t)) s) = _
  rw [issue_done h rfl rfl (congrArg (afterWrongPath n _) (callRes_pushed h hfl hw _ _)), wordDone_link_wrong,
    landReg_windowIn (c := pushed (s.cl n)) (d := s.cl n) rfl, putCl_cl_self, dAct_push hfl]
  · rfl
  · exact (windowIn_due _).trans h.calm
  · exact (windowIn_lag _).trans h.lag

end

/-! ## Returns (R232) -/

section
variable (n : Cl) (p : Word) (f : Cluster → Cluster) (u : State)

theorem returnTo_right (hp : p = xGet (u.cl n) 14) :
    returnTo n p true f u = .done (u.modCl n f) (some ⟨xGet (u.cl n) 14, true⟩) 1 none := by
  simp only [returnTo, ← hp, decide_true, if_true]

theorem returnTo_wrong (hp : p ≠ xGet (u.cl n) 14) :
    returnTo n p true f u =
      .done ((cancelled n 2 p (u.modCl n (evcEvent 0x06 1))).modCl n f) (some ⟨xGet (u.cl n) 14, true⟩) 3 none := by
  simp only [returnTo, decide_eq_false hp, Bool.false_eq_true, if_true, if_false]

end

/-- A return with an entry on the return stack continues at x14, with what `f` does to the cluster before it. -/
theorem issue_returnTo {n : Cl} {s : State} (h : Issues n s) (hfl : (s.cl n).flushAt = []) {top : Word} {below : List Word}
    (hrs : (s.cl n).rstack = below ++ [top]) {f : Cluster → Cluster} (hdue : ∀ c, (f c).due = c.due)
    (hlag : ∀ c, (f c).loopLag = c.loopLag) {g : Word → State → SeqRes} (w : WordInfo) (hw : w.cycles = 1) (hfp : w.fp = false)
    (hact : w.act = .pop)
    (hg : g top (s.putCl n (withReturns below (s.cl n))) = returnTo n top true f (s.putCl n (withReturns below (s.cl n)))) :
    issue n w g s = if top = xGet (s.cl n) 14
      then s.putCl n (jumpTo (xGet (s.cl n) 14) 1 (endLoop (xGet (s.cl n) 14) (f (withReturns below (s.cl n)))))
      else (cancelled n 2 top (s.putCl n (evcEvent 0x06 1 (withReturns below (s.cl n))))).modCl n fun e =>
        jumpTo (xGet (s.cl n) 14) 3 (endLoop (xGet (s.cl n) 14) (f e)) := by
  have hx : xGet ((s.putCl n (withReturns below (s.cl n))).cl n) 14 = xGet (s.cl n) 14 := by rw [putCl_cl_self]; rfl
  have hstart : g ((rsTop (s.cl n)).getD ((s.cl n).pc + 1)) (s.putCl n (dAct w.act (s.cl n).pc (s.cl n))) =
      returnTo n top true f (s.putCl n (withReturns below (s.cl n))) := by
    rw [hact, dAct_pop hfl hrs, rsTop_concat hfl hrs, Option.getD_some, hg]
  rw [← hx]
  split
  next hp =>
    refine issue_leaves h hw hfp ((hdue _).trans h.calm) ((hlag _).trans h.lag) (hstart.trans ?_)
    rw [returnTo_right n top f _ hp, putCl_modCl]
  next hp =>
    rw [issue_done h hw hfp (hstart.trans (returnTo_wrong n top f _ hp)), putCl_modCl, wordDone_leaves, modCl_modCl]
    · rw [modCl_eq, putCl_cl_self, hdue, cancelled, modCl_eq, putCl_cl_self, putCl_cl_self, evcEvent_due, evcEvent_due]
      exact h.calm
    · rw [modCl_eq, putCl_cl_self, hlag, cancelled, modCl_eq, putCl_cl_self, putCl_cl_self, evcEvent_loopLag, evcEvent_loopLag]
      exact h.lag

end Sys2Proof.Machine

namespace Sys2Proof.Proofs

open Sys2Proof.Machine Sys2Proof.Claims

/-- Settles O11: the D-stage action keeps the return stack, then the transfer completes with the link under way. -/
theorem transfersAndReturns : Obligations.TransfersAndReturns := by
  unfold Obligations.TransfersAndReturns
  refine ⟨fun n rs off s h hfl => ?_, fun n top below s h hfl hrs => ?_⟩
  · exact ⟨exec_bra h off, exec_link h off hfl, exec_jr h rs, exec_linkr h rs hfl,
      fun hw => ⟨exec_call h off hfl hw, exec_callr h rs hfl hw⟩⟩
  · have hfull : rsFull n s = true := by rw [rsFull, rsTop_concat hfl hrs]; rfl
    refine ⟨?retl, fun hw => ?ret⟩
    case retl =>
      show Host.Outcome.next (issue n { act := .pop, skip := if rsFull n s then 2 else 0 }
        (fun p t => returnTo n p (rsFull n s) id t) s) = _
      rw [issue_returnTo h hfl hrs (f := id) (fun _ => rfl) (fun _ => rfl) _ rfl rfl rfl (by rw [hfull])]
      rfl
    case ret =>
      show Host.Outcome.next (issue n { act := .pop, skip := if rsFull n s then 2 else 0 }
        (fun p t => retRes n p (rsFull n s) t) s) = _
      rw [issue_returnTo h hfl hrs (f := windowOut) (windowOut_keeps (g := Cluster.due) fun _ _ => rfl)
        (windowOut_keeps (g := Cluster.loopLag) fun _ _ => rfl) _ rfl rfl rfl
        (by rw [hfull, retRes_goes, funext windowDown_eq]; rw [putCl_cl_self]; exact hw)]
      rfl

end Sys2Proof.Proofs
end
section
/-!
PROOFS. Conditional branches and skips of a sequencer (O12).
-/
namespace Sys2Proof.Machine

open Sys2Proof.Claims

section
variable {n : Cl} {s : State} (h : Issues n s)
include h

/-- A word that only changes its own cluster and goes on. -/
theorem issue_goOn {f : Word → State → SeqRes} {c : Cluster} (hf : ∀ w, f w s = .go (s.putCl n c))
    (hl : ioBit 0x6 23 c = false) (hg : c.loopLag = []) (hd : c.due = []) : issue n {} f s = s.putCl n (goOn c) := by
  have hd' : (passOver c).due = [] := hd
  rw [issue_go h hf hl hg, landDue_nil hd', goOn]

/-- A word behind a skip passes without effect (R234). -/
theorem issue_skipped (f : Word → State → SeqRes) : issue n {} f (s.putCl n (skipping true (s.cl n))) =
    s.putCl n (passOver (s.cl n)) := by
  have hready : seqReady n (s.putCl n (skipping true (s.cl n))) = true :=
    seqReady_putCl h.ready rfl rfl fun _ => by simp [seqHalted, skipping]
  have hpair : ((s.putCl n (skipping true (s.cl n))).cl n).slotA = none := by rw [putCl_cl_self]; exact h.pair
  have hvsync : ¬ ((s.putCl n (skipping true (s.cl n))).cl n).vsync.isSome = true := by
    rw [putCl_cl_self, skipping, h.vsync]
    exact Bool.false_ne_true
  have hr : ¬ (!seqReady n (s.putCl n (skipping true (s.cl n)))) = true := by rw [hready]; exact Bool.false_ne_true
  have hskip : ((s.putCl n (skipping true (s.cl n))).cl n).skipNext = true := by rw [putCl_cl_self]; rfl
  have hback : skipping false (skipping true (s.cl n)) = s.cl n := skipping_same (c := s.cl n) h.skip
  unfold issue
  rw [if_neg hvsync]
  unfold issueWord
  rw [if_neg hr]
  dsimp only
  rw [closePair_none hpair, if_neg hr, if_pos hskip, putCl_modCl]
  show wordPass n 1 none 0 (s.putCl n (skipping false (skipping true (s.cl n)))) = _
  rw [hback, putCl_cl_same, wordPass_inside (atLoopEnd_none h.loop h.lag)]
  simp only [evcEvent_zero, Nat.add_zero, modCl_eq, landDue_goneTo_calm h.calm, passOver_eq]

/-- A conditional branch, from what its outcome and its hint do to the fetch stages. -/
theorem exec_bc (cond : Cond) (hint : Bool) (off : BitVec 12) :
    exec (.bc n cond hint off) s =
      .next (wordDone n 1
        (if condHolds cond (ccGet (s.cl n)) then some ⟨(s.cl n).pc + off.signExtend 24, true⟩ else none)
        (branchBubbles (condHolds cond (ccGet (s.cl n))) hint)
        (branchPath n (s.cl n).pc ((s.cl n).pc + off.signExtend 24) (condHolds cond (ccGet (s.cl n))) hint s)) := by
  show Host.Outcome.next (issue n { skip := if hint then 2 else 0 } (fun _ t => bcRes n cond hint off t) s) = _
  rw [issue_done h rfl rfl rfl, dAct_plain, putCl_cl_same]

end

section
variable (n : Cl) (k : Nat) (b : Word) (s : State)

/-- Words cancelled count in the event counters alone (R494). -/
theorem cancelled_keeps {γ : Type} {g : Cluster → γ} (h : ∀ m c, g (withIo m c) = g c) :
    g ((cancelled n k b s).cl n) = g (s.cl n) := by
  rw [cancelled, modCl_eq, putCl_cl_self]
  exact evcEvent_blind (fun _ _ _ _ => h _ _) ..

theorem cancelled_ioGet {o : Nat} (h : o < 0x1100 ∨ 0x1120 ≤ o) : ioGet o ((cancelled n k b s).cl n) = ioGet o (s.cl n) := by
  rw [cancelled, modCl_eq, putCl_cl_self, ioGet_evcEvent h]

end

section
variable {n : Cl} {s : State} (hl : ioBit 0x6 23 (s.cl n) = false) (hg : (s.cl n).loopLag = []) (hd : (s.cl n).due = [])
include hl hg hd

/-- A branch that does not transfer completes with bubbles and nothing under way. -/
theorem wordDone_falls (b : Nat) : wordDone n 1 none b s = s.modCl n fun c => jumpTo (c.pc + 1) b c := by
  rw [wordDone_next hl hg]
  simp only [modCl_eq, landDue_goneTo_calm hd, jumpTo_eq]

end

end Sys2Proof.Machine

namespace Sys2Proof.Proofs

open Sys2Proof.Machine Sys2Proof.Claims

/-- Settles O12, by the four pairs of an outcome and its hint; a word behind a skip passes before it could act. -/
theorem branchesAndSkips : Obligations.BranchesAndSkips := by
  unfold Obligations.BranchesAndSkips
  refine ⟨fun n cond hint off s h => ?_, fun n rd rs rt cond sense bit s h => ⟨?skip, fun hbit => ?skb, ?skipped⟩⟩
  · have hself := putCl_cl_self (n := n) (s := s) (c := evcEvent 0x05 1 (s.cl n))
    dsimp only
    rw [exec_bc h]
    cases condHolds cond (ccGet (s.cl n)) <;> cases hint
    case false.false =>
      show Host.Outcome.next (wordDone n 1 none 0 s) = _
      rw [wordDone_next_calm h.loop h.lag h.calm, modCl_eq]
    case true.true =>
      show Host.Outcome.next (wordDone n 1 (some ⟨(s.cl n).pc + off.signExtend 24, true⟩) 1 s) = _
      rw [wordDone_leaves h.calm h.lag, modCl_eq]
    case false.true =>
      show Host.Outcome.next (wordDone n 1 none 3 (cancelled n 2 _ (s.modCl n (evcEvent 0x05 1)))) = _
      rw [modCl_eq, wordDone_falls]
      · have hpc : ((cancelled n 2 ((s.cl n).pc + off.signExtend 24) (s.putCl n (evcEvent 0x05 1 (s.cl n)))).cl n).pc =
        (s.cl n).pc := by
          rw [cancelled_keeps (g := Cluster.pc) _ _ _ _ fun _ _ => rfl, hself]
          exact evcEvent_blind (g := Cluster.pc) (fun _ _ _ _ => rfl) ..
        rw [modCl_eq, modCl_eq, hpc]
      · rw [ioBit, cancelled_ioGet _ _ _ _ (.inl (by decide)), hself, ioGet_evcEvent (.inl (by decide))]
        exact h.loop
      · rw [cancelled_keeps (g := Cluster.loopLag) _ _ _ _ fun _ _ => rfl, hself, evcEvent_loopLag, h.lag]
      · rw [cancelled_keeps (g := Cluster.due) _ _ _ _ fun _ _ => rfl, hself, evcEvent_due, h.calm]
    case true.false =>
      show Host.Outcome.next (wordDone n 1 (some ⟨(s.cl n).pc + off.signExtend 24, true⟩) 3
        (wrongPath n (s.cl n).pc (s.modCl n (evcEvent 0x05 1)))) = _
      rw [modCl_eq, wordDone_leaves]
      · rw [wrongPath_due, putCl_cl_self, evcEvent_due, h.calm]
      · rw [wrongPath_lag, putCl_cl_self, evcEvent_loopLag, h.lag]
  case skip =>
    show Host.Outcome.next (issue n {} (fun _ t => .go (t.modCl n fun c => { c with skipNext := condHolds cond (ccGet c) })) s) = _
    exact congrArg _ (issue_goOn h (c := skipping (condHolds cond (ccGet (s.cl n))) (s.cl n)) (fun _ => by rw [modCl_eq]; rfl)
      h.loop h.lag h.calm)
  case skb =>
    show Host.Outcome.next (issue n {} (fun _ t =>
      if 24 ≤ bit.toNat then illegal (longWord 0x20 sense.toNat rs bit.toNat) t
      else .go (t.modCl n fun c => { c with skipNext := bitOf bit.toNat (xGet c rs) == sense })) s) = _
    simp only [if_neg (Nat.not_le.mpr hbit)]
    exact congrArg _ (issue_goOn h (c := skipping (bitOf bit.toNat (xGet (s.cl n) rs) == sense) (s.cl n))
      (fun _ => by rw [modCl_eq]; rfl) h.loop h.lag h.calm)
  case skipped =>
    show Host.Outcome.next (issue n {} _ (s.putCl n (skipping true (s.cl n)))) = _
    rw [issue_skipped h]

end Sys2Proof.Proofs
end
section
/-!
PROOFS. Hardware loops of a sequencer (O13).
-/
namespace Sys2Proof.Machine

open Sys2Proof.Claims

/-! ## The loop registers (R235) -/

theorem setFld_zero (hi v : Nat) : setFld hi 0 v (0 : Word) = BitVec.ofNat 24 (v % 2 ^ (hi + 1)) := by
  simp [setFld]

/-- SEQ_LEND from ACTIVE and END. -/
theorem setBit_active (b : Bool) {x : Nat} (hx : x < 2 ^ 14) : setBit 23 b (BitVec.ofNat 24 x) =
    BitVec.ofNat 24 (b.toNat * 2 ^ 23 + x) := by
  have hb : b.toNat < 2 := b.toNat_lt
  apply BitVec.eq_of_toNat_eq
  simp only [setBit, setFld, BitVec.toNat_ofNat]
  omega

theorem fld_end (b : Bool) {x : Nat} (hx : x < 2 ^ 14) : fld 13 0 (BitVec.ofNat 24 (b.toNat * 2 ^ 23 + x)) = x := by
  have hb : b.toNat < 2 := b.toNat_lt
  simp only [fld, BitVec.toNat_ofNat]
  omega

/-- A cluster whose loop registers hold a loop from `start` to `end` with `k` passes to go. -/
def looping (k : Word) (active : Bool) (start stop : Nat) (c : Cluster) : Cluster :=
  ioPut 0x4 k (ioPut 0x5 (BitVec.ofNat 24 (start % 2 ^ 14)) (ioPut 0x6 (BitVec.ofNat 24 (active.toNat * 2 ^ 23 + stop % 2 ^ 14)) c))

/-- The fields of a cluster that its loop registers are not among. -/
theorem looping_keeps {γ : Type} {g : Cluster → γ} (h : ∀ m c, g (withIo m c) = g c) (k : Word) (active : Bool)
    (start stop : Nat)
    (c : Cluster) : g (looping k active start stop c) = g c :=
  (h _ _).trans ((h _ _).trans (h _ _))

theorem looping_lag (k : Word) (active : Bool) (start stop : Nat) (c : Cluster) :
    (looping k active start stop c).loopLag = c.loopLag :=
  looping_keeps (g := Cluster.loopLag) (fun _ _ => rfl) k active start stop c

theorem looping_due (k : Word) (active : Bool) (start stop : Nat) (c : Cluster) :
    (looping k active start stop c).due = c.due :=
  looping_keeps (g := Cluster.due) (fun _ _ => rfl) k active start stop c

theorem looping_pc (k : Word) (active : Bool) (start stop : Nat) (c : Cluster) :
    (looping k active start stop c).pc = c.pc :=
  looping_keeps (g := Cluster.pc) (fun _ _ => rfl) k active start stop c

theorem ioGet_end (k : Word) (active : Bool) (start stop : Nat) (c : Cluster) :
    ioGet 0x6 (looping k active start stop c) = BitVec.ofNat 24 (active.toNat * 2 ^ 23 + stop % 2 ^ 14) := by
  rw [looping, ioGet_ioPut_ne _ _ (by decide), ioGet_ioPut_ne _ _ (by decide), ioGet_ioPut_self]

/-- LOOP itself does not stand at the END that it sets. -/
theorem atLoopEnd_looping {a : Word} {len : Nat} (_ha : a.toNat < 2 ^ 14) (hlen : 0 < len) (hlen' : len < 2 ^ 14) (k : Word)
    (active : Bool)
    (start : Nat) {c : Cluster} (hg : c.loopLag = []) : atLoopEnd a (looping k active start (a.toNat + len) c) = false := by
  have hend : fld 13 0 (loopGet 0x6 (looping k active start (a.toNat + len) c)) ≠ a.toNat := by
    rw [loopGet_plain ((looping_lag ..).trans hg), ioGet_end, fld_end active (Nat.mod_lt _ (by decide))]
    omega
  rw [atLoopEnd, decide_eq_false hend, Bool.and_false, Bool.false_and]

theorem clearLag {c : Cluster} (h : c.loopLag = []) : { c with loopLag := [] } = c := by
  cases c
  simp only at h
  subst h
  rfl

section
variable {n : Cl} {s : State} (h : Issues n s)
include h

/-- What LOOP and LOOPI leave in the loop registers. -/
theorem loopRes_eq (count : Word) {len : Nat} (hlen : len ≠ 0) (word : Nat) :
    loopRes n count len word s =
      if count = 0 then .done (s.modCl n (looping count false ((s.cl n).pc.toNat + 1) ((s.cl n).pc.toNat + len)))
        (some ⟨(s.cl n).pc + BitVec.ofNat 24 (len + 1), false⟩) 1 none
      else .go (s.modCl n (looping count true ((s.cl n).pc.toNat + 1) ((s.cl n).pc.toNat + len))) := by
  have hput : ∀ active, ({ ioPut 0x4 count (ioPut 0x5 (setFld 13 0 ((s.cl n).pc.toNat + 1) 0)
        (ioPut 0x6 (setBit 23 active (setFld 13 0 ((s.cl n).pc.toNat + len) 0)) (s.cl n))) with loopLag := [] } : Cluster) =
      looping count active ((s.cl n).pc.toNat + 1) ((s.cl n).pc.toNat + len) (s.cl n) := fun active => by
    rw [setFld_zero, setFld_zero, setBit_active active (Nat.mod_lt _ (by decide))]
    exact clearLag ((looping_lag ..).trans h.lag)
  simp only [loopRes, if_neg hlen, modCl_eq, hput]

/-- LOOP and LOOPI set the loop registers and go on into the body, or behind it. -/
theorem issue_loopRes {f : Word → State → SeqRes} (count : Word) {len : Nat} (hlen : 0 < len)
    (hlen' : len < 2 ^ 14) {word : Nat}
    (hf : ∀ w, f w s = loopRes n count len word s) :
    issue n {} f s = s.putCl n (if count = 0
      then jumpTo ((s.cl n).pc + BitVec.ofNat 24 (len + 1)) 1
        (looping count false ((s.cl n).pc.toNat + 1) ((s.cl n).pc.toNat + len) (s.cl n))
      else goOn (looping count true ((s.cl n).pc.toNat + 1) ((s.cl n).pc.toNat + len) (s.cl n))) := by
  have hf' := fun w => (hf w).trans (loopRes_eq h count (Nat.ne_of_gt hlen) word)
  split
  next h0 =>
    simp only [if_pos h0] at hf'
    rw [issue_done h rfl rfl (by rw [dAct_plain, putCl_cl_same, hf']), wordDone_stays]
    · rw [modCl_modCl, modCl_eq]
    · rw [modCl_eq, putCl_cl_self]; exact (looping_due ..).trans h.calm
    · rw [modCl_eq, putCl_cl_self]; exact (looping_lag ..).trans h.lag
  next h0 =>
    simp only [if_neg h0] at hf'
    rw [issue_done h rfl rfl (by rw [dAct_plain, putCl_cl_same, hf', SeqRes.go]), wordDone_inside]
    · rw [modCl_modCl, modCl_eq, evcEvent_zero, landDue_goneTo_calm ((looping_due ..).trans h.calm)]
      rfl
    · rw [modCl_eq, putCl_cl_self, looping_pc]
      exact atLoopEnd_looping h.store hlen hlen' _ _ _ h.lag

end

/-! ## The word at END (R235) -/

/-- What the word at END leaves in the loop registers. -/
theorem loopBack_plain {c : Cluster} (hg : c.loopLag = []) (a : Word) : loopBack a c =
    if atLoopEnd a c then
      (if (ioGet 0x4 c).toNat = 1 then ioSetBit 0x6 23 false (ioPut 0x4 (BitVec.ofNat 24 ((ioGet 0x4 c).toNat - 1)) c)
        else ioPut 0x4 (BitVec.ofNat 24 ((ioGet 0x4 c).toNat - 1)) c)
    else c := by
  have hput : ∀ (d : Cluster), d.loopLag = [] → ∀ r v, loopPut r v d = ioPut r v d := fun d hd r v => by
    rw [loopPut, lagFind, hd]
    rfl
  have hlag : (ioPut 0x4 (BitVec.ofNat 24 ((ioGet 0x4 c).toNat - 1)) c).loopLag = [] := hg
  rw [loopBack, loopGet_plain hg]
  dsimp only
  rw [hput c hg, hput _ hlag, loopGet_plain hlag]
  rfl

section
variable {n : Cl} {s : State} {c : Cluster} (hg : c.loopLag = [])
include hg

theorem loopBack_withDue (q : List RegWrite) (a : Word) : loopBack a (withDue q c) = withDue q (loopBack a c) := by
  have hT := beside_due q
  have hend : atLoopEnd a (withDue q c) = atLoopEnd a c := by
    unfold atLoopEnd
    rw [loopGet_beside hT, loopGet_beside hT]
  rw [loopBack_plain (c := withDue q c) hg, loopBack_plain hg, hend, ioGet_beside hT, ioPut_beside hT, ioSetBit_beside hT,
    apply_ite (withDue q), apply_ite (withDue q)]

/-- The fields of a cluster that the word at END does not touch of itself. -/
theorem loopBack_keeps {γ : Type} {g : Cluster → γ} (h : ∀ m c, g (withIo m c) = g c) (a : Word) :
    g (loopBack a c) = g c := by
  rw [loopBack_plain hg]
  exact reads_ite (reads_ite ((h _ _).trans (h _ _)) (h _ _)) rfl

/-- A word with one-cycle results completes, at END of a loop or elsewhere. -/
theorem wordDone_loops (hd : c.due = []) (ws : List (RegName × RegVal)) :
    wordDone n 1 none 0 (s.putCl n (laterAll 1 ws c)) =
      s.putCl n (evcEvent 0x02 1 (goneTo (nextPc c.pc c) 1 (landed ws (loopBack c.pc c)))) := by
  have hcyc : (loopBack c.pc c).cyc = c.cyc := loopBack_keeps hg (g := Cluster.cyc) (fun _ _ => rfl) _
  have hdue : (loopBack c.pc c).due = [] := (loopBack_keeps hg (g := Cluster.due) (fun _ _ => rfl) _).trans hd
  have hback : loopBack c.pc (laterAll 1 ws c) = laterAll 1 ws (loopBack c.pc c) := by
    rw [laterAll_eq, laterAll_eq, loopBack_withDue hg, hcyc]
  have hnext : nextPc c.pc (laterAll 1 ws c) = nextPc c.pc c := nextPc_beside (beside_due _) _ _
  have hpass : wordPass n 1 none 0 (s.putCl n (laterAll 1 ws c)) =
      s.putCl n (evcEvent 0x04 0 (landDue (goneTo (nextPc c.pc c) 1 (laterAll 1 ws (loopBack c.pc c))))) := by
    rw [wordPass, putCl_modCl, ← hback, ← hnext]
    simp only [goneTo, Nat.sub_self, BitVec.add_zero]
    rfl
  rw [wordDone, hpass, putCl_modCl, evcEvent_zero, landDue_goneTo_landed hdue _ _ (Nat.le_refl 1)]

end

/-- A word of a sequencer that issues words, whatever loop is active. -/
theorem issue_ready {n : Cl} {s : State} (hready : seqReady n s = true) (hvsync : (s.cl n).vsync = none)
    (hpair : (s.cl n).slotA = none)
    (hskip : (s.cl n).skipNext = false) (hgate : issueGate n 1 s = (true, s)) (f : Word → State → SeqRes) :
    issue n {} f s = wordEnd n 1 (s.cl n).pc s (f ((rsTop (s.cl n)).getD (nextPc (s.cl n).pc (s.cl n))) s) := by
  simp only [issue, issueWord, hvsync, hready, closePair_none hpair, hskip, hgate, modCl_eq, dAct_plain, putCl_cl_same,
    Option.isSome_none, Bool.not_true, Bool.false_eq_true, Bool.false_and, if_false]

section
variable {c : Cluster} (hg : c.loopLag = [])
include hg

theorem atLoopEnd_active (hact : ioBit 0x6 23 c = true) (hend : ioFld 0x6 13 0 c = c.pc.toNat) (hk : 1 ≤ (ioGet 0x4 c).toNat) :
    atLoopEnd c.pc c = true := by
  have hact' : bitOf 23 (ioGet 0x6 c) = true := hact
  have hend' : fld 13 0 (ioGet 0x6 c) = c.pc.toNat := hend
  rw [atLoopEnd, loopGet_plain hg, loopGet_plain hg, hact', hend', decide_eq_true rfl, decide_eq_true hk]
  rfl

theorem nextPc_loops {a : Word} (hat : atLoopEnd a c = true) (hk : 2 ≤ (ioGet 0x4 c).toNat) : nextPc a c = ioGet 0x5 c := by
  rw [nextPc, loopGet_plain hg, loopGet_plain hg, if_pos ⟨hat, hk⟩]

theorem nextPc_leaves (hk : (ioGet 0x4 c).toNat = 1) (a : Word) : nextPc a c = a + 1 := by
  rw [nextPc, loopGet_plain hg, if_neg fun h => Nat.ne_of_gt h.2 hk]

theorem loopBack_goes {a : Word} (hat : atLoopEnd a c = true) (hk : 2 ≤ (ioGet 0x4 c).toNat) :
    loopBack a c = ioPut 0x4 (BitVec.ofNat 24 ((ioGet 0x4 c).toNat - 1)) c := by
  rw [loopBack_plain hg, if_pos hat, if_neg (Nat.ne_of_gt hk)]

theorem loopBack_ends {a : Word} (hat : atLoopEnd a c = true) (hk : (ioGet 0x4 c).toNat = 1) :
    loopBack a c = ioSetBit 0x6 23 false (ioPut 0x4 (BitVec.ofNat 24 ((ioGet 0x4 c).toNat - 1)) c) := by
  rw [loopBack_plain hg, if_pos hat, if_pos hk]

end

/-- The word that goes back to START counts as any word does (R494). -/
theorem goesTo_start (start : Word) (c : Cluster) : evcEvent 0x02 1 (goneTo start 1 c) = { goOn c with pc := start } := by
  show evcEvent 0x02 1 ((fun c => { c with pc := start }) (passOver c)) = _
  exact evcEvent_beside (beside_pc start) 0x02 1 (passOver c)

theorem goOn_of_pc {c : Cluster} {a : Word} (h : c.pc = a) : evcEvent 0x02 1 (goneTo (a + 1) 1 c) = goOn c := by
  rw [← h, goOn, passOver_eq]

/-- An ALU word of a sequencer that issues words, whatever loop is active. -/
theorem exec_aluAdd_ready {n : Cl} {s : State} (hready : seqReady n s = true) (hvsync : (s.cl n).vsync = none)
    (hpair : (s.cl n).slotA = none) (hskip : (s.cl n).skipNext = false) (hgate : issueGate n 1 s = (true, s))
    (hdue : (s.cl n).due = []) (hlag : (s.cl n).loopLag = []) (rd rs rt : Reg) :
    exec (.aluAdd n rd rs rt) s = .next (s.putCl n (evcEvent 0x02 1 (goneTo (nextPc (s.cl n).pc (s.cl n)) 1
      (landReg (loopBack (s.cl n).pc (s.cl n)) ⟨xName (s.cl n) rd, .w (xGet (s.cl n) rs + xGet (s.cl n) rt), 0⟩)))) := by
  show Host.Outcome.next (issue n {} (fun _ t => .go (t.modCl n fun c =>
    dueAdd 1 [(xName c rd, .w (xGet c rs + xGet c rt))] c)) s) = _
  rw [issue_ready hready hvsync hpair hskip hgate, SeqRes.go, wordEnd, modCl_eq, dueAdd_calm hdue, wordDone_loops hlag hdue]
  rfl

/-- A loop has at least the word behind LOOP. -/
theorem loop_len_pos {len : BitVec 9} (h : len ≠ 0) : 0 < len.toNat :=
  Nat.pos_of_ne_zero fun h0 => h (BitVec.eq_of_toNat_eq h0)

theorem loop_len_lt (len : BitVec 9) : len.toNat < 2 ^ 14 := Nat.lt_of_lt_of_le len.isLt (by decide)

end Sys2Proof.Machine

namespace Sys2Proof.Proofs

open Sys2Proof.Machine Sys2Proof.Claims

/-- Settles O13: the loop registers before the first pass, and their update as the word at END completes. -/
theorem loopsRunTheirWords : Obligations.LoopsRunTheirWords := by
  unfold Obligations.LoopsRunTheirWords
  refine ⟨fun n rs count len s h hlen => ⟨?loop, ?loopi⟩, fun n rd rs rt s => ?_⟩
  case loop =>
    show Host.Outcome.next (issue n {} (fun _ t => loopRes n (xGet (t.cl n) rs) len.toNat (longWord 0x21 0 rs len.toNat) t) s) = _
    rw [issue_loopRes h (f := fun _ t => loopRes n (xGet (t.cl n) rs) len.toNat (longWord 0x21 0 rs len.toNat) t)
      (xGet (s.cl n) rs) (loop_len_pos hlen) (loop_len_lt len) fun _ => rfl]
    rfl
  case loopi =>
    have hcount : count.setWidth 24 = BitVec.ofNat 24 count.toNat := (BitVec.ofNat_toNat ..).symm
    show Host.Outcome.next (issue n {} (fun _ t =>
      loopRes n (count.setWidth 24) len.toNat (longWord 0x22 0 0 (count.toNat * 2 ^ 9 + len.toNat)) t) s) = _
    rw [issue_loopRes h (f := fun _ t =>
        loopRes n (count.setWidth 24) len.toNat (longWord 0x22 0 0 (count.toNat * 2 ^ 9 + len.toNat)) t)
      (count.setWidth 24) (loop_len_pos hlen) (loop_len_lt len) fun _ => rfl, hcount]
    rfl
  · intro c hready hvsync hpair hskip hpc hdue hlag hlate hcells hie hact hend k d
    have hgate := issueGate_clear hlate hpc hie hcells 1
    have hword := exec_aluAdd_ready hready hvsync hpair hskip hgate hdue hlag rd rs rt
    have hland : ∀ v x, landReg (ioPut 0x4 x c) ⟨xName c rd, .w v, 0⟩ = xSet rd v (ioPut 0x4 x c) := fun v x =>
      landReg_xName (ioGet_ioPut_ne x c (by decide)) rd 0 v
    refine ⟨fun hk => ?_, fun hk => ?_⟩
    · have hat := atLoopEnd_active hlag hact hend (Nat.le_of_succ_le hk)
      rw [hword, nextPc_loops hlag hat hk, goesTo_start, loopBack_goes hlag hat hk, hland]
    · have hat := atLoopEnd_active hlag hact hend (Nat.le_of_eq hk.symm)
      have hpc : (landReg (loopBack c.pc c) ⟨xName c rd, .w (xGet c rs + xGet c rt), 0⟩).pc = c.pc :=
        (landReg_pc ..).trans (loopBack_keeps hlag (g := Cluster.pc) (fun _ _ => rfl) _)
      have hbit := ioSetBit_beside (beside_landReg_xName c rd (xGet c rs + xGet c rt) 0) 0x6 23 false
        (ioPut 0x4 (BitVec.ofNat 24 (k - 1)) c)
      rw [hword, nextPc_leaves hlag hk, goOn_of_pc hpc, loopBack_ends hlag hat hk, ← hbit, hland]

end Sys2Proof.Proofs
end
section
/-!
PROOFS. Interrupt enable, waits, interrupt inputs and the watchdog of a sequencer (O16).
-/
namespace Sys2Proof.Machine

open Sys2Proof.Claims

section
variable {n : Cl} {s : State}

/-- A fault-stopped sequencer issues nothing (R263). -/
theorem issue_stopped (hstop : faultStopped (s.cl n) = true) (hvsync : (s.cl n).vsync = none) (w : WordInfo)
    (f : Word → State → SeqRes) : issue n w f s = s := by
  have hready : seqReady n s = false := by
    rw [seqReady_eq, hstop, Bool.not_true, Bool.and_false, Bool.false_and, Bool.false_and]
  simp only [issue, issueWord, hvsync, hready, Option.isSome_none, Bool.not_false, Bool.false_eq_true, if_false, if_true]

theorem exec_aluAdd_stopped (hstop : faultStopped (s.cl n) = true) (hvsync : (s.cl n).vsync = none) (rd rs rt : Reg) :
    exec (.aluAdd n rd rs rt) s = .next s := by
  show Host.Outcome.next (issue n {} (fun _ t => .go (t.modCl n fun c =>
    dueAdd 1 [(xName c rd, .w (xGet c rs + xGet c rt))] c)) s) = _
  rw [issue_stopped hstop hvsync]

theorem exec_bra_stopped (hstop : faultStopped (s.cl n) = true) (hvsync : (s.cl n).vsync = none) (off : BitVec 17) :
    exec (.bra n off) s = .next s := by
  show Host.Outcome.next (issue n { skip := 2 }
    (fun _ t => .done t (some ⟨(t.cl n).pc + off.signExtend 24, true⟩) 1 none) s) = _
  rw [issue_stopped hstop hvsync]

/-- VSYNC where the sequencer issues words (R238). -/
theorem vsyncWord_now (h : Issues n s) : vsyncWord n s =
    s.putCl n (if vsyncWaits (s.cl n) (s.cl n).nextGid then { s.cl n with vsync := some (s.cl n).nextGid } else goOn (s.cl n)) := by
  have hgo := issue_goOn h (f := fun _ t => .go t) (c := s.cl n) (fun _ => by rw [putCl_cl_same]) h.loop h.lag h.calm
  simp only [issue, h.vsync, Option.isSome_none, Bool.false_eq_true, if_false] at hgo
  simp only [vsyncWord, h.vsync, closePair_none h.pair, h.ready, h.skip, Bool.not_false, Bool.true_and,
    decide_eq_true h.store, hgo]
  split <;> rfl

end

theorem setIe_loop (b : Bool) (c : Cluster) : ioBit 0x6 23 (setIe b c) = ioBit 0x6 23 c :=
  (ioBit_congr (c := setIe b c) (d := ioSetBit 0x10 23 b c) rfl ..).trans (ioBit_ioPut_ne (by decide) _ _ _)

def withSeen (seen : Bool) (c : Cluster) : Cluster := { c with ieSeen := seen }

/-- The fields of a cluster that an interrupt-enable word does not touch. -/
theorem setIe_keeps {γ : Type} {g : Cluster → γ} (hio : ∀ m c, g (withIo m c) = g c) (hseen : ∀ b c, g (withSeen b c) = g c)
    (b : Bool) (c : Cluster) : g (setIe b c) = g c :=
  (hseen _ _).trans (hio _ _)

theorem setIe_lag (b : Bool) (c : Cluster) : (setIe b c).loopLag = c.loopLag :=
  setIe_keeps (g := Cluster.loopLag) (fun _ _ => rfl) (fun _ _ => rfl) b c

theorem setIe_due (b : Bool) (c : Cluster) : (setIe b c).due = c.due :=
  setIe_keeps (g := Cluster.due) (fun _ _ => rfl) (fun _ _ => rfl) b c

def withIeAt (k : Option Nat) (c : Cluster) : Cluster := { c with ieAt := k }

theorem withIeAt_lag (k : Option Nat) (c : Cluster) : (withIeAt k c).loopLag = c.loopLag := rfl

theorem withIeAt_due (k : Option Nat) (c : Cluster) : (withIeAt k c).due = c.due := rfl

theorem withIeAt_loop (k : Option Nat) (c : Cluster) : ioBit 0x6 23 (withIeAt k c) = ioBit 0x6 23 c := rfl

/-- A cluster in fault-stop with a cause (R263). -/
def stoppedWith (cause : Nat) (d : Cluster) : Cluster :=
  ioPut 0x1E (BitVec.ofNat 24 cause) { d with groups := [], forming := [], failCause := true }

theorem stoppedWith_fields (cause : Nat) (d : Cluster) :
    ioGet 0x1E (stoppedWith cause d) = BitVec.ofNat 24 cause ∧ (stoppedWith cause d).groups = [] ∧
      (stoppedWith cause d).forming = [] ∧ (stoppedWith cause d).failCause = true ∧ (stoppedWith cause d).vsync = d.vsync :=
  ⟨ioGet_ioPut_self .., rfl, rfl, rfl, rfl⟩

def abandonAll (c : Cluster) : Cluster := (List.range 8).foldl (fun d k => setAbandon k d) c

theorem abandonAll_vsync (c : Cluster) : (abandonAll c).vsync = c.vsync := 
  foldl_keeps Cluster.vsync (f := fun d k => setAbandon k d) (fun _ _ => rfl) (List.range 8) c

theorem faultStop_eq (n : Cl) (cause : Nat) (s : State) :
    faultStop n cause s = s.putCl n (stoppedWith cause (abandonAll (goTo (s.cl n).pc (landAll (s.cl n))))) := by
  unfold faultStop
  rw [modCl_eq]
  unfold stoppedWith abandonAll
  rfl

end Sys2Proof.Machine

namespace Sys2Proof.Proofs

open Sys2Proof.Machine Sys2Proof.Claims

/-- Settles O16: a word that only changes its cluster goes on, and fault-stop leaves a sequencer that issues nothing. -/
theorem controlWordsInterruptInputsAndWatchdog : Obligations.ControlWordsInterruptInputsAndWatchdog := by
  unfold Obligations.ControlWordsInterruptInputsAndWatchdog
  refine ⟨fun n s h => ⟨?clrIe, ?setIe, ?wait, fun hbuf => ?sync, ?vsync⟩,
    fun n k s hclk hin => ?input, fun n rd rs rt s hrun hcount => ?watchdog⟩
  case clrIe =>
    show Host.Outcome.next (issue n {} (fun _ t => .go (t.modCl n (setIe false))) s) = _
    rw [issue_goOn h (c := setIe false (s.cl n)) (fun _ => by rw [modCl_eq]) ((setIe_loop ..).trans h.loop)
      ((setIe_lag ..).trans h.lag) ((setIe_due ..).trans h.calm)]
    rfl
  case setIe =>
    show Host.Outcome.next (issue n {} (fun _ t => .go (t.modCl n fun c => withIeAt (some (c.cyc + 1)) (setIe true c))) s) = _
    rw [issue_goOn h (f := fun _ t => .go (t.modCl n fun c => withIeAt (some (c.cyc + 1)) (setIe true c)))
      (c := withIeAt (some ((s.cl n).cyc + 1)) (setIe true (s.cl n))) (fun _ => by rw [modCl_eq])
      ((withIeAt_loop ..).trans ((setIe_loop ..).trans h.loop)) ((withIeAt_lag ..).trans ((setIe_lag ..).trans h.lag))
      ((withIeAt_due ..).trans ((setIe_due ..).trans h.calm))]
    rfl
  case wait =>
    show Host.Outcome.next (issue n {} (fun _ t => .go (t.modCl n fun c => { c with waiting := true })) s) = _
    rw [issue_goOn h (c := { s.cl n with waiting := true }) (fun _ => by rw [modCl_eq]) h.loop h.lag h.calm]
  case sync =>
    show Host.Outcome.next (issue n {} (fun _ t => if (t.cl n).sbuf.isEmpty then .go t else .hold) s) = _
    rw [issue_goOn h (f := fun _ t => if (t.cl n).sbuf.isEmpty then .go t else .hold) (c := s.cl n) ?_ h.loop h.lag h.calm]
    intro _
    rw [hbuf, putCl_cl_same]
    rfl
  case vsync =>
    show Host.Outcome.next (vsyncWord n s) = _
    rw [vsyncWord_now h]
    rfl
  case input =>
    show onIsland n s _ = _
    rw [onIsland_eq hclk, if_pos (List.contains_iff_mem.mpr hin)]
    rfl
  case watchdog =>
    have hexp : exec (.watchdogExpiry n) s = .next (faultStop n 4 s) := by
      show Host.Outcome.next
        (if !faultStopped (s.cl n) && decide (ioFld 0x1D 7 0 (s.cl n) ≤ ioFld 0x1D 15 8 (s.cl n)) then _ else _) = _
      rw [faultStopped, hrun, decide_eq_true hcount]
      rfl
    rw [hexp, faultStop_eq]
    have hv : (abandonAll (goTo (s.cl n).pc (landAll (s.cl n)))).vsync = none := abandonAll_vsync _
    generalize abandonAll (goTo (s.cl n).pc (landAll (s.cl n))) = d at hv ⊢
    obtain ⟨hcause, hgroups, hforming, hfail, hvsync⟩ := stoppedWith_fields 4 d
    have hstop : faultStopped ((s.putCl n (stoppedWith 4 d)).cl n) = true := by
      rw [putCl_cl_self, faultStopped, hcause]
      rfl
    have hfree : ((s.putCl n (stoppedWith 4 d)).cl n).vsync = none := by rw [putCl_cl_self, hvsync, hv]
    exact ⟨stoppedWith 4 d, rfl, hcause, hgroups, hforming, hfail, exec_aluAdd_stopped hstop hfree ..,
      exec_bra_stopped hstop hfree 0⟩

end Sys2Proof.Proofs
end
section
/-!
PROOFS. Floating-point words of a sequencer: results, flags and traps (O22).
-/
namespace Sys2Proof.Machine

open Sys2Proof.Claims

/-! ## Flags and operands (R212, R240) -/

theorem setWidth_eq_ofNat_mod (fl : Fl) : fl.setWidth 5 = BitVec.ofNat 5 (fl.toNat % 32) := by
  apply BitVec.eq_of_toNat_eq
  rw [BitVec.toNat_setWidth, BitVec.toNat_ofNat, Nat.mod_mod]

theorem fpAccrue_eq (fl : Fl) : fpAccrue fl = flagsDue fl := by
  have hzero : fl.setWidth 5 = 0 ↔ fl.toNat % 32 = 0 := by
    rw [← BitVec.toNat_inj, BitVec.toNat_setWidth]
    rfl
  rw [fpAccrue, flagsDue]
  by_cases h0 : fl.toNat % 32 = 0
  · rw [if_pos h0, if_pos (hzero.mpr h0)]
  · rw [if_neg h0, if_neg (mt hzero.mp h0), setWidth_eq_ofNat_mod]

theorem landed_append (ws ws' : List (RegName × RegVal)) (c : Cluster) : landed (ws ++ ws') c = landed ws' (landed ws c) :=
  List.foldl_append

/-- Flags that a word raises accrue as it completes. -/
theorem landed_flagsDue (fl : Fl) (c : Cluster) : landed (flagsDue fl) c = accrue fl c := by
  rw [flagsDue, accrue]
  split
  · rfl
  · have hwide : (BitVec.ofNat 5 (fl.toNat % 32)).setWidth 24 = BitVec.ofNat 24 (fl.toNat % 32) := by
      apply BitVec.eq_of_toNat_eq
      rw [BitVec.toNat_setWidth, BitVec.toNat_ofNat, BitVec.toNat_ofNat, Nat.mod_mod]
    show ioPut 0x1 (ioGet 0x1 c ||| (BitVec.ofNat 5 (fl.toNat % 32)).setWidth 24) c = _
    rw [hwide]

theorem fArg_eq (w : FWidth) (c : Cluster) (r : Nat) : fArg w c r = fOperand w c r := by
  cases w with
  | f24 =>
    apply BitVec.eq_of_toNat_eq
    show (((fGet c r).setWidth 24).setWidth 48).toNat = (fGet c r &&& 0xFFFFFF).toNat
    rw [BitVec.toNat_and, BitVec.toNat_setWidth, BitVec.toNat_setWidth]
    exact (Nat.mod_eq_of_lt (Nat.lt_of_lt_of_le (Nat.mod_lt _ (by decide)) (by decide))).trans
      (Nat.and_two_pow_sub_one_eq_mod _ 24).symm
  | f48 => rfl

theorem fwFmt_eq (w : FWidth) : fwFmt w = if w = .f24 then f24 else f48 := by
  cases w <;> rfl

theorem fopVis_eq (w : FWidth) : fopVis w = 3 + if w = .f24 then 0 else 1 := by
  cases w <;> rfl

theorem fmaVis_eq (w : FWidth) : fmaVis w = 5 + if w = .f24 then 0 else 1 := by
  cases w <;> rfl

/-- With no flag enabled no word traps (R240). -/
theorem fpTrap_calm {c : Cluster} (h : ioFld 0x1 12 8 c = 0) (fl : Fl) : fpTrap fl c = none := by
  simp [fpTrap, h]

/-- A flag that is enabled traps (R240). -/
theorem fpTrap_enabled {c : Cluster} {fl : Fl} {i : Nat} (hi : i < 5) (hraised : bitOf i fl = true)
    (henabled : bitOf (8 + i) (ioGet 0x1 c) = true) : fpTrap fl c = some (fl.toNat % 32) := by
  have hbit : ioFld 0x1 12 8 c / 2 ^ i % 2 = 1 := by
    have htest : (fld 12 8 (ioGet 0x1 c)).testBit i = true := by
      rw [testBit_fld, decide_eq_true (show i < 12 + 1 - 8 from hi), henabled]
      rfl
    rwa [Nat.testBit_eq_decide_div_mod_eq, decide_eq_true_eq] at htest
  have hany : ((List.range 5).any fun i => bitOf i fl && decide (ioFld 0x1 12 8 c / 2 ^ i % 2 = 1)) = true :=
    List.any_eq_true.mpr ⟨i, List.mem_range.mpr hi, by rw [hraised, hbit]; rfl⟩
  rw [fpTrap]
  simp only [hany, Bool.true_or, if_true]

/-! ## Words (R240) -/

section
variable {n : Cl} {s : State} (h : Issues n s)
include h

/-- A floating-point word completes with its results and its flags under way. -/
theorem fpWord_done (hf : FpReady n s) (k : Nat) (f : Cluster → List (RegName × RegVal) × Fl) : fpWord n k f s =
    .next (wordDone n 1 none 0 (s.putCl n (laterAll k ((f (s.cl n)).1 ++ flagsDue (f (s.cl n)).2) (s.cl n)))) := by
  rw [fpWord, issue_now h _ _ (.inr hf.own)]
  simp only [modCl_eq, dAct_plain, putCl_cl_same, fpTrap_calm hf.calm, dueAdd_calm h.calm, fpAccrue_eq, wordEnd]

theorem fpWord_later (hf : FpReady n s) {k : Nat} (hk : 1 < k) (f : Cluster → List (RegName × RegVal) × Fl) : fpWord n k f s =
    .next (s.putCl n (goOn (laterAll k ((f (s.cl n)).1 ++ flagsDue (f (s.cl n)).2) (s.cl n)))) := by
  rw [fpWord_done h hf, wordDone_later h.loop h.lag n s hk]

theorem fpWord_landed (hf : FpReady n s) (f : Cluster → List (RegName × RegVal) × Fl) : fpWord n 1 f s =
    .next (s.putCl n (goOn (accrue (f (s.cl n)).2 (landed (f (s.cl n)).1 (s.cl n))))) := by
  rw [fpWord_done h hf, wordDone_landed h.calm h.loop h.lag, landed_append, landed_flagsDue]

/-- A floating-point word of one cycle that raises an enabled flag traps behind its results (R258). -/
theorem fpWord_traps (hown : ioBit 0x10 20 (s.cl n) = true) {f : Cluster → List (RegName × RegVal) × Fl} {d : Nat}
    (htrap : fpTrap (f (s.cl n)).2 (s.cl n) = some d) {u : State}
    (hu : syncTrap n 7 0 d 0 ((s.cl n).pc + 1) (s.putCl n (goOn (accrue (f (s.cl n)).2 (landed (f (s.cl n)).1 (s.cl n))))) =
      some u) :
    fpWord n 1 f s = .next u := by
  have hloop : atLoopEnd (s.cl n).pc (laterAll 1 ((f (s.cl n)).1 ++ flagsDue (f (s.cl n)).2) (s.cl n)) = false :=
    atLoopEnd_none h.loop h.lag
  have hpc : ∀ fl ws, (goOn (accrue fl (landed ws (s.cl n)))).pc = (s.cl n).pc + 1 := fun fl ws => by
    have hflags : (accrue fl (landed ws (s.cl n))).pc = (s.cl n).pc := by
      rw [← landed_flagsDue, landed_pc, landed_pc]
    rw [goOn, evcEvent_blind (g := Cluster.pc) fun _ _ _ _ => rfl, passOver, hflags]
  rw [fpWord, issue_now h _ _ (.inr hown)]
  simp only [modCl_eq, dAct_plain, putCl_cl_same, htrap, dueAdd_calm h.calm, fpAccrue_eq, wordEnd, putCl_cl_self, hloop,
    Bool.false_eq_true, if_false, wordDone_landed h.calm h.loop h.lag, landed_append, landed_flagsDue, hpc, wordTrap, hu,
    Option.getD_some]

end

/-! ## Scalar words (R219) -/

section
variable {n : Cl} {s : State} (h : Issues n s) (hf : FpReady n s)

include h hf

theorem fopRes_later (v : VOp) (w : FWidth) (fd fs ft : Reg) {r : DWord × Fl}
    (hr : fElem v (if w = .f24 then f24 else f48) (ioFld 0x1 17 16 (s.cl n)) (fOperand w (s.cl n) fs)
      (fOperand w (s.cl n) ft) 0 0 = r) :
    fopRes n v (fopVis w) w fd fs ft s = .next (s.putCl n (goOn
      (laterAll (3 + if w = .f24 then 0 else 1) ((.f fd, .f r.1) :: flagsDue r.2) (s.cl n)))) := by
  have hvis : 1 < fopVis w := by cases w <;> decide
  rw [fopRes, fpWord_later h hf hvis]
  simp only [fArg_eq, fwFmt_eq, fcsrRnd, hr, fopVis_eq, List.singleton_append]

theorem fmaRes_later (v : VOp) (w : FWidth) (fd fs ft : Reg) {r : DWord × Fl}
    (hr : fElem v (if w = .f24 then f24 else f48) (ioFld 0x1 17 16 (s.cl n)) (fOperand w (s.cl n) fd) (fOperand w (s.cl n) fs)
      (fOperand w (s.cl n) ft) 0 = r) :
    fmaRes n v w fd fs ft s = .next (s.putCl n (goOn
      (laterAll (5 + if w = .f24 then 0 else 1) ((.f fd, .f r.1) :: flagsDue r.2) (s.cl n)))) := by
  have hvis : 1 < fmaVis w := by cases w <;> decide
  rw [fmaRes, fpWord_later h hf hvis]
  simp only [fArg_eq, fwFmt_eq, fcsrRnd, hr, fmaVis_eq, List.singleton_append]

theorem fopRes_landed (v : VOp) (w : FWidth) (fd fs ft : Reg) {r : DWord × Fl}
    (hr : fElem v (if w = .f24 then f24 else f48) (ioFld 0x1 17 16 (s.cl n)) (fOperand w (s.cl n) fs)
      (fOperand w (s.cl n) ft) 0 0 = r) :
    fopRes n v 1 w fd fs ft s = .next (s.putCl n (goOn (accrue r.2 (fSet fd r.1 (s.cl n))))) := by
  rw [fopRes, fpWord_landed h hf]
  simp only [fArg_eq, fwFmt_eq, fcsrRnd, hr]
  rfl

end

end Sys2Proof.Machine

namespace Sys2Proof.Proofs

open Sys2Proof.Machine Sys2Proof.Claims

/-- Settles O22: a word's results and flags are under way as the vector order gives them; an enabled flag traps behind them. -/
theorem scalarFpWordsAndTheirTraps : Obligations.ScalarFpWordsAndTheirTraps := by
  unfold Obligations.ScalarFpWordsAndTheirTraps
  refine ⟨fun n w fd fs ft s h hf => ⟨?ops, ?abs, ?neg, ?mov, ?fma, ?fms, ?div, ?rcp, ?sqrt, ?rsqrt⟩,
    fun n w fd fs ft s h hown => ?traps⟩
  case ops =>
    simp only [scalarOps, List.forall_mem_cons]
    exact ⟨fopRes_later h hf .vadd w fd fs ft rfl, fopRes_later h hf .vsub w fd fs ft rfl,
      fopRes_later h hf .vmul w fd fs ft rfl,
      fopRes_later h hf .vmin w fd fs ft rfl, fopRes_later h hf .vmax w fd fs ft rfl, List.forall_mem_nil _⟩
  case abs => exact fopRes_later h hf .vabs w fd fs fs rfl
  case neg => exact fopRes_later h hf .vneg w fd fs fs rfl
  case mov => exact fopRes_later h hf .vmov w fd fs fs rfl
  case fma => exact fmaRes_later h hf .vfma w fd fs ft rfl
  case fms => exact fmaRes_later h hf .vfms w fd fs ft rfl
  case div => exact fopRes_landed h hf .vdiv w fd fs ft rfl
  case rcp => exact fopRes_landed h hf .vrcp w fd fs fs rfl
  case sqrt => exact fopRes_landed h hf .vsqrt w fd fs fs rfl
  case rsqrt => exact fopRes_landed h hf .vrsqrt w fd fs fs rfl
  case traps =>
    intro c f r i hi hraised henabled t u hu
    show fpWord n 1 (fun c => ([(.f fd, .f (fElem .vdiv (fwFmt w) (fcsrRnd c) (fArg w c fs) (fArg w c ft) 0 0).1)],
      (fElem .vdiv (fwFmt w) (fcsrRnd c) (fArg w c fs) (fArg w c ft) 0 0).2)) s = _
    have hr : fElem .vdiv (fwFmt w) (fcsrRnd (s.cl n)) (fArg w (s.cl n) fs) (fArg w (s.cl n) ft) 0 0 = r := by
      rw [fwFmt_eq, fArg_eq, fArg_eq]
      rfl
    refine fpWord_traps h hown (d := r.2.toNat % 32) ?_ ?_
    · dsimp only
      rw [hr, fpTrap_enabled hi hraised henabled]
    · dsimp only
      rw [hr]
      exact hu

end Sys2Proof.Proofs
end
section
/-!
PROOFS. Floating-point compares, conversions, moves and four-lane words of a sequencer (O23).
-/
namespace Sys2Proof.Machine

open Sys2Proof.Claims

/-! ## Halves of an f register (R212) -/

theorem setFld_low (v : Word) (old : DWord) : setFld 23 0 v.toNat old = old.extractLsb' 24 24 ++ v := by
  refine BitVec.eq_of_getLsbD_eq fun j hj => ?_
  have hbit := bitOf_setFld (hi := 23) (lo := 0) (Nat.zero_le _) (by decide) v.toNat j old
  rw [BitVec.getLsbD_append]
  by_cases hlow : j < 24
  · have hin : 0 ≤ j ∧ j ≤ 23 := ⟨Nat.zero_le _, Nat.le_of_lt_succ hlow⟩
    rw [if_pos hin] at hbit
    rw [if_pos hlow]
    exact hbit
  · have hout : ¬ (0 ≤ j ∧ j ≤ 23) := fun h => hlow (Nat.lt_succ_of_le h.2)
    have hback : 24 + (j - 24) = j := by omega
    rw [if_neg hout] at hbit
    rw [if_neg hlow, BitVec.getLsbD_extractLsb', hback, decide_eq_true (show j - 24 < 24 by omega), Bool.true_and]
    exact hbit

theorem setFld_high (v : Word) (old : DWord) : setFld 47 24 v.toNat old = v ++ old.extractLsb' 0 24 := by
  refine BitVec.eq_of_getLsbD_eq fun j hj => ?_
  have hbit := bitOf_setFld (hi := 47) (lo := 24) (by decide) (by decide) v.toNat j old
  rw [BitVec.getLsbD_append]
  by_cases hlow : j < 24
  · have hout : ¬ (24 ≤ j ∧ j ≤ 47) := fun h => Nat.not_le.mpr hlow h.1
    rw [if_neg hout] at hbit
    rw [if_pos hlow, BitVec.getLsbD_extractLsb', decide_eq_true hlow, Bool.true_and, Nat.zero_add]
    exact hbit
  · have hin : 24 ≤ j ∧ j ≤ 47 := ⟨Nat.le_of_not_lt hlow, Nat.le_of_lt_succ hj⟩
    rw [if_pos hin] at hbit
    rw [if_neg hlow]
    exact hbit

/-- An f register with one of its halves replaced. -/
def halfSet (r : Nat) (high : Bool) (v : Word) (c : Cluster) : Cluster :=
  fSet r (if high then v ++ (smAt 0 c.fregs r).extractLsb' 0 24 else (smAt 0 c.fregs r).extractLsb' 24 24 ++ v) c

theorem landed_fLow (r : Nat) (v : Word) (c : Cluster) : landed [(.fLow r, .w v)] c = halfSet r false v c := by
  show fSet r (setFld 23 0 v.toNat (fGet c r)) c = _
  rw [setFld_low]
  rfl

theorem landed_fHigh (r : Nat) (v : Word) (c : Cluster) : landed [(.fHigh r, .w v)] c = halfSet r true v c := by
  show fSet r (setFld 47 24 v.toNat (fGet c r)) c = _
  rw [setFld_high]
  rfl

/-- A lane of a short vector is a half of an f register (R212). -/
theorem landed_lane (v : VReg) (lane : Fin 4) (x : Word) (c : Cluster) :
    landed [(laneName v lane, .w x)] c = halfSet (2 * v.val + lane.val / 2) (decide (lane.val % 2 = 1)) x c := by
  unfold laneName
  by_cases heven : lane.val % 2 = 0
  · rw [if_pos heven, landed_fLow, decide_eq_false (by omega)]
  · rw [if_neg heven, landed_fHigh, decide_eq_true (by omega)]

/-! ## Compares and conversions (R217, R219) -/

theorem ccBits_eq_flags : ∀ u c v n z : Bool, ccBits u c v n z = (flags u c v n z).setWidth 5 := by decide

section
variable {n : Cl} {s : State} (h : Issues n s) (hf : FpReady n s)
include h hf

theorem fcvtRes_later (fd : Reg) (f : Cluster → DWord × Fl) {r : DWord × Fl} (hr : f (s.cl n) = r) :
    fcvtRes n fd f s = .next (s.putCl n (goOn (laterAll 3 ((.f fd, .f r.1) :: flagsDue r.2) (s.cl n)))) := by
  rw [fcvtRes, fpWord_later h hf (by decide), hr, List.singleton_append]

theorem fcvtXRes_later (rd : Reg) (f : Cluster → DWord × Fl) {r : DWord × Fl} (hr : f (s.cl n) = r) :
    fcvtXRes n rd f s =
      .next (s.putCl n (goOn (laterAll 3 ((xName (s.cl n) rd, .w (r.1.setWidth 24)) :: flagsDue r.2) (s.cl n)))) := by
  rw [fcvtXRes, fpWord_later h hf (by decide), hr, List.singleton_append]

/-! ## Four lanes (R212, R240) -/

omit h hf in
theorem vRes_lanes (vd : VReg) (e : Nat → DWord × Fl) :
    (vRes vd (((List.range 4).map e).map fun x => x.1.setWidth 24), (((List.range 4).map e).map (·.2)).foldl (· ||| ·) 0) =
      fourLanes vd e := by
  show (_, 0#6 ||| (e 0).2 ||| (e 1).2 ||| (e 2).2 ||| (e 3).2) = _
  rw [BitVec.zero_or]
  rfl

/-- A four-lane word whose results come later. -/
theorem vop4Res_later (v : VOp) {k : Nat} (hk : 1 < k) (vd : VReg) (a b d : Cluster → Nat → DWord) {e : Nat → DWord × Fl}
    (he : ∀ i, fElem v f24 (ioFld 0x1 17 16 (s.cl n)) (a (s.cl n) i) (b (s.cl n) i) (d (s.cl n) i) 0 = e i) :
    vop4Res n v k vd a b d s = .next (s.putCl n (goOn
      (laterAll k ((fourLanes vd e).1 ++ flagsDue (fourLanes vd e).2) (s.cl n)))) := by
  rw [vop4Res, fpWord_later h hf hk, ← vRes_lanes]
  simp only [fcsrRnd, he]

/-- A four-lane word whose results come at the end of its stall. -/
theorem vop4Res_landed (v : VOp) (vd : VReg) (a b d : Cluster → Nat → DWord) {e : Nat → DWord × Fl}
    (he : ∀ i, fElem v f24 (ioFld 0x1 17 16 (s.cl n)) (a (s.cl n) i) (b (s.cl n) i) (d (s.cl n) i) 0 = e i) :
    vop4Res n v 1 vd a b d s = .next (s.putCl n (goOn (accrue (fourLanes vd e).2 (landed (fourLanes vd e).1 (s.cl n))))) := by
  rw [vop4Res, fpWord_landed h hf, ← vRes_lanes]
  simp only [fcsrRnd, he]

end

end Sys2Proof.Machine

namespace Sys2Proof.Proofs

open Sys2Proof.Machine Sys2Proof.Claims

/-- Settles O23: conversions and lanes are the vector orders' functions, and a move writes the half that its name says. -/
theorem fpConversionsMovesAndLanes : Obligations.FpConversionsMovesAndLanes := by
  unfold Obligations.FpConversionsMovesAndLanes
  refine ⟨fun n w sig rd rs vv lane s h hf => ⟨?cmp, ?f24f48, ?f48f24, ?i24f24, ?i24f48, ?f24i24, ?f48i24, ?low, ?high,
    ?xlow, ?xhigh, ?write, ?read⟩, fun n vd va vb s h hf => ⟨?ops, ?fma, ?fms, ?div, ?rcp, ?sqrt, ?rsqrt⟩⟩
  case cmp =>
    show fpWord n 3 (fun c => ([(.cc, .cc (ccFcmp (fwFmt w) sig (fArg w c rd) (fArg w c rs)).1)],
      (ccFcmp (fwFmt w) sig (fArg w c rd) (fArg w c rs)).2)) s = _
    rw [fpWord_later h hf (by decide), fArg_eq, fArg_eq, fwFmt_eq, ccFcmp, ccBits_eq_flags]
    rfl
  case f24f48 => exact fcvtRes_later h hf rd (fun c => fConv f24 f48 (fcsrRnd c) (fArg .f24 c rs)) (by rw [fArg_eq]; rfl)
  case f48f24 => exact fcvtRes_later h hf rd (fun c => fConv f48 f24 (fcsrRnd c) (fArg .f48 c rs)) rfl
  case i24f24 => exact fcvtRes_later h hf rd (fun c => intToF f24 (fcsrRnd c) 0 (xGet c rs).toInt) rfl
  case i24f48 => exact fcvtRes_later h hf rd (fun c => intToF f48 (fcsrRnd c) 0 (xGet c rs).toInt) rfl
  case f24i24 =>
    exact fcvtXRes_later h hf rd (fun c => fToInt f24 (fcsrRnd c) 24 false true 0 (fArg .f24 c rs)) (by rw [fArg_eq]; rfl)
  case f48i24 => exact fcvtXRes_later h hf rd (fun c => fToInt f48 (fcsrRnd c) 24 false true 0 (fArg .f48 c rs)) rfl
  case low =>
    show regWord n 1 { fp := true } (fun c => [(.fLow rd, .w (xGet c rs))]) s = _
    rw [regWord_landed h rfl rfl (.inr hf.own), landed_fLow]
    rfl
  case high =>
    show regWord n 1 { fp := true } (fun c => [(.fHigh rd, .w (xGet c rs))]) s = _
    rw [regWord_landed h rfl rfl (.inr hf.own), landed_fHigh]
    rfl
  case xlow =>
    show regWord n 1 { fp := true } (fun c => [(xName c rd, .w ((fGet c rs).extractLsb' 0 24))]) s = _
    rw [regWord_landed h rfl rfl (.inr hf.own), landed_x]
    rfl
  case xhigh =>
    show regWord n 1 { fp := true } (fun c => [(xName c rd, .w ((fGet c rs).extractLsb' 24 24))]) s = _
    rw [regWord_landed h rfl rfl (.inr hf.own), landed_x]
    rfl
  case write =>
    show regWord n 1 { fp := true } (fun c => [(laneName vv lane, .w (xGet c rs))]) s = _
    rw [regWord_landed h rfl rfl (.inr hf.own), landed_lane]
    rfl
  case read =>
    show regWord n 1 { fp := true } (fun c => [(xName c rd, .w (vLane c vv lane))]) s = _
    rw [regWord_landed h rfl rfl (.inr hf.own), landed_x]
    rfl
  case ops =>
    simp only [laneOps, List.forall_mem_cons]
    have both : ∀ v ∈ [VOp.vadd, .vsub, .vmul, .vmin, .vmax], vop4 n v 3 vd va vb s = _ := fun v hv =>
      vop4Res_later h hf v (by decide) vd (fun c i => vArg c va i) (fun c i => vArg c vb i) (fun _ _ => 0)
        (e := fun i => fElem v f24 (ioFld 0x1 17 16 (s.cl n)) (vArg (s.cl n) va i)
          (if v ∈ [VOp.vabs, .vneg, .vmov] then vArg (s.cl n) va i else vArg (s.cl n) vb i) 0 0)
        fun i => by rw [if_neg (by revert v; decide)]
    have one : ∀ v ∈ [VOp.vabs, .vneg, .vmov], vop4 n v 3 vd va va s = _ := fun v hv =>
      vop4Res_later h hf v (by decide) vd (fun c i => vArg c va i) (fun c i => vArg c va i) (fun _ _ => 0)
        (e := fun i => fElem v f24 (ioFld 0x1 17 16 (s.cl n)) (vArg (s.cl n) va i)
          (if v ∈ [VOp.vabs, .vneg, .vmov] then vArg (s.cl n) va i else vArg (s.cl n) vb i) 0 0)
        fun i => by rw [if_pos hv]
    exact ⟨both .vadd (by decide), both .vsub (by decide), both .vmul (by decide), both .vmin (by decide),
      both .vmax (by decide),
      one .vabs (by decide), one .vneg (by decide), one .vmov (by decide), List.forall_mem_nil _⟩
  case fma =>
    exact vop4Res_later h hf .vfma (by decide) vd (fun c i => vArg c vd i) (fun c i => vArg c va i) (fun c i => vArg c vb i)
      fun _ => rfl
  case fms =>
    exact vop4Res_later h hf .vfms (by decide) vd (fun c i => vArg c vd i) (fun c i => vArg c va i) (fun c i => vArg c vb i)
      fun _ => rfl
  case div => exact vop4Res_landed h hf .vdiv vd (fun c i => vArg c va i) (fun c i => vArg c vb i) (fun _ _ => 0) fun _ => rfl
  case rcp => exact vop4Res_landed h hf .vrcp vd (fun c i => vArg c va i) (fun c i => vArg c va i) (fun _ _ => 0) fun _ => rfl
  case sqrt => exact vop4Res_landed h hf .vsqrt vd (fun c i => vArg c va i) (fun c i => vArg c va i) (fun _ _ => 0) fun _ => rfl
  case rsqrt =>
    exact vop4Res_landed h hf .vrsqrt vd (fun c i => vArg c va i) (fun c i => vArg c va i) (fun _ _ => 0) fun _ => rfl

end Sys2Proof.Proofs
end
section
/-!
PROOFS. A sequencer's accesses to its own local store: loads (O8).
-/
namespace Sys2Proof.Machine

open Sys2Proof.Claims

/-! ## Addresses of own words (R175, R221) -/

theorem mapM_some {α β : Type} {f : α → Option β} {g : α → β} {l : List α} (h : ∀ x ∈ l, f x = some (g x)) :
    l.mapM f = some (l.map g) := by
  induction l with
  | nil => rfl
  | cons x l ih =>
    rw [List.mapM_cons, h x List.mem_cons_self, ih fun y hy => h y (List.mem_cons_of_mem _ hy)]
    rfl

theorem lt_of_dRegion {d : Nat} (h : dRegion d = some 0) : d < 0x40000 := by
  by_contra hge
  rw [dRegion, if_neg hge] at h
  split at h
  · cases h
  · split at h
    · cases h
    · rw [Option.some.injEq] at h
      omega

theorem dGlobal_own {n : Cl} {c : Cluster} {d : Nat} (h : d < 0x40000) : dGlobal n c d = some (lsAddr n d) := by
  rw [dGlobal, if_pos (Nat.lt_of_lt_of_le h (by decide))]

section
variable {n : Cl} {a : Word} {k : Nat} (h : a.toNat + k ≤ 0x40000)
include h

theorem dWords_own : dWords a k = (List.range k).map fun i => a.toNat + i :=
  List.map_congr_left fun i hi => Nat.mod_eq_of_lt (by have := List.mem_range.mp hi; omega)

theorem dRegion_own {d : Nat} (hd : d ∈ dWords a k) : dRegion d = some 0 := by
  rw [dWords_own h] at hd
  obtain ⟨i, hi, rfl⟩ := List.mem_map.mp hd
  have hlt : a.toNat + i < 0x40000 := by have := List.mem_range.mp hi; omega
  rw [dRegion, if_pos hlt]

/-- The global addresses of a cluster's own words. -/
theorem dTranslate_own (hk : 0 < k) (c : Cluster) :
    dTranslate n c a k = .ok ((List.range k).map fun i => lsAddr n (a.toNat + i)) := by
  have hbase : dRegion a.toNat = some 0 := if_pos (by omega)
  have hmapped : ((dWords a k).any fun d => (dRegion d).isNone) = false :=
    List.any_eq_false.mpr fun d hd => by simp [dRegion_own h hd]
  have hone : ((dWords a k).any fun d => dRegion d != dRegion a.toNat) = false :=
    List.any_eq_false.mpr fun d hd => by simp [dRegion_own h hd, hbase]
  have hglobal : (dWords a k).mapM (dGlobal n c) = some ((dWords a k).map (lsAddr n)) :=
    mapM_some fun d hd => dGlobal_own (lt_of_dRegion (dRegion_own h hd))
  simp only [dTranslate, hmapped, hone, Bool.false_eq_true, if_false, hglobal]
  rw [dWords_own h, List.map_map]
  rfl

theorem dCheck_own (hk : 0 < k) {c : Cluster} {cap : CapV} {perm : Nat} (hcap : capFault cap (lsAddr n a.toNat) k perm = none) :
    dCheck n c cap a k perm = .ok ((List.range k).map fun i => lsAddr n (a.toNat + i)) := by
  have hhead : ((List.range k).map fun i => lsAddr n (a.toNat + i)).headD 0 = lsAddr n a.toNat := by
    cases k with
    | zero => exact absurd hk (Nat.lt_irrefl 0)
    | succ k => rw [List.range_succ_eq_map]; rfl
  simp only [dCheck, dTranslate_own h hk, hhead, hcap]

omit n in
theorem dWindow_own : dWindow a = false := decide_eq_false (by omega)

end

/-! ## Own words read (R169, R177, R193) -/

section
variable {n m : Cl} {off a : Nat} {s : State} (hr : regionOf a = .ls m off)
include hr

theorem lockedFor_ls (s : State) : lockedFor (.cluster n) a s = false := by
  simp only [lockedFor, viaMatrix, hr, Bool.false_and]

/-- A sequencer's read of a word of a local store goes to that store. -/
theorem wordRead_ls (g : Agent) (s : State) : wordRead (.cluster n) g a s = agentRead g a s := by
  simp only [wordRead, memRead, lockedFor_ls hr, hr, Bool.false_eq_true, if_false]

theorem agentRead_ls {g : Agent} (hc : ownCheck m off g s = none) :
    agentRead g a s = cellRead a s (lsRead m off (s.modCl m (ask (asker g)))) := by
  simp only [agentRead, hr, hc]

/-- A word of a row without an error reads as memory holds it. -/
theorem agentRead_good {g : Agent} (hc : ownCheck m off g s = none) (hgood : badRow? (s.cl m) off = none) :
    agentRead g a s = (.ok (memGet a s), s.modCl m (ask (asker g))) := by
  have hbad : badRow? ((s.modCl m (ask (asker g))).cl m) off = none := by
    rw [modCl_eq, putCl_cl_self]
    exact hgood
  rw [agentRead_ls hr hc, lsRead, hbad]
  rfl

end

theorem ownerAdmits_seq {n : Cl} {c : Cluster} {i : Nat} (h : ownCode i c = 0) : ownerAdmits n c i (.seq n) = true := by
  unfold ownerAdmits
  generalize ownCode i c = code at h ⊢
  subst h
  exact beq_self_eq_true n

theorem ownCheck_seq_own {n : Cl} {off k : Nat} {s : State} (h : OwnWords n off k s) {i : Nat} (hi : i < k) :
    ownCheck n (off + i) (.seq n) s = none := by
  have hin : off + i < 0x40000 := by have := h.inside; omega
  have hplot : plotOf (off + i) = ((off + i) / 0x4000, (off + i) % 0x4000) := if_pos hin
  obtain ⟨hcode, hheld⟩ := h.owner i hi
  simp [ownCheck, hplot, ownAgent, ownerAdmits_seq hcode, hheld]

/-- The sequencer's access path to the banks has asked in this cycle (R169). -/
def asked (n : Cl) (s : State) : State := s.modCl n (ask [9])

theorem ask_ask (ks : List Nat) (c : Cluster) : ask ks (ask ks c) = ask ks c := by
  have hall : ks.filter (fun k => !(ask ks c).conf.contains k) = [] := by
    refine List.filter_eq_nil_iff.mpr fun k hk => ?_
    have hin : k ∈ (ask ks c).conf := by
      by_cases h : k ∈ c.conf
      · exact List.mem_append_left _ h
      · exact List.mem_append_right _ (List.mem_filter.mpr ⟨hk, by simp [h]⟩)
    simp [hin]
  rw [ask, hall, List.append_nil]

theorem asked_asked (n : Cl) (s : State) : asked n (asked n s) = asked n s := by
  rw [asked, asked, modCl_modCl]
  simp only [ask_ask]

theorem asked_eq (n : Cl) (s : State) : asked n s = s.putCl n (ask [9] (s.cl n)) := modCl_eq ..

theorem ownWords_asked {n : Cl} {off k : Nat} {s : State} (h : OwnWords n off k s) : OwnWords n off k (asked n s) where
  inside := h.inside
  owner := fun i hi => by
    rw [asked_eq, putCl_cl_self]
    exact h.owner i hi
  good := fun i hi => by
    rw [asked_eq, putCl_cl_self]
    exact h.good i hi

/-- The sequencer reads a word of its own local store. -/
theorem wordRead_own {n : Cl} {off k : Nat} {s : State} (h : OwnWords n off k s) {i : Nat} (hi : i < k) :
    wordRead (.cluster n) (.seq n) (lsAddr n (off + i)) s = (.ok (memGet (lsAddr n (off + i)) s), asked n s) := by
  have hin : off + i < 0x40000 := by have := h.inside; omega
  exact (wordRead_ls (regionOf_lsAddr n hin) _ _).trans
    (agentRead_good (regionOf_lsAddr n hin) (ownCheck_seq_own h hi) (h.good i hi))

theorem seqReads_cons {n : Cl} {win : Bool} {a : Nat} {r : List Nat} {s t u : State} {v : Word} {ws : List Word}
    (hread : wordRead (.cluster n) (seqAgent n win) a s = (.ok v, t)) (hrest : seqReads n win r t = .ok ws u) :
    seqReads n win (a :: r) s = .ok (v :: ws) u := by
  simp only [seqReads, hread, hrest]

theorem memGet_asked (n : Cl) (a : Nat) (s : State) : memGet a (asked n s) = memGet a s := rfl

/-- The sequencer reads words of its own local store. -/
theorem seqReads_own {n : Cl} {off k : Nat} (i : Nat) (l : List Nat) {s : State} (h : OwnWords n off k s)
    (hl : ∀ j ∈ i :: l, j < k) :
    seqReads n false ((i :: l).map fun j => lsAddr n (off + j)) s =
      .ok ((i :: l).map fun j => memGet (lsAddr n (off + j)) s) (asked n s) := by
  have hread := wordRead_own h (hl i List.mem_cons_self)
  induction l generalizing i s with
  | nil => exact seqReads_cons hread rfl
  | cons j l ih =>
    have hnext := wordRead_own (ownWords_asked h) (hl j (List.mem_cons_of_mem _ List.mem_cons_self))
    have hrest := ih j (ownWords_asked h) (fun m hm => hl m (List.mem_cons_of_mem _ hm)) hnext
    simp only [memGet_asked, asked_asked] at hrest
    exact seqReads_cons hread hrest

/-! ## Loads (R221, R225, R228) -/

section
variable {n : Cl} {s : State} {rs : Reg} {imm : BitVec 9} {k : Nat}
  (hown : OwnWords n (xGet (s.cl n) rs + imm.signExtend 24).toNat k s)
  (hcap : capFault (cGet (s.cl n) rs) (lsAddr n (xGet (s.cl n) rs + imm.signExtend 24).toNat) k permRD = none)
include hown hcap

/-- The words that a load finds. -/
def loaded (n : Cl) (a : Word) (k : Nat) (s : State) : List Word :=
  (List.range k).map fun i => memGet (lsAddr n (a.toNat + i)) s

theorem dLoad_own (hk : 0 < k) (hbuf : (s.cl n).sbuf = []) :
    dLoad n (cGet (s.cl n) rs) (baseAddr (s.cl n) rs imm) k s =
      .ok (loaded n (xGet (s.cl n) rs + imm.signExtend 24) k s) (asked n s) := by
  obtain ⟨l, hl⟩ : ∃ l, List.range k = 0 :: l := by
    cases k with
    | zero => exact absurd hk (Nat.lt_irrefl 0)
    | succ k => exact ⟨_, List.range_succ_eq_map⟩
  have hreads := seqReads_own 0 l hown fun j hj => List.mem_range.mp (hl ▸ hj)
  have hforward : ∀ gs, forward gs [] = .memory := fun _ => rfl
  rw [dLoad, baseAddr, dCheck_own hown.inside hk hcap, hbuf]
  simp only [hforward, dWindow_own hown.inside, Bool.false_and, Bool.false_eq_true, if_false, hl, hreads, loaded]

theorem loadRes_own (hk : 0 < k) (hbuf : (s.cl n).sbuf = []) (hdue : (s.cl n).due = [])
    (out : Cluster → List Word → List (RegName × RegVal)) :
    loadRes n rs imm k out s = .go (s.putCl n (laterAll 3
      (out (ask [9] (s.cl n)) (loaded n (xGet (s.cl n) rs + imm.signExtend 24) k s)) (ask [9] (s.cl n)))) := by
  have hread : ∀ regs, readTo n regs s (ask [9] (s.cl n)) = ask [9] (s.cl n) := fun _ => if_pos rfl
  have hcalm : (ask [9] (s.cl n)).due = [] := hdue
  rw [loadRes]
  simp only [dLoad_own hown hcap hk hbuf, asked_eq, modCl_eq, putCl_cl_self, putCl_putCl, hread, dueAdd_calm hcalm]

end

theorem cldRes_own {n : Cl} {s : State} {rs : Reg} {imm : BitVec 9}
    (hown : OwnWords n (xGet (s.cl n) rs + imm.signExtend 24).toNat 4 s)
    (hcap : capFault (cGet (s.cl n) rs) (lsAddr n (xGet (s.cl n) rs + imm.signExtend 24).toNat) 4 permRD = none)
    (hbuf : (s.cl n).sbuf = []) (hdue : (s.cl n).due = []) {cd : Reg} {v : CapV}
    (hv : loadCap s (capOfList (loaded n (xGet (s.cl n) rs + imm.signExtend 24) 4 s)) = some v) :
    cldRes n cd rs imm s = .go (s.putCl n (laterAll 3 [(.c cd, .c v)] (ask [9] (s.cl n)))) := by
  have hread : ∀ regs, readTo n regs s (ask [9] (s.cl n)) = ask [9] (s.cl n) := fun _ => if_pos rfl
  have hcalm : (ask [9] (s.cl n)).due = [] := hdue
  have hv' : loadCap (s.putCl n (ask [9] (s.cl n))) (capOfList (loaded n (xGet (s.cl n) rs + imm.signExtend 24) 4 s)) =
    some v := hv
  rw [cldRes]
  simp only [dLoad_own hown hcap (by decide) hbuf, asked_eq, hv', modCl_eq, putCl_cl_self, putCl_putCl, hread,
    dueAdd_calm hcalm]

/-- A word of one cycle that changes its own cluster and goes on. -/
theorem issue_goes {n : Cl} {s : State} (h : Issues n s) {w : WordInfo} (hw : w.cycles = 1) (ha : w.act = .plain)
    (hf : w.fp = false ∨ ioBit 0x10 20 (s.cl n) = true) {f : Word → State → SeqRes} {t : State} (hr : ∀ p, f p s = .go t) :
    issue n w f s = wordDone n 1 none 0 t := by
  rw [issue_now h w f hf, hw, ha, modCl_eq, dAct_plain, putCl_cl_same, hr]
  rfl

/-- A load completes with what it read under way. -/
theorem issue_loads {n : Cl} {s : State} (h : Issues n s) {w : WordInfo} (hw : w.cycles = 1) (ha : w.act = .plain)
    (hf : w.fp = false ∨ ioBit 0x10 20 (s.cl n) = true) {f : Word → State → SeqRes} {ks : List Nat}
      {ws : List (RegName × RegVal)}
    (hr : ∀ p, f p s = .go (s.putCl n (laterAll 3 ws (ask ks (s.cl n))))) :
    issue n w f s = s.putCl n (goOn (laterAll 3 ws (ask ks (s.cl n)))) := by
  have hloop : ioBit 0x6 23 (ask ks (s.cl n)) = false := h.loop
  have hlag : (ask ks (s.cl n)).loopLag = [] := h.lag
  rw [issue_goes h hw ha hf hr, wordDone_later hloop hlag n s (by decide)]

/-- TRD of a word of the instruction store without an error (R220). -/
theorem trdRes_clean {n : Cl} {s : State} {rd rs : Reg} {imm : BitVec 9} (hdue : (s.cl n).due = [])
    (hcells : (s.cl n).ibad = [])
    (hin : (xGet (s.cl n) rs + imm.signExtend 24).toNat < 0x4000)
    (hcap : capFault (cGet (s.cl n) rs) (istoreAddr n (xGet (s.cl n) rs + imm.signExtend 24).toNat) 1 permRD = none) :
    trdRes n rd rs imm s = .go (s.putCl n (laterAll 3
      [(xName (s.cl n) rd, .w (memGet (istoreAddr n (xGet (s.cl n) rs + imm.signExtend 24).toNat) s))] (s.cl n))) := by
  have hclean : ∀ a, istoreRead n a s = (true, s) := fun a => by rw [istoreRead, hcells]; rfl
  rw [trdRes, baseAddr]
  simp only [if_neg (Nat.not_le.mpr hin), hcap, hclean, if_true, modCl_eq, dueAdd_calm hdue]

end Sys2Proof.Machine

namespace Sys2Proof.Proofs

open Sys2Proof.Machine Sys2Proof.Claims

/-- Settles O8: own words pass every check of a load, and the banks are asked once. -/
theorem loadsOfOwnWords : Obligations.LoadsOfOwnWords := by
  unfold Obligations.LoadsOfOwnWords
  intro n rd vd rs imm s h hbuf c a may w ends
  refine ⟨fun ⟨hown, hcap⟩ => ?ld, fun ⟨hown, hcap⟩ heven => ?ldd, fun ⟨hown, hcap⟩ hfp => ?ldf, fun ⟨hown, hcap⟩ hfp => ?ldv,
    fun ⟨hown, hcap⟩ => ?dld, fun ⟨hown, hcap⟩ v hv => ?cld, fun hin hcap => ?trd⟩
  case ld =>
    show Host.Outcome.next (issue n {} (fun _ t => loadRes n rs imm 1 (fun c ws => [(xName c rd, .w (ws.headD 0))]) t) s) = _
    rw [issue_loads h rfl rfl (.inl rfl) fun _ => loadRes_own hown hcap (by decide) hbuf h.calm _]
    rfl
  case ldd =>
    have hodd : ¬ rd.val % 2 = 1 := by omega
    show Host.Outcome.next (issue n {} (fun _ t => if rd.val % 2 = 1 then illegal (longWord 0x0D rd rs imm.toNat) t
      else loadRes n rs imm 2 (fun c ws => [(xName c rd, .w (ws.getD 0 0)), (xName c (rd.val + 1), .w (ws.getD 1 0))]) t) s) = _
    simp only [if_neg hodd]
    rw [issue_loads h rfl rfl (.inl rfl) fun _ => loadRes_own hown hcap (by decide) hbuf h.calm _]
    rfl
  case ldf =>
    show Host.Outcome.next (issue n { fp := true } (fun _ t =>
      loadRes n rs imm 2 (fun _ ws => [(.f rd, .f (DWord.ofWords (ws.getD 0 0) (ws.getD 1 0)))]) t) s) = _
    rw [issue_loads h rfl rfl (.inr hfp) fun _ => loadRes_own hown hcap (by decide) hbuf h.calm _]
    rfl
  case ldv =>
    show Host.Outcome.next (issue n { fp := true } (fun _ t => loadRes n rs imm 4 (fun _ ws => vRes vd ws) t) s) = _
    rw [issue_loads h rfl rfl (.inr hfp) fun _ => loadRes_own hown hcap (by decide) hbuf h.calm _]
    rfl
  case dld =>
    show Host.Outcome.next (issue n {} (fun _ t =>
      loadRes n rs imm 5 (fun _ ws => ws.zipIdx.map fun p => (RegName.dWord rd p.2, RegVal.w p.1)) t) s) = _
    rw [issue_loads h rfl rfl (.inl rfl) fun _ => loadRes_own hown hcap (by decide) hbuf h.calm _]
    rfl
  case cld =>
    show Host.Outcome.next (issue n {} (fun _ t => cldRes n rd rs imm t) s) = _
    rw [issue_loads h rfl rfl (.inl rfl) fun _ => cldRes_own hown hcap hbuf h.calm hv]
    rfl
  case trd =>
    have hask : ask [] c = c := by rw [ask, List.filter_nil, List.append_nil]
    show Host.Outcome.next (issue n {} (fun _ t => trdRes n rd rs imm t) s) = _
    rw [issue_loads (ks := []) h rfl rfl (.inl rfl) fun _ => by rw [trdRes_clean h.calm h.cells hin hcap, hask]]
    rfl

end Sys2Proof.Proofs
end
section
/-!
PROOFS. A sequencer's stores to its own local store: the store buffer and its drain (O9).
-/
namespace Sys2Proof.Machine

open Sys2Proof.Claims

/-! ## Stores enter the store buffer (R221, R228) -/

theorem storeFault_ls {n m : Cl} {win : Bool} {off a : Nat} {s : State} (hr : regionOf a = .ls m off)
    (hc : ownCheck m off (seqAgent n win) s = none) : storeFault n win a s = none := by
  simp only [storeFault, hr, hc]

theorem storeFault_own {n : Cl} {off k : Nat} {s : State} (h : OwnWords n off k s) {i : Nat} (hi : i < k) :
    storeFault n false (lsAddr n (off + i)) s = none := by
  have hin : off + i < 0x40000 := by have := h.inside; omega
  exact storeFault_ls (regionOf_lsAddr n hin) (ownCheck_seq_own h hi)

/-- A cluster whose store buffer has one more entry. -/
def buffered (e : SEntry) (c : Cluster) : Cluster := { c with sbuf := c.sbuf ++ [e] }

/-- The entry of a store of words from D-space address `a` on. -/
def storeEntry (n : Cl) (slot : Nat) (cap : CapV) (a : Word) (ws : List Word) : SEntry :=
  ⟨((List.range ws.length).map fun i => lsAddr n (a.toNat + i)).zip ws, slot, cap, false, a, 0⟩

section
variable {n : Cl} {s : State} {rs : Reg} {imm : BitVec 9}

theorem dStore_own {a : Word} {ws : List Word} (hown : OwnWords n a.toNat ws.length s)
    (hcap : capFault (cGet (s.cl n) rs) (lsAddr n a.toNat) ws.length permWR = none) (hws : 0 < ws.length)
    (hroom : (s.cl n).sbuf.length < 4) :
    dStore n rs a ws s = .ok (s.putCl n (buffered (storeEntry n rs (cGet (s.cl n) rs) a ws) (s.cl n))) := by
  have hfault : (((List.range ws.length).map fun i => lsAddr n (a.toNat + i)).findSome? fun g => storeFault n false g s) =
    none := by
    refine List.findSome?_eq_none_iff.mpr fun g hg => ?_
    obtain ⟨i, hi, rfl⟩ := List.mem_map.mp hg
    exact storeFault_own hown (List.mem_range.mp hi)
  rw [dStore]
  simp only [dCheck_own hown.inside hws hcap, dWindow_own hown.inside, hfault, if_neg (Nat.not_le.mpr hroom), modCl_eq]
  rfl

theorem storeRes_own {ws : Cluster → List Word}
    (hown : OwnWords n (xGet (s.cl n) rs + imm.signExtend 24).toNat (ws (s.cl n)).length s)
    (hcap : capFault (cGet (s.cl n) rs) (lsAddr n (xGet (s.cl n) rs + imm.signExtend 24).toNat)
      (ws (s.cl n)).length permWR = none)
    (hws : 0 < (ws (s.cl n)).length) (hroom : (s.cl n).sbuf.length < 4) :
    storeRes n rs imm ws s = .go (s.putCl n (buffered
      (storeEntry n rs (cGet (s.cl n) rs) (xGet (s.cl n) rs + imm.signExtend 24) (ws (s.cl n))) (s.cl n))) := by
  simp only [storeRes, baseAddr, dStore_own hown hcap hws hroom]

/-- A store completes with its entry in the store buffer. -/
theorem issue_stores (h : Issues n s) {w : WordInfo} (hw : w.cycles = 1) (ha : w.act = .plain)
    (hf : w.fp = false ∨ ioBit 0x10 20 (s.cl n) = true) {f : Word → State → SeqRes} {e : SEntry}
    (hr : ∀ p, f p s = .go (s.putCl n (buffered e (s.cl n)))) : issue n w f s = s.putCl n (goOn (buffered e (s.cl n))) := by
  have hself := putCl_cl_self (n := n) (s := s) (c := buffered e (s.cl n))
  rw [issue_goes h hw ha hf hr, wordDone_next_calm, putCl_modCl]
  · rw [hself]; exact h.loop
  · rw [hself]; exact h.lag
  · rw [hself]; exact h.calm

/-- CST under a capability that may store it (R248). -/
theorem cstRes_own {cd : Reg} (hown : OwnWords n (xGet (s.cl n) rs + imm.signExtend 24).toNat 4 s)
    (hcap : capFault (cGet (s.cl n) rs) (lsAddr n (xGet (s.cl n) rs + imm.signExtend 24).toNat) 4 permWR = none)
    (hglb : (cGet (s.cl n) cd).valid = true → capHas (cGet (s.cl n) cd).bits permGLB = true) :
    cstRes n cd rs imm s = storeRes n rs imm (fun _ => capWords (cGet (s.cl n) cd).bits) s := by
  have hmay : ¬ ((cGet (s.cl n) cd).valid && !capHas (cGet (s.cl n) cd).bits permGLB) = true := by
    cases hv : (cGet (s.cl n) cd).valid with
    | false => exact Bool.false_ne_true
    | true => rw [hglb hv]; exact Bool.false_ne_true
  rw [cstRes]
  simp only [baseAddr, dCheck_own hown.inside (by decide) hcap, if_neg hmay]

end

/-! ## The oldest entry drains (R228, R229) -/

section
variable {n m : Cl} {off a : Nat} {s : State} (hr : regionOf a = .ls m off)
include hr

theorem wordWrite_ls (g : Agent) (cap : CapV) (v : Word) (s : State) : wordWrite (.cluster n) g cap a v s =
    agentWrite g a v s := by
  simp only [wordWrite, memWrite, lockedFor_ls hr, hr, Bool.false_eq_true, if_false]

end

/-- The words of an entry are in their stores, each after a request of the bank's path. -/
def putAll (n : Cl) (l : List (Nat × Word)) (s : State) : State := l.foldl (fun t p => memPut p.1 p.2 (asked n t)) s

theorem ownWords_put {n : Cl} {off k : Nat} {s : State} (h : OwnWords n off k s) (a : Nat) (v : Word) :
    OwnWords n off k (memPut a v (asked n s)) where
  inside := h.inside
  owner := fun i hi => by
    rw [memPut_cl]
    exact (ownWords_asked h).owner i hi
  good := fun i hi => by
    rw [memPut_cl]
    exact (ownWords_asked h).good i hi

theorem wordWrite_own {n : Cl} {off k : Nat} {s : State} (h : OwnWords n off k s) {i : Nat} (hi : i < k) (cap : CapV)
    (v : Word) :
    wordWrite (.cluster n) (.seq n) cap (lsAddr n (off + i)) v s = (.ok 0, memPut (lsAddr n (off + i)) v (asked n s)) := by
  have hin : off + i < 0x40000 := by have := h.inside; omega
  exact (wordWrite_ls (regionOf_lsAddr n hin) _ _ _ _).trans (agentWrite_ls v (regionOf_lsAddr n hin) (ownCheck_seq_own h hi))

theorem seqWrites_cons {n : Cl} {cap : CapV} {win : Bool} {a k : Nat} {v w : Word} {r : List (Nat × Word)}
    {f : Option (Nat × Nat)}
    {s t : State} (h : wordWrite (.cluster n) (seqAgent n win) cap a v s = (.ok w, t)) :
    seqWrites n cap win ((a, v) :: r) k f s = seqWrites n cap win r (k + 1) f t := by
  simp only [seqWrites, h]

/-- Every word of an entry of own words drains. -/
theorem seqWrites_own {n : Cl} {off k : Nat} (cap : CapV) (l : List (Nat × Word)) {s : State} (h : OwnWords n off k s)
    (hl : ∀ p ∈ l, ∃ i < k, p.1 = lsAddr n (off + i)) (j : Nat) (f : Option (Nat × Nat)) :
    seqWrites n cap false l j f s = ⟨j + l.length, f, putAll n l s⟩ := by
  induction l generalizing s j with
  | nil => rfl
  | cons p l ih =>
    obtain ⟨a, v⟩ := p
    obtain ⟨i, hi, ha⟩ := hl _ List.mem_cons_self
    have ha : a = lsAddr n (off + i) := ha
    have hput := wordWrite_own h hi cap v
    rw [← ha] at hput
    rw [seqWrites_cons (win := false) hput, ih (ownWords_put h a v) (fun p hp => hl p (List.mem_cons_of_mem _ hp)),
      List.length_cons]
    rw [Nat.add_assoc, Nat.add_comm 1]
    rfl

section
variable (n : Cl) (l : List (Nat × Word)) (s : State)

theorem putAll_cons (p : Nat × Word) : putAll n (p :: l) s = putAll n l (memPut p.1 p.2 (asked n s)) := rfl

theorem putAll_hub : (putAll n l s).hub = s.hub := by
  induction l generalizing s with
  | nil => rfl
  | cons p l ih =>
    rw [putAll_cons, ih]
    rfl

theorem putAll_bad (off : Nat) : badRow? ((putAll n l s).cl n) off = badRow? (s.cl n) off := by
  induction l generalizing s with
  | nil => rfl
  | cons p l ih =>
    rw [putAll_cons, ih, memPut_cl, asked_eq, putCl_cl_self]
    rfl

theorem memGet_putAll_other {a : Nat} (h : ∀ p ∈ l, p.1 ≠ a) : memGet a (putAll n l s) = memGet a s := by
  induction l generalizing s with
  | nil => rfl
  | cons p l ih =>
    rw [putAll_cons, ih _ fun q hq => h q (List.mem_cons_of_mem _ hq), memGet_memPut, if_neg (h p List.mem_cons_self),
      memGet_asked]

end

/-- Consecutive words read as they were stored. -/
theorem memGet_putAll (n : Cl) (off : Nat) (ws : List Word) (s : State) {i : Nat} (hi : i < ws.length) :
    memGet (lsAddr n (off + i)) (putAll n (((List.range ws.length).map fun i => lsAddr n (off + i)).zip ws) s) =
      ws.getD i 0 := by
  induction ws using List.reverseRecOn with
  | nil => exact absurd hi (Nat.not_lt_zero i)
  | append_singleton ws w ih =>
    have hsplit : ((List.range (ws ++ [w]).length).map fun i => lsAddr n (off + i)).zip (ws ++ [w]) =
        ((List.range ws.length).map fun i => lsAddr n (off + i)).zip ws ++ [(lsAddr n (off + ws.length), w)] := by
      rw [List.length_append, List.length_singleton, List.range_succ, List.map_append, List.zip_append (by simp)]
      rfl
    rw [hsplit, putAll, List.foldl_append]
    show memGet _ (memPut (lsAddr n (off + ws.length)) w (asked n (putAll n _ s))) = _
    rw [memGet_memPut, memGet_asked]
    by_cases hlast : i = ws.length
    · subst hlast
      rw [if_pos rfl, List.getD_append_right _ _ _ _ (Nat.le_refl _), Nat.sub_self]
      rfl
    · have hlt : i < ws.length := by rw [List.length_append, List.length_singleton] at hi; omega
      have hne : lsAddr n (off + ws.length) ≠ lsAddr n (off + i) := by unfold lsAddr; omega
      rw [if_neg hne, ih hlt, List.getD_append _ _ _ _ hlt]

/-- A word and the first word of its row lie in one row (R188). -/
theorem badRow_row (c : Cluster) (off : Nat) : badRow? c (4 * (off / 4)) = badRow? c off := by
  have h4 : 4 * (off / 4) / 4 = off / 4 := by omega
  have h512 : 4 * (off / 4) / 512 = off / 512 := by omega
  have hplot : 4 * (off / 4) / 0x4000 = off / 0x4000 := by omega
  simp only [badRow?, bankOfOff, rowOfOff, h4, h512, hplot]

/-- An access to rows without an error leaves the errors of rows and lines as they are. -/
theorem wrote_rows {n : Cl} {s : State} {as : List Nat}
    (has : ∀ a ∈ as, ∃ off < 0x40000, a = lsAddr n off ∧ badRow? (s.cl n) off = none) : wrote as s = s := by
  have hq : ∀ q ∈ (as.map (· / 4)).eraseDups, ∃ off, regionOf (4 * q) = .ls n off ∧ badRow? (s.cl n) off = none := by
    intro q hq
    obtain ⟨a, ha, rfl⟩ := List.mem_map.mp (List.mem_eraseDups.mp hq)
    obtain ⟨off, hoff, rfl, hgood⟩ := has a ha
    have hrow : 4 * (lsAddr n off / 4) = lsAddr n (4 * (off / 4)) := by unfold lsAddr; omega
    exact ⟨4 * (off / 4), hrow ▸ regionOf_lsAddr n (by omega), (badRow_row ..).trans hgood⟩
  unfold wrote
  generalize (as.map (· / 4)).eraseDups = l at hq ⊢
  induction l with
  | nil => rfl
  | cons q l ih =>
    obtain ⟨off, hr, hgood⟩ := hq q List.mem_cons_self
    rw [List.foldl_cons]
    simp only [hr, rowWritten_good hgood]
    exact ih fun q hq' => hq q (List.mem_cons_of_mem _ hq')

/-- An entry whose every word drains leaves the store buffer. -/
theorem sbufDrain_all {n : Cl} {s u : State} {e : SEntry} {r : List SEntry} (hbuf : (s.cl n).sbuf = e :: r)
    (hwin : e.win = false)
    (hdone : e.done = 0) (hwrites : seqWrites n e.cap false e.words 0 none s = ⟨e.words.length, none, u⟩)
    (hrows : ∀ a ∈ landing n e s, ∃ off < 0x40000, a = lsAddr n off ∧ badRow? (u.cl n) off = none) :
    ∃ c, sbufDrain n s = u.putCl n c ∧ c.sbuf = r := by
  have hkeep : wrote (landing n e s) (u.modCl n fun c => { c with
      lateFault := c.lateFault.or ((none : Option (Nat × Nat)).map fun f => (e.slot, f.1, e.dAddr + BitVec.ofNat 24 f.2)) }) =
      u.modCl n fun c => { c with
        lateFault := c.lateFault.or ((none : Option (Nat × Nat)).map fun f =>
          (e.slot, f.1, e.dAddr + BitVec.ofNat 24 f.2)) } := by
    refine wrote_rows (n := n) fun a ha => ?_
    obtain ⟨off, hoff, haddr, hgood⟩ := hrows a ha
    refine ⟨off, hoff, haddr, ?_⟩
    rw [modCl_eq, putCl_cl_self]
    exact hgood
  unfold sbufDrain
  rw [hbuf]
  dsimp only
  rw [hwin, hdone, List.drop_zero, hwrites]
  dsimp only
  rw [if_neg (Nat.lt_irrefl _), hkeep, modCl_modCl, modCl_eq]
  exact ⟨_, rfl, rfl⟩

/-- The oldest entry of the store buffer, of own words, drains. -/
theorem sbufDrain_own {n : Cl} {off : Nat} {ws : List Word} {slot : Nat} {cap : CapV} {a0 : Word} {rest : List SEntry}
    {s : State}
    (hbuf : (s.cl n).sbuf = ⟨((List.range ws.length).map fun i => lsAddr n (off + i)).zip ws, slot, cap, false, a0, 0⟩ :: rest)
    (hown : OwnWords n off ws.length s) :
    ∃ c, sbufDrain n s = (putAll n (((List.range ws.length).map fun i => lsAddr n (off + i)).zip ws) s).putCl n c ∧ c.sbuf =
      rest := by
  have hwords : ∀ p ∈ ((List.range ws.length).map fun i => lsAddr n (off + i)).zip ws, ∃ i < ws.length,
    p.1 = lsAddr n (off + i) := by
    intro p hp
    obtain ⟨i, hi, ha⟩ := List.mem_map.mp (List.of_mem_zip hp).1
    exact ⟨i, List.mem_range.mp hi, ha.symm⟩
  refine sbufDrain_all hbuf rfl rfl ?_ fun a ha => ?_
  · rw [seqWrites_own cap _ hown hwords, Nat.zero_add]
  · obtain ⟨p, hp, rfl⟩ := List.mem_map.mp ha
    obtain ⟨i, hi, haddr⟩ := hwords p (List.mem_of_mem_filter hp)
    have hin : off + i < 0x40000 := by have := hown.inside; omega
    exact ⟨off + i, hin, haddr, (putAll_bad ..).trans (hown.good i hi)⟩

end Sys2Proof.Machine

namespace Sys2Proof.Proofs

open Sys2Proof.Machine Sys2Proof.Claims

/-- Settles O9: an entry's words are written one by one, none of them refused, and a good row keeps its state. -/
theorem storesWaitAndDrainInOrder : Obligations.StoresWaitAndDrainInOrder := by
  unfold Obligations.StoresWaitAndDrainInOrder
  refine ⟨fun n rd vd rs imm s h hroom => ?_, fun n off ws slot cap a0 rest s hbuf hon hown => ?_⟩
  · intro c a may ends
    refine ⟨fun ⟨hown, hcap⟩ => ?st, fun ⟨hown, hcap⟩ heven => ?std, fun ⟨hown, hcap⟩ hfp => ?stf, fun ⟨hown, hcap⟩ hfp => ?stv,
      fun ⟨hown, hcap⟩ => ?dsto, fun ⟨hown, hcap⟩ hglb => ?cst⟩
    case st =>
      show Host.Outcome.next (issue n {} (fun _ t => storeRes n rs imm (fun c => [xGet c rd]) t) s) = _
      rw [issue_stores h rfl rfl (.inl rfl) fun _ => storeRes_own (ws := fun c => [xGet c rd]) hown hcap (Nat.succ_pos _) hroom]
      rfl
    case std =>
      have hodd : ¬ rd.val % 2 = 1 := by omega
      show Host.Outcome.next (issue n {} (fun _ t => if rd.val % 2 = 1 then illegal (longWord 0x0F rd rs imm.toNat) t
        else storeRes n rs imm (fun c => [xGet c rd, xGet c (rd.val + 1)]) t) s) = _
      simp only [if_neg hodd]
      rw [issue_stores h rfl rfl (.inl rfl) fun _ =>
        storeRes_own (ws := fun c => [xGet c rd, xGet c (rd.val + 1)]) hown hcap (Nat.succ_pos _) hroom]
      rfl
    case stf =>
      show Host.Outcome.next (issue n { fp := true } (fun _ t => storeRes n rs imm (fun c => DWord.words (fGet c rd)) t) s) = _
      rw [issue_stores h rfl rfl (.inr hfp)
        fun _ => storeRes_own (ws := fun c => DWord.words (fGet c rd)) hown hcap (Nat.succ_pos _) hroom]
      rfl
    case stv =>
      show Host.Outcome.next (issue n { fp := true } (fun _ t =>
        storeRes n rs imm (fun c => (List.range 4).map (vLane c vd)) t) s) = _
      rw [issue_stores h rfl rfl (.inr hfp) fun _ =>
        storeRes_own (ws := fun c => (List.range 4).map (vLane c vd)) hown hcap (Nat.succ_pos _) hroom]
      rfl
    case dsto =>
      show Host.Outcome.next (issue n {} (fun _ t =>
        storeRes n rs imm (fun c => (List.range 5).map (descGet (dGet c rd))) t) s) = _
      rw [issue_stores h rfl rfl (.inl rfl) fun _ =>
        storeRes_own (ws := fun c => (List.range 5).map (descGet (dGet c rd))) hown hcap (Nat.succ_pos _) hroom]
      rfl
    case cst =>
      show Host.Outcome.next (issue n {} (fun _ t => cstRes n rd rs imm t) s) = _
      rw [issue_stores h rfl rfl (.inl rfl) fun _ => (cstRes_own hown hcap hglb).trans
        (storeRes_own (ws := fun _ => capWords (cGet (s.cl n) rd).bits) hown hcap (Nat.succ_pos _) hroom)]
      rfl
  · obtain ⟨c, hdrain, hrest⟩ := sbufDrain_own hbuf hown
    refine ⟨_, (onIsland_eq hon _).trans (congrArg Host.Outcome.next hdrain), ?_, fun i hi => ?_, fun b hb => ?_, ?_⟩
    · rw [putCl_cl_self, hrest]
    · rw [memGet_putCl, memGet_putAll n off ws s hi]
    · rw [memGet_putCl, memGet_putAll_other]
      intro p hp
      obtain ⟨i, hi, ha⟩ := List.mem_map.mp (List.of_mem_zip hp).1
      have hlt := List.mem_range.mp hi
      rw [← ha]
      unfold lsAddr at hb ⊢
      omega
    · exact putAll_hub ..

end Sys2Proof.Proofs
end
section
/-!
PROOFS. Words that stay in their cluster (O7): each step of a word's issue changes its own cluster alone, as long as no cell
of its instruction store shows an error.
-/
namespace Sys2Proof.Machine

open Sys2Proof.Claims

/-! ## Cells of the instruction store with errors, which a word's issue leaves as they are (R197) -/

@[simp] theorem evcEvent_ibad (sel k : Nat) (c : Cluster) : (evcEvent sel k c).ibad = c.ibad :=
  evcEvent_blind (g := Cluster.ibad) (fun _ _ _ _ => rfl) sel k c

@[simp] theorem dueAdd_ibad (k : Nat) (ws : List (RegName × RegVal)) (c : Cluster) : (dueAdd k ws c).ibad = c.ibad := rfl

@[simp] theorem goTo_ibad (pc : Word) (c : Cluster) : (goTo pc c).ibad = c.ibad := rfl

theorem landReg_ibad (c : Cluster) (w : RegWrite) : (landReg c w).ibad = c.ibad := by
  unfold landReg
  split <;> rfl

@[simp] theorem landAll_ibad (c : Cluster) : (landAll c).ibad = c.ibad :=
  foldl_keeps Cluster.ibad (f := landReg) landReg_ibad c.due { c with due := [] }

@[simp] theorem landDue_ibad (c : Cluster) : (landDue c).ibad = c.ibad :=
  foldl_keeps Cluster.ibad (f := landReg) landReg_ibad _ { c with due := c.due.dropWhile fun w => decide (w.due ≤ c.cyc) }

@[simp] theorem loopPut_ibad (r : Nat) (v : Word) (c : Cluster) : (loopPut r v c).ibad = c.ibad := reads_ite rfl rfl

@[simp] theorem loopBack_ibad (a : Word) (c : Cluster) : (loopBack a c).ibad = c.ibad :=
  reads_ite (reads_ite ((loopPut_ibad ..).trans (loopPut_ibad ..)) (loopPut_ibad ..)) rfl

@[simp] theorem leaveLoop_ibad (t : Word) (c : Cluster) : (leaveLoop t c).ibad = c.ibad := reads_ite rfl (loopPut_ibad ..)

theorem rsSettle_ibad (d : Nat) (c : Cluster) : (rsSettle d c).ibad = c.ibad := reads_ite rfl rfl

@[simp] theorem dActAt_ibad (d : Nat) (x : DAct) (a : Word) (c : Cluster) : (dActAt d x a c).ibad = c.ibad := by
  cases x with
  | plain => rfl
  | push => exact rsSettle_ibad d c
  | pop => exact rsSettle_ibad d c

@[simp] theorem dAct_ibad (x : DAct) (a : Word) (c : Cluster) : (dAct x a c).ibad = c.ibad := dActAt_ibad ..

@[simp] theorem setIe_ibad (b : Bool) (c : Cluster) : (setIe b c).ibad = c.ibad :=
  setIe_keeps (g := Cluster.ibad) (fun _ _ => rfl) (fun _ _ => rfl) b c

@[simp] theorem abandonAll_ibad (c : Cluster) : (abandonAll c).ibad = c.ibad :=
  foldl_keeps Cluster.ibad (f := fun d k => setAbandon k d) (fun _ _ => rfl) (List.range 8) c

@[simp] theorem stoppedWith_ibad (cause : Nat) (c : Cluster) : (stoppedWith cause c).ibad = c.ibad := rfl

@[simp] theorem windowUp_ibad (c : Cluster) : (windowUp c).ibad = c.ibad :=
  windowUp_eq c ▸ windowIn_keeps (g := Cluster.ibad) (fun _ _ => rfl) c

@[simp] theorem windowDown_ibad (c : Cluster) : (windowDown c).ibad = c.ibad :=
  windowDown_eq c ▸ windowOut_keeps (g := Cluster.ibad) (fun _ _ => rfl) c

@[simp] theorem linkTo_ibad (c : Cluster) : (linkTo c).ibad = c.ibad := rfl

@[simp] theorem entrySwap_ibad (c : Cluster) : (entrySwap c).ibad = c.ibad := rfl

/-! ## States that differ in one cluster alone -/

/-- `t` is `s` but for VCn, no cell of whose instruction store shows an error. -/
def OwnOnly (n : Cl) (s t : State) : Prop := ∃ c : Cluster, c.ibad = [] ∧ t = s.putCl n c

section
variable {n : Cl} {s t : State}

theorem OwnOnly.refl (h : (s.cl n).ibad = []) : OwnOnly n s s := ⟨s.cl n, h, (putCl_cl_same ..).symm⟩

theorem OwnOnly.ibad (h : OwnOnly n s t) : (t.cl n).ibad = [] := by
  obtain ⟨c, hc, rfl⟩ := h
  rw [putCl_cl_self, hc]

theorem OwnOnly.putCl (h : OwnOnly n s t) {d : Cluster} (hd : d.ibad = []) : OwnOnly n s (t.putCl n d) := by
  obtain ⟨c, -, rfl⟩ := h
  exact ⟨d, hd, putCl_putCl ..⟩

theorem OwnOnly.modCl (h : OwnOnly n s t) {f : Cluster → Cluster} (hf : ∀ c, (f c).ibad = c.ibad) :
    OwnOnly n s (t.modCl n f) := by
  rw [modCl_eq]
  exact h.putCl ((hf _).trans h.ibad)

/-! ## Trap entry (R254, R260, R263, R265) -/

theorem OwnOnly.faultStop (h : OwnOnly n s t) (cause : Nat) : OwnOnly n s (faultStop n cause t) := by
  rw [faultStop_eq]
  refine h.putCl ?_
  rw [stoppedWith_ibad, abandonAll_ibad, goTo_ibad, landAll_ibad, h.ibad]

theorem OwnOnly.fastEntry (h : OwnOnly n s t) (vec : Nat) (cause info rpc : Word) :
    OwnOnly n s (fastEntry n vec cause info rpc t) :=
  h.modCl fun c => by
    dsimp only
    rw [goTo_ibad, ioSetBit_ibad, setIe_ibad, ioPut_ibad, ioPut_ibad, ioPut_ibad, ioPut_ibad, landAll_ibad]

theorem OwnOnly.normalEntry (h : OwnOnly n s t) {vec : Nat} {cause info rpc : Word} {u : State}
    (hu : normalEntry n vec cause info rpc t = some u) : OwnOnly n s u := by
  unfold Machine.normalEntry at hu
  dsimp only at hu
  split at hu
  · split at hu
    · cases hu
    · cases hu
      refine h.putCl ?_
      dsimp only
      rw [goTo_ibad, setIe_ibad, ioPut_ibad, ioPut_ibad]
      exact (landAll_ibad _).trans h.ibad
  · cases hu
    exact h.faultStop 1

theorem OwnOnly.syncTrap (h : OwnOnly n s t) {vec slot detail : Nat} {info rpc : Word} {u : State}
    (hu : syncTrap n vec slot detail info rpc t = some u) : OwnOnly n s u := by
  unfold Machine.syncTrap enterVector at hu
  split at hu
  · cases hu
    exact h.faultStop 2
  · split at hu
    · cases hu
      exact h.fastEntry ..
    · exact h.normalEntry hu

/-- A trap that waits for room leaves another state that is the cluster's own. -/
theorem OwnOnly.syncTrap_getD (h : OwnOnly n s t) {u : State} (hu : OwnOnly n s u) (vec slot detail : Nat) (info rpc : Word) :
    OwnOnly n s ((Machine.syncTrap n vec slot detail info rpc t).getD u) := by
  cases htrap : Machine.syncTrap n vec slot detail info rpc t with
  | none => exact hu
  | some v => exact h.syncTrap htrap

theorem OwnOnly.stall (h : OwnOnly n s t) : OwnOnly n s (stall n t) := h.modCl fun _ => rfl

/-! ## Words complete and pass (R225, R231, R234) -/

theorem OwnOnly.wordPass (h : OwnOnly n s t) (k : Nat) (jump : Option Jump) (b : Nat) : OwnOnly n s (wordPass n k jump b t) :=
  h.modCl fun c => by
    cases jump with
    | none =>
      dsimp only
      rw [evcEvent_ibad, landDue_ibad]
      exact loopBack_ibad ..
    | some j =>
      dsimp only
      rw [evcEvent_ibad, landDue_ibad]
      exact reads_ite (g := Cluster.ibad) (leaveLoop_ibad ..) rfl

theorem OwnOnly.wordDone (h : OwnOnly n s t) (k : Nat) (jump : Option Jump) (b : Nat) : OwnOnly n s (wordDone n k jump b t) :=
  (h.wordPass k jump b).modCl fun _ => evcEvent_ibad ..

theorem OwnOnly.pairPass (h : OwnOnly n s t) (b : Nat) : OwnOnly n s (pairPass n b t) :=
  (h.modCl (f := fun c => { c with slotA := none, skipSlotA := false, skipNext := false }) fun _ => rfl).wordPass 1 none b

theorem OwnOnly.pairDone (h : OwnOnly n s t) (a b : List (RegName × RegVal)) (skip : Bool) (jump : Option Jump) (k : Nat) :
    OwnOnly n s (pairDone n a b skip jump k t) :=
  (h.modCl (f := fun c => { dueAdd 1 (a ++ b) c with slotA := none, skipSlotA := false, skipNext := skip })
    fun _ => rfl).wordDone
    1 jump k

theorem OwnOnly.closePair (h : OwnOnly n s t) : OwnOnly n s (closePair n t) := by
  unfold Machine.closePair
  dsimp only
  split
  · exact h
  · split
    · exact h.pairPass 0
    · exact h.pairDone ..

theorem OwnOnly.cancelled (h : OwnOnly n s t) (k : Nat) (b : Word) : OwnOnly n s (cancelled n k b t) :=
  h.modCl fun _ => evcEvent_ibad ..

theorem OwnOnly.wrongPath (h : OwnOnly n s t) (a : Word) : OwnOnly n s (wrongPath n a t) := by
  unfold Machine.wrongPath
  dsimp only
  split
  · exact (h.cancelled ..).modCl fun _ => dActAt_ibad ..
  · exact h.cancelled ..

theorem OwnOnly.branchPath (h : OwnOnly n s t) (a target : Word) (taken hint : Bool) :
    OwnOnly n s (branchPath n a target taken hint t) := by
  have hmiss : OwnOnly n s (t.modCl n (evcEvent 0x05 1)) := h.modCl fun _ => evcEvent_ibad ..
  unfold Machine.branchPath
  dsimp only
  split
  · exact h
  · split
    · exact hmiss.cancelled ..
    · exact hmiss.wrongPath a

/-! ## Words issue (R213, R215, R220, R255, R259) -/

theorem OwnOnly.issueGate (h : OwnOnly n s t) (k : Nat) : OwnOnly n s (issueGate n k t).2 := by
  unfold Machine.issueGate
  dsimp only
  split
  case h_1 u hu =>
    obtain ⟨f, -, rfl⟩ := Option.map_eq_some_iff.mp hu
    exact OwnOnly.syncTrap_getD (h.modCl (f := fun c => { c with lateFault := none }) fun _ => rfl) h ..
  case h_2 =>
    split
    · exact h.syncTrap_getD h ..
    · split
      · exact h
      · split
        · exact h
        · rw [fetchWords_clean h.ibad]
          exact h

/-- What a word's meaning leaves is VCn's own. -/
def SeqRes.OwnOnly (n : Cl) (s : State) : SeqRes → Prop
  | .hold => True
  | .trap _ _ _ _ t => Machine.OwnOnly n s t
  | .done t _ _ _ => Machine.OwnOnly n s t
  | .whole t => Machine.OwnOnly n s t

theorem OwnOnly.wordEnd (h : OwnOnly n s t) {r : SeqRes} (hr : r.OwnOnly n s) (k : Nat) (a : Word) :
    OwnOnly n s (wordEnd n k a t r) := by
  cases r with
  | hold => exact h.stall
  | trap vec slot detail info u =>
    have hu : OwnOnly n s u := hr
    exact (hu.modCl fun _ => evcEvent_ibad ..).syncTrap_getD h.stall ..
  | done u jump b fp =>
    have hu : OwnOnly n s u := hr
    cases fp with
    | none => exact hu.wordDone k jump b
    | some detail =>
      refine OwnOnly.syncTrap_getD ?_ h.stall ..
      split
      · exact hu.modCl fun _ => evcEvent_ibad ..
      · exact hu.wordDone k jump b
  | whole u => exact hr

theorem OwnOnly.issueWord (h : OwnOnly n s t) {w : WordInfo} (hfp : w.fp = false) {f : Word → State → SeqRes}
    (hf : ∀ p u, OwnOnly n s u → (f p u).OwnOnly n s) : OwnOnly n s (issueWord n w f t) := by
  have hpair := h.closePair
  have hgate := hpair.issueGate w.cycles
  unfold Machine.issueWord
  dsimp only
  split
  · exact h
  · split
    · exact hpair
    · split
      · exact (hpair.modCl (f := fun d => { (dAct w.act d.pc d) with skipNext := false }) fun _ => dAct_ibad ..).wordPass ..
      · split
        · exact hgate
        · rw [hfp, Bool.false_and, if_neg Bool.false_ne_true]
          exact hgate.wordEnd (hf _ _ (hgate.modCl fun _ => dAct_ibad ..)) ..

theorem OwnOnly.issue (h : OwnOnly n s t) {w : WordInfo} (hfp : w.fp = false) {f : Word → State → SeqRes}
    (hf : ∀ p u, OwnOnly n s u → (f p u).OwnOnly n s) : OwnOnly n s (issue n w f t) := by
  unfold Machine.issue
  split
  · exact h
  · exact h.issueWord hfp hf

theorem OwnOnly.slotWord (h : OwnOnly n s t) (sl : Slot) (f : Cluster → List (RegName × RegVal) × Bool) :
    OwnOnly n s (slotWord n sl f t) := by
  have hpair := h.closePair
  unfold Machine.slotWord
  split
  · exact h
  · cases sl with
    | a =>
      dsimp only
      split
      · exact hpair
      · split
        · exact hpair.putCl hpair.ibad
        · split
          · exact hpair.issueGate 1
          · exact (hpair.issueGate 1).putCl (hpair.issueGate 1).ibad
    | b =>
      dsimp only
      split
      · exact h.pairPass 0
      · split
        · exact h.issueGate 1
        · exact (h.issueGate 1).pairDone ..

theorem OwnOnly.brsWord (h : OwnOnly n s t) (cond : Cond) (sf : Fin 8) (hint : Bool) :
    OwnOnly n s (brsWord n cond sf hint t) := by
  unfold Machine.brsWord
  dsimp only
  split
  · exact h
  · split
    · exact h.pairPass _
    · split
      · exact h.issueGate 1
      · exact ((h.issueGate 1).branchPath ..).pairDone ..

theorem OwnOnly.vsyncWord (h : OwnOnly n s t) : OwnOnly n s (vsyncWord n t) := by
  have hgo : ∀ (p : Word) u, OwnOnly n s u → (SeqRes.go u).OwnOnly n s := fun _ _ hu => hu
  unfold Machine.vsyncWord
  dsimp only
  split
  · split
    · exact h
    · exact OwnOnly.issueWord (w := {}) (h.modCl (f := fun c => { c with vsync := none }) fun _ => rfl) rfl hgo
  · split
    · exact h.closePair.putCl h.closePair.ibad
    · exact h.issueWord (w := {}) rfl hgo

/-! ## Meanings of words -/

theorem OwnOnly.bcRes (h : OwnOnly n s t) (cond : Cond) (hint : Bool) (off : BitVec 12) :
    (bcRes n cond hint off t).OwnOnly n s :=
  h.branchPath ..

theorem OwnOnly.callRes (h : OwnOnly n s t) (target : Word) (b : Nat) : (callRes n target b t).OwnOnly n s := by
  unfold Machine.callRes
  dsimp only
  split
  · split
    · exact h
    · trivial
  · exact h.modCl fun _ => (windowUp_ibad _).trans (linkTo_ibad _)

theorem ownOnly_afterWrongPath {r : SeqRes} (h : r.OwnOnly n s) (a : Word) : (afterWrongPath n a r).OwnOnly n s := by
  cases r with
  | done u j b f => exact OwnOnly.wrongPath h a
  | hold => exact h
  | trap => exact h
  | whole => exact h

theorem OwnOnly.returnTo (h : OwnOnly n s t) (p : Word) (popped : Bool) {f : Cluster → Cluster}
    (hf : ∀ c, (f c).ibad = c.ibad) :
    (returnTo n p popped f t).OwnOnly n s := by
  have hmiss : OwnOnly n s (t.modCl n (evcEvent 0x06 1)) := h.modCl fun _ => evcEvent_ibad ..
  unfold Machine.returnTo
  refine OwnOnly.modCl ?_ hf
  cases decide (p = xGet (t.cl n) 14) with
  | true => exact h
  | false =>
    cases popped with
    | true => exact hmiss.cancelled ..
    | false => exact hmiss.wrongPath ..

theorem OwnOnly.retRes (h : OwnOnly n s t) (p : Word) (popped : Bool) : (retRes n p popped t).OwnOnly n s := by
  unfold Machine.retRes
  dsimp only
  split
  · split
    · exact h
    · split
      · trivial
      · exact h.modCl fun _ => ioSetBit_ibad ..
  · exact h.returnTo p popped windowDown_ibad

theorem OwnOnly.loopRes (h : OwnOnly n s t) (count : Word) (len word : Nat) : (loopRes n count len word t).OwnOnly n s := by
  have hput : ∀ (active : Bool) (c : Cluster), ({ ioPut 0x4 count (ioPut 0x5 (setFld 13 0 ((t.cl n).pc.toNat + 1) 0)
      (ioPut 0x6 (setBit 23 active (setFld 13 0 ((t.cl n).pc.toNat + len) 0)) c)) with loopLag := [] } : Cluster).ibad =
        c.ibad :=
    fun active c => by
      dsimp only
      rw [ioPut_ibad, ioPut_ibad, ioPut_ibad]
  unfold Machine.loopRes
  dsimp only
  split
  · exact h
  · split
    · exact h.modCl (hput false)
    · exact h.modCl (hput true)

theorem OwnOnly.sysRes (h : OwnOnly n s t) (service : BitVec 9) : (sysRes n service t).OwnOnly n s := by
  unfold Machine.sysRes
  dsimp only
  split
  · exact h
  · split
    · exact h
    · refine h.modCl fun _ => ?_
      rw [ioSetBit_ibad, entrySwap_ibad, ioPut_ibad, ioPut_ibad]

theorem OwnOnly.sretRes (h : OwnOnly n s t) : (sretRes n t).OwnOnly n s := by
  unfold Machine.sretRes
  dsimp only
  split
  · exact h
  · refine h.modCl fun _ => ?_
    rw [ioSetBit_ibad, entrySwap_ibad]

theorem OwnOnly.trdRes (h : OwnOnly n s t) (rd rs : Reg) (imm : BitVec 9) : (trdRes n rd rs imm t).OwnOnly n s := by
  have hclean : ∀ a, istoreRead n a t = (true, t) := fun a => by rw [istoreRead, h.ibad]; rfl
  unfold Machine.trdRes
  dsimp only
  split
  · exact h
  · split
    · exact h
    · rw [hclean, if_pos rfl]
      exact h.modCl fun _ => dueAdd_ibad ..

theorem OwnOnly.cpermRes (h : OwnOnly n s t) (cd cs rt : Reg) : (cpermRes n cd cs rt t).OwnOnly n s := by
  unfold Machine.cpermRes
  dsimp only
  split
  · exact h
  · exact h.modCl fun _ => dueAdd_ibad ..

theorem OwnOnly.cbndRes (h : OwnOnly n s t) (cd cs rt : Reg) (sc : Nat) : (cbndRes n cd cs rt sc t).OwnOnly n s := by
  unfold Machine.cbndRes
  dsimp only
  split
  · exact h
  · split
    · exact h
    · split
      · exact h
      · exact h.modCl fun _ => dueAdd_ibad ..

/-- SYNC (R230). -/
theorem OwnOnly.drained (h : OwnOnly n s t) : (if (t.cl n).sbuf.isEmpty then SeqRes.go t else .hold).OwnOnly n s := by
  split
  · exact h
  · trivial

/-- A word that is illegal for some of its fields. -/
theorem OwnOnly.legal {p : Prop} [Decidable p] (h : OwnOnly n s t) {w : Nat} {r : SeqRes} (hr : r.OwnOnly n s) :
    (if p then illegal w t else r).OwnOnly n s := by
  split
  · exact h
  · exact hr

end

section
variable {n : Cl} {s : State} (h : OwnOnly n s s)

theorem OwnOnly.next {t : State} (ht : OwnOnly n s t) : ∃ c, (Host.Outcome.next t : Out) = .next (s.putCl n c) := by
  obtain ⟨c, -, rfl⟩ := ht
  exact ⟨c, rfl⟩

include h

theorem OwnOnly.issue_next {w : WordInfo} (hfp : w.fp = false) {f : Word → State → SeqRes}
    (hf : ∀ p u, OwnOnly n s u → (f p u).OwnOnly n s) :
    ∃ c, (Host.Outcome.next (Machine.issue n w f s) : Out) = .next (s.putCl n c) :=
  (h.issue hfp hf).next

theorem OwnOnly.slotWord_next (sl : Slot) (f : Cluster → List (RegName × RegVal) × Bool) :
    ∃ c, (Host.Outcome.next (Machine.slotWord n sl f s) : Out) = .next (s.putCl n c) :=
  (h.slotWord sl f).next

theorem OwnOnly.regWord_next (k : Nat) {w : WordInfo} (hfp : w.fp = false) (f : Cluster → List (RegName × RegVal)) :
    ∃ c, regWord n k w f s = .next (s.putCl n c) :=
  h.issue_next hfp (f := fun _ t => .go (t.modCl n fun c => dueAdd k (f c) c)) fun _ _ hu => hu.modCl fun _ => dueAdd_ibad ..

end

end Sys2Proof.Machine

namespace Sys2Proof.Proofs

open Sys2Proof.Machine Sys2Proof.Claims

/-- Settles O7: every step of a word's issue, of each word's meaning and of a trap's entry changes VCn alone. -/
theorem plainWordsStayInTheirCluster : Obligations.PlainWordsStayInTheirCluster := by
  unfold Obligations.PlainWordsStayInTheirCluster
  intro n sl rd rs rt sf cond hint imm b5 w w4 off o12 b8 s hcells
  have h := OwnOnly.refl hcells
  simp only [List.forall_mem_cons]
  refine ⟨h.slotWord_next sl _, h.slotWord_next sl _, h.slotWord_next sl _, h.slotWord_next sl _, h.slotWord_next sl _,
    (h.brsWord cond sf hint).next, h.regWord_next 1 rfl _, h.regWord_next 1 rfl _, h.regWord_next 1 rfl _,
    h.regWord_next 1 rfl _, h.regWord_next 1 rfl _, h.regWord_next 1 rfl _, ?bra, ?bc, ?call, ?link, ?jr, ?callr, ?linkr, ?ret,
    ?retl, ?skip, ?skb, ?loop, ?loopi, ?sys, ?sret, ?clrIe, ?setIe, ?wait, h.vsyncWord.next, ?sync, ?trd, ?drd, ?dwr,
    h.regWord_next 1 rfl _, h.regWord_next 1 rfl _, h.regWord_next 1 rfl _, ?cperm, ?cbnd, ?crd, List.forall_mem_nil _⟩
  case bra => exact h.issue_next rfl fun _ _ hu => hu
  case bc => exact h.issue_next rfl fun _ _ hu => hu.bcRes ..
  case call => exact h.issue_next rfl fun _ _ hu => hu.callRes ..
  case link => exact h.issue_next rfl fun _ _ hu => hu.modCl linkTo_ibad
  case jr => exact h.issue_next rfl fun _ _ hu => hu.wrongPath _
  case callr => exact h.issue_next rfl fun _ _ hu => ownOnly_afterWrongPath (hu.callRes ..) _
  case linkr => exact h.issue_next rfl fun _ _ hu => (hu.modCl linkTo_ibad).wrongPath _
  case ret => exact h.issue_next rfl fun _ _ hu => hu.retRes ..
  case retl => exact h.issue_next rfl fun _ _ hu => hu.returnTo _ _ fun _ => rfl
  case skip => exact h.issue_next rfl fun _ _ hu => hu.modCl fun _ => rfl
  case skb => exact h.issue_next rfl fun _ _ hu => hu.legal (hu.modCl fun _ => rfl)
  case loop => exact h.issue_next rfl fun _ _ hu => hu.loopRes ..
  case loopi => exact h.issue_next rfl fun _ _ hu => hu.loopRes ..
  case sys => exact h.issue_next rfl fun _ _ hu => hu.sysRes _
  case sret => exact h.issue_next rfl fun _ _ hu => hu.sretRes
  case clrIe => exact h.issue_next rfl fun _ _ hu => hu.modCl (setIe_ibad false)
  case setIe => exact h.issue_next rfl fun _ _ hu => hu.modCl (setIe_ibad true)
  case wait => exact h.issue_next rfl fun _ _ hu => hu.modCl fun _ => rfl
  case sync => exact h.issue_next rfl fun _ _ hu => hu.drained
  case trd => exact h.issue_next rfl fun _ _ hu => hu.trdRes ..
  case drd => exact h.issue_next rfl fun _ _ hu => hu.legal (hu.modCl fun _ => dueAdd_ibad ..)
  case dwr => exact h.issue_next rfl fun _ _ hu => hu.legal (hu.modCl fun _ => dueAdd_ibad ..)
  case cperm => exact h.issue_next rfl fun _ _ hu => hu.cpermRes ..
  case cbnd => exact h.issue_next rfl fun _ _ hu => hu.cbndRes ..
  case crd => exact h.issue_next rfl fun _ _ hu => hu.legal (hu.modCl fun _ => dueAdd_ibad ..)

end Sys2Proof.Proofs
end
